-- ==== Sys2Proof/Word.lean ====
section
/-!
DEFINITION. The machine's word types and their plainest arithmetic (R14, R17, R40).
-/

namespace Sys2Proof

/-- A 64-bit general register value (R34). -/
abbrev Word := BitVec 64

/-- One byte of memory. -/
abbrev Byte := BitVec 8

/-- A 512-bit vector register value (R34, R115). -/
abbrev VWord := BitVec 512

/-- General register number `g0`-`g31` (R66). -/
abbrev GReg := Fin 32
/-- Vector register number `v0`-`v31` (R66). -/
abbrev VReg := Fin 32
/-- Mask register number `m0`-`m3` (R66). -/
abbrev MReg := Fin 4
/-- Reference register number `h0`-`h7` (R66). -/
abbrev HReg := Fin 8
/-- Accumulator bank number (R66). -/
abbrev Acc := Fin 2
/-- Drain program slot number `p0`-`p15` (R66). -/
abbrev PSlot := Fin 16
/-- Drain lane register number `d0`-`d7` (R79). -/
abbrev DReg := Fin 8
/-- Row scratch register number `rs0`-`rs3` (R211). -/
abbrev RsReg := Fin 4

end Sys2Proof
end

