-- ==== Sys2Proof/Syntax.lean ====
section
/-!
DEFINITION. The syntax of the Vorter's steps: one constructor of `Instr` for every row of the opcode table.

Three kinds of row stand in the table: instructions of Jardom (R65-R78), drain micro-ops (R79, R216), and the
machine's own steps, which have no encoding. A step's arguments say WHICH of the enabled steps takes place (a
core, a message, a journal entry) or what comes from outside the module; the state holds everything else.
-/

namespace Sys2Proof

/-- Condition codes 0000-1011 (R69). -/
inductive Cond where
  | eq | ne | lt | ge | ltn | gen | le | gt | len | gtn | bs | bc
deriving DecidableEq, Repr, Inhabited

/-- Float and integer comparison of `vcmp` and the drain's `cmp` (R123, R216). -/
inductive VCond where
  | eq | ne | lt | ge | le | gt
deriving DecidableEq, Repr, Inhabited

/-- Access size of the Mem format; sz 111 is reserved and has no name (R68). -/
inductive Sz where
  | i8 | n8 | i16 | n16 | i32 | n32 | d64
deriving DecidableEq, Repr, Inhabited

/-- Width of an atomic (R72). -/
inductive AWidth where
  | w32 | w64
deriving DecidableEq, Repr, Inhabited

/-- Vector element types; the reserved pairs of R75 have no name. -/
inductive VTy where
  | i8 | i16 | i32 | i64 | n8 | n16 | n32 | n64 | f16 | bf16 | f32 | e4m3 | e5m2
deriving DecidableEq, Repr, Inhabited

/-- Element types of the drain's `lds` and `st` (R217). -/
inductive DTy where
  | f32 | bf16 | f16 | e4m3 | e5m2 | i8
deriving DecidableEq, Repr, Inhabited

/-- The uncorrectable errors of R338, R364 and R368, each in state that one context owns. -/
inductive MachErr where
  /-- a core's thread state -/
  | coreState (core : Nat)
  /-- a Bugle's offer store: the home and the position of the affected event -/
  | bugleStore (home idx : Nat)
  /-- a frame in a deque -/
  | dequeEntry (core idx : Nat)
  /-- the join state held at a Bugle -/
  | joinCount (home idx : Nat)
  /-- a datum of a line at a boundary of R400 -/
  | line (line : Nat)
deriving DecidableEq, Repr, Inhabited

/-- Pod-scope event traffic (R140): what a party's Vorter sends to the event host, with the party's `sync` sequence, and what
the event host sends to a party of this Vorter, named by its global thread number. -/
inductive PodEv where
  /-- every message names the event: name, and instance of its scope domain (R138) -/
  | offer (name : Word) (inst : Nat) (ctl rt : Word) (seq : BitVec 8)
  | withdraw (name : Word) (inst : Nat) (seq : BitVec 8)
  | grant (name : Word) (inst : Nat)
  | deny (name : Word) (inst : Nat) (seq : BitVec 8)
  /-- the send data read at the commit -/
  | sendData (name : Word) (inst index data : Nat)
  | ack (name : Word) (inst : Nat)
  | claim (name : Word) (inst age gtn : Nat) (seq : BitVec 8)
  | commit (name : Word) (inst : Nat) (ctl : Word) (gtn index : Nat)
  | release (name : Word) (inst gtn : Nat)
  | delivery (name : Word) (inst : Nat) (ctl rt : Word) (gtn data : Nat)
  /-- a trap that ends a party's `sync`: its KIND code -/
  | trapped (gtn : Nat) (seq : BitVec 8) (kind : Nat)
deriving DecidableEq, Repr, Inhabited

/-- The operation of an inbound pod request (R386, R387). -/
inductive PodOp where
  | read (n : Nat)
  | write (bytes : List Byte)
  /-- an atomic: operation code of R72, width, natural order, operand, comparand -/
  | atomic (op : Fin 8) (w : AWidth) (nat : Bool) (x cmp : Word)
  /-- pod-scope event traffic -/
  | event (e : PodEv)
deriving DecidableEq, Repr, Inhabited

/-- A request that arrives at a UALink port (R387): port, sending member and its global thread, tenant key, pod address,
operation. -/
structure PodReq where
  port : Nat
  memb : Nat
  src  : Nat
  key  : BitVec 32
  addr : Nat
  op   : PodOp
deriving DecidableEq, Repr, Inhabited

/-- What an agent's step acts on, by number, and the units of it that the step leaves to a later one (R255). -/
structure Portion where
  no   : Nat
  skip : List Nat
deriving DecidableEq, Repr, Inhabited

/-- A cycle of a core's drain unit: whether a row enters the pipe, and the source locations that it leaves to a later read (R212). -/
structure Admission where
  core   : Nat
  enters : Bool
  leave  : List Nat
deriving DecidableEq, Repr, Inhabited

/-- One constructor per row of the opcode table. -/
inductive Instr where
  /-- ADD (R94). Writes the 64-bit wrapping sum of two general registers. -/
  | add (d a b : GReg)
  /-- SUB (R94). Writes the 64-bit wrapping difference of two general registers. -/
  | sub (d a b : GReg)
  /-- AND (R94). Writes the bitwise AND of two general registers. -/
  | and (d a b : GReg)
  /-- OR (R94). Writes the bitwise OR of two general registers. -/
  | or (d a b : GReg)
  /-- XOR (R94). Writes the bitwise XOR of two general registers. -/
  | xor (d a b : GReg)
  /-- ANDN (R94). Writes a AND NOT b. -/
  | andn (d a b : GReg)
  /-- SLL (R94). Shifts left by b[5:0] with zero fill. -/
  | sll (d a b : GReg)
  /-- SRL (R94). Shifts right by b[5:0] with zero fill. -/
  | srl (d a b : GReg)
  /-- SRA (R94). Shifts right by b[5:0], filling with the sign bit. -/
  | sra (d a b : GReg)
  /-- MUL (R94). Writes the low 64 bits of the product. -/
  | mul (d a b : GReg)
  /-- MULH (R94). Writes the high 64 bits of the signed 128-bit product. -/
  | mulh (d a b : GReg)
  /-- MULHN (R94). Writes the high 64 bits of the natural 128-bit product. -/
  | mulhn (d a b : GReg)
  /-- DIV (R94). Writes the two's-complement quotient by R42. -/
  | div (d a b : GReg)
  /-- DIVN (R94). Writes the natural quotient by R42. -/
  | divn (d a b : GReg)
  /-- REM (R94). Writes the two's-complement remainder by R42. -/
  | rem (d a b : GReg)
  /-- REMN (R94). Writes the natural remainder by R42. -/
  | remn (d a b : GReg)
  /-- SLT (R94). Writes 1 when a < b in two's complement, otherwise 0. -/
  | slt (d a b : GReg)
  /-- SLTN (R94). Writes 1 when a < b as natural numbers, otherwise 0. -/
  | sltn (d a b : GReg)
  /-- MIN (R94). Writes the smaller value in two's complement. -/
  | min (d a b : GReg)
  /-- MAX (R94). Writes the larger value in two's complement. -/
  | max (d a b : GReg)
  /-- MINN (R94). Writes the smaller natural value. -/
  | minn (d a b : GReg)
  /-- MAXN (R94). Writes the larger natural value. -/
  | maxn (d a b : GReg)
  /-- CLZ (R94). Counts leading zero bits, giving 64 for zero. -/
  | clz (d a : GReg)
  /-- CTZ (R94). Counts trailing zero bits, giving 64 for zero. -/
  | ctz (d a : GReg)
  /-- POPC (R94). Counts the one bits. -/
  | popc (d a : GReg)
  /-- EXT_I8 (R94). Sign-extends the low 8 bits. -/
  | extI8 (d a : GReg)
  /-- EXT_N8 (R94). Zero-extends the low 8 bits. -/
  | extN8 (d a : GReg)
  /-- EXT_I16 (R94). Sign-extends the low 16 bits. -/
  | extI16 (d a : GReg)
  /-- EXT_N16 (R94). Zero-extends the low 16 bits. -/
  | extN16 (d a : GReg)
  /-- EXT_I32 (R94). Sign-extends the low 32 bits. -/
  | extI32 (d a : GReg)
  /-- EXT_N32 (R94). Zero-extends the low 32 bits. -/
  | extN32 (d a : GReg)
  /-- ADDI (R95). Adds a sign-extended 16-bit immediate. -/
  | addi (d a : GReg) (imm : BitVec 16)
  /-- ANDI (R95). ANDs with a sign-extended immediate. -/
  | andi (d a : GReg) (imm : BitVec 16)
  /-- ORI (R95). ORs with a sign-extended immediate. -/
  | ori (d a : GReg) (imm : BitVec 16)
  /-- XORI (R95). XORs with a sign-extended immediate. -/
  | xori (d a : GReg) (imm : BitVec 16)
  /-- SLLI (R95). Shifts left by an immediate count with zero fill. -/
  | slli (d a : GReg) (sh : Fin 64)
  /-- SRLI (R95). Shifts right by an immediate count with zero fill. -/
  | srli (d a : GReg) (sh : Fin 64)
  /-- SRAI (R95). Shifts right by an immediate count with sign fill. -/
  | srai (d a : GReg) (sh : Fin 64)
  /-- SLTI (R95). Writes 1 when G[a] is below the immediate in two's complement. -/
  | slti (d a : GReg) (imm : BitVec 16)
  /-- SLTNI (R95). Writes 1 when G[a] is below the sign-extended immediate as natural numbers. -/
  | sltni (d a : GReg) (imm : BitVec 16)
  /-- LUI (R95). Writes the immediate times 65536. -/
  | lui (d : GReg) (imm : BitVec 16)
  /-- ADDPC (R95). Writes PC + 4 + 4 times the immediate. -/
  | addpc (d : GReg) (imm : BitVec 16)
  /-- SKIP_REG (R96). Compares two registers and, when the condition holds, passes over 1-3 instructions and annuls as many turns. -/
  | skipReg (cc : Cond) (a b : GReg) (n : Fin 4)
  /-- SKIP_IMM (R96). Compares a register with a 14-bit immediate and, when the condition holds, passes over 1-3 instructions. -/
  | skipImm (cc : Cond) (a : GReg) (imm : BitVec 14) (n : Fin 4)
  /-- BR (R97). Branches by a word offset when a register compared with zero meets the condition. -/
  | br (cc : Cond) (a : GReg) (off : BitVec 16)
  /-- J (R97). Jumps by a 26-bit word offset. -/
  | j (off : BitVec 26)
  /-- CALL (R97). Writes PC + 4 to g31 and jumps by a 26-bit word offset. -/
  | call (off : BitVec 26)
  /-- JR (R99). Jumps to the address in a register, trapping ALIGN when it is not word aligned. -/
  | jr (a : GReg)
  /-- CALLR (R99). Writes the link to gD and jumps to the address in gA. -/
  | callr (d a : GReg)
  /-- LD (R100). Loads and extends 1-8 bytes, completing in the rotation for the direct range and otherwise beginning the load wait. -/
  | ld (d a : GReg) (sz : Sz) (imm : BitVec 13)
  /-- ST (R101). Stores 1-8 bytes, at once in the direct range and otherwise posted through a journal entry. -/
  | st (d a : GReg) (sz : Sz) (imm : BitVec 13)
  /-- ATOM_SWAP (R104). Atomically swaps memory with a register and returns the old value. -/
  | atomSwap (d a b : GReg) (wd : AWidth)
  /-- ATOM_ADD (R104). Atomically adds to memory and returns the old value. -/
  | atomAdd (d a b : GReg) (wd : AWidth)
  /-- ATOM_AND (R104). Atomically ANDs into memory and returns the old value. -/
  | atomAnd (d a b : GReg) (wd : AWidth)
  /-- ATOM_OR (R104). Atomically ORs into memory and returns the old value. -/
  | atomOr (d a b : GReg) (wd : AWidth)
  /-- ATOM_XOR (R104). Atomically XORs into memory and returns the old value. -/
  | atomXor (d a b : GReg) (wd : AWidth)
  /-- ATOM_MAX (R104). Atomically keeps the larger value, signed or natural, and returns the old value. -/
  | atomMax (d a b : GReg) (wd : AWidth) (nat : Bool)
  /-- ATOM_MIN (R104). Atomically keeps the smaller value, signed or natural, and returns the old value. -/
  | atomMin (d a b : GReg) (wd : AWidth) (nat : Bool)
  /-- ATOM_CAS (R104). Atomically writes the new value when memory equals G[d] and returns the old value. -/
  | atomCas (d a b : GReg) (wd : AWidth)
  /-- PIN_L (R107). Allocates the line in the first-level cache or pool, marks it pinned and starts a fill without waiting. -/
  | pinL (a : GReg)
  /-- UNPIN_L (R107). Clears the pin mark of the line. -/
  | unpinL (a : GReg)
  /-- FLUSH (R107). Writes the line's dirty stash sectors back and keeps the line owned. -/
  | flush (a : GReg)
  /-- INVAL (R107). Writes back dirty stash sectors, gives up the line and drops the first-level copy. -/
  | inval (a : GReg)
  /-- PREF (R107). Starts a fill of the line into the first-level cache without waiting and without raising anything. -/
  | pref (a : GReg)
  /-- CRR (R73). Reads a control register into a general register. -/
  | crr (d : GReg) (crn : BitVec 12)
  /-- CRW (R73). Writes a control register from a general register, under the field access codes. -/
  | crw (a : GReg) (crn : BitVec 12)
  /-- CRS (R73). Reads a control register and sets the bits given in G[a], indivisibly. -/
  | crs (d a : GReg) (crn : BitVec 12)
  /-- CRC (R73). Reads a control register and clears the bits given in G[a], indivisibly. -/
  | crc (d a : GReg) (crn : BitVec 12)
  /-- NOP (R111). Does nothing. -/
  | nop
  /-- TRAP (R111). Raises SYSCALL with n in the fault record. -/
  | trap (n : BitVec 8)
  /-- ERET (R113). Returns a Setter-core thread to its stored trapping instruction. -/
  | eret
  /-- HALT (R112). Frees the thread and aborts its kernel. -/
  | halt
  /-- YIELD (R111). Makes the thread's next turn an annulled turn. -/
  | yield
  /-- BRK (R111). Raises BREAK to the debugger or the fault service. -/
  | brk (n : BitVec 8)
  /-- FACK_RESUME (R114). Sends a resume acknowledgement to a latched thread, once earlier posted stores are settled. -/
  | fackResume (a : GReg)
  /-- FACK_SKIP (R114). Sends a skip acknowledgement to a latched thread. -/
  | fackSkip (a : GReg)
  /-- FACK_KILL (R114). Sends a kill acknowledgement to a latched thread. -/
  | fackKill (a : GReg)
  /-- VADD (R120). Adds vector lanes. -/
  | vadd (d a b : VReg) (m : MReg) (ty : VTy)
  /-- VSUB (R120). Subtracts vector lanes. -/
  | vsub (d a b : VReg) (m : MReg) (ty : VTy)
  /-- VMUL (R120). Multiplies vector lanes. -/
  | vmul (d a b : VReg) (m : MReg) (ty : VTy)
  /-- VMIN (R120). Takes the smaller of lanes. -/
  | vmin (d a b : VReg) (m : MReg) (ty : VTy)
  /-- VMAX (R120). Takes the larger of lanes. -/
  | vmax (d a b : VReg) (m : MReg) (ty : VTy)
  /-- VCLAMP (R120). Clamps each lane of vD between lanes of vA and vB. -/
  | vclamp (d a b : VReg) (m : MReg) (ty : VTy)
  /-- VABS (R120). Takes the absolute value of lanes. -/
  | vabs (d a : VReg) (m : MReg) (ty : VTy)
  /-- VNEG (R120). Negates lanes. -/
  | vneg (d a : VReg) (m : MReg) (ty : VTy)
  /-- VAND (R120). Bitwise AND of lanes. -/
  | vand (d a b : VReg) (m : MReg) (ty : VTy)
  /-- VOR (R120). Bitwise OR of lanes. -/
  | vor (d a b : VReg) (m : MReg) (ty : VTy)
  /-- VXOR (R120). Bitwise XOR of lanes. -/
  | vxor (d a b : VReg) (m : MReg) (ty : VTy)
  /-- VSLL (R120). Shifts lanes left with zero fill. -/
  | vsll (d a b : VReg) (m : MReg) (ty : VTy)
  /-- VSRL (R120). Shifts lanes right with zero fill. -/
  | vsrl (d a b : VReg) (m : MReg) (ty : VTy)
  /-- VSRA (R120). Shifts lanes right with sign fill. -/
  | vsra (d a b : VReg) (m : MReg) (ty : VTy)
  /-- VRCP (R121). Takes the correctly rounded reciprocal of float lanes. -/
  | vrcp (d a : VReg) (m : MReg) (ty : VTy)
  /-- VRSQ (R121). Takes the correctly rounded reciprocal square root of float lanes. -/
  | vrsq (d a : VReg) (m : MReg) (ty : VTy)
  /-- VSQRT (R121). Takes the correctly rounded square root of float lanes. -/
  | vsqrt (d a : VReg) (m : MReg) (ty : VTy)
  /-- VEXP2 (R121). Takes the correctly rounded 2^x of float lanes. -/
  | vexp2 (d a : VReg) (m : MReg) (ty : VTy)
  /-- VLOG2 (R121). Takes the correctly rounded log2 of float lanes. -/
  | vlog2 (d a : VReg) (m : MReg) (ty : VTy)
  /-- VDIV (R120). Divides lanes, integer by R42 or float correctly rounded. -/
  | vdiv (d a b : VReg) (m : MReg) (ty : VTy)
  /-- VADDS (R120). Adds integer lanes with saturation. -/
  | vadds (d a b : VReg) (m : MReg) (ty : VTy)
  /-- VSUBS (R120). Subtracts integer lanes with saturation. -/
  | vsubs (d a b : VReg) (m : MReg) (ty : VTy)
  /-- VFMA (R122). Computes z + x*y per lane with one rounding. -/
  | vfma (d a b : VReg) (m : MReg) (ty : VTy)
  /-- VFMS (R122). Computes x*y - z per lane with one rounding. -/
  | vfms (d a b : VReg) (m : MReg) (ty : VTy)
  /-- VNFMA (R122). Computes z - x*y per lane with one rounding. -/
  | vnfma (d a b : VReg) (m : MReg) (ty : VTy)
  /-- VCMP_EQ (R123). Writes a mask of active lanes that are equal. -/
  | vcmpEq (d : MReg) (a b : VReg) (m : MReg) (ty : VTy)
  /-- VCMP_NE (R123). Writes a mask of active lanes that are unequal. -/
  | vcmpNe (d : MReg) (a b : VReg) (m : MReg) (ty : VTy)
  /-- VCMP_LT (R123). Writes a mask of active lanes where a < b. -/
  | vcmpLt (d : MReg) (a b : VReg) (m : MReg) (ty : VTy)
  /-- VCMP_GE (R123). Writes a mask of active lanes where a >= b. -/
  | vcmpGe (d : MReg) (a b : VReg) (m : MReg) (ty : VTy)
  /-- VCMP_LE (R123). Writes a mask of active lanes where a <= b. -/
  | vcmpLe (d : MReg) (a b : VReg) (m : MReg) (ty : VTy)
  /-- VCMP_GT (R123). Writes a mask of active lanes where a > b. -/
  | vcmpGt (d : MReg) (a b : VReg) (m : MReg) (ty : VTy)
  /-- VSEL (R124). Selects each lane from vA or vB by the mask. -/
  | vsel (d a b : VReg) (m : MReg) (ty : VTy)
  /-- MAND (R125). ANDs two mask registers. -/
  | mand (d a b : MReg)
  /-- MOR (R125). ORs two mask registers. -/
  | mor (d a b : MReg)
  /-- MXOR (R125). XORs two mask registers. -/
  | mxor (d a b : MReg)
  /-- MNOT (R125). Inverts a mask register. -/
  | mnot (d a : MReg)
  /-- VPERM (R126). Permutes lanes of vA by indices in vB. -/
  | vperm (d a b : VReg) (m : MReg) (ty : VTy)
  /-- VSLUP (R126). Slides lanes of vA up by G[b]. -/
  | vslup (d a : VReg) (b : GReg) (m : MReg) (ty : VTy)
  /-- VSLDN (R126). Slides lanes of vA down by G[b]. -/
  | vsldn (d a : VReg) (b : GReg) (m : MReg) (ty : VTy)
  /-- VZIP (R126). Interleaves low lanes of vA and vB. -/
  | vzip (d a b : VReg) (m : MReg) (ty : VTy)
  /-- VUNZIP (R126). Takes the even lanes of vA followed by vB. -/
  | vunzip (d a b : VReg) (m : MReg) (ty : VTy)
  /-- VREV (R126). Reverses the lanes of vA. -/
  | vrev (d a : VReg) (m : MReg) (ty : VTy)
  /-- VCVT (R127). Converts the low lanes from the source type to the destination type. -/
  | vcvt (d a : VReg) (m : MReg) (dty sty : VTy) (rtz : Bool)
  /-- VPACK4_F32 (R128). Quantises 32 f32 values from vA and vB into one q4 block in vD. -/
  | vpack4F32 (d a b : VReg) (m : MReg)
  /-- VPACK4_HALF (R128). Quantises 32 f16 or bf16 values of vA into one q4 block in vD. -/
  | vpack4Half (d a : VReg) (m : MReg) (bf : Bool)
  /-- VUNPACK4_HALF (R129). Expands q4 block k of vA into 32 f16 or bf16 lanes. -/
  | vunpack4Half (d a : VReg) (m : MReg) (bf : Bool) (k : Fin 4)
  /-- VUNPACK4_F32 (R129). Expands half h of q4 block k of vA into 16 f32 lanes. -/
  | vunpack4F32 (d a : VReg) (m : MReg) (k : Fin 4) (h : Bool)
  /-- VRSUM (R130). Sums lanes by the fixed tree into a general register. -/
  | vrsum (d : GReg) (a : VReg) (m : MReg) (ty : VTy)
  /-- VRMAX (R130). Takes the maximum lane by the fixed tree. -/
  | vrmax (d : GReg) (a : VReg) (m : MReg) (ty : VTy)
  /-- VRMIN (R130). Takes the minimum lane by the fixed tree. -/
  | vrmin (d : GReg) (a : VReg) (m : MReg) (ty : VTy)
  /-- VRAND (R130). ANDs the lanes. -/
  | vrand (d : GReg) (a : VReg) (m : MReg) (ty : VTy)
  /-- VROR (R130). ORs the lanes. -/
  | vror (d : GReg) (a : VReg) (m : MReg) (ty : VTy)
  /-- VRXOR (R130). XORs the lanes. -/
  | vrxor (d : GReg) (a : VReg) (m : MReg) (ty : VTy)
  /-- VLD (R131). Loads active lanes at unit stride. -/
  | vld (d : VReg) (a : GReg) (m : MReg) (ty : VTy)
  /-- VLDS (R131). Loads active lanes at stride G[b]. -/
  | vlds (d : VReg) (a b : GReg) (m : MReg) (ty : VTy)
  /-- VLDX (R131). Loads active lanes at offsets from vB. -/
  | vldx (d : VReg) (a : GReg) (b : VReg) (m : MReg) (ty : VTy)
  /-- VST (R134). Stores active lanes at unit stride, posted as one store when not all direct. -/
  | vst (d : VReg) (a : GReg) (m : MReg) (ty : VTy)
  /-- VSTS (R134). Stores active lanes at stride G[b]. -/
  | vsts (d : VReg) (a b : GReg) (m : MReg) (ty : VTy)
  /-- VSTX (R134). Stores active lanes at offsets from vB. -/
  | vstx (d : VReg) (a : GReg) (b : VReg) (m : MReg) (ty : VTy)
  /-- VSPLAT (R136). Copies G[a] into every active lane. -/
  | vsplat (d : VReg) (a : GReg) (m : MReg) (ty : VTy)
  /-- VINS (R136). Inserts G[a] into lane G[b]. -/
  | vins (d : VReg) (a b : GReg) (ty : VTy)
  /-- VEXT (R136). Extracts lane G[b] into a general register. -/
  | vext (d : GReg) (a : VReg) (b : GReg) (ty : VTy)
  /-- MGETG (R136). Copies a mask register into a general register. -/
  | mgetg (d : GReg) (a : MReg)
  /-- MSETG (R136). Copies a general register into a mask register. -/
  | msetg (d : MReg) (a : GReg)
  /-- SYNC (R145). Checks an offer block of 1-4 alternatives, opens the choice cell and enters the sync wait. -/
  | sync (d a : GReg) (n : Fin 8)
  /-- BARW (R178). Arrives at a barrier channel if not yet arrived and waits for the phase release. -/
  | barw (a : GReg)
  /-- BARQ (R178). Arrives at a barrier channel without waiting for release and returns the phase number. -/
  | barq (d a : GReg)
  /-- BARSET (R179). Joins or leaves barrier channel membership. -/
  | barset (a : GReg)
  /-- EVNAME (R169). Composes an event name from a base and an offset. -/
  | evname (d a b : GReg)
  /-- EVINFO (R170). Returns information about the thread's events or routes by selector. -/
  | evinfo (d a : GReg)
  /-- MMA (R200). Checks and copies a matrix descriptor, queues the operation on a bank and begins the matrix wait. -/
  | mma (acc : Acc) (a b : GReg) (fa fb : Fin 16)
  /-- MGEO (R202). Sets geom from a shape record and the thread's rank. -/
  | mgeo (a : GReg)
  /-- MZERO (R203). Zeros an accumulator bank, waiting if it is held. -/
  | mzero (acc : Acc)
  /-- MSAVE (R203). Stores an accumulator bank to direct storage. -/
  | msave (acc : Acc) (a : GReg)
  /-- MREST (R203). Restores an accumulator bank from direct storage. -/
  | mrest (acc : Acc) (a : GReg)
  /-- DLOAD (R208). Loads and checks a drain program into a slot. -/
  | dload (p : PSlot) (a : GReg)
  /-- DLOAD_T (R210). Checks a table copy and waits for older overlapping operations to leave. -/
  | dloadT (a b : GReg)
  /-- DBIND (R209). Binds a table length to a loaded drain program. -/
  | dbind (p : PSlot) (a : GReg)
  /-- CPY (R279). Sends a box copy request with a token register. -/
  | cpy (d a : GReg)
  /-- GATH (R279). Sends an indexed gather request with a token register. -/
  | gath (d a : GReg)
  /-- SCAT (R279). Sends an indexed scatter request with a token register. -/
  | scat (d a : GReg)
  /-- FILL (R279). Sends a pattern fill request with a token register. -/
  | fill (d a : GReg)
  /-- CPY_EV (R279). Sends a box copy whose completion offers a class-3 event. -/
  | cpyEv (a : GReg)
  /-- GATH_EV (R279). Sends a gather whose completion offers a class-3 event. -/
  | gathEv (a : GReg)
  /-- SCAT_EV (R279). Sends a scatter whose completion offers a class-3 event. -/
  | scatEv (a : GReg)
  /-- FILL_EV (R279). Sends a fill whose completion offers a class-3 event. -/
  | fillEv (a : GReg)
  /-- HLD (R298). Loads a field through a reference after the read barrier. -/
  | hld (d : GReg) (a : HReg) (sz : Sz) (off : BitVec 11)
  /-- HST (R298). Stores a field through a reference after the read barrier, held while MOVING. -/
  | hst (d : GReg) (a : HReg) (sz : Sz) (off : BitVec 11)
  /-- HLDR (R299). Loads a reference, passes it through the barrier and heals the field. -/
  | hldr (d a : HReg) (off : BitVec 11)
  /-- HSTR (R300). Stores a reference into a field, logging the old value when required. -/
  | hstr (d a : HReg) (off : BitVec 11)
  /-- HNEW (R301). Allocates a managed object from a thread-local buffer. -/
  | hnew (d : HReg) (a b : GReg)
  /-- HPIN (R302). Increments an object's pin and returns its present address. -/
  | hpin (d : GReg) (a : HReg)
  /-- HUNPIN (R302). Decrements an object's pin. -/
  | hunpin (a : HReg)
  /-- HCMP (R304). Compares two references after their barriers. -/
  | hcmp (d : GReg) (a b : HReg)
  /-- HMOV (R304). Copies a reference register without a barrier. -/
  | hmov (d a : HReg)
  /-- HTAG (R303). Sends a relocation request for an object to its Collie. -/
  | htag (d : GReg) (a : HReg)
  /-- HGET (R304). Copies a reference register's raw bits to a general register. -/
  | hget (d : GReg) (a : HReg)
  /-- SPAWN (R367). Pushes a continuation frame and runs the child at once. -/
  | spawn (a b : GReg)
  /-- LAUNCH (R357). Checks a launch record and sends a kernel request to admission. -/
  | launch (a : GReg)
  /-- EXIT (R356). Frees the thread and makes its join offer when it has one. -/
  | exit
  /-- RANK (R356). Writes the thread's rank at level n. -/
  | rank (d : GReg) (n : Fin 8)
  /-- SIZE (R356). Writes the size of level n. -/
  | size (d : GReg) (n : Fin 8)
  /-- TLBW (R313). Writes a translation entry or answers a miss with NONE. -/
  | tlbw (a : GReg)
  /-- TLBI (R314). Removes translation entries by page, context or all, after earlier stores settle. -/
  | tlbi (a : GReg)
  /-- TLBR (R315). Reads word 1 of the bank's entry for a page. -/
  | tlbr (d a : GReg)
  /-- SEED (R316). Changes a context's hash seed. -/
  | seed (a : GReg)
  /-- MIGR (R317). Starts a page migration or a frame scrub. -/
  | migr (a : GReg)
  /-- DRAIN_NOP (R216). Drain micro-op that does nothing. -/
  | drainNop
  /-- DRAIN_ADD (R218). Drain f32 add. -/
  | drainAdd (d a b : DReg)
  /-- DRAIN_SUB (R218). Drain f32 subtract. -/
  | drainSub (d a b : DReg)
  /-- DRAIN_MUL (R218). Drain f32 multiply. -/
  | drainMul (d a b : DReg)
  /-- DRAIN_FMA (R218). Drain fused multiply-add. -/
  | drainFma (d a b c : DReg)
  /-- DRAIN_MAX (R218). Drain maximum. -/
  | drainMax (d a b : DReg)
  /-- DRAIN_MIN (R218). Drain minimum. -/
  | drainMin (d a b : DReg)
  /-- DRAIN_ABS (R218). Drain absolute value. -/
  | drainAbs (d a : DReg)
  /-- DRAIN_NEG (R218). Drain negate. -/
  | drainNeg (d a : DReg)
  /-- DRAIN_CLAMP (R218). Drain clamp. -/
  | drainClamp (d a b c : DReg)
  /-- DRAIN_RCP (R218). Drain reciprocal. -/
  | drainRcp (d a : DReg)
  /-- DRAIN_RSQ (R218). Drain reciprocal square root. -/
  | drainRsq (d a : DReg)
  /-- DRAIN_EXP2 (R218). Drain 2^x. -/
  | drainExp2 (d a : DReg)
  /-- DRAIN_LOG2 (R218). Drain log2. -/
  | drainLog2 (d a : DReg)
  /-- DRAIN_CMP (R218). Drain compare giving +1.0 or +0. -/
  | drainCmp (cc : VCond) (d a b : DReg)
  /-- DRAIN_SEL (R218). Drain select by a nonzero condition. -/
  | drainSel (d a b c : DReg)
  /-- DRAIN_MOV (R218). Drain register move. -/
  | drainMov (d a : DReg)
  /-- DRAIN_LDI (R218). Drain load of a bf16 immediate widened to f32. -/
  | drainLdi (d : DReg) (imm : BitVec 16)
  /-- DRAIN_LDC (R219). Drain load of a per-column table word. -/
  | drainLdc (d : DReg) (off : BitVec 11)
  /-- DRAIN_LDR (R219). Drain load of a per-row table word. -/
  | drainLdr (d : DReg) (off : BitVec 11)
  /-- DRAIN_LDS (R219). Drain load of a source element converted to f32. -/
  | drainLds (d : DReg) (t : DTy)
  /-- DRAIN_RRED_SUM (R220). Drain row sum into row scratch. -/
  | drainRredSum (k : RsReg) (a : DReg)
  /-- DRAIN_RRED_MAX (R220). Drain row maximum into row scratch. -/
  | drainRredMax (k : RsReg) (a : DReg)
  /-- DRAIN_RGET (R218). Drain broadcast of row scratch to lanes. -/
  | drainRget (d : DReg) (k : RsReg)
  /-- DRAIN_ST (R221). Drain store of converted lanes to output elements. -/
  | drainSt (a : DReg) (t : DTy)
  /-- DRAIN_STQ (R222). Drain store of the row as one q4 block. -/
  | drainStq (a : DReg) (kind : Fin 4)
  /-- DRAIN_END (R212). Ends the drain program for the row. -/
  | drainEnd
  /-- CARVE_WRITE (R38). A write to carve stalls the core and re-divides the SRAM among direct storage, stash and first-level cache. -/
  | carveWrite (core : Nat) (val : Word)
  /-- VPOOL_WRITE (R240). A write to vpool stalls the cluster, resizes the victim pool and invalidates the affected lines. -/
  | vpoolWrite (cluster : Nat) (val : Word)
  /-- JRNL_WRITE (R250). A write to jrnl clears the RFD bits written with 1. -/
  | jrnlWrite (core : Nat) (val : Word)
  /-- FACK_SENT (R233). An acknowledgement leaves the issuing core once the issuer's earlier posted stores are accepted or refused, carrying its RT. -/
  | fackSent (k : Nat)
  /-- FACK_ARRIVAL (R114). An acknowledgement reaches the named thread and, when SEQ and service match a LATCHED thread, applies resume, skip or kill. -/
  | fackArrival (k : Nat)
  /-- SYNC_OFFERS_SENT (R145). Once earlier posted stores are settled, the sync's offers go to their homes with RT, or JOURNAL is taken. -/
  | syncOffersSent (core thr : Nat)
  /-- BARRIER_ARRIVAL_LATCHED (R178). Once earlier posted stores are settled, the arrival and its RT are latched at the leaf. -/
  | barrierArrivalLatched (core thr : Nat)
  /-- BARRIER_RELEASE (R176). A root whose counted inputs are all 1 releases the phase, carrying its maximum RT to every member. -/
  | barrierRelease (ch seg : Nat)
  /-- OFFER_ARRIVAL (R147). An offer reaches its home and is stored, queued or spilled, possibly completing the party set. -/
  | offerArrival (k : Nat)
  /-- OVERFLOW_SLOT_RETURN (R160). A home takes a spilled offer back into the Bugle as room appears and frees its slot. -/
  | overflowSlotReturn (ctx slot : Nat)
  /-- CLAIM_ARRIVAL (R148). A claim reaches a choice cell and is granted, queued or denied. -/
  | claimArrival (k : Nat)
  /-- CLAIM_GRANT (R150). A grant reaches the home, which sends the next claim or commits every claimed cell. -/
  | claimGrant (k : Nat)
  /-- CLAIM_DENIAL (R150). A denial reaches the home, which releases its grants and returns to GATHERING. -/
  | claimDenial (k : Nat)
  /-- COMMIT_ARRIVAL (R148). A commit reaches a cell, which becomes COMMITTED, denies its queue and withdraws other offers; units of its send
  buffer named in `k.skip` are read at a later step (R144). -/
  | commitArrival (k : Portion)
  /-- GRANT_RELEASE_ARRIVAL (R148). A release reaches a cell, which grants its oldest queued claim or takes a pending trap. -/
  | grantReleaseArrival (k : Nat)
  /-- WITHDRAWAL_ARRIVAL (R151). A withdrawal removes an offer from its home. -/
  | withdrawalArrival (k : Nat)
  /-- DELIVERY_ARRIVAL (R144). Occurrence data is written to the party's receive buffer, ptime set, and the party returns to IN;
  units named in `k.skip` are written at a later step (R255). -/
  | deliveryArrival (k : Portion)
  /-- DELIVERY_ACK (R147). A party's acknowledgement of delivery reaches the home, ending OCCURRING when all have acknowledged. -/
  | deliveryAck (k : Nat)
  /-- TIMER_ALTERNATIVE_DUE (R158). D cycles after the sync, the thread's own cell is claimed for the timer alternative. -/
  | timerAlternativeDue (core thr alt : Nat)
  /-- QUIESCENCE_DETECTED (R161). A quiescent kernel's waiting threads take QUIESCE. -/
  | quiescenceDetected (slot : Nat)
  /-- CHAIN_ENTRY_ARRIVAL (R165). A pushed chain entry reaches the in-route queue of the receiving core. -/
  | chainEntryArrival (k : Nat)
  /-- BANK_OP_TAKE (R203). A waiting mzero, msave or mrest takes its bank when released and runs. -/
  | bankOpTake (core : Nat) (bank : Acc)
  /-- BANK_TRANSFER_COMPLETE (R203). All 4,096 bytes of an msave or mrest have moved and the thread rejoins rotation. -/
  | bankTransferComplete (core : Portion) (bank : Acc)
  /-- MMA_ADMISSION (R185). A free array admits the oldest QUEUED operation whose bank is free, zeroing it when INIT is 0. -/
  | mmaAdmission (core : Nat)
  /-- CHUNK_ACCUMULATE (R196). A chunk's operand reads complete and its products are added into the bank, advancing KDONE; locations
  named in `core.skip` are read at a later step (R195). -/
  | chunkAccumulate (core : Portion)
  /-- DRAIN_GRANT (R185). The free drain unit takes the operation that first asked for it and begins DRAINING at NEXT. -/
  | drainGrant (core : Nat)
  /-- DRAIN_ROW_ADMIT (R212). The drain unit admits the next active row into position 0 with its initial registers, where `core.enters`, and
  the pipe's next cycle runs; source locations named in `core.leave` are read later (R219). -/
  | drainRowAdmit (core : Admission)
  /-- DRAIN_ROW_COMMIT (R224). A buffered row whose addresses are translated and whose earlier rows committed releases its stores. -/
  | drainRowCommit (core : Nat)
  /-- DRAIN_FAULT_REPORT (R226). A drain fault in the lowest row discards later rows and parks the operation. -/
  | drainFaultReport (core : Nat)
  /-- DRAIN_STORE_POISON (R229). A committed drain store refused for poison gives the issuing thread an asynchronous POISON. -/
  | drainStorePoison (core k : Nat)
  /-- MATRIX_OPERATION_COMPLETE (R184). All chunks and drain stores are complete; the bank is released and the thread rejoins rotation. -/
  | matrixOperationComplete (core thr : Nat)
  /-- DLOAD_T_COPY_START (R210). Once overlapping older operations have left, the table copy begins. -/
  | dloadTCopyStart (core thr : Nat)
  /-- DLOAD_T_COPY_COMPLETE (R210). Every table byte is written and the dload.t wait ends. -/
  | dloadTCopyComplete (core : Portion) (thr : Nat)
  /-- COPY_REQUEST_LEAVES (R259). The copy request leaves the core once earlier posted stores are settled, carrying RT. -/
  | copyRequestLeaves (core entry : Nat)
  /-- COPY_REQUEST_ACCEPT (R271). A Retriever takes the request into its queue, releasing the journal entry. -/
  | copyRequestAccept (k : Nat)
  /-- COPY_START (R271). A Retriever starts a queued request by weighted deficit round robin. -/
  | copyStart (ret : Nat)
  /-- COPY_ELEMENT (R274). A copy element's reads complete and its writes are issued, or a fault stops the copy; source
  units named in `j.skip` are read at a later step (R275). -/
  | copyElement (ret : Nat) (j : Portion)
  /-- COPY_SETTLED (R273). Every issued write is settled; the status is written to the token or the .ev offer is made. -/
  | copySettled (ret j : Nat)
  /-- ZERO_EXTENT_COMPLETION (R276). A zero-extent copy completes from the core once earlier stores are settled. -/
  | zeroExtentCompletion (core entry : Nat)
  /-- TOKEN_WRITE (R167). An engine writes a token register, clearing its pending bit as a class-3 occurrence. -/
  | tokenWrite (k : Nat)
  /-- RELOCATION_REQUEST_ACCEPT (R291). A Collie takes a relocation request, claims a MOVING slot and broadcasts the advanced epoch. -/
  | relocationRequestAccept (k : Nat)
  /-- EPOCH_BROADCAST_ARRIVAL (R291). A core replaces its region entry once its reference stores are settled, then acknowledges. -/
  | epochBroadcastArrival (k : Nat)
  /-- COLLIE_EPOCH_ACKS_DONE (R291). With every acknowledgement in, the Collie checks the pin, reserves target space and copies; source
  units named in `stack.skip` are read at a later step (R305). -/
  | collieEpochAcksDone (stack : Portion)
  /-- COLLIE_COPY_DONE (R291). Copy writes accepted, the Collie writes MOVED, releases waiting threads and completes. -/
  | collieCopyDone (stack : Nat)
  /-- COLLIE_FAULT (R293). A faulting Collie access ends the relocation with MOVED in place and a fault record. -/
  | collieFault (stack : Nat)
  /-- HELD_STORE_RETRY (R292). A released thread heals its register and retries its held store or pin against the new copy. -/
  | heldStoreRetry (core thr : Nat)
  /-- STRICT_FRAME_ANSWER (R367). A remote Kennel's acceptance or refusal of a STRICT frame ends the spawning thread's wait. -/
  | strictFrameAnswer (core thr : Nat)
  /-- FRAME_STANDING (R364). A pending frame becomes STANDING once the spawner's earlier posted stores are settled. -/
  | frameStanding (core j : Nat)
  /-- FRAME_DISPATCH (R365). A FREE thread context takes the near-end frame and starts the task. -/
  | frameDispatch (core : Nat)
  /-- STEAL_REQUEST (R366). An idle core's Kennel takes a far-end frame from another core or forwards the request. -/
  | stealRequest (core victim : Nat)
  /-- MIGRATION_SWITCH (R318). Copy complete, the new frame takes the lines' timestamps, held writes are applied and entries switch. -/
  | migrationSwitch (k : Nat)
  /-- MIGRATION_ABANDON (R318). A copy fault applies held writes to the old frame and ends the migration with F = 1. -/
  | migrationAbandon (k : Nat)
  /-- TLBI_COMPLETE (R314). Every TLB has dropped the entries and translated accesses are done; the tlbi wait ends. -/
  | tlbiComplete (core thr : Nat)
  /-- SEED_CHANGE_COMPLETE (R241). The context's lines are flushed on every die and the new seed applies. -/
  | seedChangeComplete (ctx : Nat)
  /-- TLB_FILL_REPLY (R310). A lower TLB level answers a miss and the requester retries translation. -/
  | tlbFillReply (k : Nat)
  /-- HOST_WALK_ANSWER (R311). The host answers a miss record with a tlbw block. -/
  | hostWalkAnswer (tag : Word) (absent : Bool) (w0 w1 : Word)
  /-- SLOT_TURN (R25). A rotation slot's turn chooses a pair member and issues, annuls or passes. -/
  | slotTurn (core : Nat)
  /-- PTIME_SELF_ADVANCE (R247). ptime rises by one every 2^(TICK+6) cycles spent in IN. -/
  | ptimeSelfAdvance (core thr : Nat)
  /-- LOAD_REPLY (R100). A load or atomic reply writes its registers or ends the wait with a trap; the lanes
  named in `thr.skip` are served later (R135), and `ext` is what other writers did before to bytes that no home keeps (R253). -/
  | loadReply (core : Nat) (thr : Portion) (ext : List (Nat × Byte))
  /-- LEASE_RENEWAL (R243). A slice renews a line's lease from its home, taking newer data and timestamps. -/
  | leaseRenewal (die line need : Nat)
  /-- STORE_ACCEPTANCE (R244). The line's owner accepts a posted store with a new wts, releasing the journal entry; units
  of it at the positions `entry.skip` are accepted later (R135, R255). -/
  | storeAcceptance (core : Nat) (entry : Portion)
  /-- STORE_REFUSAL (R249). A receiver refuses a posted store, releasing the entry, setting RFD and queueing JOURNAL. -/
  | storeRefusal (core entry : Nat)
  /-- EXCLUSIVITY_RECALL (R244). Another die's request recalls a line's exclusivity and data to the home. -/
  | exclusivityRecall (line : Nat)
  /-- STASH_RECALL (R239). A stash writes back a recalled line and gives up ownership. -/
  | stashRecall (core line : Nat)
  /-- SLICE_ATOMIC (R245). A slice performs an atomic's indivisible read and write with new timestamps. -/
  | sliceAtomic (core thr : Nat)
  /-- HOME_EVICTION (R246). A home evicts a line to DRAM and raises mts. -/
  | homeEviction (line : Nat)
  /-- PREFETCH_FILL_RETURN (R406). A pin.l or pref fill returns and allocates the line with its timestamps. -/
  | prefetchFillReturn (core j : Nat)
  /-- INBOUND_PORT_WRITE (R251). An inbound write takes effect at a core's SRAM port and is recorded in its trace ring. -/
  | inboundPortWrite (k : Nat)
  /-- PREEMPTION_FREEZE (R33). A core's thread contexts freeze and stream to a free core. -/
  | preemptionFreeze (core dst : Nat)
  /-- PREEMPTION_ACK (R334). The receiving core acknowledges, takes the logical number and held messages are delivered. -/
  | preemptionAck (core : Nat)
  /-- FORWARDING_ENTRY_ARRIVAL (R334). A message for a moved number is held or redirected at the forwarding entry. -/
  | forwardingEntryArrival (k : Nat)
  /-- STOPCMD_STOP (R404). Host command stops one thread precisely and records the stop. -/
  | stopcmdStop (gtn : Nat)
  /-- STOPCMD_RESUME (R404). Host command resumes a stopped thread. -/
  | stopcmdResume (gtn : Nat)
  /-- STOPCMD_KILL (R404). Host command sends a stopped thread to FREE. -/
  | stopcmdKill (gtn : Nat)
  /-- CONTEXT_ENABLE (R324). A host write of V = 1 makes a context RESIDENT. -/
  | contextEnable (ctx : Nat)
  /-- CONTEXT_DISABLE (R324). A host write of V = 0 moves the context to CLOSING. -/
  | contextDisable (ctx : Nat)
  /-- CONTEXT_CLOSED (R324). A closing context with no work left goes ABSENT and its TLB entries drop. -/
  | contextClosed (ctx : Nat)
  /-- CONTEXT_DESCRIPTOR_WRITE (R325). A host write to a resident descriptor's fields applies to later requests. -/
  | contextDescriptorWrite (ctx off : Nat) (val : Word)
  /-- FAULT_RING_WRITE (R328). A fault record is written to the host ring once the consumed count allows, with count and MSI-X. -/
  | faultRingWrite (ctx : Nat)
  /-- HOST_FACK_RESUME (R329). Host FACK write with resume, applied as R114 after earlier window writes. -/
  | hostFackResume (val : Word)
  /-- HOST_FACK_SKIP (R329). Host FACK write with skip. -/
  | hostFackSkip (val : Word)
  /-- HOST_FACK_KILL (R329). Host FACK write with kill. -/
  | hostFackKill (val : Word)
  /-- PRECMD_PREEMPT (R336). Host command pre-empts a logical core to a free core. -/
  | precmdPreempt (val : Word)
  /-- PRECMD_RETIRE (R336). Host command moves a core's contexts and takes the vacated core out of service. -/
  | precmdRetire (val : Word)
  /-- MACHINE_CHECK (R338). An uncorrectable error in a context's state frees its threads, records kind 18 and aborts its kernels. -/
  | machineCheck (err : MachErr)
  /-- QUEUE_ENABLE (R341). A host write of V = 1 enables a queue and reads its tail. -/
  | queueEnable (q : Nat) (desc : List Word)
  /-- QUEUE_DISABLE (R341). A host write of V = 0 turns a queue OFF. -/
  | queueDisable (q : Nat)
  /-- QUEUE_TICK_WRITE (R339). A host write changes a queue's tickets. -/
  | queueTickWrite (q : Nat) (val : BitVec 32)
  /-- TAIL_LINE_INVALIDATION (R343). The host's store invalidates a tail line and the Vorter reads the tail and next record. -/
  | tailLineInvalidation (addr : Nat) (bytes : List Byte)
  /-- GENERATOR_SEED_WRITE (R345). The host writes the lottery generator's seed. -/
  | generatorSeedWrite (val : BitVec 32)
  /-- LOTTERY_DRAW (R345). The admission unit draws a READY queue and admits its head record. -/
  | lotteryDraw
  /-- LAUNCH_ADMISSION (R357). A launch request is admitted ahead of queue draws. -/
  | launchAdmission
  /-- TEAM_PLACEMENT (R408). A Kennel places a WAITING team on an instance that can take it. -/
  | teamPlacement (slot team : Nat) (cores : List Nat)
  /-- TEAM_FORWARD (R360). A Kennel sends its oldest unplaceable team to an advertising die. -/
  | teamForward (slot team die : Nat)
  /-- TEAM_ARRIVAL (R359). A receiving Kennel accepts a travelling team as WAITING. -/
  | teamArrival (k : Nat)
  /-- PLACEMENT_REGISTER_WRITE (R361). The host names a die for a WAITING team. -/
  | placementRegisterWrite (val : Word)
  /-- KERNEL_SINK (R354). The kernel's sink is reached and it enters SINKING. -/
  | kernelSink (slot : Nat)
  /-- KERNEL_COMPLETE (R347). All writes settled, the kernel completes and its completion record or done offer is made. -/
  | kernelComplete (slot : Nat)
  /-- KERNEL_ABORT (R355). A kernel is aborted, its threads freed and engine work run out. -/
  | kernelAbort (slot : Nat) (cause : Nat)
  /-- LINK_TRAINING_SUCCESS (R373). A link trains at some width and goes UP. -/
  | linkTrainingSuccess (link lanes : Nat)
  /-- LINK_TRAINING_FAILURE (R373). Three failed training attempts put a link DOWN. -/
  | linkTrainingFailure (link : Nat)
  /-- FLIT_CRC_REPLAY (R373). A flit with a bad CRC is replayed from the sender's buffer. -/
  | flitCrcReplay (link : Nat)
  /-- LINK_DOWN (R375). A link fails after 16 replays and its unacknowledged messages are reported or refused. -/
  | linkDown (link : Nat)
  /-- LINK_RETRAIN_CMD (R374). A host write of CMD retrains a link. -/
  | linkRetrainCmd (link : Nat)
  /-- TABLE_SET_INSTALL (R379). Injection stops, the mesh drains and a new routing table set is written. -/
  | tableSetInstall (set : List (Nat × Nat))
  /-- MESSAGE_FORWARD (R376). A router forwards a whole message when the next router has buffer space. -/
  | messageForward (k : Nat)
  /-- POD_REQUEST_RECEIVE (R387). A pod request is checked against the window table and key and served or refused. -/
  | podRequestReceive (req : PodReq)
  /-- CXL_MEM_WINDOW_WRITE (R390). The host opens, closes or moves the CXL.mem window. -/
  | cxlMemWindowWrite (val : Word)
  /-- HOST_WINDOW_WRITE (R390). A host write through the window is accepted at the home as a store with p = 0. -/
  | hostWindowWrite (off : Nat) (bytes : List Byte)
  /-- HOST_WINDOW_READ (R390). A host read through the window is served at the home after recalling exclusivity. -/
  | hostWindowRead (off n : Nat)
  /-- CLOCK_MEASUREMENT (R385). Umator measures a die's counter and writes ZERO and RATE. -/
  | clockMeasurement (die : Nat) (zero rate : Word)
  /-- DIE_RESET (R400). A die resets, poisoning its exclusive lines and aborting affected kernels. -/
  | dieReset (die : Nat)
  /-- DIE_RESET_END (R395). Reset ends and the die enters TRAINING. -/
  | dieResetEnd (die : Nat)
  /-- DIE_TRAINING_DONE (R395). A die becomes EARLY when an adjacent stack trains, or FAILED when none does. -/
  | dieTrainingDone (die : Nat)
  /-- DIE_FULL (R397). The die goes FULL and raises its clock at a rotation boundary. -/
  | dieFull (die : Nat)
  /-- POWER_CAP_THROTTLE (R401). A die over its power cap lowers its clock at a rotation boundary. -/
  | powerCapThrottle (die : Nat) (slow : Bool)
  /-- CORRECTED_ERROR (R400). A correctable error is corrected and counted in CE. -/
  | correctedError (die : Nat)
  /-- FIRMWARE_LOAD (R398). A FWCTL command makes every Setter core check and load a Umator image. -/
  | firmwareLoad (val : Word)
  /-- ATTESTATION_REPORT (R399). A nonce write starts a signed identity report. -/
  | attestationReport (val : Word)
  /-- TRCCTL_WRITE (R405). A host write starts or stops issue or instruction tracing. -/
  | trcctlWrite (val : Word)
  /-- RINGSEL_WRITE (R405). A host write selects the core whose racy-store ring the window shows. -/
  | ringselWrite (val : Word)
  /-- CONFIG_REGISTER_WRITE (R15). A write to a configuration register with no behaviour of its own stores its RW fields. -/
  | configRegisterWrite (off : Nat) (val : Word)
  /-- POWER_ON (R395). Power reaches the module and every die enters RESET with its state, counters and memory at their reset values. -/
  | powerOn
  /-- SPARE_REMAP (R7). System software remaps a logical core onto its cluster's spare physical core 16, which takes the replaced core's logical number. -/
  | spareRemap (lcore : Nat)
  /-- PREEMPTION_STREAM_FAILURE (R333). The streaming of a core's contexts fails, so the Kennel tries another core or, when none is free, frees the threads and aborts with cause 19. -/
  | preemptionStreamFailure (core : Nat) (dst : Option Nat)
  /-- FIRMWARE_RELOAD_DONE (R398). The Setter cores finish checking a Umator image, replace their threads or keep the old image, write STATUS, and release the waiting misses and records. -/
  | firmwareReloadDone
  /-- ATTESTATION_REPORT_DONE (R399). The identity report is formed and signed, BUSY clears and the count of completed reports increases. -/
  | attestationReportDone
  /-- HOST_RELOCATION_DONE (R294). In host-directed relocation, the host finishes a request and its status ends the htag token and releases held stores and pins. -/
  | hostRelocationDone (stack : Nat) (status : Word)
  /-- POWER_CAP_RELEASE (R401). A die whose power falls back under its cap raises its clock again at a rotation boundary, and CLK shows the change. -/
  | powerCapRelease (die : Nat) (full : Bool)
deriving DecidableEq, Repr, Inhabited

/-- The rows that are steps the machine or its surroundings take by themselves (95_what_each_step_holds). The other rows
come about only by being issued by a thread, by the drain unit, or as part of such an instruction. -/
def Instr.isEvent : Instr → Bool
  | .add _ _ _ => false
  | .sub _ _ _ => false
  | .and _ _ _ => false
  | .or _ _ _ => false
  | .xor _ _ _ => false
  | .andn _ _ _ => false
  | .sll _ _ _ => false
  | .srl _ _ _ => false
  | .sra _ _ _ => false
  | .mul _ _ _ => false
  | .mulh _ _ _ => false
  | .mulhn _ _ _ => false
  | .div _ _ _ => false
  | .divn _ _ _ => false
  | .rem _ _ _ => false
  | .remn _ _ _ => false
  | .slt _ _ _ => false
  | .sltn _ _ _ => false
  | .min _ _ _ => false
  | .max _ _ _ => false
  | .minn _ _ _ => false
  | .maxn _ _ _ => false
  | .clz _ _ => false
  | .ctz _ _ => false
  | .popc _ _ => false
  | .extI8 _ _ => false
  | .extN8 _ _ => false
  | .extI16 _ _ => false
  | .extN16 _ _ => false
  | .extI32 _ _ => false
  | .extN32 _ _ => false
  | .addi _ _ _ => false
  | .andi _ _ _ => false
  | .ori _ _ _ => false
  | .xori _ _ _ => false
  | .slli _ _ _ => false
  | .srli _ _ _ => false
  | .srai _ _ _ => false
  | .slti _ _ _ => false
  | .sltni _ _ _ => false
  | .lui _ _ => false
  | .addpc _ _ => false
  | .skipReg _ _ _ _ => false
  | .skipImm _ _ _ _ => false
  | .br _ _ _ => false
  | .j _ => false
  | .call _ => false
  | .jr _ => false
  | .callr _ _ => false
  | .ld _ _ _ _ => false
  | .st _ _ _ _ => false
  | .atomSwap _ _ _ _ => false
  | .atomAdd _ _ _ _ => false
  | .atomAnd _ _ _ _ => false
  | .atomOr _ _ _ _ => false
  | .atomXor _ _ _ _ => false
  | .atomMax _ _ _ _ _ => false
  | .atomMin _ _ _ _ _ => false
  | .atomCas _ _ _ _ => false
  | .pinL _ => false
  | .unpinL _ => false
  | .flush _ => false
  | .inval _ => false
  | .pref _ => false
  | .crr _ _ => false
  | .crw _ _ => false
  | .crs _ _ _ => false
  | .crc _ _ _ => false
  | .nop => false
  | .trap _ => false
  | .eret => false
  | .halt => false
  | .yield => false
  | .brk _ => false
  | .fackResume _ => false
  | .fackSkip _ => false
  | .fackKill _ => false
  | .vadd _ _ _ _ _ => false
  | .vsub _ _ _ _ _ => false
  | .vmul _ _ _ _ _ => false
  | .vmin _ _ _ _ _ => false
  | .vmax _ _ _ _ _ => false
  | .vclamp _ _ _ _ _ => false
  | .vabs _ _ _ _ => false
  | .vneg _ _ _ _ => false
  | .vand _ _ _ _ _ => false
  | .vor _ _ _ _ _ => false
  | .vxor _ _ _ _ _ => false
  | .vsll _ _ _ _ _ => false
  | .vsrl _ _ _ _ _ => false
  | .vsra _ _ _ _ _ => false
  | .vrcp _ _ _ _ => false
  | .vrsq _ _ _ _ => false
  | .vsqrt _ _ _ _ => false
  | .vexp2 _ _ _ _ => false
  | .vlog2 _ _ _ _ => false
  | .vdiv _ _ _ _ _ => false
  | .vadds _ _ _ _ _ => false
  | .vsubs _ _ _ _ _ => false
  | .vfma _ _ _ _ _ => false
  | .vfms _ _ _ _ _ => false
  | .vnfma _ _ _ _ _ => false
  | .vcmpEq _ _ _ _ _ => false
  | .vcmpNe _ _ _ _ _ => false
  | .vcmpLt _ _ _ _ _ => false
  | .vcmpGe _ _ _ _ _ => false
  | .vcmpLe _ _ _ _ _ => false
  | .vcmpGt _ _ _ _ _ => false
  | .vsel _ _ _ _ _ => false
  | .mand _ _ _ => false
  | .mor _ _ _ => false
  | .mxor _ _ _ => false
  | .mnot _ _ => false
  | .vperm _ _ _ _ _ => false
  | .vslup _ _ _ _ _ => false
  | .vsldn _ _ _ _ _ => false
  | .vzip _ _ _ _ _ => false
  | .vunzip _ _ _ _ _ => false
  | .vrev _ _ _ _ => false
  | .vcvt _ _ _ _ _ _ => false
  | .vpack4F32 _ _ _ _ => false
  | .vpack4Half _ _ _ _ => false
  | .vunpack4Half _ _ _ _ _ => false
  | .vunpack4F32 _ _ _ _ _ => false
  | .vrsum _ _ _ _ => false
  | .vrmax _ _ _ _ => false
  | .vrmin _ _ _ _ => false
  | .vrand _ _ _ _ => false
  | .vror _ _ _ _ => false
  | .vrxor _ _ _ _ => false
  | .vld _ _ _ _ => false
  | .vlds _ _ _ _ _ => false
  | .vldx _ _ _ _ _ => false
  | .vst _ _ _ _ => false
  | .vsts _ _ _ _ _ => false
  | .vstx _ _ _ _ _ => false
  | .vsplat _ _ _ _ => false
  | .vins _ _ _ _ => false
  | .vext _ _ _ _ => false
  | .mgetg _ _ => false
  | .msetg _ _ => false
  | .sync _ _ _ => false
  | .barw _ => false
  | .barq _ _ => false
  | .barset _ => false
  | .evname _ _ _ => false
  | .evinfo _ _ => false
  | .mma _ _ _ _ _ => false
  | .mgeo _ => false
  | .mzero _ => false
  | .msave _ _ => false
  | .mrest _ _ => false
  | .dload _ _ => false
  | .dloadT _ _ => false
  | .dbind _ _ => false
  | .cpy _ _ => false
  | .gath _ _ => false
  | .scat _ _ => false
  | .fill _ _ => false
  | .cpyEv _ => false
  | .gathEv _ => false
  | .scatEv _ => false
  | .fillEv _ => false
  | .hld _ _ _ _ => false
  | .hst _ _ _ _ => false
  | .hldr _ _ _ => false
  | .hstr _ _ _ => false
  | .hnew _ _ _ => false
  | .hpin _ _ => false
  | .hunpin _ => false
  | .hcmp _ _ _ => false
  | .hmov _ _ => false
  | .htag _ _ => false
  | .hget _ _ => false
  | .spawn _ _ => false
  | .launch _ => false
  | .exit => false
  | .rank _ _ => false
  | .size _ _ => false
  | .tlbw _ => false
  | .tlbi _ => false
  | .tlbr _ _ => false
  | .seed _ => false
  | .migr _ => false
  | .drainNop => false
  | .drainAdd _ _ _ => false
  | .drainSub _ _ _ => false
  | .drainMul _ _ _ => false
  | .drainFma _ _ _ _ => false
  | .drainMax _ _ _ => false
  | .drainMin _ _ _ => false
  | .drainAbs _ _ => false
  | .drainNeg _ _ => false
  | .drainClamp _ _ _ _ => false
  | .drainRcp _ _ => false
  | .drainRsq _ _ => false
  | .drainExp2 _ _ => false
  | .drainLog2 _ _ => false
  | .drainCmp _ _ _ _ => false
  | .drainSel _ _ _ _ => false
  | .drainMov _ _ => false
  | .drainLdi _ _ => false
  | .drainLdc _ _ => false
  | .drainLdr _ _ => false
  | .drainLds _ _ => false
  | .drainRredSum _ _ => false
  | .drainRredMax _ _ => false
  | .drainRget _ _ => false
  | .drainSt _ _ => false
  | .drainStq _ _ => false
  | .drainEnd => false
  | .carveWrite _ _ => false
  | .vpoolWrite _ _ => false
  | .jrnlWrite _ _ => false
  | .fackSent _ => true
  | .fackArrival _ => true
  | .syncOffersSent _ _ => true
  | .barrierArrivalLatched _ _ => true
  | .barrierRelease _ _ => true
  | .offerArrival _ => true
  | .overflowSlotReturn _ _ => true
  | .claimArrival _ => true
  | .claimGrant _ => true
  | .claimDenial _ => true
  | .commitArrival _ => true
  | .grantReleaseArrival _ => true
  | .withdrawalArrival _ => true
  | .deliveryArrival _ => true
  | .deliveryAck _ => true
  | .timerAlternativeDue _ _ _ => true
  | .quiescenceDetected _ => true
  | .chainEntryArrival _ => true
  | .bankOpTake _ _ => true
  | .bankTransferComplete _ _ => true
  | .mmaAdmission _ => true
  | .chunkAccumulate _ => true
  | .drainGrant _ => true
  | .drainRowAdmit _ => true
  | .drainRowCommit _ => true
  | .drainFaultReport _ => true
  | .drainStorePoison _ _ => true
  | .matrixOperationComplete _ _ => true
  | .dloadTCopyStart _ _ => true
  | .dloadTCopyComplete _ _ => true
  | .copyRequestLeaves _ _ => true
  | .copyRequestAccept _ => true
  | .copyStart _ => true
  | .copyElement _ _ => true
  | .copySettled _ _ => true
  | .zeroExtentCompletion _ _ => true
  | .tokenWrite _ => true
  | .relocationRequestAccept _ => true
  | .epochBroadcastArrival _ => true
  | .collieEpochAcksDone _ => true
  | .collieCopyDone _ => true
  | .collieFault _ => true
  | .heldStoreRetry _ _ => true
  | .strictFrameAnswer _ _ => true
  | .frameStanding _ _ => true
  | .frameDispatch _ => true
  | .stealRequest _ _ => true
  | .migrationSwitch _ => true
  | .migrationAbandon _ => true
  | .tlbiComplete _ _ => true
  | .seedChangeComplete _ => true
  | .tlbFillReply _ => true
  | .hostWalkAnswer _ _ _ _ => true
  | .slotTurn _ => true
  | .ptimeSelfAdvance _ _ => true
  | .loadReply _ _ _ => true
  | .leaseRenewal _ _ _ => true
  | .storeAcceptance _ _ => true
  | .storeRefusal _ _ => true
  | .exclusivityRecall _ => true
  | .stashRecall _ _ => true
  | .sliceAtomic _ _ => true
  | .homeEviction _ => true
  | .prefetchFillReturn _ _ => true
  | .inboundPortWrite _ => true
  | .preemptionFreeze _ _ => true
  | .preemptionAck _ => true
  | .forwardingEntryArrival _ => true
  | .stopcmdStop _ => true
  | .stopcmdResume _ => true
  | .stopcmdKill _ => true
  | .contextEnable _ => true
  | .contextDisable _ => true
  | .contextClosed _ => true
  | .contextDescriptorWrite _ _ _ => true
  | .faultRingWrite _ => true
  | .hostFackResume _ => true
  | .hostFackSkip _ => true
  | .hostFackKill _ => true
  | .precmdPreempt _ => true
  | .precmdRetire _ => true
  | .machineCheck _ => true
  | .queueEnable _ _ => true
  | .queueDisable _ => true
  | .queueTickWrite _ _ => true
  | .tailLineInvalidation _ _ => true
  | .generatorSeedWrite _ => true
  | .lotteryDraw => true
  | .launchAdmission => true
  | .teamPlacement _ _ _ => true
  | .teamForward _ _ _ => true
  | .teamArrival _ => true
  | .placementRegisterWrite _ => true
  | .kernelSink _ => true
  | .kernelComplete _ => true
  | .kernelAbort _ _ => true
  | .linkTrainingSuccess _ _ => true
  | .linkTrainingFailure _ => true
  | .flitCrcReplay _ => true
  | .linkDown _ => true
  | .linkRetrainCmd _ => true
  | .tableSetInstall _ => true
  | .messageForward _ => true
  | .podRequestReceive _ => true
  | .cxlMemWindowWrite _ => true
  | .hostWindowWrite _ _ => true
  | .hostWindowRead _ _ => true
  | .clockMeasurement _ _ _ => true
  | .dieReset _ => true
  | .dieResetEnd _ => true
  | .dieTrainingDone _ => true
  | .dieFull _ => true
  | .powerCapThrottle _ _ => true
  | .correctedError _ => true
  | .firmwareLoad _ => true
  | .attestationReport _ => true
  | .trcctlWrite _ => true
  | .ringselWrite _ => true
  | .configRegisterWrite _ _ => true
  | .powerOn => true
  | .spareRemap _ => true
  | .preemptionStreamFailure _ _ => true
  | .firmwareReloadDone => true
  | .attestationReportDone => true
  | .hostRelocationDone _ _ => true
  | .powerCapRelease _ _ => true

end Sys2Proof
end

