-- ==== Sys2Proof/WellFormed.lean ====
section
/-!
DEFINITION. Which instructions are well formed: the field values that R68-R77 and R117 mark reserved or illegal
are refused here. A word whose decoding is ill formed raises ILLEGAL (R71).
-/

namespace Sys2Proof

/-- Type classes of R117. -/
def VTy.isI : VTy → Bool
  | .i8 | .i16 | .i32 | .i64 => true
  | _ => false
def VTy.isN : VTy → Bool
  | .n8 | .n16 | .n32 | .n64 => true
  | _ => false
def VTy.isF : VTy → Bool
  | .f16 | .bf16 | .f32 => true
  | _ => false
def VTy.isQ : VTy → Bool
  | .e4m3 | .e5m2 => true
  | _ => false
def VTy.isInt (t : VTy) : Bool := t.isI || t.isN
/-- I, N, F: the types of the arithmetic operations. -/
def VTy.isINF (t : VTy) : Bool := t.isInt || t.isF

/-- Sizes a store may name (R70): the signed forms and 64 bits. -/
def Sz.storable : Sz → Bool
  | .i8 | .i16 | .i32 | .d64 => true
  | _ => false

/-- Conditions a branch may name (R69). -/
def Cond.branchable : Cond → Bool
  | .bs | .bc => false
  | _ => true

/-- The assigned control-register numbers (R74). -/
def crnAssigned (n : Nat) : Bool :=
  n ≤ 4 || n == 8 || n == 9 || n == 0x10 || n == 0x18 || n == 0x19 || (0x20 ≤ n && n ≤ 0x22) ||
  (0x30 ≤ n && n ≤ 0x37) || n == 0x40 || (0x100 ≤ n && n ≤ 0x17F)

/-- The format pairs of R57 by the codes of R76. -/
def mmaPairListed (fa fb : Nat) : Bool :=
  (fa ≤ 1 && fb ≤ 1) || (fa == 2 && fb == 2) || (fa == 3 && fb == 3) ||
  ((fa == 4 || fa == 5) && (fb == 4 || fb == 5)) || (fa == 6 && fb == 6)

/-- R71: the checks on a word's field values beyond the layout itself. -/
def Instr.wf : Instr → Bool
  | .skipReg _ _ _ n => n.val ≠ 0
  | .skipImm _ _ _ n => n.val ≠ 0
  | .br cc _ _ => cc.branchable
  | .st _ _ sz _ => sz.storable
  | .hst _ _ sz _ => sz.storable
  | .crr _ c | .crw _ c | .crs _ _ c | .crc _ _ c => crnAssigned c.toNat
  | .sync _ _ n => 1 ≤ n.val && n.val ≤ 4
  | .mma _ _ _ fa fb => (fa.val == 15 && fb.val == 15) || mmaPairListed fa.val fb.val
  | .vadd _ _ _ _ t | .vsub _ _ _ _ t | .vmul _ _ _ _ t | .vmin _ _ _ _ t | .vmax _ _ _ _ t
  | .vclamp _ _ _ _ t | .vdiv _ _ _ _ t | .vfma _ _ _ _ t | .vfms _ _ _ _ t | .vnfma _ _ _ _ t
  | .vcmpEq _ _ _ _ t | .vcmpNe _ _ _ _ t | .vcmpLt _ _ _ _ t | .vcmpGe _ _ _ _ t
  | .vcmpLe _ _ _ _ t | .vcmpGt _ _ _ _ t => t.isINF
  | .vrsum _ _ _ t | .vrmax _ _ _ t | .vrmin _ _ _ t => t.isINF
  | .vadds _ _ _ _ t | .vsubs _ _ _ _ t | .vand _ _ _ _ t | .vor _ _ _ _ t | .vxor _ _ _ _ t
  | .vsll _ _ _ _ t | .vsrl _ _ _ _ t => t.isInt
  | .vrand _ _ _ t | .vror _ _ _ t | .vrxor _ _ _ t => t.isInt
  | .vsra _ _ _ _ t => t.isI
  | .vabs _ _ _ t | .vneg _ _ _ t => t.isI || t.isF
  | .vrcp _ _ _ t | .vrsq _ _ _ t | .vsqrt _ _ _ t | .vexp2 _ _ _ t | .vlog2 _ _ _ t => t.isF
  | .vcvt _ _ _ _ sty rtz => !(rtz && sty.isInt)
  | .vunpack4Half _ _ _ _ k => k.val ≠ 3
  | .vunpack4F32 _ _ _ k _ => k.val ≠ 3
  | _ => true

/-- The encoding space of a row: the instruction space, the drain micro-op space, or none. -/
inductive RowKind where
  | isa | drain | event
deriving DecidableEq, Repr

/-- Which encoding space a row belongs to. -/
def Instr.kind : Instr → RowKind
  | .add _ _ _ => .isa
  | .sub _ _ _ => .isa
  | .and _ _ _ => .isa
  | .or _ _ _ => .isa
  | .xor _ _ _ => .isa
  | .andn _ _ _ => .isa
  | .sll _ _ _ => .isa
  | .srl _ _ _ => .isa
  | .sra _ _ _ => .isa
  | .mul _ _ _ => .isa
  | .mulh _ _ _ => .isa
  | .mulhn _ _ _ => .isa
  | .div _ _ _ => .isa
  | .divn _ _ _ => .isa
  | .rem _ _ _ => .isa
  | .remn _ _ _ => .isa
  | .slt _ _ _ => .isa
  | .sltn _ _ _ => .isa
  | .min _ _ _ => .isa
  | .max _ _ _ => .isa
  | .minn _ _ _ => .isa
  | .maxn _ _ _ => .isa
  | .clz _ _ => .isa
  | .ctz _ _ => .isa
  | .popc _ _ => .isa
  | .extI8 _ _ => .isa
  | .extN8 _ _ => .isa
  | .extI16 _ _ => .isa
  | .extN16 _ _ => .isa
  | .extI32 _ _ => .isa
  | .extN32 _ _ => .isa
  | .addi _ _ _ => .isa
  | .andi _ _ _ => .isa
  | .ori _ _ _ => .isa
  | .xori _ _ _ => .isa
  | .slli _ _ _ => .isa
  | .srli _ _ _ => .isa
  | .srai _ _ _ => .isa
  | .slti _ _ _ => .isa
  | .sltni _ _ _ => .isa
  | .lui _ _ => .isa
  | .addpc _ _ => .isa
  | .skipReg _ _ _ _ => .isa
  | .skipImm _ _ _ _ => .isa
  | .br _ _ _ => .isa
  | .j _ => .isa
  | .call _ => .isa
  | .jr _ => .isa
  | .callr _ _ => .isa
  | .ld _ _ _ _ => .isa
  | .st _ _ _ _ => .isa
  | .atomSwap _ _ _ _ => .isa
  | .atomAdd _ _ _ _ => .isa
  | .atomAnd _ _ _ _ => .isa
  | .atomOr _ _ _ _ => .isa
  | .atomXor _ _ _ _ => .isa
  | .atomMax _ _ _ _ _ => .isa
  | .atomMin _ _ _ _ _ => .isa
  | .atomCas _ _ _ _ => .isa
  | .pinL _ => .isa
  | .unpinL _ => .isa
  | .flush _ => .isa
  | .inval _ => .isa
  | .pref _ => .isa
  | .crr _ _ => .isa
  | .crw _ _ => .isa
  | .crs _ _ _ => .isa
  | .crc _ _ _ => .isa
  | .nop => .isa
  | .trap _ => .isa
  | .eret => .isa
  | .halt => .isa
  | .yield => .isa
  | .brk _ => .isa
  | .fackResume _ => .isa
  | .fackSkip _ => .isa
  | .fackKill _ => .isa
  | .vadd _ _ _ _ _ => .isa
  | .vsub _ _ _ _ _ => .isa
  | .vmul _ _ _ _ _ => .isa
  | .vmin _ _ _ _ _ => .isa
  | .vmax _ _ _ _ _ => .isa
  | .vclamp _ _ _ _ _ => .isa
  | .vabs _ _ _ _ => .isa
  | .vneg _ _ _ _ => .isa
  | .vand _ _ _ _ _ => .isa
  | .vor _ _ _ _ _ => .isa
  | .vxor _ _ _ _ _ => .isa
  | .vsll _ _ _ _ _ => .isa
  | .vsrl _ _ _ _ _ => .isa
  | .vsra _ _ _ _ _ => .isa
  | .vrcp _ _ _ _ => .isa
  | .vrsq _ _ _ _ => .isa
  | .vsqrt _ _ _ _ => .isa
  | .vexp2 _ _ _ _ => .isa
  | .vlog2 _ _ _ _ => .isa
  | .vdiv _ _ _ _ _ => .isa
  | .vadds _ _ _ _ _ => .isa
  | .vsubs _ _ _ _ _ => .isa
  | .vfma _ _ _ _ _ => .isa
  | .vfms _ _ _ _ _ => .isa
  | .vnfma _ _ _ _ _ => .isa
  | .vcmpEq _ _ _ _ _ => .isa
  | .vcmpNe _ _ _ _ _ => .isa
  | .vcmpLt _ _ _ _ _ => .isa
  | .vcmpGe _ _ _ _ _ => .isa
  | .vcmpLe _ _ _ _ _ => .isa
  | .vcmpGt _ _ _ _ _ => .isa
  | .vsel _ _ _ _ _ => .isa
  | .mand _ _ _ => .isa
  | .mor _ _ _ => .isa
  | .mxor _ _ _ => .isa
  | .mnot _ _ => .isa
  | .vperm _ _ _ _ _ => .isa
  | .vslup _ _ _ _ _ => .isa
  | .vsldn _ _ _ _ _ => .isa
  | .vzip _ _ _ _ _ => .isa
  | .vunzip _ _ _ _ _ => .isa
  | .vrev _ _ _ _ => .isa
  | .vcvt _ _ _ _ _ _ => .isa
  | .vpack4F32 _ _ _ _ => .isa
  | .vpack4Half _ _ _ _ => .isa
  | .vunpack4Half _ _ _ _ _ => .isa
  | .vunpack4F32 _ _ _ _ _ => .isa
  | .vrsum _ _ _ _ => .isa
  | .vrmax _ _ _ _ => .isa
  | .vrmin _ _ _ _ => .isa
  | .vrand _ _ _ _ => .isa
  | .vror _ _ _ _ => .isa
  | .vrxor _ _ _ _ => .isa
  | .vld _ _ _ _ => .isa
  | .vlds _ _ _ _ _ => .isa
  | .vldx _ _ _ _ _ => .isa
  | .vst _ _ _ _ => .isa
  | .vsts _ _ _ _ _ => .isa
  | .vstx _ _ _ _ _ => .isa
  | .vsplat _ _ _ _ => .isa
  | .vins _ _ _ _ => .isa
  | .vext _ _ _ _ => .isa
  | .mgetg _ _ => .isa
  | .msetg _ _ => .isa
  | .sync _ _ _ => .isa
  | .barw _ => .isa
  | .barq _ _ => .isa
  | .barset _ => .isa
  | .evname _ _ _ => .isa
  | .evinfo _ _ => .isa
  | .mma _ _ _ _ _ => .isa
  | .mgeo _ => .isa
  | .mzero _ => .isa
  | .msave _ _ => .isa
  | .mrest _ _ => .isa
  | .dload _ _ => .isa
  | .dloadT _ _ => .isa
  | .dbind _ _ => .isa
  | .cpy _ _ => .isa
  | .gath _ _ => .isa
  | .scat _ _ => .isa
  | .fill _ _ => .isa
  | .cpyEv _ => .isa
  | .gathEv _ => .isa
  | .scatEv _ => .isa
  | .fillEv _ => .isa
  | .hld _ _ _ _ => .isa
  | .hst _ _ _ _ => .isa
  | .hldr _ _ _ => .isa
  | .hstr _ _ _ => .isa
  | .hnew _ _ _ => .isa
  | .hpin _ _ => .isa
  | .hunpin _ => .isa
  | .hcmp _ _ _ => .isa
  | .hmov _ _ => .isa
  | .htag _ _ => .isa
  | .hget _ _ => .isa
  | .spawn _ _ => .isa
  | .launch _ => .isa
  | .exit => .isa
  | .rank _ _ => .isa
  | .size _ _ => .isa
  | .tlbw _ => .isa
  | .tlbi _ => .isa
  | .tlbr _ _ => .isa
  | .seed _ => .isa
  | .migr _ => .isa
  | .drainNop => .drain
  | .drainAdd _ _ _ => .drain
  | .drainSub _ _ _ => .drain
  | .drainMul _ _ _ => .drain
  | .drainFma _ _ _ _ => .drain
  | .drainMax _ _ _ => .drain
  | .drainMin _ _ _ => .drain
  | .drainAbs _ _ => .drain
  | .drainNeg _ _ => .drain
  | .drainClamp _ _ _ _ => .drain
  | .drainRcp _ _ => .drain
  | .drainRsq _ _ => .drain
  | .drainExp2 _ _ => .drain
  | .drainLog2 _ _ => .drain
  | .drainCmp _ _ _ _ => .drain
  | .drainSel _ _ _ _ => .drain
  | .drainMov _ _ => .drain
  | .drainLdi _ _ => .drain
  | .drainLdc _ _ => .drain
  | .drainLdr _ _ => .drain
  | .drainLds _ _ => .drain
  | .drainRredSum _ _ => .drain
  | .drainRredMax _ _ => .drain
  | .drainRget _ _ => .drain
  | .drainSt _ _ => .drain
  | .drainStq _ _ => .drain
  | .drainEnd => .drain
  | .carveWrite _ _ => .event
  | .vpoolWrite _ _ => .event
  | .jrnlWrite _ _ => .event
  | .fackSent _ => .event
  | .fackArrival _ => .event
  | .syncOffersSent _ _ => .event
  | .barrierArrivalLatched _ _ => .event
  | .barrierRelease _ _ => .event
  | .offerArrival _ => .event
  | .overflowSlotReturn _ _ => .event
  | .claimArrival _ => .event
  | .claimGrant _ => .event
  | .claimDenial _ => .event
  | .commitArrival _ => .event
  | .grantReleaseArrival _ => .event
  | .withdrawalArrival _ => .event
  | .deliveryArrival _ => .event
  | .deliveryAck _ => .event
  | .timerAlternativeDue _ _ _ => .event
  | .quiescenceDetected _ => .event
  | .chainEntryArrival _ => .event
  | .bankOpTake _ _ => .event
  | .bankTransferComplete _ _ => .event
  | .mmaAdmission _ => .event
  | .chunkAccumulate _ => .event
  | .drainGrant _ => .event
  | .drainRowAdmit _ => .event
  | .drainRowCommit _ => .event
  | .drainFaultReport _ => .event
  | .drainStorePoison _ _ => .event
  | .matrixOperationComplete _ _ => .event
  | .dloadTCopyStart _ _ => .event
  | .dloadTCopyComplete _ _ => .event
  | .copyRequestLeaves _ _ => .event
  | .copyRequestAccept _ => .event
  | .copyStart _ => .event
  | .copyElement _ _ => .event
  | .copySettled _ _ => .event
  | .zeroExtentCompletion _ _ => .event
  | .tokenWrite _ => .event
  | .relocationRequestAccept _ => .event
  | .epochBroadcastArrival _ => .event
  | .collieEpochAcksDone _ => .event
  | .collieCopyDone _ => .event
  | .collieFault _ => .event
  | .heldStoreRetry _ _ => .event
  | .strictFrameAnswer _ _ => .event
  | .frameStanding _ _ => .event
  | .frameDispatch _ => .event
  | .stealRequest _ _ => .event
  | .migrationSwitch _ => .event
  | .migrationAbandon _ => .event
  | .tlbiComplete _ _ => .event
  | .seedChangeComplete _ => .event
  | .tlbFillReply _ => .event
  | .hostWalkAnswer _ _ _ _ => .event
  | .slotTurn _ => .event
  | .ptimeSelfAdvance _ _ => .event
  | .loadReply _ _ _ => .event
  | .leaseRenewal _ _ _ => .event
  | .storeAcceptance _ _ => .event
  | .storeRefusal _ _ => .event
  | .exclusivityRecall _ => .event
  | .stashRecall _ _ => .event
  | .sliceAtomic _ _ => .event
  | .homeEviction _ => .event
  | .prefetchFillReturn _ _ => .event
  | .inboundPortWrite _ => .event
  | .preemptionFreeze _ _ => .event
  | .preemptionAck _ => .event
  | .forwardingEntryArrival _ => .event
  | .stopcmdStop _ => .event
  | .stopcmdResume _ => .event
  | .stopcmdKill _ => .event
  | .contextEnable _ => .event
  | .contextDisable _ => .event
  | .contextClosed _ => .event
  | .contextDescriptorWrite _ _ _ => .event
  | .faultRingWrite _ => .event
  | .hostFackResume _ => .event
  | .hostFackSkip _ => .event
  | .hostFackKill _ => .event
  | .precmdPreempt _ => .event
  | .precmdRetire _ => .event
  | .machineCheck _ => .event
  | .queueEnable _ _ => .event
  | .queueDisable _ => .event
  | .queueTickWrite _ _ => .event
  | .tailLineInvalidation _ _ => .event
  | .generatorSeedWrite _ => .event
  | .lotteryDraw => .event
  | .launchAdmission => .event
  | .teamPlacement _ _ _ => .event
  | .teamForward _ _ _ => .event
  | .teamArrival _ => .event
  | .placementRegisterWrite _ => .event
  | .kernelSink _ => .event
  | .kernelComplete _ => .event
  | .kernelAbort _ _ => .event
  | .linkTrainingSuccess _ _ => .event
  | .linkTrainingFailure _ => .event
  | .flitCrcReplay _ => .event
  | .linkDown _ => .event
  | .linkRetrainCmd _ => .event
  | .tableSetInstall _ => .event
  | .messageForward _ => .event
  | .podRequestReceive _ => .event
  | .cxlMemWindowWrite _ => .event
  | .hostWindowWrite _ _ => .event
  | .hostWindowRead _ _ => .event
  | .clockMeasurement _ _ _ => .event
  | .dieReset _ => .event
  | .dieResetEnd _ => .event
  | .dieTrainingDone _ => .event
  | .dieFull _ => .event
  | .powerCapThrottle _ _ => .event
  | .correctedError _ => .event
  | .firmwareLoad _ => .event
  | .attestationReport _ => .event
  | .trcctlWrite _ => .event
  | .ringselWrite _ => .event
  | .configRegisterWrite _ _ => .event
  | .powerOn => .event
  | .spareRemap _ => .event
  | .preemptionStreamFailure _ _ => .event
  | .firmwareReloadDone => .event
  | .attestationReportDone => .event
  | .hostRelocationDone _ _ => .event
  | .powerCapRelease _ _ => .event

end Sys2Proof
end

