-- ==== Sys2Proof/Decode.lean ====
section
/-!
DEFINITION. Decoding of instruction words and of drain micro-op words, total on any bits, and the encoders.
Every field is pulled out here, once (R65-R80). A word that is not an instruction decodes to none: the machine
raises ILLEGAL for it (R71).
-/

namespace Sys2Proof

/-- The `n`-bit field of `w` whose least significant bit is bit `lo`. -/
def fld (w lo n : Nat) : Nat := w / 2 ^ lo % 2 ^ n

def Cond.ofCode? : Nat → Option Cond
  | 0 => some .eq | 1 => some .ne | 2 => some .lt | 3 => some .ge | 4 => some .ltn | 5 => some .gen
  | 6 => some .le | 7 => some .gt | 8 => some .len | 9 => some .gtn | 10 => some .bs | 11 => some .bc
  | _ => none

def Cond.code : Cond → Nat
  | .eq => 0 | .ne => 1 | .lt => 2 | .ge => 3 | .ltn => 4 | .gen => 5
  | .le => 6 | .gt => 7 | .len => 8 | .gtn => 9 | .bs => 10 | .bc => 11

def VCond.ofCode? : Nat → Option VCond
  | 0 => some .eq | 1 => some .ne | 2 => some .lt | 3 => some .ge | 4 => some .le | 5 => some .gt
  | _ => none

def VCond.code : VCond → Nat
  | .eq => 0 | .ne => 1 | .lt => 2 | .ge => 3 | .le => 4 | .gt => 5

/-- sz of the Mem format (R68); 111 is reserved. -/
def Sz.ofCode? : Nat → Option Sz
  | 0 => some .i8 | 1 => some .n8 | 2 => some .i16 | 3 => some .n16 | 4 => some .i32 | 5 => some .n32
  | 6 => some .d64
  | _ => none

def Sz.code : Sz → Nat
  | .i8 => 0 | .n8 => 1 | .i16 => 2 | .n16 => 3 | .i32 => 4 | .n32 => 5 | .d64 => 6

/-- The width field of an atomic (R72); 00 and 01 are reserved. -/
def AWidth.ofCode? : Nat → Option AWidth
  | 2 => some .w32 | 3 => some .w64
  | _ => none

def AWidth.code : AWidth → Nat
  | .w32 => 2 | .w64 => 3

/-- e and fn[5] select the element type (R75). -/
def VTy.ofCode? : Nat → Nat → Option VTy
  | 0, 0 => some .i8 | 1, 0 => some .i16 | 2, 0 => some .i32 | 3, 0 => some .i64
  | 4, 0 => some .f16 | 5, 0 => some .bf16 | 6, 0 => some .f32 | 7, 0 => some .e4m3
  | 0, 1 => some .n8 | 1, 1 => some .n16 | 2, 1 => some .n32 | 3, 1 => some .n64 | 7, 1 => some .e5m2
  | _, _ => none

def VTy.code : VTy → Nat × Nat
  | .i8 => (0, 0) | .i16 => (1, 0) | .i32 => (2, 0) | .i64 => (3, 0)
  | .f16 => (4, 0) | .bf16 => (5, 0) | .f32 => (6, 0) | .e4m3 => (7, 0)
  | .n8 => (0, 1) | .n16 => (1, 1) | .n32 => (2, 1) | .n64 => (3, 1) | .e5m2 => (7, 1)

def DTy.ofCode? : Nat → Option DTy
  | 0 => some .f32 | 1 => some .bf16 | 2 => some .f16 | 3 => some .e4m3 | 4 => some .e5m2 | 5 => some .i8
  | _ => none

def DTy.code : DTy → Nat
  | .f32 => 0 | .bf16 => 1 | .f16 => 2 | .e4m3 => 3 | .e5m2 => 4 | .i8 => 5

/-- Integer register operations (R94) -/
def decodeOp01 (w : Nat) : Option Instr :=
  match fld w 0 11 with
  | 0 => some (.add (Fin.ofNat 32 (w / 2097152)) (Fin.ofNat 32 (w / 65536)) (Fin.ofNat 32 (w / 2048)))
  | 1 => some (.sub (Fin.ofNat 32 (w / 2097152)) (Fin.ofNat 32 (w / 65536)) (Fin.ofNat 32 (w / 2048)))
  | 2 => some (.and (Fin.ofNat 32 (w / 2097152)) (Fin.ofNat 32 (w / 65536)) (Fin.ofNat 32 (w / 2048)))
  | 3 => some (.or (Fin.ofNat 32 (w / 2097152)) (Fin.ofNat 32 (w / 65536)) (Fin.ofNat 32 (w / 2048)))
  | 4 => some (.xor (Fin.ofNat 32 (w / 2097152)) (Fin.ofNat 32 (w / 65536)) (Fin.ofNat 32 (w / 2048)))
  | 5 => some (.andn (Fin.ofNat 32 (w / 2097152)) (Fin.ofNat 32 (w / 65536)) (Fin.ofNat 32 (w / 2048)))
  | 8 => some (.sll (Fin.ofNat 32 (w / 2097152)) (Fin.ofNat 32 (w / 65536)) (Fin.ofNat 32 (w / 2048)))
  | 9 => some (.srl (Fin.ofNat 32 (w / 2097152)) (Fin.ofNat 32 (w / 65536)) (Fin.ofNat 32 (w / 2048)))
  | 10 => some (.sra (Fin.ofNat 32 (w / 2097152)) (Fin.ofNat 32 (w / 65536)) (Fin.ofNat 32 (w / 2048)))
  | 16 => some (.mul (Fin.ofNat 32 (w / 2097152)) (Fin.ofNat 32 (w / 65536)) (Fin.ofNat 32 (w / 2048)))
  | 17 => some (.mulh (Fin.ofNat 32 (w / 2097152)) (Fin.ofNat 32 (w / 65536)) (Fin.ofNat 32 (w / 2048)))
  | 18 => some (.mulhn (Fin.ofNat 32 (w / 2097152)) (Fin.ofNat 32 (w / 65536)) (Fin.ofNat 32 (w / 2048)))
  | 20 => some (.div (Fin.ofNat 32 (w / 2097152)) (Fin.ofNat 32 (w / 65536)) (Fin.ofNat 32 (w / 2048)))
  | 21 => some (.divn (Fin.ofNat 32 (w / 2097152)) (Fin.ofNat 32 (w / 65536)) (Fin.ofNat 32 (w / 2048)))
  | 22 => some (.rem (Fin.ofNat 32 (w / 2097152)) (Fin.ofNat 32 (w / 65536)) (Fin.ofNat 32 (w / 2048)))
  | 23 => some (.remn (Fin.ofNat 32 (w / 2097152)) (Fin.ofNat 32 (w / 65536)) (Fin.ofNat 32 (w / 2048)))
  | 24 => some (.slt (Fin.ofNat 32 (w / 2097152)) (Fin.ofNat 32 (w / 65536)) (Fin.ofNat 32 (w / 2048)))
  | 25 => some (.sltn (Fin.ofNat 32 (w / 2097152)) (Fin.ofNat 32 (w / 65536)) (Fin.ofNat 32 (w / 2048)))
  | 28 => some (.min (Fin.ofNat 32 (w / 2097152)) (Fin.ofNat 32 (w / 65536)) (Fin.ofNat 32 (w / 2048)))
  | 29 => some (.max (Fin.ofNat 32 (w / 2097152)) (Fin.ofNat 32 (w / 65536)) (Fin.ofNat 32 (w / 2048)))
  | 30 => some (.minn (Fin.ofNat 32 (w / 2097152)) (Fin.ofNat 32 (w / 65536)) (Fin.ofNat 32 (w / 2048)))
  | 31 => some (.maxn (Fin.ofNat 32 (w / 2097152)) (Fin.ofNat 32 (w / 65536)) (Fin.ofNat 32 (w / 2048)))
  | 32 => if fld w 11 5 == 0 then some (.clz (Fin.ofNat 32 (w / 2097152)) (Fin.ofNat 32 (w / 65536))) else none
  | 33 => if fld w 11 5 == 0 then some (.ctz (Fin.ofNat 32 (w / 2097152)) (Fin.ofNat 32 (w / 65536))) else none
  | 34 => if fld w 11 5 == 0 then some (.popc (Fin.ofNat 32 (w / 2097152)) (Fin.ofNat 32 (w / 65536))) else none
  | 40 => if fld w 11 5 == 0 then some (.extI8 (Fin.ofNat 32 (w / 2097152)) (Fin.ofNat 32 (w / 65536))) else none
  | 41 => if fld w 11 5 == 0 then some (.extN8 (Fin.ofNat 32 (w / 2097152)) (Fin.ofNat 32 (w / 65536))) else none
  | 42 => if fld w 11 5 == 0 then some (.extI16 (Fin.ofNat 32 (w / 2097152)) (Fin.ofNat 32 (w / 65536))) else none
  | 43 => if fld w 11 5 == 0 then some (.extN16 (Fin.ofNat 32 (w / 2097152)) (Fin.ofNat 32 (w / 65536))) else none
  | 44 => if fld w 11 5 == 0 then some (.extI32 (Fin.ofNat 32 (w / 2097152)) (Fin.ofNat 32 (w / 65536))) else none
  | 45 => if fld w 11 5 == 0 then some (.extN32 (Fin.ofNat 32 (w / 2097152)) (Fin.ofNat 32 (w / 65536))) else none
  | _ => none

/-- Words of major opcode 0x02 (R70) -/
def decodeOp02 (w : Nat) : Option Instr :=
  some (.addi (Fin.ofNat 32 (w / 2097152)) (Fin.ofNat 32 (w / 65536)) (BitVec.ofNat 16 w))

/-- Words of major opcode 0x03 (R70) -/
def decodeOp03 (w : Nat) : Option Instr :=
  some (.andi (Fin.ofNat 32 (w / 2097152)) (Fin.ofNat 32 (w / 65536)) (BitVec.ofNat 16 w))

/-- Words of major opcode 0x04 (R70) -/
def decodeOp04 (w : Nat) : Option Instr :=
  some (.ori (Fin.ofNat 32 (w / 2097152)) (Fin.ofNat 32 (w / 65536)) (BitVec.ofNat 16 w))

/-- Words of major opcode 0x05 (R70) -/
def decodeOp05 (w : Nat) : Option Instr :=
  some (.xori (Fin.ofNat 32 (w / 2097152)) (Fin.ofNat 32 (w / 65536)) (BitVec.ofNat 16 w))

/-- Shift immediates (R70, R95) -/
def decodeOp06 (w : Nat) : Option Instr :=
  match fld w 6 10 with
  | 0 => some (.slli (Fin.ofNat 32 (w / 2097152)) (Fin.ofNat 32 (w / 65536)) (Fin.ofNat 64 w))
  | 1 => some (.srli (Fin.ofNat 32 (w / 2097152)) (Fin.ofNat 32 (w / 65536)) (Fin.ofNat 64 w))
  | 2 => some (.srai (Fin.ofNat 32 (w / 2097152)) (Fin.ofNat 32 (w / 65536)) (Fin.ofNat 64 w))
  | _ => none

/-- Words of major opcode 0x07 (R70) -/
def decodeOp07 (w : Nat) : Option Instr :=
  some (.slti (Fin.ofNat 32 (w / 2097152)) (Fin.ofNat 32 (w / 65536)) (BitVec.ofNat 16 w))

/-- Words of major opcode 0x08 (R70) -/
def decodeOp08 (w : Nat) : Option Instr :=
  some (.sltni (Fin.ofNat 32 (w / 2097152)) (Fin.ofNat 32 (w / 65536)) (BitVec.ofNat 16 w))

/-- Words of major opcode 0x09 (R70) -/
def decodeOp09 (w : Nat) : Option Instr :=
  if fld w 16 5 == 0 then some (.lui (Fin.ofNat 32 (w / 2097152)) (BitVec.ofNat 16 w)) else none

/-- Words of major opcode 0x0A (R70) -/
def decodeOp0A (w : Nat) : Option Instr :=
  if fld w 16 5 == 0 then some (.addpc (Fin.ofNat 32 (w / 2097152)) (BitVec.ofNat 16 w)) else none

/-- Skips (R96) -/
def decodeOp0B (w : Nat) : Option Instr :=
  match fld w 21 1 with
  | 0 => if fld w 2 9 == 0 then (Cond.ofCode? (fld w 22 4)).map fun cc => .skipReg cc (Fin.ofNat 32 (w / 65536)) (Fin.ofNat 32 (w / 2048)) (Fin.ofNat 4 w) else none
  | 1 => (Cond.ofCode? (fld w 22 4)).map fun cc => .skipImm cc (Fin.ofNat 32 (w / 65536)) (BitVec.ofNat 14 (w / 4)) (Fin.ofNat 4 w)
  | _ => none

/-- Words of major opcode 0x0C (R70) -/
def decodeOp0C (w : Nat) : Option Instr :=
  if fld w 21 1 == 0 then (Cond.ofCode? (fld w 22 4)).map fun cc => .br cc (Fin.ofNat 32 (w / 65536)) (BitVec.ofNat 16 w) else none

/-- Words of major opcode 0x0D (R70) -/
def decodeOp0D (w : Nat) : Option Instr :=
  some (.j (BitVec.ofNat 26 w))

/-- Words of major opcode 0x0E (R70) -/
def decodeOp0E (w : Nat) : Option Instr :=
  some (.call (BitVec.ofNat 26 w))

/-- Register jumps (R99) -/
def decodeOp0F (w : Nat) : Option Instr :=
  match fld w 0 16 with
  | 0 => if fld w 21 5 == 0 then some (.jr (Fin.ofNat 32 (w / 65536))) else none
  | 1 => some (.callr (Fin.ofNat 32 (w / 2097152)) (Fin.ofNat 32 (w / 65536)))
  | _ => none

/-- Words of major opcode 0x10 (R70) -/
def decodeOp10 (w : Nat) : Option Instr :=
  (Sz.ofCode? (fld w 13 3)).map fun sz => .ld (Fin.ofNat 32 (w / 2097152)) (Fin.ofNat 32 (w / 65536)) sz (BitVec.ofNat 13 w)

/-- Words of major opcode 0x11 (R70) -/
def decodeOp11 (w : Nat) : Option Instr :=
  (Sz.ofCode? (fld w 13 3)).map fun sz => .st (Fin.ofNat 32 (w / 2097152)) (Fin.ofNat 32 (w / 65536)) sz (BitVec.ofNat 13 w)

/-- Atomics (R72, R104) -/
def decodeOp12 (w : Nat) : Option Instr :=
  match fld w 7 4 with
  | 0 => if fld w 0 5 == 0 then (AWidth.ofCode? (fld w 5 2)).map fun wd => .atomSwap (Fin.ofNat 32 (w / 2097152)) (Fin.ofNat 32 (w / 65536)) (Fin.ofNat 32 (w / 2048)) wd else none
  | 1 => if fld w 0 5 == 0 then (AWidth.ofCode? (fld w 5 2)).map fun wd => .atomAdd (Fin.ofNat 32 (w / 2097152)) (Fin.ofNat 32 (w / 65536)) (Fin.ofNat 32 (w / 2048)) wd else none
  | 2 => if fld w 0 5 == 0 then (AWidth.ofCode? (fld w 5 2)).map fun wd => .atomAnd (Fin.ofNat 32 (w / 2097152)) (Fin.ofNat 32 (w / 65536)) (Fin.ofNat 32 (w / 2048)) wd else none
  | 3 => if fld w 0 5 == 0 then (AWidth.ofCode? (fld w 5 2)).map fun wd => .atomOr (Fin.ofNat 32 (w / 2097152)) (Fin.ofNat 32 (w / 65536)) (Fin.ofNat 32 (w / 2048)) wd else none
  | 4 => if fld w 0 5 == 0 then (AWidth.ofCode? (fld w 5 2)).map fun wd => .atomXor (Fin.ofNat 32 (w / 2097152)) (Fin.ofNat 32 (w / 65536)) (Fin.ofNat 32 (w / 2048)) wd else none
  | 5 => if fld w 0 4 == 0 then (AWidth.ofCode? (fld w 5 2)).map fun wd => .atomMax (Fin.ofNat 32 (w / 2097152)) (Fin.ofNat 32 (w / 65536)) (Fin.ofNat 32 (w / 2048)) wd (w / 16 % 2 == 1) else none
  | 6 => if fld w 0 4 == 0 then (AWidth.ofCode? (fld w 5 2)).map fun wd => .atomMin (Fin.ofNat 32 (w / 2097152)) (Fin.ofNat 32 (w / 65536)) (Fin.ofNat 32 (w / 2048)) wd (w / 16 % 2 == 1) else none
  | 7 => if fld w 0 5 == 0 then (AWidth.ofCode? (fld w 5 2)).map fun wd => .atomCas (Fin.ofNat 32 (w / 2097152)) (Fin.ofNat 32 (w / 65536)) (Fin.ofNat 32 (w / 2048)) wd else none
  | _ => none

/-- Cache operations (R107) -/
def decodeOp13 (w : Nat) : Option Instr :=
  match fld w 0 16 with
  | 0 => if fld w 21 5 == 0 then some (.pinL (Fin.ofNat 32 (w / 65536))) else none
  | 1 => if fld w 21 5 == 0 then some (.unpinL (Fin.ofNat 32 (w / 65536))) else none
  | 2 => if fld w 21 5 == 0 then some (.flush (Fin.ofNat 32 (w / 65536))) else none
  | 3 => if fld w 21 5 == 0 then some (.inval (Fin.ofNat 32 (w / 65536))) else none
  | 4 => if fld w 21 5 == 0 then some (.pref (Fin.ofNat 32 (w / 65536))) else none
  | _ => none

/-- Control-register access (R73) -/
def decodeOp14 (w : Nat) : Option Instr :=
  match fld w 12 4 with
  | 0 => if fld w 16 5 == 0 then some (.crr (Fin.ofNat 32 (w / 2097152)) (BitVec.ofNat 12 w)) else none
  | 1 => if fld w 21 5 == 0 then some (.crw (Fin.ofNat 32 (w / 65536)) (BitVec.ofNat 12 w)) else none
  | 2 => some (.crs (Fin.ofNat 32 (w / 2097152)) (Fin.ofNat 32 (w / 65536)) (BitVec.ofNat 12 w))
  | 3 => some (.crc (Fin.ofNat 32 (w / 2097152)) (Fin.ofNat 32 (w / 65536)) (BitVec.ofNat 12 w))
  | _ => none

/-- System instructions (R111) -/
def decodeOp15 (w : Nat) : Option Instr :=
  match fld w 8 8 with
  | 0 => if fld w 0 8 == 0 && fld w 16 10 == 0 then some (.nop) else none
  | 1 => if fld w 16 10 == 0 then some (.trap (BitVec.ofNat 8 w)) else none
  | 2 => if fld w 0 8 == 0 && fld w 16 10 == 0 then some (.eret) else none
  | 3 => if fld w 0 8 == 0 && fld w 16 10 == 0 then some (.halt) else none
  | 4 => if fld w 0 8 == 0 && fld w 16 10 == 0 then some (.yield) else none
  | 5 => if fld w 16 10 == 0 then some (.brk (BitVec.ofNat 8 w)) else none
  | 6 => (if fld w 0 8 == 0 && fld w 21 5 == 0 then some (.fackResume (Fin.ofNat 32 (w / 65536))) else none)
      <|> (if fld w 0 8 == 1 && fld w 21 5 == 0 then some (.fackSkip (Fin.ofNat 32 (w / 65536))) else none)
      <|> (if fld w 0 8 == 2 && fld w 21 5 == 0 then some (.fackKill (Fin.ofNat 32 (w / 65536))) else none)
  | _ => none

/-- Words of major opcode 0x16 (R70) -/
def decodeOp16 (w : Nat) : Option Instr :=
  match fld w 0 5 with
  | 0 => (VTy.ofCode? (fld w 8 3) (fld w 5 1)).map fun ty => .vadd (Fin.ofNat 32 (w / 2097152)) (Fin.ofNat 32 (w / 65536)) (Fin.ofNat 32 (w / 2048)) (Fin.ofNat 4 (w / 64)) ty
  | 1 => (VTy.ofCode? (fld w 8 3) (fld w 5 1)).map fun ty => .vsub (Fin.ofNat 32 (w / 2097152)) (Fin.ofNat 32 (w / 65536)) (Fin.ofNat 32 (w / 2048)) (Fin.ofNat 4 (w / 64)) ty
  | 2 => (VTy.ofCode? (fld w 8 3) (fld w 5 1)).map fun ty => .vmul (Fin.ofNat 32 (w / 2097152)) (Fin.ofNat 32 (w / 65536)) (Fin.ofNat 32 (w / 2048)) (Fin.ofNat 4 (w / 64)) ty
  | 3 => (VTy.ofCode? (fld w 8 3) (fld w 5 1)).map fun ty => .vmin (Fin.ofNat 32 (w / 2097152)) (Fin.ofNat 32 (w / 65536)) (Fin.ofNat 32 (w / 2048)) (Fin.ofNat 4 (w / 64)) ty
  | 4 => (VTy.ofCode? (fld w 8 3) (fld w 5 1)).map fun ty => .vmax (Fin.ofNat 32 (w / 2097152)) (Fin.ofNat 32 (w / 65536)) (Fin.ofNat 32 (w / 2048)) (Fin.ofNat 4 (w / 64)) ty
  | 5 => (VTy.ofCode? (fld w 8 3) (fld w 5 1)).map fun ty => .vclamp (Fin.ofNat 32 (w / 2097152)) (Fin.ofNat 32 (w / 65536)) (Fin.ofNat 32 (w / 2048)) (Fin.ofNat 4 (w / 64)) ty
  | 6 => if fld w 11 5 == 0 then (VTy.ofCode? (fld w 8 3) (fld w 5 1)).map fun ty => .vabs (Fin.ofNat 32 (w / 2097152)) (Fin.ofNat 32 (w / 65536)) (Fin.ofNat 4 (w / 64)) ty else none
  | 7 => if fld w 11 5 == 0 then (VTy.ofCode? (fld w 8 3) (fld w 5 1)).map fun ty => .vneg (Fin.ofNat 32 (w / 2097152)) (Fin.ofNat 32 (w / 65536)) (Fin.ofNat 4 (w / 64)) ty else none
  | 8 => (VTy.ofCode? (fld w 8 3) (fld w 5 1)).map fun ty => .vand (Fin.ofNat 32 (w / 2097152)) (Fin.ofNat 32 (w / 65536)) (Fin.ofNat 32 (w / 2048)) (Fin.ofNat 4 (w / 64)) ty
  | 9 => (VTy.ofCode? (fld w 8 3) (fld w 5 1)).map fun ty => .vor (Fin.ofNat 32 (w / 2097152)) (Fin.ofNat 32 (w / 65536)) (Fin.ofNat 32 (w / 2048)) (Fin.ofNat 4 (w / 64)) ty
  | 10 => (VTy.ofCode? (fld w 8 3) (fld w 5 1)).map fun ty => .vxor (Fin.ofNat 32 (w / 2097152)) (Fin.ofNat 32 (w / 65536)) (Fin.ofNat 32 (w / 2048)) (Fin.ofNat 4 (w / 64)) ty
  | 11 => (VTy.ofCode? (fld w 8 3) (fld w 5 1)).map fun ty => .vsll (Fin.ofNat 32 (w / 2097152)) (Fin.ofNat 32 (w / 65536)) (Fin.ofNat 32 (w / 2048)) (Fin.ofNat 4 (w / 64)) ty
  | 12 => (VTy.ofCode? (fld w 8 3) (fld w 5 1)).map fun ty => .vsrl (Fin.ofNat 32 (w / 2097152)) (Fin.ofNat 32 (w / 65536)) (Fin.ofNat 32 (w / 2048)) (Fin.ofNat 4 (w / 64)) ty
  | 13 => (VTy.ofCode? (fld w 8 3) (fld w 5 1)).map fun ty => .vsra (Fin.ofNat 32 (w / 2097152)) (Fin.ofNat 32 (w / 65536)) (Fin.ofNat 32 (w / 2048)) (Fin.ofNat 4 (w / 64)) ty
  | 14 => if fld w 11 5 == 0 then (VTy.ofCode? (fld w 8 3) (fld w 5 1)).map fun ty => .vrcp (Fin.ofNat 32 (w / 2097152)) (Fin.ofNat 32 (w / 65536)) (Fin.ofNat 4 (w / 64)) ty else none
  | 15 => if fld w 11 5 == 0 then (VTy.ofCode? (fld w 8 3) (fld w 5 1)).map fun ty => .vrsq (Fin.ofNat 32 (w / 2097152)) (Fin.ofNat 32 (w / 65536)) (Fin.ofNat 4 (w / 64)) ty else none
  | 16 => if fld w 11 5 == 0 then (VTy.ofCode? (fld w 8 3) (fld w 5 1)).map fun ty => .vsqrt (Fin.ofNat 32 (w / 2097152)) (Fin.ofNat 32 (w / 65536)) (Fin.ofNat 4 (w / 64)) ty else none
  | 17 => if fld w 11 5 == 0 then (VTy.ofCode? (fld w 8 3) (fld w 5 1)).map fun ty => .vexp2 (Fin.ofNat 32 (w / 2097152)) (Fin.ofNat 32 (w / 65536)) (Fin.ofNat 4 (w / 64)) ty else none
  | 18 => if fld w 11 5 == 0 then (VTy.ofCode? (fld w 8 3) (fld w 5 1)).map fun ty => .vlog2 (Fin.ofNat 32 (w / 2097152)) (Fin.ofNat 32 (w / 65536)) (Fin.ofNat 4 (w / 64)) ty else none
  | 19 => (VTy.ofCode? (fld w 8 3) (fld w 5 1)).map fun ty => .vdiv (Fin.ofNat 32 (w / 2097152)) (Fin.ofNat 32 (w / 65536)) (Fin.ofNat 32 (w / 2048)) (Fin.ofNat 4 (w / 64)) ty
  | 20 => (VTy.ofCode? (fld w 8 3) (fld w 5 1)).map fun ty => .vadds (Fin.ofNat 32 (w / 2097152)) (Fin.ofNat 32 (w / 65536)) (Fin.ofNat 32 (w / 2048)) (Fin.ofNat 4 (w / 64)) ty
  | 21 => (VTy.ofCode? (fld w 8 3) (fld w 5 1)).map fun ty => .vsubs (Fin.ofNat 32 (w / 2097152)) (Fin.ofNat 32 (w / 65536)) (Fin.ofNat 32 (w / 2048)) (Fin.ofNat 4 (w / 64)) ty
  | _ => none

/-- Words of major opcode 0x17 (R70) -/
def decodeOp17 (w : Nat) : Option Instr :=
  match fld w 0 5 with
  | 0 => (VTy.ofCode? (fld w 8 3) (fld w 5 1)).map fun ty => .vfma (Fin.ofNat 32 (w / 2097152)) (Fin.ofNat 32 (w / 65536)) (Fin.ofNat 32 (w / 2048)) (Fin.ofNat 4 (w / 64)) ty
  | 1 => (VTy.ofCode? (fld w 8 3) (fld w 5 1)).map fun ty => .vfms (Fin.ofNat 32 (w / 2097152)) (Fin.ofNat 32 (w / 65536)) (Fin.ofNat 32 (w / 2048)) (Fin.ofNat 4 (w / 64)) ty
  | 2 => (VTy.ofCode? (fld w 8 3) (fld w 5 1)).map fun ty => .vnfma (Fin.ofNat 32 (w / 2097152)) (Fin.ofNat 32 (w / 65536)) (Fin.ofNat 32 (w / 2048)) (Fin.ofNat 4 (w / 64)) ty
  | _ => none

/-- Words of major opcode 0x18 (R70) -/
def decodeOp18 (w : Nat) : Option Instr :=
  match fld w 0 5 with
  | 0 => if fld w 23 3 == 0 then (VTy.ofCode? (fld w 8 3) (fld w 5 1)).map fun ty => .vcmpEq (Fin.ofNat 4 (w / 2097152)) (Fin.ofNat 32 (w / 65536)) (Fin.ofNat 32 (w / 2048)) (Fin.ofNat 4 (w / 64)) ty else none
  | 1 => if fld w 23 3 == 0 then (VTy.ofCode? (fld w 8 3) (fld w 5 1)).map fun ty => .vcmpNe (Fin.ofNat 4 (w / 2097152)) (Fin.ofNat 32 (w / 65536)) (Fin.ofNat 32 (w / 2048)) (Fin.ofNat 4 (w / 64)) ty else none
  | 2 => if fld w 23 3 == 0 then (VTy.ofCode? (fld w 8 3) (fld w 5 1)).map fun ty => .vcmpLt (Fin.ofNat 4 (w / 2097152)) (Fin.ofNat 32 (w / 65536)) (Fin.ofNat 32 (w / 2048)) (Fin.ofNat 4 (w / 64)) ty else none
  | 3 => if fld w 23 3 == 0 then (VTy.ofCode? (fld w 8 3) (fld w 5 1)).map fun ty => .vcmpGe (Fin.ofNat 4 (w / 2097152)) (Fin.ofNat 32 (w / 65536)) (Fin.ofNat 32 (w / 2048)) (Fin.ofNat 4 (w / 64)) ty else none
  | 4 => if fld w 23 3 == 0 then (VTy.ofCode? (fld w 8 3) (fld w 5 1)).map fun ty => .vcmpLe (Fin.ofNat 4 (w / 2097152)) (Fin.ofNat 32 (w / 65536)) (Fin.ofNat 32 (w / 2048)) (Fin.ofNat 4 (w / 64)) ty else none
  | 5 => if fld w 23 3 == 0 then (VTy.ofCode? (fld w 8 3) (fld w 5 1)).map fun ty => .vcmpGt (Fin.ofNat 4 (w / 2097152)) (Fin.ofNat 32 (w / 65536)) (Fin.ofNat 32 (w / 2048)) (Fin.ofNat 4 (w / 64)) ty else none
  | 8 => (VTy.ofCode? (fld w 8 3) (fld w 5 1)).map fun ty => .vsel (Fin.ofNat 32 (w / 2097152)) (Fin.ofNat 32 (w / 65536)) (Fin.ofNat 32 (w / 2048)) (Fin.ofNat 4 (w / 64)) ty
  | 9 => if fld w 5 6 == 0 && fld w 13 3 == 0 && fld w 18 3 == 0 && fld w 23 3 == 0 then some (.mand (Fin.ofNat 4 (w / 2097152)) (Fin.ofNat 4 (w / 65536)) (Fin.ofNat 4 (w / 2048))) else none
  | 10 => if fld w 5 6 == 0 && fld w 13 3 == 0 && fld w 18 3 == 0 && fld w 23 3 == 0 then some (.mor (Fin.ofNat 4 (w / 2097152)) (Fin.ofNat 4 (w / 65536)) (Fin.ofNat 4 (w / 2048))) else none
  | 11 => if fld w 5 6 == 0 && fld w 13 3 == 0 && fld w 18 3 == 0 && fld w 23 3 == 0 then some (.mxor (Fin.ofNat 4 (w / 2097152)) (Fin.ofNat 4 (w / 65536)) (Fin.ofNat 4 (w / 2048))) else none
  | 12 => if fld w 5 11 == 0 && fld w 18 3 == 0 && fld w 23 3 == 0 then some (.mnot (Fin.ofNat 4 (w / 2097152)) (Fin.ofNat 4 (w / 65536))) else none
  | _ => none

/-- Words of major opcode 0x19 (R70) -/
def decodeOp19 (w : Nat) : Option Instr :=
  match fld w 0 5 with
  | 0 => (VTy.ofCode? (fld w 8 3) (fld w 5 1)).map fun ty => .vperm (Fin.ofNat 32 (w / 2097152)) (Fin.ofNat 32 (w / 65536)) (Fin.ofNat 32 (w / 2048)) (Fin.ofNat 4 (w / 64)) ty
  | 1 => (VTy.ofCode? (fld w 8 3) (fld w 5 1)).map fun ty => .vslup (Fin.ofNat 32 (w / 2097152)) (Fin.ofNat 32 (w / 65536)) (Fin.ofNat 32 (w / 2048)) (Fin.ofNat 4 (w / 64)) ty
  | 2 => (VTy.ofCode? (fld w 8 3) (fld w 5 1)).map fun ty => .vsldn (Fin.ofNat 32 (w / 2097152)) (Fin.ofNat 32 (w / 65536)) (Fin.ofNat 32 (w / 2048)) (Fin.ofNat 4 (w / 64)) ty
  | 3 => (VTy.ofCode? (fld w 8 3) (fld w 5 1)).map fun ty => .vzip (Fin.ofNat 32 (w / 2097152)) (Fin.ofNat 32 (w / 65536)) (Fin.ofNat 32 (w / 2048)) (Fin.ofNat 4 (w / 64)) ty
  | 4 => (VTy.ofCode? (fld w 8 3) (fld w 5 1)).map fun ty => .vunzip (Fin.ofNat 32 (w / 2097152)) (Fin.ofNat 32 (w / 65536)) (Fin.ofNat 32 (w / 2048)) (Fin.ofNat 4 (w / 64)) ty
  | 5 => if fld w 11 5 == 0 then (VTy.ofCode? (fld w 8 3) (fld w 5 1)).map fun ty => .vrev (Fin.ofNat 32 (w / 2097152)) (Fin.ofNat 32 (w / 65536)) (Fin.ofNat 4 (w / 64)) ty else none
  | _ => none

/-- Words of major opcode 0x1A (R70) -/
def decodeOp1A (w : Nat) : Option Instr :=
  match fld w 0 5 with
  | 0 => (VTy.ofCode? (fld w 8 3) (fld w 5 1)).bind fun dty => (VTy.ofCode? (fld w 13 3) (fld w 12 1)).map fun sty => .vcvt (Fin.ofNat 32 (w / 2097152)) (Fin.ofNat 32 (w / 65536)) (Fin.ofNat 4 (w / 64)) dty sty (w / 2048 % 2 == 1)
  | 1 => (if fld w 5 1 == 0 && fld w 8 3 == 6 then some (.vpack4F32 (Fin.ofNat 32 (w / 2097152)) (Fin.ofNat 32 (w / 65536)) (Fin.ofNat 32 (w / 2048)) (Fin.ofNat 4 (w / 64))) else none)
      <|> (if fld w 5 1 == 0 && fld w 9 7 == 2 then some (.vpack4Half (Fin.ofNat 32 (w / 2097152)) (Fin.ofNat 32 (w / 65536)) (Fin.ofNat 4 (w / 64)) (w / 256 % 2 == 1)) else none)
  | 2 => (if fld w 5 1 == 0 && fld w 9 5 == 2 then some (.vunpack4Half (Fin.ofNat 32 (w / 2097152)) (Fin.ofNat 32 (w / 65536)) (Fin.ofNat 4 (w / 64)) (w / 256 % 2 == 1) (Fin.ofNat 4 (w / 16384))) else none)
      <|> (if fld w 5 1 == 0 && fld w 8 3 == 6 && fld w 12 2 == 0 then some (.vunpack4F32 (Fin.ofNat 32 (w / 2097152)) (Fin.ofNat 32 (w / 65536)) (Fin.ofNat 4 (w / 64)) (Fin.ofNat 4 (w / 16384)) (w / 2048 % 2 == 1)) else none)
  | _ => none

/-- Words of major opcode 0x1B (R70) -/
def decodeOp1B (w : Nat) : Option Instr :=
  match fld w 0 5 with
  | 0 => if fld w 11 5 == 0 then (VTy.ofCode? (fld w 8 3) (fld w 5 1)).map fun ty => .vrsum (Fin.ofNat 32 (w / 2097152)) (Fin.ofNat 32 (w / 65536)) (Fin.ofNat 4 (w / 64)) ty else none
  | 1 => if fld w 11 5 == 0 then (VTy.ofCode? (fld w 8 3) (fld w 5 1)).map fun ty => .vrmax (Fin.ofNat 32 (w / 2097152)) (Fin.ofNat 32 (w / 65536)) (Fin.ofNat 4 (w / 64)) ty else none
  | 2 => if fld w 11 5 == 0 then (VTy.ofCode? (fld w 8 3) (fld w 5 1)).map fun ty => .vrmin (Fin.ofNat 32 (w / 2097152)) (Fin.ofNat 32 (w / 65536)) (Fin.ofNat 4 (w / 64)) ty else none
  | 3 => if fld w 11 5 == 0 then (VTy.ofCode? (fld w 8 3) (fld w 5 1)).map fun ty => .vrand (Fin.ofNat 32 (w / 2097152)) (Fin.ofNat 32 (w / 65536)) (Fin.ofNat 4 (w / 64)) ty else none
  | 4 => if fld w 11 5 == 0 then (VTy.ofCode? (fld w 8 3) (fld w 5 1)).map fun ty => .vror (Fin.ofNat 32 (w / 2097152)) (Fin.ofNat 32 (w / 65536)) (Fin.ofNat 4 (w / 64)) ty else none
  | 5 => if fld w 11 5 == 0 then (VTy.ofCode? (fld w 8 3) (fld w 5 1)).map fun ty => .vrxor (Fin.ofNat 32 (w / 2097152)) (Fin.ofNat 32 (w / 65536)) (Fin.ofNat 4 (w / 64)) ty else none
  | _ => none

/-- Words of major opcode 0x1C (R70) -/
def decodeOp1C (w : Nat) : Option Instr :=
  match fld w 0 5 with
  | 0 => if fld w 11 5 == 0 then (VTy.ofCode? (fld w 8 3) (fld w 5 1)).map fun ty => .vld (Fin.ofNat 32 (w / 2097152)) (Fin.ofNat 32 (w / 65536)) (Fin.ofNat 4 (w / 64)) ty else none
  | 1 => (VTy.ofCode? (fld w 8 3) (fld w 5 1)).map fun ty => .vlds (Fin.ofNat 32 (w / 2097152)) (Fin.ofNat 32 (w / 65536)) (Fin.ofNat 32 (w / 2048)) (Fin.ofNat 4 (w / 64)) ty
  | 2 => (VTy.ofCode? (fld w 8 3) (fld w 5 1)).map fun ty => .vldx (Fin.ofNat 32 (w / 2097152)) (Fin.ofNat 32 (w / 65536)) (Fin.ofNat 32 (w / 2048)) (Fin.ofNat 4 (w / 64)) ty
  | _ => none

/-- Words of major opcode 0x1D (R70) -/
def decodeOp1D (w : Nat) : Option Instr :=
  match fld w 0 5 with
  | 0 => if fld w 11 5 == 0 then (VTy.ofCode? (fld w 8 3) (fld w 5 1)).map fun ty => .vst (Fin.ofNat 32 (w / 2097152)) (Fin.ofNat 32 (w / 65536)) (Fin.ofNat 4 (w / 64)) ty else none
  | 1 => (VTy.ofCode? (fld w 8 3) (fld w 5 1)).map fun ty => .vsts (Fin.ofNat 32 (w / 2097152)) (Fin.ofNat 32 (w / 65536)) (Fin.ofNat 32 (w / 2048)) (Fin.ofNat 4 (w / 64)) ty
  | 2 => (VTy.ofCode? (fld w 8 3) (fld w 5 1)).map fun ty => .vstx (Fin.ofNat 32 (w / 2097152)) (Fin.ofNat 32 (w / 65536)) (Fin.ofNat 32 (w / 2048)) (Fin.ofNat 4 (w / 64)) ty
  | _ => none

/-- Words of major opcode 0x1E (R70) -/
def decodeOp1E (w : Nat) : Option Instr :=
  match fld w 0 5 with
  | 0 => if fld w 11 5 == 0 then (VTy.ofCode? (fld w 8 3) (fld w 5 1)).map fun ty => .vsplat (Fin.ofNat 32 (w / 2097152)) (Fin.ofNat 32 (w / 65536)) (Fin.ofNat 4 (w / 64)) ty else none
  | 1 => if fld w 6 2 == 0 then (VTy.ofCode? (fld w 8 3) (fld w 5 1)).map fun ty => .vins (Fin.ofNat 32 (w / 2097152)) (Fin.ofNat 32 (w / 65536)) (Fin.ofNat 32 (w / 2048)) ty else none
  | 2 => if fld w 6 2 == 0 then (VTy.ofCode? (fld w 8 3) (fld w 5 1)).map fun ty => .vext (Fin.ofNat 32 (w / 2097152)) (Fin.ofNat 32 (w / 65536)) (Fin.ofNat 32 (w / 2048)) ty else none
  | 3 => if fld w 5 11 == 0 && fld w 18 3 == 0 then some (.mgetg (Fin.ofNat 32 (w / 2097152)) (Fin.ofNat 4 (w / 65536))) else none
  | 4 => if fld w 5 11 == 0 && fld w 23 3 == 0 then some (.msetg (Fin.ofNat 4 (w / 2097152)) (Fin.ofNat 32 (w / 65536))) else none
  | _ => none

/-- Words of major opcode 0x20 (R70) -/
def decodeOp20 (w : Nat) : Option Instr :=
  if fld w 3 13 == 0 then some (.sync (Fin.ofNat 32 (w / 2097152)) (Fin.ofNat 32 (w / 65536)) (Fin.ofNat 8 w)) else none

/-- Words of major opcode 0x21 (R70) -/
def decodeOp21 (w : Nat) : Option Instr :=
  match fld w 0 16 with
  | 0 => if fld w 21 5 == 0 then some (.barw (Fin.ofNat 32 (w / 65536))) else none
  | 1 => some (.barq (Fin.ofNat 32 (w / 2097152)) (Fin.ofNat 32 (w / 65536)))
  | 2 => if fld w 21 5 == 0 then some (.barset (Fin.ofNat 32 (w / 65536))) else none
  | _ => none

/-- Words of major opcode 0x22 (R70) -/
def decodeOp22 (w : Nat) : Option Instr :=
  match fld w 0 11 with
  | 0 => some (.evname (Fin.ofNat 32 (w / 2097152)) (Fin.ofNat 32 (w / 65536)) (Fin.ofNat 32 (w / 2048)))
  | 1 => if fld w 11 5 == 0 then some (.evinfo (Fin.ofNat 32 (w / 2097152)) (Fin.ofNat 32 (w / 65536))) else none
  | _ => none

/-- Words of major opcode 0x24 (R70) -/
def decodeOp24 (w : Nat) : Option Instr :=
  if fld w 8 3 == 0 && fld w 22 4 == 0 then some (.mma (Fin.ofNat 2 (w / 2097152)) (Fin.ofNat 32 (w / 65536)) (Fin.ofNat 32 (w / 2048)) (Fin.ofNat 16 (w / 16)) (Fin.ofNat 16 w)) else none

/-- Words of major opcode 0x25 (R70) -/
def decodeOp25 (w : Nat) : Option Instr :=
  match fld w 0 16 with
  | 0 => if fld w 21 5 == 0 then some (.mgeo (Fin.ofNat 32 (w / 65536))) else none
  | 1 => if fld w 16 5 == 0 && fld w 22 4 == 0 then some (.mzero (Fin.ofNat 2 (w / 2097152))) else none
  | 2 => if fld w 22 4 == 0 then some (.msave (Fin.ofNat 2 (w / 2097152)) (Fin.ofNat 32 (w / 65536))) else none
  | 3 => if fld w 22 4 == 0 then some (.mrest (Fin.ofNat 2 (w / 2097152)) (Fin.ofNat 32 (w / 65536))) else none
  | _ => none

/-- Words of major opcode 0x26 (R70) -/
def decodeOp26 (w : Nat) : Option Instr :=
  match fld w 0 11 with
  | 0 => if fld w 11 5 == 0 && fld w 25 1 == 0 then some (.dload (Fin.ofNat 16 (w / 2097152)) (Fin.ofNat 32 (w / 65536))) else none
  | 1 => if fld w 21 5 == 0 then some (.dloadT (Fin.ofNat 32 (w / 65536)) (Fin.ofNat 32 (w / 2048))) else none
  | 2 => if fld w 11 5 == 0 && fld w 25 1 == 0 then some (.dbind (Fin.ofNat 16 (w / 2097152)) (Fin.ofNat 32 (w / 65536))) else none
  | _ => none

/-- Words of major opcode 0x28 (R70) -/
def decodeOp28 (w : Nat) : Option Instr :=
  match fld w 0 16 with
  | 0 => some (.cpy (Fin.ofNat 32 (w / 2097152)) (Fin.ofNat 32 (w / 65536)))
  | 1 => some (.gath (Fin.ofNat 32 (w / 2097152)) (Fin.ofNat 32 (w / 65536)))
  | 2 => some (.scat (Fin.ofNat 32 (w / 2097152)) (Fin.ofNat 32 (w / 65536)))
  | 3 => some (.fill (Fin.ofNat 32 (w / 2097152)) (Fin.ofNat 32 (w / 65536)))
  | 1024 => if fld w 21 5 == 0 then some (.cpyEv (Fin.ofNat 32 (w / 65536))) else none
  | 1025 => if fld w 21 5 == 0 then some (.gathEv (Fin.ofNat 32 (w / 65536))) else none
  | 1026 => if fld w 21 5 == 0 then some (.scatEv (Fin.ofNat 32 (w / 65536))) else none
  | 1027 => if fld w 21 5 == 0 then some (.fillEv (Fin.ofNat 32 (w / 65536))) else none
  | _ => none

/-- Words of major opcode 0x2A (R70) -/
def decodeOp2A (w : Nat) : Option Instr :=
  match fld w 11 2 with
  | 0 => if fld w 19 2 == 0 then (Sz.ofCode? (fld w 13 3)).map fun sz => .hld (Fin.ofNat 32 (w / 2097152)) (Fin.ofNat 8 (w / 65536)) sz (BitVec.ofNat 11 w) else none
  | 1 => if fld w 19 2 == 0 then (Sz.ofCode? (fld w 13 3)).map fun sz => .hst (Fin.ofNat 32 (w / 2097152)) (Fin.ofNat 8 (w / 65536)) sz (BitVec.ofNat 11 w) else none
  | 2 => if fld w 13 3 == 6 && fld w 19 2 == 0 && fld w 24 2 == 0 then some (.hldr (Fin.ofNat 8 (w / 2097152)) (Fin.ofNat 8 (w / 65536)) (BitVec.ofNat 11 w)) else none
  | 3 => if fld w 13 3 == 6 && fld w 19 2 == 0 && fld w 24 2 == 0 then some (.hstr (Fin.ofNat 8 (w / 2097152)) (Fin.ofNat 8 (w / 65536)) (BitVec.ofNat 11 w)) else none
  | _ => none

/-- Words of major opcode 0x2B (R70) -/
def decodeOp2B (w : Nat) : Option Instr :=
  match fld w 0 11 with
  | 0 => if fld w 24 2 == 0 then some (.hnew (Fin.ofNat 8 (w / 2097152)) (Fin.ofNat 32 (w / 65536)) (Fin.ofNat 32 (w / 2048))) else none
  | 1 => if fld w 11 5 == 0 && fld w 19 2 == 0 then some (.hpin (Fin.ofNat 32 (w / 2097152)) (Fin.ofNat 8 (w / 65536))) else none
  | 2 => if fld w 11 5 == 0 && fld w 19 7 == 0 then some (.hunpin (Fin.ofNat 8 (w / 65536))) else none
  | 3 => if fld w 14 2 == 0 && fld w 19 2 == 0 then some (.hcmp (Fin.ofNat 32 (w / 2097152)) (Fin.ofNat 8 (w / 65536)) (Fin.ofNat 8 (w / 2048))) else none
  | 4 => if fld w 11 5 == 0 && fld w 19 2 == 0 && fld w 24 2 == 0 then some (.hmov (Fin.ofNat 8 (w / 2097152)) (Fin.ofNat 8 (w / 65536))) else none
  | 5 => if fld w 11 5 == 0 && fld w 19 2 == 0 then some (.htag (Fin.ofNat 32 (w / 2097152)) (Fin.ofNat 8 (w / 65536))) else none
  | 6 => if fld w 11 5 == 0 && fld w 19 2 == 0 then some (.hget (Fin.ofNat 32 (w / 2097152)) (Fin.ofNat 8 (w / 65536))) else none
  | _ => none

/-- Words of major opcode 0x2D (R70) -/
def decodeOp2D (w : Nat) : Option Instr :=
  match fld w 3 8 with
  | 0 => if fld w 0 3 == 0 && fld w 21 5 == 0 then some (.spawn (Fin.ofNat 32 (w / 65536)) (Fin.ofNat 32 (w / 2048))) else none
  | 1 => if fld w 0 3 == 0 && fld w 11 5 == 0 && fld w 21 5 == 0 then some (.launch (Fin.ofNat 32 (w / 65536))) else none
  | 2 => if fld w 0 3 == 0 && fld w 11 15 == 0 then some (.exit) else none
  | 3 => if fld w 11 10 == 0 then some (.rank (Fin.ofNat 32 (w / 2097152)) (Fin.ofNat 8 w)) else none
  | 4 => if fld w 11 10 == 0 then some (.size (Fin.ofNat 32 (w / 2097152)) (Fin.ofNat 8 w)) else none
  | _ => none

/-- Words of major opcode 0x2E (R70) -/
def decodeOp2E (w : Nat) : Option Instr :=
  match fld w 0 16 with
  | 0 => if fld w 21 5 == 0 then some (.tlbw (Fin.ofNat 32 (w / 65536))) else none
  | 1 => if fld w 21 5 == 0 then some (.tlbi (Fin.ofNat 32 (w / 65536))) else none
  | 2 => some (.tlbr (Fin.ofNat 32 (w / 2097152)) (Fin.ofNat 32 (w / 65536)))
  | 3 => if fld w 21 5 == 0 then some (.seed (Fin.ofNat 32 (w / 65536))) else none
  | 4 => if fld w 21 5 == 0 then some (.migr (Fin.ofNat 32 (w / 65536))) else none
  | _ => none

/-- A word read by its major opcode, before the checks of well-formedness (R70, R71). -/
def decodeRaw (w : Nat) : Option Instr :=
  match fld w 26 6 with
  | 1 => decodeOp01 w
  | 2 => decodeOp02 w
  | 3 => decodeOp03 w
  | 4 => decodeOp04 w
  | 5 => decodeOp05 w
  | 6 => decodeOp06 w
  | 7 => decodeOp07 w
  | 8 => decodeOp08 w
  | 9 => decodeOp09 w
  | 10 => decodeOp0A w
  | 11 => decodeOp0B w
  | 12 => decodeOp0C w
  | 13 => decodeOp0D w
  | 14 => decodeOp0E w
  | 15 => decodeOp0F w
  | 16 => decodeOp10 w
  | 17 => decodeOp11 w
  | 18 => decodeOp12 w
  | 19 => decodeOp13 w
  | 20 => decodeOp14 w
  | 21 => decodeOp15 w
  | 22 => decodeOp16 w
  | 23 => decodeOp17 w
  | 24 => decodeOp18 w
  | 25 => decodeOp19 w
  | 26 => decodeOp1A w
  | 27 => decodeOp1B w
  | 28 => decodeOp1C w
  | 29 => decodeOp1D w
  | 30 => decodeOp1E w
  | 32 => decodeOp20 w
  | 33 => decodeOp21 w
  | 34 => decodeOp22 w
  | 36 => decodeOp24 w
  | 37 => decodeOp25 w
  | 38 => decodeOp26 w
  | 40 => decodeOp28 w
  | 42 => decodeOp2A w
  | 43 => decodeOp2B w
  | 45 => decodeOp2D w
  | 46 => decodeOp2E w
  | _ => none

/-- The instruction a 32-bit word of text stands for, or none where R71 makes the word illegal. -/
def decodeWord (w : BitVec 32) : Option Instr := (decodeRaw w.toNat).filter Instr.wf

/-- The four bytes of a word as the hardware stores them, little-endian (R65). -/
def bytesOfWord (w : BitVec 32) : List Byte :=
  [w.extractLsb' 0 8, w.extractLsb' 8 8, w.extractLsb' 16 8, w.extractLsb' 24 8]

/-- A little-endian word read from bytes; missing bytes read as zero. -/
def wordOfBytes : List Byte → Nat
  | [] => 0
  | b :: bs => b.toNat + 256 * wordOfBytes bs

/-- The decoder over bytes: the instruction in the first four bytes, and the bytes after it. -/
def decode (bs : List Byte) : Option (Instr × List Byte) :=
  (decodeWord (BitVec.ofNat 32 (wordOfBytes (bs.take 4)))).map fun i => (i, bs.drop 4)

/-- A drain micro-op word (R79, R216), or none where R80 refuses the program for it. -/
def decodeDrain (w : Nat) : Option Instr :=
  match fld w 26 6 with
  | 0 => if fld w 0 26 == 0 then some (.drainNop) else none
  | 1 => if fld w 0 17 == 0 then some (.drainAdd (Fin.ofNat 8 (w / 8388608)) (Fin.ofNat 8 (w / 1048576)) (Fin.ofNat 8 (w / 131072))) else none
  | 2 => if fld w 0 17 == 0 then some (.drainSub (Fin.ofNat 8 (w / 8388608)) (Fin.ofNat 8 (w / 1048576)) (Fin.ofNat 8 (w / 131072))) else none
  | 3 => if fld w 0 17 == 0 then some (.drainMul (Fin.ofNat 8 (w / 8388608)) (Fin.ofNat 8 (w / 1048576)) (Fin.ofNat 8 (w / 131072))) else none
  | 4 => if fld w 0 14 == 0 then some (.drainFma (Fin.ofNat 8 (w / 8388608)) (Fin.ofNat 8 (w / 1048576)) (Fin.ofNat 8 (w / 131072)) (Fin.ofNat 8 (w / 16384))) else none
  | 5 => if fld w 0 17 == 0 then some (.drainMax (Fin.ofNat 8 (w / 8388608)) (Fin.ofNat 8 (w / 1048576)) (Fin.ofNat 8 (w / 131072))) else none
  | 6 => if fld w 0 17 == 0 then some (.drainMin (Fin.ofNat 8 (w / 8388608)) (Fin.ofNat 8 (w / 1048576)) (Fin.ofNat 8 (w / 131072))) else none
  | 7 => if fld w 0 20 == 0 then some (.drainAbs (Fin.ofNat 8 (w / 8388608)) (Fin.ofNat 8 (w / 1048576))) else none
  | 8 => if fld w 0 20 == 0 then some (.drainNeg (Fin.ofNat 8 (w / 8388608)) (Fin.ofNat 8 (w / 1048576))) else none
  | 9 => if fld w 0 14 == 0 then some (.drainClamp (Fin.ofNat 8 (w / 8388608)) (Fin.ofNat 8 (w / 1048576)) (Fin.ofNat 8 (w / 131072)) (Fin.ofNat 8 (w / 16384))) else none
  | 10 => if fld w 0 20 == 0 then some (.drainRcp (Fin.ofNat 8 (w / 8388608)) (Fin.ofNat 8 (w / 1048576))) else none
  | 11 => if fld w 0 20 == 0 then some (.drainRsq (Fin.ofNat 8 (w / 8388608)) (Fin.ofNat 8 (w / 1048576))) else none
  | 12 => if fld w 0 20 == 0 then some (.drainExp2 (Fin.ofNat 8 (w / 8388608)) (Fin.ofNat 8 (w / 1048576))) else none
  | 13 => if fld w 0 20 == 0 then some (.drainLog2 (Fin.ofNat 8 (w / 8388608)) (Fin.ofNat 8 (w / 1048576))) else none
  | 14 => if fld w 3 14 == 0 then (VCond.ofCode? (fld w 0 3)).map fun cc => .drainCmp cc (Fin.ofNat 8 (w / 8388608)) (Fin.ofNat 8 (w / 1048576)) (Fin.ofNat 8 (w / 131072)) else none
  | 15 => if fld w 0 14 == 0 then some (.drainSel (Fin.ofNat 8 (w / 8388608)) (Fin.ofNat 8 (w / 1048576)) (Fin.ofNat 8 (w / 131072)) (Fin.ofNat 8 (w / 16384))) else none
  | 16 => if fld w 0 20 == 0 then some (.drainMov (Fin.ofNat 8 (w / 8388608)) (Fin.ofNat 8 (w / 1048576))) else none
  | 17 => if fld w 16 7 == 0 then some (.drainLdi (Fin.ofNat 8 (w / 8388608)) (BitVec.ofNat 16 w)) else none
  | 18 => if fld w 0 2 == 0 && fld w 13 10 == 0 then some (.drainLdc (Fin.ofNat 8 (w / 8388608)) (BitVec.ofNat 11 (w / 4))) else none
  | 19 => if fld w 0 2 == 0 && fld w 13 10 == 0 then some (.drainLdr (Fin.ofNat 8 (w / 8388608)) (BitVec.ofNat 11 (w / 4))) else none
  | 20 => if fld w 3 20 == 0 then (DTy.ofCode? (fld w 0 3)).map fun t => .drainLds (Fin.ofNat 8 (w / 8388608)) t else none
  | 24 => if fld w 2 18 == 0 && fld w 23 3 == 0 then some (.drainRredSum (Fin.ofNat 4 w) (Fin.ofNat 8 (w / 1048576))) else none
  | 25 => if fld w 2 18 == 0 && fld w 23 3 == 0 then some (.drainRredMax (Fin.ofNat 4 w) (Fin.ofNat 8 (w / 1048576))) else none
  | 26 => if fld w 2 21 == 0 then some (.drainRget (Fin.ofNat 8 (w / 8388608)) (Fin.ofNat 4 w)) else none
  | 32 => if fld w 3 17 == 0 && fld w 23 3 == 0 then (DTy.ofCode? (fld w 0 3)).map fun t => .drainSt (Fin.ofNat 8 (w / 1048576)) t else none
  | 33 => if fld w 2 18 == 0 && fld w 23 3 == 0 then some (.drainStq (Fin.ofNat 8 (w / 1048576)) (Fin.ofNat 4 w)) else none
  | 63 => if fld w 0 26 == 0 then some (.drainEnd) else none
  | _ => none

/-- The word of a row that has an encoding, from its layout (R68, R79, R216); 0 for a step with no encoding. -/
def encodeNat : Instr → Nat
  | .add d a b => 67108864 + d.val * 2097152 + a.val * 65536 + b.val * 2048
  | .sub d a b => 67108865 + d.val * 2097152 + a.val * 65536 + b.val * 2048
  | .and d a b => 67108866 + d.val * 2097152 + a.val * 65536 + b.val * 2048
  | .or d a b => 67108867 + d.val * 2097152 + a.val * 65536 + b.val * 2048
  | .xor d a b => 67108868 + d.val * 2097152 + a.val * 65536 + b.val * 2048
  | .andn d a b => 67108869 + d.val * 2097152 + a.val * 65536 + b.val * 2048
  | .sll d a b => 67108872 + d.val * 2097152 + a.val * 65536 + b.val * 2048
  | .srl d a b => 67108873 + d.val * 2097152 + a.val * 65536 + b.val * 2048
  | .sra d a b => 67108874 + d.val * 2097152 + a.val * 65536 + b.val * 2048
  | .mul d a b => 67108880 + d.val * 2097152 + a.val * 65536 + b.val * 2048
  | .mulh d a b => 67108881 + d.val * 2097152 + a.val * 65536 + b.val * 2048
  | .mulhn d a b => 67108882 + d.val * 2097152 + a.val * 65536 + b.val * 2048
  | .div d a b => 67108884 + d.val * 2097152 + a.val * 65536 + b.val * 2048
  | .divn d a b => 67108885 + d.val * 2097152 + a.val * 65536 + b.val * 2048
  | .rem d a b => 67108886 + d.val * 2097152 + a.val * 65536 + b.val * 2048
  | .remn d a b => 67108887 + d.val * 2097152 + a.val * 65536 + b.val * 2048
  | .slt d a b => 67108888 + d.val * 2097152 + a.val * 65536 + b.val * 2048
  | .sltn d a b => 67108889 + d.val * 2097152 + a.val * 65536 + b.val * 2048
  | .min d a b => 67108892 + d.val * 2097152 + a.val * 65536 + b.val * 2048
  | .max d a b => 67108893 + d.val * 2097152 + a.val * 65536 + b.val * 2048
  | .minn d a b => 67108894 + d.val * 2097152 + a.val * 65536 + b.val * 2048
  | .maxn d a b => 67108895 + d.val * 2097152 + a.val * 65536 + b.val * 2048
  | .clz d a => 67108896 + d.val * 2097152 + a.val * 65536
  | .ctz d a => 67108897 + d.val * 2097152 + a.val * 65536
  | .popc d a => 67108898 + d.val * 2097152 + a.val * 65536
  | .extI8 d a => 67108904 + d.val * 2097152 + a.val * 65536
  | .extN8 d a => 67108905 + d.val * 2097152 + a.val * 65536
  | .extI16 d a => 67108906 + d.val * 2097152 + a.val * 65536
  | .extN16 d a => 67108907 + d.val * 2097152 + a.val * 65536
  | .extI32 d a => 67108908 + d.val * 2097152 + a.val * 65536
  | .extN32 d a => 67108909 + d.val * 2097152 + a.val * 65536
  | .addi d a imm => 134217728 + d.val * 2097152 + a.val * 65536 + imm.toNat
  | .andi d a imm => 201326592 + d.val * 2097152 + a.val * 65536 + imm.toNat
  | .ori d a imm => 268435456 + d.val * 2097152 + a.val * 65536 + imm.toNat
  | .xori d a imm => 335544320 + d.val * 2097152 + a.val * 65536 + imm.toNat
  | .slli d a sh => 402653184 + d.val * 2097152 + a.val * 65536 + sh.val
  | .srli d a sh => 402653248 + d.val * 2097152 + a.val * 65536 + sh.val
  | .srai d a sh => 402653312 + d.val * 2097152 + a.val * 65536 + sh.val
  | .slti d a imm => 469762048 + d.val * 2097152 + a.val * 65536 + imm.toNat
  | .sltni d a imm => 536870912 + d.val * 2097152 + a.val * 65536 + imm.toNat
  | .lui d imm => 603979776 + d.val * 2097152 + imm.toNat
  | .addpc d imm => 671088640 + d.val * 2097152 + imm.toNat
  | .skipReg cc a b n => 738197504 + cc.code * 4194304 + a.val * 65536 + b.val * 2048 + n.val
  | .skipImm cc a imm n => 740294656 + cc.code * 4194304 + a.val * 65536 + imm.toNat * 4 + n.val
  | .br cc a off => 805306368 + cc.code * 4194304 + a.val * 65536 + off.toNat
  | .j off => 872415232 + off.toNat
  | .call off => 939524096 + off.toNat
  | .jr a => 1006632960 + a.val * 65536
  | .callr d a => 1006632961 + d.val * 2097152 + a.val * 65536
  | .ld d a sz imm => 1073741824 + d.val * 2097152 + a.val * 65536 + sz.code * 8192 + imm.toNat
  | .st d a sz imm => 1140850688 + d.val * 2097152 + a.val * 65536 + sz.code * 8192 + imm.toNat
  | .atomSwap d a b wd => 1207959552 + d.val * 2097152 + a.val * 65536 + b.val * 2048 + wd.code * 32
  | .atomAdd d a b wd => 1207959680 + d.val * 2097152 + a.val * 65536 + b.val * 2048 + wd.code * 32
  | .atomAnd d a b wd => 1207959808 + d.val * 2097152 + a.val * 65536 + b.val * 2048 + wd.code * 32
  | .atomOr d a b wd => 1207959936 + d.val * 2097152 + a.val * 65536 + b.val * 2048 + wd.code * 32
  | .atomXor d a b wd => 1207960064 + d.val * 2097152 + a.val * 65536 + b.val * 2048 + wd.code * 32
  | .atomMax d a b wd nat => 1207960192 + d.val * 2097152 + a.val * 65536 + b.val * 2048 + wd.code * 32 + nat.toNat * 16
  | .atomMin d a b wd nat => 1207960320 + d.val * 2097152 + a.val * 65536 + b.val * 2048 + wd.code * 32 + nat.toNat * 16
  | .atomCas d a b wd => 1207960448 + d.val * 2097152 + a.val * 65536 + b.val * 2048 + wd.code * 32
  | .pinL a => 1275068416 + a.val * 65536
  | .unpinL a => 1275068417 + a.val * 65536
  | .flush a => 1275068418 + a.val * 65536
  | .inval a => 1275068419 + a.val * 65536
  | .pref a => 1275068420 + a.val * 65536
  | .crr d crn => 1342177280 + d.val * 2097152 + crn.toNat
  | .crw a crn => 1342181376 + a.val * 65536 + crn.toNat
  | .crs d a crn => 1342185472 + d.val * 2097152 + a.val * 65536 + crn.toNat
  | .crc d a crn => 1342189568 + d.val * 2097152 + a.val * 65536 + crn.toNat
  | .nop => 1409286144
  | .trap n => 1409286400 + n.toNat
  | .eret => 1409286656
  | .halt => 1409286912
  | .yield => 1409287168
  | .brk n => 1409287424 + n.toNat
  | .fackResume a => 1409287680 + a.val * 65536
  | .fackSkip a => 1409287681 + a.val * 65536
  | .fackKill a => 1409287682 + a.val * 65536
  | .vadd d a b m ty => 1476395008 + d.val * 2097152 + a.val * 65536 + b.val * 2048 + m.val * 64 + ty.code.1 * 256 + ty.code.2 * 32
  | .vsub d a b m ty => 1476395009 + d.val * 2097152 + a.val * 65536 + b.val * 2048 + m.val * 64 + ty.code.1 * 256 + ty.code.2 * 32
  | .vmul d a b m ty => 1476395010 + d.val * 2097152 + a.val * 65536 + b.val * 2048 + m.val * 64 + ty.code.1 * 256 + ty.code.2 * 32
  | .vmin d a b m ty => 1476395011 + d.val * 2097152 + a.val * 65536 + b.val * 2048 + m.val * 64 + ty.code.1 * 256 + ty.code.2 * 32
  | .vmax d a b m ty => 1476395012 + d.val * 2097152 + a.val * 65536 + b.val * 2048 + m.val * 64 + ty.code.1 * 256 + ty.code.2 * 32
  | .vclamp d a b m ty => 1476395013 + d.val * 2097152 + a.val * 65536 + b.val * 2048 + m.val * 64 + ty.code.1 * 256 + ty.code.2 * 32
  | .vabs d a m ty => 1476395014 + d.val * 2097152 + a.val * 65536 + m.val * 64 + ty.code.1 * 256 + ty.code.2 * 32
  | .vneg d a m ty => 1476395015 + d.val * 2097152 + a.val * 65536 + m.val * 64 + ty.code.1 * 256 + ty.code.2 * 32
  | .vand d a b m ty => 1476395016 + d.val * 2097152 + a.val * 65536 + b.val * 2048 + m.val * 64 + ty.code.1 * 256 + ty.code.2 * 32
  | .vor d a b m ty => 1476395017 + d.val * 2097152 + a.val * 65536 + b.val * 2048 + m.val * 64 + ty.code.1 * 256 + ty.code.2 * 32
  | .vxor d a b m ty => 1476395018 + d.val * 2097152 + a.val * 65536 + b.val * 2048 + m.val * 64 + ty.code.1 * 256 + ty.code.2 * 32
  | .vsll d a b m ty => 1476395019 + d.val * 2097152 + a.val * 65536 + b.val * 2048 + m.val * 64 + ty.code.1 * 256 + ty.code.2 * 32
  | .vsrl d a b m ty => 1476395020 + d.val * 2097152 + a.val * 65536 + b.val * 2048 + m.val * 64 + ty.code.1 * 256 + ty.code.2 * 32
  | .vsra d a b m ty => 1476395021 + d.val * 2097152 + a.val * 65536 + b.val * 2048 + m.val * 64 + ty.code.1 * 256 + ty.code.2 * 32
  | .vrcp d a m ty => 1476395022 + d.val * 2097152 + a.val * 65536 + m.val * 64 + ty.code.1 * 256 + ty.code.2 * 32
  | .vrsq d a m ty => 1476395023 + d.val * 2097152 + a.val * 65536 + m.val * 64 + ty.code.1 * 256 + ty.code.2 * 32
  | .vsqrt d a m ty => 1476395024 + d.val * 2097152 + a.val * 65536 + m.val * 64 + ty.code.1 * 256 + ty.code.2 * 32
  | .vexp2 d a m ty => 1476395025 + d.val * 2097152 + a.val * 65536 + m.val * 64 + ty.code.1 * 256 + ty.code.2 * 32
  | .vlog2 d a m ty => 1476395026 + d.val * 2097152 + a.val * 65536 + m.val * 64 + ty.code.1 * 256 + ty.code.2 * 32
  | .vdiv d a b m ty => 1476395027 + d.val * 2097152 + a.val * 65536 + b.val * 2048 + m.val * 64 + ty.code.1 * 256 + ty.code.2 * 32
  | .vadds d a b m ty => 1476395028 + d.val * 2097152 + a.val * 65536 + b.val * 2048 + m.val * 64 + ty.code.1 * 256 + ty.code.2 * 32
  | .vsubs d a b m ty => 1476395029 + d.val * 2097152 + a.val * 65536 + b.val * 2048 + m.val * 64 + ty.code.1 * 256 + ty.code.2 * 32
  | .vfma d a b m ty => 1543503872 + d.val * 2097152 + a.val * 65536 + b.val * 2048 + m.val * 64 + ty.code.1 * 256 + ty.code.2 * 32
  | .vfms d a b m ty => 1543503873 + d.val * 2097152 + a.val * 65536 + b.val * 2048 + m.val * 64 + ty.code.1 * 256 + ty.code.2 * 32
  | .vnfma d a b m ty => 1543503874 + d.val * 2097152 + a.val * 65536 + b.val * 2048 + m.val * 64 + ty.code.1 * 256 + ty.code.2 * 32
  | .vcmpEq d a b m ty => 1610612736 + d.val * 2097152 + a.val * 65536 + b.val * 2048 + m.val * 64 + ty.code.1 * 256 + ty.code.2 * 32
  | .vcmpNe d a b m ty => 1610612737 + d.val * 2097152 + a.val * 65536 + b.val * 2048 + m.val * 64 + ty.code.1 * 256 + ty.code.2 * 32
  | .vcmpLt d a b m ty => 1610612738 + d.val * 2097152 + a.val * 65536 + b.val * 2048 + m.val * 64 + ty.code.1 * 256 + ty.code.2 * 32
  | .vcmpGe d a b m ty => 1610612739 + d.val * 2097152 + a.val * 65536 + b.val * 2048 + m.val * 64 + ty.code.1 * 256 + ty.code.2 * 32
  | .vcmpLe d a b m ty => 1610612740 + d.val * 2097152 + a.val * 65536 + b.val * 2048 + m.val * 64 + ty.code.1 * 256 + ty.code.2 * 32
  | .vcmpGt d a b m ty => 1610612741 + d.val * 2097152 + a.val * 65536 + b.val * 2048 + m.val * 64 + ty.code.1 * 256 + ty.code.2 * 32
  | .vsel d a b m ty => 1610612744 + d.val * 2097152 + a.val * 65536 + b.val * 2048 + m.val * 64 + ty.code.1 * 256 + ty.code.2 * 32
  | .mand d a b => 1610612745 + d.val * 2097152 + a.val * 65536 + b.val * 2048
  | .mor d a b => 1610612746 + d.val * 2097152 + a.val * 65536 + b.val * 2048
  | .mxor d a b => 1610612747 + d.val * 2097152 + a.val * 65536 + b.val * 2048
  | .mnot d a => 1610612748 + d.val * 2097152 + a.val * 65536
  | .vperm d a b m ty => 1677721600 + d.val * 2097152 + a.val * 65536 + b.val * 2048 + m.val * 64 + ty.code.1 * 256 + ty.code.2 * 32
  | .vslup d a b m ty => 1677721601 + d.val * 2097152 + a.val * 65536 + b.val * 2048 + m.val * 64 + ty.code.1 * 256 + ty.code.2 * 32
  | .vsldn d a b m ty => 1677721602 + d.val * 2097152 + a.val * 65536 + b.val * 2048 + m.val * 64 + ty.code.1 * 256 + ty.code.2 * 32
  | .vzip d a b m ty => 1677721603 + d.val * 2097152 + a.val * 65536 + b.val * 2048 + m.val * 64 + ty.code.1 * 256 + ty.code.2 * 32
  | .vunzip d a b m ty => 1677721604 + d.val * 2097152 + a.val * 65536 + b.val * 2048 + m.val * 64 + ty.code.1 * 256 + ty.code.2 * 32
  | .vrev d a m ty => 1677721605 + d.val * 2097152 + a.val * 65536 + m.val * 64 + ty.code.1 * 256 + ty.code.2 * 32
  | .vcvt d a m dty sty rtz => 1744830464 + d.val * 2097152 + a.val * 65536 + m.val * 64 + dty.code.1 * 256 + dty.code.2 * 32 + sty.code.1 * 8192 + sty.code.2 * 4096 + rtz.toNat * 2048
  | .vpack4F32 d a b m => 1744832001 + d.val * 2097152 + a.val * 65536 + b.val * 2048 + m.val * 64
  | .vpack4Half d a m bf => 1744831489 + d.val * 2097152 + a.val * 65536 + m.val * 64 + bf.toNat * 256
  | .vunpack4Half d a m bf k => 1744831490 + d.val * 2097152 + a.val * 65536 + m.val * 64 + bf.toNat * 256 + k.val * 16384
  | .vunpack4F32 d a m k h => 1744832002 + d.val * 2097152 + a.val * 65536 + m.val * 64 + k.val * 16384 + h.toNat * 2048
  | .vrsum d a m ty => 1811939328 + d.val * 2097152 + a.val * 65536 + m.val * 64 + ty.code.1 * 256 + ty.code.2 * 32
  | .vrmax d a m ty => 1811939329 + d.val * 2097152 + a.val * 65536 + m.val * 64 + ty.code.1 * 256 + ty.code.2 * 32
  | .vrmin d a m ty => 1811939330 + d.val * 2097152 + a.val * 65536 + m.val * 64 + ty.code.1 * 256 + ty.code.2 * 32
  | .vrand d a m ty => 1811939331 + d.val * 2097152 + a.val * 65536 + m.val * 64 + ty.code.1 * 256 + ty.code.2 * 32
  | .vror d a m ty => 1811939332 + d.val * 2097152 + a.val * 65536 + m.val * 64 + ty.code.1 * 256 + ty.code.2 * 32
  | .vrxor d a m ty => 1811939333 + d.val * 2097152 + a.val * 65536 + m.val * 64 + ty.code.1 * 256 + ty.code.2 * 32
  | .vld d a m ty => 1879048192 + d.val * 2097152 + a.val * 65536 + m.val * 64 + ty.code.1 * 256 + ty.code.2 * 32
  | .vlds d a b m ty => 1879048193 + d.val * 2097152 + a.val * 65536 + b.val * 2048 + m.val * 64 + ty.code.1 * 256 + ty.code.2 * 32
  | .vldx d a b m ty => 1879048194 + d.val * 2097152 + a.val * 65536 + b.val * 2048 + m.val * 64 + ty.code.1 * 256 + ty.code.2 * 32
  | .vst d a m ty => 1946157056 + d.val * 2097152 + a.val * 65536 + m.val * 64 + ty.code.1 * 256 + ty.code.2 * 32
  | .vsts d a b m ty => 1946157057 + d.val * 2097152 + a.val * 65536 + b.val * 2048 + m.val * 64 + ty.code.1 * 256 + ty.code.2 * 32
  | .vstx d a b m ty => 1946157058 + d.val * 2097152 + a.val * 65536 + b.val * 2048 + m.val * 64 + ty.code.1 * 256 + ty.code.2 * 32
  | .vsplat d a m ty => 2013265920 + d.val * 2097152 + a.val * 65536 + m.val * 64 + ty.code.1 * 256 + ty.code.2 * 32
  | .vins d a b ty => 2013265921 + d.val * 2097152 + a.val * 65536 + b.val * 2048 + ty.code.1 * 256 + ty.code.2 * 32
  | .vext d a b ty => 2013265922 + d.val * 2097152 + a.val * 65536 + b.val * 2048 + ty.code.1 * 256 + ty.code.2 * 32
  | .mgetg d a => 2013265923 + d.val * 2097152 + a.val * 65536
  | .msetg d a => 2013265924 + d.val * 2097152 + a.val * 65536
  | .sync d a n => 2147483648 + d.val * 2097152 + a.val * 65536 + n.val
  | .barw a => 2214592512 + a.val * 65536
  | .barq d a => 2214592513 + d.val * 2097152 + a.val * 65536
  | .barset a => 2214592514 + a.val * 65536
  | .evname d a b => 2281701376 + d.val * 2097152 + a.val * 65536 + b.val * 2048
  | .evinfo d a => 2281701377 + d.val * 2097152 + a.val * 65536
  | .mma acc a b fa fb => 2415919104 + acc.val * 2097152 + a.val * 65536 + b.val * 2048 + fa.val * 16 + fb.val
  | .mgeo a => 2483027968 + a.val * 65536
  | .mzero acc => 2483027969 + acc.val * 2097152
  | .msave acc a => 2483027970 + acc.val * 2097152 + a.val * 65536
  | .mrest acc a => 2483027971 + acc.val * 2097152 + a.val * 65536
  | .dload p a => 2550136832 + p.val * 2097152 + a.val * 65536
  | .dloadT a b => 2550136833 + a.val * 65536 + b.val * 2048
  | .dbind p a => 2550136834 + p.val * 2097152 + a.val * 65536
  | .cpy d a => 2684354560 + d.val * 2097152 + a.val * 65536
  | .gath d a => 2684354561 + d.val * 2097152 + a.val * 65536
  | .scat d a => 2684354562 + d.val * 2097152 + a.val * 65536
  | .fill d a => 2684354563 + d.val * 2097152 + a.val * 65536
  | .cpyEv a => 2684355584 + a.val * 65536
  | .gathEv a => 2684355585 + a.val * 65536
  | .scatEv a => 2684355586 + a.val * 65536
  | .fillEv a => 2684355587 + a.val * 65536
  | .hld d a sz off => 2818572288 + d.val * 2097152 + a.val * 65536 + sz.code * 8192 + off.toNat
  | .hst d a sz off => 2818574336 + d.val * 2097152 + a.val * 65536 + sz.code * 8192 + off.toNat
  | .hldr d a off => 2818625536 + d.val * 2097152 + a.val * 65536 + off.toNat
  | .hstr d a off => 2818627584 + d.val * 2097152 + a.val * 65536 + off.toNat
  | .hnew d a b => 2885681152 + d.val * 2097152 + a.val * 65536 + b.val * 2048
  | .hpin d a => 2885681153 + d.val * 2097152 + a.val * 65536
  | .hunpin a => 2885681154 + a.val * 65536
  | .hcmp d a b => 2885681155 + d.val * 2097152 + a.val * 65536 + b.val * 2048
  | .hmov d a => 2885681156 + d.val * 2097152 + a.val * 65536
  | .htag d a => 2885681157 + d.val * 2097152 + a.val * 65536
  | .hget d a => 2885681158 + d.val * 2097152 + a.val * 65536
  | .spawn a b => 3019898880 + a.val * 65536 + b.val * 2048
  | .launch a => 3019898888 + a.val * 65536
  | .exit => 3019898896
  | .rank d n => 3019898904 + d.val * 2097152 + n.val
  | .size d n => 3019898912 + d.val * 2097152 + n.val
  | .tlbw a => 3087007744 + a.val * 65536
  | .tlbi a => 3087007745 + a.val * 65536
  | .tlbr d a => 3087007746 + d.val * 2097152 + a.val * 65536
  | .seed a => 3087007747 + a.val * 65536
  | .migr a => 3087007748 + a.val * 65536
  | .drainNop => 0
  | .drainAdd d a b => 67108864 + d.val * 8388608 + a.val * 1048576 + b.val * 131072
  | .drainSub d a b => 134217728 + d.val * 8388608 + a.val * 1048576 + b.val * 131072
  | .drainMul d a b => 201326592 + d.val * 8388608 + a.val * 1048576 + b.val * 131072
  | .drainFma d a b c => 268435456 + d.val * 8388608 + a.val * 1048576 + b.val * 131072 + c.val * 16384
  | .drainMax d a b => 335544320 + d.val * 8388608 + a.val * 1048576 + b.val * 131072
  | .drainMin d a b => 402653184 + d.val * 8388608 + a.val * 1048576 + b.val * 131072
  | .drainAbs d a => 469762048 + d.val * 8388608 + a.val * 1048576
  | .drainNeg d a => 536870912 + d.val * 8388608 + a.val * 1048576
  | .drainClamp d a b c => 603979776 + d.val * 8388608 + a.val * 1048576 + b.val * 131072 + c.val * 16384
  | .drainRcp d a => 671088640 + d.val * 8388608 + a.val * 1048576
  | .drainRsq d a => 738197504 + d.val * 8388608 + a.val * 1048576
  | .drainExp2 d a => 805306368 + d.val * 8388608 + a.val * 1048576
  | .drainLog2 d a => 872415232 + d.val * 8388608 + a.val * 1048576
  | .drainCmp cc d a b => 939524096 + cc.code + d.val * 8388608 + a.val * 1048576 + b.val * 131072
  | .drainSel d a b c => 1006632960 + d.val * 8388608 + a.val * 1048576 + b.val * 131072 + c.val * 16384
  | .drainMov d a => 1073741824 + d.val * 8388608 + a.val * 1048576
  | .drainLdi d imm => 1140850688 + d.val * 8388608 + imm.toNat
  | .drainLdc d off => 1207959552 + d.val * 8388608 + off.toNat * 4
  | .drainLdr d off => 1275068416 + d.val * 8388608 + off.toNat * 4
  | .drainLds d t => 1342177280 + d.val * 8388608 + t.code
  | .drainRredSum k a => 1610612736 + k.val + a.val * 1048576
  | .drainRredMax k a => 1677721600 + k.val + a.val * 1048576
  | .drainRget d k => 1744830464 + d.val * 8388608 + k.val
  | .drainSt a t => 2147483648 + a.val * 1048576 + t.code
  | .drainStq a kind => 2214592512 + a.val * 1048576 + kind.val
  | .drainEnd => 4227858432
  | _ => 0

/-- The word of an instruction or of a drain micro-op. -/
def encode (i : Instr) : BitVec 32 := BitVec.ofNat 32 (encodeNat i)

/-- What the decoder reads from an instruction whose bits are `w`, numbered as the opcode table numbers them. Every
instruction of Jardom is one 32-bit word, so the bits above `nbits` are zero. -/
def decodeTableWord (nbits w : Nat) : Option Instr :=
  (decode (bytesOfWord (BitVec.ofNat 32 (w % 2 ^ nbits)))).map Prod.fst

end Sys2Proof
end

