-- ==== Sys2Proof/Machine/Floats.lean ====
section
/-!
DEFINITION. Number formats and arithmetic (R40-R60): exact values, roundings, conversions, the special functions,
q4 blocks, and which conditions each operation counts. A value is formed exactly on naturals and integers and
rounded once.
-/

namespace Sys2Proof.Machine

/-- How often one operation met each condition of R62, in the order `nctr0` to `nctr6`. -/
structure Cnt where
  inv  : Nat := 0
  ovf  : Nat := 0
  unf  : Nat := 0
  nan  : Nat := 0
  q4   : Nat := 0
  wrap : Nat := 0
  dz   : Nat := 0
deriving DecidableEq, Repr, Inhabited

def Cnt.zero : Cnt := ⟨0, 0, 0, 0, 0, 0, 0⟩

def Cnt.add (a b : Cnt) : Cnt :=
  ⟨a.inv + b.inv, a.ovf + b.ovf, a.unf + b.unf, a.nan + b.nan, a.q4 + b.q4, a.wrap + b.wrap, a.dz + b.dz⟩

def Cnt.oneInv : Cnt := { Cnt.zero with inv := 1 }
def Cnt.oneNan : Cnt := { Cnt.zero with nan := 1 }
def Cnt.oneDz : Cnt := { Cnt.zero with dz := 1 }
def Cnt.oneWrap : Cnt := { Cnt.zero with wrap := 1 }

/-- The float formats of R43: exponent bits, fraction bits, bias, and whether the format has infinities. -/
structure Fmt where
  eb     : Nat
  fb     : Nat
  bias   : Nat
  hasInf : Bool
deriving DecidableEq, Repr

def Fmt.f32 : Fmt := ⟨8, 23, 127, true⟩
def Fmt.f16 : Fmt := ⟨5, 10, 15, true⟩
def Fmt.bf16 : Fmt := ⟨8, 7, 127, true⟩
def Fmt.e5m2 : Fmt := ⟨5, 2, 15, true⟩
def Fmt.e4m3 : Fmt := ⟨4, 3, 7, false⟩

/-- Width of the format in bits. -/
def Fmt.width (f : Fmt) : Nat := 1 + f.eb + f.fb

/-- The canonical NaN of R45. -/
def Fmt.qnan (f : Fmt) : Nat :=
  if f.hasInf then (2 ^ f.eb - 1) * 2 ^ f.fb + 2 ^ (f.fb - 1) else 2 ^ (f.eb + f.fb) - 1

/-- The sign bit in place. -/
def Fmt.signBit (f : Fmt) (s : Bool) : Nat := if s then 2 ^ (f.eb + f.fb) else 0

/-- Infinity of a sign; formats without one give their largest finite value (R47). -/
def Fmt.infBits (f : Fmt) (s : Bool) : Nat :=
  f.signBit s + if f.hasInf then (2 ^ f.eb - 1) * 2 ^ f.fb else 2 ^ (f.eb + f.fb) - 2

/-- The largest finite value of a sign (R45). -/
def Fmt.maxBits (f : Fmt) (s : Bool) : Nat :=
  f.signBit s + if f.hasInf then (2 ^ f.eb - 1) * 2 ^ f.fb - 1 else 2 ^ (f.eb + f.fb) - 2

/-- An exact float value: NaN, an infinity, or `(-1)^s * m * 2^e`. -/
inductive FVal where
  | nan
  | inf (s : Bool)
  | fin (s : Bool) (m : Nat) (e : Int)
deriving DecidableEq, Repr

/-- The value of an encoding (R44). -/
def Fmt.value (f : Fmt) (x : Nat) : FVal :=
  let s := x / 2 ^ (f.eb + f.fb) % 2 == 1
  let E := x / 2 ^ f.fb % 2 ^ f.eb
  let F := x % 2 ^ f.fb
  if E = 2 ^ f.eb - 1 ∧ f.hasInf then (if F = 0 then .inf s else .nan)
  else if E = 2 ^ f.eb - 1 ∧ F = 2 ^ f.fb - 1 then .nan
  else if E = 0 then .fin s F (1 - (f.bias : Int) - f.fb)
  else .fin s (2 ^ f.fb + F) ((E : Int) - f.bias - f.fb)

/-- The magnitude `m * 2^e` rounded to a multiple of `2^q`: the count of multiples, and whether it was exact
(R46: to nearest with ties to even, or toward zero). -/
def roundQ (rtz : Bool) (m : Nat) (e q : Int) : Nat × Bool :=
  if q ≤ e then (m * 2 ^ (e - q).toNat, true)
  else
    let sh := (q - e).toNat
    let k := m / 2 ^ sh
    let r := m % 2 ^ sh
    let up := !rtz && (r * 2 > 2 ^ sh || (r * 2 == 2 ^ sh && k % 2 == 1))
    (if up then k + 1 else k, r == 0)

/-- Rounding of `(-1)^s * m * 2^e` to a format (R46-R48), with overflow and underflow counted. -/
def Fmt.round (f : Fmt) (rtz s : Bool) (m : Nat) (e : Int) : Nat × Cnt :=
  if m = 0 then (f.signBit s, Cnt.zero)
  else
    let top : Int := (Nat.log2 m : Int) + e
    let qmin : Int := 1 - (f.bias : Int) - f.fb
    let q := max (top - f.fb) qmin
    let (k0, exact) := roundQ rtz m e q
    let (k, q) := if k0 = 2 ^ (f.fb + 1) then (2 ^ f.fb, q + 1) else (k0, q)
    if k < 2 ^ f.fb then
      (f.signBit s + k, if exact then Cnt.zero else { Cnt.zero with unf := 1 })
    else
      let Eb := (q + f.fb + f.bias).toNat
      let bits := Eb * 2 ^ f.fb + (k - 2 ^ f.fb)
      let lim := if f.hasInf then (2 ^ f.eb - 1) * 2 ^ f.fb else 2 ^ (f.eb + f.fb) - 1
      if bits ≥ lim then
        (if rtz then f.maxBits s else f.infBits s, { Cnt.zero with ovf := 1 })
      else
        (f.signBit s + bits,
          if !exact && top < 1 - (f.bias : Int) then { Cnt.zero with unf := 1 } else Cnt.zero)

/-- Rounding of a value known only as `m * 2^e` and a positive remainder below `2^e`: `m` must carry at least two
bits more than any result, so that the appended sticky bit lies below every rounding point. -/
def Fmt.roundSticky (f : Fmt) (rtz s : Bool) (m : Nat) (e : Int) (sticky : Bool) : Nat × Cnt :=
  f.round rtz s (2 * m + sticky.toNat) (e - 1)

/-- A value delivered in a format without a rounding of its own: NaN canonical, infinities by R49. -/
def Fmt.deliver (f : Fmt) (rtz : Bool) : FVal → Nat × Cnt
  | .nan => (f.qnan, Cnt.zero)
  | .inf s => (f.infBits s, if f.hasInf then Cnt.zero else { Cnt.zero with ovf := 1 })
  | .fin s m e => f.round rtz s m e

/-- The signed integer `(-1)^s * m * 2^(e - q)`, for `q ≤ e`. -/
def scaled (s : Bool) (m : Nat) (e q : Int) : Int :=
  let k : Int := m * 2 ^ (e - q).toNat
  if s then -k else k

/-- Exact sum. A zero sum is +0 unless both addends are -0 (R46); opposite infinities give none (invalid). -/
def FVal.add : FVal → FVal → Option FVal
  | .nan, _ => some .nan
  | _, .nan => some .nan
  | .inf s, .inf t => if s = t then some (.inf s) else none
  | .inf s, .fin _ _ _ => some (.inf s)
  | .fin _ _ _, .inf t => some (.inf t)
  | .fin s m e, .fin t n g =>
    if m = 0 ∧ n = 0 then some (.fin (s && t) 0 0)
    else
      let q := min e g
      let k := scaled s m e q + scaled t n g q
      some (.fin (k < 0) k.natAbs q)

/-- Exact product; 0 times infinity gives none (invalid). -/
def FVal.mul : FVal → FVal → Option FVal
  | .nan, _ => some .nan
  | _, .nan => some .nan
  | .inf s, .inf t => some (.inf (s ^^ t))
  | .inf s, .fin t n _ => if n = 0 then none else some (.inf (s ^^ t))
  | .fin s m _, .inf t => if m = 0 then none else some (.inf (s ^^ t))
  | .fin s m e, .fin t n g => some (.fin (s ^^ t) (m * n) (e + g))

def FVal.neg : FVal → FVal
  | .nan => .nan
  | .inf s => .inf (!s)
  | .fin s m e => .fin (!s) m e

def FVal.isNan : FVal → Bool
  | .nan => true
  | _ => false

/-- One rounding of an exact result, or the invalid case (R50). -/
def Fmt.finish (f : Fmt) : Option FVal → Nat × Cnt
  | none => (f.qnan, Cnt.oneInv)
  | some v => f.deliver false v

/-- R50: a NaN operand gives the canonical NaN and counts once. DESIGN CHOICE (log 42): it counts as NaN input alone, also where the product of
the other two operands of a fused operation is 0 times infinity. -/
def Fmt.guardNan (f : Fmt) (vs : List FVal) (r : Nat × Cnt) : Nat × Cnt :=
  if vs.any FVal.isNan then (f.qnan, Cnt.oneNan) else r

def Fmt.add (f : Fmt) (x y : Nat) : Nat × Cnt :=
  f.guardNan [f.value x, f.value y] (f.finish ((f.value x).add (f.value y)))

def Fmt.sub (f : Fmt) (x y : Nat) : Nat × Cnt :=
  f.guardNan [f.value x, f.value y] (f.finish ((f.value x).add (f.value y).neg))

def Fmt.mul (f : Fmt) (x y : Nat) : Nat × Cnt :=
  f.guardNan [f.value x, f.value y] (f.finish ((f.value x).mul (f.value y)))

/-- `±(x * y) ± z`, formed exactly and rounded once (R50, R122). -/
def Fmt.fma (f : Fmt) (negP negZ : Bool) (x y z : Nat) : Nat × Cnt :=
  let vx := f.value x
  let vy := f.value y
  let vz := f.value z
  f.guardNan [vx, vy, vz] (f.finish
    ((vx.mul vy).bind fun p => (if negP then p.neg else p).add (if negZ then vz.neg else vz)))

/-- The exact order of two values that are not NaN, with -0 equal to +0. -/
def FVal.cmp : FVal → FVal → Ordering
  | .inf s, .inf t => if s = t then .eq else if s then .lt else .gt
  | .inf s, _ => if s then .lt else .gt
  | _, .inf t => if t then .gt else .lt
  | .fin s m e, .fin t n g =>
    let q := min e g
    compare (scaled s m e q) (scaled t n g q)
  | _, _ => .eq

/-- R51: `x` is below `y`, with -0 below +0. -/
def FVal.below : FVal → FVal → Bool
  | .fin s 0 _, .fin t 0 _ => s && !t
  | x, y => x.cmp y == .lt

/-- Float maximum or minimum by value (R51). -/
def Fmt.maxmin (f : Fmt) (isMax : Bool) (x y : Nat) : Nat × Cnt :=
  match f.value x, f.value y with
  | .nan, .nan => (f.qnan, Cnt.oneNan)
  | .nan, _ => (y, Cnt.oneNan)
  | _, .nan => (x, Cnt.oneNan)
  | vx, vy => (if (if isMax then vx.below vy else vy.below vx) then y else x, Cnt.zero)

/-- `min(max(x, lo), hi)` as one operation: at most one NaN input counted (R51). -/
def Fmt.clamp (f : Fmt) (x lo hi : Nat) : Nat × Cnt :=
  let r := (f.maxmin false (f.maxmin true x lo).1 hi).1
  (r, if [x, lo, hi].any (fun v => (f.value v).isNan) then Cnt.oneNan else Cnt.zero)

/-- Sign cleared or inverted; a NaN gives the canonical NaN and counts (R120). -/
def Fmt.absneg (f : Fmt) (isAbs : Bool) (x : Nat) : Nat × Cnt :=
  if (f.value x).isNan then (f.qnan, Cnt.oneNan)
  else
    let mag := x % 2 ^ (f.eb + f.fb)
    let s := x / 2 ^ (f.eb + f.fb) % 2 == 1
    (f.signBit (!isAbs && !s) + mag, Cnt.zero)

/-- The float conditions of R123: any NaN makes `ne` hold and every other condition fail. -/
def FVal.cond (c : VCond) (x y : FVal) : Bool :=
  if x.isNan || y.isNan then c == .ne
  else
    match c, x.cmp y with
    | .eq, o => o == .eq
    | .ne, o => o != .eq
    | .lt, o => o == .lt
    | .ge, o => o != .lt
    | .le, o => o != .gt
    | .gt, o => o == .gt

/-- Floor of the square root, bit by bit from bit `k - 1` down. -/
def isqrtAux (n : Nat) : Nat → Nat → Nat
  | 0, r => r
  | k + 1, r => isqrtAux n k (if (r + 2 ^ k) * (r + 2 ^ k) ≤ n then r + 2 ^ k else r)

def isqrt (n : Nat) : Nat := isqrtAux n (Nat.log2 n / 2 + 1) 0

/-- Quotient of two finite nonzero magnitudes, rounded (R121). -/
def Fmt.divFin (f : Fmt) (s : Bool) (m : Nat) (e : Int) (n : Nat) (g : Int) : Nat × Cnt :=
  let k := 64 + Nat.log2 n + 1
  f.roundSticky false s (m * 2 ^ k / n) (e - g - k) (m * 2 ^ k % n != 0)

/-- Float division with the special operands of R121. -/
def Fmt.div (f : Fmt) (x y : Nat) : Nat × Cnt :=
  f.guardNan [f.value x, f.value y] <|
    match f.value x, f.value y with
    | .inf _, .inf _ => (f.qnan, Cnt.oneInv)
    | .inf s, .fin t _ _ => (f.infBits (s ^^ t), Cnt.zero)
    | .fin s _ _, .inf t => (f.signBit (s ^^ t), Cnt.zero)
    | .fin s m e, .fin t n g =>
      if n = 0 then (if m = 0 then (f.qnan, Cnt.oneInv) else (f.infBits (s ^^ t), Cnt.oneDz))
      else if m = 0 then (f.signBit (s ^^ t), Cnt.zero)
      else f.divFin (s ^^ t) m e n g
    | _, _ => (f.qnan, Cnt.zero)

def Fmt.rcp (f : Fmt) (x : Nat) : Nat × Cnt :=
  match f.value x with
  | .nan => (f.qnan, Cnt.oneNan)
  | .inf s => (f.signBit s, Cnt.zero)
  | .fin s m e => if m = 0 then (f.infBits s, Cnt.oneDz) else f.divFin s 1 0 m e

def Fmt.sqrt (f : Fmt) (x : Nat) : Nat × Cnt :=
  match f.value x with
  | .nan => (f.qnan, Cnt.oneNan)
  | .inf s => if s then (f.qnan, Cnt.oneInv) else (f.infBits false, Cnt.zero)
  | .fin s m e =>
    if m = 0 then (f.signBit s, Cnt.zero)
    else if s then (f.qnan, Cnt.oneInv)
    else
      let t : Nat := 64 + (e % 2).toNat
      let n := m * 2 ^ t * 2 ^ 64
      let r := isqrt n
      f.roundSticky false false r ((e - t - 64) / 2) (r * r != n)

def Fmt.rsq (f : Fmt) (x : Nat) : Nat × Cnt :=
  match f.value x with
  | .nan => (f.qnan, Cnt.oneNan)
  | .inf s => if s then (f.qnan, Cnt.oneInv) else (f.signBit false, Cnt.zero)
  | .fin s m e =>
    if m = 0 then (f.infBits s, Cnt.oneDz)
    else if s then (f.qnan, Cnt.oneInv)
    else
      let n := m * 2 ^ (e % 2).toNat
      let g := (e - e % 2) / 2
      let k := 64 + Nat.log2 n
      let r := isqrt (2 ^ (2 * k) / n)
      f.roundSticky false false r (-g - k) (r * r * n != 2 ^ (2 * k))

/-- The natural logarithm of 2 in units of 2^-256. -/
def ln2Fix : Nat := 80260960185991308862233904206310070533990667611589946606122867505419956976171

/-- `sum of y^k / k!` in units of 2^-256, from the `k`-th term on (Taylor series of the exponential). -/
def expSeries (y : Nat) : Nat → Nat → Nat → Nat
  | 0, _, _ => 0
  | fuel + 1, k, t => t + expSeries y fuel (k + 1) (t * y / 2 ^ 256 / (k + 1))

/-- `2^g` for `g` in units of 2^-256, `0 < g < 2^256`, in the same units, to well over 200 bits. -/
def exp2Fix (g : Nat) : Nat := expSeries (g * ln2Fix / 2 ^ 256) 64 0 (2 ^ 256)

/-- `2^x` (R121): exact for an integer `x`; for any other the value is irrational and is rounded from over 200
bits. -/
def Fmt.exp2 (f : Fmt) (x : Nat) : Nat × Cnt :=
  match f.value x with
  | .nan => (f.qnan, Cnt.oneNan)
  | .inf s => if s then (f.signBit false, Cnt.zero) else (f.infBits false, Cnt.zero)
  | .fin s m e =>
    if 14 ≤ (Nat.log2 m : Int) + e then f.round false false 1 (if s then -5000 else 5000)
    else
      let v := scaled s m (e + 256) 0
      let n := v / 2 ^ 256
      let g := (v % 2 ^ 256).toNat
      if g = 0 then f.round false false 1 n
      else f.roundSticky false false (exp2Fix g) (n - 256) true

/-- `sum of z^(2k+1) / (2k+1)` in units of 2^-256 (series of the inverse hyperbolic tangent). -/
def atanhSeries (z2 : Nat) : Nat → Nat → Nat → Nat
  | 0, _, _ => 0
  | fuel + 1, k, t => t / k + atanhSeries z2 fuel (k + 2) (t * z2 / 2 ^ 256)

/-- `log2` of `n / 2^l` for `2^l ≤ n < 2^(l + 1)`, in units of 2^-250. -/
def log2Fix (n l : Nat) : Nat :=
  let z := (n - 2 ^ l) * 2 ^ 256 / (n + 2 ^ l)
  2 * atanhSeries (z * z / 2 ^ 256) 96 1 z * 2 ^ 250 / ln2Fix

/-- `log2 x` (R121): exact for a power of two; any other is irrational and is rounded from over 200 bits. -/
def Fmt.log2 (f : Fmt) (x : Nat) : Nat × Cnt :=
  match f.value x with
  | .nan => (f.qnan, Cnt.oneNan)
  | .inf s => if s then (f.qnan, Cnt.oneInv) else (f.infBits false, Cnt.zero)
  | .fin s m e =>
    if m = 0 then (f.infBits true, Cnt.oneDz)
    else if s then (f.qnan, Cnt.oneInv)
    else
      let l := Nat.log2 m
      let n : Int := (l : Int) + e
      if m = 2 ^ l then f.round false (n < 0) n.natAbs 0
      else
        let v : Int := n * 2 ^ 250 + log2Fix m l
        f.roundSticky false (v < 0) v.natAbs (-250) true

/-! ### Conversions (R49) -/

/-- Float to float. A NaN counts a NaN input, widenings included. -/
def Fmt.convert (src dst : Fmt) (rtz : Bool) (x : Nat) : Nat × Cnt :=
  match src.value x with
  | .nan => (dst.qnan, Cnt.oneNan)
  | v => dst.deliver rtz v

/-- An integer format of R40: width and whether it is two's complement. -/
structure IFmt where
  w      : Nat
  signed : Bool
deriving DecidableEq, Repr

def IFmt.lo (t : IFmt) : Int := if t.signed then -(2 ^ (t.w - 1)) else 0
def IFmt.hi (t : IFmt) : Int := if t.signed then 2 ^ (t.w - 1) - 1 else 2 ^ t.w - 1

/-- The integer an encoding stands for. -/
def IFmt.value (t : IFmt) (x : Nat) : Int :=
  if t.signed && decide (2 ^ (t.w - 1) ≤ x % 2 ^ t.w) then (x % 2 ^ t.w : Nat) - (2 ^ t.w : Nat) else (x % 2 ^ t.w : Nat)

/-- The low `w` bits of an integer (R17). -/
def IFmt.wrapBits (t : IFmt) (v : Int) : Nat := (v % 2 ^ t.w).toNat

def IFmt.fits (t : IFmt) (v : Int) : Bool := t.lo ≤ v && v ≤ t.hi

/-- `sat(v, lo, hi)` (R17). -/
def IFmt.sat (t : IFmt) (v : Int) : Int := if v < t.lo then t.lo else if t.hi < v then t.hi else v

/-- Float to integer (R49): rounded, then clamped; a NaN gives 0. -/
def Fmt.toInt (f : Fmt) (t : IFmt) (rtz : Bool) (x : Nat) : Nat × Cnt :=
  match f.value x with
  | .nan => (0, { Cnt.zero with inv := 1, nan := 1 })
  | .inf s => (t.wrapBits (if s then t.lo else t.hi), Cnt.oneInv)
  | .fin s m e =>
    let k := (roundQ rtz m e 0).1
    let v : Int := if s then -(k : Int) else k
    (t.wrapBits (t.sat v), if t.fits v then Cnt.zero else Cnt.oneInv)

/-- Integer to float (R49). -/
def Fmt.ofInt (f : Fmt) (v : Int) : Nat × Cnt := f.round false (v < 0) v.natAbs 0

/-! ### q4 blocks (R53-R56) -/

/-- Eight times the magnitude of index `i` under a block type (R54); type 00 is not a magnitude table. -/
def q4Mag8 (ty i : Nat) : Nat :=
  match ty with
  | 1 => [0, 4, 8, 12, 16, 24, 32, 48].getD i 0
  | 2 => [0, 1, 2, 4, 8, 16, 32, 64].getD i 0
  | _ => [0, 8, 16, 24, 32, 48, 64, 96].getD i 0

/-- Eight times Cmax of a type. -/
def q4Cmax8 (ty : Nat) : Nat := if ty = 0 then 56 else q4Mag8 ty 7

/-- Eight times the value of a code (R54). -/
def q4Code8 (ty code : Nat) : Int :=
  if ty = 0 then 8 * (IFmt.value ⟨4, true⟩ code)
  else if code / 8 % 2 = 1 then -(q4Mag8 ty (code % 8) : Int) else q4Mag8 ty (code % 8)

/-- Element `i` of a 17-byte block given as a number (R53, R55). -/
def q4Value (blk i : Nat) : FVal :=
  let scale := blk / 2 ^ 128 % 256
  if scale % 64 = 63 then .nan
  else
    let c := q4Code8 (scale / 64) (blk / 2 ^ (4 * i) % 16)
    .fin (c < 0) c.natAbs ((scale % 64 : Nat) - 35)

/-- Absolute value of a finite or infinite value compared with `n * 2^e`: whether it is at most that. -/
def FVal.absLe (v : FVal) (n : Nat) (e : Int) : Bool :=
  match v with
  | .fin _ m g => (FVal.fin false m g).cmp (.fin false n e) != .gt
  | _ => false

/-- The smallest EXP that covers every value, from `e` on (R56 step 2); 62 when none does. -/
def q4Exp (ty : Nat) (vs : List FVal) : Nat → Nat → Nat
  | 0, _ => 62
  | fuel + 1, e => if vs.all (fun v => v.absLe (q4Cmax8 ty) ((e : Int) - 35)) then e else q4Exp ty vs fuel (e + 1)

/-- The magnitude index nearest to `m * 2^e` in units of an eighth, ties to the even index (R56 step 3). -/
def q4Nearest (ty m : Nat) (e : Int) : Nat :=
  (List.range 7).foldl (fun best i =>
    match (FVal.fin false m (e + 1)).cmp (.fin false (q4Mag8 ty i + q4Mag8 ty (i + 1)) 0) with
    | .gt => i + 1
    | .eq => if (i + 1) % 2 = 0 then i + 1 else best
    | .lt => best) 0

/-- The code of one value at scale `2^(exp - 32)`, and whether it saturated (R56 steps 3 and 4). -/
def q4Quant (ty exp : Nat) (v : FVal) : Nat × Bool :=
  match v with
  | .nan => (0, false)
  | .inf s => (if ty = 0 then (if s then 8 else 7) else (if s then 15 else 7), true)
  | .fin s m e =>
    let g := e - ((exp : Int) - 32)
    if ty = 0 then
      let tooBig := (FVal.fin s m g).cmp (.fin false 7 0) == .gt
      let tooSmall := (FVal.fin s m g).cmp (.fin true 8 0) == .lt
      if tooBig then (7, true) else if tooSmall then (8, true)
      else
        let k := (roundQ false m g 0).1
        ((IFmt.mk 4 true).wrapBits (if s then -(k : Int) else k), false)
    else if !(FVal.fin s m g).absLe (q4Cmax8 ty) (-3) then (if s then 15 else 7, true)
    else
      let i := q4Nearest ty m (g + 3)
      (if s && i != 0 then 8 + i else i, false)

/-- The 17-byte block of 32 values (R56), as a number, with its counts. -/
def q4Pack (ty : Nat) (vs : List FVal) : Nat × Cnt :=
  if vs.any FVal.isNan then ((ty * 64 + 63) * 2 ^ 128, Cnt.oneNan)
  else
    let exp := q4Exp ty vs 63 0
    let qs := vs.map (q4Quant ty exp)
    let codes := qs.foldr (fun c acc => acc * 16 + c.1) 0
    ((ty * 64 + exp) * 2 ^ 128 + codes, { Cnt.zero with q4 := (qs.filter (fun c => c.2)).length })

end Sys2Proof.Machine
end

