-- ==== Sys2Proof/Config.lean ====
section
/-!
DEFINITION. What an implementation or the outside world fixes and the manual leaves open (R9, R12): constants with
no body, so that nothing can be proved about their values. Most are applied to the step counter `State.tick`, which
gives a fresh value at every step; the others to the operands they depend on. notes/assumptions lists each of them.
-/

namespace Sys2Proof.Config

/-- Which row takes place next when nothing has been laid down (R12: every time, order and choice between agents). -/
opaque schedule : Nat → Instr
/-- Stall cycles of a core at a turn (R35, R36). -/
opaque stall : Nat → Nat
/-- Counts of a die's time counter that pass with one cycle of a core (R384). -/
opaque dieTicks : Nat → Nat
/-- The delay field of a reply or acceptance over a way that no rule gives: hops (R383). -/
opaque hops : Nat → Nat
/-- The delay field of a reply or acceptance: nanoseconds of waiting (R383). -/
opaque waitNs : Nat → Nat
/-- Choice of a victim way in a cache set or of an entry of a TLB level (R237, R310). -/
opaque victim : Nat → Nat
/-- The Bugle that is home to an event, among `n` candidates: name, context, instance (R140). -/
opaque bugle : Word → Nat → Nat → Nat → Nat
/-- Which of a base die's two Retrievers serves a request (R270). -/
opaque retriever : Nat → Nat
/-- Whether and why a pod member refuses a request: 0 accepted, 1 key, otherwise another reason (R249 causes 1, 5). -/
opaque podAnswer : Nat → Nat
/-- Whether the host refuses a request (R249 cause 3). -/
opaque hostRefuses : Nat → Bool
/-- Whether data that a pod member or the host returns is poisoned (R90 step 6). -/
opaque farPoison : Nat → Bool
/-- The order in which a float add combine forms the sums of an element, as successive choices of a pair (R52, R12). -/
opaque sumOrder : Nat → Nat → Nat
/-- Whether a debugger is attached (R111). -/
opaque debuggerAttached : Nat → Bool
/-- The set of a translation level, by its number of sets, that a page of an entry's word 0 falls in (R310). -/
opaque tlbSet : Nat → Nat → Nat
/-- A miss tag (R311: opaque, nonzero). -/
opaque missTag : Nat → Word
/-- Falcon-1024 signing under the identity key, 1,280 bytes as a number (R399). -/
opaque falconSign : BitVec 512 → BitVec 10240
/-- Falcon-1024 verification under the firmware key (R398). -/
opaque falconVerify : BitVec 512 → BitVec 10240 → Bool
/-- This Vorter's own member number in its pod (R386). -/
opaque member : Nat
/-- The Vorter's recorded minimum firmware version (R398). -/
opaque minVersion : Nat
/-- The address at which a Umator thread of a fresh image starts (R398 gives none); its low two bits are not kept (R65). -/
opaque firmwareEntry : Nat → BitVec 56
/-- The die a Kennel chooses where the choice is left open (R359, R360, R366). -/
opaque kennelDie : Nat → Nat
/-- How far a kernel's admission time lies above the bound that R354 sets. -/
opaque admitSlack : Nat → Nat
/-- The count in a machine-check record of a frame or join state (R338, R364, R368), which R331 leaves open. -/
opaque lostCount : Nat → Nat
/-- Whether a UALink port is fitted (R373). -/
opaque portFitted : Nat → Bool
/-- Whether the flit that a link replays is the one it replayed last (R373). -/
opaque sameFlit : Nat → Bool
/-- Which of the messages that an edge's sender holds were crossing it, unacknowledged, as it went DOWN (R375). -/
opaque lostMsg : Nat → Nat → Bool
/-- The hash by which the UALink port of a pod request is chosen: member, and address unit or event name (R388). -/
opaque podHash : Nat → Nat → Nat
/-- The next router has no buffer space for the message of a class and level, by twice the class's code plus the level, that would leave a
port next (R376, R380). -/
opaque noRoom : Nat → Nat → Bool
/-- Permissions of the entry that a migration pins for a page of which no level holds an entry (R318 gives none). -/
opaque pinPerm : Nat → BitVec 3

end Sys2Proof.Config
end

