-- ==== Sys2Proof/Machine/Types.lean ====
section
/-!
DEFINITION. The pieces of the machine's state as plain data: sparse tables, threads, cores, caches, events, engines,
contexts, queues, kernels, links. Each type's docstring cites the rule that names it.
-/

namespace Sys2Proof.Machine

/-! ### Sparse tables and memory -/

/-- A sparse table: pairs of key and value in ascending key order; an absent key reads as a default. -/
abbrev Tab (α : Type) := List (Nat × α)

/-- The value at a key, or the default. -/
def tget {α : Type} (d : α) : Tab α → Nat → α
  | [], _ => d
  | (k, v) :: t, n => if k = n then v else tget d t n

/-- Sets the value at a key, keeping ascending order. -/
def tset {α : Type} : Tab α → Nat → α → Tab α
  | [], n, x => [(n, x)]
  | (k, v) :: t, n, x =>
    if n < k then (n, x) :: (k, v) :: t else if n = k then (n, x) :: t else (k, v) :: tset t n x

/-- Bytes by address (R14, R17): ascending addresses, no byte equal to what an unlisted address reads as. -/
abbrev Memory := List Host.Cell

/-- DESIGN CHOICE (log 1), unsafe: what a byte that nothing has written reads as. -/
def unwritten : Byte := 0

/-- A bounded data line of 512 bytes (R234). -/
abbrev LineData := BitVec 4096

/-! ### Threads -/

/-- Life-cycle states of a thread context (R22). -/
inductive TState where
  | free | inRot | wait | latched | stopped | frozen
deriving DecidableEq, Repr, Inhabited

/-- What the retry latch holds (R31): nothing, a pre-issue wait, a trap, or a resumed trap that is to issue again. -/
inductive LatchKind where
  | empty | preIssue | trap | reissue
deriving DecidableEq, Repr, Inhabited

/-- The retry latch (R31). -/
structure Latch where
  kind  : LatchKind := .empty
  word  : BitVec 32 := 0
  pc    : BitVec 56 := 0
  /-- the KIND code of R331 -/
  trap  : Nat := 0
  cause : Nat := 0
  addr  : Word := 0
  /-- no word was fetched: the instruction is fetched again (R98) -/
  noWord : Bool := false
  /-- an asynchronous drain POISON, which a skip goes on from too (R229) -/
  goesOn : Bool := false
deriving DecidableEq, Repr, Inhabited

/-- Where a translated unit of an access is served (R91, R234). -/
inductive Place where
  /-- the issuing core's direct range, byte offset -/
  | direct (off : Nat)
  /-- an ORD, NEAR or MGD line: line number (R407), byte offset in it, physical address -/
  | line (l off pa : Nat)
  /-- another core's direct storage through an LWIN page: logical core, byte offset -/
  | lwin (lcore off : Nat)
  | remote (member addr : Nat)
  | host (addr : Nat)
deriving DecidableEq, Repr, Inhabited

/-- One unit of an access: a scalar, a vector lane, or an 8-byte unit of an engine (R255). -/
structure Elem where
  lane  : Nat
  va    : Word
  /-- bytes -/
  w     : Nat
  data  : Nat := 0
  place : Place := .direct 0
deriving DecidableEq, Repr, Inhabited

/-- A task frame (R364), with its RT. -/
structure Frame where
  cpc   : Word
  jn    : Word
  jc    : Word
  aff   : Word
  g     : List Word
  rt    : Word := 0
  /-- the spawner's core, thread index and journal order it waits for; none once STANDING -/
  pend  : Option (Nat × Nat × Nat) := none
deriving DecidableEq, Repr, Inhabited

/-- How far an instruction had come when it began to wait for a load that it makes on the way: lookups of forwarding tables and
heap regions, log fields, launch records (R287, R288, R351, R362). -/
inductive Stage where
  /-- nothing done but such loads -/
  | begun
  /-- `hldr`: the field is read; destination, whether it stays unhealed, the field, its value (R299) -/
  | field (d : HReg) (keep : Bool) (u : Elem) (v : Word)
  /-- `hpin`: the PIN of an object has been raised (R295) -/
  | pinned (d : GReg) (a : HReg) (obj : Nat)
  /-- `hstr`: LOGP has been advanced past an entry (R300): reference, field, entry -/
  | logged (v : Word) (target : Elem) (entry : Nat)
  /-- `launch`: the copy of the record (R357) -/
  | launch (rec' : BitVec 2048)
  /-- a retry of a held store (R292) -/
  | held (a : HReg)
  /-- a retry of `hpin` or `hunpin` (R295, R302) -/
  | pin (d : GReg) (a : HReg) (pinned : Nat) (un : Bool)
deriving DecidableEq, Repr, Inhabited

/-- What a pending load-like request does with its data (R27 load wait). -/
inductive ReqKind where
  /-- scalar load: destination and size -/
  | ld (d : GReg) (sz : Sz)
  /-- vector load: destination, mask, element type -/
  | vld (d : VReg) (m : Word) (ty : VTy)
  | atom (op : Fin 8) (d : GReg) (x cmp : Word) (w : AWidth) (nat : Bool)
  /-- a store whose translation misses: it posts once translated -/
  | st
  /-- a cache operation whose translation misses: function code of R107 -/
  | cache (fn : Nat)
  /-- `hldr`'s field read: destination, address register, whether the base object was MOVING -/
  | hldr (d a : HReg) (keep : Bool)
  /-- `hstr`'s log reservation (R300): reference stored -/
  | hlog (v : Word) (target : Elem)
  /-- `hstr`'s swap (R300): log address -/
  | hswap (v : Word) (logAt : Word)
  /-- a load that the instruction makes on the way: it goes on once the page and line are there -/
  | lookup (stage : Stage)
  /-- an instruction fetch whose translation misses (R98) -/
  | fetch
  /-- `hpin`'s increment (R295, R302) -/
  | hpin (d : GReg) (a : HReg)
  /-- `tlbi` (R314): operand, RT, the pages dropped (context, first address, size) once they are -/
  | tlbi (x : Word) (rt : Word) (pages : List (Nat × Nat × Nat))
  /-- `seed` (R316), `migr` (R317): operand, place in issue order -/
  | seed (x : Word) (ord : Nat)
  | migr (blk ord : Nat)
  | tlbr (d : GReg)
  /-- a STRICT spawn to another die (R367): the frame, the child's join pair, the child's address -/
  | strict (f : Frame) (jn jc target : Word)
deriving DecidableEq, Repr, Inhabited

/-- A request in the load wait: the units not yet served, and the data of those that are. -/
structure Req where
  kind  : ReqKind
  /-- what it needs of its pages, by the code of `needOf` -/
  need  : Nat := 0
  todo  : List Elem := []
  got   : List (Nat × Nat) := []
  /-- a translation of the request is missing (R92) -/
  miss  : Bool := false
  /-- a slice has served units of the line in hand: the others of that demand miss are served there too -/
  past  : Bool := false
  /-- a home has renewed the line for it: the stack whose accumulator its reply's delay goes to (R402), and the hops of
  the recalls that came first (R383) -/
  far   : Option (Nat × Nat) := none
deriving DecidableEq, Repr, Inhabited

/-- One alternative of a `sync` (R141). -/
structure Alt where
  name : Word
  ctl  : Word
  send : Word
  recv : Word
deriving DecidableEq, Repr, Inhabited

/-- The waits of R27, with what each needs to end. -/
inductive Wait where
  | none
  | load (r : Req)
  | matrix
  /-- `sync`: destination, its alternatives, whether the offers are made (R145) -/
  | sync (d : GReg) (alts : List Alt) (sent : Bool)
  /-- `barw` before its arrival is latched (`sent = false`) or until the release (R178) -/
  | barw (ch : Nat) (sent : Bool)
  /-- `barq`'s release wait (R178) -/
  | release (d : GReg) (ch : Nat)
  /-- `hst`, `hstr` to a MOVING object (R292): the base register -/
  | held (a : HReg)
  /-- `hpin`, `hunpin` on a MOVING object (R295, R302): register; address already pinned -/
  | pin (d : GReg) (a : HReg) (pinned : Nat) (un : Bool)
  /-- a retried held store that awaits acceptance (R292): the journal entry -/
  | heldPosted (e : Nat)
  /-- pre-issue waits: the register whose token is pending, the in-route, the out-route, the journal -/
  | token (r : Nat) | chainIn (route : Nat) | chainOut (route : Nat) | journal
deriving DecidableEq, Repr, Inhabited

/-- A choice cell's state (R148). -/
inductive CellSt where
  | idle | opened | claimed | committed
deriving DecidableEq, Repr, Inhabited

/-- An event's identity (R138): name, context, instance of its scope domain. -/
structure EvKey where
  name : Word
  ctx  : Nat
  inst : Nat
deriving DecidableEq, Repr, Inhabited

/-- A claim on a cell (R148, R149): the event, its age, its home (none for the cell's own timer), the alternative. -/
structure Claim where
  key  : EvKey
  age  : Nat
  home : Option Nat
  alt  : Nat
deriving DecidableEq, Repr, Inhabited

/-- The choice cell (R148). `trap` is a trap pending on a CLAIMED cell (R146); `leaving` a thread going to FREE (R157). -/
structure Cell where
  st      : CellSt := .idle
  seq     : BitVec 8 := 0
  /-- the sequence as the thread found it at its placement: the model's own, so that messages meant for an earlier occupant match no
  cell; what the thread reads counts from it (R23, R170) -/
  base    : BitVec 8 := 0
  holder  : Option Claim := none
  queue   : List Claim := []
  trap    : Option (Nat × Nat) := none
  leaving : Bool := false
  /-- cycle of the core at which the `sync` issued, and the panel time then (R149, R158) -/
  cyc     : Nat := 0
  age     : Nat := 0
  /-- timer alternatives that have made their claim -/
  fired   : List Nat := []
deriving DecidableEq, Repr, Inhabited

/-- A thread's state for one barrier channel (R177), with the release's maximum RT while it is held. -/
inductive BarSt where
  | none | arrived | waiting
  | released (rt : Word)
deriving DecidableEq, Repr, Inhabited

/-- An asynchronous trap that is pending (R332): KIND, address, cause, detail; the journal entry of a JOURNAL. -/
structure ATrap where
  kind   : Nat
  cause  : Nat
  addr   : Word
  width  : Nat := 0
  detail : Word := 0
  entry  : Nat := 0
deriving DecidableEq, Repr, Inhabited

/-- The register files of a thread (R34). -/
structure Regs where
  pc : BitVec 56 := 0
  g  : Vector Word 32 := Vector.replicate 32 0
  v  : Vector VWord 32 := Vector.replicate 32 0
  m  : Vector Word 4 := Vector.replicate 4 0
  h  : Vector Word 8 := Vector.replicate 8 0
deriving DecidableEq, Repr, Inhabited

/-- The thread-scope control registers (R109). -/
structure Crs where
  geom  : Word := 0
  fmta  : Word := 0
  fmtb  : Word := 0
  scla  : Word := 0
  sclb  : Word := 0
  ptime : Word := 0
  lease : Word := 0
  chain : Word := 0
  mprog : Word := 0
  dprog : Word := 0
  fmode : Word := 0
deriving DecidableEq, Repr, Inhabited

/-- What `evinfo` reports of the latest completed `sync` (R170). -/
structure EvInfo where
  index : Nat := 0
  name  : Word := 0
  time  : Word := 0
deriving DecidableEq, Repr, Inhabited

/-- One thread context (R20-R34). -/
structure Thread where
  st      : TState := .free
  /-- state held before STOPPED, and before FROZEN (R22) -/
  prior   : TState := .inRot
  prior2  : TState := .inRot
  regs    : Regs := {}
  crs     : Crs := {}
  /-- what the loads of the instruction in hand have raised `ptime` to; it takes effect when the instruction completes, and not
  when it traps (R18, R243) -/
  due     : Word := 0
  ann     : Nat := 0
  /-- token-pending bits, and the RT that each written token publishes at the register's next access (R167) -/
  pend    : BitVec 32 := 0
  toks    : Tab Word := []
  /-- those that the instruction in hand has taken: a trap gives them back (R18) -/
  taken   : Tab Word := []
  /-- the PIN that the `hpin` in hand has raised: a trap gives it back (R18, R295) -/
  pinAt   : Option Elem := none
  latch   : Latch := {}
  /-- latch sequence number (R114) -/
  seq     : BitVec 8 := 0
  cell    : Cell := {}
  wait    : Wait := .none
  ev      : EvInfo := {}
  bars    : Vector BarSt 16 := Vector.replicate 16 .none
  traps   : List ATrap := []
  /-- join pair (R363) -/
  jn      : Word := 0
  jc      : Word := 0
  /-- largest wts of the writes this thread has released (R145) -/
  rel     : Word := 0
  /-- cycles in IN since the last self-advance (R247) -/
  inCyc   : Nat := 0
  /-- kernel slot and flat index (R352); 256: of no kernel in the table, as the firmware's threads are -/
  slot    : Nat := 256
  flat    : Nat := 0
  /-- in-route whose head the waiting instruction takes when it completes, and out-route on which it has reserved an
  entry (R165) -/
  popIn   : Option Nat := none
  resOut  : Option Nat := none
  /-- the program counter was set by a jump to a word that is no address (R88, R98) -/
  noAddr  : Bool := false
  /-- a debug stop that waits for its stop point (R32), with its cause -/
  stopReq : Option Nat := none
  /-- it has been stopped at the instruction that it issues next, which no breakpoint stops again (R32, R404) -/
  passBp  : Bool := false
  /-- program counter of the latest instruction trace record (R405) -/
  tracePc : Nat := 0
  /-- the core's cycle at that record -/
  traceCyc : Nat := 0
deriving DecidableEq, Repr, Inhabited

/-! ### A core -/

/-- A copy request (R267, R279), with its own copy of the descriptor. -/
structure CopyReq where
  /-- 0 cpy, 1 gath, 2 scat, 3 fill -/
  form  : Nat
  ev    : Bool
  desc  : BitVec 1024
  daddr : Nat
  pc    : BitVec 56
  d     : Nat
  gtn   : Nat
  ctx   : Nat
  slot  : Nat
  rt    : Word := 0
  retr  : Nat := 0
  /-- the event instance of an `.ev` form -/
  inst  : Nat := 0
  /-- hops of the request's way (R383) -/
  hops  : Nat := 0
deriving DecidableEq, Repr, Inhabited

/-- A relocation request (R291, R303). -/
structure RelReq where
  ref  : Word
  d    : Nat
  gtn  : Nat
  ctx  : Nat
  slot : Nat
  pc   : BitVec 56
  rt   : Word := 0
  /-- Setter core of a firmware thread's request -/
  inst : Nat := 0
  /-- hops of the request's way (R383) -/
  hops : Nat := 0
  /-- the weight with which it began (R325) -/
  rlw  : Nat := 1
deriving DecidableEq, Repr, Inhabited

/-- A `launch` request (R357): the record, what admission has read (R351), the issuer and its kernel, the completion event's
instance, its place in issue order. -/
structure LaunchReq where
  launch : BitVec 2048
  shape : BitVec 512 := 0
  routes : List Word := []
  gtn   : Nat
  ctx   : Nat
  slot  : Nat
  kid   : Nat
  inst  : Nat := 0
  ord   : Nat := 0
  rt    : Word := 0
deriving DecidableEq, Repr, Inhabited

/-- What a journal entry carries (R248, R271, R299, R302, R303, R357). -/
inductive JKind where
  | store
  /-- a store of a heap instruction, which is no raw write (R296) -/
  | ref
  /-- a write-back of `flush` or `inval`: line, whether the line is given up -/
  | writeback (line : Nat) (give : Bool)
  /-- a healing `cas` (R299) -/
  | heal (old new : Word)
  /-- `hunpin`'s decrement (R302) -/
  | unpin
  | copy (r : CopyReq)
  | htag (r : RelReq)
  | launch (r : LaunchReq)
deriving DecidableEq, Repr, Inhabited

/-- One journal entry (R248). `todo` are the units not yet accepted or refused; thread 16 stands for one that has gone to
FREE. -/
structure JEntry where
  busy    : Bool := false
  thr     : Nat := 0
  ord     : Nat := 0
  p       : Word := 0
  kind    : JKind := .store
  todo    : List Elem := []
  /-- units sent to a port and not yet taken there (LWIN) -/
  flight  : List Elem := []
  refused : List (Elem × Nat) := []
  /-- a load of the thread has been served from it in flight (R236, R263) -/
  seen    : Bool := false
  /-- the physical core from which it completes, once its thread has moved away (R250) -/
  site    : Option Nat := none
deriving DecidableEq, Repr, Inhabited

/-- A line in a first-level cache or pool way (R236-R243). -/
structure L1Line where
  line : Nat
  pa   : Nat
  wts  : Word
  rts  : Word
  /-- sectors that are filled -/
  secs : BitVec 4
  pin  : Bool
  ctx  : Nat
  data : LineData
deriving DecidableEq, Repr, Inhabited

/-- A line owned by a stash (R239): timestamps and dirty sectors; its bytes are the line's current bytes. -/
structure StashLine where
  line  : Nat
  pa    : Nat
  wts   : Word
  rts   : Word
  dirty : BitVec 4
  ctx   : Nat
deriving DecidableEq, Repr, Inhabited

/-- A TLB entry (R308): its two words, and whether it is pinned (R318). -/
structure Tlb where
  w0  : Word
  w1  : Word
  pin : Bool := false
deriving DecidableEq, Repr, Inhabited

/-- States of a matrix operation (R184). -/
inductive MopSt where
  | queued | accumulating | parked | draining | complete
deriving DecidableEq, Repr, Inhabited

/-- A store waiting in the row store buffer: position, lane, address, bytes, data (R224). -/
structure DStore where
  pos  : Nat
  lane : Nat
  va   : Word
  w    : Nat
  data : Nat
deriving DecidableEq, Repr, Inhabited

/-- A drain fault (R225): row, position, lane, KIND, cause, address. -/
structure DFault where
  row  : Nat
  pos  : Nat
  lane : Nat
  kind : Nat
  cause : Nat
  addr : Word
deriving DecidableEq, Repr, Inhabited

/-- A matrix operation of the table of R184, with the copies it keeps (R187, R200, R206). -/
structure Mop where
  thr    : Nat
  st     : MopSt
  bank   : Acc
  desc   : BitVec 512
  shape  : BitVec 512
  direct : Bool
  geom   : Word
  fa     : Nat
  fb     : Nat
  prog   : List (BitVec 32)
  tlen   : Nat
  kdone  : Nat := 0
  ord    : Nat := 0
  /-- the bank is held (from admission) -/
  held   : Bool := false
  /-- order in which it asked for the drain unit (R185) -/
  drn    : Option Nat := none
  /-- the drain unit serves it, and its next row -/
  unit   : Bool := false
  next   : Nat := 0
  /-- committed drain stores not yet accepted or refused (R229, R230) -/
  stores : List Elem := []
  fault  : Option DFault := none
  /-- a drain fault parked it: it needs the drain unit, not the array (R226) -/
  inDrain : Bool := false
  discard : Bool := false
  /-- debug mode of its context, as it issued with it (R214, R326) -/
  dbg     : Bool := false
  /-- locations that the chunk in hand has read (R195), by `locKey` -/
  got     : Tab Nat := []
  /-- the physical core from which these stores of a moved thread's operation complete (R228) -/
  site    : Option Nat := none
deriving DecidableEq, Repr, Inhabited

/-- One register write of a row: position, register, 32 lanes (R213). -/
structure DWrite where
  pos  : Nat
  reg  : Nat
  vals : BitVec 1024
deriving DecidableEq, Repr, Inhabited

/-- A row in the pipe or the store buffer (R211-R213, R224): its row index, position, the writes so far, row scratch writes, the stores
it has made, its fault. -/
structure DRow where
  m     : Nat
  pos   : Nat := 0
  d0    : BitVec 1024 := 0
  wr    : List DWrite := []
  rs    : List (Nat × Nat × BitVec 32) := []
  out   : List DStore := []
  fault : Option DFault := none
  /-- it has run its micro-op in the cycle in hand -/
  ran   : Bool := false
  /-- locations that the `lds` in hand has read (R219), by `locKey` -/
  got   : Tab Nat := []
deriving DecidableEq, Repr, Inhabited

/-- The drain unit: the rows in the pipe and those in the store buffer, in ascending row index (R212, R215, R224); source locations that
the cycle in hand leaves to a later read (R219). -/
structure Drain where
  rows  : List DRow := []
  buf   : List DRow := []
  leave : List Nat := []
deriving DecidableEq, Repr, Inhabited

/-- A program slot's state (R205): none EMPTY; a program with no bound length LOADED; with one BOUND. -/
structure Slot where
  prog : Option (List (BitVec 32)) := none
  tlen : Option Nat := none
deriving DecidableEq, Repr, Inhabited

/-- Waiting or running bank transfers (R203): thread, which (0 mzero, 1 msave, 2 mrest), address, running, the 8-byte locations moved
(R255). -/
structure BankOp where
  thr  : Nat
  bank : Acc
  op   : Nat
  addr : Nat
  ord  : Nat
  run  : Bool := false
  done : List Nat := []
deriving DecidableEq, Repr, Inhabited

/-- A waiting or running `dload.t` (R210), with the 8-byte locations it has read (R255). -/
structure TabCopy where
  thr  : Nat
  src  : Nat
  len  : Nat
  toff : Nat
  ord  : Nat
  run  : Bool := false
  done : List Nat := []
deriving DecidableEq, Repr, Inhabited

/-- The matrix side of a core (R184-R231). -/
structure Matrix where
  acc0  : BitVec 32768 := 0
  acc1  : BitVec 32768 := 0
  slots : Tab Slot := []
  table : BitVec 49152 := 0
  ops   : List Mop := []
  banks : List BankOp := []
  tabs  : List TabCopy := []
  drain : Drain := {}
  /-- next issue order, next drain request order -/
  ord   : Nat := 0
  dord  : Nat := 0
deriving DecidableEq, Repr, Inhabited

/-- A chain entry (R165): value, RT, and its delay field. -/
structure ChainEntry where
  val : Word
  rt  : Word
  /-- the hops of its delay field (R383, R391) -/
  hops : Nat := 0
deriving DecidableEq, Repr, Inhabited

/-- A barrier leaf's state for one channel (R174-R176). -/
structure Leaf where
  mask    : BitVec 16 := 0
  arrived : BitVec 16 := 0
  latched : Bool := false
  /-- members that have gone to FREE after arriving, and members that join from the next phase -/
  leaving : BitVec 16 := 0
  joining : BitVec 16 := 0
  rt      : Word := 0
  /-- some arrival has been made in the phase -/
  came    : Bool := false
deriving DecidableEq, Repr, Inhabited

/-- A prefetch in flight (R406): line, physical address, need, pin, context. -/
structure Prefetch where
  line : Nat
  pa   : Nat
  need : Word
  pin  : Bool
  thr  : Nat
  ctx  : Nat
  va   : Word
  /-- a home has just renewed the line for it: the stack, and hops of recalls -/
  far  : Option (Nat × Nat) := none
deriving DecidableEq, Repr, Inhabited

/-- The caches of a core (R236-R239, R310). -/
structure Caches where
  l1    : List L1Line := []
  stash : List StashLine := []
  tlb   : List Tlb := []
  pref  : List Prefetch := []
  /-- copies of heap region entries (R286): region number, the 64-byte entry, the logical time of the latest advance of its EPOCH that it
  holds (log 68) -/
  heap  : Tab (BitVec 512 × Word) := []
deriving DecidableEq, Repr, Inhabited

/-- One record of the racy-store trace ring (R251). -/
structure Racy where
  time : Word
  src  : BitVec 32
  addr : BitVec 32
deriving DecidableEq, Repr, Inhabited

/-- A task's join offer that waits for the task's posted stores (R258, R363): thread, journal order, event, CTL, kernel slot,
global thread number, RT. -/
structure Join where
  thr  : Nat
  ord  : Nat
  key  : EvKey
  ctl  : Word
  slot : Nat
  gtn  : Nat
  rt   : Word := 0
deriving DecidableEq, Repr, Inhabited

/-- A core (R20-R39), or a Setter core. -/
structure Core where
  threads : Tab Thread := []
  /-- bit s: `last[s]` names member s + 8 (R25, R39) -/
  last    : BitVec 8 := 255
  ptr     : Nat := 0
  cyc     : Nat := 0
  /-- cycles since event traffic of the core's context was last in flight, and how much of it there had been (R161) -/
  calm    : Nat := 0
  evSeen  : Nat := 0
  /-- the context whose threads occupy the core (R21); 64 is the firmware's -/
  ctx     : Nat := 0
  direct  : Memory := []
  /-- `carve` (R37) -/
  dirG    : Nat := 16
  stashG  : Nat := 0
  /-- `jrnl`.RFD (R250) -/
  rfd     : BitVec 16 := 0
  journal : Tab JEntry := []
  jord    : Nat := 0
  nctr    : Vector (BitVec 32) 8 := Vector.replicate 8 0
  dacc    : Tab Word := []
  routes  : Tab Word := []
  /-- in-route queues (R165): entries that have arrived, oldest first -/
  inq     : Tab (List ChainEntry) := []
  /-- entries of each out-route reserved or under way or unpopped at the peer -/
  outRes  : Tab Nat := []
  /-- pushes that wait for earlier posted stores (R258): route, entry, thread, journal order -/
  outWait : List (Nat × ChainEntry × Nat × Nat) := []
  mx      : Matrix := {}
  ca      : Caches := {}
  racy    : List Racy := []
  racyN   : Nat := 0
  deque   : List Frame := []
  /-- the spill ring (R362): number of its far-end frame, modulo 1,024, and for each frame, far end first, its RT and what it
  waits for; the 64 bytes stand in memory -/
  spillLo : Nat := 0
  spill   : List (Word × Option (Nat × Nat × Nat)) := []
  joins   : List Join := []
  leaves  : Tab Leaf := []
  /-- kernel slot that holds the core and its kernel core index (R353) -/
  slot    : Option Nat := none
  kix     : Nat := 0
  retired : Bool := false
  /-- receiving physical core of a pre-emption under way (R333) -/
  moveTo  : Option Nat := none
  /-- a move is the result of a retire command (R336) -/
  moveRet : Bool := false
  /-- the move is that of the host's running command, not of the Kennel (R333) -/
  moveCmd : Bool := false
deriving DecidableEq, Repr, Inhabited

/-- An acknowledgement that has not left its core (R233): core, thread, journal order it waits for, act, operand. -/
structure PendFack where
  core : Nat
  thr  : Nat
  ord  : Nat
  act  : Nat
  arg  : Word
  slot : Nat := 0
  /-- number of the issuer's kernel -/
  kid  : Nat := 0
  rt   : Word := 0
deriving DecidableEq, Repr, Inhabited

/-! ### Clusters, dies, stacks -/

/-- A cluster (R240, R310). -/
structure Cluster where
  lend : Nat := 0
  memb : BitVec 16 := 0
  pool : List L1Line := []
  tlb  : List Tlb := []
deriving DecidableEq, Repr, Inhabited

/-- A line in a die cache slice (R241-R244): held exclusively (its bytes are then the line's current bytes) or shared with
a snapshot; the owning stash's core. -/
structure SliceLine where
  excl  : Bool
  wts   : Word
  rts   : Word
  owner : Option Nat
  data  : LineData
  ctx   : Nat := 0
  /-- the slice of the die that holds it (R241) -/
  no    : Nat := 0
deriving DecidableEq, Repr, Inhabited

/-- Die states (R395). -/
inductive DieSt where
  | reset | training | early | full | failed
deriving DecidableEq, Repr, Inhabited

/-- A compute die. -/
structure Die where
  st     : DieSt := .reset
  clk    : Nat := 0
  ce     : BitVec 32 := 0
  time   : Word := 0
  zero   : Word := 0
  rate   : Word := 0
  slices : Tab SliceLine := []
  /-- issue trace records (R405), newest first, and the cycle of the newest -/
  trace  : List (BitVec 128) := []
  traceAt : Nat := 0
  /-- records are being taken under TRCCTL as it stands, and the cycle of the first of them -/
  traceOn : Bool := false
  traceFrom : Nat := 0
deriving DecidableEq, Repr, Inhabited

/-- A line at its home (R242-R244). -/
structure HomeLine where
  wts  : Word
  rts  : Word
  excl : Option Nat
deriving DecidableEq, Repr, Inhabited

/-- A copy that a Retriever runs (R273, R274): next element, units whose writes are issued but not settled, the largest wts,
the fault (element, step, place in R274's order of traps, address). -/
structure CopyRun where
  req   : CopyReq
  /-- names it among the Retriever's copies -/
  id    : Nat := 0
  next  : Nat := 0
  /-- units written but not yet settled: element, unit -/
  open' : List (Nat × Elem) := []
  wts   : Word := 0
  fault : Option (Nat × Nat × Nat × Word) := none
  /-- elements with a fault -/
  bad   : List Nat := []
  /-- the reads of the next element that have been made (R255, R275): its units by number, its index by 2^40 -/
  got   : Tab Nat := []
  settling : Bool := false
deriving DecidableEq, Repr, Inhabited

/-- A Retriever (R271). -/
structure Retr where
  queue   : List CopyReq := []
  active  : List CopyRun := []
deriving DecidableEq, Repr, Inhabited

/-- Progress of a relocation (R291). -/
inductive RelSt where
  /-- after step 3 has sent the epochs: cores still to acknowledge -/
  | acks (cores : List Nat) (epoch : Nat)
  /-- after step 5, which has reserved the new address: the region's EPOCH, the new reference, SIZE, the units read so far -/
  | taking (epoch : Nat) (new : Word) (size : Nat) (got : Tab Nat)
  /-- the copy is written -/
  | copying (epoch : Nat) (new : Word)
  /-- MOVED in place is still to be written: the region's EPOCH, the status -/
  | inPlace (epoch : Nat) (status : Word)
  /-- host-directed (R294): done but for the host's finish with a status -/
  | host (status : Word)
deriving DecidableEq, Repr, Inhabited

/-- A Collie (R291): queued requests and the one in work, with its slot's address and claimed EPOCH; the context whose turn it is, and what
each context may still begin in its turn. -/
structure Collie where
  queue   : List RelReq := []
  cur     : Option (RelReq × RelSt × Nat) := none
  wts     : Word := 0
  turn    : Nat := 64
  deficit : Tab Nat := []
deriving DecidableEq, Repr, Inhabited

/-- A memory stack: its homes, its TLB bank, its Collie. -/
structure Stack where
  homes  : Tab HomeLine := []
  mts    : Word := 0
  tlb    : List Tlb := []
  collie : Collie := {}
deriving DecidableEq, Repr, Inhabited

/-! ### Events and messages -/

/-- Who made an offer (R150): a thread with its `sync` sequence, or an engine or Kennel. -/
inductive Party where
  | thread (gtn : Nat) (seq : BitVec 8)
  | engine
deriving DecidableEq, Repr, Inhabited

/-- An offer (R145, R147). An engine's offer carries its send data. -/
structure Offer where
  key   : EvKey
  index : Nat
  ctl   : Word
  rt    : Word
  who   : Party
  data  : Nat := 0
  /-- queued behind another offer of its index (R152) -/
  queued : Bool := false
  /-- arrival time at the home (R149) -/
  at'   : Nat := 0
  /-- overflow slot, and the area's base as it was spilled (R160, R325) -/
  spill : Option Nat := none
  base  : Nat := 0
  /-- a fault record (R328): its context, and the slot and number of its kernel; and the model's step at which it was made -/
  fault : Option (Nat × Nat × Nat) := none
  made  : Nat := 0
  /-- kernel slot of a Kennel's or engine's offer (R338, R368) -/
  kern  : Option Nat := none
deriving DecidableEq, Repr, Inhabited

/-- An event's state at its home (R147). -/
inductive EvSt where
  | gathering
  /-- claims granted so far, and global thread numbers still to claim (the first is being claimed) -/
  | claiming (granted todo : List Nat)
  /-- the offers used, send data gathered (party index, data), threads whose commit is under way, threads that still have
  to acknowledge -/
  | occurring (parties : List Offer) (data : List (Nat × Nat)) (todo acks : List Nat)
deriving DecidableEq, Repr, Inhabited

/-- An event at its home. -/
structure HomeEv where
  key  : EvKey
  age  : Nat
  st   : EvSt := .gathering
deriving DecidableEq, Repr, Inhabited

/-- A Bugle (R147, R159). -/
structure Bugle where
  evs    : List HomeEv := []
  offers : List Offer := []
deriving DecidableEq, Repr, Inhabited

/-- Traffic classes (R380). -/
inductive MCls where
  | request | reply | event | bulk
deriving DecidableEq, Repr, Inhabited

/-- Endpoints of the mesh (R379). -/
inductive Endp where
  /-- a core by its logical number -/
  | core (l : Nat)
  | setter (cluster : Nat)
  | bugle (h : Nat)
  | retr (r : Nat)
  | collie (s : Nat)
  | kennel (d : Nat)
  | host
  | pod (m : Nat)
deriving DecidableEq, Repr, Inhabited

/-- What a message carries. -/
inductive Body where
  | offer (o : Offer)
  | withdraw (key : EvKey) (index gtn : Nat) (seq : BitVec 8)
  | claim (c : Claim) (gtn : Nat) (seq : BitVec 8)
  | grant (key : EvKey) (gtn : Nat)
  | deny (key : EvKey) (gtn : Nat) (seq : BitVec 8)
  /-- a commit, and the units of the send buffer that have been read (R144) -/
  | commit (key : EvKey) (gtn index : Nat) (ctl : Word) (got : Tab Nat)
  | release (key : EvKey) (gtn : Nat)
  /-- a delivery, and the units of the receive buffer that have been written (R255) -/
  | delivery (key : EvKey) (gtn : Nat) (ctl : Word) (data : Nat) (rt : Word) (put : List Nat)
  | ack (key : EvKey) (gtn : Nat)
  /-- pod-scope events only (R140): send data for an event host, and a trap for a party of another member -/
  | sendData (key : EvKey) (gtn index data : Nat)
  | trapped (key : EvKey) (gtn : Nat) (seq : BitVec 8) (kind : Nat)
  /-- an acknowledgement: act, SEQ, thread, RT, and the kernel slot and number of a thread issuer, none for Umator, slot 256 for the
  host -/
  | fack (act : Nat) (seq : BitVec 8) (gtn : Nat) (rt : Word) (issuer : Option (Nat × Nat))
  /-- a chain entry for a thread's in-route (R165): route number -/
  | chain (route : Nat) (e : ChainEntry)
  /-- one write at a core's port (R251): the unit, the source word of the record, the journal entry or copy it settles -/
  | port (off w data : Nat) (src : BitVec 32) (core entry lane : Nat)
  /-- a token write (R167); the Setter core of a firmware thread, otherwise 0; the delay accumulator of R402 and the hops carried on -/
  | token (gtn d : Nat) (val rt : Word) (inst acc hops : Nat)
  | copyReq (r : CopyReq) (core entry : Nat)
  | relReq (r : RelReq) (core entry : Nat)
  /-- the new entry of a region (R291 step 3), and the stack of the Collie to acknowledge -/
  | epoch (ctx region : Nat) (ent : BitVec 512) (stack : Nat) (time : Word)
  | team (slot team : Nat)
deriving DecidableEq, Repr, Inhabited

/-- A message on its way (R376-R379): class, source, destination, site it stands at, level, context, hops. -/
structure Msg where
  cls  : MCls
  src  : Endp
  dst  : Endp
  pos  : Nat
  site : Nat
  lvl  : Nat := 0
  ctx  : Nat := 0
  hops : Nat := 0
  /-- the physical core addressed, for a core's messages (R334) -/
  phys : Nat := 0
  /-- it was held in the mesh when the last table set was installed, and has not moved since (R379) -/
  held : Bool := false
  /-- it has moved north, south or east at its level (R378) -/
  turned : Bool := false
  /-- the weight of its context in its class as it was sent (R325, R382) -/
  wgt  : Nat := 1
  body : Body
deriving DecidableEq, Repr, Inhabited

/-- Who waits for a translation (R311). -/
inductive MissWho where
  | thread (core thr : Nat)
  /-- the array or the drain unit, for the operation with an issue order -/
  | array (core thr ord : Nat)
  /-- a Retriever's copy, by its number -/
  | retr (r id : Nat)
  | collie (s gtn : Nat)
  /-- admission and placement (R182, R351): a number that tells requests apart -/
  | kennel (n : Nat)
deriving DecidableEq, Repr, Inhabited

/-- An outstanding miss (R310, R311): a lower level's reply is under way, or a miss record has gone out with a tag. -/
structure Miss where
  who  : MissWho
  ctx  : Nat
  va   : Word
  acc  : BitVec 3
  cluster : Nat
  tag  : Word := 0
  /-- kernel slot, WHO word and RT of the requester -/
  slot : Nat := 0
  word : Nat := 0
  rt   : Word := 0
  /-- RT of the record that it waits on -/
  recRt : Word := 0
  /-- the record has been sent, to the Setter core or to the host -/
  sent : Bool := false
  host : Bool := false
  /-- the fill answered NONE (R313): the requester takes PAGE -/
  none' : Bool := false
deriving DecidableEq, Repr, Inhabited

/-- A write held at the home of its line in a migrating page, in arrival order (R318): core and journal entry, or core and thread
of an atomic; the line, and a copy's unit. -/
structure HeldWrite where
  core  : Nat
  entry : Option Nat
  thr   : Nat
  line  : Nat
  unit  : Nat := 0
deriving DecidableEq, Repr, Inhabited

/-- A migration in progress (R318). -/
structure Mig where
  ctx  : Nat
  va   : Word
  sz   : Nat
  cls  : Nat
  near : Nat
  old  : Nat
  new  : Nat
  core : Nat
  thr  : Nat
  blk  : Nat
  held : List HeldWrite := []
deriving DecidableEq, Repr, Inhabited

/-! ### Contexts, queues, kernels -/

/-- Context states (R324). -/
inductive CtxSt where
  | absent | resident | closing
deriving DecidableEq, Repr, Inhabited

/-- A fault record that waits for the host ring (R328): four words. -/
structure FRec where
  w0 : Word
  w1 : Word
  w2 : Word
  w3 : Word
deriving DecidableEq, Repr, Inhabited

/-- A context (R323, R324, R328). `seed` changes by `seed` only while it is resident. -/
structure Ctx where
  st   : CtxSt := .absent
  desc : Tab Word := []
  recs : List FRec := []
  recN : Nat := 0
  /-- a seed change under way (R241, R316) -/
  seedNew : Option Word := none
deriving DecidableEq, Repr, Inhabited

/-- Queue states (R340, R341). A queue that is on is held as EMPTY; `State.queueState` tells EMPTY, READY and HELD apart. -/
inductive QSt where
  | off | empty | ready | held | error
deriving DecidableEq, Repr, Inhabited

/-- A queue (R339-R346). -/
structure Queue where
  desc : Tab Word := []
  st   : QSt := .off
  err  : Nat := 0
  tail : Nat := 0
  head : Nat := 0
  copy : Option (BitVec 2048) := none
  compl : Nat := 0
  /-- when it was enabled: later kernels are its own -/
  since : Nat := 0
deriving DecidableEq, Repr, Inhabited

/-- Kernel states (R347) after QUEUED. -/
inductive KSt where
  | admitted | placing | running | sinking | complete | aborted
deriving DecidableEq, Repr, Inhabited

/-- Team states (R359). -/
inductive TeamSt where
  | waiting | travelling | placed | done
deriving DecidableEq, Repr, Inhabited

/-- A team (R358, R359): its die and, once placed, its logical cores by core-group order. -/
structure Team where
  /-- 72 while no die is assigned -/
  die   : Nat
  /-- when it became WAITING there -/
  since : Nat := 0
  st    : TeamSt := .waiting
  /-- the placement register has named its die (R361) -/
  named : Bool := false
  cores : List Nat := []
deriving DecidableEq, Repr, Inhabited

/-- A barrier's phase data for one channel and instance (R176): instance number, releases, latest phase maximum. -/
structure Phase where
  ch   : Nat
  inst : Nat
  num  : BitVec 32 := 0
deriving DecidableEq, Repr, Inhabited

/-- A kernel in the kernel table (R347). -/
structure Kernel where
  st    : KSt
  ctx   : Nat
  launch : BitVec 2048
  /-- queue and record number, or the launching thread's offer (R357): key, CTL -/
  queue : Option (Nat × Nat) := none
  done  : Option (EvKey × Word) := none
  /-- the launching kernel's slot and number, and the issuer (R357) -/
  parent : Option (Nat × Nat × Nat) := none
  /-- tells it apart from earlier kernels of its slot -/
  id    : Nat := 0
  at'   : Word := 0
  /-- function modes and heap region table as the kernel was admitted with them (R325, R326) -/
  fmode : Word := 0
  heap  : Word := 0
  shape : BitVec 512 := 0
  routes : List Word := []
  teams : Tab Team := []
  /-- logical core that holds each placed core group (R352) -/
  groups : Tab Nat := []
  /-- logical cores that have died while the kernel runs: the physical core whose leaf still stands in their place (R173, R175) -/
  vacated : Tab Nat := []
  phases : List Phase := []
  /-- abort cause, thread, program counter (R346, R355) -/
  cause : Nat := 0
  athr  : Nat := 0
  apc   : BitVec 56 := 0
  /-- the model's step at which it was aborted (R346) -/
  fin   : Nat := 0
deriving DecidableEq, Repr, Inhabited

/-- Link states (R373). -/
inductive LinkSt where
  | absent | training | up | down
deriving DecidableEq, Repr, Inhabited

/-- A link's status (R374). -/
structure Link where
  st    : LinkSt := .absent
  /-- CMD: the host asks for a retraining that has not begun -/
  cmd   : Bool := false
  lanes : Nat := 0
  rply  : BitVec 32 := 0
  /-- replays of the flit in hand (R373) -/
  tries : Nat := 0
deriving DecidableEq, Repr, Inhabited

/-- A request that leaves on a UALink port (R386, R388): port, pod member, address or event name, bytes (0: event traffic), and the tenant key
of its context. -/
structure PodSent where
  port  : Nat
  memb  : Nat
  addr  : Nat
  bytes : Nat
  key   : Nat
deriving DecidableEq, Repr, Inhabited

/-- The panel's single registers (R336, R345, R361, R390, R398, R399, R403-R405) and firmware state. -/
structure Panel where
  x       : BitVec 32 := 0
  place   : Word := 0
  precmd  : Word := 0
  prestat : Word := 0
  /-- commands that wait for the one in progress (R336) -/
  prewait : List Word := []
  cxl     : Word := 0
  dbg     : Word := 0
  fwctl   : Word := 0
  fwstat  : Nat := 0
  /-- an image being checked (R398), and the digest of the running image -/
  fwload  : Option Nat := none
  fwdig   : Option (BitVec 512) := none
  /-- device address of the running image -/
  fwaddr  : Nat := 0
  nonce   : Tab Word := []
  atBusy  : Bool := false
  atCount : Nat := 0
  report  : List Byte := []
  bps     : Tab Word := []
  stopcmd : Word := 0
  stopcnt : Nat := 0
  stops   : Tab FRec := []
  trcctl  : Word := 0
  trcbase : Word := 0
  trcdrop : Word := 0
  trcN    : Nat := 0
  ringsel : Word := 0
  fack    : Word := 0
  /-- largest RT of a `tlbi`, published to every later fill (R314) -/
  fillRt  : Word := 0
  /-- largest wts of the host's window writes, which its FACK publishes (R329) -/
  hostWts : Word := 0
  /-- logical time of the latest advance of each region's EPOCH, by context × 256 + region (log 68) -/
  epochs  : Tab Word := []
  /-- objects that a Collie has claimed, for the homes of their old copies (R296): context, region, header, slot -/
  olds    : List (Nat × Nat × Elem × Elem) := []
  /-- debugger commands held at a forwarding entry (R334, R404): operation, global thread number -/
  held    : List (Nat × Nat) := []
  /-- the record in the admission unit (R345): queue, record number, context, record -/
  adm     : Option (Nat × Nat × Nat × BitVec 2048) := none
  /-- MSI-X vectors raised, newest first (R389) -/
  msix    : List Nat := []
  /-- other configuration-region bytes the host has written, by register offset (R15) -/
  conf    : Tab Word := []
  /-- sites inject no message: a table set waits for the mesh to empty (R379) -/
  quiet   : Bool := false
  /-- the model's own: the latest reply to an outside reader, cause (0: served) and data (R387, R390) -/
  answer  : Nat × Nat := (0, 0)
  /-- the model's own: the latest request sent on a UALink port (R386, R388) -/
  podOut  : Option PodSent := none
deriving DecidableEq, Repr, Inhabited

/-! ### The model's own fields -/

/-- Who acts at the next step: the schedule, a thread's issue, or the drain unit's next micro-op. -/
inductive Focus where
  | sched
  | issue (core thr : Nat)
  | drain (core : Nat)
deriving DecidableEq, Repr, Inhabited

/-- The core, thread and instruction word of the instruction in hand. -/
structure Cur where
  core : Nat := 0
  thr  : Nat := 0
  word : BitVec 32 := 0
deriving DecidableEq, Repr, Inhabited

end Sys2Proof.Machine
end

