-- ==== Sys2Proof/Machine/State.lean ====
section
/-!
DEFINITION. The machine's state as plain data, its value right after reset, and the reasons a step can stop.
INVENTORY.md lists every field with the rule that names it.
-/

namespace Sys2Proof.Machine

/-- Reasons to stop with a fault. No meaning of the opcode table ends in one: every trap of R19 is a state of the
machine (LATCHED with a record), so nothing raises these. -/
inductive Fault where
  /-- Raised by nothing: the manual names no condition under which the whole machine stops. Safe. -/
  | machineStopped
deriving DecidableEq, Repr

/-- Reasons to refuse an instruction. -/
inductive Refusal where
  /-- An arm of `exec` that has no meaning yet raises it, with the row's mnemonic. Safe. -/
  | notModelled (mnemonic : String)
deriving DecidableEq, Repr

/-- The machine's state: 19,584 physical cores and 1,152 Setter cores, 1,152 clusters, 72 dies and stacks, the panel. -/
structure State where
  /-- the model's own: who acts next, the instruction in hand, steps so far, steps laid down to come (log 2, 4) -/
  focus   : Focus := .sched
  cur     : Cur := {}
  tick    : Nat := 0
  agenda  : List Instr := []
  /-- cores by physical number, cluster × 17 + p; Setter cores from 19,584 on (R6, R7) -/
  cores   : Tab Core := []
  /-- physical core of a logical core where it is not the one of manufacture; none: dead (R7, R8, R334) -/
  lmap    : Tab (Option Nat) := []
  clusters : Tab Cluster := []
  dies    : Tab Die := []
  stks    : Tab Stack := []
  retrs   : Tab Retr := []
  bugles  : Tab Bugle := []
  /-- DRAM, line × 512 + offset (R234, R407); host memory; pod members' memory, member × 2^52 + address -/
  dram    : Memory := []
  host    : Memory := []
  pod     : Memory := []
  /-- hops of the recalls made for the next request for a line (R383), by line × 128 + die of the stash recalled, or 72 -/
  recalls : Tab Nat := []
  /-- poisoned lines (R252) -/
  poison  : List Nat := []
  /-- messages under way, oldest first (R376-R379) -/
  net     : List Msg := []
  /-- event messages sent so far, by context (R161) -/
  evs     : Tab Nat := []
  misses  : List Miss := []
  /-- acknowledgements that wait for their issuer's posted stores, oldest first (R233) -/
  facks   : List PendFack := []
  migs    : List Mig := []
  ctxs    : Tab Ctx := []
  queues  : Tab Queue := []
  kernels : Tab Kernel := []
  /-- `launch` requests that wait for admission, oldest first (R357) -/
  launches : List LaunchReq := []
  links   : Tab Link := []
  /-- entries of the routing tables that differ from dimension order (R377, R378): site, destination, level -/
  routes  : Tab Nat := []
  /-- deficit counters of the fair-share rings at the routers' ports (R382) -/
  deficit : Tab Nat := []
  panel   : Panel := {}
deriving DecidableEq, Repr, Inhabited

/-- The machine right after power-on reset (R395): every die in RESET with its clock stopped, every register and
memory at the reset value of its rule, and at the values of log 1 where no rule gives one. -/
def State.reset : State := {}

end Sys2Proof.Machine
end

