-- ==== Sys2Proof/Machine/Ops.lean ====
section
/-!
DEFINITION. The named operations over the state: memory, cores, threads, registers with the chain channels, the panel's
numbering, messages, event homes, and taking an exception and returning from one.
-/

namespace Sys2Proof.Machine

/-! ### Memory (R14, R17) -/

/-- The byte at an address. -/
def mget (m : Memory) (a : Nat) : Byte := tget unwritten m a

/-- Writes one byte, keeping the canonical form. -/
def mset : Memory → Nat → Byte → Memory
  | [], a, b => if b = unwritten then [] else [(a, b)]
  | (k, v) :: t, a, b =>
    if a < k then (if b = unwritten then (k, v) :: t else (a, b) :: (k, v) :: t)
    else if a = k then (if b = unwritten then t else (a, b) :: t)
    else (k, v) :: mset t a b

/-- The canonical form: strictly ascending addresses, every byte different from an unlisted one. -/
def Memory.wf : Memory → Bool
  | [] => true
  | (k, v) :: t => v != unwritten && t.all (fun c => k < c.1) && Memory.wf t

/-- `n` bytes at `a`, little-endian. -/
def mread (m : Memory) (a : Nat) : Nat → Nat
  | 0 => 0
  | n + 1 => (mget m a).toNat + 256 * mread m (a + 1) n

/-- Writes the low `n` bytes of `v` at `a`, little-endian. -/
def mwrite (m : Memory) (a : Nat) : Nat → Nat → Memory
  | 0, _ => m
  | n + 1, v => mwrite (mset m a (BitVec.ofNat 8 v)) (a + 1) n (v / 256)

/-- Sets `n` bytes from `a` on to zero. -/
def mzeroFrom (m : Memory) (lo hi : Nat) : Memory := m.filter (fun c => c.1 < lo || hi ≤ c.1)

/-! ### Words -/

/-- Larger of two 64-bit natural numbers. -/
def maxW (a b : Word) : Word := if a.toNat < b.toNat then b else a

/-- Bits `[hi:lo]` of a word as a number (R17). -/
def bits (x : Word) (hi lo : Nat) : Nat := x.toNat / 2 ^ lo % 2 ^ (hi + 1 - lo)

/-- Sets bits `[hi:lo]` of a word. -/
def setBits (x : Word) (hi lo v : Nat) : Word :=
  BitVec.ofNat 64 (x.toNat - bits x hi lo * 2 ^ lo + v % 2 ^ (hi + 1 - lo) * 2 ^ lo)

/-- Sign extension of the low `w` bits to 64 (R17). -/
def sextN (v w : Nat) : Word := BitVec.ofInt 64 (BitVec.ofNat w v).toInt

/-! ### The panel's numbering (R1-R8) -/

/-- Physical cores of the compute clusters; Setter cores follow. -/
def setterBase : Nat := 19584

/-- Physical core of manufacture of a logical core (R6, R7). -/
def homeCore (l : Nat) : Nat := l / 16 * 17 + l % 16

def isSetter (p : Nat) : Bool := setterBase ≤ p

/-- Panel cluster that physically holds a core. -/
def clusterOf (p : Nat) : Nat := if isSetter p then p - setterBase else p / 17

/-- Die that physically holds a core. -/
def dieOf (p : Nat) : Nat := clusterOf p / 16

/-- Site number, 12y + x, of a die (R2). -/
def siteOfDie (d : Nat) : Nat := 12 * (d / 6) + 2 * (d % 6) + (d / 6) % 2

/-- Site number of a stack (R2). -/
def siteOfStack (k : Nat) : Nat := 12 * (k / 6) + 2 * (k % 6) + (1 - (k / 6) % 2)

/-- Region of a die (R3). -/
def regionOf (d : Nat) : Nat := 3 * (d / 12) + (2 * (d % 6) + (d / 6) % 2) / 4

/-- The stacks at the four grid neighbours of a site, ascending (R1). -/
def stacksNear (site : Nat) : List Nat :=
  let x := site % 12
  let y := site / 12
  (List.range 72).filter fun k =>
    let u := siteOfStack k % 12
    let v := siteOfStack k / 12
    (v == y && (u + 1 == x || x + 1 == u)) || (u == x && (v + 1 == y || y + 1 == v))

/-- The dies of a region, ascending (R3). -/
def diesOfRegion (r : Nat) : List Nat := (List.range 72).filter (fun d => regionOf d == r)

/-! ### Cores and threads -/

def State.core (s : State) (p : Nat) : Core := tget {} s.cores p
def State.setCore (s : State) (p : Nat) (c : Core) : State := { s with cores := tset s.cores p c }
def State.modCore (s : State) (p : Nat) (f : Core → Core) : State := s.setCore p (f (s.core p))

def Core.thread (c : Core) (t : Nat) : Thread := tget {} c.threads t
def Core.setThread (c : Core) (t : Nat) (th : Thread) : Core := { c with threads := tset c.threads t th }

def State.thread (s : State) (p t : Nat) : Thread := (s.core p).thread t
def State.setThread (s : State) (p t : Nat) (th : Thread) : State := s.setCore p ((s.core p).setThread t th)
def State.modThread (s : State) (p t : Nat) (f : Thread → Thread) : State := s.setThread p t (f (s.thread p t))

/-- The thread in hand. -/
def State.me (s : State) : Thread := s.thread s.cur.core s.cur.thr
def State.setMe (s : State) (th : Thread) : State := s.setThread s.cur.core s.cur.thr th
def State.modMe (s : State) (f : Thread → Thread) : State := s.setMe (f s.me)
def State.myCore (s : State) : Core := s.core s.cur.core

/-- Puts a thread in hand; its instruction word is the one it is latched with. -/
def State.take (s : State) (p t : Nat) : State := { s with cur := ⟨p, t, (s.thread p t).latch.word⟩ }

/-- Physical core behind a logical core; none when it is dead (R7, R8). -/
def State.phys (s : State) (l : Nat) : Option Nat :=
  if 18432 ≤ l then none else tget (some (homeCore l)) s.lmap l

/-- Logical core that a physical core serves. -/
def State.logical (s : State) (p : Nat) : Option Nat :=
  if isSetter p then none
  else
    let own := if p % 17 = 16 then none else some (p / 17 * 16 + p % 17)
    match s.lmap.find? (fun e => e.2 == some p) with
    | some e => some e.1
    | none => match own with
      | some l => if s.phys l = some p then some l else none
      | none => none

/-- Global thread number (R6); a Setter core's thread has none and gives its thread index. -/
def State.gtn (s : State) (p t : Nat) : Nat :=
  match s.logical p with
  | some l => l * 16 + t
  | none => t

/-- The thread that a global thread number names now: physical core and index. -/
def State.whereIs (s : State) (gtn : Nat) : Option (Nat × Nat) := (s.phys (gtn / 16)).map (fun p => (p, gtn % 16))

def State.cluster (s : State) (k : Nat) : Cluster := tget {} s.clusters k
def State.setCluster (s : State) (k : Nat) (c : Cluster) : State := { s with clusters := tset s.clusters k c }
def State.die (s : State) (d : Nat) : Die := tget {} s.dies d
/-- Whether a core's die is in early service (R396). -/
def State.early (s : State) (p : Nat) : Bool := (s.die (dieOf p)).st == .early
def State.setDie (s : State) (d : Nat) (x : Die) : State := { s with dies := tset s.dies d x }
def State.stack (s : State) (k : Nat) : Stack := tget {} s.stks k
def State.setStack (s : State) (k : Nat) (x : Stack) : State := { s with stks := tset s.stks k x }
def State.retr (s : State) (r : Nat) : Retr := tget {} s.retrs r
def State.setRetr (s : State) (r : Nat) (x : Retr) : State := { s with retrs := tset s.retrs r x }
def State.bugle (s : State) (h : Nat) : Bugle := tget {} s.bugles h
def State.setBugle (s : State) (h : Nat) (x : Bugle) : State := { s with bugles := tset s.bugles h x }
def State.ctx (s : State) (c : Nat) : Ctx := tget {} s.ctxs c
def State.setCtx (s : State) (c : Nat) (x : Ctx) : State := { s with ctxs := tset s.ctxs c x }
def State.queue (s : State) (q : Nat) : Queue := tget {} s.queues q
def State.setQueue (s : State) (q : Nat) (x : Queue) : State := { s with queues := tset s.queues q x }
def State.kernel (s : State) (k : Nat) : Option Kernel := (s.kernels.find? (fun e => e.1 == k)).map Prod.snd
def State.setKernel (s : State) (k : Nat) (x : Kernel) : State := { s with kernels := tset s.kernels k x }
def State.link (s : State) (n : Nat) : Link := tget {} s.links n
def State.setLink (s : State) (n : Nat) (x : Link) : State := { s with links := tset s.links n x }

/-- A UALink port is UP: pod requests can leave (R373, R388). -/
def State.podUp (s : State) : Bool := (List.range 64).any fun n => (s.link (576 + n)).st == .up
/-- The UP port on which a request to a pod member goes, by a fixed hash of the member and the 64-byte unit or the event (R388); 64 while none
is UP. -/
def State.podPort (s : State) (memb unit : Nat) : Nat :=
  let ups := (List.range 64).filter fun n => (s.link (576 + n)).st == .up
  ups.getD (Config.podHash memb unit % ups.length) 64
/-- A request of a context leaves for a pod member with the context's tenant key (R386). -/
def State.podSend (s : State) (ctx memb unit addr bytes : Nat) : State :=
  { s with panel := { s.panel with
      podOut := some ⟨s.podPort memb unit, memb, addr, bytes, if ctx < 64 then bits (tget 0 (s.ctx ctx).desc 0) 31 0 else 0⟩ } }
/-- The CXL port is UP: the host can be reached (R373). -/
def State.hostUp (s : State) : Bool := (s.link 640).st == .up

/-! ### Core-scope pieces -/

/-- First byte past the core's direct storage (R38). -/
def Core.dirLimit (c : Core) : Nat := c.dirG * 32768

/-- `n` bytes of direct storage, little-endian. -/
def Core.dread (c : Core) (a n : Nat) : Nat := mread c.direct a n
def State.dwrite (s : State) (p a n v : Nat) : State :=
  s.modCore p fun c => { c with direct := mwrite c.direct a n v }

/-- Adds `n` to counter `i`, saturating (R61). -/
def Core.bump (c : Core) (i : Fin 8) (n : Nat) : Core :=
  { c with nctr := c.nctr.set i (BitVec.ofNat 32 (min (c.nctr[i].toNat + n) 0xFFFFFFFF)) }

/-- Counts the conditions an instruction met (R62, R63). -/
def Core.count (c : Core) (k : Cnt) : Core :=
  ((((((c.bump 0 k.inv).bump 1 k.ovf).bump 2 k.unf).bump 3 k.nan).bump 4 k.q4).bump 5 k.wrap).bump 6 k.dz

/-- Adds one delay field to an accumulator (R402). -/
def Core.addDelay (c : Core) (i hops ns : Nat) : Core :=
  let x := tget 0 c.dacc i
  let cnt := min (bits x 23 0 + 1) 0xFFFFFF
  let h := min (bits x 39 24 + hops) 0xFFFF
  let w := min (bits x 63 40 + ns) 0xFFFFFF
  { c with dacc := tset c.dacc i (BitVec.ofNat 64 (w * 2 ^ 40 + h * 2 ^ 24 + cnt)) }

/-- The site at the far side of an edge: direction 0 east, 1 north, 2 west, 3 south (R1, R372); none off the panel. -/
def neighbour (site dir : Nat) : Option Nat :=
  let x := site % 12
  let y := site / 12
  match dir with
  | 0 => if x + 1 < 12 then some (site + 1) else none
  | 1 => if y + 1 < 12 then some (site + 12) else none
  | 2 => if 0 < x then some (site - 1) else none
  | 3 => if 0 < y then some (site - 12) else none
  | _ => none

/-- The table entry of a site for a destination and arriving level: port (0 to 3 as directions, 4 local) and departing level. A
pair with no entry of its own follows dimension order (R377). -/
def hopBy (routes : Tab Nat) (site dst lvl : Nat) : Nat × Nat :=
  let v := tget 16 routes ((site * 144 + dst) * 2 + lvl)
  if v < 16 then (v % 8, v / 8)
  else
    let x := site % 12
    let y := site / 12
    (if dst % 12 < x then 2 else if x < dst % 12 then 0 else if y < dst / 12 then 1 else if dst / 12 < y then 3 else 4, lvl)

/-- Site routers on the way from a site to another by the tables, both ends among them (R377, R383). -/
def routersTo (routes : Tab Nat) (dst : Nat) : Nat → Nat → Nat → Nat
  | 0, _, _ => 0
  | fuel + 1, site, lvl =>
    if site = dst then 1
    else
      let h := hopBy routes site dst lvl
      match neighbour site h.1 with
      | none => 1
      | some nb => 1 + routersTo routes dst fuel nb h.2

/-- The tables lead from a site to another over edges that satisfy `up` (R373, R377). -/
def wayBy (up : Nat → Bool) (routes : Tab Nat) (dst : Nat) : Nat → Nat → Nat → Bool
  | 0, _, _ => false
  | fuel + 1, site, lvl =>
    if site = dst then true
    else
      let h := hopBy routes site dst lvl
      match neighbour site h.1 with
      | none => false
      | some nb => up (4 * site + h.1) && wayBy up routes dst fuel nb h.2

/-- A request from a site to another, and its answer, find every edge of their ways UP: a DOWN link carries nothing (R373), and an access whose
line, Bugle, Retriever or receiver sits beyond a link that is TRAINING waits (R396). -/
def State.ways (s : State) (a b : Nat) : Bool :=
  let up (n : Nat) : Bool := (s.link n).st == .up
  a == b || (wayBy up s.routes b 600 a 0 && wayBy up s.routes a 600 b 0)

/-- Routers that a message passes from a site to another; none within one site. -/
def State.routers (s : State) (a b : Nat) : Nat := if a = b then 0 else routersTo s.routes b 600 a 0

/-- The routers a message has passed on arrival. -/
def Msg.routers (m : Msg) : Nat := if m.hops = 0 then 0 else m.hops + 1

/-- The spare bridge of a core: physical core 16 of its cluster stands behind it (R7, R383). -/
def spareHop (p : Nat) : Nat := if !isSetter p && p % 17 = 16 then 1 else 0

/-- Hops of a request that the issuing die's slice serves, and of its reply (R383). -/
def sliceHops (p : Nat) : Nat := 2 + 2 * spareHop p

/-- Hops of a slice's request to a line's home and of the answer. -/
def State.homeTrip (s : State) (d l : Nat) : Nat :=
  let a := siteOfDie d
  let b := siteOfStack (l / 4194304 / 48)
  s.routers a b + s.routers b a

/-- A die's slices and a line's home reach each other. -/
def State.homeUp (s : State) (d l : Nat) : Bool := s.ways (siteOfDie d) (siteOfStack (l / 4194304 / 48))

/-- Hops of a slice's request to a stash of its die and of the answer. -/
def stashTrip (q : Nat) : Nat := 2 + 2 * spareHop q

/-- A delay field whose HOPS the rules fix, added to an accumulator (R383, R402); its WAIT is free (R12). -/
def State.delayBy (s : State) (p i hops : Nat) : State :=
  s.modCore p fun c => c.addDelay i (min hops 255) (min (Config.waitNs s.tick) 0xFFFFFF)

/-- A delay field over a way that no rule gives: its HOPS are free too. -/
def State.delay (s : State) (p i : Nat) : State := s.delayBy p i (Config.hops s.tick)

/-- Hops of a recall wait for the next request for the line. -/
def State.noteRecall (s : State) (l d hops : Nat) : State :=
  { s with recalls := tset s.recalls (l * 128 + d) (tget 0 s.recalls (l * 128 + d) + hops) }

/-- The hops of the recalls made for a line, and a state that has counted them. -/
def State.takeRecall (s : State) (l d : Nat) : Nat × State :=
  (tget 0 s.recalls (l * 128 + d), { s with recalls := s.recalls.filter fun e => e.1 != l * 128 + d })

/-- The delay that core `p` counts of a reply or acceptance for a line that physical core `q` has asked for, served at its home when `far`,
otherwise at slice `sl` of that core's die; `more` are the hops of a stash or of recalls (R383, R402). -/
def State.delayLine (s : State) (p q l sl : Nat) (far : Option Nat) (more : Nat) : State :=
  match far with
  | some k => s.delayBy p k (sliceHops q + s.homeTrip (dieOf q) l + more)
  | none => s.delayBy p (72 + sl) (sliceHops q + more)

/-! ### Kernels and events (R137-R140, R348-R349) -/

/-- Bytes `off` to `off + n - 1` of a launch record (R348). -/
def recField (r : BitVec 2048) (off n : Nat) : Nat := r.toNat / 2 ^ (8 * off) % 2 ^ (8 * n)

def Kernel.field (k : Kernel) (off n : Nat) : Nat := recField k.launch off n
def Kernel.levels (k : Kernel) : Nat := k.field 20 1
/-- Size, domain code and memory scope of a level (R348). -/
def Kernel.lvSize (k : Kernel) (l : Nat) : Nat := k.field (96 + 8 * l) 4
def Kernel.lvDom (k : Kernel) (l : Nat) : Nat := k.field (100 + 8 * l) 1 % 8
def Kernel.lvMsc (k : Kernel) (l : Nat) : Nat := k.field (100 + 8 * l) 1 / 16 % 8

/-- The number of the instance of a domain that holds a thread (R138). -/
def domInst (dom gtn : Nat) : Nat :=
  match dom with
  | 0 => gtn
  | 1 => gtn / 16
  | 2 => gtn / 256
  | 3 => gtn / 4096
  | 4 => regionOf (gtn / 4096)
  | _ => 0

/-- The instance of a level of a kernel that holds a thread; the firmware's one level is bound to the core (R311). -/
def State.instOf (s : State) (slot p t scope : Nat) : Nat :=
  if isSetter p then p
  else match s.kernel slot with
    | some k =>
      -- the kernel is one group of its top level, in one instance (R349), wherever its tasks run (R363)
      if k.lvDom scope = 0 && scope + 1 == k.levels then
        ((k.groups.head?.map fun g => g.2 * 16).getD (s.gtn p t))
      else domInst (k.lvDom scope) (s.gtn p t)
    | none => 0

/-- A Bugle among those that may be an event's home (R140), by the fixed hash `Config.bugle`. -/
def bugleAmong (dom gtn : Nat) (key : EvKey) : Nat :=
  let pick (n : Nat) : Nat := Config.bugle key.name key.ctx key.inst n % n
  if dom ≤ 3 then gtn / 4096 * 32 + pick 32
  else if dom = 4 then
    let ds := diesOfRegion (regionOf (gtn / 4096))
    ds.getD (pick 128 / 32) 0 * 32 + pick 128 % 32
  else pick 2304

/-- The endpoint that is an event's home for a party of a kernel (R140, R349); pod-scope events of another event host
leave over UALink. The instance of a firmware event is its Setter core. -/
def State.homeBy (s : State) (slot gtn : Nat) (key : EvKey) : Endp :=
  if key.ctx = 64 then .bugle (dieOf key.inst * 32 + Config.bugle key.name key.ctx key.inst 32 % 32)
  else match s.kernel slot with
    | some k =>
      let l := bits key.name 59 56
      let dom := if k.lvMsc l = 0 then k.lvDom l else k.lvMsc l
      if dom = 6 && k.field 68 2 != Config.member then .pod (k.field 68 2)
      else .bugle (bugleAmong dom gtn key)
    | none => .bugle (bugleAmong 0 gtn key)

/-- The home of a thread's event. -/
def State.homeOf (s : State) (slot p t : Nat) (key : EvKey) : Endp := s.homeBy slot (s.gtn p t) key

/-- The event a thread's name stands for (R138). -/
def State.evKey (s : State) (p t : Nat) (name : Word) : EvKey :=
  let th := s.thread p t
  ⟨name, (s.core p).ctx, s.instOf th.slot p t (bits name 59 56)⟩

/-! ### Messages (R376-R380) -/

/-- Site of an endpoint. DESIGN CHOICE (log 12): the host and pod ports stand at site 0. -/
def State.siteOf (s : State) : Endp → Nat
  | .core l => siteOfDie (match s.phys l with | some p => dieOf p | none => l / 256)
  | .setter k => siteOfDie (k / 16)
  | .bugle h => siteOfDie (h / 32)
  | .retr r => siteOfStack (r / 2)
  | .collie k => siteOfStack k
  | .kennel d => siteOfDie d
  | .host => 0
  | .pod _ => 0

/-- Weight of a context in a traffic class, by the class's code; 0 is taken as 1, and what belongs to no context has 255 (R323, R382). -/
def State.linkWeight (s : State) (ctx code : Nat) : Nat :=
  if 64 ≤ ctx then 255 else max 1 (bits (tget 0 (s.ctx ctx).desc 8) (8 * code + 7) (8 * code))

def MCls.code : MCls → Nat
  | .request => 0
  | .reply => 1
  | .event => 2
  | .bulk => 3

/-- Sends a message: it stands at its source's site (R376), and keeps the weight that its context has now (R325). -/
def State.send (s : State) (cls : MCls) (src dst : Endp) (ctx : Nat) (body : Body) : State :=
  let ph := match dst with
    | .core l => (s.phys l).getD 0
    | _ => 0
  { s with net := s.net ++ [⟨cls, src, dst, s.siteOf src, s.siteOf dst, 0, ctx, 0, ph, false, false, s.linkWeight ctx cls.code, body⟩]
           evs := if cls = .event then tset s.evs ctx (tget 0 s.evs ctx + 1) else s.evs }

/-- Whether an earlier message of the same class and endpoints is still under way (R379). -/
def olderSame (net : List Msg) (k : Nat) (m : Msg) : Bool :=
  (net.take k).any fun x => x.cls == m.cls && x.src == m.src && x.dst == m.dst

/-- Writers from this number on are Retrievers' copies, below it cores. -/
def copyBase : Nat := 60000

/-- A copy's write at a core's port: one already in flight at a freeze completes before direct storage is streamed (R280). -/
def Msg.isCopyPort (m : Msg) : Bool :=
  match m.body with
  | .port _ _ _ _ core _ _ => copyBase ≤ core
  | _ => false

/-- Message `k` when it has reached its destination, and is not held at a forwarding entry (R334, R379). -/
def State.arrived (s : State) (k : Nat) : Option Msg :=
  match s.net[k]? with
  | none => none
  | some m =>
    if m.pos ≠ m.site || olderSame s.net k m then none
    else match m.dst with
      | .core l =>
        if s.phys l = some m.phys && ((s.core m.phys).moveTo.isNone || m.isCopyPort) then some m else none
      | .setter c => if (s.core (setterBase + c)).moveTo.isNone then some m else none
      | _ => some m

/-- The message leaves the net. -/
def State.drop (s : State) (k : Nat) : State := { s with net := s.net.eraseIdx k }

/-- The endpoint at which a thread's messages start. -/
def State.endpOf (s : State) (p : Nat) : Endp :=
  match s.logical p with
  | some l => .core l
  | none => .setter (clusterOf p)

/-! ### Registers and chain channels (R34, R163-R165, R167) -/

/-- The in-route a thread's `g28` reads, when IEN is set. -/
def Crs.inRoute (c : Crs) : Option Nat := if bits c.chain 8 8 = 1 then some (bits c.chain 3 0) else none
/-- The out-route a thread's `g29` writes, when OEN is set. -/
def Crs.outRoute (c : Crs) : Option Nat := if bits c.chain 9 9 = 1 then some (bits c.chain 7 4) else none

/-- The entries that have arrived on an in-route. -/
def Core.inQ (c : Core) (r : Nat) : List ChainEntry := tget [] c.inq r

/-- Reads a general register: `g0` is zero, `g28` the queue's head, `g29` zero while its enable is set. -/
def State.gr (s : State) (r : GReg) : Word :=
  let th := s.me
  if r = 0 then 0
  else if r = 28 then
    match th.crs.inRoute with
    | some q => match s.myCore.inQ q with
      | e :: _ => e.val
      | [] => 0
    | none => th.regs.g[r]
  else if r = 29 && th.crs.outRoute.isSome then 0
  else th.regs.g[r]

/-- Sets a general register's bits, with no rule about its number. -/
def Thread.setG (th : Thread) (r : GReg) (v : Word) : Thread := { th with regs := { th.regs with g := th.regs.g.set r v } }

/-- Raises a thread's `ptime` (R242-R247): nothing lowers it. -/
def Thread.raise (th : Thread) (t : Word) : Thread := { th with crs := { th.crs with ptime := maxW th.crs.ptime t } }

/-- The logical time at which the thread's next load is made: `ptime`, with what the instruction in hand has raised it to. -/
def Thread.now (th : Thread) : Word := maxW th.crs.ptime th.due
/-- A load of the instruction in hand returns a write of time `t` (R243), or a token that it names publishes that time (R167). -/
def Thread.owe (th : Thread) (t : Word) : Thread := { th with due := maxW th.due t }
/-- The instruction in hand completes: `ptime` takes what its loads and tokens have raised it to. -/
def Thread.pay (th : Thread) : Thread := { th.raise th.due with due := 0, taken := [], pinAt := none, passBp := false }
/-- The instruction in hand traps: what it has loaded and the tokens it has taken are as if it had not issued (R18). -/
def Thread.unpay (th : Thread) : Thread :=
  { th with due := 0, taken := [], pinAt := none, passBp := false, toks := th.taken.foldl (fun a e => tset a e.1 e.2) th.toks }

/-- The release time of a thread (R145): its `ptime` or the latest write it released. -/
def Thread.rt (th : Thread) : Word := maxW th.now th.rel

/-- A posted store that a later release of the thread waits for (R145, R258); copies and requests are not among them. -/
def JEntry.isStore (e : JEntry) : Bool :=
  match e.kind with
  | .store | .ref | .writeback _ _ | .heal _ _ | .unpin => true
  | _ => false

/-- Whether a thread's posted stores issued before order `o` are all accepted or refused. -/
def Core.settledBefore (c : Core) (t o : Nat) : Bool :=
  c.journal.all fun e => !(e.2.busy && e.2.thr == t && e.2.isStore && e.2.ord < o)

/-- Whether all posted stores of a thread are accepted or refused. -/
def Core.settled (c : Core) (t : Nat) : Bool := c.settledBefore t c.jord

/-- Hops of a chain entry of a physical core to a logical core (R391): two through slice 2c of the pushing core's logical
die, and for an end moved to another die that die's network and the routers between them (DEDUCED, log 57). -/
def State.chainHops (s : State) (p l : Nat) : Nat :=
  let a := (s.logical p).getD 0
  let q := (s.phys l).getD 0
  let h := a / 256
  let there := if dieOf p = h then 0 else s.routers (siteOfDie (dieOf p)) (siteOfDie h) + 1
  let back := if dieOf q = h then 0 else s.routers (siteOfDie h) (siteOfDie (dieOf q)) + 1
  spareHop p + spareHop q + (if there + back = 0 && clusterOf p = clusterOf q then 0 else 2 + there + back)

/-- A chain push (R165, R258): the entry leaves once the thread's earlier posted stores are settled; otherwise it stands
in `outWait`. -/
def State.push (s : State) (p t route : Nat) (v : Word) : State :=
  let c := s.core p
  let w := tget 0 c.routes route
  let e : ChainEntry := ⟨v, (c.thread t).rt, s.chainHops p (bits w 18 4)⟩
  if c.settled t && !(c.outWait.any fun x => x.1 == route) then
    s.send .event (s.endpOf p) (.core (bits w 18 4)) c.ctx (.chain (bits w 23 20) e)
  else s.setCore p { c with outWait := c.outWait ++ [(route, e, t, c.jord)] }

/-- Writes a general register: writes to `g0` are discarded, and to `g28` while IEN is set; a write to `g29` while OEN is
set pushes on the out-route. -/
def State.gw (s : State) (r : GReg) (v : Word) : State :=
  let th := s.me
  if r = 0 then s
  else if r = 28 && th.crs.inRoute.isSome then s
  else match th.crs.outRoute with
    | some q => if r = 29 then s.push s.cur.core s.cur.thr q v else s.setMe (th.setG r v)
    | none => s.setMe (th.setG r v)

/-- Reads a reference register: `h0` is null (R282). -/
def State.hr (s : State) (r : HReg) : Word := if r = 0 then 0 else s.me.regs.h[r]
/-- Writes a reference register; writes to `h0` are discarded. -/
def State.hw (s : State) (r : HReg) (v : Word) : State :=
  if r = 0 then s else s.modMe fun th => { th with regs := { th.regs with h := th.regs.h.set r v } }
/-- Reads a mask register: `m0` is all ones (R34). -/
def State.mr (s : State) (r : MReg) : Word := if r = 0 then BitVec.allOnes 64 else s.me.regs.m[r]
def State.mw (s : State) (r : MReg) (v : Word) : State :=
  if r = 0 then s else s.modMe fun th => { th with regs := { th.regs with m := th.regs.m.set r v } }
def State.vr (s : State) (r : VReg) : VWord := s.me.regs.v[r]
def State.vw (s : State) (r : VReg) (v : VWord) : State :=
  s.modMe fun th => { th with regs := { th.regs with v := th.regs.v.set r v } }

/-! ### Waits (R22, R27, R28) -/

/-- A thread's state becomes `x`, or, while it is STOPPED or FROZEN, the state it will be in afterwards (R22, R32). -/
def Thread.enter (th : Thread) (x : TState) : Thread :=
  match th.st with
  | .stopped => { th with prior := x }
  | .frozen => if th.prior2 = .stopped then { th with prior := x } else { th with prior2 := x }
  | _ => { th with st := x }

/-- The wait is over: the thread returns to IN, or, when it is STOPPED, will be in rotation on resume. -/
def Thread.rejoin (th : Thread) : Thread := { th.enter .inRot with wait := .none, popIn := none, resOut := none }

/-- Wakes the threads of a core whose pre-issue wait satisfies `P` (R28): the latched instruction issues again. -/
def Core.wake (c : Core) (P : Wait → Bool) : Core :=
  { c with threads := c.threads.map fun e => (e.1, if P e.2.wait then e.2.rejoin else e.2) }

def State.wake (s : State) (p : Nat) (P : Wait → Bool) : State := s.modCore p fun c => c.wake P

/-- The head of an in-route is taken (R165): `ptime` rises to the push's RT, and an entry is free at the pusher. -/
def State.pop (s : State) (p t route : Nat) : State :=
  let c := s.core p
  match c.inQ route with
  | [] => s
  | e :: rest =>
    let s := s.setCore p { c with inq := tset c.inq route rest }
    let s := s.delayBy p 104 e.hops
    let s := s.modThread p t fun th => th.raise e.rt
    let w := tget 0 c.routes route
    match s.phys (bits w 18 4) with
    | none => s
    | some q =>
      let r := bits w 23 20
      (s.modCore q fun d => { d with outRes := tset d.outRes r (tget 0 d.outRes r - 1) }).wake q (· == .chainOut r)

/-! ### Exceptions (R19, R31, R113, R114, R328-R331) -/

/-- A trap: KIND (R331), cause code, fault address, bits of DETAIL beside the word, W field. -/
structure Trap where
  kind   : Nat
  cause  : Nat := 0
  addr   : Word := 0
  detail : Nat := 0
  /-- DETAIL does not hold the instruction's word -/
  noWord : Bool := false
  w      : Nat := 0
deriving DecidableEq, Repr, Inhabited

def Trap.illegal : Trap := { kind := 1 }
def Trap.align (a : Word) : Trap := { kind := 2, addr := a }
def Trap.page (a : Word) : Trap := { kind := 3, addr := a }
def Trap.access (a : Word) (cause : Nat := 0) : Trap := { kind := 4, addr := a, cause := cause }
def Trap.class' (a : Word) : Trap := { kind := 5, addr := a }
def Trap.event : Trap := { kind := 8 }
/-- The asynchronous POISON of a drain store: A, DETAIL[47], is 1 in it alone (R331). -/
def Trap.drainPoison (t : Trap) : Bool := t.kind == 13 && t.detail / 2 ^ 47 % 2 == 1

/-- A record's four words (R330, R331). -/
def mkRecord (seq : BitVec 8) (gtn : Nat) (pc : BitVec 56) (word : BitVec 32) (t : Trap) : FRec where
  w0 := BitVec.ofNat 64 (seq.toNat * 2 ^ 19 + gtn)
  w1 := BitVec.ofNat 64 (t.kind * 2 ^ 59 + t.w * 2 ^ 57 + pc.toNat)
  w2 := BitVec.ofNat 64 (t.cause * 2 ^ 56 + t.addr.toNat % 2 ^ 56)
  w3 := BitVec.ofNat 64 (t.detail + if t.noWord then 0 else word.toNat)

/-- The record as the 32 bytes of an offer's send data. -/
def FRec.data (r : FRec) : Nat := r.w0.toNat + r.w1.toNat * 2 ^ 64 + r.w2.toNat * 2 ^ 128 + r.w3.toNat * 2 ^ 192

/-- CTL of a two-party `copy` offer of 32 bytes (R232, R311, R328): INDEX 0. -/
def recordCtl : Word := 0x0080100000200000

/-- Appends a record to the host ring's waiting records (R328). -/
def State.toHost (s : State) (c : Nat) (r : FRec) : State :=
  s.setCtx c { s.ctx c with recs := (s.ctx c).recs ++ [r] }

/-- An unconditional offer of the firmware's record events (R311, R328): the Setter core of a cluster is its instance; `fault` names
the context of a fault record. -/
def State.toUmator (s : State) (cluster : Nat) (name : Word) (data : Nat) (rt : Word) (fault : Option (Nat × Nat × Nat)) : State :=
  let p := setterBase + cluster
  let key : EvKey := ⟨name, 64, p⟩
  s.send .event (.setter cluster) (s.homeOf 0 p 0 key) 64
    (.offer { key := key, index := 0, ctl := recordCtl, rt := rt, who := .engine, data := data, fault := fault,
              made := s.tick })

/-- A kernel still in the table that has neither completed nor been aborted. -/
def State.liveKernel (s : State) (slot : Nat) : Option Kernel :=
  match s.kernel slot with
  | some k => if k.st = .complete || k.st = .aborted then none else some k
  | none => none

/-- The number of the kernel in a slot. -/
def State.kernelId (s : State) (slot : Nat) : Nat := ((s.kernel slot).map Kernel.id).getD 0

/-- Delivers a record that concerns a thread to the service that its kernel's FSVC names (R232, R328). -/
def State.deliver (s : State) (p t slot ctx : Nat) (r : FRec) : State :=
  let fmode : Word := match s.kernel slot with
    | some k => k.fmode
    | none => BitVec.ofNat 64 (bits (tget 0 (s.ctx ctx).desc 0) 38 32)
  match bits fmode 2 1 with
    | 0 =>
      let name : Word := match s.liveKernel slot with
        | some k => BitVec.ofNat 64 (k.field 72 8)
        | none => 0
      if name = 0 then s.toHost ctx r
      else
        let key : EvKey := ⟨name, ctx, s.instOf slot p t (bits name 59 56)⟩
        s.send .event (s.endpOf p) (s.homeOf slot p t key) ctx
          (.offer { key := key, index := 0, ctl := recordCtl, rt := (s.thread p t).rt, who := .engine, data := r.data,
                    fault := some (ctx, slot, s.kernelId slot), made := s.tick })
    | 1 => s.toUmator (clusterOf p) 0x3000000000000001 r.data (s.thread p t).rt (some (ctx, 256, 0))
    | _ => s.toHost ctx r

/-- Gives back the out-queue entry a waiting instruction has reserved (R165). -/
def State.unreserve (s : State) (p t : Nat) : State :=
  match (s.thread p t).resOut with
  | none => s
  | some r => s.modCore p fun c => { c with outRes := tset c.outRes r (tget 0 c.outRes r - 1) }

/-- The program counter that a 64-bit value in direct storage gives: it is word aligned (R34, R65), so the low two bits are not
kept (DEDUCED, log 63). -/
def wordPc (v : Nat) : BitVec 56 := BitVec.ofNat 56 (v / 4 * 4)

/-- TAKING AN EXCEPTION. On a Setter core (R113) the record goes to `0x100 + 32t` of direct storage and the program
counter to the value at address 0; its ACK word holds the sequence number as it stands and the thread index (DESIGN CHOICE,
log 63: R113 gives the record's layout and not what stands there). Elsewhere (R31, R114) the retry latch takes the word, program counter, cause and
address; the latch sequence number advances; the thread is LATCHED; the record goes to the fault service. -/
def State.trapThread (s : State) (p t : Nat) (word : BitVec 32) (tr : Trap) : State :=
  let s := (s.unreserve p t).modThread p t Thread.unpay
  let th := s.thread p t
  if isSetter p then
    let r := mkRecord th.seq t th.regs.pc word tr
    let s := s.dwrite p (256 + 32 * t) 32 r.data
    s.modThread p t fun th =>
      { th with st := .inRot, wait := .none, latch := {}, popIn := none, resOut := none, noAddr := false,
                regs := { th.regs with pc := wordPc ((s.core p).dread 0 8) } }
  else
    let seq := th.seq + 1
    let r := mkRecord seq (s.gtn p t) th.regs.pc word tr
    let s := s.setThread p t
      { th.enter .latched with wait := .none, seq := seq, popIn := none, resOut := none,
                               latch := ⟨.trap, word, th.regs.pc, tr.kind, tr.cause, tr.addr, false, tr.drainPoison⟩ }
    s.deliver p t th.slot (s.core p).ctx r

/-- A trap where no instruction word is at hand: its resume fetches again (R98). -/
def State.fetchTrap (s : State) (p t : Nat) (tr : Trap) : State :=
  (s.trapThread p t 0 tr).modThread p t fun th => { th with latch := { th.latch with noWord := th.latch.kind == .trap } }

/-- Takes an exception for the thread in hand. -/
def State.trapMe (s : State) (tr : Trap) : State := s.trapThread s.cur.core s.cur.thr s.cur.word tr

/-! ### Returning from an exception, leaving a core (R24, R31, R113, R157, R175) -/

/-- Return from a Setter core's trap (R113): the program counter becomes the one its record stores. -/
def State.returnTrap (s : State) (p t : Nat) : State :=
  let pc := wordPc ((s.core p).dread (256 + 32 * t + 8) 8)
  s.modThread p t fun th => { th with regs := { th.regs with pc := pc } }

/-- Withdraws the standing offers of a thread's `sync` from their homes, but for alternative `keep` (R151, R157). -/
def State.withdraw (s : State) (p t : Nat) (keep : Option Nat) : State :=
  let th := s.thread p t
  match th.wait with
  | .sync _ alts true =>
    (List.range alts.length).foldl (fun s k =>
      match alts[k]? with
      | none => s
      | some a =>
        if keep = some k || bits a.name 63 60 = 5 then s
        else
          let key := s.evKey p t a.name
          s.send .event (s.endpOf p) (s.homeOf th.slot p t key) key.ctx
            (.withdraw key (bits a.ctl 19 0) (s.gtn p t) th.cell.seq)) s
  | _ => s

/-- A leaf has latched its output once every member of a nonempty thread mask has arrived (R174, R179). -/
def Leaf.settle (l : Leaf) : Leaf :=
  { l with latched := l.latched || (l.mask != 0 && (l.mask &&& ~~~ l.arrived) == 0) }

/-- A thread leaves a leaf (R175): at once when it has not arrived, otherwise when the phase is released. -/
def Leaf.leave (l : Leaf) (t : Nat) : Leaf :=
  let b : BitVec 16 := 1 <<< t
  if l.arrived &&& b != 0 then { l with leaving := l.leaving ||| b, joining := l.joining &&& ~~~ b }
  else ({ l with mask := l.mask &&& ~~~ b, joining := l.joining &&& ~~~ b } : Leaf).settle

/-- Every thread context of a core is FREE. -/
def Core.idle (c : Core) : Bool := c.threads.all fun e => e.2.st == .free

/-- A team whose threads are all FREE is DONE (R359). -/
def State.teamsDone (s : State) (slot : Nat) : State :=
  match s.kernel slot with
  | none => s
  | some k =>
    s.setKernel slot { k with teams := k.teams.map fun e =>
      (e.1, if e.2.st == .placed && e.2.cores.all (fun l => match s.phys l with
          | some p => (s.core p).idle
          | none => true) then { e.2 with st := .done } else e.2) }

/-- Acknowledgements that a leaving thread has issued go on without it (R24). -/
def State.orphanFacks (s : State) (p t : Nat) : State :=
  let rt := (s.thread p t).rt
  { s with facks := s.facks.map fun f => if f.core = p && f.thr = t then { f with thr := 16, rt := maxW f.rt rt } else f }

/-- Engine work of a thread that goes to FREE writes no token any more (R167): whether a request is its. -/
def CopyReq.isOf (r : CopyReq) (p gtn : Nat) : Bool := r.gtn == gtn && (if isSetter p then r.ctx == 64 && r.inst == p else r.ctx != 64)

def CopyReq.untoken (p gtn : Nat) (r : CopyReq) : CopyReq := if r.isOf p gtn then { r with d := 0 } else r
def RelReq.untoken (p gtn : Nat) (r : RelReq) : RelReq := if r.gtn == gtn && (if isSetter p then r.ctx == 64 && r.inst == p else r.ctx != 64) then { r with d := 0 } else r

def JKind.untoken (p gtn : Nat) : JKind → JKind
  | .copy r => .copy (r.untoken p gtn)
  | .htag r => .htag (r.untoken p gtn)
  | k => k

def Body.untoken (p gtn : Nat) : Body → Body
  | .copyReq r c e => .copyReq (r.untoken p gtn) c e
  | .relReq r c e => .relReq (r.untoken p gtn) c e
  | .token g d v rt i x h => .token g (if g = gtn && (if isSetter p then i == p else i == 0) then 0 else d) v rt i x h
  | b => b

/-- Every later token write for a thread is discarded (R167). -/
def State.untoken (s : State) (p gtn : Nat) : State :=
  { s with
    cores := s.cores.map fun e => (e.1, { e.2 with
      journal := e.2.journal.map fun j => (j.1, { j.2 with kind := j.2.kind.untoken p gtn }) })
    net := s.net.map fun m => { m with body := m.body.untoken p gtn }
    retrs := s.retrs.map fun e => (e.1, { e.2 with
      queue := e.2.queue.map (CopyReq.untoken p gtn)
      active := e.2.active.map fun x => { x with req := x.req.untoken p gtn } })
    stks := s.stks.map fun e => (e.1, { e.2 with collie := { e.2.collie with
      queue := e.2.collie.queue.map (RelReq.untoken p gtn)
      cur := e.2.collie.cur.map fun x => (x.1.untoken p gtn, x.2) } }) }

/-- Changes the RT, and what is waited for, of every task frame. -/
def State.modFrames (s : State) (f : Word × Option (Nat × Nat × Nat) → Word × Option (Nat × Nat × Nat)) : State :=
  let g (x : Frame) : Frame := { x with rt := (f (x.rt, x.pend)).1, pend := (f (x.rt, x.pend)).2 }
  { s with cores := s.cores.map fun e => (e.1, { e.2 with deque := e.2.deque.map g, spill := e.2.spill.map f }) }

/-- A frame that waits for a thread's stores goes on without it. -/
def orphanFrame (p t : Nat) (rt : Word) (x : Word × Option (Nat × Nat × Nat)) : Word × Option (Nat × Nat × Nat) :=
  match x.2 with
  | some (q, i, o) => if q = p && i = t then (maxW x.1 rt, some (p, 16, o)) else x
  | none => x

/-- What is left of a matrix operation that ends before its rows are all stored: while stores of rows that it has committed are in flight,
they settle without it (R224, R226). -/
def Mop.ends (o : Mop) : List Mop :=
  if o.stores.isEmpty then []
  else [{ o with st := .complete, held := false, discard := true, unit := false, inDrain := false, drn := none, fault := none,
                 got := [] }]

/-- The operations of a core when a thread's parked one goes; another of the thread's runs on without it. -/
def Matrix.orphan (x : Matrix) (t : Nat) : List Mop :=
  x.ops.flatMap fun o => if o.thr ≠ t then [o] else if o.st = .parked then o.ends else [{ o with discard := true }]

/-- The context becomes FREE (R23, R24, R157): pending tokens, traps and replies are discarded; the latch and `sync`
sequences stay. A PARKED operation goes, its bank as it stands (R184); an unfinished one runs on without its thread, and so
do its posted stores and requests. -/
def State.freeNow (s : State) (p t : Nat) : State :=
  let s := ((s.unreserve p t).orphanFacks p t).untoken p (s.gtn p t)
  let rt := (s.thread p t).rt
  let s := s.modFrames (orphanFrame p t rt)
  let s := { s with misses := s.misses.filter fun m => m.who != MissWho.thread p t }
  let s := s.modCore p fun c =>
    let th := c.thread t
    let c := c.setThread t { seq := th.seq, cell := { seq := th.cell.seq, base := th.cell.seq } }
    -- an operation that runs on reads at a time no earlier than its thread's: thread 16 stands for it
    let c := if c.mx.ops.any fun o => o.thr == t && !o.discard then c.setThread 16 ((c.thread 16).raise th.now) else c
    { c with leaves := c.leaves.map fun e => (e.1, e.2.leave t)
             journal := c.journal.map fun e =>
               (e.1, if e.2.busy && e.2.thr == t then { e.2 with thr := 16, p := if e.2.isStore then e.2.p else maxW e.2.p th.rt }
                     else e.2)
             joins := c.joins.map fun j => if j.thr = t then { j with thr := 16, rt := maxW j.rt th.rt } else j
             outWait := c.outWait.map fun x =>
               if x.2.2.1 = t then (x.1, { x.2.1 with rt := maxW x.2.1.rt th.rt }, 16, x.2.2.2) else x
             mx := { c.mx with
               ops := c.mx.orphan t
               banks := (c.mx.banks.filter fun b => b.run || b.thr != t).map fun b => if b.thr = t then { b with thr := 16 } else b
               tabs := (c.mx.tabs.filter fun b => b.run || b.thr != t).map fun b => if b.thr = t then { b with thr := 16 } else b } }
  s

/-- A thread goes to FREE (R24). While its cell is CLAIMED the move waits for the claim's end (R157). -/
def State.leave (s : State) (p t : Nat) : State :=
  let th := s.thread p t
  if th.cell.st = .claimed then
    (s.withdraw p t (th.cell.holder.map Claim.alt)).modThread p t fun th =>
      { th with cell := { th.cell with leaving := true } }
  else ((s.withdraw p t none).freeNow p t).teamsDone th.slot

/-- The effect of an acknowledgement on the latched thread (R31, R114, R194, R226, R233): 0 resume, 1 skip, 2 kill. -/
def State.ackThread (s : State) (p t act : Nat) (rt : Word) : State :=
  match act with
  | 0 =>
    s.modCore p fun c =>
      let th := c.thread t
      let queued := c.mx.ops.any fun o => o.thr == t && o.st == .parked
      let crs := if queued then { th.crs with mprog := setBits th.crs.mprog 61 60 1 } else th.crs
      let c := c.setThread t ({ th with st := .inRot, crs := crs,
                                        latch := if th.latch.noWord then {} else { th.latch with kind := .reissue } }.raise rt)
      { c with mx := { c.mx with ops := c.mx.ops.map fun o =>
          if o.thr = t && o.st == .parked then { o with st := .queued, fault := none } else o } }
  | 1 =>
    if (s.thread p t).latch.goesOn then
      s.modThread p t fun th => { th with st := .inRot, latch := { th.latch with kind := .reissue } }.raise rt
    else s.modCore p fun c =>
      let th := c.thread t
      let parked := c.mx.ops.any fun o => o.thr == t && o.st == .parked
      let crs := if parked then
          { th.crs with mprog := setBits th.crs.mprog 63 63 0, dprog := setBits th.crs.dprog 63 63 0 } else th.crs
      let c := c.setThread t ({ th with st := .inRot, latch := {}, crs := crs,
                                        regs := { th.regs with pc := th.regs.pc + 4 } }.raise rt)
      { c with mx := { c.mx with ops := c.mx.orphan t } }
  | _ => s.leave p t

/-! ### One instruction's issue (R27, R28, R165, R167) -/

/-- How a meaning's body ends. -/
inductive Ends where
  /-- complete: the program counter passes to the next word -/
  | done (s : State)
  /-- complete, with a new program counter -/
  | jump (s : State) (pc : BitVec 56)
  /-- a post-issue wait begins -/
  | wait (s : State) (w : Wait)
  /-- a pre-issue wait: no effect (R27) -/
  | again (w : Wait)
  /-- a trap: no effect but what `keep` holds (R18) -/
  | trap (t : Trap)
  | trapKeep (s : State) (t : Trap)
  /-- the thread has left rotation by other means -/
  | gone (s : State)

/-- The route entry a chain access uses is valid for it (R163, R165): V, direction, and the thread its peer names. -/
def State.routeOk (s : State) (route : Nat) (out : Bool) : Bool :=
  let w := tget 0 s.myCore.routes route
  bits w 63 63 = 1 && (bits w 19 19 = 1) == out &&
    (bits w 62 62 = 1 || match s.phys (bits w 18 4) with
      | some q => bits (tget 0 (s.core q).routes (bits w 23 20)) 3 0 == s.cur.thr
      | none => false)

/-- The first pre-issue condition an instruction meets, or the trap of a route it may not use (R27, R28, R165). `rd` and
`wr` are the general registers its word names as read and written. -/
def State.before (s : State) (rd wr : List GReg) : Option (Trap ⊕ Wait) :=
  let th := s.me
  match (rd ++ wr).find? fun r : GReg => r != 0 && th.pend.getLsbD r.val with
  | some r => some (.inr (.token r.val))
  | none =>
    let pop : Option (Trap ⊕ Wait) :=
      if rd.contains 28 then
        match th.crs.inRoute with
        | some q =>
          if !s.routeOk q false then some (.inl .event)
          else if bits (tget 0 s.myCore.routes q) 62 62 = 1 || (s.myCore.inQ q).isEmpty then some (.inr (.chainIn q))
          else none
        | none => none
      else none
    match pop with
    | some x => some x
    | none =>
      if wr.contains 29 then
        match th.crs.outRoute with
        | some q =>
          if !s.routeOk q true then some (.inl .event)
          else if bits (tget 0 s.myCore.routes q) 62 62 = 1 || 8 ≤ tget 0 s.myCore.outRes q then some (.inr (.chainOut q))
          else none
        | none => none
      else none

/-- The instruction is complete: the chain head it read is taken, the program counter set, the latch cleared. -/
def State.finish (s : State) (popIn : Option Nat) (pc : BitVec 56) : State :=
  let s := match popIn with
    | some q => s.pop s.cur.core s.cur.thr q
    | none => s
  s.modMe fun th => { th.pay with latch := {}, regs := { th.regs with pc := pc } }

/-- Out of rotation with the instruction in the retry latch (R28, R31). -/
def State.preIssue (s : State) (w : Wait) : State :=
  s.modMe fun th => { th with st := .wait, wait := w, latch := ⟨.preIssue, s.cur.word, th.regs.pc, 0, 0, 0, false, false⟩ }

/-- Out of rotation in a post-issue wait: the instruction is kept for its completion or its trap. -/
def State.postIssue (s : State) (w : Wait) (popIn resOut : Option Nat) : State :=
  s.modMe fun th => { th with st := .wait, wait := w, latch := ⟨.empty, s.cur.word, th.regs.pc, 0, 0, 0, false, false⟩,
                              popIn := popIn, resOut := resOut }

/-- An entry of the out-queue is reserved at issue (R165). -/
def State.reserve (s : State) (r : Option Nat) : State :=
  match r with
  | some q => s.modCore s.cur.core fun c => { c with outRes := tset c.outRes q (tget 0 c.outRes q + 1) }
  | none => s

/-- A register that an engine has written is among some. -/
def named (rs : List GReg) (e : Nat × Word) : Bool := rs.any fun r => r.val == e.1

/-- Registers are accessed: the tokens written to them publish their engines' RT (R167), which takes effect as the instruction completes
(R18). -/
def Thread.useTokens (th : Thread) (rs : List GReg) : Thread :=
  let mine := th.toks.filter (named rs)
  { th.owe (mine.foldl (fun a e => maxW a e.2) 0) with toks := th.toks.filter fun e => !named rs e, taken := mine }

/-- The thread in hand accesses the registers that its instruction names. -/
def State.useTokens (s : State) (rs : List GReg) : State :=
  if s.me.toks.any (named rs) then s.modMe fun th => th.useTokens rs else s

/-- One issue of the thread in hand. -/
def State.issue (s : State) (rd wr : List GReg) (f : State → Ends) : State :=
  match s.before rd wr with
  | some (.inl t) => s.trapMe t
  | some (.inr w) => s.preIssue w
  | none =>
    let th := s.me
    let popIn := if rd.contains 28 then th.crs.inRoute else none
    let res := if wr.contains 29 then th.crs.outRoute else none
    match f ((s.reserve res).useTokens (rd ++ wr)) with
    | .done s' => s'.finish popIn (th.regs.pc + 4)
    | .jump s' pc => s'.finish popIn pc
    | .wait s' w => s'.postIssue w popIn res
    | .again w => s.preIssue w
    | .trap t => s.trapMe t
    | .trapKeep s' t => (s'.modMe fun th => { th with resOut := res }).trapMe t
    | .gone s' => s'

/-- A waiting instruction completes (R26, R27): the chain head is taken, the program counter passes on, and the thread
returns to IN. -/
def State.complete (s : State) (p t : Nat) : State :=
  let th := s.thread p t
  let s := match th.popIn with
    | some q => s.pop p t q
    | none => s
  s.modThread p t fun th => { th.pay.rejoin with latch := {}, regs := { th.regs with pc := th.regs.pc + 4 } }

end Sys2Proof.Machine
end

