-- ==== Sys2Proof/Machine/Cache.lean ====
section
/-!
DEFINITION. Placement of physical addresses, and the copies of a line with their leases: home, slice, stash, first-level
cache and victim pool (R234-R246, R252).

The bytes in `State.dram` are a line's current bytes, those of its owner (log 6); a copy held under a lease carries its
own snapshot.
-/

namespace Sys2Proof.Machine

/-! ### Placement (R234, R235, R407) -/

/-- The number of a line in the DRAM: stack, pair of pseudo-channels, place within them. -/
def lineNo (stack pair j : Nat) : Nat := (stack * 48 + pair) * 4194304 + j

/-- The stack that a line is homed in. -/
def stackOf (line : Nat) : Nat := line / 4194304 / 48

/-- Line and offset of a physical address under ORD and MGD placement. -/
def ordPlace (pa : Nat) : Nat × Nat :=
  let u := pa / 512 * 2
  let c := u % 6912
  (lineNo (c / 96) (c % 96 / 2) (u / 6912), pa % 512)

/-- Line and offset under NEAR placement by a die. -/
def nearPlace (die pa : Nat) : Nat × Nat :=
  let ss := stacksNear (siteOfDie die)
  let n := ss.length
  let l := pa / 512
  (lineNo (ss.getD (l % n) 0) (l / n % 48) (l / n / 48), pa % 512)

/-- The line's slice on a die (R241): five-bit groups of the line address and seed, folded. -/
def sliceOf (pa : Nat) (seed : Word) : Nat :=
  let x := (pa / 512 % 2 ^ 43) ^^^ (seed.toNat % 2 ^ 43)
  (List.range 9).foldl (fun a i => a ^^^ (x / 2 ^ (5 * i) % (if i = 8 then 8 else 32))) 0

/-! ### Homes, slices, stashes -/

/-- A line at its home; one filled from DRAM starts at the stack's `mts` (R246). -/
def State.home (s : State) (l : Nat) : HomeLine :=
  let st := s.stack (stackOf l)
  tget ⟨st.mts, st.mts, none⟩ st.homes l

def State.putHome (s : State) (l : Nat) (h : HomeLine) : State :=
  let st := s.stack (stackOf l)
  s.setStack (stackOf l) { st with homes := tset st.homes l h }

/-- A line's copy in a die's slices, if any. -/
def State.slice (s : State) (d l : Nat) : Option SliceLine := ((s.die d).slices.find? (fun e => e.1 == l)).map Prod.snd

/-- The slice of a die that serves a line for a context (R241). -/
def State.sliceNo (s : State) (ctx pa : Nat) : Nat := sliceOf pa (tget 0 (s.ctx ctx).desc 1)

def State.setSlice (s : State) (d l : Nat) (x : SliceLine) : State :=
  s.setDie d { s.die d with slices := tset (s.die d).slices l x }

def State.dropSlice (s : State) (d l : Nat) : State :=
  s.setDie d { s.die d with slices := (s.die d).slices.filter (fun e => e.1 != l) }

/-- The current bytes of a line. -/
def State.lineData (s : State) (l : Nat) : LineData := BitVec.ofNat 4096 (mread s.dram (l * 512) 512)

/-- A stash's record of a line. -/
def Core.stashLine (c : Core) (l : Nat) : Option StashLine := c.ca.stash.find? (fun x => x.line == l)

def Core.setStash (c : Core) (x : StashLine) : Core :=
  { c with ca := { c.ca with stash := x :: c.ca.stash.filter (fun y => y.line != x.line) } }

def Core.dropStash (c : Core) (l : Nat) : Core :=
  { c with ca := { c.ca with stash := c.ca.stash.filter (fun y => y.line != l) } }

/-- The home of a line reaches the die that holds it exclusively, if one does. -/
def State.ownerUp (s : State) (l : Nat) : Bool :=
  match (s.home l).excl with
  | some d => s.homeUp d l
  | none => true

/-- A stash gives a line up (R239): its timestamps pass to the slice; the line's bytes are written back. -/
def State.stashGives (s : State) (p l : Nat) : State :=
  match (s.core p).stashLine l with
  | none => s
  | some x =>
    let s := s.modCore p fun c => c.dropStash l
    match s.slice (dieOf p) l with
    | none => s
    | some sl => s.setSlice (dieOf p) l { sl with wts := x.wts, rts := x.rts, owner := none }

/-- A die gives up exclusivity (R244): the home's timestamps become the owner's, its rts the larger. The die keeps a
shared copy. -/
def State.dieGives (s : State) (l : Nat) : State :=
  let h := s.home l
  match h.excl with
  | none => s
  | some d =>
    match s.slice d l with
    | none => s.putHome l { h with excl := none }
    | some sl =>
      let s := match sl.owner with
        | some p => s.stashGives p l
        | none => s
      match s.slice d l with
      | none => s.putHome l { h with excl := none }
      | some sl =>
        let s := s.setSlice d l { sl with excl := false, data := s.lineData l }
        s.putHome l ⟨sl.wts, maxW h.rts sl.rts, none⟩

/-! ### Capacities (R4, R9, R246) -/

/-- Lines of a die cache slice of 2 MiB, and of a base die's 128 MiB of memory-side cache. -/
def sliceLines : Nat := 4096
def homeLines : Nat := 262144

/-- A slice of a die that is full gives up a line, which one being a free choice: it is written back where the die holds it
exclusively (R9; DESIGN CHOICE, log 65: no rule gives a slice's sets). -/
def State.sliceRoom (s : State) (d no : Nat) : State :=
  let ls := (s.die d).slices.filter fun e => e.2.no == no
  if ls.length < sliceLines then s
  else match ls[Config.victim s.tick % ls.length]? with
    | some v => (if v.2.excl then s.dieGives v.1 else s).dropSlice d v.1
    | none => s

/-- A line that a slice of a die did not hold is placed there. -/
def State.newSlice (s : State) (d l : Nat) (x : SliceLine) : State :=
  (if (s.slice d l).isSome then s else s.sliceRoom d x.no).setSlice d l x

/-- A home evicts a line that no die holds exclusively (R246): the stack's `mts` keeps its timestamps. -/
def State.homeEvict (s : State) (line : Nat) : State :=
  let k := stackOf line
  let st := s.stack k
  match st.homes.find? fun e => e.1 == line with
  | some (_, h) =>
    if h.excl.isSome then s
    else s.setStack k { st with homes := st.homes.filter (fun e => e.1 != line), mts := maxW st.mts (maxW h.wts h.rts) }
  | none => s

/-- A memory-side cache that is full makes room: the victim is a free choice, recalled from the die that holds it (R9, R246). -/
def State.homeRoom (s : State) (l : Nat) : State :=
  let hs := (s.stack (stackOf l)).homes
  if hs.length < homeLines || hs.any (fun e => e.1 == l) then s
  else match hs[Config.victim s.tick % hs.length]? with
    | some v => (s.dieGives v.1).homeEvict v.1
    | none => s

/-- A home takes a line's timestamps and holder. -/
def State.setHome (s : State) (l : Nat) (h : HomeLine) : State := (s.homeRoom l).putHome l h

/-- Bytes `off` to `off + n - 1` of a line's data. -/
def dataAt (d : LineData) (off n : Nat) : Nat := d.toNat / 2 ^ (8 * off) % 2 ^ (8 * n)

/-! ### First-level cache and pool (R237, R238, R240) -/

/-- Granules of the core's first-level cache before lending (R37). -/
def Core.l1Granules (c : Core) : Nat := 16 - c.dirG - c.stashG

/-- Whether a core is a member of its cluster's pool: the bit of the logical core it serves, while it stands in its own
cluster (R240, R335). -/
def State.isMember (s : State) (p : Nat) : Bool :=
  match s.logical p with
  | some l => l / 16 == clusterOf p && (s.cluster (clusterOf p)).memb.getLsbD (l % 16)
  | none => false

/-- Whether a core's accesses use the pool: a member's, while it has first-level granules; without any, every access goes to the die cache
and allocates nothing (R38). -/
def State.usesPool (s : State) (p : Nat) : Bool := s.isMember p && 0 < (s.core p).l1Granules

/-- Granules that a core lends (R240). -/
def State.lent (s : State) (p : Nat) : Nat :=
  if s.isMember p then min (s.cluster (clusterOf p)).lend (s.core p).l1Granules else 0

/-- Sets of a core's own first-level portion. -/
def State.l1Sets (s : State) (p : Nat) : Nat := 8 * ((s.core p).l1Granules - s.lent p)

/-- Sets of a cluster's pool, over all granules lent. -/
def State.poolSets (s : State) (k : Nat) : Nat :=
  8 * ((List.range 17).map fun i => s.lent (k * 17 + i)).foldl (· + ·) 0

/-- A copy serves a load at a logical time while its lease holds (R242) and the sectors are filled. -/
def L1Line.serves (x : L1Line) (ptime : Word) (off n : Nat) : Bool :=
  !(x.rts.toNat < ptime.toNat) && (List.range n).all fun i => x.secs.getLsbD ((off + i) / 128)

/-- Sectors that a span of bytes touches. -/
def secsOf (off n : Nat) : BitVec 4 :=
  BitVec.ofNat 4 ((List.range 4).foldl (fun a i => if off / 128 ≤ i && i ≤ (off + n - 1) / 128 then a + 2 ^ i else a) 0)

/-- A line placed in a cluster's pool (R240); the victim is a free choice among lines that are not pinned. -/
def State.poolAlloc (s : State) (k : Nat) (x : L1Line) : Option State :=
  let n := s.poolSets k
  if n = 0 then none
  else
    let c := s.cluster k
    let same := c.pool.filter fun y => !(y.line == x.line && y.ctx == x.ctx)
    let set := same.filter fun y => y.pa / 512 % n == x.pa / 512 % n
    let free := set.filter fun y => !y.pin
    if set.length < 8 then some (s.setCluster k { c with pool := x :: same })
    else match free[Config.victim s.tick % free.length]? with
      | some v => some (s.setCluster k { c with pool := x :: same.filter (· != v) })
      | none => none

/-- A line placed in a core's first-level cache, or in the pool when every way of its set is pinned (R237, R238); a
clean victim goes to the pool (R240). None when it cannot be allocated, as on a core with no first-level granules (R38). -/
def State.l1Alloc (s : State) (p : Nat) (x : L1Line) : Option State :=
  let n := s.l1Sets p
  let k := clusterOf p
  let c := s.core p
  let same := c.ca.l1.filter fun y => y.line != x.line
  let put (ls : List L1Line) (s : State) : State := s.setCore p { c with ca := { c.ca with l1 := ls } }
  let pool (_ : Unit) : Option State := if s.isMember p then s.poolAlloc k x else none
  if c.l1Granules = 0 then none
  else if n = 0 then pool ()
  else
    let set := same.filter fun y => y.pa / 512 % n == x.pa / 512 % n
    let free := set.filter fun y => !y.pin
    if set.length < 8 then some (put (x :: same) s)
    else match free[Config.victim s.tick % free.length]? with
      | none => pool ()
      | some v =>
        let s := put (x :: same.filter (· != v)) s
        if s.isMember p then some ((s.poolAlloc k v).getD s) else some s

/-- The core's first-level and pool copies of a line are dropped, with their pins (R237 writes, R106, R107). DESIGN CHOICE (log 69): the
rules say that a store and an atomic drop the first-level copy and that `inval` drops the pin; they do not name the pool's copy, nor the pin
of a copy that a store or an atomic drops, nor whose copy a pool line is that several members share: a member's store, atomic, `unpin.l` or
`inval` acts on it as on its own. -/
def State.l1Drop (s : State) (p l : Nat) : State :=
  let s := s.modCore p fun c => { c with ca := { c.ca with l1 := c.ca.l1.filter fun y => y.line != l } }
  if s.isMember p then
    let k := clusterOf p
    s.setCluster k { s.cluster k with pool := (s.cluster k).pool.filter fun y => !(y.line == l && y.ctx == (s.core p).ctx) }
  else s

/-- The pool's copy of a line for a member core, where it is pinned. -/
def State.poolPinned (s : State) (p l : Nat) : Option L1Line :=
  if s.usesPool p then (s.cluster (clusterOf p)).pool.find? fun y => y.line == l && y.ctx == (s.core p).ctx && y.pin else none

/-- Sectors of a line once a span has been filled with a copy of a write: those of an older write go. -/
def L1Line.fill (y : L1Line) (off n : Nat) (wts : Word) : BitVec 4 := if y.wts = wts then y.secs ||| secsOf off n else secsOf off n

/-- A fill of a line's sectors with the copy that serves it (R236, R243); a pin stays or comes with the fill, and a line pinned in the pool is
refetched into the same place (R107). `demand` is a miss that counts a bypass where every way is pinned (R238). -/
def State.l1Fill (s : State) (p l pa off n : Nat) (wts rts : Word) (data : LineData) (demand pin : Bool) : State :=
  let c := s.core p
  let k := clusterOf p
  match c.ca.l1.find? (fun y => y.line == l), s.poolPinned p l with
  | none, some y =>
    let y' : L1Line := { y with wts := wts, rts := rts, secs := y.fill off n wts, data := data }
    s.setCluster k { s.cluster k with pool := y' :: (s.cluster k).pool.filter (· != y) }
  | old, _ =>
    let secs := (old.map fun y => y.fill off n wts).getD (secsOf off n)
    match s.l1Alloc p ⟨l, pa, wts, rts, secs, pin || (old.map L1Line.pin).getD false, c.ctx, data⟩ with
    | some s' => s'
    | none =>
      -- a set that is fully pinned counts a bypass; a core with no first-level granules has no set
      if demand && (0 < c.l1Granules) then s.modCore p fun c => c.bump 7 1 else s

/-! ### Serving a read (R236, R242, R243, R252) -/

/-- The lease length of a thread (R247). -/
def Thread.len (th : Thread) : Word := BitVec.ofNat 64 (bits th.crs.lease 15 0)

/-- What a read of a line by a thread meets. -/
inductive Served where
  /-- the bytes, the state with its timestamps raised, whether a slice served it -/
  | data (s : State) (d : LineData) (atSlice : Bool)
  | poison
  /-- another step has to come first: a renewal or a recall -/
  | notYet

/-- A read of `n` bytes at offset `off` of a line, for the thread's own accesses; `fresh` when the slice has just renewed the
line for it. `past`: a slice has served other bytes of the line for the same instruction, so that what this read needs is part of that
demand miss, which the first-level copies it filled do not serve (R255), and which counts one bypass (DESIGN CHOICE, log 69: R238 counts by
demand miss and does not say how many a vector load, a chunk or an `lds` makes on one line). -/
def State.readLine (s : State) (p t l pa off n : Nat) (fresh past : Bool) : Served :=
  if s.poison.contains l then .poison
  else
    let th := s.thread p t
    let c := s.core p
    let put (s : State) (wts rts : Word) (data : LineData) : State := s.l1Fill p l pa off n wts rts data (!past) false
    let up (s : State) (wts : Word) : State := s.modThread p t fun th => th.owe wts
    match (if past then none else c.ca.l1.find? fun y => y.line == l && y.serves th.now off n) with
    | some y => .data (up s y.wts) y.data false
    | none =>
      match c.stashLine l with
      | some x =>
        let need := maxW th.now x.wts + th.len
        let s := s.modCore p fun c => c.setStash { x with rts := maxW x.rts need }
        .data (up s x.wts) (s.lineData l) false
      | none =>
        match (if s.usesPool p && !past then (s.cluster (clusterOf p)).pool.find?
            fun y => y.line == l && y.ctx == c.ctx && y.serves th.now off n else none) with
        | some y => .data (up s y.wts) y.data false
        | none =>
          let d := dieOf p
          match s.slice d l with
          | none => .notYet
          | some sl =>
            match sl.owner with
            | some q =>
              match (s.core q).stashLine l with
              | none => .notYet
              | some x =>
                let need := maxW th.now x.wts + th.len
                let x := { x with rts := maxW x.rts need }
                let s := s.modCore q fun c => c.setStash x
                .data (up (put s x.wts x.rts (s.lineData l)) x.wts) (s.lineData l) true
            | none =>
              let need := maxW th.now sl.wts + th.len
              if sl.excl then
                let sl := { sl with rts := maxW sl.rts need }
                let s := s.setSlice d l sl
                .data (up (put s sl.wts sl.rts (s.lineData l)) sl.wts) (s.lineData l) true
              else if sl.rts.toNat < need.toNat && !(fresh && th.now.toNat ≤ sl.rts.toNat) then .notYet
              else .data (up (put s sl.wts sl.rts sl.data) sl.wts) sl.data true

/-! ### Accepting a write (R239, R244, R245) -/

/-- The die takes a line exclusively from its home, with the home's timestamps (R244). None while another die holds it, or no link leads
there (R373, R396). -/
def State.takeLine (s : State) (d l pa c : Nat) : Option State :=
  let h := s.home l
  match h.excl with
  | some d' => if d' = d then some s else none
  | none =>
    if !s.homeUp d l then none
    else
      let s := s.newSlice d l ⟨true, h.wts, h.rts, none, 0, c, s.sliceNo c pa⟩
      some (s.setHome l { h with excl := some d })

/-- The timestamp of a write accepted by an owner whose rts is given: wts and rts alike (R244). -/
def wtsOf (p rts : Word) : Word := maxW p (rts + 1)

/-- The slice of a die accepts a write at time `p`; the stash, if any, has given the line up (R244, R245). -/
def State.acceptSlice (s : State) (d l pa c : Nat) (p : Word) : Option (State × Word) :=
  match s.takeLine d l pa c with
  | none => none
  | some s =>
    match s.slice d l with
    | none => none
    | some sl =>
      if sl.owner.isSome then none
      else
        let w := wtsOf p sl.rts
        some (s.setSlice d l { sl with wts := w, rts := w }, w)

/-- A stash makes room for a line in its set: the victim writes back and gives up ownership (R237, R239). -/
def State.stashRoom (s : State) (p pa : Nat) : State :=
  let c := s.core p
  let n := 8 * c.stashG
  let set := c.ca.stash.filter fun y => y.pa / 512 % n == pa / 512 % n
  if set.length < 8 then s
  else match set[Config.victim s.tick % set.length]? with
    | some v => s.stashGives p v.line
    | none => s

/-- A core's write of `n` bytes at `off` of a line is accepted: in its stash when it has one, otherwise at the slice. -/
def State.accept (s : State) (p l pa off n : Nat) (pt : Word) : Option (State × Word) :=
  let c := s.core p
  let d := dieOf p
  if c.stashG = 0 then s.acceptSlice d l pa c.ctx pt
  else
    let put (s : State) (x : StashLine) : State × Word :=
      let w := wtsOf pt x.rts
      (s.modCore p fun c => c.setStash { x with wts := w, rts := w, dirty := x.dirty ||| secsOf off n }, w)
    match c.stashLine l with
    | some x => some (put s x)
    | none =>
      match s.takeLine d l pa c.ctx with
      | none => none
      | some s =>
        match s.slice d l with
        | none => none
        | some sl =>
          if sl.owner.isSome then none
          else
            let s := s.stashRoom p pa
            let s := s.setSlice d l { sl with owner := some p }
            some (put s ⟨l, pa, sl.wts, sl.rts, 0, c.ctx⟩)

/-- Writes bytes of a line. -/
def State.writeLine (s : State) (l off n v : Nat) : State := { s with dram := mwrite s.dram (l * 512 + off) n v }

/-- A write at the home by the host, an engine or a device (R244, R269, R390): exclusivity is recalled first. -/
def State.homeWrite (s : State) (l off n v : Nat) (p : Word) : State × Word :=
  let s := s.dieGives l
  let h := s.home l
  let w := wtsOf p h.rts
  ((s.setHome l { h with wts := w, rts := w }).writeLine l off n v, w)

/-! ### Dropping lines -/

/-- Every copy of the lines that satisfy `P` (line and context tag) is written back and dropped (R241, R318): in stashes,
slices, first-level caches and pools. -/
def State.flushLines (s : State) (P : Nat → Nat → Bool) : State :=
  let held := s.dies.flatMap fun e => (e.2.slices.filter fun x => P x.1 x.2.ctx && x.2.excl).map fun x => x.1
  let s := held.foldl (fun s l => s.dieGives l) s
  { s with
    cores := s.cores.map fun e =>
      (e.1, { e.2 with ca := { e.2.ca with l1 := e.2.ca.l1.filter fun x => !P x.line x.ctx } })
    clusters := s.clusters.map fun e => (e.1, { e.2 with pool := e.2.pool.filter fun x => !P x.line x.ctx })
    dies := s.dies.map fun e => (e.1, { e.2 with slices := e.2.slices.filter fun x => !P x.1 x.2.ctx }) }

end Sys2Proof.Machine
end

