-- ==== Sys2Proof/Machine/Translate.lean ====
section
/-!
DEFINITION. Effective addresses, TLB entries and levels, misses, and the checks of an access (R88-R92, R307-R313).
-/

namespace Sys2Proof.Machine

/-- The classification of an effective address (R88). -/
inductive EaKind where
  | direct | virt | bad
deriving DecidableEq, Repr

def eaKind (ea : Word) : EaKind :=
  if ea.toNat < 2 ^ 19 then .direct else if ea.toNat < 2 ^ 56 then .virt else .bad

/-! ### TLB entries (R308) -/

def Tlb.valid (e : Tlb) : Bool := bits e.w0 63 63 = 1
/-- log2 of the page size by SZ. -/
def pageLog (sz : Nat) : Nat := match sz with | 0 => 16 | 1 => 21 | _ => 28
def Tlb.sz (e : Tlb) : Nat := bits e.w0 62 61
def Tlb.ctx (e : Tlb) : Nat := bits e.w0 60 55
/-- First virtual address of the page. -/
def Tlb.va (e : Tlb) : Nat := bits e.w0 39 0 * 65536
def Tlb.cls (e : Tlb) : Nat := bits e.w1 63 61
def Tlb.locked (e : Tlb) : Bool := bits e.w1 60 60 = 1
def Tlb.perm (e : Tlb) : Nat := bits e.w1 59 57
def Tlb.canR (e : Tlb) : Bool := bits e.w1 59 59 = 1
def Tlb.canW (e : Tlb) : Bool := bits e.w1 58 58 = 1
def Tlb.canX (e : Tlb) : Bool := bits e.w1 57 57 = 1
def Tlb.aux (e : Tlb) : Nat := bits e.w1 55 36
/-- First physical address of the frame. -/
def Tlb.pa (e : Tlb) : Nat := bits e.w1 35 0 * 65536

/-- Whether an entry translates a virtual address of a context. -/
def Tlb.covers (e : Tlb) (ctx va : Nat) : Bool :=
  e.valid && e.ctx == ctx && va / 2 ^ pageLog e.sz == e.va / 2 ^ pageLog e.sz

/-- The firmware's fixed map (R311): virtual address 2^52 + pa names physical address pa, ORD, read and write. DEDUCED
(log 9): its code is fetched there too; the map never misses, so that any other address is one without permission. -/
def firmwareTlb (va : Nat) : Option Tlb :=
  if va / 2 ^ 52 = 1 then
    some ⟨BitVec.ofNat 64 (2 ^ 63 + va / 65536), BitVec.ofNat 64 (7 * 2 ^ 57 + va % 2 ^ 52 / 65536), false⟩
  else some ⟨BitVec.ofNat 64 (2 ^ 63 + va / 65536), 0, false⟩

/-- The bank a cluster's second level misses to: of the lowest-numbered stack beside its die (R310). -/
def bankOf (d : Nat) : Nat := (stacksNear (siteOfDie d)).headD 0

def findTlb (es : List Tlb) (ctx va : Nat) : Option Tlb := es.find? fun e => e.covers ctx va

/-- The first level's translation for a core's running context. -/
def State.tlb1 (s : State) (p va : Nat) : Option Tlb :=
  if isSetter p then firmwareTlb va else findTlb (s.core p).ca.tlb (s.core p).ctx va

/-- The second and third levels' translation. -/
def State.tlb23 (s : State) (cluster ctx va : Nat) : Option Tlb :=
  match findTlb (s.cluster cluster).tlb ctx va with
  | some e => some e
  | none => findTlb (s.stack (bankOf (cluster / 16))).tlb ctx va

/-- The set of a level with `n` entries and `ways` ways that an entry falls in; R310 gives no index. -/
def Tlb.set (e : Tlb) (n ways : Nat) : Nat := Config.tlbSet (n / ways) e.w0.toNat % (n / ways)

/-- Puts an entry into a level of at most `n` entries, `ways` of one page size to a set: entries of the same page go, and a victim
is a free choice in a set or level that is full (R310); pinned entries stay, and where all that could go are pinned the new entry is not
kept. -/
def tlbPut (s : State) (n ways : Nat) (e : Tlb) (es : List Tlb) : List Tlb :=
  let es := es.filter fun x => x.pin || !(x.w0 == e.w0)
  let set := es.filter fun x => x.sz == e.sz && x.set n ways == e.set n ways
  let out := if ways ≤ set.length then set else if n ≤ es.length then es else []
  let free := out.filter fun x => !x.pin
  match free[Config.victim s.tick % free.length]? with
  | some v => e :: es.filter (· != v)
  | none => if out.isEmpty then e :: es else es

/-- Where an entry puts a virtual address (R234, R309). -/
def Tlb.place (e : Tlb) (va : Nat) : Place :=
  let off := va % 2 ^ pageLog e.sz
  let pa := e.pa + off
  match e.cls with
  | 1 => let x := nearPlace (e.aux % 128) pa; .line x.1 x.2 pa
  | 3 => .lwin (e.aux % 32768) (bits e.w1 2 0 * 65536 + off)
  | 4 => .remote (e.aux % 1024) pa
  | 5 => .host pa
  | _ => let x := ordPlace pa; .line x.1 x.2 pa

/-! ### The checks of an access (R90, R91) -/

/-- What an access needs of its page: read, write, the classes it is permitted on (by CLASS code), whether the direct range
is checked against DIRECT. -/
structure AccNeed where
  r    : Bool
  w    : Bool
  cls  : Nat → Bool

def needLd : AccNeed := ⟨true, false, fun c => c ≤ 5⟩
def needSt : AccNeed := ⟨false, true, fun c => c ≤ 5⟩
def needAtom : AccNeed := ⟨true, true, fun c => c ≤ 2 || c == 4⟩
def needCache : AccNeed := ⟨true, false, fun c => c ≤ 2⟩
/-- Operand reads and `lds` (R193, R219), drain stores (R223). -/
def needEngR : AccNeed := ⟨true, false, fun c => c ≤ 2⟩
def needEngW : AccNeed := ⟨false, true, fun c => c ≤ 2⟩
/-- Managed objects and root blocks (R297). -/
def needMgd (w : Bool) : AccNeed := ⟨!w, w, fun c => c == 2⟩
def needRoot (w : Bool) : AccNeed := ⟨!w, w, fun c => c ≤ 1⟩

/-- The outcome of translating one unit. -/
inductive Tr where
  | ok (pl : Place)
  | miss
  | trap (t : Trap)
deriving Repr

/-- R90 steps 4 and 5 on a translated page. -/
def checkPage (e : Tlb) (n : AccNeed) (ea : Word) : Tr :=
  if (n.r && !e.canR) || (n.w && !e.canW) then .trap (.access ea)
  else if !n.cls e.cls then .trap (.class' ea)
  else .ok (e.place ea.toNat)

/-- R90 steps 1 to 5 on one unit of `w` bytes; `look` is the translation level consulted. -/
def trUnit (limit : Nat) (look : Nat → Option Tlb) (n : AccNeed) (ea : Word) (w : Nat) : Tr :=
  if ea.toNat % w ≠ 0 then .trap (.align ea)
  else match eaKind ea with
  | .bad => .trap (.access ea)
  | .direct => if ea.toNat + w ≤ limit then .ok (.direct ea.toNat) else .trap (.access ea)
  | .virt => match look ea.toNat with
    | none => .miss
    | some e => checkPage e n ea

/-- The outcome of translating an access of several units, in the order given: the first trap, or the first miss. -/
inductive Trs where
  | ok (els : List Elem)
  | miss (va : Word)
  | trap (t : Trap)
deriving Repr

def trAll (limit : Nat) (look : Nat → Option Tlb) (n : AccNeed) : List Elem → Trs
  | [] => .ok []
  | e :: es =>
    match trUnit limit look n e.va e.w with
    | .trap t => .trap t
    | .miss => .miss e.va
    | .ok pl =>
      match trAll limit look n es with
      | .ok r => .ok ({ e with place := pl } :: r)
      | x => x

/-- Translation through the core's first level. -/
def State.trElems (s : State) (p : Nat) (n : AccNeed) (els : List Elem) : Trs :=
  trAll (s.core p).dirLimit (s.tlb1 p) n els

/-! ### Misses (R310, R311) -/

/-- Function mode TLB (R326): 1 host walks. It is that of the kernel that a requester belongs to, or of the context where there
is none. -/
def State.hostWalk (s : State) (slot ctx : Nat) : Bool :=
  match s.kernel slot with
  | some k => if k.ctx = ctx then bits k.fmode 0 0 = 1 else bits (tget 0 (s.ctx ctx).desc 0) 32 32 = 1
  | none => bits (tget 0 (s.ctx ctx).desc 0) 32 32 = 1

/-- The stack whose bank a requester's translations come from (R310). -/
def Miss.bank (m : Miss) : Nat :=
  match m.who with
  | .retr r _ => r / 2
  | .collie k _ => k
  | _ => bankOf (m.cluster / 16)

/-- Whether a requester is a core: for a thread, its matrix side, its spill ring, or the object of its relocation request. -/
def Miss.isCore (m : Miss) : Bool :=
  match m.who with
  | .thread _ _ | .array _ _ _ => true
  | .kennel n => n / 2 ^ 40 == 1 || n / 2 ^ 44 == 1
  | _ => false

/-- A translation that the levels below a requester's own hold: a core's second level and its bank; an engine has its bank alone
(R310). -/
def State.below (s : State) (m : Miss) : Option Tlb :=
  if m.isCore then s.tlb23 m.cluster m.ctx m.va.toNat else findTlb (s.stack m.bank).tlb m.ctx m.va.toNat

/-- The name of the miss record's event (R311). -/
def missName : Word := 0x3000000000000000

/-- Whether an offer is the miss record with a tag. -/
def Offer.isMiss (o : Offer) (tag : Word) : Bool :=
  o.key.name == missName && o.key.ctx == 64 && o.who == .engine && o.data / 2 ^ 128 % 2 ^ 64 == tag.toNat

/-- Changes every offer of a miss record with a tag that no thread has received yet. -/
def State.modMissOffer (s : State) (tag : Word) (f : Offer → Option Offer) : State :=
  let g (o : Offer) : Option Offer := if o.isMiss tag then f o else some o
  { s with
    net := s.net.filterMap fun m => match m.body with
      | .offer o => (g o).map fun o => { m with body := .offer o }
      | _ => some m
    bugles := s.bugles.map fun b => (b.1, { b.2 with offers := b.2.offers.filterMap g }) }

/-- Whether a miss record with a tag is still to be received. -/
def State.missQueued (s : State) (tag : Word) : Bool :=
  (s.net.any fun m => match m.body with
    | .offer o => o.isMiss tag
    | _ => false) || s.bugles.any fun b => b.2.offers.any fun o => o.isMiss tag

/-- An outstanding record of the same 64 KiB span, context and cluster that a requester's miss merges into (R311). One that a thread has
received already, and whose RT is not that of every write published to the newcomer's fill, does not serve it (R233, R314): the newcomer makes
a record of its own, so that every requester of a record takes what its walk has found (R313; DEDUCED, log 71). -/
def State.sameMiss (s : State) (ctx cluster : Nat) (va rt : Word) : Option Miss :=
  s.misses.find? fun m => m.sent && m.ctx == ctx && m.cluster == cluster && m.va.toNat / 65536 == va.toNat / 65536 &&
    (s.missQueued m.tag || (maxW rt s.panel.fillRt).toNat ≤ m.recRt.toNat)

/-- A miss joins an outstanding record (R311): one that no thread has received yet takes the access and the RT of the newcomer too, and that of
every `tlbi` so far. -/
def State.joinMiss (s : State) (m m' : Miss) : State :=
  let j : Miss := { m with tag := m'.tag, sent := true, host := m'.host, recRt := m'.recRt }
  if s.missQueued m'.tag then
    let rt := maxW (maxW m'.recRt m.rt) s.panel.fillRt
    let s := s.modMissOffer m'.tag fun o => some { o with
      rt := maxW o.rt rt
      data := o.data % 2 ^ 192 + (o.data / 2 ^ 192 ||| m.acc.toNat) * 2 ^ 192 }
    { s with misses := (s.misses.map fun x => if x.tag = m'.tag then { x with recRt := rt } else x) ++ [{ j with recRt := rt }] }
  else { s with misses := s.misses ++ [j] }

/-- A miss tag that no outstanding miss has (R311: nonzero). -/
def State.freshTag (s : State) : Word :=
  let used (t : Word) : Bool := t == 0 || s.misses.any fun m => m.tag == t
  let t := Config.missTag s.tick
  if used t then
    match (List.range (s.misses.length + 1)).find? fun i => !used (BitVec.ofNat 64 (i + 1)) with
    | some i => BitVec.ofNat 64 (i + 1)
    | none => 1
  else t

/-- A miss passes down the levels: a lower level that holds the page will reply; when none does, a miss record goes to the
cluster's Setter core, or to the host (R310, R311). The record carries the requester's RT and that of every `tlbi` so far, so
that the walk reads what they published (R233, R314). -/
def State.addMiss (s : State) (who : MissWho) (ctx cluster slot : Nat) (va : Word) (acc : BitVec 3) (whoWord : Nat)
    (rt : Word) : State :=
  let m : Miss := { who := who, ctx := ctx, va := va, acc := acc, cluster := cluster, slot := slot, word := whoWord, rt := rt }
  if s.misses.any fun m => m.who == who && m.va.toNat / 65536 == va.toNat / 65536 then s
  else if (s.below m).isSome then { s with misses := s.misses ++ [m] }
  else match s.sameMiss ctx cluster va rt with
    | some m' => s.joinMiss m m'
    | none =>
      let tag := s.freshTag
      let s' := { s with misses := s.misses ++ [{ m with tag := tag, sent := true, host := s.hostWalk slot ctx, recRt := maxW rt s.panel.fillRt }] }
      if s.hostWalk slot ctx then s'
      else s'.toUmator cluster missName
        (va.toNat + (whoWord + ctx * 2 ^ 56) * 2 ^ 64 + tag.toNat * 2 ^ 128 + acc.toNat * 2 ^ 192) (maxW rt s.panel.fillRt) none

/-- A thread's miss. -/
def State.threadMiss (s : State) (p t : Nat) (va : Word) (acc : BitVec 3) : State :=
  s.addMiss (.thread p t) (s.core p).ctx (clusterOf p) (s.thread p t).slot va acc (s.gtn p t) (s.thread p t).rt

/-- Access bits of a miss record: read, write, execute. -/
def AccNeed.acc (n : AccNeed) : BitVec 3 := BitVec.ofNat 3 (n.r.toNat + 2 * n.w.toNat)

end Sys2Proof.Machine
end

