-- ==== Sys2Proof/Machine/Access.lean ====
section
/-!
DEFINITION. Loads and posted stores: the journal, forwarding of a thread's own stores, serving a unit at its place, and
the beginning of a load, store or cache operation (R90-R108, R236, R248, R406).
-/

namespace Sys2Proof.Machine

/-- Access needs by code, so that a waiting request is plain data. -/
def needOf : Nat → AccNeed
  | 0 => needLd
  | 1 => needSt
  | 2 => needAtom
  | 3 => needCache
  | 4 => needMgd false
  | 5 => needMgd true
  | 6 => needRoot false
  | 7 => needRoot true
  -- 8: a PIN word or a logged field; 10: `launch`'s record
  | _ => ⟨true, true, fun c => c == 2⟩

/-! ### The journal (R248-R250) -/

/-- A free journal entry's number, the lowest. -/
def Core.freeEntry (c : Core) : Option Nat := (List.range 16).find? fun i => !(tget {} c.journal i).busy

def Core.entry (c : Core) (i : Nat) : JEntry := tget {} c.journal i
def Core.setEntry (c : Core) (i : Nat) (e : JEntry) : Core := { c with journal := tset c.journal i e }

/-- `jrnl` as it reads (R250). -/
def Core.jrnlWord (c : Core) : Word :=
  let busy := (List.range 16).filter fun i => (c.entry i).busy
  BitVec.ofNat 64 (c.rfd.toNat * 2 ^ 48 + (busy.foldl (fun a i => a + 2 ^ i) 0) * 2 ^ 32 + (16 - busy.length))

/-- A space and address that identify a place's bytes. -/
def Place.key : Place → Nat × Nat
  | .direct a => (0, a)
  | .line l off _ => (1, l * 512 + off)
  | .remote m a => (2, m * 2 ^ 52 + a)
  | .host a => (3, a)
  | .lwin c a => (4 + c, a)

/-- The same for a core: its own direct storage is one space, whether its direct range or an LWIN page leads there. -/
def State.spaceKey (s : State) (p : Nat) (pl : Place) : Nat × Nat :=
  match pl with
  | .lwin c a => if s.phys c = some p then (0, a) else pl.key
  | _ => pl.key

/-- The line a unit lies in. -/
def Elem.line (e : Elem) : Option Nat :=
  match e.place with
  | .line l _ _ => some l
  | _ => none

/-- Whether a line is poisoned for a unit. -/
def State.poisoned (s : State) (e : Elem) : Bool :=
  match e.line with
  | some l => s.poison.contains l
  | none => false

/-- Whether LWIN units are one write of 64 bytes (R251): a `vst` with all lanes active, lane 0 at a multiple of 64. -/
def wholeVst (w : BitVec 32) (els : List Elem) : Bool :=
  match decodeWord w, els with
  | some (.vst _ _ _ _), e :: _ => e.va.toNat % 64 == 0 && els.length * e.w == 64
  | _, _ => false

/-- Sends one write to a core's port (R251): logical core, offset, width, data; the source word of its record; what it
settles. -/
def State.sendPort (s : State) (src : Endp) (ctx l off w data : Nat) (rec' : BitVec 32) (core entry lane : Nat) : State :=
  s.send (if copyBase ≤ core then .bulk else .request) src (.core l) ctx (.port off w data rec' core entry lane)

/-- Sends a posted store's LWIN units to their port, in ascending lane order (R251). -/
def State.sendUnits (s : State) (p t i : Nat) (els : List Elem) : State :=
  let src := BitVec.ofNat 32 (s.gtn p t)
  let ctx := (s.core p).ctx
  match els with
  | ⟨lane, _, _, _, .lwin l off⟩ :: _ =>
    if wholeVst s.cur.word els then
      s.sendPort (s.endpOf p) ctx l off 64 (els.foldr (fun e acc => acc * 2 ^ (8 * e.w) + e.data) 0) src p i lane
    else els.foldl (fun s e => match e.place with
      | .lwin l off => s.sendPort (s.endpOf p) ctx l off e.w e.data src p i e.lane
      | _ => s) s
  | _ => s

/-- Whether a unit lies in another core's direct storage. -/
def Elem.isLwin (e : Elem) : Bool :=
  match e.place with
  | .lwin _ _ => true
  | _ => false

/-- A write-back moves values and is no write (R254). -/
def JKind.isWriteback : JKind → Bool
  | .writeback _ _ => true
  | _ => false

/-- A write whose bytes the entry carries. -/
def JKind.isWrite : JKind → Bool
  | .store | .ref => true
  | _ => false

/-- Takes a free journal entry for a thread's store or request (R101, R248): the core's first-level copies of the lines
that a store touches are dropped (R237), and a write-back leaves them (R107). LWIN units are sent to their port at once. -/
def State.post (s : State) (p t : Nat) (kind : JKind) (els : List Elem) : Option State :=
  let c := s.core p
  match c.freeEntry with
  | none => none
  | some i =>
    let th := c.thread t
    let far := els.filter Elem.isLwin
    let e : JEntry := ⟨true, t, c.jord, th.now, kind, els.filter (fun x => !x.isLwin), far, [], false, none⟩
    let s := s.setCore p { c.setEntry i e with jord := c.jord + 1 }
    let s := s.sendUnits p t i far
    some (if kind.isWriteback then s else els.foldl (fun s x => match x.line with
      | some l => s.l1Drop p l
      | none => s) s)

/-- An entry that holds nothing more is released: a thread in the journal wait may issue again (R27, R101). -/
def State.release (s : State) (p i : Nat) : State :=
  (s.modCore p fun c => c.setEntry i { c.entry i with busy := false, todo := [], flight := [] }).wake p (· == .journal)

/-! ### What a receiver tells the core (R248-R251) -/

/-- A task's join offer leaves (R363): the Kennel of the core's die makes it. -/
def State.offerJoin (s : State) (p : Nat) (j : Join) (rt : Word) : State :=
  s.send .event (.kennel (dieOf p)) (s.homeBy j.slot j.gtn j.key) j.key.ctx
    (.offer { key := j.key, index := bits j.ctl 19 0, ctl := j.ctl, rt := rt, who := .engine, kern := if j.key.ctx = 64 then none else some j.slot })

/-- Join offers leave once their task's posted stores are settled (R258). -/
def State.flushJoins (s : State) (p : Nat) : State :=
  (s.core p).joins.foldl (fun s j =>
    let c := s.core p
    if c.settledBefore j.thr j.ord then
      (s.setCore p { c with joins := c.joins.erase j }).offerJoin p j (if j.thr < 16 then maxW j.rt (c.thread j.thr).rt else j.rt)
    else s) s

/-- Chain pushes and join offers leave in order once their thread's earlier posted stores are settled (R258). -/
def State.flushPushes (s : State) (p : Nat) : State :=
  let s := s.flushJoins p
  (s.core p).outWait.foldl (fun s x =>
    let c := s.core p
    let first := c.outWait.find? fun y => y.1 == x.1
    if first = some x && c.settledBefore x.2.2.1 x.2.2.2 then
      let w := tget 0 c.routes x.1
      let rt := if x.2.2.1 < 16 then maxW x.2.1.rt (c.thread x.2.2.1).rt else x.2.1.rt
      (s.setCore p { c with outWait := c.outWait.erase x }).send .event (s.endpOf p) (.core (bits w 18 4)) c.ctx
        (.chain (bits w 23 20) { x.2.1 with rt := rt, hops := s.chainHops p (bits w 18 4) })
    else s) s

/-- log2 of a width in bytes. -/
def log2w (w : Nat) : Nat :=
  if w = 1 then 0 else if w = 2 then 1 else if w = 4 then 2 else if w = 8 then 3 else if w = 16 then 4 else if w = 32 then 5 else 6

/-- The refusal with the lowest lane (R134). -/
def lowestRefused : List (Elem × Nat) → Option (Elem × Nat)
  | [] => none
  | x :: xs => match lowestRefused xs with
    | some y => if y.1.lane < x.1.lane then some y else some x
    | none => some x

/-- An entry whose last unit is settled is released; a refusal sets RFD and becomes a pending JOURNAL (R101, R102, R249,
R332); a retried held store's wait ends (R292). DESIGN CHOICE (log 69): RFD keeps telling of the entry's latest store that has been accepted
or refused while its next one is in flight; and of a refused write-back, whose units are sectors of 128 bytes, W reads 3 and DETAIL its first
8 bytes, since R330 gives W two bits and R331 DETAIL 64. -/
def State.settleEntry (s : State) (p i : Nat) : State :=
  let e := (s.core p).entry i
  if !e.busy || !e.todo.isEmpty || !e.flight.isEmpty then s
  else
    let s := match lowestRefused e.refused with
      -- RFD tells of the entry's most recent store
      | none => s.modCore p fun c => { c with rfd := c.rfd &&& ~~~ ((1 : BitVec 16) <<< i) }
      | some (x, cause) =>
        let s := s.modCore p fun c => { c with rfd := c.rfd ||| ((1 : BitVec 16) <<< i) }
        if 16 ≤ e.thr || (s.thread p e.thr).st == TState.free then s
        else s.modThread p e.thr fun th => { th with traps := th.traps ++
          [(⟨7, cause, x.va, min 3 (log2w x.w), BitVec.ofNat 64 x.data, i⟩ : ATrap)] }
    let s := if (s.thread p e.thr).wait = .heldPosted i then s.complete p e.thr else s
    (s.release p i).flushPushes p

/-- Replaces a Retriever's copy. -/
def State.setRun (s : State) (r : Nat) (x : CopyRun) : State :=
  let t := s.retr r
  s.setRetr r { t with active := t.active.map fun y => if y.id = x.id then x else y }

/-- Records a fault of a copy (R274): the lowest element, then the lowest step, then the first trap; no further element
starts. -/
def CopyRun.fail (x : CopyRun) (e step trap : Nat) (a : Word) : CopyRun :=
  let f := (e, step, trap, a)
  let x := { x with bad := if x.bad.contains e then x.bad else e :: x.bad }
  match x.fault with
  | none => { x with fault := some f, settling := true }
  | some g =>
    if e < g.1 || (e = g.1 && (step < g.2.1 || (step = g.2.1 && trap < g.2.2.1))) then { x with fault := some f, settling := true }
    else x

/-- The networks, bridges and routers of a request to another core's port and of its reply (R5, R383): nothing within a cluster;
otherwise the request network and the reply network of each way, which pass a slice, and the routers between two dies. -/
def State.portTrip (s : State) (p q : Nat) : Nat :=
  let a := siteOfDie (dieOf p)
  let b := siteOfDie (dieOf q)
  2 * (spareHop p + spareHop q) + (if clusterOf p = clusterOf q then 0 else 4 + s.routers a b + s.routers b a)

/-- A copy stops at a fault (R274): its misses are its own, so their answers are awaited no more. -/
def State.copyStop (s : State) (r : Nat) (x : CopyRun) (e step trap : Nat) (a : Word) : State :=
  { s.setRun r (x.fail e step trap a) with misses := s.misses.filter fun m => m.who != .retr r x.id }

/-- A record of the racy-store ring (R251). -/
def Core.record (c : Core) (time : Word) (src : BitVec 32) (off w : Nat) : Core :=
  { c with racy := (⟨time, src, BitVec.ofNat 32 (log2w w * 2 ^ 19 + off)⟩ :: c.racy).take 1024, racyN := c.racyN + 1 }

/-- An inbound write at a core's port: its bytes, and the record, which a core's own stores do not make. None when it lies beyond direct
storage. -/
def State.portWrite (s : State) (p off w data : Nat) (src : BitVec 32) (own : Bool) : Option State :=
  if off + w ≤ (s.core p).dirLimit then
    let s := s.dwrite p off w data
    some (if own then s else s.modCore p fun c => c.record (s.die (dieOf p)).time src off w)
  else none

/-- The writer hears of its port write: unit `lane` of its entry. -/
def State.portSettled (s : State) (core entry lane w : Nat) (ok : Bool) : State :=
  if core < copyBase then
    let e := (s.core core).entry entry
    let gone := e.flight.filter fun x => w == 64 || x.lane == lane
    let e := { e with flight := e.flight.filter fun x => !(w == 64 || x.lane == lane)
                      refused := if ok then e.refused else e.refused ++ gone.map fun x => (x, 2) }
    (s.modCore core fun c => c.setEntry entry e).settleEntry core entry
  else
    let r := core - copyBase
    match (s.retr r).active.find? fun x => x.id == entry with
    | none => s
    | some x =>
      let here := fun (y : Nat × Elem) => y.1 == lane / 2 ^ 32 && y.2.lane == lane % 2 ^ 32
      let a := ((x.open'.find? here).map fun y => y.2.va).getD 0
      let x := { x with open' := x.open'.filter fun y => !here y }
      if ok then s.setRun r x else s.copyStop r x (lane / 2 ^ 32) 2 1 a

/-- Write `k` of the net takes effect at a core's port. Its acceptance carries the delay of both ways (R383, R402). -/
def State.portArrives (s : State) (k : Nat) : State :=
  match s.net[k]? with
  | some ⟨_, _, .core l, _, _, _, _, _, _, _, _, _, .port off w data src core entry lane⟩ =>
    match s.phys l with
    | none => s
    | some p =>
      match (s.drop k).portWrite p off w data src (core < copyBase && src.toNat % 2 ^ 19 / 16 == l) with
      | some s' =>
        (if core < copyBase then s'.delayBy core 107 (s'.portTrip core p) else s').portSettled core entry lane w true
      | none => (s.drop k).portSettled core entry lane w false
  | _ => s

/-! ### A thread's own port writes and its direct range (R103, R251, R262) -/

/-- A message is a write of a core to its own port. -/
def State.ownPort (s : State) (p : Nat) (m : Msg) : Bool :=
  match m.dst, m.body with
  | .core l, .port _ _ _ _ core _ _ => core == p && s.phys l == some p
  | _, _ => false

/-- It is one of a thread to some of `n` bytes. -/
def State.ownPortAt (s : State) (p t a n : Nat) (m : Msg) : Bool :=
  s.ownPort p m && match m.body with
    | .port off w _ _ _ entry _ => ((s.core p).entry entry).thr == t && off < a + n && a < off + w
    | _ => false

/-- A thread's own accesses through the direct range come after its stores to those bytes that travel to the core's own port through an LWIN
page: these, and what is under way before them, arrive first (R103, R251, R262: the port keeps one order of arrival). -/
def State.land (s : State) (p t a n : Nat) : State :=
  let ms := s.net.filter (s.ownPort p)
  match (List.range ms.length).reverse.find? fun i => ms[i]?.any (s.ownPortAt p t a n) with
  | none => s
  | some i => (List.range (i + 1)).foldl (fun s _ => match s.net.findIdx? (s.ownPort p) with
      | some k => s.portArrives k
      | none => s) s

/-! ### A thread's own stores in flight (R103) -/

/-- The byte of an address that the youngest in-flight store of a thread of core `p` gives. Write-backs are no stores, and what an
atomic of the journal will write is not known before it is served. -/
def State.ownByte (s : State) (p t : Nat) (space a : Nat) : Option Nat :=
  let es := ((s.core p).journal.map Prod.snd).filter fun e => e.busy && e.thr == t && e.kind.isWrite
  let hits := es.flatMap fun e => (e.todo ++ e.flight).filterMap fun x =>
    let k := s.spaceKey p x.place
    if k.1 = space && k.2 ≤ a && a < k.2 + x.w then some (e.ord * 4096 + x.lane, x.data / 2 ^ (8 * (a - k.2)) % 256) else none
  (hits.foldl (fun best h => match best with
    | none => some h
    | some b => if b.1 ≤ h.1 then some h else some b) none).map Prod.snd

/-- Bytes read from memory with the thread's own in-flight stores merged in. -/
def State.overlay (s : State) (p t : Nat) (space a n v : Nat) : Nat :=
  (List.range n).foldl (fun acc i =>
    acc + ((s.ownByte p t space (a + i)).getD (v / 2 ^ (8 * i) % 256)) * 2 ^ (8 * i)) 0

/-- Every byte of a span comes from the thread's own stores in flight. -/
def State.ownAll (s : State) (p t space a n : Nat) : Bool := (List.range n).all fun i => (s.ownByte p t space (a + i)).isSome

/-- A thread's load has been served from stores in flight: they are marked. -/
def State.markSeen (s : State) (p t space a n : Nat) : State :=
  let hit (e : JEntry) : Bool := e.busy && e.thr == t && e.kind.isWrite && e.todo.any fun x =>
    let k := s.spaceKey p x.place
    k.1 == space && k.2 < a + n && a < k.2 + x.w
  if (s.core p).journal.any fun e => hit e.2 then
    s.modCore p fun c => { c with journal := c.journal.map fun e => (e.1, if hit e.2 then { e.2 with seen := true } else e.2) }
  else s

/-- A load of the thread has been served from a store of its own that is still in flight: since that store's timestamp bounds what
the thread's later loads may return, they wait for its acceptance (R263; DEDUCED, log 66). -/
def State.behindOwn (s : State) (p t : Nat) : Bool :=
  (s.core p).journal.any fun e => e.2.busy && e.2.thr == t && e.2.seen && e.2.todo.any fun x => x.line.isSome

/-- An atomic that the thread has posted to these bytes, a healing `cas` or an `hunpin`, is still in flight: a read waits for it,
since it has to see its result or a later one (R262). -/
def State.ownAtomic (s : State) (p t : Nat) (pl : Place) (n : Nat) : Bool :=
  let k := s.spaceKey p pl
  (s.core p).journal.any fun e => e.2.busy && e.2.thr == t && (match e.2.kind with
    | .heal _ _ | .unpin => true
    | _ => false) && e.2.todo.any fun x =>
      let j := s.spaceKey p x.place
      j.1 == k.1 && j.2 < k.2 + n && k.2 < j.2 + x.w

/-! ### Serving one unit (R93, R236) -/

/-- What serving a unit gives: its data, a trap from the reply (R90 step 6), or not yet. -/
inductive Unit' where
  /-- whether a slice or a home behind it served it -/
  | data (s : State) (v : Nat) (slice : Bool)
  | trap (t : Trap)
  | notYet

/-- Stores of a thread are on their way to another core's port. -/
def Core.portStores (c : Core) (t l : Nat) : Bool :=
  c.journal.any fun e => e.2.busy && e.2.thr == t && e.2.flight.any fun x => match x.place with
    | .lwin k _ => k == l
    | _ => false

/-- Reads one unit of a thread's load at its place, the thread's own stores in flight being the first (R236). -/
def State.readUnit (s : State) (p t : Nat) (past : Bool) (e : Elem) : Unit' :=
  let k := s.spaceKey p e.place
  let own (s : State) (v : Nat) : Nat := s.overlay p t k.1 k.2 e.w v
  if s.ownAtomic p t e.place e.w then .notYet
  else match e.place with
  | .direct a => let s := s.land p t a e.w; .data s ((s.core p).dread a e.w) false
  | .line l off pa =>
    if s.ownAll p t k.1 k.2 e.w then .data (s.markSeen p t k.1 k.2 e.w) (own s 0) false
    else if s.behindOwn p t then .notYet
    else
    let fresh : Bool := match (s.thread p t).wait with
      | .load r => r.far.isSome
      | _ => false
    match s.readLine p t l pa off e.w fresh past with
    | .poison => .trap { kind := 13, addr := e.va }
    | .notYet => .notYet
    | .data s' d slice =>
      let s' := s'.markSeen p t k.1 k.2 e.w
      let s' := if slice && !past then
          match (s.thread p t).wait with
          | .load r =>
            s'.delayLine p p l (sliceOf pa (tget 0 (s.ctx (s.core p).ctx).desc 1)) (r.far.map Prod.fst)
              ((((s.slice (dieOf p) l).bind SliceLine.owner).map stashTrip).getD 0 + (r.far.map Prod.snd).getD 0)
          | _ => s'
        else s'
      .data s' (own s (dataAt d off e.w)) slice
  | .lwin l a =>
    match s.phys l with
    | none => .trap (.access e.va)
    | some q =>
      -- the request follows the thread's own stores to that port (R263, R379)
      if (s.core p).portStores t l || !s.ways (siteOfDie (dieOf p)) (siteOfDie (dieOf q)) then .notYet
      else if a + e.w ≤ (s.core q).dirLimit then .data (s.delayBy p 107 (s.portTrip p q)) ((s.core q).dread a e.w) false
      else .trap (.access e.va)
  | .remote m a =>
    if !s.podUp then .notYet
    else match Config.podAnswer s.tick with
    | 0 =>
      if Config.farPoison s.tick then .trap { kind := 13, addr := e.va }
      else .data ((s.podSend (s.core p).ctx m (a / 64) a e.w).delay p 108) (own s (mread s.pod (m * 2 ^ 52 + a) e.w)) false
    | 1 => .trap { kind := 6, addr := e.va, cause := 1 }
    | _ => .trap { kind := 4, addr := e.va, cause := 5 }
  | .host a =>
    if !s.hostUp then .notYet
    else if Config.farPoison s.tick then .trap { kind := 13, addr := e.va }
    else if Config.hostRefuses s.tick then .trap { kind := 4, addr := e.va, cause := 3 }
    else .data (s.delay p 109) (own s (mread s.host a e.w)) false

/-! ### Beginning an access -/

/-- Begins a load-like request (R100): units in the direct range alone are served at once by `now`; otherwise the load
wait begins, with a miss when a translation is absent (R92). -/
def State.startLoad (s : State) (k : ReqKind) (need : Nat) (els : List Elem) (now : State → List (Nat × Nat) → Ends) : Ends :=
  let p := s.cur.core
  match s.trElems p (needOf need) els with
  | .trap t => .trap t
  | .miss va =>
    .wait (s.threadMiss p s.cur.thr va (needOf need).acc) (.load { kind := k, need := need, todo := els, miss := true })
  | .ok els =>
    if els.all fun e => eaKind e.va == .direct then
      let s := els.foldl (fun s e => s.land p s.cur.thr e.va.toNat e.w) s
      now s (els.map fun e => (e.lane, (s.core p).dread e.va.toNat e.w))
    else .wait s (.load { kind := k, need := need, todo := els })

/-- Writes units to the issuing core's direct storage, in order (R101). -/
def State.storeDirect (s : State) (p t : Nat) (els : List Elem) : State :=
  els.foldl (fun s e => match e.place with
    | .direct a => (s.land p t a e.w).dwrite p a e.w e.data
    | _ => s) s

/-- A unit that a higher lane of the same store overwrites in the direct range, as it takes effect there at once (R134). -/
def State.overwritten (s : State) (p : Nat) (els : List Elem) (e : Elem) : Bool :=
  e.isLwin && els.any fun d => eaKind d.va == .direct && e.lane < d.lane && d.place.key == s.spaceKey p e.place

/-- A translated store (R101, R134): direct units take effect at once and are no part of the posted store, which the others
form; none when that needs a journal entry and none is free. -/
def State.storeNow (s : State) (p t : Nat) (els : List Elem) : Option State :=
  let far := els.filter fun e => eaKind e.va != .direct
  let s' := s.storeDirect p t els
  if far.isEmpty then some s'
  else if (s.core p).freeEntry.isNone then none
  else
    let far := far.filter fun e => !s.overwritten p els e
    if far.isEmpty then some s' else s'.post p t .store far

/-- Begins a store (R101): it takes effect or is posted, or the journal wait begins; a translation that is absent begins the
load wait (R92). -/
def State.startStore (s : State) (need : Nat) (els : List Elem) : Ends :=
  let p := s.cur.core
  match s.trElems p (needOf need) els with
  | .trap t => .trap t
  | .miss va =>
    .wait (s.threadMiss p s.cur.thr va (needOf need).acc) (.load { kind := .st, need := need, todo := els, miss := true })
  | .ok els =>
    match s.storeNow p s.cur.thr els with
    | some s' => .done s'
    | none => .again .journal

/-! ### Cache operations (R107, R108, R406) -/

/-- Starts a fill of a line for a thread (R406): need is taken when the fill is sent. -/
def State.prefetch (s : State) (p t l pa : Nat) (va : Word) (pin : Bool) : State :=
  let th := s.thread p t
  s.modCore p fun c =>
    { c with ca := { c.ca with pref := c.ca.pref ++ [⟨l, pa, th.crs.ptime + th.len, pin, t, c.ctx, va, none⟩] } }

/-- The fills of a line that are under way for a core leave no pin. -/
def State.unpinFills (s : State) (p l : Nat) : State :=
  s.modCore p fun c => { c with ca := { c.ca with pref := c.ca.pref.map fun x => if x.line = l then { x with pin := false } else x } }

/-- Marks or clears the pin of a line in the core's first-level cache and in the pool, whichever member pinned it there (log 69). -/
def State.setPin (s : State) (p l : Nat) (pin : Bool) : State :=
  let mark (x : L1Line) : L1Line := if x.line = l then { x with pin := pin } else x
  let s := s.modCore p fun c => { c with ca := { c.ca with l1 := c.ca.l1.map mark } }
  if s.usesPool p then
    let k := clusterOf p
    s.setCluster k { s.cluster k with pool := (s.cluster k).pool.map fun x => if x.ctx = (s.core p).ctx then mark x else x }
  else s

/-- Whether the core's first-level cache or pool holds a line. -/
def State.l1Holds (s : State) (p l : Nat) : Bool :=
  (s.core p).ca.l1.any (fun x => x.line == l) ||
    (s.usesPool p && (s.cluster (clusterOf p)).pool.any fun x => x.line == l && x.ctx == (s.core p).ctx)

/-- Whether every way of the line's set is pinned, or the core has no first-level granules (R38, R107). -/
def State.l1Full (s : State) (p pa : Nat) : Bool :=
  let n := s.l1Sets p
  (s.core p).l1Granules = 0 ||
  let own := n = 0 || 8 ≤ ((s.core p).ca.l1.filter fun x => x.pin && x.pa / 512 % n == pa / 512 % n).length
  let m := s.poolSets (clusterOf p)
  let pool := !s.isMember p || m = 0 ||
    8 ≤ ((s.cluster (clusterOf p)).pool.filter fun x => x.pin && x.pa / 512 % m == pa / 512 % m).length
  own && pool

/-- The stash's dirty sectors of a line as units of a write-back, with their data (R248). -/
def State.dirtyElems (s : State) (x : StashLine) (va : Word) : List Elem :=
  (List.range 4).filterMap fun i =>
    if x.dirty.getLsbD i then some ⟨i, va, 128, dataAt (s.lineData x.line) (128 * i) 128, .line x.line (128 * i) (x.pa / 512 * 512 + 128 * i)⟩ else none

/-- A cache operation on a translated line: 0 pin.l, 1 unpin.l, 2 flush, 3 inval, 4 pref (R107). None when it needs a journal
entry and none is free. -/
def State.cacheOp (s : State) (p t fn : Nat) (va : Word) (pl : Place) : Option State :=
  match pl with
  | .line l _ pa =>
    match fn with
    | 0 =>
      if s.l1Holds p l then some (s.setPin p l true)
      else if s.l1Full p pa then some s
      else some (s.prefetch p t l pa va true)
    | 1 => some ((s.setPin p l false).unpinFills p l)
    | 4 => some (if s.l1Full p pa then s else s.prefetch p t l pa va false)
    | _ =>
      let give := fn = 3
      let s' := if give then (s.l1Drop p l).unpinFills p l else s
      match (s.core p).stashLine l with
      | none => some s'
      | some x =>
        if x.dirty = 0 then some (if give then s'.stashGives p l else s')
        else
          s'.post p t (.writeback l give) (s.dirtyElems x va)
  | _ => some s

/-- Begins a cache operation on the line of an address (R90, R91, R107). `pref` raises nothing. -/
def State.startCache (s : State) (fn : Nat) (a : Word) : Ends :=
  let p := s.cur.core
  let va : Word := a - BitVec.ofNat 64 (a.toNat % 512)
  match eaKind a with
  | .direct => .done s
  | .bad => if fn = 4 then .done s else .trap (.access a)
  | .virt =>
    match trUnit 0 (s.tlb1 p) needCache va 1 with
    | .trap t => if fn = 4 then .done s else .trap { t with addr := a }
    | .miss =>
      .wait (s.threadMiss p s.cur.thr va needCache.acc)
        (.load { kind := .cache fn, need := 3, todo := [⟨0, va, 1, a.toNat, .direct 0⟩], miss := true })
    | .ok pl =>
      match s.cacheOp p s.cur.thr fn va pl with
      | some s' => .done s'
      | none => .again .journal

end Sys2Proof.Machine
end

