-- ==== Sys2Proof/Machine/Engine.lean ====
section
/-!
DEFINITION. Accesses that the hardware makes for a context by itself: the event overflow area, spill rings, tables
(R159, R160, R284, R362), and fields of a context's descriptor (R323).
-/

namespace Sys2Proof.Machine

/-! ### The descriptor (R323) -/

/-- Word `n` of a context's descriptor. -/
def State.descWord (s : State) (c n : Nat) : Word := tget 0 (s.ctx c).desc n
def State.seedOf (s : State) (c : Nat) : Word := s.descWord c 1
/-- The context's function modes (R326). -/
def State.fmodeOf (s : State) (c : Nat) : Nat := bits (s.descWord c 0) 38 32
/-- A weight of the descriptor; 0 is taken as 1. -/
def weight (w : Word) (hi lo : Nat) : Nat := max 1 (bits w hi lo)

/-! ### Raw accesses -/

/-- A translation of a context's page that some level of the panel holds. -/
def State.anyTlb (s : State) (ctx va : Nat) : Option Tlb :=
  match findTlb (s.stks.flatMap fun e => e.2.tlb) ctx va with
  | some e => some e
  | none => findTlb (s.clusters.flatMap fun e => e.2.tlb) ctx va

/-- Where an unchecked access of a context lands: a line and offset, when a translation is held and names one. -/
def State.rawPlace (s : State) (ctx : Nat) (va : Nat) : Option (Nat × Nat) :=
  match s.anyTlb ctx va with
  | none => none
  | some e => match e.place va with
    | .line l off _ => some (l, off)
    | _ => none

/-- An unchecked read of `n` bytes within one line. -/
def State.rawRead (s : State) (ctx va n : Nat) : Option Nat :=
  (s.rawPlace ctx va).map fun x => mread s.dram (x.1 * 512 + x.2) n

/-- An unchecked write of `n` bytes within one line. -/
def State.rawWrite (s : State) (ctx va n v : Nat) : Option State :=
  (s.rawPlace ctx va).map fun x => (s.homeWrite x.1 x.2 n v 0).1

/-! ### Ranks (R352) -/

/-- Product of the sizes of the levels below `n`. -/
def Kernel.below (k : Kernel) : Nat → Nat
  | 0 => 1
  | n + 1 => k.below n * k.lvSize n

/-- The rank at level `n` of the thread with a flat index. -/
def Kernel.rank (k : Kernel) (flat n : Nat) : Nat := flat / k.below n % k.lvSize n

/-- The rank of a thread at a declared level; a firmware thread's is its thread index (R311). -/
def State.rankOf (s : State) (p t n : Nat) : Nat :=
  if isSetter p then (if n = 0 then t else 0)
  else match s.kernel (s.thread p t).slot with
    | some k => if n < k.levels then k.rank (s.thread p t).flat n else 0
    | none => 0

/-- A change of a context's seed is under way (R241): accesses that need a slice wait. -/
def State.reseeding (s : State) (ctx : Nat) : Bool := (s.ctx ctx).seedNew.isSome

/-! ### Renewals, and reads of the matrix side as loads of the issuing thread (R193, R195, R243) -/

/-- A slice renews a line from its home (R243): the home's rts rises, and the slice's shared copy takes data, wts and rts. -/
def State.renew (s : State) (d l pa ctx : Nat) (need : Word) : State :=
  let h := s.home l
  let rts := maxW h.rts need
  (s.setHome l { h with rts := rts }).newSlice d l ⟨false, h.wts, rts, none, s.lineData l, ctx, s.sliceNo ctx pa⟩

/-- What a thread's load needs of a line's lease (R243): its `ptime`, raised by the copy it meets, and its lease length. -/
def State.renewNeed (s : State) (p t l : Nat) : Word :=
  let th := s.thread p t
  let wts := match s.slice (dieOf p) l with
    | some sl => sl.wts
    | none => (s.home l).wts
  maxW th.now wts + th.len

/-- Hops of a slice's request to the stash of its die that owns a line. -/
def State.fwdTrip (s : State) (d l : Nat) : Nat := (((s.slice d l).bind SliceLine.owner).map stashTrip).getD 0

/-- Hops of the recall of a line from the die that holds it exclusively (R383). -/
def State.recallTrip (s : State) (l : Nat) : Nat :=
  match (s.home l).excl with
  | some d => s.homeTrip d l + s.fwdTrip d l
  | none => 0

/-- What a read has met, with the delay of the slice's reply added (R383, R402): `far` and `more` as `State.delayLine` takes them. -/
def Served.delayed (x : Served) (p l pa : Nat) (far : Option Nat) (more : Nat) : Served :=
  match x with
  | .data s d true => .data (s.delayLine p p l (sliceOf pa (s.seedOf (s.core p).ctx)) far more) d true
  | x => x

/-- A read of a line with the recall and renewal it may need done in the same step. While the context's seed changes, no slice serves it
(R241), nor while no link leads to the home (R373, R396). A slice's reply carries its delay, one for the reads that are part of one demand miss
(`past`). -/
def State.loadNow (s : State) (p t l pa off n : Nat) (past : Bool) : Served :=
  if s.reseeding (s.core p).ctx then .notYet
  else match s.readLine p t l pa off n false past with
  | .notYet =>
    if !(s.homeUp (dieOf p) l && s.ownerUp l) then .notYet
    else
      let r := ((s.dieGives l).renew (dieOf p) l pa (s.core p).ctx ((s.dieGives l).renewNeed p t l)).readLine p t l pa off n true past
      if past then r else r.delayed p l pa (some (stackOf l)) (s.recallTrip l)
  | r => if past then r else r.delayed p l pa none (s.fwdTrip (dieOf p) l)

/-- The thread that stands for an operation: its own, or 16 once that has gone to FREE. -/
def Mop.who (o : Mop) : Nat := if o.discard then 16 else o.thr

/-- What a read by the array or the drain unit gives. -/
inductive EngR where
  /-- whether a slice served it -/
  | data (s : State) (v : Nat) (slice : Bool)
  /-- a translation is missing: the read waits -/
  | miss (s : State)
  | trap (s : State) (t : Trap)

/-- The matrix side of a core meets a page that no level of its own holds, for an operation's thread and issue order: the read or
store waits, or takes PAGE when the fill has answered that there is none (R225, R313). -/
def State.engMiss (s : State) (p t ord : Nat) (va : Word) (acc : BitVec 3) : EngR :=
  if s.misses.any fun m => m.who == .array p t ord && m.none' && m.va.toNat / 65536 == va.toNat / 65536 then
    .trap { s with misses := s.misses.filter fun m => !(m.who == .array p t ord && m.none' && m.va.toNat / 65536 == va.toNat / 65536) }
      (.page va)
  else
    let n := ((((s.core p).mx.ops.find? fun o => o.ord == ord)).map Mop.thr).getD t
    .miss (s.addMiss (.array p t ord) (s.core p).ctx (clusterOf p) (s.thread p t).slot va acc (2 ^ 62 + s.gtn p n) (s.thread p t).rt)

/-- A read of the 8-byte location around an address by the matrix side of a core, for an operation of thread `t` (R193, R194, R219):
ACCESS, PAGE, ACCESS, CLASS, POISON in that order. DEDUCED (log 15): it raises the thread's `ptime` as its loads do, once the operation is
complete (R18). -/
def State.engRead (s : State) (p t ord : Nat) (past : Bool) (va : Word) : EngR :=
  let a := va.toNat / 8 * 8
  match eaKind va with
  | .bad => .trap s (.access va)
  | .direct =>
    if a + 8 ≤ (s.core p).dirLimit then let s := s.land p t a 8; .data s ((s.core p).dread a 8) false
    else .trap s (.access va)
  | .virt =>
    match s.tlb1 p a with
    | none => s.engMiss p t ord va 1
    | some e =>
      match checkPage e needEngR (BitVec.ofNat 64 a) with
      | .trap tr => .trap s { tr with addr := va }
      | .miss => .trap s (.access va)
      | .ok (.line l off pa) =>
        let at' := l * 512 + off
        if s.ownAtomic p t (.line l off pa) 8 then .miss s
        else if s.ownAll p t 1 at' 8 then .data (s.markSeen p t 1 at' 8) (s.overlay p t 1 at' 8 0) false
        else if s.behindOwn p t then .miss s
        else match s.loadNow p t l pa off 8 past with
        | .poison => .trap s { kind := 13, addr := va }
        | .notYet => .miss s
        | .data s' d slice => .data (s'.markSeen p t 1 at' 8) (s.overlay p t 1 at' 8 (dataAt d off 8)) slice
      | .ok _ => .trap s (.class' va)

/-- Reads of a run that may take several pieces, since each location is read for itself (R195, R255): the locations read so far by a
key, whether some are still to come, and the first trap with its place in the run. -/
structure Piece where
  s    : State
  got  : Tab Nat := []
  left : Bool := false
  trap : Option (Nat × Trap) := none

/-- The key under which a run keeps that a slice has served bytes of a line of addresses. -/
def missKey (va : Word) : Nat := 2 ^ 80 + va.toNat / 512

/-- Reads one location of a run, unless it has been read or `leave` names it by its number; a trap counts only when all
before it have been read. -/
def Piece.read (p t ord : Nat) (leave : List Nat) (x : Piece) (k key : Nat) (va : Word) : Piece :=
  if x.trap.isSome || x.got.any (fun e => e.1 == key) then x
  else if leave.contains (va.toNat / 8) then { x with left := true }
  else match x.s.engRead p t ord (x.got.any fun e => e.1 == missKey va) va with
  | .data s v slice =>
    let got := tset x.got key v
    { x with s := s, got := if slice then tset got (missKey va) 1 else got }
  | .miss s => { x with s := s, left := true }
  | .trap s tr => if x.left then x else { x with s := s, trap := some (k, tr) }

/-- The key of a location in a run, by a number that tells runs apart. -/
def locKey (tag : Nat) (va : Word) : Nat := tag * 2 ^ 61 + va.toNat / 8

/-- An element of `w` bytes of a run's locations. -/
def locElem (got : Tab Nat) (tag w : Nat) (va : Word) : Nat :=
  tget 0 got (locKey tag va) / 2 ^ (8 * (va.toNat % 8)) % 2 ^ (8 * w)

/-! ### Records that latch no thread (R327, R330, R331) -/

/-- A record whose ACK has bit 63 set: KIND, the thread concerned, program counter, address, cause, DETAIL. -/
def plainRecord (kind gtn : Nat) (pc : BitVec 56) (addr : Word) (cause detail : Nat) : FRec where
  w0 := BitVec.ofNat 64 (2 ^ 63 + gtn % 2 ^ 19)
  w1 := BitVec.ofNat 64 (kind * 2 ^ 59 + pc.toNat)
  w2 := BitVec.ofNat 64 (cause * 2 ^ 56 + addr.toNat % 2 ^ 56)
  w3 := BitVec.ofNat 64 detail

/-! ### Panel time (R149, R385) -/

/-- Panel time of a die's counter, in nanoseconds: count × 10^12 / RATE + ZERO picoseconds. -/
def State.panelTime (s : State) (d : Nat) : Nat :=
  let x := s.die d
  let ps : Int := (x.time.toNat * 10 ^ 12 / x.rate.toNat : Nat) + x.zero.toInt
  (BitVec.ofInt 64 (ps / 1000)).toNat

end Sys2Proof.Machine
end

