-- ==== Sys2Proof/Machine/Operands.lean ====
section
/-!
DEFINITION. Operand forms: access sizes and extensions, effective addresses, vector element types and lanes, and the
control-register file (R40, R43, R68, R72-R75, R88, R109, R115).
-/

namespace Sys2Proof

/-! ### Scalar sizes and addresses (R68, R88) -/

/-- Bytes of an access size. -/
def Sz.bytes : Sz → Nat
  | .i8 | .n8 => 1
  | .i16 | .n16 => 2
  | .i32 | .n32 => 4
  | .d64 => 8

/-- A loaded value, extended by its size (R100). -/
def Sz.ext (z : Sz) (v : Nat) : Word :=
  match z with
  | .i8 => Machine.sextN v 8
  | .i16 => Machine.sextN v 16
  | .i32 => Machine.sextN v 32
  | .n8 => BitVec.ofNat 64 (v % 2 ^ 8)
  | .n16 => BitVec.ofNat 64 (v % 2 ^ 16)
  | .n32 => BitVec.ofNat 64 (v % 2 ^ 32)
  | .d64 => BitVec.ofNat 64 v

def AWidth.bytes : AWidth → Nat
  | .w32 => 4
  | .w64 => 8

/-- The value an atomic returns (R104): i32 sign-extended, the other types zero-extended. Only `max` and `min` have words of their
own for n32 (R72); the other operations' 32-bit word is taken as i32's (DESIGN CHOICE, log 63). -/
def AWidth.ext (w : AWidth) (nat : Bool) (v : Nat) : Word :=
  match w with
  | .w32 => if nat then BitVec.ofNat 64 (v % 2 ^ 32) else Machine.sextN v 32
  | .w64 => BitVec.ofNat 64 v

/-! ### Vector element types (R40, R43, R75, R115) -/

/-- Element width in bits. -/
def VTy.w : VTy → Nat
  | .i8 | .n8 | .e4m3 | .e5m2 => 8
  | .i16 | .n16 | .f16 | .bf16 => 16
  | .i32 | .n32 | .f32 => 32
  | .i64 | .n64 => 64

/-- The float format of a type, if it is one. -/
def VTy.fmt : VTy → Option Machine.Fmt
  | .f16 => some .f16
  | .bf16 => some .bf16
  | .f32 => some .f32
  | .e4m3 => some .e4m3
  | .e5m2 => some .e5m2
  | _ => none

/-- The integer format of a type (floats give the natural format of their width). -/
def VTy.int (t : VTy) : Machine.IFmt :=
  match t with
  | .i8 | .i16 | .i32 | .i64 => ⟨t.w, true⟩
  | _ => ⟨t.w, false⟩

/-- Lanes of a vector register at a type. -/
def VTy.lanes (t : VTy) : Nat := 512 / t.w

end Sys2Proof

namespace Sys2Proof.Machine

/-- Lane `i` of `w` bits. -/
def lane (v : VWord) (w i : Nat) : Nat := v.toNat / 2 ^ (w * i) % 2 ^ w

/-- A register from its lanes, lane 0 first. -/
def ofLanes (w : Nat) (xs : List Nat) : VWord :=
  BitVec.ofNat 512 (xs.foldr (fun x acc => acc * 2 ^ w + x % 2 ^ w) 0)

/-- Replaces lane `i`. -/
def setLane (v : VWord) (w i x : Nat) : VWord :=
  ofLanes w ((List.range (512 / w)).map fun j => if j = i then x else lane v w j)

/-! ### Control registers (R15, R73, R109) -/

/-- `vpool` as it reads (R240). -/
def Cluster.vpool (c : Cluster) : Word := BitVec.ofNat 64 (c.lend * 2 ^ 16 + c.memb.toNat)

/-- `carve` as it reads (R37). -/
def Core.carve (c : Core) : Word := BitVec.ofNat 64 (c.stashG * 2 ^ 8 + c.dirG)

/-- The cluster whose `vpool` a core reaches: its logical cluster's (R240, R335). -/
def State.poolCluster (s : State) (p : Nat) : Nat :=
  match s.logical p with
  | some l => l / 16
  | none => clusterOf p

/-- Reads a control register for the thread in hand; an unassigned number reads zero (it never gets this far, R109). -/
def State.crGet (s : State) (n : Nat) : Word :=
  let th := s.me
  let c := s.myCore
  match n with
  | 0x000 => th.crs.geom
  | 0x001 => th.crs.fmta
  | 0x002 => th.crs.fmtb
  | 0x003 => th.crs.scla
  | 0x004 => th.crs.sclb
  | 0x008 => th.now
  | 0x009 => th.crs.lease
  | 0x010 => th.crs.chain
  | 0x018 => th.crs.mprog
  | 0x019 => th.crs.dprog
  | 0x020 => c.carve
  | 0x021 => (s.cluster (s.poolCluster s.cur.core)).vpool
  | 0x022 => c.jrnlWord
  | 0x040 => th.crs.fmode
  | n =>
    if h : 0x030 ≤ n ∧ n < 0x038 then (c.nctr[n - 0x030]'(by omega)).setWidth 64
    else if 0x100 ≤ n ∧ n < 0x180 then tget 0 c.dacc (n - 0x100)
    else 0

/-- A core's pool-visible first-level portion changes between two states: members whose own portion gains or loses granules
lose their first-level lines; a pool whose lent granules or members change loses every line (R38, R240). -/
def State.resettle (old new : State) (k : Nat) (poolChanged : Bool) : State :=
  let own (s : State) (p : Nat) : Nat := (s.core p).l1Granules - s.lent p
  let changed := (List.range 17).filter fun i => own old (k * 17 + i) != own new (k * 17 + i)
  let s := changed.foldl (fun s i => s.modCore (k * 17 + i) fun c => { c with ca := { c.ca with l1 := [] } }) new
  let lentChanged := (List.range 17).any fun i => old.lent (k * 17 + i) != new.lent (k * 17 + i)
  if poolChanged || lentChanged then s.setCluster k { s.cluster k with pool := [] } else s

/-- A write of `carve` (R37, R38); none where the value raises ILLEGAL. -/
def State.carveWrite (s : State) (p : Nat) (v : Word) : Option State :=
  let d := bits v 4 0
  let g := bits v 12 8
  let c := s.core p
  if 16 < d || 16 < g || 16 < d + g then none
  else if d = c.dirG && g = c.stashG then some s
  else
    let flushed := c.ca.stash.foldl (fun s x => s.stashGives p x.line) s
    let c' := flushed.core p
    let direct := if c.dirG < d then mzeroFrom c'.direct (c.dirG * 32768) (d * 32768) else c'.direct
    let l1 := if c.dirG + c.stashG = d + g then c'.ca.l1 else []
    let new := flushed.setCore p { c' with dirG := d, stashG := g, direct := direct, ca := { c'.ca with l1 := l1 } }
    some (if isSetter p then new else flushed.resettle new (clusterOf p) false)

/-- A write of a cluster's `vpool` (R240); none where LEND raises ILLEGAL. -/
def State.vpoolWrite (s : State) (k : Nat) (v : Word) : Option State :=
  let lend := bits v 20 16
  let memb : BitVec 16 := BitVec.ofNat 16 v.toNat
  let c := s.cluster k
  if 16 < lend then none
  else if lend = c.lend && memb = c.memb then some s
  else some (s.resettle (s.setCluster k { c with lend := lend, memb := memb }) k true)

/-- A write of `jrnl`: ones clear RFD bits (R250). -/
def Core.jrnlWrite (c : Core) (v : Word) : Core := { c with rfd := c.rfd &&& ~~~ BitVec.ofNat 16 (v.toNat / 2 ^ 48) }

/-- Writes a control register by its field map (R15, R109); none where the value raises ILLEGAL (R38, R240). -/
def State.crSet (s : State) (n : Nat) (v : Word) : Option State :=
  let crs (f : Crs → Crs) : Option State := some (s.modMe fun th => { th with crs := f th.crs })
  match n with
  | 0x001 => crs fun c => { c with fmta := BitVec.ofNat 64 (bits v 3 0) }
  | 0x002 => crs fun c => { c with fmtb := BitVec.ofNat 64 (bits v 3 0) }
  | 0x003 => crs fun c => { c with scla := v }
  | 0x004 => crs fun c => { c with sclb := v }
  | 0x009 =>
    -- the cycles counted toward the next self-advance are those under the present TICK (DESIGN CHOICE, log 63)
    some (s.modMe fun th => { th with crs := { th.crs with lease := BitVec.ofNat 64 (bits v 20 0) }
                                      inCyc := if bits v 20 16 = bits th.crs.lease 20 16 then th.inCyc else 0 })
  | 0x010 => crs fun c => { c with chain := BitVec.ofNat 64 (bits v 9 0) }
  | 0x020 => s.carveWrite s.cur.core v
  | 0x021 => s.vpoolWrite (s.poolCluster s.cur.core) v
  | 0x022 => some (s.modCore s.cur.core fun c => c.jrnlWrite v)
  | n =>
    if h : 0x030 ≤ n ∧ n < 0x038 then
      some (s.modCore s.cur.core fun c => { c with nctr := c.nctr.set (n - 0x030) (v.setWidth 32) (by omega) })
    else if 0x100 ≤ n ∧ n < 0x180 then
      some (s.modCore s.cur.core fun c => { c with dacc := tset c.dacc (n - 0x100) v })
    else some s

end Sys2Proof.Machine
end

