-- ==== Sys2Proof/Machine/Flags.lean ====
section
/-!
DEFINITION. Conditions and counted conditions: the Vorter has no flag register, so its flag computations are the condition
codes of skips and branches (R69) and the conditions that the numerical counters record (R41, R42, R61-R63).
-/

namespace Sys2Proof

/-- Whether a condition holds between two 64-bit values (R69). -/
def Cond.holds (c : Cond) (a b : Word) : Bool :=
  match c with
  | .eq => a == b
  | .ne => a != b
  | .lt => a.slt b
  | .ge => !a.slt b
  | .ltn => a.ult b
  | .gen => !a.ult b
  | .le => a.sle b
  | .gt => !a.sle b
  | .len => a.ule b
  | .gtn => !a.ule b
  | .bs => (a &&& b) != 0
  | .bc => (a &&& b) == 0

end Sys2Proof

namespace Sys2Proof.Machine

/-- A wrapping result in a format, with the integer-wrap condition (R41, R62). -/
def IFmt.wrapCount (t : IFmt) (v : Int) : Nat × Cnt :=
  (t.wrapBits v, if t.fits v then Cnt.zero else Cnt.oneWrap)

/-- A saturating result in a format (R41): it counts nothing. -/
def IFmt.satBits (t : IFmt) (v : Int) : Nat := t.wrapBits (t.sat v)

/-- The integer quotient of R42 with its counted conditions. -/
def IFmt.div (t : IFmt) (a b : Nat) : Nat × Cnt :=
  let x := t.value a
  let y := t.value b
  if y = 0 then (2 ^ t.w - 1, Cnt.oneDz)
  else if t.signed && x == t.lo && y == -1 then (t.wrapBits x, Cnt.oneWrap)
  else (t.wrapBits (x.tdiv y), Cnt.zero)

/-- The integer remainder of R42. -/
def IFmt.rem (t : IFmt) (a b : Nat) : Nat :=
  let x := t.value a
  let y := t.value b
  if y = 0 then t.wrapBits x else t.wrapBits (x.tmod y)

/-- An integer comparison under the conditions of R123. -/
def intCond (c : VCond) (x y : Int) : Bool :=
  match c with
  | .eq => x == y
  | .ne => x != y
  | .lt => x < y
  | .ge => y ≤ x
  | .le => x ≤ y
  | .gt => y < x

end Sys2Proof.Machine
end

