-- ==== Sys2Proof/Machine/Scalar.lean ====
section
/-!
DEFINITION. Integer register and immediate operations, skips, branches and jumps (R94-R99).
-/

namespace Sys2Proof.Machine

/-- What every meaning answers. -/
abbrev Out := Host.Outcome State Fault Refusal

/-- A register operation of two operands (R94). -/
def alu2 (d a b : GReg) (f : Word → Word → Word) (s : State) : Out :=
  .next (s.issue [a, b] [d] fun s => .done (s.gw d (f (s.gr a) (s.gr b))))

/-- A register operation of one operand (R94), or with an immediate (R95). -/
def alu1 (d a : GReg) (f : Word → Word) (s : State) : Out :=
  .next (s.issue [a] [d] fun s => .done (s.gw d (f (s.gr a))))

/-- The shift count of R94: bits [5:0]. -/
def shamt (b : Word) : Nat := b.toNat % 64

def boolW (b : Bool) : Word := if b then 1 else 0

/-- Count of zero bits above the highest one, among the low `n` bits. -/
def clzFrom (x : Word) : Nat → Nat
  | 0 => 0
  | n + 1 => if x.getLsbD n then 0 else 1 + clzFrom x n

/-- Count of zero bits from bit `i` on, looking at `n` bits. -/
def ctzFrom (x : Word) : Nat → Nat → Nat
  | 0, _ => 0
  | n + 1, i => if x.getLsbD i then 0 else 1 + ctzFrom x n (i + 1)

/-- Count of one bits among the low `n` bits. -/
def popCount (x : Word) : Nat → Nat
  | 0 => 0
  | n + 1 => (x.getLsbD n).toNat + popCount x n

/-- A 64-bit integer format. -/
def i64 : IFmt := ⟨64, true⟩
def n64 : IFmt := ⟨64, false⟩

/-- The 16-bit immediate, sign-extended (R95). -/
def imm16 (imm : BitVec 16) : Word := imm.signExtend 64

/-- ADD (R94). -/
def execAdd (d a b : GReg) (s : State) : Out := alu2 d a b (fun x y => x + y) s

/-- SUB (R94). -/
def execSub (d a b : GReg) (s : State) : Out := alu2 d a b (fun x y => x - y) s

/-- AND (R94). -/
def execAnd (d a b : GReg) (s : State) : Out := alu2 d a b (fun x y => x &&& y) s

/-- OR (R94). -/
def execOr (d a b : GReg) (s : State) : Out := alu2 d a b (fun x y => x ||| y) s

/-- XOR (R94). -/
def execXor (d a b : GReg) (s : State) : Out := alu2 d a b (fun x y => x ^^^ y) s

/-- ANDN (R94). -/
def execAndn (d a b : GReg) (s : State) : Out := alu2 d a b (fun x y => x &&& ~~~ y) s

/-- SLL (R94). -/
def execSll (d a b : GReg) (s : State) : Out := alu2 d a b (fun x y => x <<< shamt y) s

/-- SRL (R94). -/
def execSrl (d a b : GReg) (s : State) : Out := alu2 d a b (fun x y => x >>> shamt y) s

/-- SRA (R94). -/
def execSra (d a b : GReg) (s : State) : Out := alu2 d a b (fun x y => x.sshiftRight (shamt y)) s

/-- MUL (R94). -/
def execMul (d a b : GReg) (s : State) : Out := alu2 d a b (fun x y => x * y) s

/-- MULH (R94). -/
def execMulh (d a b : GReg) (s : State) : Out := alu2 d a b (fun x y => BitVec.ofInt 64 (x.toInt * y.toInt / 2 ^ 64)) s

/-- MULHN (R94). -/
def execMulhn (d a b : GReg) (s : State) : Out := alu2 d a b (fun x y => BitVec.ofNat 64 (x.toNat * y.toNat / 2 ^ 64)) s

/-- DIV (R94). -/
def execDiv (d a b : GReg) (s : State) : Out := alu2 d a b (fun x y => BitVec.ofNat 64 (i64.div x.toNat y.toNat).1) s

/-- DIVN (R94). -/
def execDivn (d a b : GReg) (s : State) : Out := alu2 d a b (fun x y => BitVec.ofNat 64 (n64.div x.toNat y.toNat).1) s

/-- REM (R94). -/
def execRem (d a b : GReg) (s : State) : Out := alu2 d a b (fun x y => BitVec.ofNat 64 (i64.rem x.toNat y.toNat)) s

/-- REMN (R94). -/
def execRemn (d a b : GReg) (s : State) : Out := alu2 d a b (fun x y => BitVec.ofNat 64 (n64.rem x.toNat y.toNat)) s

/-- SLT (R94). -/
def execSlt (d a b : GReg) (s : State) : Out := alu2 d a b (fun x y => boolW (x.slt y)) s

/-- SLTN (R94). -/
def execSltn (d a b : GReg) (s : State) : Out := alu2 d a b (fun x y => boolW (x.ult y)) s

/-- MIN (R94). -/
def execMin (d a b : GReg) (s : State) : Out := alu2 d a b (fun x y => if x.slt y then x else y) s

/-- MAX (R94). -/
def execMax (d a b : GReg) (s : State) : Out := alu2 d a b (fun x y => if x.slt y then y else x) s

/-- MINN (R94). -/
def execMinn (d a b : GReg) (s : State) : Out := alu2 d a b (fun x y => if x.ult y then x else y) s

/-- MAXN (R94). -/
def execMaxn (d a b : GReg) (s : State) : Out := alu2 d a b (fun x y => if x.ult y then y else x) s

/-- clz (R94). -/
def execClz (d a : GReg) (s : State) : Out := alu1 d a (fun x => BitVec.ofNat 64 (clzFrom x 64)) s

/-- ctz (R94). -/
def execCtz (d a : GReg) (s : State) : Out := alu1 d a (fun x => BitVec.ofNat 64 (ctzFrom x 64 0)) s

/-- popc (R94). -/
def execPopc (d a : GReg) (s : State) : Out := alu1 d a (fun x => BitVec.ofNat 64 (popCount x 64)) s

/-- extI8 (R94). -/
def execExtI8 (d a : GReg) (s : State) : Out := alu1 d a (fun x => sextN x.toNat 8) s

/-- extN8 (R94). -/
def execExtN8 (d a : GReg) (s : State) : Out := alu1 d a (fun x => BitVec.ofNat 64 (x.toNat % 2 ^ 8)) s

/-- extI16 (R94). -/
def execExtI16 (d a : GReg) (s : State) : Out := alu1 d a (fun x => sextN x.toNat 16) s

/-- extN16 (R94). -/
def execExtN16 (d a : GReg) (s : State) : Out := alu1 d a (fun x => BitVec.ofNat 64 (x.toNat % 2 ^ 16)) s

/-- extI32 (R94). -/
def execExtI32 (d a : GReg) (s : State) : Out := alu1 d a (fun x => sextN x.toNat 32) s

/-- extN32 (R94). -/
def execExtN32 (d a : GReg) (s : State) : Out := alu1 d a (fun x => BitVec.ofNat 64 (x.toNat % 2 ^ 32)) s

/-- ADDI (R95). -/
def execAddi (d a : GReg) (imm : BitVec 16) (s : State) : Out := alu1 d a (fun x => x + imm16 imm) s

/-- ANDI (R95). -/
def execAndi (d a : GReg) (imm : BitVec 16) (s : State) : Out := alu1 d a (fun x => x &&& imm16 imm) s

/-- ORI (R95). -/
def execOri (d a : GReg) (imm : BitVec 16) (s : State) : Out := alu1 d a (fun x => x ||| imm16 imm) s

/-- XORI (R95). -/
def execXori (d a : GReg) (imm : BitVec 16) (s : State) : Out := alu1 d a (fun x => x ^^^ imm16 imm) s

/-- SLTI (R95). -/
def execSlti (d a : GReg) (imm : BitVec 16) (s : State) : Out := alu1 d a (fun x => boolW (x.slt (imm16 imm))) s

/-- SLTNI (R95). -/
def execSltni (d a : GReg) (imm : BitVec 16) (s : State) : Out := alu1 d a (fun x => boolW (x.ult (imm16 imm))) s

/-- SLLI (R95). -/
def execSlli (d a : GReg) (sh : Fin 64) (s : State) : Out := alu1 d a (fun x => x <<< sh.val) s

/-- SRLI (R95). -/
def execSrli (d a : GReg) (sh : Fin 64) (s : State) : Out := alu1 d a (fun x => x >>> sh.val) s

/-- SRAI (R95). -/
def execSrai (d a : GReg) (sh : Fin 64) (s : State) : Out := alu1 d a (fun x => x.sshiftRight sh.val) s

/-- LUI (R95). -/
def execLui (d : GReg) (imm : BitVec 16) (s : State) : Out :=
  .next (s.issue [] [d] fun s => .done (s.gw d (imm16 imm * 65536)))

/-- ADDPC (R95). -/
def execAddpc (d : GReg) (imm : BitVec 16) (s : State) : Out :=
  .next (s.issue [] [d] fun s => .done (s.gw d (s.me.regs.pc.setWidth 64 + 4 + 4 * imm16 imm)))

/-- The effect of a skip whose operands are given (R30, R96): over `n` instructions, with `n` turns annulled. -/
def skipOn (c : Cond) (x y : Word) (n : Fin 4) (s : State) : Ends :=
  if c.holds x y then
    .jump (s.modMe fun th => { th with ann := n.val }) (s.me.regs.pc + 4 + BitVec.ofNat 56 (4 * n.val))
  else .done s

/-- SKIP_REG (R96). -/
def execSkipReg (cc : Cond) (a b : GReg) (n : Fin 4) (s : State) : Out :=
  .next (s.issue [a, b] [] fun s => skipOn cc (s.gr a) (s.gr b) n s)

/-- SKIP_IMM (R96). -/
def execSkipImm (cc : Cond) (a : GReg) (imm : BitVec 14) (n : Fin 4) (s : State) : Out :=
  .next (s.issue [a] [] fun s => skipOn cc (s.gr a) (imm.signExtend 64) n s)

/-- The target of a word offset from the next instruction (R97). -/
def relTarget (pc : BitVec 56) (w : Nat) (off : BitVec w) : BitVec 56 := pc + 4 + 4 * off.signExtend 56

/-- BR (R97). -/
def execBr (cc : Cond) (a : GReg) (off : BitVec 16) (s : State) : Out :=
  .next (s.issue [a] [] fun s =>
    if cc.holds (s.gr a) 0 then .jump s (relTarget s.me.regs.pc 16 off) else .done s)

/-- J (R97). -/
def execJ (off : BitVec 26) (s : State) : Out :=
  .next (s.issue [] [] fun s => .jump s (relTarget s.me.regs.pc 26 off))

/-- CALL (R97): the link goes to `g31`. -/
def execCall (off : BitVec 26) (s : State) : Out :=
  .next (s.issue [] [31] fun s =>
    .jump (s.gw 31 (s.me.regs.pc.setWidth 64 + 4)) (relTarget s.me.regs.pc 26 off))

/-- A register jump to `t` (R98, R99): the program counter has 56 bits (R34), and a target that is no address faults at its
fetch. -/
def jumpTo (s : State) (t : Word) : Ends := .jump (s.modMe fun th => { th with noAddr := 2 ^ 56 ≤ t.toNat }) (t.setWidth 56)

/-- JR (R99). -/
def execJr (a : GReg) (s : State) : Out :=
  .next (s.issue [a] [] fun s =>
    if (s.gr a).toNat % 4 ≠ 0 then .trap (.align (s.gr a)) else jumpTo s (s.gr a))

/-- CALLR (R99). -/
def execCallr (d a : GReg) (s : State) : Out :=
  .next (s.issue [a] [d] fun s =>
    if (s.gr a).toNat % 4 ≠ 0 then .trap (.align (s.gr a))
    else jumpTo (s.gw d (s.me.regs.pc.setWidth 64 + 4)) (s.gr a))

end Sys2Proof.Machine
end

