-- ==== Sys2Proof/Machine/Event.lean ====
section
/-!
DEFINITION. Events (R137-R162, R169, R170): names and offer blocks, `sync`, the event at its home, choice cells, timers,
overflow and quiescence.
-/

namespace Sys2Proof.Machine

/-! ### Offer blocks (R137, R141-R143, R146, R158) -/

def Alt.cls (a : Alt) : Nat := bits a.name 63 60
def Alt.scope (a : Alt) : Nat := bits a.name 59 56
def Alt.timer (a : Alt) : Bool := bits a.ctl 63 63 = 1
def ctlSize (c : Word) : Nat := bits c 62 54
def ctlOp (c : Word) : Nat := bits c 48 44
def ctlCount (c : Word) : Nat := bits c 39 20
def ctlIndex (c : Word) : Nat := bits c 19 0

/-- A combine operation that is not reserved and uses data (R142). -/
def opUses (op : Nat) : Bool := 1 ≤ op && op ≤ 16 && op != 7

/-- Whether a party's send buffer is read (R143). -/
def sends (ctl : Word) : Bool :=
  ctlSize ctl != 0 && opUses (ctlOp ctl) && (ctlOp ctl != 1 || ctlIndex ctl == 0)

/-- Bytes delivered to a party (R143). -/
def recvLen (ctl : Word) : Nat := 16 * ctlSize ctl * (if ctlOp ctl = 2 then ctlCount ctl else 1)

/-- The used buffers of an alternative: address and length (R143). -/
def Alt.buffers (a : Alt) : List (Word × Nat) :=
  (if sends a.ctl then [(a.send, 16 * ctlSize a.ctl)] else []) ++
    (if ctlSize a.ctl != 0 then [(a.recv, recvLen a.ctl)] else [])

/-- Check 3 of R146 on a name and CTL word under a number of levels, but for the names' being distinct. -/
def eventBad (levels : Nat) (name ctl : Word) : Bool :=
  let cls := bits name 63 60
  let scope := bits name 59 56
  let timer := bits ctl 63 63 = 1
  let op := ctlOp ctl
  let size := ctlSize ctl
  !(cls == 0 || cls == 3 || cls == 4 || cls == 5) || levels ≤ scope || 8 ≤ scope ||
    !(op == 0 || opUses op) || bits ctl 53 49 != 0 || bits ctl 43 40 != 0 ||
    ctlCount ctl == 0 || ctlCount ctl ≤ ctlIndex ctl || 256 < size || (size != 0 && op == 0) ||
    (op == 2 && 256 < ctlCount ctl * size) || timer != (cls == 5) ||
    (timer && (scope != 0 || ctlIndex ctl != 0 || ctlCount ctl != 1 || op != 0 || size != 0))

/-- Two alternatives name one event, which only timers may (R146, R158). -/
def sameEvents : List Alt → Bool
  | [] => false
  | a :: t => (!a.timer && t.any fun b => !b.timer && b.name == a.name) || sameEvents t

/-- Declared levels of a thread's kernel; the firmware's kernel has one (R311). -/
def State.levelsOf (s : State) (p slot : Nat) : Nat :=
  if isSetter p then 1
  else match s.kernel slot with
    | some k => k.levels
    | none => 0

/-- Alternative `k` of an offer block (R141). -/
def readAlt (c : Core) (blk k : Nat) : Alt :=
  let w (i : Nat) : Word := BitVec.ofNat 64 (c.dread (blk + 32 * k + 8 * i) 8)
  ⟨w 0, w 1, w 2, w 3⟩

/-- SYNC (R145, R146): the checks, then the cell is OPEN and the wait begins. -/
def execSync (d a : GReg) (n : Fin 8) (s : State) : Out :=
  .next (s.issue [a] [d] fun s =>
    let blk := s.gr a
    let lim := s.myCore.dirLimit
    if blk.toNat % 32 ≠ 0 then .trap (.align blk)
    else if lim < blk.toNat + 32 * n then .trap (.access blk)
    else
      let alts := (List.range n).map fun k => readAlt s.myCore blk.toNat k
      let bufs := alts.flatMap Alt.buffers
      match bufs.find? fun b => b.1.toNat % 16 != 0 with
      | some b => .trap (.align b.1)
      | none =>
        match bufs.find? fun b => lim < b.1.toNat + b.2 with
        | some b => .trap (.access b.1)
        | none =>
          if alts.any (fun x => eventBad (s.levelsOf s.cur.core s.me.slot) x.name x.ctl) || sameEvents alts then .trap .event
          else match (List.range alts.length).zip alts |>.find? fun x => x.2.timer && bits x.2.name 55 0 = 0 with
            | some (k, x) =>
              -- a timer without delay makes its claim at issue, which no other can come before: it commits at once (R158)
              .done ((s.modMe fun th => { th.raise th.rt with
                ev := ⟨k, x.name, (s.die (dieOf s.cur.core)).time⟩, cell := { seq := th.cell.seq + 1, base := th.cell.base } }).gw d (BitVec.ofNat 64 k))
            | none =>
              let s' := s.modMe fun th => { th with cell :=
                { st := .opened, seq := th.cell.seq + 1, base := th.cell.base, cyc := s.myCore.cyc, age := s.panelTime (dieOf s.cur.core) } }
              .wait s' (.sync d alts false))

/-! ### Messages between homes and cells -/

/-- Where a party of an event stands: a Setter core's thread belongs to the firmware's context 64; thread g of pod member m, a
party of a pod-scope event, is numbered 2^19 (m + 1) + g (R140). -/
def partyEndp (key : EvKey) (gtn : Nat) : Endp :=
  if key.ctx = 64 then .setter (key.inst - setterBase)
  else if 2 ^ 19 ≤ gtn then .pod (gtn / 2 ^ 19 - 1)
  else .core (gtn / 16)

/-- Homes by number: a Bugle of this Vorter, or from 2,304 on a pod member that is event host. -/
def homeEndp (h : Nat) : Endp := if h < 2304 then .bugle h else .pod (h - 2304)

/-- The number of the home that a message comes from. -/
def Endp.home : Endp → Option Nat
  | .bugle h => some h
  | .pod m => some (2304 + m)
  | _ => none

def State.partyAt (s : State) (key : EvKey) (gtn : Nat) : Option (Nat × Nat) :=
  if key.ctx = 64 then some (key.inst, gtn) else s.whereIs gtn

/-- A message from a home to a party. -/
def State.toParty (s : State) (h : Nat) (key : EvKey) (gtn : Nat) (b : Body) : State :=
  s.send .event (.bugle h) (partyEndp key gtn) key.ctx b

/-- A message from a party to a home. -/
def State.toHome (s : State) (h : Nat) (key : EvKey) (gtn : Nat) (b : Body) : State :=
  s.send .event (partyEndp key gtn) (homeEndp h) key.ctx b

def Offer.gtn (o : Offer) : Option Nat :=
  match o.who with
  | .thread g _ => some g
  | .engine => none

/-! ### The overflow area (R159, R160) -/

/-- The `sync` sequence of a thread's offer. -/
def Offer.seq (o : Offer) : Option (BitVec 8) :=
  match o.who with
  | .thread _ q => some q
  | .engine => none

/-- Slots in use of a context's overflow area at a base. -/
def State.spilled (s : State) (ctx base : Nat) : List Nat :=
  s.bugles.flatMap fun e => e.2.offers.filterMap fun o => if o.key.ctx = ctx && o.base == base then o.spill else none

/-- Slots that a context's area has: R159 gives none below OVFL = 128. -/
def State.slotCount (s : State) (ctx : Nat) : Nat :=
  let l := (s.descWord ctx 4).toNat
  if l < 128 then 0 else (l - 64) / 64

/-- The 64 bytes of a slot; `v` is its V bit. -/
def Offer.slotBytes (o : Offer) (h age : Nat) (v : Bool) : Nat :=
  let who := match o.who with
    | .thread g q => v.toNat * 2 ^ 31 + o.queued.toNat * 2 ^ 30 + q.toNat * 2 ^ 19 + g % 2 ^ 19
    | .engine => v.toNat * 2 ^ 31 + o.queued.toNat * 2 ^ 30 + 2 ^ 29
  o.key.name.toNat + o.ctl.toNat * 2 ^ 64 + o.rt.toNat * 2 ^ 128 + who * 2 ^ 192 + h * 2 ^ 224 +
    age * 2 ^ 256 + o.key.inst * 2 ^ 320

/-- The requester of a Bugle's misses on overflow areas. -/
def ovfWho (h : Nat) : MissWho := .kennel (2 ^ 43 + h)

/-- The fill has answered a Bugle's miss on an overflow area with NONE. -/
def State.ovfNone (s : State) (h : Nat) : Bool := s.misses.any fun m => m.who == ovfWho h && m.none'

/-- Writes an offer's slot and USED, if it has one; none while no level holds the area's translation. A page that the fill has not
found takes nothing (DESIGN CHOICE, log 13). The slots are written and never read: what the context's own threads or the host write into the
area changes none of its events (DESIGN CHOICE, log 69: R160 leaves open which it changes, and how). -/
def State.putSlot (s : State) (h age : Nat) (v : Bool) (o : Offer) : Option State :=
  match o.spill with
  | none => some s
  | some n =>
    let used := (s.spilled o.key.ctx o.base).length
    match s.rawWrite o.key.ctx (o.base + 64 + 64 * n) 64 (o.slotBytes h age v) with
    | none => if s.ovfNone h then some s else none
    | some s => match s.rawWrite o.key.ctx o.base 8 used with
      | none => if s.ovfNone h then some s else none
      | some s => some s

/-- A step of a Bugle that needs an overflow area's translation asks for it, as a spill frame's access does (R160, R310): the first page of
the area's header and slots, as far as they are in use or next, that no level holds. -/
def State.ovfWait (s : State) (h ctx : Nat) : State :=
  let b := (s.descWord ctx 3).toNat
  let news : List Nat := match (List.range (s.slotCount ctx)).find? fun n => !(s.spilled ctx b).contains n with
    | some n => [b, b + 64 + 64 * n]
    | none => []
  let olds := (s.bugle h).offers.flatMap fun o => match o.spill with
    | some n => if o.key.ctx = ctx then [o.base, o.base + 64 + 64 * n] else []
    | none => []
  match (olds ++ news).find? fun va => (s.anyTlb ctx va).isNone with
  | some va => s.addMiss (ovfWho h) ctx (h / 32 * 16) 256 (BitVec.ofNat 64 va) 3 0 0
  | none => s

/-- A Bugle's step has been done, or it waits for an overflow area's translation. -/
def State.orOvf (s : State) (h ctx : Nat) (r : Option State) : State :=
  match r with
  | some s => { s with misses := s.misses.filter fun m => !(m.who == ovfWho h && m.none') }
  | none => s.ovfWait h ctx

/-- Writes the slots of several offers. -/
def State.putSlots (h age : Nat) (v : Bool) : List Offer → State → Option State
  | [], s => some s
  | o :: os, s => (s.putSlot h age v o).bind (State.putSlots h age v os)

/-! ### The event at its home (R147, R150-R152) -/

def Bugle.ev (b : Bugle) (k : EvKey) : Option HomeEv := b.evs.find? fun e => e.key == k
def Bugle.put (b : Bugle) (e : HomeEv) : Bugle := { b with evs := e :: b.evs.filter fun x => x.key != e.key }
def Bugle.gone (b : Bugle) (k : EvKey) : Bugle := { b with evs := b.evs.filter fun x => x.key != k }
def Bugle.of (b : Bugle) (k : EvKey) : List Offer := b.offers.filter fun o => o.key == k
def Bugle.standing (b : Bugle) (k : EvKey) : List Offer := (b.of k).filter fun o => !o.queued
/-- Offers held in the Bugle itself (R159). -/
def Bugle.held (b : Bugle) : Nat := (b.offers.filter fun o => o.spill.isNone).length

/-- The place of a party in the order of claims (R150): its global thread number (R6), which a thread of another pod member bears in
its own Vorter; between members of one number, the member's (DEDUCED, log 67). -/
def claimKey (g : Nat) : Nat := g % 2 ^ 19 * 2 ^ 11 + (if g < 2 ^ 19 then Config.member else g / 2 ^ 19 - 1)

/-- Inserts a party in the order of claims. -/
def insertAsc (g : Nat) : List Nat → List Nat
  | [] => [g]
  | x :: t => if g = x || (g < 2 ^ 19 && x < 2 ^ 19 && g ≤ x) || (!(g < 2 ^ 19 && x < 2 ^ 19) && claimKey g ≤ claimKey x) then g :: x :: t
    else x :: insertAsc g t

def sortAsc (l : List Nat) : List Nat := l.foldr insertAsc []

/-- Puts an event at a home. -/
def State.putEv (s : State) (h : Nat) (e : HomeEv) : State := s.setBugle h ((s.bugle h).put e)

/-- Releases grants (R150). -/
def State.releaseAll (s : State) (h : Nat) (key : EvKey) (gs : List Nat) : State :=
  gs.foldl (fun s g => s.toParty h key g (.release key g)) s

/-- A claim attempt is given up: every grant is released and the event is GATHERING (R147, R150). -/
def State.giveUp (s : State) (h : Nat) (e : HomeEv) : State :=
  match e.st with
  | .claiming granted _ => (s.releaseAll h e.key granted).putEv h { e with st := .gathering }
  | _ => s

/-- Sends the next claim (R150). -/
def State.sendClaim (s : State) (h : Nat) (e : HomeEv) (g : Nat) : State :=
  let seq := ((((s.bugle h).standing e.key).find? fun o => o.gtn == some g).bind Offer.seq).getD 0
  s.toParty h e.key g (.claim ⟨e.key, e.age, some h, 0⟩ g seq)

/-- The first of each index among queued offers stand, when nothing else holds the index (R152). -/
def promote (os : List Offer) (k : EvKey) : List Offer :=
  os.foldl (fun acc o =>
    if o.key == k && o.queued && !(os.any fun x => x.key == k && !x.queued && x.index == o.index) &&
        !(acc.any fun x => x.key == k && !x.queued && x.index == o.index)
    then acc ++ [{ o with queued := false }] else acc ++ [o]) []

/-- Promotes queued offers, and writes the slots of the event's spilled offers afresh: those promoted, and the event's age (R160). -/
def State.promoteAt (s : State) (h : Nat) (e : HomeEv) : Option State :=
  let b := s.bugle h
  let s' := s.setBugle h { b with offers := promote b.offers e.key }
  State.putSlots h e.age true ((s'.bugle h).of e.key) s'

/-- Sends commits to the claimed cells, and takes the offers used out of the Bugle (R147, R150). -/
def State.occur (s : State) (h : Nat) (e : HomeEv) : Option State :=
  let b := s.bugle h
  let ps := b.standing e.key
  let gs := sortAsc (ps.filterMap Offer.gtn)
  let engine := ps.filterMap fun o => if o.gtn.isNone && sends o.ctl then some (o.index, o.data) else none
  let s := s.setBugle h { b with offers := b.offers.filter fun o => !(o.key == e.key && !o.queued) }
  match State.putSlots h e.age false ps s with
  | none => none
  | some s =>
    let s := s.putEv h { e with st := .occurring ps engine gs gs }
    some (ps.foldl (fun s o => match o.gtn with
      | some g => s.toParty h e.key g (.commit e.key g o.index o.ctl [])
      | none => s) s)

/-- An occurrence is over (R147): queued offers begin the next one, the age being the oldest of them, or the event is ABSENT. -/
def State.nextRound (s : State) (h : Nat) (e : HomeEv) : Option State :=
  match (s.bugle h).of e.key with
  | [] => some (s.setBugle h ((s.bugle h).gone e.key))
  | o :: os =>
    let e := { e with st := .gathering, age := os.foldl (fun a x => min a x.at') o.at' }
    (s.putEv h e).promoteAt h e

/-- Every party index of an event has a standing offer. -/
def Bugle.complete (b : Bugle) (key : EvKey) : Bool :=
  let ps := b.standing key
  ps.length != 0 && ps.all fun o => ctlCount o.ctl == ps.length

/-- An event whose every party index has a standing offer begins to claim (R147). One without thread parties has nothing to claim, deliver
or acknowledge: it occurs, and its queued offers begin the next occurrence; `fuel` bounds how many follow. -/
def State.claimFrom : Nat → State → Nat → EvKey → Option State
  | 0, s, _, _ => some s
  | fuel + 1, s, h, key =>
    match (s.bugle h).ev key with
    | none => some s
    | some e =>
      if e.st = .gathering && (s.bugle h).complete key then
        match sortAsc (((s.bugle h).standing key).filterMap Offer.gtn) with
        | [] => ((s.occur h e).bind fun s => s.nextRound h e).bind fun s => State.claimFrom fuel s h key
        | g :: gs => some ((s.putEv h { e with st := .claiming [] (g :: gs) }).sendClaim h e g)
      else some s

def State.tryClaim (s : State) (h : Nat) (key : EvKey) : Option State :=
  State.claimFrom ((s.bugle h).offers.length + 1) s h key

/-- An occurrence is over, and what queued offers begin may claim at once. -/
def State.endOccur (s : State) (h : Nat) (e : HomeEv) : Option State :=
  (s.nextRound h e).bind fun s => s.tryClaim h e.key

/-- Takes an offer away from its home (R151, R160): the attempt is given up when its party is not yet claimed. A queued offer of the
index stands from then on (DEDUCED, log 67: R152 queues it for the event's next occurrence, and with the earlier offer gone the next
occurrence is the one that gathers). -/
def State.removeOffer (s : State) (h : Nat) (o : Offer) : Option State :=
  let b := s.bugle h
  match b.ev o.key with
  | none => some s
  | some e =>
    let s := if o.queued then s else s.giveUp h e
    let b := s.bugle h
    let s := s.setBugle h { b with offers := b.offers.filter fun x => x != o }
    match s.putSlot h e.age false o with
    | none => none
    | some s =>
      if ((s.bugle h).of o.key).isEmpty then
        match e.st with
        | .occurring _ _ _ _ => some s
        | _ => some (s.setBugle h ((s.bugle h).gone o.key))
      else match e.st with
        | .occurring _ _ _ _ => some s
        | _ => (s.promoteAt h e).bind fun s => s.tryClaim h o.key

/-! ### The choice cell (R148, R151, R157, R158) -/

/-- Denies every claim in a cell's queue; a timer's own claim just goes (R148). -/
def State.denyQueue (s : State) (p t : Nat) : State :=
  let th := s.thread p t
  let s := th.cell.queue.foldl (fun s c => match c.home with
    | some h => s.toHome h c.key (s.gtn p t) (.deny c.key (s.gtn p t) th.cell.seq)
    | none => s) s
  s.modThread p t fun th => { th with cell := { th.cell with queue := [] } }

/-- The cell is IDLE; its sequence stays. -/
def State.idleCell (s : State) (p t : Nat) : State :=
  s.modThread p t fun th => { th with cell := { seq := th.cell.seq, base := th.cell.base } }

/-- A trap ends the sync wait of a cell that no home holds (R146): offers withdrawn, queue denied, cell IDLE, trap taken. -/
def State.failSync (s : State) (p t : Nat) (tr : Trap) : State :=
  let s := ((s.withdraw p t none).denyQueue p t).idleCell p t
  s.trapThread p t (s.thread p t).latch.word tr

/-- A trap that is to end a sync wait (R146 step 5): at once on an OPEN cell, pending on a CLAIMED one. -/
def State.syncTrap (s : State) (p t : Nat) (seq : BitVec 8) (kind : Nat) : State :=
  let th := s.thread p t
  if th.cell.seq = seq then
    match th.cell.st with
    | .opened => s.failSync p t { kind := kind }
    | .claimed => s.setThread p t { th with cell := { th.cell with trap := th.cell.trap.or (some (kind, 0)) } }
    | _ => s
  else s

/-- Traps the threads of some offers of an event at its home (R159, R162). A fault record among them, standing or new, is gone: its LATCHED thread
gets neither EVENT nor another record (DESIGN CHOICE, log 69: R162 speaks of threads' `sync` offers alone). -/
def State.trapOffers (s : State) (h kind : Nat) (os : List Offer) : State :=
  os.foldl (fun s o => match o.who with
    | .thread g seq => match s.partyAt o.key g with
      | some (p, t) => s.syncTrap p t seq kind
      | none => if 2 ^ 19 ≤ g then s.toParty h o.key g (.trapped o.key g seq kind) else s
    | .engine => s) s

/-- The alternative of a waiting `sync` that names an event (R138). -/
def State.altOf (s : State) (p t : Nat) (key : EvKey) : Option (Nat × Alt) :=
  match (s.thread p t).wait with
  | .sync _ alts _ =>
    ((List.range alts.length).filterMap fun k => alts[k]?.map fun a => (k, a)).find? fun x =>
      !x.2.timer && s.evKey p t x.2.name == key
  | _ => none

/-- A `sync` completes with alternative `k` (R145): `ptime`, `gD`, what `evinfo` reports; the cell is IDLE. -/
def State.finishSync (s : State) (p t k : Nat) (name rt : Word) : State :=
  match (s.thread p t).wait with
  | .sync d _ _ =>
    let now := (s.die (dieOf p)).time
    let s := s.modThread p t fun th => { th.raise rt with ev := ⟨k, name, now⟩, cell := { seq := th.cell.seq, base := th.cell.base } }
    ((s.take p t).gw d (BitVec.ofNat 64 k)).complete p t
  | _ => s

/-- The cell commits (R148, R151): its queue is denied, the other offers are withdrawn, a pending trap is dropped. -/
def State.commitCell (s : State) (p t : Nat) (k : Nat) : State :=
  let s := (s.withdraw p t (some k)).denyQueue p t
  s.modThread p t fun th => { th with cell := { th.cell with st := .committed, trap := none } }

/-- A timer's claim is granted and commits at once (R158). -/
def State.timerCommit (s : State) (p t k : Nat) : State :=
  match (s.thread p t).wait with
  | .sync _ alts _ =>
    let name := (alts[k]?.map Alt.name).getD 0
    (s.commitCell p t k).finishSync p t k name (s.thread p t).rt
  | _ => s

/-- A claim is granted (R148). -/
def State.grantCell (s : State) (p t : Nat) (c : Claim) : State :=
  match c.home with
  | none => s.timerCommit p t c.alt
  | some h =>
    let s := s.modThread p t fun th => { th with cell := { th.cell with st := .claimed, holder := some c } }
    s.toHome h c.key (s.gtn p t) (.grant c.key (s.gtn p t))

/-- The order of a cell's queue (R148): age, name, context, alternative. -/
def Claim.before (a b : Claim) : Bool :=
  if a.age ≠ b.age then a.age < b.age
  else if a.key.name ≠ b.key.name then a.key.name.toNat < b.key.name.toNat
  else if a.key.ctx ≠ b.key.ctx then a.key.ctx < b.key.ctx
  else a.alt < b.alt

def oldest : List Claim → Option Claim
  | [] => none
  | c :: cs => match oldest cs with
    | none => some c
    | some d => if d.before c then some d else some c

/-- A claim reaches a cell (R148). -/
def State.claimCell (s : State) (p t : Nat) (c : Claim) (seq : BitVec 8) : State :=
  let th := s.thread p t
  let deny := match c.home with
    | some h => s.toHome h c.key (s.gtn p t) (.deny c.key (s.gtn p t) seq)
    | none => s
  if th.cell.seq = seq then
    match th.cell.st with
    | .opened => s.grantCell p t c
    | .claimed => s.setThread p t { th with cell := { th.cell with queue := th.cell.queue ++ [c] } }
    | _ => deny
  else deny

/-- A home releases its grant (R148, R157). -/
def State.releaseCell (s : State) (p t : Nat) : State :=
  let s := s.modThread p t fun th => { th with cell := { th.cell with st := .opened, holder := none } }
  let th := s.thread p t
  if th.cell.leaving then ((s.denyQueue p t).idleCell p t).leave p t
  else match th.cell.trap with
    | some (k, a) => s.failSync p t { kind := k, cause := a }
    | none => match oldest th.cell.queue with
      | none => s
      | some c =>
        (s.modThread p t fun th => { th with cell := { th.cell with queue := th.cell.queue.erase c } }).grantCell p t c

/-! ### Combining data (R142, R52) -/

/-- One float pair is summed at a time, the pair chosen by a free code (R52). -/
def sumPairs : Nat → Nat → List Nat → Nat
  | 0, _, xs => xs.headD 0
  | n + 1, code, xs =>
    if xs.length ≤ 1 then xs.headD 0
    else
      let i := code % xs.length
      let rest := xs.eraseIdx i
      let j := code / xs.length % rest.length
      sumPairs n (code / xs.length / rest.length) ((Fmt.f32.add (xs.getD i 0) (rest.getD j 0)).1 :: rest.eraseIdx j)

/-- Element width in bits and combine of an operation but `add.f32` (R142, R52). -/
def combineOp (op : Nat) : Nat × (Nat → Nat → Nat) :=
  let i32 : IFmt := ⟨32, true⟩
  let i64 : IFmt := ⟨64, true⟩
  let pick (isMax : Bool) (t : IFmt) (x y : Nat) : Nat :=
    if isMax then (if t.value x < t.value y then y else x) else (if t.value y < t.value x then y else x)
  match op with
  | 3 => (64, fun x y => x &&& y)
  | 4 => (64, fun x y => x ||| y)
  | 5 => (64, fun x y => x ^^^ y)
  | 6 => (32, fun x y => min (x + y) 0xFFFFFFFF)
  | 8 => (32, fun x y => (x + y) % 2 ^ 32)
  | 9 => (64, fun x y => (x + y) % 2 ^ 64)
  | 11 => (32, pick true i32)
  | 12 => (64, pick true i64)
  | 13 => (32, fun x y => (Fmt.f32.maxmin true x y).1)
  | 14 => (32, pick false i32)
  | 15 => (64, pick false i64)
  | _ => (32, fun x y => (Fmt.f32.maxmin false x y).1)

/-- The data delivered (R142): the parties' data in ascending index, each `size` units of 16 bytes. -/
def combined (order : Nat → Nat) (op size : Nat) (xs : List Nat) : Nat :=
  match op with
  | 0 => 0
  | 1 => xs.headD 0
  | 2 => xs.foldr (fun x acc => acc * 2 ^ (128 * size) + x % 2 ^ (128 * size)) 0
  | _ =>
    let w := if op = 10 then 32 else (combineOp op).1
    let n := 128 * size / w
    (List.range n).foldr (fun i acc =>
      let es := xs.map fun x => x / 2 ^ (w * i) % 2 ^ w
      let r := if op = 10 then sumPairs es.length (order i) es
        else match es with
          | [] => 0
          | e :: es => es.foldl (combineOp op).2 e
      acc * 2 ^ w + r) 0

/-- The parties' data in ascending party index. -/
def dataByIndex (count : Nat) (data : List (Nat × Nat)) : List Nat :=
  (List.range count).filterMap fun i => (data.find? fun d => d.1 == i).map Prod.snd

/-! ### The machine's event steps -/

/-- Whether a pending JOURNAL is among a thread's asynchronous traps, the oldest first (R332). -/
def Thread.journalTrap (th : Thread) : Option ATrap := th.traps.find? fun a => a.kind == 7

/-- A JOURNAL trap as R249 and R330 lay it out. -/
def ATrap.asJournal (a : ATrap) : Trap :=
  { kind := 7, cause := a.entry * 16 + a.cause, addr := a.addr, detail := a.detail.toNat, noWord := true, w := a.width }

/-- SYNC_OFFERS_SENT (R145): earlier posted stores are settled; a pending JOURNAL is taken, otherwise the offers leave. -/
def execSyncOffersSent (core thr : Nat) (s : State) : Out :=
  .next (
    let th := s.thread core thr
    match th.wait with
    | .sync d alts false =>
      if (s.core core).settled thr then
        match th.journalTrap with
        | some a =>
          let s := (s.setThread core thr { th with traps := th.traps.erase a }).idleCell core thr
          s.trapThread core thr th.latch.word a.asJournal
        | none =>
          let s := s.setThread core thr { th with wait := .sync d alts true }
          alts.foldl (fun s x =>
            if x.timer then s
            else
              let key := s.evKey core thr x.name
              s.send .event (s.endpOf core) (s.homeOf th.slot core thr key) key.ctx
                (.offer { key := key, index := ctlIndex x.ctl, ctl := x.ctl, rt := th.rt,
                          who := .thread (s.gtn core thr) th.cell.seq })) s
      else s
    | _ => s)

/-- Event overflow is host-assisted (R327): by the function mode that the offering thread's kernel was admitted with, or the context's
for an engine (R325). -/
def State.hostOverflow (s : State) (o : Offer) : Bool :=
  let k : Option Kernel := match o.gtn with
    | some g => match s.partyAt o.key g with
      | some (p, t) => s.kernel (s.thread p t).slot
      | none => none
    | none => none
  match k with
  | some k => if k.ctx = o.key.ctx then bits k.fmode 3 3 = 1 else s.fmodeOf o.key.ctx / 8 % 2 = 1
  | none => s.fmodeOf o.key.ctx / 8 % 2 = 1

/-- An offer is stored at its home (R147, R151, R152, R159, R162). None: it waits, for the overflow area's translation or for room. -/
def State.takeOffer (s : State) (h : Nat) (o : Offer) : Option State :=
  let b := s.bugle h
  let mine := b.of o.key
  if mine.any fun x => bits x.ctl 62 20 != bits o.ctl 62 20 then
    -- R162: the new offer is not stored, the event is ABSENT
    let s := match b.ev o.key with
      | some e => match e.st with
        | .occurring _ _ _ _ => s
        | _ => let s := s.giveUp h e; s.setBugle h ((s.bugle h).gone o.key)
      | none => s
    let b := s.bugle h
    let s := s.setBugle h { b with offers := b.offers.filter fun x => x.key != o.key }
    (State.putSlots h 0 false mine s).map fun s => s.trapOffers h 8 (mine ++ [o])
  else
    let old := mine.find? fun x => match x.who, o.who with
      | .thread g q, .thread g' q' => g == g' && q != q'
      | _, _ => false
    match (match old with | some x => s.removeOffer h x | none => some s) with
    | none => none
    | some s =>
      let b := s.bugle h
      let o := { o with at' := s.panelTime (h / 32) }
      let ev := b.ev o.key
      let busy := match ev with
        | some e => match e.st with
          | .occurring _ _ _ _ => true
          | _ => false
        | none => false
      let o := { o with queued := busy || (b.standing o.key).any fun x => x.index == o.index }
      let e : HomeEv := match ev with
        | some e => e
        | none => ⟨o.key, o.at', .gathering⟩
      let base := (s.descWord o.key.ctx 3).toNat
      let store (s : State) (o : Offer) : Option State :=
        let b := s.bugle h
        let s := (s.setBugle h { b with offers := b.offers ++ [o] }).putEv h e
        (s.putSlot h e.age true o).bind fun s => s.tryClaim h o.key
      if b.held < 4096 then store s o
      else
        let used := s.spilled o.key.ctx base
        match (if s.ovfNone h then none else (List.range (s.slotCount o.key.ctx)).find? fun n => !used.contains n) with
        | some n =>
          (store s { o with spill := some n, base := base }).map fun s =>
            if s.hostOverflow o then s.toHost o.key.ctx (plainRecord 19 (o.gtn.getD 0) 0 0 0 (64 * (used.length + 1)))
            else s
        -- an engine's or Kennel's offer has no `sync` to end: it waits for room (DESIGN CHOICE, log 67)
        | none => if o.gtn.isSome then some (s.trapOffers h 9 [o]) else none

/-- The threads that an offer's arrival may trap stand on cores that are not being moved (R156). -/
def State.settledOffer (s : State) (h : Nat) (o : Offer) : Bool :=
  (o :: (s.bugle h).of o.key).all fun x => match x.gtn with
    | some g => match s.partyAt x.key g with
      | some (p, _) => (s.core p).moveTo.isNone
      | none => true
    | none => true

/-- An earlier fault record of the same context and service is still on its way: records reach their service in the order in which they
were made, whichever of its events they go to (R232, R328). -/
def State.recordBefore (s : State) (k : Nat) (o : Offer) : Bool :=
  o.fault.isSome && (s.net.take k).any fun m => match m.body with
    | .offer x => x.fault == o.fault
    | _ => false

/-- OFFER_ARRIVAL (R147): message `k` is an offer that has reached its home. -/
def execOfferArrival (k : Nat) (s : State) : Out :=
  .next (match s.arrived k with
    | some ⟨_, _, .bugle h, _, _, _, _, _, _, _, _, _, .offer o⟩ =>
      if s.settledOffer h o && !s.recordBefore k o then s.orOvf h o.key.ctx ((s.drop k).takeOffer h o) else s
    | _ => s)

/-- OVERFLOW_SLOT_RETURN (R160): the home of a context's slot takes its offer back as it has room. -/
def execOverflowSlotReturn (ctx slot : Nat) (s : State) : Out :=
  .next (match s.bugles.find? fun e => e.2.offers.any fun o => o.key.ctx == ctx && o.spill == some slot with
    | some (h, b) =>
      match b.offers.find? fun o => o.key.ctx == ctx && o.spill == some slot with
      | some o =>
        if b.held < 4096 then
          let s' := s.setBugle h { b with offers := b.offers.map fun x => if x = o then { x with spill := none } else x }
          s.orOvf h ctx (s'.putSlot h ((b.ev o.key).map HomeEv.age |>.getD 0) false o)
        else s
      | none => s
    | none => s)

/-- CLAIM_ARRIVAL (R148). -/
def execClaimArrival (k : Nat) (s : State) : Out :=
  .next (match s.arrived k with
    | some ⟨_, _, _, _, _, _, _, _, _, _, _, _, .claim c gtn seq⟩ =>
      match s.partyAt c.key gtn with
      | some (p, t) =>
        let alt := ((s.altOf p t c.key).map Prod.fst).getD 0
        (s.drop k).claimCell p t { c with alt := alt } seq
      | none => s
    | _ => s)

/-- CLAIM_GRANT (R150): the next claim, or the commits; a grant to an attempt given up is released. -/
def execClaimGrant (k : Nat) (s : State) : Out :=
  .next (match s.arrived k with
    | some ⟨_, _, .bugle h, _, _, _, _, _, _, _, _, _, .grant key gtn⟩ =>
      let s' := s.drop k
      match (s'.bugle h).ev key with
      | some e =>
        match e.st with
        | .claiming granted (g :: rest) =>
          if g = gtn then
            match rest with
            | [] => s.orOvf h key.ctx (s'.occur h e)
            | g' :: _ => (s'.putEv h { e with st := .claiming (granted ++ [g]) rest }).sendClaim h e g'
          else s'.toParty h key gtn (.release key gtn)
        | _ => s'.toParty h key gtn (.release key gtn)
      | none => s'.toParty h key gtn (.release key gtn)
    | _ => s)

/-- CLAIM_DENIAL (R150): the attempt is given up. A denial that answers a claim on an earlier `sync` of the thread, whose offer stands
no more, concerns no attempt under way. -/
def execClaimDenial (k : Nat) (s : State) : Out :=
  .next (match s.arrived k with
    | some ⟨_, _, .bugle h, _, _, _, _, _, _, _, _, _, .deny key gtn seq⟩ =>
      let s' := s.drop k
      match (s'.bugle h).ev key with
      | some e => match e.st with
        | .claiming _ (g :: _) =>
          if g = gtn && ((s'.bugle h).standing key).any (fun o => o.who == .thread gtn seq) then s'.giveUp h e else s'
        | _ => s'
      | none => s'
    | _ => s)

/-- Sends every party its delivery once the last commit has handed its data over (R144). -/
def State.deliverAll (s : State) (h : Nat) (key : EvKey) : State :=
  match (s.bugle h).ev key with
  | some e => match e.st with
    | .occurring ps data [] _ =>
      let ctl := (ps.head?.map Offer.ctl).getD 0
      let rt := ps.foldl (fun a o => maxW a o.rt) 0
      let v := combined (Config.sumOrder s.tick) (ctlOp ctl) (ctlSize ctl) (dataByIndex (ctlCount ctl) data)
      ps.foldl (fun s o => match o.gtn with
        | some g => s.toParty h key g (.delivery key g o.ctl v rt [])
        | none => s) s
    | _ => s
  | none => s

/-- A party's send data reaches the home with its commit's end (R144, R147). -/
def State.homeData (s : State) (h : Nat) (key : EvKey) (gtn index data : Nat) : State :=
  match (s.bugle h).ev key with
  | some e => match e.st with
    | .occurring ps xs todo acks =>
      let used := ps.any fun o => o.index == index && sends o.ctl
      let xs := if used then xs ++ [(index, data)] else xs
      (s.putEv h { e with st := .occurring ps xs (todo.erase gtn) acks }).deliverAll h key
    | _ => s
  | none => s

/-- Message `k` carries on with another body. -/
def State.rebody (s : State) (k : Nat) (b : Body) : State :=
  match s.net[k]? with
  | some m => { s with net := s.net.set k { m with body := b } }
  | none => s

/-- Numbers of a buffer's 8-byte units that are not among `have'` nor in `skip`. -/
def unitsLeft (n : Nat) (have' skip : List Nat) : List Nat :=
  (List.range (n / 8)).filter fun i => !have'.contains i && !skip.contains i

/-- COMMIT_ARRIVAL (R144, R148, R151, R157): the used send buffer is read, its 8-byte units numbered in `skip` at a later step, and with
the last of them the cell is COMMITTED. -/
def execCommitArrival : Portion → State → Out
  | ⟨k, skip⟩, s => .next (match s.arrived k with
    | some ⟨_, src, _, _, _, _, _, _, _, _, _, _, .commit key gtn index ctl old⟩ =>
      match s.partyAt key gtn with
      | some (p, t) =>
        let alt := s.altOf p t key
        let n := 16 * ctlSize ctl
        let got := match alt with
          | some (_, a) => (unitsLeft n (old.map Prod.fst) skip).foldl (fun g i => tset g i ((s.core p).dread (a.send.toNat + 8 * i) 8)) old
          | none => old
        if alt.isSome && got.length < n / 8 then s.rebody k (.commit key gtn index ctl got)
        else
          let s' := s.drop k
          let x := (List.range (n / 8)).foldr (fun i acc => acc * 2 ^ 64 + tget 0 got i) 0
          let leaving := (s'.thread p t).cell.leaving
          let s' := s'.commitCell p t ((alt.map Prod.fst).getD 0)
          let s' := if leaving then
              ((s'.modThread p t fun th => { th with cell := { seq := th.cell.seq, base := th.cell.base } }).modThread p t fun th =>
                { th with wait := .none }).leave p t
            else s'
          match src with
          | .bugle h => s'.homeData h key gtn index x
          | .pod m => s'.toHome (2304 + m) key gtn (.sendData key gtn index x)
          | _ => s'
      | none => s
    | _ => s)

/-- GRANT_RELEASE_ARRIVAL (R148): the cell's holder lets go, or a claim that still waits in its queue goes. -/
def execGrantReleaseArrival (k : Nat) (s : State) : Out :=
  .next (match s.arrived k with
    | some ⟨_, _, _, _, _, _, _, _, _, _, _, _, .release key gtn⟩ =>
      match s.partyAt key gtn with
      | some (p, t) =>
        let s' := s.drop k
        match (s'.thread p t).cell.holder with
        | some c => if c.key = key && c.home.isSome then s'.releaseCell p t else s'
        | none => s'
      | none => s
    | _ => s)

/-- WITHDRAWAL_ARRIVAL (R151). -/
def execWithdrawalArrival (k : Nat) (s : State) : Out :=
  .next (match s.arrived k with
    | some ⟨_, _, .bugle h, _, _, _, _, _, _, _, _, _, .withdraw key _ gtn seq⟩ =>
      match ((s.bugle h).of key).find? fun o => o.who == .thread gtn seq with
      | some o => s.orOvf h key.ctx ((s.drop k).removeOffer h o)
      | none => s.drop k
    | _ => s)

/-- DELIVERY_ARRIVAL (R144, R145, R157): the receive buffer, its 8-byte units numbered in `skip` at a later step; with the last of them
`ptime`, and the party is back in rotation. -/
def execDeliveryArrival : Portion → State → Out
  | ⟨k, skip⟩, s => .next (match s.arrived k with
    | some ⟨_, src, _, _, _, _, _, n, _, _, _, _, .delivery key gtn ctl data rt put⟩ =>
      match s.partyAt key gtn, src.home with
      | some (p, t), some h =>
        let th := s.thread p t
        let mine : Bool := match th.cell.holder with
          | some c => c.key == key && th.cell.st == .committed
          | none => false
        let done (s : State) : State := (s.drop k).toHome h key gtn (.ack key gtn)
        match s.altOf p t key with
        | some (i, a) =>
          if mine then
            let len := if ctlSize ctl = 0 then 0 else recvLen ctl
            let now := unitsLeft len put skip
            let s := now.foldl (fun s j => s.dwrite p (a.recv.toNat + 8 * j) 8 (data / 2 ^ (64 * j))) s
            if put.length + now.length < len / 8 then s.rebody k (.delivery key gtn ctl data rt (put ++ now))
            else ((done s).delayBy p 105 ((if n = 0 then 0 else n + 1) + 1 + spareHop p)).finishSync p t i a.name rt
          else done s
        | none => done s
      | _, _ => s
    | _ => s)

/-- DELIVERY_ACK (R147). -/
def execDeliveryAck (k : Nat) (s : State) : Out :=
  .next (match s.arrived k with
    | some ⟨_, _, .bugle h, _, _, _, _, _, _, _, _, _, .ack key gtn⟩ =>
      let s' := s.drop k
      match (s'.bugle h).ev key with
      | some e => match e.st with
        | .occurring ps data todo acks =>
          match acks.erase gtn with
          | [] => s.orOvf h key.ctx (s'.endOccur h e)
          | acks => s'.putEv h { e with st := .occurring ps data todo acks }
        | _ => s'
      | none => s'
    | _ => s)

/-- A timer alternative that has not made its claim and goes before alternative `j`: the shorter delay, then the lower index (R148, R158). -/
def timerBefore (alts : List Alt) (fired : List Nat) (j : Nat) (a : Alt) : Bool :=
  (List.range alts.length).any fun i => match alts[i]? with
    | some b => b.timer && !fired.contains i &&
        (bits b.name 55 0 < bits a.name 55 0 || (bits b.name 55 0 == bits a.name 55 0 && i < j))
    | none => false

/-- TIMER_ALTERNATIVE_DUE (R148, R158): alternative `alt` of a waiting `sync` is a timer and its delay has passed, whether or not the offers
have left; those before it have made their claims. -/
def execTimerAlternativeDue (core thr alt : Nat) (s : State) : Out :=
  .next (
    let c := s.core core
    let th := c.thread thr
    match th.wait with
    | .sync _ alts _ =>
      match alts[alt]? with
      | some a =>
        if a.timer && !th.cell.fired.contains alt && !th.cell.leaving && bits a.name 55 0 ≤ c.cyc - th.cell.cyc &&
            c.moveTo.isNone && !timerBefore alts th.cell.fired alt a then
          let s := s.setThread core thr { th with cell := { th.cell with fired := alt :: th.cell.fired } }
          s.claimCell core thr ⟨s.evKey core thr a.name, th.cell.age, none, alt⟩ th.cell.seq
        else s
      | none => s
    | _ => s)

/-! ### Quiescence (R161) -/

/-- A wait that can be quiescent, with no timer alternative standing. -/
def Wait.quiet (w : Wait) : Bool :=
  match w with
  | .sync _ alts sent => sent && !alts.any Alt.timer
  | .barw _ sent => sent
  | .chainIn _ | .chainOut _ | .token _ => true
  | _ => false

/-- Engine work that a kernel has issued and that is outstanding (R161). Frames that stand while no thread context of their core is FREE
are none: nothing is at work on them until a thread ends (DEDUCED, log 67). -/
def State.engineWork (s : State) (slot : Nat) : Bool :=
  (s.cores.any fun e => e.2.slot == some slot &&
    (!e.2.mx.ops.isEmpty || !e.2.mx.banks.isEmpty || !e.2.mx.tabs.isEmpty ||
      e.2.deque.any (fun f => f.pend.isSome) || e.2.spill.any (fun f => f.2.isSome) || !e.2.joins.isEmpty ||
      ((!e.2.deque.isEmpty || !e.2.spill.isEmpty) && (List.range 16).any fun t => (e.2.thread t).st == .free) ||
      e.2.journal.any fun j => j.2.busy && match j.2.kind with
        | .copy r => r.slot == slot
        | .htag r => r.slot == slot
        | _ => false)) ||
  (s.retrs.any fun e => e.2.queue.any (fun r => r.slot == slot && r.ctx != 64) ||
    e.2.active.any fun r => r.req.slot == slot && r.req.ctx != 64) ||
  (s.stks.any fun e => e.2.collie.queue.any (fun r => r.slot == slot && r.ctx != 64) || match e.2.collie.cur with
    | some (r, _, _) => r.slot == slot && r.ctx != 64
    | none => false)

/-- No event traffic of a core's context has been in flight for 2^20 of the core's cycles (R161). -/
def State.calmCore (s : State) (c : Core) : Bool := 2 ^ 20 ≤ c.calm && c.evSeen == tget 0 s.evs c.ctx

/-- An engine's token write that is under way. -/
def Body.isToken : Body → Bool
  | .token _ _ _ _ _ _ _ => true
  | _ => false

/-- Whether a kernel is quiescent. -/
def State.quiescent (s : State) (slot : Nat) : Bool :=
  match s.liveKernel slot with
  | none => false
  | some k =>
    (s.cores.all fun e => e.2.threads.all fun t =>
      !(t.2.slot == slot && !isSetter e.1) || t.2.st == .free || (t.2.st == .wait && t.2.wait.quiet)) &&
    (s.cores.all fun e => e.2.slot != some slot || e.2.outWait.isEmpty) &&
    k.teams.all (fun e => e.2.st == .placed || e.2.st == .done) && !s.engineWork slot &&
    (s.cores.all fun e => e.2.slot != some slot || s.calmCore e.2) &&
    s.net.all fun m => !((m.cls == .event || m.body.isToken) && m.ctx == k.ctx)

/-- One thread of a quiescent kernel takes QUIESCE (R146, R161, R177). -/
def State.quiesceThread (s : State) (p t : Nat) : State :=
  let th := s.thread p t
  match th.wait with
  | .sync _ _ _ => s.syncTrap p t th.cell.seq 10
  | .barw ch _ =>
    let s := s.setThread p t { th with bars := th.bars.set! ch .arrived }
    s.trapThread p t th.latch.word { kind := 10 }
  | .chainIn _ | .chainOut _ | .token _ => s.trapThread p t th.latch.word { kind := 10 }
  | _ => s

/-- QUIESCENCE_DETECTED (R161). -/
def execQuiescenceDetected (slot : Nat) (s : State) : Out :=
  .next (if s.quiescent slot then
    let ts := s.cores.flatMap fun e => (e.2.threads.filter fun t =>
      t.2.slot == slot && !isSetter e.1 && t.2.st == .wait && e.2.moveTo.isNone).map fun t => (e.1, t.1)
    ts.foldl (fun s x => s.quiesceThread x.1 x.2) s
  else s)

/-! ### Names and information (R169, R170) -/

/-- EVNAME (R169). -/
def execEvname (d a b : GReg) (s : State) : Out :=
  .next (s.issue [a, b] [d] fun s =>
    .done (s.gw d (BitVec.ofNat 64 (bits (s.gr a) 63 56 * 2 ^ 56 + (bits (s.gr a) 55 0 + (s.gr b).toNat) % 2 ^ 56))))

/-- What `evinfo` returns for a selector (R170). -/
def State.evInfo (s : State) (n : Nat) : Word :=
  let th := s.me
  let c := s.myCore
  match n with
  | 0 => BitVec.ofNat 64 th.ev.index
  | 1 => th.ev.name
  | 2 => th.ev.time
  | 3 => (th.cell.seq - th.cell.base).setWidth 64
  | 0x20 =>
    let i := bits th.crs.chain 3 0
    let o := bits th.crs.chain 7 4
    let pend (q : Nat) : Bool := bits (tget 0 c.routes q) 62 62 = 1
    BitVec.ofNat 64 ((if pend i then 0 else (tget [] c.inq i).length) +
      (if pend o then 0 else 8 - tget 0 c.outRes o) * 256)
  | n => if 0x10 ≤ n && n ≤ 0x1F then tget 0 c.routes (n - 0x10) else 0

/-- EVINFO (R170). -/
def execEvinfo (d a : GReg) (s : State) : Out :=
  .next (s.issue [a] [d] fun s => .done (s.gw d (s.evInfo (s.gr a).toNat)))

/-- CHAIN_ENTRY_ARRIVAL (R165): a pushed entry joins the in-route's queue and wakes a thread that waits for it. -/
def execChainEntryArrival (k : Nat) (s : State) : Out :=
  .next (match s.arrived k with
    | some ⟨_, _, .core l, _, _, _, _, _, _, _, _, _, .chain route e⟩ =>
      match s.phys l with
      | some p =>
        let s := s.drop k
        (s.modCore p fun c => { c with inq := tset c.inq route (tget [] c.inq route ++ [e]) }).wake p (· == .chainIn route)
      | none => s
    | _ => s)

end Sys2Proof.Machine
end

