-- ==== Sys2Proof/Machine/Barrier.lean ====
section
/-!
DEFINITION. The barrier tree (R171-R180, R369): channels and their instances, arrivals, releases and membership.
-/

namespace Sys2Proof.Machine

/-- The level a kernel binds a channel to (R348). -/
def Kernel.barLevel (k : Kernel) (ch : Nat) : Option Nat :=
  let b := k.field (160 + ch) 1
  if 128 ≤ b then some (b % 8) else none

/-- The instance of a channel that holds a core (R172, R335). -/
def Kernel.barInst (k : Kernel) (ch l : Nat) : Nat := domInst (k.lvDom ((k.barLevel ch).getD 0)) (l * 16)

/-- The kernel of a thread; the firmware's has no channel bound. -/
def State.kernelOf (s : State) (p t : Nat) : Option Kernel :=
  if isSetter p then none else s.kernel (s.thread p t).slot

def Core.leaf (c : Core) (ch : Nat) : Leaf := tget {} c.leaves ch
def Core.setLeaf (c : Core) (ch : Nat) (l : Leaf) : Core := { c with leaves := tset c.leaves ch l }

/-- The bit of a thread in a leaf's masks. -/
def threadBit (t : Nat) : BitVec 16 := 1 <<< t

/-- The thread that now occupies a context is a member: the bit of one that has arrived and gone to FREE stands for that one until
the release (R174, R175). -/
def Leaf.member (l : Leaf) (t : Nat) : Bool := (l.mask &&& ~~~ l.leaving).getLsbD t

/-- The checks of R178 that `barw` and `barq` share: the channel, or none for EVENT. -/
def State.barChannel (s : State) (name : Word) : Option Nat :=
  let ch := bits name 3 0
  let scope := bits name 59 56
  match s.kernelOf s.cur.core s.cur.thr with
  | none => none
  | some k =>
    if bits name 63 60 = 1 && scope < k.levels && scope < 8 && bits name 55 4 = 0 && k.barLevel ch == some scope &&
        (s.myCore.leaf ch).member s.cur.thr
    then some ch else none

/-- The phase number of a channel for a core (R176). -/
def State.phaseOf (s : State) (p t ch : Nat) : BitVec 32 :=
  match s.kernelOf p t with
  | some k =>
    let inst := k.barInst ch ((s.logical p).getD 0)
    ((k.phases.find? fun x => x.ch == ch && x.inst == inst).map Phase.num).getD 0
  | none => 0

/-- An arrival is latched at the leaf with its RT (R175, R178). -/
def State.arrive (s : State) (p t ch : Nat) (st : BarSt) : State :=
  s.modCore p fun c =>
    let th := c.thread t
    let l := c.leaf ch
    let l := ({ l with arrived := l.arrived ||| threadBit t, rt := maxW l.rt th.rt, came := true } : Leaf).settle
    (c.setLeaf ch l).setThread t { th with bars := th.bars.set! ch st }

/-- The oldest pending JOURNAL is taken by a release point itself (R332). -/
def takeJournal (s : State) (a : ATrap) : Ends :=
  .trapKeep (s.modMe fun th => { th with traps := th.traps.erase a }) a.asJournal

/-- BARW (R177, R178). -/
def execBarw (a : GReg) (s : State) : Out :=
  .next (s.issue [a] [] fun s =>
    let p := s.cur.core
    let t := s.cur.thr
    match s.barChannel (s.gr a) with
    | none => .trap .event
    | some ch =>
      match s.me.bars[ch]! with
      | .none =>
        if s.myCore.settled t then
          match s.me.journalTrap with
          | some x => takeJournal s x
          | none => .wait (s.arrive p t ch .waiting) (.barw ch true)
        else .wait s (.barw ch false)
      | .released rt => .done (s.modMe fun th => { th.raise rt with bars := th.bars.set! ch .none })
      | _ => .wait (s.modMe fun th => { th with bars := th.bars.set! ch .waiting }) (.barw ch true))

/-- BARQ (R178). -/
def execBarq (d a : GReg) (s : State) : Out :=
  .next (s.issue [a] [d] fun s =>
    let p := s.cur.core
    let t := s.cur.thr
    match s.barChannel (s.gr a) with
    | none => .trap .event
    | some ch =>
      match s.me.bars[ch]! with
      | .none =>
        if s.myCore.settled t then
          match s.me.journalTrap with
          | some x => takeJournal s x
          | none =>
            let ph := s.phaseOf p t ch
            .done ((s.arrive p t ch .arrived).gw d (ph.setWidth 64))
        else .wait s (.release d ch)
      | _ => .trap .event)

/-- BARRIER_ARRIVAL_LATCHED (R178): a `barw` or `barq` that waited for earlier posted stores arrives, or takes JOURNAL. -/
def execBarrierArrivalLatched (core thr : Nat) (s : State) : Out :=
  .next (
    let th := s.thread core thr
    let go (f : State → State) : State :=
      if (s.core core).settled thr then
        match th.journalTrap with
        | some a => (s.setThread core thr { th with traps := th.traps.erase a }).trapThread core thr th.latch.word a.asJournal
        | none => f s
      else s
    match th.wait with
    | .barw ch false => go fun s =>
        (s.arrive core thr ch .waiting).modThread core thr fun th => { th with wait := .barw ch true }
    | .release d ch => go fun s =>
        let ph := s.phaseOf core thr ch
        (((s.arrive core thr ch .arrived).take core thr).gw d (ph.setWidth 64)).complete core thr
    | _ => s)

/-- A thread joins (R179): from the next phase where the leaf has latched its output, otherwise at once. The arrival of a former occupant of
its context has been counted; the new member has its own to make. -/
def Leaf.join (l : Leaf) (t : Nat) : Leaf :=
  let b := threadBit t
  if l.member t || l.joining &&& b != 0 then l
  else if l.latched then { l with joining := l.joining ||| b }
  else { l with mask := l.mask ||| b, arrived := l.arrived &&& ~~~ b, leaving := l.leaving &&& ~~~ b }

/-- BARSET (R179). -/
def execBarset (a : GReg) (s : State) : Out :=
  .next (s.issue [a] [] fun s =>
    let x := s.gr a
    let ch := bits x 3 0
    let join := bits x 4 4 = 1
    let t := s.cur.thr
    let bound := match s.kernelOf s.cur.core t with
      | some k => (k.barLevel ch).isSome
      | none => false
    let l := s.myCore.leaf ch
    if bits x 63 5 ≠ 0 || !bound || (!join && s.me.bars[ch]! != .none) then .trap .event
    else .done (s.modCore s.cur.core fun c => c.setLeaf ch (if join then l.join t else l.leave t)))

/-! ### Release (R173, R176, R180, R369) -/

/-- The physical cores whose leaves are a kernel's inputs in an instance of a channel (R173): those of the logical cores that it was placed on,
a core that has died since leaving its leaf in its place. -/
def State.barCores (s : State) (k : Kernel) (ch inst : Nat) : List Nat :=
  ((k.groups.map Prod.snd).filter fun l => k.barInst ch l == inst).flatMap fun l =>
    (s.phys l).toList ++ (k.vacated.filter fun e => e.1 == l).map Prod.snd

/-- A leaf's output (R174). -/
def Leaf.out (l : Leaf) : Bool := l.mask == 0 || l.latched

/-- The release at one leaf (R175, R176): its latches clear, members that left go, members that joined come, and every
arrived thread takes the release. -/
def Core.releaseLeaf (c : Core) (ch : Nat) (rt : Word) : Core :=
  let l := c.leaf ch
  let l' : Leaf := { mask := (l.mask &&& ~~~ l.leaving) ||| l.joining }
  let c := c.setLeaf ch l'
  { c with threads := c.threads.map fun e =>
      let th := e.2
      if l.mask &&& threadBit e.1 == 0 then e
      else match th.bars[ch]! with
        | .arrived => (e.1, { th with bars := th.bars.set! ch (.released rt) })
        | .waiting =>
          let th := { (th.raise rt).pay with bars := th.bars.set! ch .none }
          let th := th.rejoin
          (e.1, { th with latch := {}, regs := { th.regs with pc := th.regs.pc + 4 } })
        | _ => e }

/-- A new phase begins. -/
def Kernel.nextPhase (k : Kernel) (ch inst : Nat) : Kernel :=
  if k.phases.any fun x => x.ch == ch && x.inst == inst then
    { k with phases := k.phases.map fun x => if x.ch == ch && x.inst == inst then { x with num := x.num + 1 } else x }
  else { k with phases := ⟨ch, inst, 1⟩ :: k.phases }

/-- The members whose `barw` reads `g28` as its operand take the chain head as they complete (R165). -/
def State.popWaiting (s : State) (p ch : Nat) : State :=
  (s.core p).threads.foldl (fun s e => match e.2.wait, e.2.popIn with
    | .barw c true, some q => if c = ch then s.pop p e.1 q else s
    | _, _ => s) s

/-- BARRIER_RELEASE (R176): `seg` is a logical core of the instance. The release of a core that is FROZEN goes with its threads (R180). -/
def execBarrierRelease (ch seg : Nat) (s : State) : Out :=
  .next (match (s.phys seg).bind fun p => (s.core p).slot with
    | none => s
    | some slot =>
      match s.liveKernel slot with
      | none => s
      | some k =>
        let inst := k.barInst ch seg
        let ps := s.barCores k ch inst
        if (k.barLevel ch).isSome && k.teams.all (fun e => e.2.st == .placed || e.2.st == .done) &&
            ps.all (fun p => ((s.core p).leaf ch).out) && ps.any (fun p => ((s.core p).leaf ch).came)
        then
          let rt := ps.foldl (fun a p => maxW a ((s.core p).leaf ch).rt) 0
          let s := s.setKernel slot (k.nextPhase ch inst)
          ps.foldl (fun s p =>
            (((s.popWaiting p ch).modCore p fun c => c.releaseLeaf ch rt)).delay p 106) s
        else s)

end Sys2Proof.Machine
end

