-- ==== Sys2Proof/Machine/Coherence.lean ====
section
/-!
DEFINITION. What becomes of posted stores, copy writes and drain stores at their receivers, and the steps that move lines
between homes, slices and stashes (R237-R254, R296, R406).

STORE_ACCEPTANCE and STORE_REFUSAL name a writer by a core number: a core's own number for its journal, 30,000 more for its
drain unit, 60,000 and on for a Retriever; and within it an entry and a unit.
-/

namespace Sys2Proof.Machine

/-! ### Units of one line -/

/-- Two units lie in one line, or in one 512-byte span of a port's space. -/
def Elem.near (a b : Elem) : Bool := a.place.key.1 == b.place.key.1 && a.place.key.2 / 512 == b.place.key.2 / 512

/-- The units of a list that go with unit `k`: those of its line, in order. -/
def groupAt (els : List Elem) (k : Nat) : List Elem :=
  match els[k]? with
  | some x => els.filter x.near
  | none => []

/-- Units left when a group has gone. -/
def ungroup (els g : List Elem) : List Elem := els.filter fun x => !g.contains x

/-- Two units share a byte, or with `whole` an aligned 8-byte unit. -/
def Elem.meets (whole : Bool) (a b : Elem) : Bool :=
  let x := a.place.key
  let y := b.place.key
  x.1 == y.1 && (if whole then x.2 / 8 ≤ (y.2 + b.w - 1) / 8 && y.2 / 8 ≤ (x.2 + a.w - 1) / 8 else x.2 < y.2 + b.w && y.2 < x.2 + a.w)

/-- The units of a group that take effect together while those at the positions `skip` are left to a later step (R135, R230, R255):
a unit that meets an earlier one left is left too. With `whole`, stores of rows (`lane`) that share an aligned 8-byte unit go together for one
row, and after those of earlier rows. -/
def pieceOf (whole : Bool) (skip : List Nat) (g : List Elem) : List Elem :=
  if whole then
    let left := ((g.zip (List.range g.length)).filter fun x => skip.contains x.2).map Prod.fst
    g.filter fun x => !left.any fun y => y.meets true x && y.lane ≤ x.lane
  else
  (g.zip (List.range g.length)).foldl (fun (r : List Elem × List Elem) x =>
    if skip.contains x.2 || r.2.any (x.1.meets false) then (r.1, r.2 ++ [x.1]) else (r.1 ++ [x.1], r.2)) ([], []) |>.1

/-! ### Migration locks (R92, R318) -/

/-- A unit lies in a page that is LOCKED. -/
def Mig.holds (m : Mig) (ctx : Nat) (va : Word) : Bool :=
  m.ctx == ctx && va.toNat / 2 ^ pageLog m.sz == m.va.toNat / 2 ^ pageLog m.sz

def State.locked (s : State) (ctx : Nat) (va : Word) : Bool := s.migs.any fun m => m.holds ctx va

/-- A write to a LOCKED page is held at its home, in arrival order (R318). -/
def State.hold (s : State) (ctx : Nat) (va : Word) (h : HeldWrite) : State :=
  { s with migs := s.migs.map fun m => if m.holds ctx va && !m.held.contains h then { m with held := m.held ++ [h] } else m }

/-! ### What a receiver tells the core (R244, R248-R250) -/

/-- An acceptance raises the thread's `ptime`; what a thread that has gone to FREE still sends carries it too. -/
def State.tellThread (s : State) (p t : Nat) (wts : Word) : State :=
  if t < 16 then s.modThread p t fun th => { th.raise wts with rel := maxW th.rel wts }
  else
    let s := s.modCore p fun c => { c with
      journal := c.journal.map fun e =>
        (e.1, if e.2.busy && e.2.thr == t && !e.2.isStore then { e.2 with p := maxW e.2.p wts } else e.2)
      joins := c.joins.map fun j => if j.thr = t then { j with rt := maxW j.rt wts } else j
      outWait := c.outWait.map fun x => if x.2.2.1 = t then (x.1, { x.2.1 with rt := maxW x.2.1.rt wts }, x.2.2) else x }
    let s := s.modFrames (orphanFrame p t wts)
    { s with facks := s.facks.map fun f => if f.core = p && f.thr = t then { f with rt := maxW f.rt wts } else f }

/-! ### Lines at their owner -/

/-- Marks sectors of a stash line dirty. -/
def State.dirty (s : State) (p l off n : Nat) : State :=
  match (s.core p).stashLine l with
  | some x => s.modCore p fun c => c.setStash { x with dirty := x.dirty ||| secsOf off n }
  | none => s

/-- The delay of an acceptance or atomic that turned `s` into `s'` (R383, R402): served at the line's home where the die had yet to
take exclusivity; recalls made for it are in the chain. -/
def State.delayAccept (s s' : State) (p q l pa : Nat) : State :=
  let d := dieOf q
  let far := if (s.home l).excl = some d then none else some (stackOf l)
  let a := s'.takeRecall l 72
  let b := a.2.takeRecall l d
  b.2.delayLine p q l (sliceOf pa (s.seedOf (s.core p).ctx)) far (a.1 + b.1)

/-- A core's write to a line is accepted. `site` is the vacated core that it completes from (R228, R250), whose stash has given its lines
up. -/
def State.acceptLine (s : State) (p : Nat) (site : Option Nat) (l pa off n : Nat) (pt : Word) : Option (State × Word) :=
  match site with
  | some q => (s.acceptSlice (dieOf q) l pa (s.core p).ctx pt).map fun x => (s.delayAccept x.1 p q l pa, x.2)
  | none =>
    (s.accept p l pa off n pt).map fun x =>
      (if (s.core p).stashG = 0 || ((s.core p).stashLine l).isNone then s.delayAccept x.1 p p l pa else x.1, x.2)

/-- A core's units of one line are accepted with one timestamp (R244), or at a pod member or the host. None while the
owner must first give the line up. -/
def State.acceptGroup (s : State) (p : Nat) (site : Option Nat) (pt : Word) (g : List Elem) : Option (State × Word) :=
  match g with
  | [] => none
  | x :: _ =>
    match x.place with
    | .line l off pa =>
      match s.acceptLine p site l pa off x.w pt with
      | none => none
      | some (s', wts) =>
        some (g.foldl (fun s e => match e.place with
          | .line l off _ =>
            let s := s.writeLine l off e.w e.data
            if site.isSome then s else s.dirty p l off e.w
          | _ => s) s', wts)
    | .remote _ _ =>
      if !s.podUp then none
      else some (g.foldl (fun s e => match e.place with
        | .remote m a => { s.podSend (s.core p).ctx m (a / 64) a e.w with pod := mwrite s.pod (m * 2 ^ 52 + a) e.w e.data }
        | _ => s) (s.delay p 108), 0)
    | .host _ =>
      if !s.hostUp then none
      else some (g.foldl (fun s e => match e.place with
        | .host a => { s with host := mwrite s.host a e.w e.data }
        | _ => s) (s.delay p 109), 0)
    | _ => none

/-- The stash or die that keeps a line from a die gives it up. -/
def State.freeLine (s : State) (d l : Nat) (keep : Option Nat) : State :=
  let s := if (s.home l).excl = some d then s else s.dieGives l
  match s.slice d l with
  | some sl => match sl.owner with
    | some q => if keep = some q then s else s.stashGives q l
    | none => s
  | none => s

/-- An atomic's indivisible read and write at the slice of physical core `q`'s die (R245), for core `p`: `f` gives what it writes; one that writes nothing is served as
a load. None while the owner must first give the line up. -/
def State.atomicAt (s : State) (p q l off pa w : Nat) (pt len : Word) (f : Nat → Option Nat) : Option (State × Word × Nat) :=
  let d := dieOf q
  let c := (s.core p).ctx
  let old := dataAt (s.lineData l) off w
  match f old with
  | some v => (s.acceptSlice d l pa c pt).map fun x => (x.1.writeLine l off w v, x.2, old)
  | none =>
    match s.takeLine d l pa c with
    | none => none
    | some s =>
      match s.slice d l with
      | none => none
      | some sl =>
        if sl.owner.isSome then none
        else some (s.setSlice d l { sl with rts := maxW sl.rts (maxW pt sl.wts + len) }, sl.wts, old)

/-! ### Debug mode: raw writes to an old copy (R296) -/

/-- The unpinned object whose old copy holds an address, while its slot, which a Collie has claimed, says MOVING or names another copy. -/
def State.oldCopy (s : State) (ctx va : Nat) : Option Nat :=
  s.panel.olds.findSome? fun x =>
    let rd (e : Elem) (off n : Nat) : Nat := match e.place with
      | .line l o _ => mread s.dram (l * 512 + o + off) n
      | _ => 0
    let (c, r, h, slot) := x
    let key : Word := BitVec.ofNat 64 (rd slot 0 8)
    let new : Word := BitVec.ofNat 64 (rd slot 8 8)
    let a := h.va.toNat
    let moved := bits key 63 62 = 1 || (bits key 63 62 = 2 && !(bits new 47 4 == bits key 47 4 && bits new 55 48 == r))
    if c == ctx && moved && bits key 47 4 * 16 == a && a ≤ va && va < a + rd h 0 4 && rd h 8 4 = 0 then some a else none

/-- Debug mode of the kernel that a thread belongs to. -/
def State.debugMode (s : State) (slot : Nat) : Bool :=
  match s.kernel slot with
  | some k => bits k.fmode 6 6 = 1
  | none => false

/-- A raw write that lands on an old copy becomes a pending BREAK of the writing thread. -/
def State.rawBreak (s : State) (p t slot : Nat) (g : List Elem) : State :=
  if 16 ≤ t || !s.debugMode slot || isSetter p || (s.thread p t).st == TState.free then s
  else match g.find? fun e => e.line.isSome && (s.oldCopy (s.core p).ctx e.va.toNat).isSome with
    | some e => s.modThread p t fun th => { th with traps := th.traps ++ [(⟨14, 0, e.va, 0, 0, 0⟩ : ATrap)] }
    | none => s

/-! ### A journal entry's acceptance (R248) -/

/-- An earlier posted store of the thread to the same line is still in flight. -/
def Core.olderStore (c : Core) (t ord : Nat) (x : Elem) : Bool :=
  c.journal.any fun e => e.2.busy && e.2.thr == t && e.2.ord < ord && (e.2.todo ++ e.2.flight).any x.near

/-- A group of units of a journal entry is accepted. None while it must wait. -/
def State.acceptEntry (s : State) (p i : Nat) (g : List Elem) : Option State :=
  let e := (s.core p).entry i
  let q := e.site.getD p
  let done (s : State) (wts : Word) : State :=
    let s := s.modCore p fun c => c.setEntry i { c.entry i with todo := ungroup (c.entry i).todo g }
    (s.tellThread p e.thr wts).settleEntry p i
  match e.kind with
  | .ref => (s.acceptGroup p e.site e.p g).map fun x => done x.1 x.2
  | .store => (s.acceptGroup p e.site e.p g).map fun x =>
      (if e.thr < 16 then x.1.rawBreak p e.thr (s.thread p e.thr).slot g else x.1) |> fun s => done s x.2
  | .writeback l give =>
    let s := s.modCore p fun c => match c.stashLine l with
      | some x => c.setStash { x with dirty := 0 }
      | none => c
    some (done (if give then s.stashGives p l else s) 0)
  | .heal old new =>
    match g with
    | ⟨_, _, w, _, .line l off pa⟩ :: _ =>
      (s.atomicAt p q l off pa w e.p 0 fun x => if x = old.toNat then some new.toNat else none).map fun r =>
        done (s.delayAccept r.1 p q l pa) r.2.1
    | _ => none
  | .unpin =>
    match g with
    | ⟨_, _, w, _, .line l off pa⟩ :: _ =>
      (s.atomicAt p q l off pa w e.p 0 fun x => some (x - 1)).map fun r => done (s.delayAccept r.1 p q l pa) r.2.1
    | _ => none
  | _ => none

/-- Units of a journal entry that may be settled next: all of a write-back, otherwise those of unit `k`'s line. -/
def JEntry.group (e : JEntry) (k : Nat) : List Elem :=
  match e.kind with
  | .writeback _ _ => e.todo
  | _ => groupAt e.todo k

/-- A core's journal entry: acceptance of the units of unit `k`'s line, but for those at the positions `skip` of them. A write to a
LOCKED page is held (R318). -/
def State.journalAccept (s : State) (p i k : Nat) (skip : List Nat) : State :=
  let c := s.core p
  let e := c.entry i
  match e.group k with
  | [] => s
  | x :: rest =>
    if !e.busy || !e.isStore || c.olderStore e.thr e.ord x || s.reseeding c.ctx then s
    else match x.line with
    | some l =>
      if s.locked c.ctx x.va then s.hold c.ctx x.va ⟨p, some i, e.thr, l, 0⟩
      else if s.poison.contains l then s
      else (s.acceptEntry p i (if e.kind.isWriteback then x :: rest else pieceOf false skip (x :: rest))).getD s
    | none => (s.acceptEntry p i (pieceOf false skip (x :: rest))).getD s

/-! ### Drain stores (R223, R224, R229, R230) -/

/-- Acceptance of the units of unit `k`'s line, of matrix operation `j` of a core, but for those at the positions `skip` of them; the
thread's posted stores to the line come first (R262). Those to a LOCKED page are held row by row (R318). -/
def State.drainAccept (s : State) (p j k : Nat) (skip : List Nat) : State :=
  match (s.core p).mx.ops[j]? with
  | none => s
  | some o =>
    let c := s.core p
    match groupAt o.stores k with
    | [] => s
    | x :: rest =>
      if s.reseeding c.ctx || c.olderStore o.who c.jord x then s
      else
        let g := pieceOf true skip (x :: rest)
        if s.locked c.ctx x.va then
          (g.map Elem.lane).eraseDups.foldl (fun s r => s.hold c.ctx x.va ⟨p, some (16 + o.ord), o.thr, x.line.getD 0, r⟩) s
        else if s.poisoned x then s
        else
        match s.acceptGroup p o.site (c.thread o.who).crs.ptime g with
        | none => s
        | some (s', wts) =>
          let s' := s'.modCore p fun c => { c with mx := { c.mx with ops := c.mx.ops.map fun y =>
            if y.ord = o.ord then { y with stores := ungroup y.stores g } else y } }
          (s'.tellThread p o.who wts).rawBreak p o.who (s.thread p o.thr).slot g

/-! ### Copy writes (R269, R274) -/

/-- A write of a unit for a context by an engine, with logical time `p`. -/
def State.engWrite (s : State) (ctx : Nat) (e : Elem) (p : Word) : State × Word :=
  match e.place with
  | .line l off _ => s.homeWrite l off e.w e.data p
  | .remote m a => ({ s.podSend ctx m (a / 64) a e.w with pod := mwrite s.pod (m * 2 ^ 52 + a) e.w e.data }, 0)
  | .host a => ({ s with host := mwrite s.host a e.w e.data }, 0)
  | _ => (s, 0)

/-- A place can be reached from a site: the edges on the way to a line's home, to the die that holds it and to another core's port, and the
ports to the pod and to the host carry traffic (R373, R388, R396). -/
def State.reachable (s : State) (site : Nat) (pl : Place) : Bool :=
  match pl with
  | .direct _ => true
  | .line l _ _ => s.ways site (siteOfStack (stackOf l)) && s.ownerUp l
  | .lwin l _ => match s.phys l with
    | some q => s.ways site (siteOfDie (dieOf q))
    | none => true
  | .remote _ _ => s.podUp
  | .host _ => s.hostUp

/-- The newer of two writes of one copy to one unit may be the one that is overwritten (R275). -/
def State.copyAccept (s : State) (r j k : Nat) : State :=
  match (s.retr r).active[j]? with
  | none => s
  | some x =>
    match x.open'[k]? with
    | none => s
    | some (n, e) =>
      if e.place.key.1 = 0 || e.isLwin || !s.reachable (siteOfStack (r / 2)) e.place || s.reseeding x.req.ctx then s
      else if e.line.isSome && s.locked x.req.ctx e.va then s.hold x.req.ctx e.va ⟨copyBase + r, some x.id, n, e.line.getD 0, e.lane⟩
      else if s.poisoned e then s
      else
        let (s', wts) := s.engWrite x.req.ctx e x.req.rt
        let s' := match s'.whereIs x.req.gtn with
          | some (p, t) => if x.req.ctx = 64 then s' else s'.rawBreak p t x.req.slot [e]
          | none => s'
        s'.setRun r { x with open' := x.open'.eraseIdx k, wts := maxW x.wts wts }

/-! ### The steps -/

/-- STORE_ACCEPTANCE (R244, R248, R255): unit `entry / 16` of the writer's entry `entry % 16`, with the rest of its line but for the
units at the positions `skip`, is accepted at its receiver. A write to a LOCKED page is held there instead (R318). -/
def execStoreAcceptance : Nat → Portion → State → Out
  | core, ⟨entry, skip⟩, s => .next (
    if core < 30000 then s.journalAccept core (entry % 16) (entry / 16) skip
    else if core < copyBase then s.drainAccept (core - 30000) (entry % 16) (entry / 16) skip
    else s.copyAccept (core - copyBase) (entry % 16) (entry / 16))

/-- The cause of R249 with which a receiver refuses a unit; 0 when it does not. -/
def State.refusalOf (s : State) (e : Elem) : Nat :=
  match e.place with
  | .line l _ _ => if s.poison.contains l then 4 else 0
  | .remote _ _ => if Config.podAnswer s.tick = 1 then 1 else 5
  | .host _ => 3
  | _ => 0

/-- The place in R274's order of a refusal with a cause of R249. -/
def copyTrap (cause : Nat) : Nat := if cause = 1 then 3 else if cause = 4 then 4 else if cause = 2 then 1 else 5

/-- STORE_REFUSAL (R249): named as for STORE_ACCEPTANCE; a healing `cas` is discarded (R299). Drain stores are refused by
DRAIN_STORE_POISON. -/
def execStoreRefusal (core entry : Nat) (s : State) : Out :=
  .next (
    if core < 30000 then
      let c := s.core core
      let i := entry % 16
      let e := c.entry i
      match e.group (entry / 16) with
      | [] => s
      | x :: rest =>
        let cause := s.refusalOf x
        if !e.busy || !e.isStore || cause = 0 || c.olderStore e.thr e.ord x then s
        else if x.line.isSome && s.locked c.ctx x.va then s.hold c.ctx x.va ⟨core, some i, e.thr, x.line.getD 0, 0⟩
        else
          let heal := match e.kind with
            | .heal _ _ => true
            | _ => false
          let e := { e with todo := ungroup e.todo (x :: rest)
                            refused := if heal then e.refused else e.refused ++ (x :: rest).map fun y => (y, cause) }
          (s.setCore core (c.setEntry i e)).settleEntry core i
    else if core < copyBase then s
    else
      let r := core - copyBase
      match (s.retr r).active[entry % 16]? with
      | none => s
      | some x =>
        match x.open'[entry / 16]? with
        | none => s
        | some (n, e) =>
          let cause := s.refusalOf e
          if cause = 0 || (e.line.isSome && s.locked x.req.ctx e.va) then s
          else s.copyStop r { x with open' := x.open'.eraseIdx (entry / 16) } n 2 (copyTrap cause) e.va)

/-- INBOUND_PORT_WRITE (R251): message `k` is a write that has arrived at a core's port. -/
def execInboundPortWrite (k : Nat) (s : State) : Out :=
  .next (if (s.arrived k).isSome then s.portArrives k else s)

/-! ### Recalls, renewals, evictions, fills (R239, R243, R244, R246, R406) -/

/-- An atomic of a thread of the core waits for a line. -/
def Core.atomicOn (c : Core) (l : Nat) : Bool :=
  c.threads.any fun t => match t.2.wait with
    | .load r => (match r.kind with
      | .atom _ _ _ _ _ _ | .hlog _ _ | .hswap _ _ | .hpin _ _ => true
      | _ => false) && r.todo.any fun x => x.line == some l
    | _ => false

/-- Writes of core `p` wait for a line at a physical core that satisfies `P`: posted stores and drain stores, where they complete, and
atomics. -/
def Core.writesLine (c : Core) (p l : Nat) (P : Nat → Bool) : Bool :=
  (c.journal.any fun e => e.2.busy && e.2.isStore && P (e.2.site.getD p) && e.2.todo.any fun x => x.line == some l) ||
    (c.mx.ops.any fun o => P (o.site.getD p) && o.stores.any fun x => x.line == some l) || (P p && c.atomicOn l)

def Core.readsLine (c : Core) (l : Nat) : Bool :=
  (c.ca.pref.any fun x => x.line == l) ||
    c.threads.any fun t => match t.2.wait with
      | .load r => r.todo.any fun x => x.line == some l
      | _ => false

/-- EXCLUSIVITY_RECALL (R244): a request of another die waits for the line, and its owner gives it up. -/
def execExclusivityRecall (line : Nat) (s : State) : Out :=
  .next (match (s.home line).excl with
    | some d =>
      if s.cores.any fun e => e.2.writesLine e.1 line (fun q => dieOf q != d) || (dieOf e.1 != d && e.2.readsLine line) then
        if s.homeUp d line then (s.dieGives line).noteRecall line 72 (s.recallTrip line) else s
      else s
    | none => s)

/-- STASH_RECALL (R239): a store of another core of the die, or an atomic of any core of the die, waits for the line. -/
def execStashRecall (core line : Nat) (s : State) : Out :=
  .next (
    let d := dieOf core
    let at' (p : Nat) (c : Core) : Bool := c.journal.any fun e => e.2.busy && dieOf (e.2.site.getD p) == d && (match e.2.kind with
      | .heal _ _ | .unpin => true
      | _ => false) && e.2.todo.any fun x => x.line == some line
    if s.cores.any fun e => e.2.writesLine e.1 line (fun q => dieOf q == d && q != core) || (dieOf e.1 == d && e.2.atomicOn line) || at' e.1 e.2 then
      if ((s.core core).stashLine line).isSome then (s.stashGives core line).noteRecall line d (stashTrip core) else s
    else s)

/-- The physical address of a line that a core waits for. -/
def Core.linePa (c : Core) (line : Nat) : Nat :=
  match c.ca.pref.find? fun x => x.line == line with
  | some x => x.pa
  | none => (c.threads.findSome? fun t => match t.2.wait with
      | .load r => r.todo.findSome? fun u => match u.place with
        | .line l _ pa => if l = line then some pa else none
        | _ => none
      | _ => none).getD 0

/-- LEASE_RENEWAL (R243): a waiting read of a core of the die needs the line with this lease; its home grants it. A line that
another die holds exclusively must be recalled first. -/
def execLeaseRenewal (die line need : Nat) (s : State) : Out :=
  .next (
    let free : Bool := (s.home line).excl.isNone && s.homeUp die line
    let wants (p : Nat) (t : Nat × Thread) : Bool := match t.2.wait with
      | .load r => !r.miss && r.todo.any (fun x => x.line == some line) && (s.renewNeed p t.1 line).toNat == need
      | _ => false
    let hit := s.cores.find? fun e => dieOf e.1 == die && !s.reseeding e.2.ctx &&
      (e.2.threads.any (wants e.1) || e.2.ca.pref.any fun x => x.line == line && x.need.toNat == need)
    match hit with
    | none => s
    | some (_, c) =>
      if free && !s.poison.contains line then
        let (h, s) := (s.renew die line (c.linePa line) c.ctx (BitVec.ofNat 64 need)).takeRecall line 72
        let far := some (stackOf line, h)
        { s with cores := s.cores.map fun e =>
            if dieOf e.1 = die then
              (e.1, { e.2 with
                ca := { e.2.ca with pref := e.2.ca.pref.map fun x =>
                  if x.line == line && x.need.toNat == need then { x with far := far } else x }
                threads := e.2.threads.map fun t =>
                (t.1, if wants e.1 t then match t.2.wait with
                    | .load r => { t.2 with wait := .load { r with far := far } }
                    | _ => t.2
                  else t.2) })
            else e }
      else s)

/-- HOME_EVICTION (R246): a home evicts a line that no die holds exclusively; the stack's `mts` keeps its timestamps. -/
def execHomeEviction (line : Nat) (s : State) : Out :=
  .next (s.homeEvict line)

/-- The copy a fill takes (R406): bytes and timestamps, at a slice that can grant the need. -/
def State.fillFrom (s : State) (d l : Nat) (need : Word) : Option (State × LineData × Word × Word) :=
  match s.slice d l with
  | none => none
  | some sl =>
    match sl.owner with
    | some q => (s.core q).stashLine l |>.map fun x =>
        let x := { x with rts := maxW x.rts need }
        (s.modCore q fun c => c.setStash x, s.lineData l, x.wts, x.rts)
    | none =>
      if sl.excl then
        let sl := { sl with rts := maxW sl.rts need }
        some (s.setSlice d l sl, s.lineData l, sl.wts, sl.rts)
      else if sl.rts.toNat < need.toNat then none
      else some (s, sl.data, sl.wts, sl.rts)

/-- PREFETCH_FILL_RETURN (R107, R406): fill `j` of a core returns; a poisoned line allocates nothing. -/
def execPrefetchFillReturn (core j : Nat) (s : State) : Out :=
  .next (
    let c := s.core core
    match c.ca.pref[j]? with
    | none => s
    | some x =>
      let s' := s.setCore core { c with ca := { c.ca with pref := c.ca.pref.eraseIdx j } }
      if s.poison.contains x.line || c.ctx ≠ x.ctx then s'
      else if s.reseeding c.ctx then s
      else match s'.fillFrom (dieOf core) x.line x.need with
        | none => s
        | some (s', data, wts, rts) =>
          let s' := s'.delayLine core core x.line (sliceOf x.pa (s.seedOf c.ctx)) (x.far.map Prod.fst)
            (s.fwdTrip (dieOf core) x.line + (x.far.map Prod.snd).getD 0)
          s'.l1Fill core x.line x.pa 0 512 wts rts data false x.pin)

end Sys2Proof.Machine
end

