-- ==== Sys2Proof/Machine/Matrix.lean ====
section
/-!
DEFINITION. Matrix operations as far as the drain unit (R57-R60, R184-R203): descriptors and shape records, the tile, operand
addresses, accumulation, banks, and the control instructions.
-/

namespace Sys2Proof.Machine

/-! ### Descriptor and shape record (R187, R188) -/

/-- Bytes `off` to `off + n - 1` of a 64-byte block. -/
def blk (b : BitVec 512) (off n : Nat) : Nat := b.toNat / 2 ^ (8 * off) % 2 ^ (8 * n)

/-- A 64-byte block of direct storage. -/
def Core.block (c : Core) (a : Nat) : BitVec 512 := BitVec.ofNat 512 (c.dread a 64)

def dK (d : BitVec 512) : Nat := blk d 36 4
def dDrn (d : BitVec 512) : Bool := 128 ≤ blk d 42 1
def dProg (d : BitVec 512) : Nat := blk d 42 1 % 16
def dTab (d : BitVec 512) : Nat := blk d 40 2
def dConv (d : BitVec 512) : Bool := blk d 43 1 % 2 = 1
def dInit (d : BitVec 512) : Bool := blk d 43 1 / 2 % 2 = 1

/-- Rows of the result (R188): B × OH × OW in convolution mode. -/
def shapeM (conv : Bool) (sh : BitVec 512) : Nat :=
  if conv then blk sh 24 4 * blk sh 20 2 * blk sh 22 2 else blk sh 0 4

/-- Causes 1 and 7 of R199 for a shape record under a number of declared levels; 0 when neither holds. -/
def shapeCause (levels : Nat) (sh : BitVec 512) : Nat :=
  if blk sh 8 1 / 8 ≠ 0 || blk sh 9 1 ≠ 0 || blk sh 40 24 ≠ 0 then 1
  else if levels ≤ blk sh 8 1 % 8 || blk sh 10 2 = 0 || blk sh 12 2 = 0 || blk sh 14 2 = 0 then 7
  else 0

/-- `geom` from a shape record and the rank at its PLEV (R189, R202). -/
def geomOf (sh : BitVec 512) (rank : Nat) : Word :=
  let g := blk sh 10 2
  BitVec.ofNat 64 (blk sh 8 1 % 8 * 2 ^ 56 + rank / g % 2 ^ 28 * 2 ^ 28 + rank % g)

/-! ### Where the tile lies (R190) -/

/-- Origin of the tile: m0 and n0. -/
def Mop.origin (o : Mop) : Nat × Nat :=
  let ti := blk o.desc 44 1
  let tj := blk o.desc 45 1
  if o.direct then (32 * ti, 32 * tj)
  else (bits o.geom 55 28 * blk o.shape 12 2 * 32 + 32 * ti, bits o.geom 27 0 * blk o.shape 14 2 * 32 + 32 * tj)

/-- Whether a row of the tile is active. -/
def Mop.rowOn (o : Mop) (m : Nat) : Bool :=
  if o.direct then m < blk o.desc 46 1
  else
    let rlo := bits o.geom 55 28 * blk o.shape 12 2 * 32
    o.origin.1 + m < min (rlo + blk o.shape 12 2 * 32) (shapeM (dConv o.desc) o.shape)

/-- Whether a column of the tile is active. -/
def Mop.colOn (o : Mop) (n : Nat) : Bool :=
  if o.direct then n < blk o.desc 47 1
  else
    let clo := bits o.geom 27 0 * blk o.shape 14 2 * 32
    o.origin.2 + n < min (clo + blk o.shape 14 2 * 32) (blk o.shape 4 4)

/-- Rows with some active element, ascending: every row is masked when no column is active (R191, R211). -/
def Mop.rows (o : Mop) : List Nat := (List.range 32).filter o.rowOn
def Mop.cols (o : Mop) : List Nat := (List.range 32).filter o.colOn
/-- Rows that drain: active rows of a tile that has an active column. -/
def Mop.drainRows (o : Mop) : List Nat := if o.cols.isEmpty then [] else o.rows

/-! ### Operands (R76, R192, R198) -/

/-- Bytes of an element by format code. -/
def elemSize (f : Nat) : Nat := if f = 2 || f = 3 then 2 else 1

/-- The value of an operand element of a float format. -/
def elemVal (f x : Nat) : FVal :=
  match f with
  | 0 => Fmt.e4m3.value x
  | 1 => Fmt.e5m2.value x
  | 2 => Fmt.bf16.value x
  | _ => Fmt.f16.value x

/-- The integer of an i8 or n8 element. -/
def elemInt (f x : Nat) : Int := (IFmt.mk 8 (f == 4)).value x

def w64 (n : Nat) : Word := BitVec.ofNat 64 n

/-- Addresses of row `m` of A for chunk `j`, ascending k (R192, R198); none is padding. -/
def Mop.aAddrs (o : Mop) (j m : Nat) : List (Option Word) :=
  let d := o.desc
  let base := w64 (blk d 0 8)
  let str := blk d 24 4
  let es := elemSize o.fa
  let p := o.origin.1 + m
  if o.fa = 6 then (List.range 17).map fun i => some (base + w64 (p * str + 17 * j + i))
  else if dConv d then
    let sh := o.shape
    let h : Int := blk sh 16 2
    let w : Int := blk sh 18 2
    let oh := blk sh 20 2
    let ow := blk sh 22 2
    let c := blk sh 28 2
    let fw := blk sh 31 1
    let b := p / (oh * ow)
    let oy := p / ow % oh
    let ox := p % ow
    let f := 32 * j / c
    let c0 := 32 * j % c
    let y : Int := oy * blk sh 32 1 - blk sh 36 2 + (f / fw) * blk sh 34 1
    let x : Int := ox * blk sh 33 1 - blk sh 38 2 + (f % fw) * blk sh 35 1
    (List.range 32).map fun i =>
      if y < 0 || h ≤ y || x < 0 || w ≤ x then none
      else some (base + w64 (((b * h.toNat + y.toNat) * w.toNat + x.toNat) * str + (c0 + i) * es))
  else (List.range 32).map fun i => some (base + w64 (p * str + (32 * j + i) * es))

/-- Addresses of column `n` of B for chunk `j`, ascending k. -/
def Mop.bAddrs (o : Mop) (j n : Nat) : List (Option Word) :=
  let d := o.desc
  let base := w64 (blk d 8 8)
  let str := blk d 28 4
  let c := o.origin.2 + n
  if o.fb = 6 then (List.range 17).map fun i => some (base + w64 (j * str + 17 * c + i))
  else (List.range 32).map fun i => some (base + w64 ((32 * j + i) * str + c * elemSize o.fb))

/-- Rows of A and columns of B that a chunk reads (R191, R193): the active ones of a tile that has both. -/
def Mop.readRows (o : Mop) : List Nat := if o.cols.isEmpty then [] else o.rows
def Mop.readCols (o : Mop) : List Nat := if o.rows.isEmpty then [] else o.cols

/-- The reads of chunk `j` in the order in which R194 reports them, each with the number of its run: a row of A, or 32 more than a
column of B. -/
def Mop.reads (o : Mop) (j : Nat) : List (Nat × Word) :=
  (o.readRows.flatMap fun m => ((o.aAddrs j m).filterMap id).map fun a => (m, a)) ++
    o.readCols.flatMap fun n => ((o.bAddrs j n).filterMap id).map fun a => (32 + n, a)

/-- The data of one run of a chunk, from the locations read: padding is 0. -/
def runData (got : Tab Nat) (tag es : Nat) (addrs : List (Option Word)) : List Nat :=
  addrs.map fun a => match a with
    | none => 0
    | some va => locElem got tag es va

/-! ### Accumulation (R58-R60) -/

/-- The exact sum of a list of values, or none when it is invalid. -/
def sumF : List FVal → Option FVal
  | [] => some (.fin false 0 0)
  | v :: vs => (sumF vs).bind fun r => v.add r

/-- Products of two lists, or none when one is invalid. -/
def products : List FVal → List FVal → Option (List FVal)
  | x :: xs, y :: ys => (x.mul y).bind fun p => (products xs ys).map fun r => p :: r
  | _, _ => some []

/-- Whether some product of two operands that are no NaN is 0 × ∞ (R50). -/
def badProduct (xs ys : List FVal) : Bool :=
  (List.zip xs ys).any fun z => !z.1.isNan && !z.2.isNan && (z.1.mul z.2).isNone

/-- A float update: acc plus the exact sum of the products, rounded once; an exact zero gives +0 (R58). Each condition counts
at most once, and NaN input and an invalid product may both count; opposing infinities beside a NaN do not count (DEDUCED, log
42). -/
def accFloat (acc : Nat) (xs ys : List FVal) : Nat × Cnt :=
  let a := Fmt.f32.value acc
  if a.isNan || xs.any FVal.isNan || ys.any FVal.isNan then
    (Fmt.f32.qnan, if badProduct xs ys then Cnt.oneNan.add Cnt.oneInv else Cnt.oneNan)
  else match (products xs ys).bind fun ps => sumF (a :: ps) with
    | none => (Fmt.f32.qnan, Cnt.oneInv)
    | some (.fin _ 0 _) => (0, Cnt.zero)
    | some v => Fmt.f32.deliver false v

/-- An integer update, wrapped to i32 (R59). -/
def accInt (acc : Nat) (xs ys : List Int) : Nat × Cnt :=
  let t : IFmt := ⟨32, true⟩
  t.wrapCount (t.value acc + (List.zipWith (· * ·) xs ys).foldl (· + ·) 0)

/-- A q4 block's 32 values from its 17 bytes (R53, R55). -/
def blockVals (bytes : List Nat) : List FVal :=
  let b := bytes.foldr (fun x acc => acc * 256 + x) 0
  (List.range 32).map fun i => q4Value b i

/-- One element's update for a chunk by the operation's formats. -/
def accumulate (fa fb acc : Nat) (xs ys : List Nat) : Nat × Cnt :=
  if fa = 6 then accFloat acc (blockVals xs) (blockVals ys)
  else if fa = 4 || fa = 5 then accInt acc (xs.map (elemInt fa)) (ys.map (elemInt fb))
  else accFloat acc (xs.map (elemVal fa)) (ys.map (elemVal fb))

/-! ### Banks and the table of operations (R184, R185, R203) -/

def Matrix.bank (x : Matrix) (b : Acc) : BitVec 32768 := if b = 0 then x.acc0 else x.acc1
def Matrix.setBank (x : Matrix) (b : Acc) (v : BitVec 32768) : Matrix :=
  if b = 0 then { x with acc0 := v } else { x with acc1 := v }

/-- Element (m, n) of a bank. -/
def bankAt (v : BitVec 32768) (m n : Nat) : Nat := v.toNat / 2 ^ (32 * (32 * m + n)) % 2 ^ 32

/-- A bank from its elements in order. -/
def bankOf' (xs : List Nat) : BitVec 32768 := BitVec.ofNat 32768 (xs.foldr (fun x acc => acc * 2 ^ 32 + x % 2 ^ 32) 0)

/-- Whether a bank is held by an operation or a running bank instruction. -/
def Matrix.isHeld (x : Matrix) (b : Acc) : Bool :=
  (x.ops.any fun o => o.held && o.bank == b) || x.banks.any fun o => o.run && o.bank == b

/-- Replaces an operation, found by its issue order. -/
def Matrix.setOp (x : Matrix) (o : Mop) : Matrix := { x with ops := x.ops.map fun y => if y.ord = o.ord then o else y }
def Matrix.dropOp (x : Matrix) (o : Mop) : Matrix := { x with ops := x.ops.filter fun y => y.ord != o.ord }

def State.setMx (s : State) (p : Nat) (f : Matrix → Matrix) : State := s.modCore p fun c => { c with mx := f c.mx }

/-- Writes fields of the operation's thread's `mprog`: ACT, BANK, PHASE, KDONE (R201). -/
def State.putMprog (s : State) (p : Nat) (o : Mop) (act phase : Nat) : State :=
  if o.discard then s
  else
    let w : Word := BitVec.ofNat 64 (act * 2 ^ 63 + o.bank.val * 2 ^ 62 + phase * 2 ^ 60 + o.kdone % 2 ^ 26)
    s.modThread p o.thr fun th => { th with crs := { th.crs with mprog := w } }

/-- Writes `dprog` for an operation: ACT, BANK, SLOT, NEXT (R227). -/
def State.putDprog (s : State) (p : Nat) (o : Mop) (act : Nat) : State :=
  if o.discard then s
  else
    let w : Word := BitVec.ofNat 64 (act * 2 ^ 63 + o.bank.val * 2 ^ 62 + dProg o.desc * 2 ^ 58 + o.next)
    s.modThread p o.thr fun th => { th with crs := { th.crs with dprog := w } }

/-- The lowest active row not below `m`, or 32. -/
def Mop.rowFrom (o : Mop) (m : Nat) : Nat := (o.drainRows.find? fun r => m ≤ r).getD 32

/-- A thread that waits for the matrix side. -/
def State.inMatrix (s : State) (p t : Nat) : Bool := t < 16 && (s.thread p t).wait == .matrix

/-- The operation parks, its thread LATCHED (R194, R226), and its open misses are its own no more: a resumed operation asks afresh (R233). An
operation whose thread is gone just ends, but for the stores of rows that it has committed. DESIGN CHOICE (log 69): R113 gives a thread of a
Setter core no latch and no `fack`, so its operation stays PARKED and holds its bank until the thread leaves; after `eret` the `mma` issues
afresh and waits behind it. -/
def State.park (s : State) (p : Nat) (o : Mop) (tr : Trap) : State :=
  let s := { s with misses := s.misses.filter fun m => match m.who with
    | .array q _ n => !(q == p && n == o.ord)
    | _ => true }
  if o.discard then s.setMx p fun x => { x with ops := x.ops.flatMap fun y => if y.ord = o.ord then o.ends else [y] }
  else
    let s := s.setMx p fun x => x.setOp { o with st := .parked, unit := false, got := [] }
    (s.putMprog p o 1 2).trapThread p o.thr (s.thread p o.thr).latch.word tr

/-! ### mma (R199, R200) -/

/-- A pair that R57 lists. -/
def pairOk (fa fb : Nat) : Bool :=
  match fa, fb with
  | 0, 0 | 0, 1 | 1, 0 | 1, 1 | 2, 2 | 3, 3 | 4, 4 | 4, 5 | 5, 4 | 5, 5 | 6, 6 => true
  | _, _ => false

/-- Cause 8 of R199 (R207): the slot's copy, or none. -/
def Matrix.slotFor (x : Matrix) (d : BitVec 512) : Option (List (BitVec 32) × Nat) :=
  let sl := tget {} x.slots (dProg d)
  match sl.prog, sl.tlen with
  | some pr, some n => if dTab d % 4 = 0 && dTab d + n ≤ 6144 then some (pr, n) else none
  | _, _ => none

/-- Step 3 of R199 but for cause 8, in ascending cause (log 16); 0 when none applies. A zero filter size is cause 5's, not a K that is no
product of it. An EARLY die refuses q4 (R396). -/
def mmaCause (early : Bool) (acc fa fb levels : Nat) (direct : Bool) (d sh : BitVec 512) : Nat :=
  let sc := if direct then 0 else shapeCause levels sh
  let k := dK d
  let c := blk sh 28 2
  if blk d 42 1 / 16 % 8 ≠ 0 || blk d 43 1 / 8 ≠ 0 || blk d 60 4 ≠ 0 || sc = 1 then 1
  else if blk d 43 1 / 4 % 2 ≠ acc then 2
  else if k < 32 || 0x7FFFFFE0 < k || k % 32 ≠ 0 || (dConv d && !direct && blk sh 30 1 * blk sh 31 1 * c ≠ 0 && k ≠ blk sh 30 1 * blk sh 31 1 * c) then 3
  else if !pairOk fa fb || (early && (fa == 6 || fb == 6)) then 4
  else if dConv d && (direct || fa = 6 || c = 0 || c % 32 ≠ 0 ||
      [blk sh 16 2, blk sh 18 2, blk sh 20 2, blk sh 22 2, blk sh 24 4, blk sh 30 1, blk sh 31 1, blk sh 32 1,
       blk sh 33 1, blk sh 34 1, blk sh 35 1].any (· == 0)) then 5
  else if (direct && !(1 ≤ blk d 46 1 && blk d 46 1 ≤ 32 && 1 ≤ blk d 47 1 && blk d 47 1 ≤ 32)) ||
      (!direct && blk d 46 2 ≠ 0) then 6
  else sc

/-- Step 4 of R199: a base or stride that breaks R192, with the base's address. -/
def mmaMisaligned (fa fb : Nat) (d : BitVec 512) : Option Word :=
  let bad (f base str : Nat) : Bool := f != 6 && (blk d base 8 % elemSize f != 0 || blk d str 4 % elemSize f != 0)
  if bad fa 0 24 then some (w64 (blk d 0 8)) else if bad fb 8 28 then some (w64 (blk d 8 8)) else none

def Trap.drain (cause : Nat) : Trap := { kind := 11, cause := cause }

/-- MMA (R199, R200). A resumed operation's reissue goes back to its matrix wait. -/
def execMma (acc : Acc) (a b : GReg) (fa fb : Fin 16) (s : State) : Out :=
  .next (s.issue [a, b] [] fun s =>
    let p := s.cur.core
    let t := s.cur.thr
    let c := s.myCore
    if s.me.latch.kind = .reissue && c.mx.ops.any (fun o => o.thr == t && !o.discard) then .wait s .matrix
    else
      let ga := s.gr a
      let gb := s.gr b
      let direct := ga = 0
      if gb.toNat % 64 ≠ 0 then .trap (.align gb)
      else if ga.toNat % 64 ≠ 0 then .trap (.align ga)
      else if c.dirLimit < gb.toNat + 64 then .trap (.access gb)
      else if !direct && c.dirLimit < ga.toNat + 64 then .trap (.access ga)
      else
        let d := c.block gb.toNat
        let sh := if direct then 0 else c.block ga.toNat
        let fa := if fa = 15 then bits s.me.crs.fmta 3 0 else fa.val
        let fb := if fb = 15 then bits s.me.crs.fmtb 3 0 else fb.val
        let cause := mmaCause (s.early p) acc fa fb (s.levelsOf p s.me.slot) direct d sh
        let slot := c.mx.slotFor d
        if cause ≠ 0 then .trap (.drain cause)
        else if dDrn d && slot.isNone then .trap (.drain 8)
        else match mmaMisaligned fa fb d with
          | some x => .trap (.align x)
          | none =>
            let o : Mop := { thr := t, st := .queued, bank := acc, desc := d, shape := sh, direct := direct,
                             geom := s.me.crs.geom, fa := fa, fb := fb,
                             prog := if dDrn d then (slot.map Prod.fst).getD [] else [],
                             tlen := if dDrn d then (slot.map Prod.snd).getD 0 else 0, ord := c.mx.ord,
                             dbg := bits s.me.crs.fmode 6 6 = 1 }
            let s := s.setMx p fun x => { x with ops := x.ops ++ [o], ord := x.ord + 1 }
            .wait (s.putMprog p o 0 1) .matrix)

/-- MGEO (R202). -/
def execMgeo (a : GReg) (s : State) : Out :=
  .next (s.issue [a] [] fun s =>
    let ga := s.gr a
    if ga.toNat % 64 ≠ 0 then .trap (.align ga)
    else if s.myCore.dirLimit < ga.toNat + 64 then .trap (.access ga)
    else
      let sh := s.myCore.block ga.toNat
      let cause := shapeCause (s.levelsOf s.cur.core s.me.slot) sh
      if cause ≠ 0 then .trap (.drain cause)
      else
        let r := s.rankOf s.cur.core s.cur.thr (blk sh 8 1 % 8)
        .done (s.modMe fun th => { th with crs := { th.crs with geom := geomOf sh r } }))

/-! ### Bank instructions (R203) -/

/-- Begins a bank instruction in the matrix wait; it runs at once when the bank is free. -/
def State.bankOp (s : State) (op : Nat) (acc : Acc) (addr : Nat) : Ends :=
  let run := !s.myCore.mx.isHeld acc && !(s.myCore.mx.banks.any fun b => b.bank == acc)
  .wait (s.setMx s.cur.core fun x =>
    { x with banks := x.banks ++ [⟨s.cur.thr, acc, op, addr, x.ord, run, []⟩], ord := x.ord + 1 }) .matrix

/-- MZERO (R203): within the rotation when the bank is free. -/
def execMzero (acc : Acc) (s : State) : Out :=
  .next (s.issue [] [] fun s =>
    if !s.myCore.mx.isHeld acc && !(s.myCore.mx.banks.any fun b => b.bank == acc) then
      .done (s.setMx s.cur.core fun x => x.setBank acc 0)
    else s.bankOp 0 acc 0)

/-- `msave` and `mrest`: ALIGN, ACCESS, then the wait. -/
def bankMove (op : Nat) (acc : Acc) (a : GReg) (s : State) : Out :=
  .next (s.issue [a] [] fun s =>
    let ga := s.gr a
    if ga.toNat % 64 ≠ 0 then .trap (.align ga)
    else if s.myCore.dirLimit < ga.toNat + 4096 then .trap (.access ga)
    else s.bankOp op acc ga.toNat)

/-- MSAVE (R203). -/
def execMsave (acc : Acc) (a : GReg) (s : State) : Out := bankMove 1 acc a s
/-- MREST (R203). -/
def execMrest (acc : Acc) (a : GReg) (s : State) : Out := bankMove 2 acc a s

/-- A bank instruction's thread rejoins rotation, if it still waits. -/
def State.endMatrix (s : State) (p t : Nat) : State := if s.inMatrix p t then s.complete p t else s

/-- BANK_OP_TAKE (R203): the oldest waiting bank instruction takes its released bank; `mzero` is then done. -/
def execBankOpTake (core : Nat) (bank : Acc) (s : State) : Out :=
  .next (
    let x := (s.core core).mx
    match x.banks.find? fun b => b.bank == bank && !b.run with
    | some b =>
      if x.isHeld bank then s
      else if b.op = 0 then
        (s.setMx core fun x => { x.setBank bank 0 with banks := x.banks.erase b }).endMatrix core b.thr
      else s.setMx core fun x => { x with banks := x.banks.map fun y => if y = b then { b with run := true } else y }
    | none => s)

/-- Writes `w` bits of a register image from bit `i` on. -/
def setNat {n : Nat} (v : BitVec n) (i w x : Nat) : BitVec n :=
  BitVec.ofNat n (v.toNat / 2 ^ (i + w) * 2 ^ (i + w) + x % 2 ^ w * 2 ^ i + v.toNat % 2 ^ i)

/-- Location `i` of a bank transfer: 8 bytes move between direct storage and the bank. -/
def State.bankMoveAt (core : Nat) (b : BankOp) (s : State) (i : Nat) : State :=
  let s := s.land core b.thr (b.addr + 8 * i) 8
  if b.op = 1 then s.dwrite core (b.addr + 8 * i) 8 (((s.core core).mx.bank b.bank).toNat / 2 ^ (64 * i) % 2 ^ 64)
  else s.setMx core fun x => x.setBank b.bank (setNat (x.bank b.bank) (64 * i) 64 ((s.core core).dread (b.addr + 8 * i) 8))

/-- BANK_TRANSFER_COMPLETE (R203): the locations not yet moved move, but for those that `skip` leaves to a later step, each for itself (R255);
with the last of the 512 the instruction is done. -/
def execBankTransferComplete : Portion → Acc → State → Out
  | ⟨core, skip⟩, bank, s => .next (
    match (s.core core).mx.banks.find? fun b => b.bank == bank && b.run with
    | some b =>
      let now := (List.range 512).filter fun i => !b.done.contains i && !skip.contains i
      let s := now.foldl (State.bankMoveAt core b) s
      if (List.range 512).all fun i => b.done.contains i || now.contains i then
        (s.setMx core fun x => { x with banks := x.banks.erase b }).endMatrix core b.thr
      else s.setMx core fun x => { x with banks := x.banks.map fun y => if y = b then { b with done := b.done ++ now } else y }
    | none => s)

/-! ### Admission and chunks (R185, R194, R196) -/

/-- Whether a QUEUED operation can be admitted to the array. -/
def Matrix.admissible (x : Matrix) (o : Mop) : Bool :=
  o.st == .queued && !o.inDrain &&
    (o.held || (!x.isHeld o.bank && !x.banks.any fun b => b.bank == o.bank && b.ord < o.ord))

/-- MMA_ADMISSION (R185). -/
def execMmaAdmission (core : Nat) (s : State) : Out :=
  .next (
    let x := (s.core core).mx
    if (s.core core).moveTo.isSome || x.ops.any fun o => o.st == .accumulating then s
    else match x.ops.find? x.admissible with
      | none => s
      | some o =>
        let fresh := !o.held && !dInit o.desc
        let o := { o with st := .accumulating, held := true }
        let s := s.setMx core fun x => if fresh then (x.setOp o).setBank o.bank 0 else x.setOp o
        s.putMprog core o 1 2)

/-- The bank after a chunk, and the conditions met. -/
def Mop.addChunk (o : Mop) (bank : BitVec 32768) (av bv : List (Nat × List Nat)) : BitVec 32768 × Cnt :=
  let rs := (List.range 1024).map fun i =>
    let old := bankAt bank (i / 32) (i % 32)
    match av.find? fun r => r.1 == i / 32, bv.find? fun r => r.1 == i % 32 with
    | some a, some b => accumulate o.fa o.fb old a.2 b.2
    | _, _ => (old, Cnt.zero)
  (bankOf' (rs.map Prod.fst), (rs.map Prod.snd).foldl Cnt.add Cnt.zero)

/-- Whether an operation's table window has bytes in common with a table copy's (R207, R210). -/
def Mop.overlaps (o : Mop) (b : TabCopy) : Bool :=
  dDrn o.desc && o.tlen != 0 && b.len != 0 && dTab o.desc < b.toff + b.len && b.toff < dTab o.desc + o.tlen

/-- A running table copy that keeps a younger operation from DRAINING (R210). -/
def Matrix.tableBusy (x : Matrix) (o : Mop) : Bool := x.tabs.any fun b => b.run && b.ord < o.ord && o.overlaps b

/-- The last chunk is added: COMPLETE, or DRAINING with its place in the order of the drain unit (R184, R185, R227). -/
def State.afterChunks (s : State) (p : Nat) (o : Mop) : State :=
  if o.kdone < dK o.desc / 32 then s.setMx p fun x => x.setOp o
  else if dDrn o.desc then
    let o := { o with st := .draining, drn := some (s.core p).mx.dord, next := o.rowFrom 0 }
    let s := s.setMx p fun x => { x.setOp o with dord := x.dord + 1 }
    (s.putMprog p o 1 3).putDprog p o 1
  else s.setMx p fun x => x.setOp { o with st := .complete }

/-- CHUNK_ACCUMULATE (R193-R196): the reads of one chunk, each location for itself, but for those that `leave` names by address / 8; once all
are made the chunk is added, or its first failing read parks the operation. The record of an operand's POISON names chunk and operand as R194
asks; R331 gives kind 13 no place for them (DESIGN CHOICE, log 42): DETAIL [57:48] and [46:32] hold the chunk around the drain flag [47], which is
0, and bit 58 the operand. -/
def execChunkAccumulate : Portion → State → Out
  | ⟨core, leave⟩, s => .next (match (if (s.core core).moveTo.isSome then none else (s.core core).mx.ops.find? fun o => o.st == .accumulating) with
    | none => s
    | some o =>
      let j := o.kdone
      let esA := if o.fa = 6 then 1 else elemSize o.fa
      let esB := if o.fb = 6 then 1 else elemSize o.fb
      if j + 1 = dK o.desc / 32 && (s.core core).mx.tableBusy o then s
      else
        let x := (o.reads j).foldl (fun x r => x.read core o.who o.ord leave r.1 (locKey r.1 r.2) r.2) ({ s := s, got := o.got } : Piece)
        match x.trap with
        | some (k, tr) =>
          if o.discard || s.inMatrix core o.thr then
            x.s.park core o { tr with detail := (if tr.kind = 13 then j % 2 ^ 15 + j / 2 ^ 15 * 2 ^ 16 else j) * 2 ^ 32 + k / 32 * 2 ^ 58 }
          else s
        | none =>
          if x.left then x.s.setMx core fun m => m.setOp { o with got := x.got }
          else
            let s := x.s
            let av := o.readRows.map fun m => (m, runData x.got m esA (o.aAddrs j m))
            let bv := o.readCols.map fun n => (n, runData x.got (32 + n) esB (o.bAddrs j n))
            let r := o.addChunk ((s.core core).mx.bank o.bank) av bv
            let o := { o with kdone := j + 1, got := [] }
            let s := (s.setMx core fun x => x.setBank o.bank r.1).modCore core fun c => c.count r.2
            (s.putMprog core o 1 2).afterChunks core o)

/-- MATRIX_OPERATION_COMPLETE (R184, R200, R228, R230): the bank is released, and the thread rejoins rotation, once stores that complete from a
vacated core have settled too. -/
def execMatrixOperationComplete (core thr : Nat) (s : State) : Out :=
  .next (
    let x := (s.core core).mx
    match x.ops.find? fun o => o.thr == thr && o.stores.isEmpty && (o.st == .complete ||
        (o.st == .draining && o.unit && o.next == 32 && x.drain.buf.isEmpty && x.drain.rows.isEmpty)) &&
        (o.site.isSome || x.ops.all fun y => y.thr != thr || y.site.isNone) with
    | some o =>
      if (s.core core).moveTo.isSome then s
      else if o.discard || o.site.isSome then s.setMx core fun x => x.dropOp o
      else if s.inMatrix core thr then
        let s := (s.setMx core fun x => x.dropOp o).putMprog core o 0 0
        let s := if dDrn o.desc then s.putDprog core o 0 else s
        s.complete core thr
      else s
    | none => s)

end Sys2Proof.Machine
end

