-- ==== Sys2Proof/Machine/Copy.lean ====
section
/-!
DEFINITION. Copies (R259, R267-R280): the copy instructions, Retrievers, and token writes (R167).
-/

namespace Sys2Proof.Machine

/-! ### The descriptor (R267, R268) -/

/-- Bytes `off` to `off + n - 1` of a copy descriptor. -/
def CopyReq.field (r : CopyReq) (off n : Nat) : Nat := r.desc.toNat / 2 ^ (8 * off) % 2 ^ (8 * n)
def CopyReq.src (r : CopyReq) : Word := BitVec.ofNat 64 (r.field 0 8)
def CopyReq.dst (r : CopyReq) : Word := BitVec.ofNat 64 (r.field 8 8)
def CopyReq.e0 (r : CopyReq) : Nat := r.field 16 4
/-- Extent of dimension 1, 2 or 3. -/
def CopyReq.ext (r : CopyReq) (i : Nat) : Nat := r.field (16 + 4 * i) 4
/-- Strides of dimension 1, 2 or 3, sign-extended. -/
def CopyReq.ss (r : CopyReq) (i : Nat) : Word := sextN (r.field (28 + 4 * i) 4) 32
def CopyReq.ds (r : CopyReq) (i : Nat) : Word := sextN (r.field (40 + 4 * i) 4) 32
def CopyReq.aux (r : CopyReq) : Word := BitVec.ofNat 64 (r.field 56 8)
def CopyReq.ename (r : CopyReq) : Word := BitVec.ofNat 64 (r.field 64 8)
def CopyReq.ectl (r : CopyReq) : Word := BitVec.ofNat 64 (r.field 72 8)
def CopyReq.itype (r : CopyReq) : Nat := r.field 80 4 % 4
/-- `gath` or `scat`. -/
def CopyReq.indexed (r : CopyReq) : Bool := r.form == 1 || r.form == 2
/-- Number of elements. -/
def CopyReq.total (r : CopyReq) : Nat := r.ext 1 * r.ext 2 * r.ext 3
/-- Bytes of an index. -/
def CopyReq.iw (r : CopyReq) : Nat := if r.itype = 2 then 8 else 4
/-- A zero-extent copy (R276). -/
def CopyReq.zeroExtent (r : CopyReq) : Bool := r.e0 == 0 || r.total == 0

/-- The strides a copy uses (R268). -/
def CopyReq.strides (r : CopyReq) : List Word :=
  match r.form with
  | 1 => r.ss 1 :: if r.ext 1 > 1 then [r.ds 1] else []
  | 2 => r.ds 1 :: if r.ext 1 > 1 then [r.ss 1] else []
  | _ => [1, 2, 3].flatMap fun i =>
      if r.ext i = 1 then [] else (if r.form = 0 then [r.ss i] else []) ++ [r.ds i]

/-- The event instance for which an `.ev` copy offers. -/
def CopyReq.key (r : CopyReq) : EvKey := ⟨r.ename, r.ctx, r.inst⟩

/-- Check 3 of R278: the first descriptor cause that holds. -/
def CopyReq.bad (r : CopyReq) (levels : Nat) : Option Trap :=
  let off8 (x : Word) : Bool := x.toNat % 8 != 0
  if (r.form = 0 && r.aux != 0) || (!r.ev && (r.ename != 0 || r.ectl != 0)) || r.field 80 4 / 4 != 0 || r.field 84 44 != 0 ||
      (r.indexed && r.itype == 3) then some (.access 0 32)
  else if (r.indexed && (r.ext 2 != 1 || r.ext 3 != 1)) || 2 ^ 32 ≤ r.total then some (.access 0 33)
  else if !r.ev && (r.d = 28 || r.d = 29) then some (.access 0 34)
  else if r.e0 % 8 != 0 || off8 r.dst || r.strides.any off8 || (r.form != 3 && off8 r.src) ||
      (r.indexed && r.aux.toNat % r.iw != 0) then some { kind := 2, cause := 35 }
  else if r.ev && (bits r.ename 63 60 != 3 || eventBad levels r.ename r.ectl || bits r.ectl 63 63 = 1 || 1 < ctlSize r.ectl)
    then some { kind := 8, cause := 36 }
  else none

/-! ### The instructions (R278, R279) -/

/-- A copy instruction: its form, token register (0: none) and address register. -/
def copyIssue (form : Nat) (ev : Bool) (d a : GReg) (s : State) : Out :=
  .next (s.issue [a] [d] fun s =>
    let x := s.gr a
    let p := s.cur.core
    let t := s.cur.thr
    if x.toNat % 64 ≠ 0 then .trap (.align x)
    else if s.myCore.dirLimit < x.toNat + 128 then .trap (.access x)
    else
      let s := s.land p t x.toNat 128
      let r : CopyReq := { form := form, ev := ev, desc := BitVec.ofNat 1024 (s.myCore.dread x.toNat 128), daddr := x.toNat,
                           pc := s.me.regs.pc, d := d.val, gtn := s.gtn p t, ctx := s.myCore.ctx, slot := s.me.slot }
      let r := { r with inst := s.instOf r.slot p t (bits r.ename 59 56) }
      match r.bad (s.levelsOf p r.slot) with
      | some tr => .trap tr
      | none =>
        match s.post p t (.copy r) [] with
        | none => .again .journal
        | some s => .done (if d = 0 then s else s.modMe fun th => { th with pend := th.pend ||| ((1 : BitVec 32) <<< d.val) }))

/-- CPY (R268, R278, R279). -/
def execCpy (d a : GReg) (s : State) : Out := copyIssue 0 false d a s
/-- GATH (R268, R278, R279). -/
def execGath (d a : GReg) (s : State) : Out := copyIssue 1 false d a s
/-- SCAT (R268, R278, R279). -/
def execScat (d a : GReg) (s : State) : Out := copyIssue 2 false d a s
/-- FILL (R268, R278, R279). -/
def execFill (d a : GReg) (s : State) : Out := copyIssue 3 false d a s
/-- CPY_EV (R168, R277-R279). -/
def execCpyEv (a : GReg) (s : State) : Out := copyIssue 0 true 0 a s
/-- GATH_EV (R168, R277-R279). -/
def execGathEv (a : GReg) (s : State) : Out := copyIssue 1 true 0 a s
/-- SCAT_EV (R168, R277-R279). -/
def execScatEv (a : GReg) (s : State) : Out := copyIssue 2 true 0 a s
/-- FILL_EV (R168, R277-R279). -/
def execFillEv (a : GReg) (s : State) : Out := copyIssue 3 true 0 a s

/-! ### Where a request goes (R259, R270, R271) -/

/-- The stack of a copy's anchor, as its core's first two TLB levels know it (R270). An LWIN page's
is the one by the die that holds its core. -/
def State.anchorStack (s : State) (p ctx : Nat) (va : Word) : Nat :=
  let near := bankOf (dieOf p)
  match eaKind va with
  | .virt =>
    let e := if isSetter p then firmwareTlb va.toNat
      else match findTlb (s.core p).ca.tlb ctx va.toNat with
        | some e => some e
        | none => findTlb (s.cluster (clusterOf p)).tlb ctx va.toNat
    let pl : Option Place := e.map fun e => e.place va.toNat
    match pl with
    | some (.line l _ _) => stackOf l
    | some (.lwin q _) => ((s.phys q).map fun q => bankOf (dieOf q)).getD near
    | _ => near
  | _ => near

/-- The RT with which a journal entry's request leaves (R258, R259). -/
def State.requestRt (s : State) (p : Nat) (e : JEntry) : Word :=
  if e.thr < 16 then maxW e.p (s.thread p e.thr).rt else e.p

/-- Hops of an engine's request (R383): the core's bridge, its die's request network, and the routers to the engine's site. -/
def State.requestHops (s : State) (p site : Nat) : Nat := spareHop p + 1 + s.routers (siteOfDie (dieOf p)) site

/-- A request of the entry is on its way. -/
def State.underWay (s : State) (p i : Nat) : Bool :=
  s.net.any fun m => match m.body with
    | .copyReq _ c e => c == p && e == i
    | .relReq _ c e => c == p && e == i
    | _ => false

/-- The address of the object that a reference names (R281). -/
def refAddr (v : Word) : Nat := bits v 47 4 * 16

/-- The requester of a core's miss for the object of an entry's relocation request. -/
def htagWho (p i : Nat) : MissWho := .kennel (2 ^ 44 + 16 * p + i)

/-- A relocation request leaves for the Collie of the stack that holds the object's first byte (R291): its translation is found at some
level, or first filled; a page that the fill does not find is left to the Collie of the nearest stack to report (DEDUCED, log 26). -/
def State.sendReloc (s : State) (p i : Nat) (r : RelReq) : State :=
  let a := refAddr r.ref
  let near := bankOf (dieOf p)
  let mine (m : Miss) : Bool := m.who == htagWho p i
  let go (k : Nat) : State :=
    ({ s with misses := s.misses.filter fun m => !mine m }).send .request (s.endpOf p) (.collie k) r.ctx
      (.relReq { r with hops := s.requestHops p (siteOfStack k) } p i)
  match (match s.tlb1 p a with
    | some e => some e
    | none => s.anyTlb r.ctx a) with
  | some e => go (match e.place a with
    | .line l _ _ => stackOf l
    | _ => near)
  | none =>
    if s.misses.any fun m => mine m && m.none' then go near
    else s.addMiss (htagWho p i) r.ctx (clusterOf p) r.slot (BitVec.ofNat 64 a) 1 r.gtn r.rt

/-- COPY_REQUEST_LEAVES (R259, R270): a copy request leaves once earlier posted stores are settled, and in the same way a
relocation request (R303), and a `launch` request (R357), which takes its place
in issue order. -/
def execCopyRequestLeaves (core entry : Nat) (s : State) : Out :=
  .next (
    let c := s.core core
    let e := c.entry entry
    match e.kind with
    | .launch r =>
      if e.busy && c.settledBefore e.thr e.ord then
        let r := { r with rt := s.requestRt core e }
        let s := s.release core entry
        { s with launches := s.launches.takeWhile (fun x => x.ord < r.ord) ++ r :: s.launches.dropWhile (fun x => x.ord < r.ord) }
      else s
    | .copy r =>
      if e.busy && !r.zeroExtent && c.settledBefore e.thr e.ord && !s.underWay core entry then
        let a := if r.form = 1 then r.aux else if r.form = 3 then r.dst else r.src
        let k := 2 * s.anchorStack core r.ctx a + Config.retriever s.tick % 2
        s.send .request (s.endpOf core) (.retr k) r.ctx 
          (.copyReq { r with rt := s.requestRt core e, retr := k, hops := s.requestHops core (siteOfStack (k / 2)) } core entry)
      else s
    | .htag r =>
      if e.busy && c.settledBefore e.thr e.ord && !s.underWay core entry then
        s.sendReloc core entry { r with rt := s.requestRt core e }
      else s
    | _ => s)

/-- COPY_REQUEST_ACCEPT (R271, R273): message `k` finds room in its Retriever's queue of 64. -/
def execCopyRequestAccept (k : Nat) (s : State) : Out :=
  .next (match s.arrived k with
    | some ⟨_, _, .retr r, _, _, _, _, _, _, _, _, _, .copyReq req core entry⟩ =>
      let t := s.retr r
      if t.queue.length < 64 then
        ((s.drop k).setRetr r { t with queue := t.queue ++ [req] }).release core entry
      else s
    | _ => s)

/-- COPY_START (R271): up to four copies run; within one context they start in the order accepted, and which context's starts
is a free choice (its shares set only times, R12). -/
def execCopyStart (ret : Nat) (s : State) : Out :=
  .next (
    let t := s.retr ret
    let firsts := t.queue.filter fun x => t.queue.find? (fun y => y.ctx == x.ctx) == some x
    match firsts[Config.victim s.tick % firsts.length]? with
    | some x =>
      if t.active.length < 4 then
        s.setRetr ret { t with queue := t.queue.erase x, active := t.active ++ [{ req := x, id := s.tick }] }
      else s
    | none => s)

/-! ### Elements (R268, R269, R274, R275) -/

/-- Where an engine's unit lies. -/
inductive EngAt where
  | ok (pl : Place)
  | miss (s : State)
  /-- place in R274's order -/
  | fault (s : State) (rank : Nat)

/-- Translation through a Retriever's or Collie's bank (R269, R310); `who` and `whoWord` name the requester of a miss. -/
def State.engPlace (s : State) (stack : Nat) (who : MissWho) (whoWord ctx gtn slot limit : Nat) (rt : Word) (n : AccNeed)
    (va : Word) (w : Nat) : EngAt :=
  match eaKind va with
  | .bad => .fault s 1
  | .direct => if va.toNat + w ≤ limit then .ok (.direct va.toNat) else .fault s 1
  | .virt =>
    let e := if ctx = 64 then firmwareTlb va.toNat else findTlb (s.stack stack).tlb ctx va.toNat
    match e with
    | some e => match checkPage e n va with
      | .ok pl => .ok pl
      | _ => .fault s 1
    | none =>
      if s.misses.any fun m => m.who == who && m.none' && m.va.toNat / 65536 == va.toNat / 65536 then
        .fault { s with misses := s.misses.filter fun m => !(m.who == who && m.none') } 2
      else
        let cluster := match s.whereIs gtn with
          | some (p, _) => clusterOf p
          | none => gtn / 256
        .miss (s.addMiss who ctx cluster slot va n.acc whoWord rt)

/-- Physical core of the thread that issued a copy; none when its logical core is dead (R8), which has no direct storage. -/
def State.issuer (s : State) (r : CopyReq) : Option Nat := if r.ctx = 64 then some r.inst else (s.whereIs r.gtn).map Prod.fst

/-- The first byte past the issuing core's direct storage. -/
def State.issuerLimit (s : State) (r : CopyReq) : Nat := ((s.issuer r).map fun p => (s.core p).dirLimit).getD 0

/-- A place that a slice serves. -/
def Place.isLine : Place → Bool
  | .line _ _ _ => true
  | _ => false

/-- A Retriever reaches a place of a copy: its issuer's direct storage lies on the issuer's die. -/
def State.copyReach (s : State) (ret : Nat) (r : CopyReq) (pl : Place) : Bool :=
  match pl with
  | .direct _ => match s.issuer r with
    | some p => s.ways (siteOfStack (ret / 2)) (siteOfDie (dieOf p))
    | none => true
  | pl => s.reachable (siteOfStack (ret / 2)) pl

/-- A place waits while no link leads there from a site (R373, R396). -/
def EngAt.reached (x : EngAt) (s : State) (site : Nat) : EngAt :=
  match x with
  | .ok pl => if s.reachable site pl then .ok pl else .miss s
  | x => x

/-- A copy's translation of one unit. It waits while the link that leads there is down, and for a place that needs a slice while the
context's seed changes (R241, R280). -/
def State.copyPlace (s : State) (ret id : Nat) (r : CopyReq) (n : AccNeed) (va : Word) (w : Nat) : EngAt :=
  match s.engPlace (ret / 2) (.retr ret id) (2 ^ 63 + ret / 2 + ret % 2 * 128) r.ctx r.gtn r.slot
    (s.issuerLimit r) r.rt n va w with
  | .ok pl => if s.copyReach ret r pl && !(pl.isLine && s.reseeding r.ctx) then .ok pl else .miss s
  | x => x

/-- A row's places, a wait, or the fault that R274 reports: the first in its order, at the lowest unit. -/
inductive Row where
  | ok (pls : List Place)
  | wait (s : State)
  | fault (s : State) (rank : Nat) (a : Word)

/-- Translates the units of a row in order, each by `f`. A row that still waits keeps the answers it has. -/
def rowPlaces (f : State → Word → EngAt) : List Word → State → Row
  | [], _ => .ok []
  | va :: vas, s =>
    match f s va with
    | .miss s => match rowPlaces f vas s with
      | .wait s => .wait s
      | _ => .wait s
    | .fault s' k => match rowPlaces f vas s with
      | .fault s k' a => if k' < k then .fault s k' a else .fault s k va
      | .wait s => .wait s
      | .ok _ => .fault s' k va
    | .ok pl => match rowPlaces f vas s with
      | .ok pls => .ok (pl :: pls)
      | x => x

/-- A read of a unit for a context by an engine at logical time `p` (R259): its value, or the place in R274's order of a refusal. -/
def State.engLoad (s : State) (ctx core : Nat) (p : Word) (pl : Place) (w : Nat) : State × (Nat ⊕ Nat) :=
  match pl with
  | .direct a => (s, .inl ((s.core core).dread a w))
  | .line l off _ =>
    if s.poison.contains l then (s, .inr 4)
    else
      let s := s.dieGives l
      let h := s.home l
      (s.setHome l { h with rts := maxW h.rts (maxW p h.wts) }, .inl (mread s.dram (l * 512 + off) w))
  | .lwin l a =>
    match s.phys l with
    | some q => if a + w ≤ (s.core q).dirLimit then (s, .inl ((s.core q).dread a w)) else (s, .inr 1)
    | none => (s, .inr 1)
  | .remote m a =>
    if Config.podAnswer s.tick = 0 then
      (s.podSend ctx m (a / 64) a w, if Config.farPoison s.tick then .inr 4 else .inl (mread s.pod (m * 2 ^ 52 + a) w))
    else (s, .inr (if Config.podAnswer s.tick = 1 then 3 else 5))
  | .host a =>
    if Config.farPoison s.tick then (s, .inr 4)
    else if Config.hostRefuses s.tick then (s, .inr 5)
    else (s, .inl (mread s.host a w))

/-- What a row's reads give: what has been read so far, and whether units are left to a later read. -/
inductive RowData where
  | ok (s : State) (got : Tab Nat) (left : Bool)
  | wait (s : State)
  | fault (s : State) (rank : Nat) (a : Word)

/-- Reads units of a translated row, each known by a number, but for those read already and those left to a later read. A
refusal counts when none is left (R274): until then its unit is one still to read. -/
def readPlaces (ctx core : Nat) (p : Word) (w : Nat) (skip : List Nat) (left : Bool) : List (Nat × Word × Place) → State → Tab Nat → RowData
  | [], s, got => .ok s got left
  | (i, va, pl) :: rest, s, got =>
    if got.any (fun x => x.1 == i) || skip.contains i then readPlaces ctx core p w skip left rest s got
    else match s.engLoad ctx core p pl w with
    | (s, .inl v) => readPlaces ctx core p w skip left rest s (tset got i v)
    | (s, .inr k) => match readPlaces ctx core p w skip left rest s got with
      | .fault s k' a => if k' < k then .fault s k' a else .fault s k va
      | x => if left then x else .fault s k va

/-- Reads a row of units of `w` bytes, numbered from `first`, but for those that `skip` names (R255, R275). -/
def State.readRow (s : State) (ret id : Nat) (r : CopyReq) (w first : Nat) (vas : List Word) (skip : List Nat) (got : Tab Nat) : RowData :=
  match rowPlaces (fun s va => s.copyPlace ret id r needLd va w) vas s with
  | .wait s => .wait s
  | .fault s k a => .fault s k a
  | .ok pls =>
    let us := (List.range vas.length).zip (vas.zip pls) |>.map fun x => (first + x.1, x.2.1, x.2.2)
    let left := us.any fun x => skip.contains x.1 && !got.any (fun y => y.1 == x.1)
    readPlaces r.ctx ((s.issuer r).getD 0) r.rt w skip left us s got

/-- The units of a row of E0 bytes. -/
def CopyReq.units (r : CopyReq) (base : Word) : List Word :=
  (List.range (r.e0 / 8)).map fun i => base + BitVec.ofNat 64 (8 * i)

/-- Destination row of element `e`, and its source row; `x` is its index (R268). -/
def CopyReq.rows (r : CopyReq) (e : Nat) (x : Word) : Word × Word :=
  let n (k : Nat) : Word := BitVec.ofNat 64 k
  match r.form with
  | 1 => (r.dst + n e * r.ds 1, r.src + x * r.ss 1)
  | 2 => (r.dst + x * r.ds 1, r.src + n e * r.ss 1)
  | _ =>
    let i1 := e % r.ext 1
    let i2 := e / r.ext 1 % r.ext 2
    let i3 := e / r.ext 1 / r.ext 2
    (r.dst + n i1 * r.ds 1 + n i2 * r.ds 2 + n i3 * r.ds 3, r.src + n i1 * r.ss 1 + n i2 * r.ss 2 + n i3 * r.ss 3)

/-- Issues an element's writes: port writes leave for their port, the others await acceptance. -/
def State.issueWrites (s : State) (ret : Nat) (x : CopyRun) (e : Nat) (els : List Elem) : State :=
  let r := x.req
  let next := e + 1
  let x' := { x with next := next, settling := x.settling || next == r.total, open' := x.open' ++ els.map fun y => (e, y) }
  let src := BitVec.ofNat 32 r.gtn
  let tag (y : Elem) : Nat := e * 2 ^ 32 + y.lane
  els.foldl (fun s y => match y.place with
    | .direct a =>
      if r.ctx = 64 then
        match s.portWrite r.inst a 8 y.data src false with
        | some s => s.portSettled (copyBase + ret) x.id (tag y) 8 true
        | none => s.portSettled (copyBase + ret) x.id (tag y) 8 false
      else s.sendPort (.retr ret) r.ctx (r.gtn / 16) a 8 y.data src (copyBase + ret) x.id (tag y)
    | .lwin l a => s.sendPort (.retr ret) r.ctx l a 8 y.data src (copyBase + ret) x.id (tag y)
    | _ => s) (s.setRun ret x')

/-- The number by which an element's index is known among its reads. -/
def indexUnit : Nat := 2 ^ 40

/-- The value of an element's index (R268). -/
def CopyReq.indexValue (r : CopyReq) (got : Tab Nat) : Word :=
  let v := tget 0 got indexUnit
  if r.itype = 0 then sextN v 32 else BitVec.ofNat 64 v

/-- COPY_ELEMENT (R268, R274, R275): the next element of the Retriever's copy `j`: its index, its source row, then its writes. Each
unit of the row is read for itself: those that `skip` names are left to a later step (R255). A fault stops the copy; a missing
translation is waited for. -/
def execCopyElement : Nat → Portion → State → Out
  | ret, ⟨j, skip⟩, s => .next (match (s.retr ret).active[j]? with
    | none => s
    | some x =>
      let r := x.req
      let e := x.next
      if x.settling || r.total ≤ e then s
      else
        let index := if r.indexed then s.readRow ret x.id r r.iw indexUnit [r.aux + BitVec.ofNat 64 (e * r.iw)] [] x.got
          else .ok s x.got false
        match index with
        | .wait s => s
        | .fault s k a => s.copyStop ret x e 0 k a
        | .ok s got _ =>
          let (dst, src) := r.rows e (r.indexValue got)
          let data := if r.form = 3 then .ok s got false else s.readRow ret x.id r 8 0 (r.units src) skip got
          match data with
          | .wait s => s.setRun ret { x with got := got }
          | .fault s k a => s.copyStop ret x e 1 k a
          | .ok s got true => s.setRun ret { x with got := got }
          | .ok s got false =>
            match rowPlaces (fun s va => s.copyPlace ret x.id r needSt va 8) (r.units dst) s with
            | .wait s => s.setRun ret { x with got := got }
            | .fault s k a => s.copyStop ret x e 2 k a
            | .ok pls =>
              let els := (List.range pls.length).zip ((r.units dst).zip pls) |>.map fun y =>
                (⟨y.1, y.2.1, 8, if r.form = 3 then r.aux.toNat else tget 0 got y.1, y.2.2⟩ : Elem)
              s.issueWrites ret { x with got := [] } e els)

/-! ### Completion (R167, R272, R276, R277) -/

/-- TRAP of R272 for a place in R274's order. -/
def trapCode (rank : Nat) : Nat := if rank = 5 then 1 else rank

/-- The status of a copy (R272), and the count of element rows written in full: those whose writes were issued and not refused. -/
def CopyRun.status (x : CopyRun) : Word × Nat :=
  match x.fault with
  | none => (BitVec.ofNat 64 x.req.total, x.req.total)
  | some (e, step, k, _) =>
    (BitVec.ofNat 64 (2 ^ 63 + step * 2 ^ 61 + trapCode k * 2 ^ 56 + e), x.next - (x.bad.filter (· < x.next)).length)

/-- A party's endpoint, by the thread it works for. -/
def CopyReq.party (r : CopyReq) : Endp := partyEndp ⟨0, r.ctx, r.inst⟩ r.gtn

/-- The completion offer of an `.ev` copy (R277), from an endpoint. -/
def State.copyOffer (s : State) (src : Endp) (r : CopyReq) (status : Word) (rows : Nat) (rt : Word) : State :=
  s.send .event src (s.homeBy r.slot r.gtn r.key) r.ctx
    (.offer { key := r.key, index := ctlIndex r.ectl, ctl := r.ectl, rt := rt, who := .engine,
              data := status.toNat + rows * 2 ^ 64, kern := if r.ctx = 64 then none else some r.slot })

/-- A token takes its value (R167): the pending bit clears, an instruction that waits for the register may issue, and the engine's RT
is published at the thread's next access to the register. -/
def State.writeToken (s : State) (p t d : Nat) (val rt : Word) : State :=
  s.modThread p t fun th =>
    let th := { th.setG (Fin.ofNat 32 d) val with
      pend := th.pend &&& ~~~ ((1 : BitVec 32) <<< d), toks := tset th.toks d (maxW (tget 0 th.toks d) rt) }
    if th.wait = .token d then th.rejoin else th

/-- COPY_SETTLED (R272, R273, R277): every write is settled; a copy-fault record, then the token write or the offer. -/
def execCopySettled (ret j : Nat) (s : State) : Out :=
  .next (
    let t := s.retr ret
    match t.active[j]? with
    | none => s
    | some x =>
      if x.settling && x.open'.isEmpty then
        let r := x.req
        let s := s.setRetr ret { t with active := t.active.eraseIdx j }
        let (status, rows) := x.status
        let rt := maxW r.rt x.wts
        let s := match x.fault with
          | none => s
          | some (e, step, k, a) =>
            let f := plainRecord 16 r.gtn r.pc a (trapCode k) (e % 2 ^ 32 + step * 2 ^ 32 + r.daddr % 2 ^ 19 * 2 ^ 34)
            match s.partyAt ⟨0, r.ctx, r.inst⟩ r.gtn with
            | some (p, t) => s.deliver p t r.slot r.ctx f
            | none => s.toHost r.ctx f
        if r.ev then s.copyOffer (.retr ret) r status rows rt
        else if r.d = 0 then s
        else s.send .reply (.retr ret) r.party r.ctx (.token r.gtn r.d status rt (if r.ctx = 64 then r.inst else 0) 110 r.hops)
      else s)

/-- ZERO_EXTENT_COMPLETION (R276): the issuing core completes a zero-extent copy itself. -/
def execZeroExtentCompletion (core entry : Nat) (s : State) : Out :=
  .next (
    let c := s.core core
    let e := c.entry entry
    match e.kind with
    | .copy r =>
      if e.busy && r.zeroExtent && c.settledBefore e.thr e.ord then
        let rt := s.requestRt core e
        let s := s.release core entry
        if r.ev then s.copyOffer (s.endpOf core) r 0 0 rt
        else if r.d = 0 || 16 ≤ e.thr then s
        else s.writeToken core e.thr r.d 0 rt
      else s
    | _ => s)

/-- TOKEN_WRITE (R167): message `k` is an engine's token write; it is discarded when its thread has gone to FREE. Its delay field carries the hops of
the request's way and of its own, and a free number for the engine's own messages in between, since no rule says into how many its data is cut
(R376, R383; log 57). -/
def execTokenWrite (k : Nat) (s : State) : Out :=
  .next (match s.arrived k with
    | some ⟨_, _, _, _, _, _, ctx, n, _, _, _, _, .token gtn d val rt inst acc hops⟩ =>
      match s.partyAt ⟨0, ctx, inst⟩ gtn with
      | some (p, t) =>
        let s := s.drop k
        if d = 0 then s
        else (s.delayBy p acc (hops + Config.hops s.tick + (if n = 0 then 0 else n + 1) + 1 + spareHop p)).writeToken p t d val rt
      | none => s
    | _ => s)

end Sys2Proof.Machine
end

