-- ==== Sys2Proof/Machine/Heap.lean ====
section
/-!
DEFINITION. Managed objects (R281-R304): references, the read barrier, the heap instructions, and Collies.
-/

namespace Sys2Proof.Machine

/-! ### References and table entries (R281, R284, R285, R287) -/

def refEpoch (v : Word) : Nat := bits v 59 56
def refReg (v : Word) : Nat := bits v 55 48
def mkRef (epoch reg addr : Nat) : Word := BitVec.ofNat 64 (epoch % 16 * 2 ^ 56 + reg % 256 * 2 ^ 48 + addr / 16 % 2 ^ 44 * 16)

/-- Word `n` of a heap region table entry. -/
def entWord (e : BitVec 512) (n : Nat) : Word := BitVec.ofNat 64 (e.toNat / 2 ^ (64 * n))
def entValid (e : BitVec 512) : Bool := bits (entWord e 0) 63 63 = 1
def entLog (e : BitVec 512) : Bool := bits (entWord e 0) 62 62 = 1
def entEpoch (e : BitVec 512) : Nat := bits (entWord e 0) 61 58
def entTgt (e : BitVec 512) : Nat := bits (entWord e 0) 57 50
def entFlog (e : BitVec 512) : Nat := bits (entWord e 0) 49 45

/-- Whether a nonnull value is well formed, but for its region's validity (R281). -/
def refShaped (v : Word) : Bool := bits v 63 60 = 0 && bits v 3 0 = 0

/-- Address of slot `h` of the search for an address (R287). -/
def slotAddr (e : BitVec 512) (a h : Nat) : Nat :=
  let n := 2 ^ entFlog e
  (entWord e 1).toNat + 16 * ((((a / 16) ^^^ (a / 2 ^ (4 + entFlog e))) + h) % n)

/-- A slot's 16 bytes: state, old address, new reference. -/
def slotSt (x : Nat) : Nat := x / 2 ^ 62 % 4
def slotOld (x : Nat) : Nat := x / 16 % 2 ^ 44 * 16
def slotNew (x : Nat) : Word := BitVec.ofNat 64 (x / 2 ^ 64)

/-! ### Loads that an instruction makes at its issue (R287, R288) -/

/-- What such a load, or a computation with several, gives. -/
inductive Look (α : Type) where
  | ok (s : State) (x : α)
  /-- a translation is missing, or the context's lines are being flushed: the instruction waits and goes on from there -/
  | wait (s : State) (u : Elem) (need : Nat) (miss : Bool)
  | trap (s : State) (t : Trap)

def Look.bind {α β : Type} (x : Look α) (f : State → α → Look β) : Look β :=
  match x with
  | .ok s v => f s v
  | .wait s u n m => .wait s u n m
  | .trap s t => .trap s t

/-- How an instruction's issue ends after such loads: a missing one begins the load wait, in which the instruction goes on from
`stage` (R26, R27); a trap keeps the register healing already done (R297). -/
def Look.ends {α : Type} (x : Look α) (stage : Stage) (f : State → α → Ends) : Ends :=
  match x with
  | .ok s v => f s v
  | .trap s t => .trapKeep s t
  | .wait s u n m =>
    .wait (if m then s.threadMiss s.cur.core s.cur.thr u.va (needOf n).acc else s)
      (.load { kind := .lookup stage, need := n, todo := [u], miss := m })

/-- A read by an atomic add of 0 for the thread in hand (R245, R295). -/
def State.addZero (s : State) (l pa off w : Nat) : Option (State × Nat) :=
  let p := s.cur.core
  let th := s.me
  (((s.l1Drop p l).freeLine (dieOf p) l none).atomicAt p p l off pa w th.now th.len some).map fun x =>
    (x.1.modMe fun th => th.owe x.2.1, x.2.2)

/-- A read of `w` bytes at an aligned address by the thread in hand, by a load (R243) or by an atomic add of 0 (R295). -/
def State.hload (s : State) (add0 : Bool) (va w : Nat) : Look Nat :=
  let p := s.cur.core
  let t := s.cur.thr
  let a : Word := BitVec.ofNat 64 va
  let need := if add0 then 2 else 0
  let u : Elem := ⟨0, a, w, 0, .direct 0⟩
  match trUnit (s.core p).dirLimit (s.tlb1 p) (needOf need) a w with
  | .trap t => .trap s t
  | .miss => .wait s u need true
  | .ok (.line l off pa) =>
    let u := { u with place := .line l off pa }
    let at' := l * 512 + off
    if s.ownAtomic p t u.place w then .wait s u need false
    else if !add0 && s.ownAll p t 1 at' w then .ok (s.markSeen p t 1 at' w) (s.overlay p t 1 at' w 0)
    else if s.reseeding (s.core p).ctx || s.behindOwn p t then .wait s u need false
    else if s.poison.contains l then .trap s { kind := 13, addr := a }
    else if add0 then
      if (s.core p).olderStore t (s.core p).jord u || s.locked (s.core p).ctx a then .wait s u need false
      else match s.addZero l pa off w with
        | none => .wait s u need false
        | some (s', v) => .ok s' v
    else match s.loadNow p t l pa off w false with
      | .poison => .trap s { kind := 13, addr := a }
      | .notYet => .wait s u need false
      | .data s' d _ => .ok (s'.markSeen p t 1 at' w) (s.overlay p t 1 at' w (dataAt d off w))
  | .ok pl => match s.readUnit p t false { u with place := pl } with
    | .data s' v _ => .ok s' v
    | .trap t => .trap s t
    | .notYet => .wait s { u with place := pl } need false

/-- The heap region table of the kernel that the thread in hand belongs to (R284, R325). -/
def State.heapTable (s : State) : Option Nat :=
  if isSetter s.cur.core then none else (s.kernel s.me.slot).map fun k => k.heap.toNat

/-- The logical time of the latest advance of a region's EPOCH. -/
def State.epochTime (s : State) (ctx r : Nat) : Word := tget 0 s.panel.epochs (ctx * 256 + r)

/-- The core's copy of a region's entry, read at its first use (R286). A thread that uses the copy acts no earlier than the advance of the
EPOCH that it holds, and one that reads the entry no earlier than the latest advance: its lookups then find what the Collie wrote before
that, past any older lease, as R305 and R306 say they do (DEDUCED, log 68). -/
def State.region (s : State) (r : Nat) : Look (BitVec 512) :=
  match (s.myCore.ca.heap.find? fun e => e.1 == r).map Prod.snd with
  | some (e, time) => .ok (s.modMe fun th => th.owe time) e
  | none =>
    match s.heapTable with
    | none => .trap s (.access 0)
    | some tab =>
      let time := s.epochTime s.myCore.ctx r
      ((s.modMe fun th => th.owe time).hload false (tab + 64 + 64 * r) 64).bind fun s v =>
        let e : BitVec 512 := BitVec.ofNat 512 v
        .ok (s.modCore s.cur.core fun c => { c with ca := { c.ca with heap := tset c.ca.heap r (e, time) } }) e

/-- One slot of a search, by a load or by `hpin`'s atomic add of 0 to its first word (R295). -/
def State.readSlot (s : State) (atom : Bool) (va : Nat) : Look Nat :=
  if atom then (s.hload true va 8).bind fun s k => (s.hload false (va + 8) 8).bind fun s new => .ok s (k + new * 2 ^ 64)
  else s.hload false va 16

/-- Searches a forwarding table: `n` probes from probe `h` on. Some slot (its bytes) when found; none otherwise. -/
def probe (atom : Bool) (e : BitVec 512) (a : Nat) : Nat → Nat → State → Look (Option Nat)
  | 0, _, s => .ok s none
  | n + 1, h, s => (s.readSlot atom (slotAddr e a h)).bind fun s x =>
      if slotSt x = 3 then .trap s (.access (BitVec.ofNat 64 (slotAddr e a h)))
      else if slotSt x = 0 then .ok s none
      else if slotOld x = a then .ok s (some x)
      else probe atom e a n (h + 1) s

/-- The three results of the barrier. -/
inductive Bar where
  | plain | healed | moving
deriving DecidableEq, Repr

/-- The read barrier (R288). -/
def State.barrier (s : State) (v : Word) : Look (Word × Bar) :=
  if v = 0 then .trap s (.access 0)
  else (s.region (refReg v)).bind fun s e =>
    if !entValid e then .trap s (.access 0)
    else if refEpoch v = entEpoch e then .ok s (v, .plain)
    else (probe false e (refAddr v) (2 ^ entFlog e) 0 s).bind fun s x =>
      match x with
      | none => .ok s (setBits v 59 56 (entEpoch e), .healed)
      | some x =>
        if slotSt x = 1 then .ok s (v, .moving)
        else
          let new := slotNew x
          if refReg new = refReg v && refAddr new = refAddr v then .ok s (setBits new 59 56 (entEpoch e), .healed)
          else .ok s (new, .healed)

/-- A healed value goes back to the register that supplied it (R288). -/
def State.heal (s : State) (a : HReg) (x : Word × Bar) : State :=
  if x.2 = .healed then s.hw a x.1 else s

/-! ### Heap accesses (R297) -/

/-- The base of an access: effective address, reference (0 for the root block), MOVING or not. -/
structure Base where
  ea  : Word
  ref : Word
  bar : Bar

/-- R297 steps 1 to 4; the base register is healed on the way. -/
def State.heapBase (s : State) (a : HReg) (off : BitVec 11) (w : Nat) (store : Bool) : Look Base :=
  let o := off.toInt
  if o % w ≠ 0 then .trap s (.align (off.signExtend 64))
  else if a = 0 then
    match s.heapTable with
    | none => .trap s (.access 0)
    | some tab => (s.hload false tab 16).bind fun s x =>
        let root := x % 2 ^ 64
        let rlen : Int := (x / 2 ^ 64 % 2 ^ 32 : Nat)
        let ea : Word := BitVec.ofNat 64 root + off.signExtend 64
        if o < 0 || rlen < o + w then .trap s (.access ea) else .ok s ⟨ea, 0, .plain⟩
  else (s.barrier (s.hr a)).bind fun s x =>
    let s := s.heal a x
    let b := refAddr x.1
    let ea : Word := BitVec.ofNat 64 b + off.signExtend 64
    (s.hload false b 4).bind fun s size =>
      if o < 0 || (size : Int) < o + w || (store && o < 12) then .trap s (.access ea) else .ok s ⟨ea, x.1, x.2⟩

/-- R297 step 5 on an access of `w` bytes: the place, a wait for its translation, or a trap. -/
def State.heapPlace (s : State) (need : Nat) (ea : Word) (w : Nat) : Look Elem :=
  if eaKind ea = .direct then .trap s (if ea.toNat + w ≤ s.myCore.dirLimit then .class' ea else .access ea)
  else match trUnit 0 (s.tlb1 s.cur.core) (needOf need) ea w with
    | .trap t => .trap s t
    | .miss => .wait s ⟨0, ea, w, 0, .direct 0⟩ need true
    | .ok pl => .ok s ⟨0, ea, w, 0, pl⟩

/-- A posted store of one unit, or the journal wait (R298, R300). -/
def State.postUnit (s : State) (kind : JKind) (u : Elem) : Ends :=
  match s.post s.cur.core s.cur.thr kind [u] with
  | some s => .done s
  | none => .again .journal

/-- The body of HLD. -/
def hldBody (d : GReg) (a : HReg) (sz : Sz) (off : BitVec 11) (s : State) : Ends :=
  (s.heapBase a off sz.bytes false).ends .begun fun s b =>
    let need := if b.ref = 0 then 6 else 4
    (s.heapPlace need b.ea sz.bytes).ends .begun fun s u => .wait s (.load { kind := .ld d sz, need := need, todo := [u] })

/-- HLD (R298). -/
def execHld (d : GReg) (a : HReg) (sz : Sz) (off : BitVec 11) (s : State) : Out := .next (s.issue [] [d] fun s => hldBody d a sz off s)

/-- The body of HST, also for its retry (R292, R298); `st` is the stage to which a lookup comes back. -/
def hstBody (d : GReg) (a : HReg) (sz : Sz) (off : BitVec 11) (st : Stage) (s : State) : Ends :=
  (s.heapBase a off sz.bytes true).ends st fun s b =>
    (s.heapPlace (if b.ref = 0 then 7 else 5) b.ea sz.bytes).ends st fun s u =>
      if b.bar = .moving then .wait s (.held a)
      else s.postUnit .ref { u with data := (s.gr d).toNat % 2 ^ (8 * sz.bytes) }

/-- HST (R298). -/
def execHst (d : GReg) (a : HReg) (sz : Sz) (off : BitVec 11) (s : State) : Out :=
  .next (s.issue [d] [] fun s => hstBody d a sz off .begun s)

/-- The body of HLDR (R299): the field's load; `finishHldr` does the rest. -/
def hldrBody (d a : HReg) (off : BitVec 11) (s : State) : Ends :=
  (s.heapBase a off 8 false).ends .begun fun s b =>
    let need := if b.ref = 0 then 6 else 4
    (s.heapPlace need b.ea 8).ends .begun fun s u =>
      -- the field's page permits the healing `cas`
      let heals := (s.tlb1 s.cur.core b.ea.toNat).any fun e => e.canW && e.cls ≤ 2
      .wait s (.load { kind := .hldr d a (b.bar == .moving || !heals), need := need, todo := [u] })

/-- HLDR (R299). -/
def execHldr (d a : HReg) (off : BitVec 11) (s : State) : Out := .next (s.issue [] [] fun s => hldrBody d a off s)

/-- The body of HSTR, also for its retry (R292, R300). -/
def hstrBody (d a : HReg) (off : BitVec 11) (st : Stage) (s : State) : Ends :=
  (s.heapBase a off 8 true).ends st fun s b =>
    let log : Look Bool := if b.ref = 0 then .ok s false else (s.region (refReg b.ref)).bind fun s e => .ok s (entLog e)
    log.ends st fun s log =>
      (s.heapPlace (if b.ref = 0 then 7 else if log then 8 else 5) b.ea 8).ends st fun s u =>
        if b.bar = .moving then .wait s (.held a)
        else if log then
          match s.heapTable with
          | none => .trap (.access 0)
          | some tab =>
            let va : Word := BitVec.ofNat 64 (tab + 16)
            let place : Look Place := match trUnit 0 (s.tlb1 s.cur.core) needAtom va 8 with
              | .trap t => .trap s t
              | .miss => .wait s ⟨0, va, 8, 0, .direct 0⟩ 2 true
              | .ok pl => .ok s pl
            place.ends st fun s pl => .wait s (.load { kind := .hlog (s.hr d) u, need := 2, todo := [⟨0, va, 8, 0, pl⟩] })
        else s.postUnit .ref { u with data := (s.hr d).toNat }

/-- HSTR (R300). -/
def execHstr (d a : HReg) (off : BitVec 11) (s : State) : Out := .next (s.issue [] [] fun s => hstrBody d a off .begun s)

/-! ### Heap operations (R301-R304) -/

/-- The units of a new object: the header's first word, then zeros. -/
def newUnits (cur size hdr : Nat) : List (Word × Nat) :=
  (List.range (size / 8)).map fun i => (BitVec.ofNat 64 (cur + 8 * i), if i = 0 then hdr else 0)

/-- Translates the units of a list in order. -/
def placeUnits : List (Word × Nat) → Nat → State → Look (List Elem)
  | [], _, s => .ok s []
  | (va, v) :: rest, i, s => (s.heapPlace 5 va 8).bind fun s u =>
      (placeUnits rest (i + 1) s).bind fun s us => .ok s ({ u with lane := i, data := v } :: us)

/-- The body of HNEW. -/
def hnewBody (d : HReg) (a b : GReg) (s : State) : Ends :=
  let x := s.gr a
  let y := s.gr b
  let c := s.myCore
  let s := if c.dirLimit < y.toNat + 32 then s else s.land s.cur.core s.cur.thr y.toNat 32
  let rd (off n : Nat) : Nat := s.myCore.dread (y.toNat + off) n
  let size := bits x 31 0
  if y.toNat % 32 ≠ 0 then .trap (.align y)
  else if c.dirLimit < y.toNat + 32 then .trap (.access y)
  else
    let cur := rd 0 8
    let lim := rd 8 8
    let reg := rd 16 1
    if bits x 63 56 ≠ 0 || size % 16 ≠ 0 || size < 16 || 65536 < size || rd 17 15 ≠ 0 then .trap (.access 0)
    else (s.region reg).ends .begun fun s e =>
      if !entValid e then .trap (.access 0)
      else if lim < cur + size then .done (s.hw d 0)
      else if cur % 16 ≠ 0 || cur < (entWord e 2).toNat || (entWord e 3).toNat < cur + size then
        .trap (.access (BitVec.ofNat 64 cur))
      else (placeUnits (newUnits cur size x.toNat) 0 s).ends .begun fun s us =>
        match s.post s.cur.core s.cur.thr .ref us with
        | none => .again .journal
        | some s => .done ((s.dwrite s.cur.core y.toNat 8 (cur + size)).hw d (mkRef (entEpoch e) reg cur))

/-- HNEW (R301). -/
def execHnew (d : HReg) (a b : GReg) (s : State) : Out := .next (s.issue [a, b] [] fun s => hnewBody d a b s)

/-- Begins the increment of an object's PIN (R295, R302). -/
def State.startPin (s : State) (d : GReg) (a : HReg) (obj : Nat) (st : Stage) : Ends :=
  (s.heapPlace 8 (BitVec.ofNat 64 (obj + 8)) 4).ends st fun s u => .wait s (.load { kind := .hpin d a, need := 8, todo := [u] })

/-- The body of HPIN, also for its retry: an object already pinned at its present address needs nothing more. -/
def hpinBody (d : GReg) (a : HReg) (pinned : Nat) (st : Stage) (s : State) : Ends :=
  (s.barrier (s.hr a)).ends st fun s x =>
    let s := s.heal a x
    if pinned ≠ 0 && x.2 = .moving then .wait s (.pin d a pinned false)
    else if pinned ≠ 0 && refAddr x.1 = pinned then .done (s.gw d (BitVec.ofNat 64 pinned))
    else s.startPin d a (refAddr x.1) st

/-- HPIN (R295, R302). -/
def execHpin (d : GReg) (a : HReg) (s : State) : Out := .next (s.issue [] [d] fun s => hpinBody d a 0 .begun s)

/-- The body of HUNPIN, also for its retry. -/
def hunpinBody (a : HReg) (st : Stage) (s : State) : Ends :=
  (s.barrier (s.hr a)).ends st fun s x =>
    let s := s.heal a x
    if x.2 = .moving then .wait s (.pin 0 a 0 true)
    else (s.heapPlace 8 (BitVec.ofNat 64 (refAddr x.1 + 8)) 4).ends st fun s u => s.postUnit .unpin u

/-- HUNPIN (R302). -/
def execHunpin (a : HReg) (s : State) : Out := .next (s.issue [] [] fun s => hunpinBody a .begun s)

/-- A null operand of HCMP passes no barrier (R304). -/
def State.barrierOrNull (s : State) (v : Word) : Look (Word × Bar) := if v = 0 then .ok s (0, .plain) else s.barrier v

/-- The body of HCMP. -/
def hcmpBody (d : GReg) (a b : HReg) (s : State) : Ends :=
  ((s.barrierOrNull (s.hr a)).bind fun s x =>
    let s := s.heal a x
    (s.barrierOrNull (s.hr b)).bind fun s y => .ok (s.heal b y) (x.1, y.1)).ends .begun fun s r =>
      .done (s.gw d (if bits r.1 47 4 = bits r.2 47 4 then 1 else 0))

/-- HCMP (R304). -/
def execHcmp (d : GReg) (a b : HReg) (s : State) : Out := .next (s.issue [] [d] fun s => hcmpBody d a b s)

/-- HMOV (R304). -/
def execHmov (d a : HReg) (s : State) : Out := .next (s.issue [] [] fun s => .done (s.hw d (s.hr a)))

/-- HGET (R304). -/
def execHget (d : GReg) (a : HReg) (s : State) : Out := .next (s.issue [] [d] fun s => .done (s.gw d (s.hr a)))

/-- HTAG (R303). -/
def execHtag (d : GReg) (a : HReg) (s : State) : Out :=
  .next (s.issue [] [d] fun s =>
    let v := s.hr a
    if v = 0 || d = 28 || d = 29 then .trap (.access 0)
    else
      let th := s.me
      let r : RelReq :=
        { ref := v, d := d.val, gtn := s.gtn s.cur.core s.cur.thr, ctx := s.myCore.ctx, slot := th.slot, pc := th.regs.pc,
          inst := if isSetter s.cur.core then s.cur.core else 0
          rlw := weight (s.descWord s.myCore.ctx 8) 47 40 }
      match s.post s.cur.core s.cur.thr (.htag r) [] with
      | none => .again .journal
      | some s => .done (if d = 0 then s else s.modMe fun th => { th with pend := th.pend ||| ((1 : BitVec 32) <<< d.val) }))

/-! ### What a reply lets these instructions do (R295, R299, R300, R302) -/

/-- The PIN that an `hpin` has raised is lowered again, as it traps (R18, R295). -/
def State.unpinNow (s : State) (p t : Nat) : State :=
  match (s.thread p t).pinAt with
  | some ⟨_, _, w, _, .line l off _⟩ => (s.homeWrite l off w (mread s.dram (l * 512 + off) w - 1) (s.thread p t).now).1
  | _ => s

/-- A waiting instruction's next wait or end: a meaning's body run again for thread `t` of core `p`, the thread in hand. -/
def State.resume (s : State) (p t : Nat) (e : Ends) : Option State :=
  match e with
  | .done s' => some (s'.complete p t)
  | .jump s' pc => some ((s'.complete p t).modThread p t fun th => { th with regs := { th.regs with pc := pc } })
  | .wait s' w => some (s'.modThread p t fun th => { th with wait := w })
  | .again _ => none
  | .trap tr => some ((s.unpinNow p t).trapMe tr)
  | .trapKeep s' tr => some ((s'.unpinNow p t).trapMe tr)
  | .gone s' => some s'

/-- HLDR once its field is read (R299): the barrier on the value, the register, and the healing `cas`. None: no journal entry
is free. -/
def State.finishHldr (s : State) (p t : Nat) (d : HReg) (keep : Bool) (u : Elem) (v : Word) : Option State :=
  let s := s.take p t
  let r : Look (Word × Bar) :=
    if v = 0 then .ok s (0, .plain)
    else if !refShaped v then .trap s (.access u.va)
    else s.barrier v
  s.resume p t (r.ends (.field d keep u v) fun s x =>
    let s := s.hw d x.1
    if x.2 = .healed && x.1 ≠ v && !keep then s.postUnit (.heal v x.1) u else .done s)

/-- HPIN once its increment is done (R295): the slot is read; MOVING begins the pin wait, MOVED goes on to the new copy. -/
def State.finishHpin (s : State) (p t : Nat) (d : GReg) (a : HReg) (obj : Nat) : Option State :=
  let s := s.take p t
  let v := s.hr a
  let done (s : State) : Ends := .done (s.gw d (BitVec.ofNat 64 obj))
  s.resume p t (((s.region (refReg v)).bind fun s e => probe true e obj (2 ^ entFlog e) 0 s).ends (.pinned d a obj) fun s x =>
    match x with
    | none => done s
    | some x =>
      if slotSt x = 1 then .wait s (.pin d a obj false)
      else
        let new := slotNew x
        if refReg new = refReg v && refAddr new = obj then done s
        else (s.hw a new).startPin d a (refAddr new) (.pin d a 0 false))

/-- HSTR once its log entry is reserved at `at'` (R300): a full log traps; otherwise the swap begins. -/
def State.finishHlog (s : State) (p t : Nat) (v : Word) (target : Elem) (at' : Nat) : Option State :=
  let s := s.take p t
  match s.heapTable with
  | none => some (s.trapMe (.access 0))
  | some tab =>
    let entry : Word := BitVec.ofNat 64 at'
    s.resume p t ((s.hload false (tab + 24) 8).ends (.logged v target at') fun s loge =>
      if loge < at' + 8 then .trap (.access entry)
      else match trUnit 0 (s.tlb1 p) needSt entry 8 with
        | .trap tr => .trap tr
        | .miss => .wait (s.threadMiss p t entry 2)
            (.load { kind := .hswap v entry, need := 8, todo := [target, ⟨1, entry, 8, 0, .direct 0⟩], miss := true })
        | .ok pl => .wait s (.load { kind := .hswap v entry, need := 8, todo := [target, ⟨1, entry, 8, 0, pl⟩] }))

/-! ### Retries, and going on after a lookup (R26, R292, R295) -/

/-- The body of a heap instruction, as its issue begins it. -/
def heapBody : Instr → Option (State → Ends)
  | .hld d a sz off => some (hldBody d a sz off)
  | .hst d a sz off => some (hstBody d a sz off .begun)
  | .hldr d a off => some (hldrBody d a off)
  | .hstr d a off => some (hstrBody d a off .begun)
  | .hnew d a b => some (hnewBody d a b)
  | .hpin d a => some (hpinBody d a 0 .begun)
  | .hunpin a => some (hunpinBody a .begun)
  | .hcmp d a b => some (hcmpBody d a b)
  | _ => none

/-- A held store is tried again (R292): the wait ends when the store that it posts is accepted. -/
def State.retryHeld (s : State) (p t : Nat) (a : HReg) : Option State :=
  let s := s.take p t
  let entry := (s.core p).freeEntry
  let goes (e : Ends) : Option State :=
    match e, entry with
    | .done x, some i => some (x.modThread p t fun th => { th with wait := .heldPosted i })
    | e, _ => s.resume p t e
  match decodeWord s.cur.word with
  | some (.hst d b sz off) => if a = b then goes (hstBody d a sz off (.held a) s) else none
  | some (.hstr d b off) => if a = b then goes (hstrBody d a off (.held a) s) else none
  | _ => none

/-- `hpin` or `hunpin` is tried again (R295, R302). -/
def State.retryPin (s : State) (p t : Nat) (d : GReg) (a : HReg) (pinned : Nat) (un : Bool) : Option State :=
  let s := s.take p t
  let st := Stage.pin d a pinned un
  s.resume p t (if un then hunpinBody a st s else hpinBody d a pinned st s)

/-- A heap instruction goes on after a lookup that was waited for. None: it must wait on. -/
def State.heapGoesOn (s : State) (p t : Nat) (st : Stage) : Option State :=
  match st with
  | .launch _ => none
  | .begun => ((decodeWord (s.take p t).cur.word).bind heapBody).bind fun f => (s.take p t).resume p t (f (s.take p t))
  | .field d keep u v => s.finishHldr p t d keep u v
  | .pinned d a obj => s.finishHpin p t d a obj
  | .logged v target entry => s.finishHlog p t v target entry
  | .held a => s.retryHeld p t a
  | .pin d a pinned un => s.retryPin p t d a pinned un

/-- A Collie, or the host for it, still has a request for an object in work. -/
def State.relocating (s : State) (ctx obj : Nat) : Bool :=
  s.stks.any fun e => match e.2.collie.cur with
    | some (r, _, _) => r.ctx == ctx && refAddr r.ref == obj
    | none => false

/-- HELD_STORE_RETRY (R292, R295): a thread in the held-store or pin wait whose object's relocation is over searches the slot again, heals
its register, and does its instruction against the present copy; a held store goes on while its thread is STOPPED (R32). -/
def execHeldStoreRetry (core thr : Nat) (s : State) : Out :=
  .next (
    let th := s.thread core thr
    let waits := th.st == .wait || (th.st == .stopped && th.prior == .wait)
    let free (a : HReg) : Bool := waits && !s.relocating (s.core core).ctx (refAddr th.regs.h[a])
    match th.wait with
    | .held a => if free a then (s.retryHeld core thr a).getD s else s
    | .pin d a pinned un => if free a then (s.retryPin core thr d a pinned un).getD s else s
    | _ => s)

/-! ### Collies (R291, R293, R294) -/

def State.setCollie (s : State) (k : Nat) (c : Collie) : State := s.setStack k { s.stack k with collie := c }

/-- RELOC of the kernel that a request came from: the host performs it (R294, R326). -/
def State.hostReloc (s : State) (r : RelReq) : Bool :=
  match s.kernel r.slot with
  | some k => bits k.fmode 4 4 = 1
  | none => false

/-- What a Collie's accesses give. -/
inductive ColR (α : Type) where
  | ok (s : State) (x : α)
  | wait (s : State)
  /-- place in R274's order, address -/
  | fault (s : State) (rank : Nat) (a : Word)

def ColR.bind {α β : Type} (x : ColR α) (f : State → α → ColR β) : ColR β :=
  match x with
  | .ok s v => f s v
  | .wait s => .wait s
  | .fault s k a => .fault s k a

/-- A Collie's translation (R269, R291). -/
def State.colPlace (s : State) (k : Nat) (r : RelReq) (n : AccNeed) (w : Nat) (va : Word) : EngAt :=
  (s.engPlace k (.collie k r.gtn) (3 * 2 ^ 62 + k) r.ctx r.gtn r.slot 0 r.rt n va w).reached s (siteOfStack k)

/-- A Collie's read of `w` bytes within a line. -/
def State.colRead (s : State) (k : Nat) (r : RelReq) (va w : Nat) : ColR Nat :=
  let a : Word := BitVec.ofNat 64 va
  match s.colPlace k r needLd w a with
  | .miss s => .wait s
  | .fault s x => .fault s x a
  | .ok pl => match s.engLoad r.ctx 0 r.rt pl w with
    | (s, .inl v) => .ok s v
    | (s, .inr x) => .fault s x a

/-- A Collie's write of `w` bytes within a line, at a logical time no less than that of its earlier writes (R260). To a LOCKED page it waits
(R318). -/
def State.colWrite (s : State) (k : Nat) (r : RelReq) (va w v : Nat) : ColR Unit :=
  let a : Word := BitVec.ofNat 64 va
  match s.colPlace k r needAtom w a with
  | .miss s => .wait s
  | .fault s x => .fault s x a
  | .ok (.line l off pa) =>
    if s.poison.contains l then .fault s 4 a
    else if s.locked r.ctx a then .wait s
    else
      let co := (s.stack k).collie
      let (s', wts) := s.engWrite r.ctx ⟨0, a, w, v, .line l off pa⟩ (maxW r.rt co.wts)
      .ok (s'.setCollie k { (s'.stack k).collie with wts := wts }) ()
  | .ok _ => .fault s 1 a

/-- The table entry of a region, from memory. -/
def State.colEntry (s : State) (k : Nat) (r : RelReq) (tab reg : Nat) : ColR (BitVec 512) :=
  (s.colRead k r (tab + 64 + 64 * reg) 64).bind fun s v => .ok s (BitVec.ofNat 512 v)

/-- The search for a slot to claim: some EMPTY slot's address; none when a slot is found (left) or every slot is in use. -/
def colProbe (k : Nat) (r : RelReq) (e : BitVec 512) (a : Nat) : Nat → Nat → State → ColR (Bool ⊕ Nat)
  | 0, _, s => .ok s (.inl false)
  | n + 1, h, s => (s.colRead k r (slotAddr e a h) 16).bind fun s x =>
      if slotSt x = 0 then .ok s (.inr (slotAddr e a h))
      else if slotSt x = 3 then .fault s 1 (BitVec.ofNat 64 (slotAddr e a h))
      else if slotOld x = a then .ok s (.inl true)
      else colProbe k r e a n (h + 1) s

/-- Logical cores on which a context has placed threads: those that a kernel of it holds, and those where stores of its threads are still
in flight. -/
def State.placedCores (s : State) (ctx : Nat) : List Nat :=
  s.cores.filterMap fun e =>
    if !isSetter e.1 && e.2.ctx == ctx && (e.2.slot.isSome || !e.2.idle || e.2.journal.any fun j => j.2.busy) then s.logical e.1
    else none

/-- The misses of a Collie's request are its own: once it has ended, their answers are awaited no more. -/
def State.forgetCollie (s : State) (k : Nat) : State :=
  { s with misses := s.misses.filter fun m => match m.who with
      | .collie j _ => j != k
      | _ => true }

/-- The end of a request (R291 step 7, R294): the status goes to the token. -/
def State.finishReloc (s : State) (k : Nat) (r : RelReq) (status : Word) : State :=
  let co := (s.stack k).collie
  let s := (s.setCollie k { co with cur := none, wts := 0 }).forgetCollie k
  if r.d = 0 then s
  else s.send .reply (.collie k) (if r.ctx = 64 then .setter (r.inst - setterBase) else .core (r.gtn / 16)) r.ctx
    (.token r.gtn r.d status (maxW r.rt co.wts) (if r.ctx = 64 then r.inst else 0) 111 r.hops)

/-- A request's work is done: it ends, or, where the host performs it, the host has still to finish it with its status (R294). -/
def State.endReloc (s : State) (k : Nat) (r : RelReq) (status : Word) : State :=
  if s.hostReloc r then s.setCollie k { (s.stack k).collie with cur := some (r, .host status, 0) } else s.finishReloc k r status

/-- Status of a skip, and of a fault. -/
def skipStatus (code : Nat) (ref : Word) : Word := BitVec.ofNat 64 (2 ^ 62 + code * 2 ^ 56 + ref.toNat % 2 ^ 56)
def faultStatus (code : Nat) (ref : Word) : Word := BitVec.ofNat 64 (2 ^ 63 + code * 2 ^ 56 + ref.toNat % 2 ^ 56)

/-- The homes of an object's line learn of its claimed slot (R296): where its header and its slot lie. -/
def State.noteOld (s : State) (k : Nat) (r : RelReq) (slot : Nat) : State :=
  let at' (va w : Nat) : Option Elem :=
    match s.colPlace k r needLd w (BitVec.ofNat 64 va) with
    | .ok pl => some ⟨0, BitVec.ofNat 64 va, w, 0, pl⟩
    | _ => none
  match at' (refAddr r.ref) 16, at' slot 16 with
  | some h, some x =>
    let same (y : Nat × Nat × Elem × Elem) : Bool := y.1 == r.ctx && y.2.2.1.va == h.va
    { s with panel := { s.panel with olds := (r.ctx, refReg r.ref, h, x) :: s.panel.olds.filter fun y => !same y } }
  | _, _ => s

/-- A Collie's request in work moves on. -/
def State.relMove (s : State) (k : Nat) (r : RelReq) (st : RelSt) (slot : Nat) : State :=
  s.setCollie k { (s.stack k).collie with cur := some (r, st, slot) }

/-- A state as it was, but for the misses that have been sent since. -/
def State.keepMisses (s s' : State) : State := { s with misses := s'.misses, net := s'.net, evs := s'.evs }

/-- The Collie gives up with a claimed slot (R290, R291, R293): MOVED in place, with the EPOCH that step 3 has advanced, then the end
with a status. It waits for the slot's translation; a slot that can no longer be written ends the request without. -/
def State.inPlace (s : State) (k : Nat) (r : RelReq) (slot epoch : Nat) (status : Word) : State :=
  let a := refAddr r.ref
  match s.colWrite k r slot 16 (2 ^ 63 + a + (mkRef epoch (refReg r.ref) a).toNat * 2 ^ 64) with
  | .ok s _ => s.endReloc k r status
  | .wait s' => (s.keepMisses s').relMove k r (.inPlace epoch status) slot
  | .fault s _ _ => s.endReloc k r status

/-- What a request's work comes to. -/
inductive RelOut where
  | wait (s : State)
  | go (s : State)
  /-- a fault: place in R274's order, address, and with a claimed slot its address and the region's EPOCH -/
  | fault (s : State) (rank : Nat) (a : Word) (slot : Option (Nat × Nat))

/-- The heap region table of a request's kernel. -/
def State.relTable (s : State) (r : RelReq) : Nat := ((s.kernel r.slot).map fun x => x.heap.toNat).getD 0

/-- What a Collie's search finds (R291 steps 1 and 2): the object is IMM, a slot stands already, the table is full, or a slot to claim. -/
inductive Search where
  | imm | present | full
  | free (slot : Nat) (e : BitVec 512)

/-- Steps 1 to 3 of R291: the header, the claim of a slot, the advance of the region's EPOCH, and its broadcast. -/
def State.relBegin (s : State) (k : Nat) (r : RelReq) : RelOut :=
  let a := refAddr r.ref
  let reg := refReg r.ref
  let tab := s.relTable r
  let found : ColR Search := (s.colRead k r a 16).bind fun s h =>
    if h / 2 ^ 48 % 2 = 1 then .ok s .imm
    else (s.colEntry k r tab reg).bind fun s e => (colProbe k r e a (2 ^ entFlog e) 0 s).bind fun s x => .ok s (match x with
      | .inl true => .present
      | .inl false => .full
      | .inr slot => .free slot e)
  let skip (s : State) (code : Nat) : RelOut := .go (s.endReloc k r (skipStatus code r.ref))
  match found with
  | .wait s => .wait s
  | .fault s x va => .fault s x va none
  | .ok s .imm => skip s 2
  | .ok s .present => skip s 3
  | .ok s .full => skip s 5
  | .ok s (.free slot e) =>
    match s.colWrite k r slot 8 (2 ^ 62 + a) with
    | .wait s => .wait s
    | .fault s x va => .fault s x va none
    | .ok s' _ =>
      let ep := (entEpoch e + 1) % 16
      let e' : BitVec 512 := BitVec.ofNat 512 (e.toNat - entEpoch e * 2 ^ 58 + ep * 2 ^ 58)
      match s'.colWrite k r (tab + 64 + 64 * reg) 8 (entWord e' 0).toNat with
      | .wait s'' => .wait (s.keepMisses s'')
      | .fault s x va => .fault s x va (some (slot, entEpoch e))
      | .ok s _ =>
        let cs := s.placedCores r.ctx
        let time := (s.stack k).collie.wts
        let s := (s.noteOld k r slot).relMove k r (.acks cs ep) slot
        let s := { s with panel := { s.panel with epochs := tset s.panel.epochs (r.ctx * 256 + reg) time } }
        .go (cs.foldl (fun s l => s.send .event (.collie k) (.core l) r.ctx (.epoch r.ctx reg e' k time)) s)

/-- An atomic add of 0 by a Collie (R291 step 4, R295): a read that is ordered among the writes. -/
def State.colAdd0 (s : State) (k : Nat) (r : RelReq) (va w : Nat) : ColR Nat :=
  (s.colRead k r va w).bind fun s v => (s.colWrite k r va w v).bind fun s _ => .ok s v

/-- Steps 4 and 5 of R291: PIN, and the reservation. -/
def State.relTake (s : State) (k : Nat) (r : RelReq) (slot ep : Nat) : RelOut :=
  let a := refAddr r.ref
  let tab := s.relTable r
  let skip (s : State) (code : Nat) : RelOut := .go (s.inPlace k r slot ep (skipStatus code r.ref))
  let head : ColR (Nat × Nat) := (s.colAdd0 k r (a + 8) 4).bind fun s pin => (s.colRead k r a 4).bind fun s size => .ok s (pin, size)
  match head with
  | .wait s' => .wait (s.keepMisses s')
  | .fault s x va => .fault s x va (some (slot, ep))
  | .ok s1 (pin, size) =>
    if pin ≠ 0 then skip s1 1
    else
      match (s1.colEntry k r tab (refReg r.ref)).bind fun s e => (s.colEntry k r tab (entTgt e)).bind fun s t => .ok s (entTgt e, t) with
      | .wait s' => .wait (s.keepMisses s')
      | .fault s x va => .fault s x va (some (slot, ep))
      | .ok s2 (tgt, t) =>
        let cur := (entWord t 4).toNat
        if (entWord t 3).toNat < cur + size then skip s2 4
        else match s2.colWrite k r (tab + 64 + 64 * tgt + 32) 8 (cur + size) with
          | .wait s' => .wait (s.keepMisses s')
          | .fault s x va => .fault s x va (some (slot, ep))
          | .ok s _ => .go (s.relMove k r (.taking ep (mkRef (entEpoch t) tgt cur) size []) slot)

/-- The copy of step 6 of R291: every unit is read for itself, those that `skip` names later (R255, R305); then the new object is written. -/
def State.relCopy (s : State) (k : Nat) (r : RelReq) (slot ep : Nat) (new : Word) (size : Nat) (got : Tab Nat) (skip : List Nat) :
    RelOut :=
  let unit (b i : Nat) : Word := BitVec.ofNat 64 (b + 8 * i)
  let is := List.range (size / 8)
  let keep (s : State) (got : Tab Nat) : State := s.relMove k r (.taking ep new size got) slot
  match rowPlaces (fun s va => s.colPlace k r needLd 8 va) (is.map (unit (refAddr r.ref))) s with
  | .wait s => .wait s
  | .fault s x va => .fault s x va (some (slot, ep))
  | .ok pls =>
    let left := is.any fun i => skip.contains i && !got.any (fun y => y.1 == i)
    match readPlaces r.ctx 0 r.rt 8 skip left (is.zip ((is.map (unit (refAddr r.ref))).zip pls)) s got with
    | .wait s => .wait s
    | .fault s x va => .fault s x va (some (slot, ep))
    | .ok s got true => .go (keep s got)
    | .ok s got false =>
      match rowPlaces (fun s va => s.colPlace k r needSt 8 va) (is.map (unit (refAddr new))) s with
      | .wait s => .wait (keep s got)
      | .fault s x va => .fault s x va (some (slot, ep))
      | .ok dst =>
        let els := (is.zip dst).map fun y =>
          let v := tget 0 got y.1
          -- bytes 8 to 11 of the new header, its PIN, are 0
          (⟨y.1, unit (refAddr new) y.1, 8, if y.1 = 1 then v / 2 ^ 32 * 2 ^ 32 else v, y.2⟩ : Elem)
        match els.find? fun y => s.poisoned y || !y.place.isLine with
        | some y => .fault s (if s.poisoned y then 4 else 1) y.va (some (slot, ep))
        | none =>
          if els.any fun y => s.locked r.ctx y.va then .wait (keep s got)
          else
          let s := els.foldl (fun s y =>
            let (s', wts) := s.engWrite r.ctx y (maxW r.rt (s.stack k).collie.wts)
            s'.setCollie k { (s'.stack k).collie with wts := maxW (s'.stack k).collie.wts wts }) s
          .go (s.relMove k r (.copying ep new) slot)

/-- The request a Collie takes next, and the Collie without it (R291): within one context in the order accepted; the contexts by weighted
deficit round robin, in the order of their numbers, a turn being worth as many requests as the weight with which its first began, and what
is left of a turn when no more requests of its context wait being lost (DESIGN CHOICE, log 70: R291 gives no unit and no order). -/
def Collie.next (c : Collie) : Option (RelReq × Collie) :=
  let of (n : Nat) : Option RelReq := c.queue.find? fun x => x.ctx == n
  let take (r : RelReq) (left : Nat) : RelReq × Collie :=
    (r, { c with queue := c.queue.erase r, turn := r.ctx, deficit := tset c.deficit r.ctx (left - 1) })
  match of c.turn with
  | some r =>
    if 0 < tget 0 c.deficit c.turn then some (take r (tget 0 c.deficit c.turn))
    else ((List.range 65).findSome? fun i => of ((c.turn + 1 + i) % 65)).map fun r => take r r.rlw
  | none => ((List.range 65).findSome? fun i => of ((c.turn + 1 + i) % 65)).map fun r => take r r.rlw

/-- A Collie with nothing in work begins its next request. -/
def State.relStart (s : State) (k : Nat) : State :=
  let co := (s.stack k).collie
  match co.cur, co.next with
  | none, some (r, co') =>
    match (s.setCollie k co').relBegin k r with
    | .go s' => s'
    | .wait s' => s'.setCollie k co
    | .fault _ _ _ _ => s
  | _, _ => s

/-- RELOCATION_REQUEST_ACCEPT (R291, R303). Below 2^20: message `k` finds room in its Collie's queue. From 2^20 on: stack
k - 2^20's Collie takes a queued request and does steps 1 to 3. -/
def execRelocationRequestAccept (k : Nat) (s : State) : Out :=
  .next (
    if 2 ^ 20 ≤ k then s.relStart (k - 2 ^ 20)
    else match s.arrived k with
      | some ⟨_, _, .collie c, _, _, _, _, _, _, _, _, _, .relReq req core entry⟩ =>
        let co := (s.stack c).collie
        if co.queue.length < 64 then
          (((s.drop k).setCollie c { co with queue := co.queue ++ [req] }).release core entry).relStart c
        else s
      | _ => s)

/-- Reference stores into a region by a core's threads are settled (R291 step 3), and no thread has one under way whose barrier is
behind it. -/
def Core.regionSettled (c : Core) (lo hi : Nat) : Bool :=
  let inside (x : Elem) : Bool := lo ≤ x.va.toNat && x.va.toNat < hi
  (c.journal.all fun e => !(e.2.busy && e.2.kind == .ref && (e.2.todo ++ e.2.flight).any inside)) &&
    c.threads.all fun t => match t.2.wait with
      | .load r => (match r.kind with
        | .hlog _ u => !inside u
        | .lookup (.logged _ u _) => !inside u
        | .hswap _ _ => !r.todo.any inside
        | _ => true)
      | _ => true

/-- EPOCH_BROADCAST_ARRIVAL (R291 step 3): the core replaces its copy once its threads' reference stores into the region are settled. -/
def execEpochBroadcastArrival (k : Nat) (s : State) : Out :=
  .next (match s.arrived k with
    | some ⟨_, _, .core l, _, _, _, _, _, _, _, _, _, .epoch ctx reg ent st time⟩ =>
      match s.phys l with
      | none => s
      | some p =>
        let c := s.core p
        if c.ctx = ctx && !c.regionSettled (entWord ent 2).toNat (entWord ent 3).toNat then s
        else
          let s := s.drop k
          -- the epochs of two Collies may arrive in either order: the later advance stands
          let newer := (c.ca.heap.find? fun e => e.1 == reg).all fun e => e.2.2.toNat ≤ time.toNat
          let s := if c.ctx = ctx && newer then s.setCore p { c with ca := { c.ca with heap := tset c.ca.heap reg (ent, time) } } else s
          let co := (s.stack st).collie
          match co.cur with
          | some (r, .acks cs ep, slot) => s.setCollie st { co with cur := some (r, .acks (cs.erase l) ep, slot) }
          | _ => s
    | _ => s)

/-- A Collie's fault record (R293, R331); one of a request that the host performs names no thread. -/
def State.relFault (s : State) (r : RelReq) (rank : Nat) (a : Word) : State :=
  let f := if s.hostReloc r then plainRecord 17 0 0 a (trapCode rank) r.ref.toNat
    else plainRecord 17 r.gtn r.pc a (trapCode rank) r.ref.toNat
  if r.ctx = 64 then s
  else match s.whereIs r.gtn with
    | some (p, t) => s.deliver p t r.slot r.ctx f
    | none => s.toHost r.ctx f

/-- Reference stores of a context's threads are in flight from cores that serve no number any more: their acknowledgement cannot come, but
step 3 waits for the stores (R291, R305). -/
def State.strayRefs (s : State) (ctx : Nat) : Bool :=
  s.cores.any fun e => e.2.ctx == ctx && (s.logical e.1).isNone && e.2.journal.any fun j => j.2.busy && j.2.kind == .ref

/-- Steps 4 to 6 from where a Collie stands, once no core that still serves has an acknowledgement to give. -/
def State.relWork (s : State) (k : Nat) (skip : List Nat) : Option (RelReq × RelOut) :=
  match (s.stack k).collie.cur with
  | some (r, .acks cs ep, slot) =>
    if cs.all (fun l => (s.phys l).isNone) && !s.strayRefs r.ctx then some (r, s.relTake k r slot ep) else none
  | some (r, .taking ep new size got, slot) => some (r, s.relCopy k r slot ep new size got skip)
  | _ => none

/-- The access that ends a request's copy: NEW and MOVED in one write. -/
def State.relMoved (s : State) (k : Nat) (r : RelReq) (slot : Nat) (new : Word) : ColR Unit :=
  s.colWrite k r slot 16 (2 ^ 63 + refAddr r.ref + new.toNat * 2 ^ 64)

/-- COLLIE_EPOCH_ACKS_DONE (R291 steps 4 to 6): the pin and the reservation, then the copy, of which the source units that `skip` names
are read in a later step. -/
def execCollieEpochAcksDone : Portion → State → Out
  | ⟨stack, skip⟩, s => .next (match s.relWork stack skip with
    | some (_, .go s') => match (s'.stack stack).collie.cur with
      | some (_, .taking _ _ _ [], _) => match s'.relWork stack skip with
        | some (_, .go s'') => s''
        | some (_, .wait s'') => s''
        | _ => s'
      | _ => s'
    | some (_, .wait s') => s'
    | _ => s)

/-- COLLIE_COPY_DONE (R291 steps 6 and 7): NEW and MOVED in one write, then the request is complete; or MOVED in place, where the Collie
has given up. -/
def execCollieCopyDone (stack : Nat) (s : State) : Out :=
  .next (match (s.stack stack).collie.cur with
    | some (r, .copying _ new, slot) =>
      match s.relMoved stack r slot new with
      | .ok s _ => s.endReloc stack r new
      | .wait s => s
      | .fault _ _ _ => s
    | some (r, .inPlace ep status, slot) => s.inPlace stack r slot ep status
    | _ => s)

/-- COLLIE_FAULT (R293): the next access of the request in work faults. A claimed slot is MOVED in place. -/
def execCollieFault (stack : Nat) (s : State) : Out :=
  .next (
    let stop (r : RelReq) (s' : State) (x : Nat) (a : Word) (slot : Option (Nat × Nat)) : State :=
      let status := faultStatus (trapCode x) r.ref
      let s' := (s'.forgetCollie stack).relFault r x a
      match slot with
      | some (sl, ep) => s'.inPlace stack r sl ep status
      | none => s'.endReloc stack r status
    let co := (s.stack stack).collie
    match co.cur with
    | some (r, .copying ep new, slot) =>
      match s.relMoved stack r slot new with
      | .fault s' x a => stop r s' x a (some (slot, ep))
      | _ => s
    | none => match co.next with
      | some (r, co') => match (s.setCollie stack co').relBegin stack r with
        | .fault s' x a sl => stop r s' x a sl
        | _ => s
      | none => s
    | _ => match s.relWork stack [] with
      | some (r, .fault s' x a sl) => stop r s' x a sl
      | _ => s)

/-- HOST_RELOCATION_DONE (R294): the host, which performs a request's steps as a Collie does, finishes it with its status. -/
def execHostRelocationDone (stack : Nat) (status : Word) (s : State) : Out :=
  .next (match (s.stack stack).collie.cur with
    | some (r, .host st, _) =>
      let co := (s.stack stack).collie
      if status = st then (s.setCollie stack { co with wts := maxW co.wts s.panel.hostWts }).finishReloc stack r status else s
    | _ => s)

end Sys2Proof.Machine
end

