-- ==== Sys2Proof/Machine/Fetch.lean ====
section
/-!
DEFINITION. Turns, fetching and what comes next: the choice of a slot's member, annulled turns, debug stops, traps taken at
a turn, the instruction word a thread issues, the drain unit's next micro-op, and the next event (R25, R28, R30, R32, R98,
R332, R404, R405).
-/

namespace Sys2Proof.Machine

/-! ### The word to issue (R28, R98) -/

/-- What a fetch gives: a word to run, or a state in which the turn has ended (a trap, or a translation miss). -/
inductive Fetched where
  | run (s : State) (w : BitVec 32)
  | ended (s : State)

/-- The instruction bytes at a translated place; only ORD, NEAR and MGD pages can carry execute permission (R309). -/
def State.fetchBytes (s : State) (pl : Place) : BitVec 32 :=
  match pl with
  | .line l off _ => BitVec.ofNat 32 (mread s.dram (l * 512 + off) 4)
  | _ => 0

/-- The word a thread issues: the latched one after a pre-issue wait or a resumed trap (R28, R31), otherwise the one at its
program counter (R98). -/
def State.fetch (s : State) (p t : Nat) : Fetched :=
  let th := s.thread p t
  let cur (w : BitVec 32) : State := { s with cur := ⟨p, t, w⟩ }
  if th.latch.kind = .preIssue || th.latch.kind = .reissue then .run (cur th.latch.word) th.latch.word
  else
    let va : Word := th.regs.pc.setWidth 64
    let bad : Fetched := .ended ((cur 0).fetchTrap p t (.access va))
    if th.noAddr then bad
    else match eaKind va with
    | .virt =>
      match s.tlb1 p va.toNat with
      | none => .ended (((cur 0).threadMiss p t va 4).postIssue
          (.load { kind := .fetch, todo := [⟨0, va, 4, 0, .direct 0⟩], miss := true }) none none)
      | some e =>
        if e.canX then .run (cur (s.fetchBytes (e.place va.toNat))) (s.fetchBytes (e.place va.toNat))
        else bad
    | _ => bad

/-! ### Debug stops and traces (R32, R404, R405) -/

/-- The stop record's words (R404). -/
def State.stopRecord (s : State) (p t cause : Nat) : FRec :=
  let th := s.thread p t
  let l := (s.logical p).getD 0
  ⟨BitVec.ofNat 64 (dieOf p * 2 ^ 56 + clusterOf p % 16 * 2 ^ 52 + p % 17 * 2 ^ 47 + t * 2 ^ 43 + (s.core p).ctx * 2 ^ 37 + l * 2 ^ 22),
   th.regs.pc.setWidth 64, BitVec.ofNat 64 cause, (s.die (dieOf p)).time⟩

/-- Raises an MSI-X vector (R389). -/
def State.msi (s : State) (v : Nat) : State := { s with panel := { s.panel with msix := v :: s.panel.msix } }

/-- A wait that comes before issue (R27). -/
def Wait.preIssue : Wait → Bool
  | .token _ | .chainIn _ | .chainOut _ | .journal => true
  | _ => false

/-- Stops a thread: out of rotation until the debugger acts, with a record in the stop ring (R22, R404). -/
def State.stop (s : State) (p t cause : Nat) : State :=
  let r := s.stopRecord p t cause
  let s := s.modThread p t fun th =>
    { th with st := .stopped, prior := th.st, stopReq := none, passBp := th.st == .inRot || th.wait.preIssue }
  let n := s.panel.stopcnt
  ({ s with panel := { s.panel with stops := tset s.panel.stops (n % 64) r, stopcnt := n + 1 } }).msi 0

/-- Whether a breakpoint matches a thread's next instruction (R404). -/
def State.atBreakpoint (s : State) (p t : Nat) : Bool :=
  let th := s.thread p t
  s.panel.bps.any fun b => bits b.2 63 63 = 1 && bits b.2 61 56 == (s.core p).ctx && bits b.2 55 0 == th.regs.pc.toNat

/-- Whether tracing is on for a core's cluster at a level (R405). -/
def State.tracing (s : State) (p lvl : Nat) : Bool :=
  let c := s.panel.trcctl
  !isSetter p && bits c 63 63 = 1 && bits c 62 62 == lvl && bits c 10 4 == dieOf p && bits c 3 0 == clusterOf p % 16

/-- What a core adds to the issue trace's record of a cycle (R405): a cycle that has no record yet gets one, with those before it since TRCCTL
was written; cycles before that have none. -/
def Die.traceAdd (d : Die) (n : Nat) (v : BitVec 128) : Die :=
  if !d.traceOn then { d with trace := (v :: d.trace).take 65536, traceAt := n, traceOn := true, traceFrom := n }
  else if n < d.traceFrom then d
  else if d.traceAt < n then
    { d with trace := (v :: List.replicate (min (n - d.traceAt - 1) 65535) 0 ++ d.trace).take 65536, traceAt := n }
  else { d with trace := d.trace.modify (d.traceAt - n) fun r => r ||| v }

/-- The issue trace takes what a core does in its cycle (R405, level 0): 0 for an annulled or empty turn. -/
def State.traceCycle (s : State) (p v : Nat) : State :=
  if s.tracing p 0 then s.setDie (dieOf p) ((s.die (dieOf p)).traceAdd (s.core p).cyc (BitVec.ofNat 128 (v * 2 ^ (5 * (p % 17))))) else s

/-- The trace record of an issue (R405): into the die's trace SRAM at level 0, or the host ring at level 1. -/
def State.traceIssue (s : State) (p t : Nat) : State :=
  if s.tracing p 0 then s.traceCycle p (16 + t)
  else if s.tracing p 1 then
    let th := s.thread p t
    let n := s.panel.trcN
    let delta := (th.regs.pc.toNat + 2 ^ 58 - th.tracePc) / 4 % 2 ^ 32
    let v := delta * 2 ^ 32 + min ((s.core p).cyc - th.traceCyc) (2 ^ 23 - 1) * 2 ^ 9 + (p % 17 * 16 + t)
    let s := s.modThread p t fun th => { th with tracePc := th.regs.pc.toNat, traceCyc := (s.core p).cyc }
    -- whether the host ring has room is the host's to say
    if Config.hostRefuses s.tick then { s with panel := { s.panel with trcdrop := s.panel.trcdrop + 1 } }
    else { s with panel := { s.panel with trcN := n + 1 }, host := mwrite s.host (s.panel.trcbase.toNat + 8 * n) 8 v }
  else s

/-- The fetch of an issue: an instruction that issues is recorded (R28: also one that issues again); a turn that ends with the fetch is not. -/
def State.fetchIssue (s : State) (p t : Nat) : Fetched :=
  match s.fetch p t with
  | .run s' w => .run (s'.traceIssue p t) w
  | .ended s' => .ended s'

/-! ### A turn (R20, R25, R30, R332) -/

/-- In rotation (R22). -/
def Thread.inRot (th : Thread) : Bool := th.st == .inRot

/-- An asynchronous trap as a trap of the latched instruction (R249, R330-R332). -/
def ATrap.trap (a : ATrap) : Trap :=
  if a.kind = 7 then
    { kind := 7, cause := a.entry * 16 + a.cause, addr := a.addr, detail := a.detail.toNat, noWord := true, w := a.width }
  else if a.kind = 14 then { kind := 14, cause := a.cause, addr := a.addr, noWord := true }
  else { kind := a.kind, cause := a.cause, addr := a.addr, detail := a.detail.toNat }

/-- A thread's turn with no annulment left: a debug stop, an asynchronous trap, a breakpoint, or its issue, which is the
next step. DESIGN CHOICE (log 63): where several are due at one turn they come in that order, for which the rules give none. -/
def State.takeTurn (s : State) (p t : Nat) : State :=
  let th := s.thread p t
  match th.stopReq with
  | some cause => s.stop p t cause
  | none =>
    match th.traps with
    | a :: rest =>
      let s := s.modThread p t fun th => { th with traps := rest }
      match s.fetch p t with
      | .run s' w => s'.trapThread p t w a.trap
      | .ended _ => s.fetchTrap p t a.trap
    | [] =>
      if s.atBreakpoint p t && !th.passBp then s.stop p t 1
      else { s with focus := .issue p t }

/-- Time passes with a core's cycle: the core's, and its die's counter (R20, R35, R384; log 5). -/
def State.passTime (s : State) (p : Nat) : State :=
  let n := 1 + Config.stall s.tick
  let now := tget 0 s.evs (s.core p).ctx
  let busy := s.net.any fun m => m.cls == .event && m.ctx == (s.core p).ctx
  let s := s.modCore p fun c =>
    { c with cyc := c.cyc + n
             calm := if busy || c.evSeen ≠ now then 0 else c.calm + n
             evSeen := now
             threads := c.threads.map fun e => (e.1,
               if bits e.2.crs.lease 20 16 ≤ 24 && e.2.inRot then { e.2 with inCyc := e.2.inCyc + n } else e.2) }
  let d := s.die (dieOf p)
  s.setDie (dieOf p) { d with time := d.time + BitVec.ofNat 64 (Config.dieTicks s.tick) }

/-- The turn of the slot at the rotation pointer (R25, R30). -/
def State.turn (s : State) (p : Nat) : State :=
  let c := s.core p
  let sl := c.ptr
  let a := c.thread sl
  let b := c.thread (sl + 8)
  let s := ((s.modCore p fun c => { c with ptr := (sl + 1) % 8 }).passTime p).traceCycle p 0
  let cand? :=
    if a.inRot && b.inRot then some (if c.last.getLsbD sl then sl else sl + 8)
    else if a.inRot then some sl
    else if b.inRot then some (sl + 8)
    else none
  match cand? with
  | none => s
  | some t =>
    let s := s.modCore p fun c => { c with last := if t < 8 then c.last &&& ~~~ ((1 : BitVec 8) <<< sl) else c.last ||| ((1 : BitVec 8) <<< sl) }
    let th := s.thread p t
    if 0 < th.ann then
      let s := s.setThread p t { th with ann := th.ann - 1 }
      let o := if t < 8 then t + 8 else t - 8
      if (s.thread p o).inRot && (s.thread p o).ann = 0 then s.takeTurn p o else s
    else s.takeTurn p t

/-! ### What comes next -/

/-- The next event: the first laid down, or a free choice (R12; log 2). The step counter advances. -/
def State.nextEvent (s : State) : State × Instr :=
  match s.agenda with
  | i :: rest => ({ s with agenda := rest, tick := s.tick + 1 }, i)
  | [] => ({ s with tick := s.tick + 1 }, Config.schedule s.tick)

/-- The row of the pipe that runs next in the cycle in hand (R212): the first that has not run. -/
def Drain.turn (d : Drain) : Option DRow := d.rows.find? fun r => !r.ran && r.fault.isNone

/-- The micro-op word of the row whose turn it is, for the operation the drain unit serves; none when there is none. -/
def State.drainWord (s : State) (p : Nat) : Option Nat :=
  let mx := (s.core p).mx
  match mx.drain.turn, mx.ops.find? fun o => o.unit with
  | some r, some o => (o.prog[r.pos]?).map BitVec.toNat
  | _, _ => none

/-- The drain unit's micro-op is in hand; the schedule follows unless the row goes on. -/
def State.atDrain (s : State) (p : Nat) : State := { s with focus := .drain p, cur := ⟨p, 0, 0⟩, tick := s.tick + 1 }

/-- An issue is in hand; the schedule follows it. -/
def State.atIssue (s : State) : State := { s with focus := .sched, tick := s.tick + 1 }

end Sys2Proof.Machine
end

