-- ==== Sys2Proof/Machine/Mem.lean ====
section
/-!
DEFINITION. Scalar loads and stores, atomics, cache operations and control-register access (R100-R110).
-/

namespace Sys2Proof.Machine

/-- Effective address of the Mem format (R88, R100). -/
def State.memEa (s : State) (a : GReg) (imm : BitVec 13) : Word := s.gr a + imm.signExtend 64

/-- Whether an address breaks the alignment of R89. -/
def misaligned (ea : Word) (w : Nat) : Bool := ea.toNat % w != 0

/-- LD (R100). -/
def execLd (d a : GReg) (sz : Sz) (imm : BitVec 13) (s : State) : Out :=
  .next (s.issue [a] [d] fun s =>
    let ea := s.memEa a imm
    if misaligned ea sz.bytes then .trap (.align ea)
    else s.startLoad (.ld d sz) 0 [⟨0, ea, sz.bytes, 0, .direct 0⟩] fun s got =>
      .done (s.gw d (sz.ext ((got.headD (0, 0)).2))))

/-- ST (R101). -/
def execSt (d a : GReg) (sz : Sz) (imm : BitVec 13) (s : State) : Out :=
  .next (s.issue [a, d] [] fun s =>
    let ea := s.memEa a imm
    if misaligned ea sz.bytes then .trap (.align ea)
    else s.startStore 1 [⟨0, ea, sz.bytes, (s.gr d).toNat % 2 ^ (8 * sz.bytes), .direct 0⟩])

/-! ### Atomics (R104, R105) -/

/-- The value an atomic writes, if it writes (R104). Operation codes are those of R72. -/
def atomNew (op : Fin 8) (w : AWidth) (nat : Bool) (old x cmp : Nat) : Option Nat :=
  let t : IFmt := ⟨8 * w.bytes, !nat⟩
  match op with
  | 0 => some x
  | 1 => some ((old + x) % 2 ^ t.w)
  | 2 => some (old &&& x)
  | 3 => some (old ||| x)
  | 4 => some (old ^^^ x)
  | 5 => some (if t.value old < t.value x then x else old)
  | 6 => some (if t.value x < t.value old then x else old)
  | _ => if old = cmp then some x else none

/-- An atomic (R104): in the direct range it completes within the rotation, elsewhere it begins the load wait. -/
def atomic (op : Fin 8) (d a b : GReg) (wd : AWidth) (nat : Bool) (s : State) : Out :=
  .next (s.issue (if op = 7 then [a, b, d] else [a, b]) [d] fun s =>
    let ea := s.gr a
    let x := (s.gr b).toNat % 2 ^ (8 * wd.bytes)
    let cmp := (s.gr d).toNat % 2 ^ (8 * wd.bytes)
    if misaligned ea wd.bytes then .trap (.align ea)
    else s.startLoad (.atom op d (BitVec.ofNat 64 x) (BitVec.ofNat 64 cmp) wd nat) 2 [⟨0, ea, wd.bytes, 0, .direct 0⟩]
      fun s got =>
        let old := (got.headD (0, 0)).2
        let s := match atomNew op wd nat old x cmp with
          | some v => s.dwrite s.cur.core ea.toNat wd.bytes v
          | none => s
        .done (s.gw d (wd.ext nat old)))

/-- ATOM_SWAP (R104). -/
def execAtomSwap (d a b : GReg) (wd : AWidth) (s : State) : Out := atomic 0 d a b wd false s

/-- ATOM_ADD (R104). -/
def execAtomAdd (d a b : GReg) (wd : AWidth) (s : State) : Out := atomic 1 d a b wd false s

/-- ATOM_AND (R104). -/
def execAtomAnd (d a b : GReg) (wd : AWidth) (s : State) : Out := atomic 2 d a b wd false s

/-- ATOM_OR (R104). -/
def execAtomOr (d a b : GReg) (wd : AWidth) (s : State) : Out := atomic 3 d a b wd false s

/-- ATOM_XOR (R104). -/
def execAtomXor (d a b : GReg) (wd : AWidth) (s : State) : Out := atomic 4 d a b wd false s

/-- ATOM_MAX (R104). -/
def execAtomMax (d a b : GReg) (wd : AWidth) (nat : Bool) (s : State) : Out := atomic 5 d a b wd nat s

/-- ATOM_MIN (R104). -/
def execAtomMin (d a b : GReg) (wd : AWidth) (nat : Bool) (s : State) : Out := atomic 6 d a b wd nat s

/-- ATOM_CAS (R104). -/
def execAtomCas (d a b : GReg) (wd : AWidth) (s : State) : Out := atomic 7 d a b wd false s

/-- PIN_L (R107). -/
def execPinL (a : GReg) (s : State) : Out := .next (s.issue [a] [] fun s => s.startCache 0 (s.gr a))

/-- UNPIN_L (R107). -/
def execUnpinL (a : GReg) (s : State) : Out := .next (s.issue [a] [] fun s => s.startCache 1 (s.gr a))

/-- FLUSH (R107). -/
def execFlush (a : GReg) (s : State) : Out := .next (s.issue [a] [] fun s => s.startCache 2 (s.gr a))

/-- INVAL (R107). -/
def execInval (a : GReg) (s : State) : Out := .next (s.issue [a] [] fun s => s.startCache 3 (s.gr a))

/-- PREF (R107). -/
def execPref (a : GReg) (s : State) : Out := .next (s.issue [a] [] fun s => s.startCache 4 (s.gr a))

/-! ### Control registers (R73, R109, R110) -/

/-- CRR (R73). -/
def execCrr (d : GReg) (crn : BitVec 12) (s : State) : Out :=
  .next (s.issue [] [d] fun s => .done (s.gw d (s.crGet crn.toNat)))

/-- A write of a control register, after what the instruction has done so far. -/
def crWrite (crn : BitVec 12) (v : Word) (s : State) : Ends :=
  match s.crSet crn.toNat v with
  | some s' => .done s'
  | none => .trap .illegal

/-- CRW (R73). -/
def execCrw (a : GReg) (crn : BitVec 12) (s : State) : Out :=
  .next (s.issue [a] [] fun s => crWrite crn (s.gr a) s)

/-- CRS (R73): `G[d]` takes the value read, and the new value is formed from that value and `G[a]`, which is read after that (R17). -/
def execCrs (d a : GReg) (crn : BitVec 12) (s : State) : Out :=
  .next (s.issue [a] [d] fun s =>
    let old := s.crGet crn.toNat
    let s := s.gw d old
    crWrite crn (old ||| s.gr a) s)

/-- CRC (R73). -/
def execCrc (d a : GReg) (crn : BitVec 12) (s : State) : Out :=
  .next (s.issue [a] [d] fun s =>
    let old := s.crGet crn.toNat
    let s := s.gw d old
    crWrite crn (old &&& ~~~ s.gr a) s)

/-- CARVE_WRITE (R38): the part of a control-register write that re-divides the SRAM; a value that R38 refuses leaves
`carve` as it is. -/
def execCarveWrite (core : Nat) (val : Word) (s : State) : Out := .next ((s.carveWrite core val).getD s)

/-- VPOOL_WRITE (R240). -/
def execVpoolWrite (cluster : Nat) (val : Word) (s : State) : Out := .next ((s.vpoolWrite cluster val).getD s)

/-- JRNL_WRITE (R250). -/
def execJrnlWrite (core : Nat) (val : Word) (s : State) : Out := .next (s.modCore core fun c => c.jrnlWrite val)

end Sys2Proof.Machine
end

