-- ==== Sys2Proof/Machine/System.lean ====
section
/-!
DEFINITION. System instructions, acknowledgements, and the abort of a kernel (R111-R114, R233, R329, R355).
-/

namespace Sys2Proof.Machine

/-! ### Aborting a kernel (R355) -/

/-- A record from the 32 bytes of its offer's send data. -/
def FRec.of (d : Nat) : FRec := ⟨BitVec.ofNat 64 d, BitVec.ofNat 64 (d / 2 ^ 64), BitVec.ofNat 64 (d / 2 ^ 128), BitVec.ofNat 64 (d / 2 ^ 192)⟩

/-- Inserts a record by the step at which it was made. -/
def insertMade (o : Offer) : List Offer → List Offer
  | [] => [o]
  | x :: t => if o.made ≤ x.made then o :: x :: t else x :: insertMade o t

/-- A delivery that a party of an event has taken: its acknowledgement is under way. -/
def State.ackSent (s : State) (key : EvKey) (gtn : Nat) : Bool :=
  s.net.any fun m => match m.body with
    | .ack k g => k == key && g == gtn
    | _ => false

/-- The fault records of a bugle's events that occur and have not reached their receivers. -/
def State.undelivered (s : State) (b : Bugle) (mine : Offer → Bool) : List Offer :=
  b.evs.flatMap fun e => match e.st with
    | .occurring ps _ _ acks => if acks.any fun g => !s.ackSent e.key g then ps.filter mine else []
    | _ => []

/-- A Bugle whose occurring events carry some fault records no more. -/
def Bugle.unfault (b : Bugle) (mine : Offer → Bool) : Bugle :=
  { b with evs := b.evs.map fun x => match x.st with
      | .occurring ps data todo acks =>
        { x with st := .occurring (ps.map fun o => if mine o then { o with fault := none } else o) data todo acks }
      | _ => x }

/-- The fault records that a kernel which has ended has not received, at their event's home, on the way there, or in a delivery that finds no
receiver any more, go to the host ring in the order in which they were made (R328). -/
def State.recordsToHost (s : State) (ctx slot kid : Nat) : State :=
  let mine (o : Offer) : Bool := o.fault == some (ctx, slot, kid)
  let lost := s.bugles.flatMap fun e => s.undelivered e.2 mine
  let s : State := { s with bugles := s.bugles.map fun e => (e.1, e.2.unfault mine) }
  let held := s.bugles.flatMap fun e => (e.2.offers.filter mine).map fun o => (e.1, o)
  let sent := s.net.filterMap fun m => match m.body with
    | .offer o => if mine o then some o else none
    | _ => none
  let s := held.foldl (fun s x => (s.removeOffer x.1 x.2).getD
    (s.setBugle x.1 { s.bugle x.1 with offers := (s.bugle x.1).offers.filter fun o => o != x.2 })) s
  let s := { s with net := s.net.filter fun m => match m.body with
    | .offer o => !mine o
    | _ => true }
  ((lost ++ held.map Prod.snd ++ sent).foldr insertMade []).foldl (fun s o => s.toHost ctx (FRec.of o.data)) s

/-- The requester of a core's misses on its spill ring. -/
def ringWho (p : Nat) : MissWho := .kennel (2 ^ 40 + p)

/-- A kernel is aborted: its threads go to FREE (R24), the frames that stand or pend are discarded (R368), its unplaced
teams are gone (R359). Its engine work runs on; its completion record follows (R347). -/
def State.abortKernel (s : State) (slot cause thr : Nat) (pc : BitVec 56) : State :=
  match s.liveKernel slot with
  | none => s
  | some k =>
    let s := s.setKernel slot { k with st := .aborted, cause := cause, athr := thr, apc := pc, fin := s.tick,
                                       teams := k.teams.filter fun e => e.2.st == .placed || e.2.st == .done }
    let mine := s.cores.flatMap fun e =>
      (e.2.threads.filter fun t => t.2.slot == slot && !isSetter e.1 && t.2.st != .free).map fun t => (e.1, t.1)
    let s := (mine.foldl (fun s x => s.leave x.1 x.2) s).recordsToHost k.ctx slot k.id
    let cs := (s.cores.filter fun e => e.2.slot == some slot).map Prod.fst
    { s with cores := s.cores.map fun e =>
               (e.1, if e.2.slot = some slot then { e.2 with deque := [], spillLo := 0, spill := [] } else e.2)
             misses := s.misses.filter fun m => !cs.any fun p => m.who == ringWho p }

/-- A kind-18 record (R331, R338): to the service that FMODE names, the host's ring under FSVC 00 (R328). -/
def State.machineRecord (s : State) (ctx : Nat) (fmode : Word) (count die : Nat) : State :=
  let r := plainRecord 18 0 0 0 0 (count % 2 ^ 32 + die * 2 ^ 32)
  if bits fmode 2 1 = 1 then s.toUmator (die * 16) 0x3000000000000001 r.data 0 (some (ctx, 256, 0)) else s.toHost ctx r

/-- A frame is POISONED (R364, R368): its kernel is aborted with cause 20 and its context receives a kind-18 record. -/
def State.poisonFrame (s : State) (slot die : Nat) : State :=
  match s.liveKernel slot with
  | none => s
  | some k => (s.abortKernel slot 20 0 0).machineRecord k.ctx k.fmode (Config.lostCount s.tick) die

/-! ### System instructions -/

/-- NOP (R111). -/
def execNop (s : State) : Out := .next (s.issue [] [] fun s => .done s)

/-- TRAP (R111): raises SYSCALL with n in the record. -/
def execTrap (n : BitVec 8) (s : State) : Out :=
  .next (s.issue [] [] fun _ => .trap { kind := 15, detail := n.toNat * 2 ^ 32 })

/-- BRK (R111): to the debugger when one is attached (a stop with cause 3, R404), otherwise BREAK with n in the record. So it does
on a Setter core too (DESIGN CHOICE, log 63: R111 and R113 both claim that case). -/
def execBrk (n : BitVec 8) (s : State) : Out :=
  .next (s.issue [] [] fun s' =>
    if Config.debuggerAttached s.tick then .gone (s'.stop s'.cur.core s'.cur.thr 3)
    else .trap { kind := 14, detail := n.toNat * 2 ^ 32 })

/-- YIELD (R111): the thread's next turn is annulled; no instruction is passed over. -/
def execYield (s : State) : Out :=
  .next (s.issue [] [] fun s => .done (s.modMe fun th => { th with ann := 1 }))

/-- HALT (R112): the thread goes to FREE and its kernel is aborted with cause 16; the abort names thread and program
counter. On a Setter core the thread is freed. -/
def execHalt (s : State) : Out :=
  .next (s.issue [] [] fun s =>
    let p := s.cur.core
    let th := s.me
    let s' := s.leave p s.cur.thr
    .gone (if isSetter p then s' else s'.abortKernel th.slot 16 (s.gtn p s.cur.thr) th.regs.pc))

/-- ERET (R113): on a Setter core the stored program counter; anywhere else ACCESS. -/
def execEret (s : State) : Out :=
  .next (s.issue [] [] fun s =>
    if isSetter s.cur.core then .gone ((s.returnTrap s.cur.core s.cur.thr).modMe fun th => { th with latch := {} })
    else .trap (.access 0))

/-! ### Acknowledgements (R114, R233, R329) -/

/-- Whether a thread is a fault service: its kernel was admitted with FSVC 00, or it is Umator's. -/
def State.isService (s : State) (p slot : Nat) : Bool :=
  isSetter p || match s.kernel slot with
    | some k => bits k.fmode 2 1 = 0
    | none => false

/-- `fack` (R114): the operand and the issuer are checked; the acknowledgement waits for the issuer's posted stores. -/
def fack (act : Nat) (a : GReg) (s : State) : Out :=
  .next (s.issue [a] [] fun s =>
    let x := s.gr a
    if bits x 63 27 ≠ 0 || 294911 < bits x 18 0 then .trap (.access 0)
    else if !s.isService s.cur.core s.me.slot then .trap (.access 0)
    else .done { s with facks := s.facks ++ [⟨s.cur.core, s.cur.thr, s.myCore.jord, act, x, s.me.slot, s.kernelId s.me.slot, 0⟩] })

/-- FACK_RESUME (R114). -/
def execFackResume (a : GReg) (s : State) : Out := fack 0 a s
/-- FACK_SKIP (R114). -/
def execFackSkip (a : GReg) (s : State) : Out := fack 1 a s
/-- FACK_KILL (R114). -/
def execFackKill (a : GReg) (s : State) : Out := fack 2 a s

/-- The message of an acknowledgement word. -/
def fackBody (act : Nat) (x : Word) (rt : Word) (issuer : Option (Nat × Nat)) : Body :=
  .fack act (BitVec.ofNat 8 (bits x 26 19)) (bits x 18 0) rt issuer

/-- FACK_SENT (R233): pending acknowledgement `k` leaves once its issuer's earlier posted stores are accepted or refused, and
carries the issuer's RT. -/
def execFackSent (k : Nat) (s : State) : Out :=
  .next (match s.facks[k]? with
    | none => s
    | some f =>
      let c := s.core f.core
      if c.settledBefore f.thr f.ord then
        let rt := if f.thr = 16 then f.rt else (c.thread f.thr).rt
        ({ s with facks := s.facks.eraseIdx k }).send .event (s.endpOf f.core) (.core (bits f.arg 18 0 / 16)) c.ctx
          (fackBody f.act f.arg rt (if isSetter f.core then none else some (f.slot, f.kid)))
      else s)

/-- Whether an issuer serves a thread (R114, R329): a thread of its own kernel under FSVC 00, Umator under 01, the host
(256) under 10. -/
def State.serves (s : State) (issuer : Option (Nat × Nat)) (th : Thread) : Bool :=
  match s.kernel th.slot with
  | none => false
  | some k =>
    match issuer with
    | none => bits k.fmode 2 1 = 1
    | some x => if x.1 = 256 then bits k.fmode 2 1 = 2 else x.1 == th.slot && x.2 == k.id && bits k.fmode 2 1 = 0

/-- Stores of committed rows of a thread's parked operation are still under way, also from a core that it has left (R226, R228). -/
def Core.rowsUnderWay (c : Core) (t : Nat) : Bool := c.mx.ops.any fun o => o.thr == t && !o.discard && !o.stores.isEmpty

/-- FACK_ARRIVAL (R114): message `k` reaches the named thread and is applied when the latch sequence and service match. One that ends
a matrix operation is applied once the stores of its committed rows are settled, since every drain store is complete before the
thread rejoins rotation (R226, R230; DEDUCED, log 64). -/
def execFackArrival (k : Nat) (s : State) : Out :=
  .next (match s.arrived k with
    | some ⟨_, _, _, _, _, _, _, _, _, _, _, _, .fack act seq gtn rt issuer⟩ =>
      match s.whereIs gtn with
      | none => s.drop k
      | some (p, t) =>
        let th := s.thread p t
        if th.st = .latched && th.seq = seq && s.serves issuer th then
          if act ≠ 0 && (s.core p).rowsUnderWay t then s else (s.drop k).ackThread p t act rt
        else s.drop k
    | _ => s)

/-- A host write of FACK (R329): ignored when a zero field is nonzero or the action is not the row's. -/
def hostFack (act : Nat) (val : Word) (s : State) : Out :=
  .next (if bits val 63 30 ≠ 0 || bits val 27 27 ≠ 0 || bits val 29 28 ≠ act then s
    else
      let s := { s with panel := { s.panel with fack := val } }
      s.send .event .host (.core (bits val 18 0 / 16)) 64 (fackBody act val s.panel.hostWts (some (256, 0))))

/-- HOST_FACK_RESUME (R329). -/
def execHostFackResume (val : Word) (s : State) : Out := hostFack 0 val s
/-- HOST_FACK_SKIP (R329). -/
def execHostFackSkip (val : Word) (s : State) : Out := hostFack 1 val s
/-- HOST_FACK_KILL (R329). -/
def execHostFackKill (val : Word) (s : State) : Out := hostFack 2 val s

/-! ### Turns (R25) -/

/-- SLOT_TURN (R25, R395): one cycle of a core whose die's clock runs. A core being moved stands still, and so do the Setter cores
while an image is checked (R398). -/
def execSlotTurn (core : Nat) (s : State) : Out :=
  .next (
    if (s.core core).moveTo.isSome || (s.die (dieOf core)).clk = 0 || (isSetter core && s.panel.fwload.isSome) then s
    else s.turn core)

/-- PTIME_SELF_ADVANCE (R247): once the thread has spent 2^(TICK + 6) cycles in IN since the last advance. -/
def execPtimeSelfAdvance (core thr : Nat) (s : State) : Out :=
  .next (
    let th := s.thread core thr
    let tick := bits th.crs.lease 20 16
    if tick ≤ 24 && 2 ^ (tick + 6) ≤ th.inCyc then
      s.setThread core thr { th with inCyc := th.inCyc - 2 ^ (tick + 6), crs := { th.crs with ptime := th.crs.ptime + 1 } }
    else s)

end Sys2Proof.Machine
end

