-- ==== Sys2Proof/Machine/Page.lean ====
section
/-!
DEFINITION. Pages (R307-R322): TLB entries written and removed, seed changes, migrations and scrubs.
-/

namespace Sys2Proof.Machine

/-- A page instruction (R78): ACCESS anywhere but on a Setter core, before anything else. -/
def privileged (a : GReg) (wr : List GReg) (f : State → Ends) (s : State) : Out :=
  .next (if isSetter s.cur.core then s.issue [a] wr f else s.trapMe (.access 0))

/-! ### Entries (R307-R309, R313, R322) -/

/-- Physical bytes of the panel's DRAM that a frame may lie in (R307). -/
def frameLimit (e : Tlb) : Nat :=
  if e.cls = 1 then (stacksNear (siteOfDie (e.aux % 128))).length * 96 * 2 ^ 30 else 6912 * 2 ^ 30

/-- Cause 48 of R322: a reserved or zero field is nonzero, or low bits of VPN or PPN are. L is written only by the Vorter. -/
def entryCause48 (w0 w1 ctl : Word) : Bool :=
  let e : Tlb := ⟨w0, w1, false⟩
  -- R308 gives the reserved SZ no low bits; it is cause 49's
  let low (x : Nat) : Bool := e.sz != 3 && x % 2 ^ (pageLog e.sz) != 0
  bits ctl 63 1 != 0 || bits w0 54 40 != 0 || bits w1 56 56 != 0 || low e.va || low e.pa ||
    (match e.cls with
    | 1 => bits w1 55 43 != 0
    | 3 => bits w1 55 51 != 0
    | 4 => bits w1 55 46 != 0
    | _ => e.aux != 0)

/-- Cause 49 of R322: the entry breaks R307 or R309, or is nonzero beside NONE. -/
def State.entryCause49 (s : State) (w0 w1 ctl : Word) : Bool :=
  let e : Tlb := ⟨w0, w1, false⟩
  if bits ctl 0 0 = 1 then w0 != 0 || w1 != 0
  else e.sz == 3 || 6 ≤ e.cls || (e.cls ≤ 2 && frameLimit e < e.pa + 2 ^ pageLog e.sz) || (3 ≤ e.cls && e.canX) ||
    (e.cls == 1 && 72 ≤ e.aux % 128) ||
    (e.cls == 3 && (e.sz != 0 || 2 ^ 19 ≤ e.pa || (s.phys (e.aux % 32768)).isNone))

/-- Two pages overlap. -/
def Tlb.overlaps (e : Tlb) (ctx va size : Nat) : Bool :=
  e.valid && e.ctx == ctx && e.va < va + size && va < e.va + 2 ^ pageLog e.sz

/-- The page is LOCKED or SWITCHED: some bank holds a pinned entry for it (R312). -/
def State.pinned (s : State) (ctx va size : Nat) : Bool := s.stks.any fun x => x.2.tlb.any fun e => e.pin && e.overlaps ctx va size

/-- Puts an entry into a bank, and into a cluster's second level. -/
def State.bankPut (s : State) (k : Nat) (e : Tlb) : State :=
  let st := s.stack k
  s.setStack k { st with tlb := tlbPut s 32768 16 e st.tlb }
def State.clusterPut (s : State) (k : Nat) (e : Tlb) : State :=
  let c := s.cluster k
  s.setCluster k { c with tlb := tlbPut s 2048 8 e c.tlb }

/-- A requester takes PAGE (R90, R313): a thread's instruction traps, but for `pref`; an engine finds none at its next
attempt. -/
def State.noPage (s : State) (m : Miss) : State :=
  match m.who with
  | .thread p t =>
    let s := { s with misses := s.misses.erase m }
    match (s.thread p t).wait with
    | .load r =>
      if !r.miss then s
      else match r.kind with
        | .cache 4 => s.complete p t
        | .lookup _ =>
          if r.need = 10 then (s.take p t).trapMe (.access 0 72)
          else ((s.take p t).unpinNow p t).trapMe (.page m.va)
        | .fetch => (s.take p t).fetchTrap p t (.page m.va)
        | .cache _ => (s.take p t).trapMe (.page (BitVec.ofNat 64 ((r.todo.headD ⟨0, 0, 0, 0, .direct 0⟩).data)))
        | _ => (s.take p t).trapMe (.page m.va)
    | _ => s
  | _ => { s with misses := s.misses.map fun x => if x == m then { x with sent := false, none' := true } else x }

/-- What a `tlbw` block does once it is accepted (R313): `die` is the Setter's, if a Setter core wrote it. -/
def State.answerMiss (s : State) (tag w0 w1 : Word) (none' : Bool) (die : Option Nat) : State :=
  let ms := if tag = 0 then [] else s.misses.filter fun m => m.sent && m.tag == tag
  if none' then { ms.foldl State.noPage s with cur := s.cur }
  else
    let e : Tlb := ⟨w0, setBits w1 60 60 0, false⟩
    let s := match ms with
      | [] => match die with
        | some d => s.bankPut (bankOf d) e
        | none => s
      | _ => ms.foldl (fun (s : State) (m : Miss) => if m.isCore then (s.bankPut m.bank e).clusterPut m.cluster e else s.bankPut m.bank e) s
    { s with misses := s.misses.map fun m => if ms.contains m then { m with sent := false } else m }

/-- TLBW (R313). -/
def execTlbw (a : GReg) (s : State) : Out :=
  privileged a [] (fun s =>
    let x := s.gr a
    let c := s.myCore
    if x.toNat % 32 ≠ 0 then .trap (.align x)
    else if c.dirLimit < x.toNat + 32 then .trap (.access x)
    else
      let w (i : Nat) : Word := BitVec.ofNat 64 (c.dread (x.toNat + 8 * i) 8)
      let e : Tlb := ⟨w 0, w 1, false⟩
      let none' : Bool := bits (w 3) 0 0 = 1
      if entryCause48 (w 0) (w 1) (w 3) then .trap (.access 0 48)
      else if s.entryCause49 (w 0) (w 1) (w 3) then .trap (.access 0 49)
      else if !none' && s.pinned e.ctx e.va (2 ^ pageLog e.sz) then .trap (.access 0 50)
      else .done (s.answerMiss (w 2) (w 0) (w 1) none' (some (dieOf s.cur.core)))) s

/-- HOST_WALK_ANSWER (R311): the host answers a miss record of a context with host walks; a block that `tlbw` would refuse
has no effect. -/
def execHostWalkAnswer (tag : Word) (absent : Bool) (w0 w1 : Word) (s : State) : Out :=
  .next (
    let e : Tlb := ⟨w0, w1, false⟩
    let ctl : Word := if absent then 1 else 0
    if !(s.misses.any fun m => m.sent && m.host && m.tag == tag) || tag = 0 || entryCause48 w0 w1 ctl || s.entryCause49 w0 w1 ctl ||
        (!absent && s.pinned e.ctx e.va (2 ^ pageLog e.sz)) then s
    else s.answerMiss tag w0 w1 absent none)

/-! ### Removing entries (R314, R315) -/

/-- What a `tlbi` operand covers: an entry. -/
def covered (x : Word) (e : Tlb) : Bool :=
  match bits x 57 56 with
  | 0 => e.covers (bits x 63 58) (bits x 55 16 * 65536)
  | 1 => e.valid && e.ctx == bits x 63 58
  | _ => e.valid

/-- Drops the entries that satisfy `P` at every level, pinned ones included. -/
def State.dropTlb (s : State) (P : Tlb → Bool) : State :=
  let keep (es : List Tlb) : List Tlb := es.filter fun e => !P e
  { s with
    cores := s.cores.map fun e => (e.1, { e.2 with ca := { e.2.ca with tlb := keep e.2.ca.tlb } })
    clusters := s.clusters.map fun e => (e.1, { e.2 with tlb := keep e.2.tlb })
    stks := s.stks.map fun e => (e.1, { e.2 with tlb := keep e.2.tlb }) }

/-- TLBI (R314). -/
def execTlbi (a : GReg) (s : State) : Out :=
  privileged a [] (fun s =>
    let x := s.gr a
    if bits x 57 56 = 3 || bits x 15 0 ≠ 0 then .trap (.access 0 51)
    else .wait s (.load { kind := .tlbi x 0 [] })) s

/-- A `tlbi` operand names a page that lies in a migration's. -/
def coversMig (x : Word) (m : Mig) : Bool :=
  match bits x 57 56 with
  | 0 => m.holds (bits x 63 58) (BitVec.ofNat 64 (bits x 55 16 * 65536))
  | 1 => m.ctx == bits x 63 58
  | _ => true

/-- Whether an address of a context is one that a `tlbi` operand speaks of, when the entries of the pages `ps` were dropped for it. -/
def speaks (x : Word) (ctx : Nat) (ps : List (Nat × Nat × Nat)) (va : Word) : Bool :=
  match bits x 57 56 with
  | 0 => ctx == bits x 63 58 && (va.toNat / 65536 == bits x 55 16 ||
      ps.any fun q => q.1 == ctx && q.2.1 ≤ va.toNat && va.toNat < q.2.1 + q.2.2)
  | 1 => ctx == bits x 63 58
  | _ => true

/-- Accesses already translated that a `tlbi` waits for: units in journals, drain stores, waiting loads, fills and copies. -/
def State.translated (s : State) (P : Nat → Word → Bool) : Bool :=
  (s.cores.any fun e => !isSetter e.1 &&
    ((e.2.journal.any fun j => j.2.busy && (j.2.todo ++ j.2.flight).any fun u => P e.2.ctx u.va) ||
      (e.2.mx.ops.any fun o => o.stores.any fun u => P e.2.ctx u.va) || (e.2.ca.pref.any fun x => P x.ctx x.va) ||
      e.2.threads.any fun t => (t.2.pinAt.any fun u => P e.2.ctx u.va) || match t.2.wait with
        | .load r => (!r.miss && r.todo.any fun u => P e.2.ctx u.va) || match r.kind with
          | .hlog _ u | .lookup (.logged _ u _) | .lookup (.field _ _ u _) => P e.2.ctx u.va
          | .hswap _ _ => (r.todo.take 1).any fun u => P e.2.ctx u.va
          | _ => false
        | _ => false)) ||
    s.retrs.any fun e => e.2.active.any fun r => r.open'.any fun u => P r.req.ctx u.2.va

/-- TLBI_COMPLETE (R314): once the thread's earlier posted stores are settled and no page it covers is LOCKED, every level
drops the entries; once every access that had been translated is complete, the wait ends. -/
def execTlbiComplete (core thr : Nat) (s : State) : Out :=
  .next (match (s.thread core thr).wait with
    | .load r => match r.kind with
      | .tlbi x _ ps =>
        if !(s.core core).settled thr || s.migs.any (coversMig x) then s
        else if r.got.isEmpty then
          let rt := (s.thread core thr).rt
          let all := (s.stks.flatMap fun e => e.2.tlb) ++ (s.clusters.flatMap fun e => e.2.tlb) ++ s.cores.flatMap fun e => e.2.ca.tlb
          let ps := ((all.filter (covered x)).map fun e => (e.ctx, e.va, 2 ^ pageLog e.sz)).dedup
          let s := s.dropTlb (covered x)
          let s := { s with panel := { s.panel with fillRt := maxW s.panel.fillRt rt } }
          s.modThread core thr fun th => { th with wait := .load { r with kind := .tlbi x rt ps, got := [(0, 0)] } }
        else if s.translated fun c va => speaks x c ps va then s
        else s.complete core thr
      | _ => s
    | _ => s)

/-- TLBR (R315): the load wait; LOAD_REPLY answers from this die's bank. -/
def execTlbr (d a : GReg) (s : State) : Out :=
  privileged a [d] (fun s =>
    let x := s.gr a
    if bits x 57 56 ≠ 0 || bits x 15 0 ≠ 0 then .trap (.access 0 51)
    else .wait s (.load { kind := .tlbr d, todo := [⟨0, x, 8, 0, .direct 0⟩] })) s

/-- Word 1 of the bank's entry for the page that a KIND 00 operand names, or 0. -/
def State.bankWord (s : State) (p : Nat) (x : Word) : Word :=
  match findTlb (s.stack (bankOf (dieOf p))).tlb (bits x 63 58) (bits x 55 16 * 65536) with
  | some e => e.w1
  | none => 0

/-! ### Migration and scrub (R316-R319) -/

/-- Bytes of a migration block's field. -/
def migField (b off n : Nat) : Nat := b / 2 ^ (8 * off) % 2 ^ (8 * n)
def migCtl (b : Nat) : Word := BitVec.ofNat 64 (migField b 8 8)

/-- Cause 52 of R322 for a block. -/
def migBad (b : Nat) : Bool :=
  let ctl := migCtl b
  let sz := bits ctl 55 54
  let kind := bits ctl 57 56
  let low (pages : Nat) : Bool := pages * 65536 % 2 ^ pageLog sz != 0
  1 < kind || sz == 3 || 2 < bits ctl 53 51 || bits ctl 43 0 != 0 || (bits ctl 53 51 != 1 && bits ctl 50 44 != 0) ||
    (bits ctl 53 51 == 1 && 72 ≤ bits ctl 50 44) || migField b 0 8 % 2 ^ pageLog sz != 0 || 2 ^ 56 ≤ migField b 0 8 ||
    migField b 16 8 / 2 ^ 36 != 0 || migField b 24 8 / 2 ^ 36 != 0 || low (migField b 16 8) || low (migField b 24 8) ||
    (kind == 1 && migField b 24 8 != 0) || migField b 40 24 != 0

/-- Line and offset of a physical address of a frame of a class. -/
def framePlace (cls near pa : Nat) : Nat × Nat := if cls = 1 then nearPlace near pa else ordPlace pa

/-- The lines of a frame, in ascending physical order, each with its physical address. -/
def frameLines (cls near frame sz : Nat) : List (Nat × Nat) :=
  (List.range (2 ^ pageLog sz / 512)).map fun i => ((framePlace cls near (frame * 65536 + 512 * i)).1, frame * 65536 + 512 * i)

/-- STATUS is written and the wait ends, where the thread still waits. -/
def State.migEnd (s : State) (core thr blk : Nat) (status : Nat) : State :=
  match (s.thread core thr).wait with
  | .load r =>
    match r.kind with
    | .migr b _ => if b = blk then (s.dwrite core (blk + 32) 8 status).complete core thr else s
    | _ => s
  | _ => s

/-- Every entry of a page, at every level, changed by `f`. -/
def State.mapTlb (s : State) (ctx va size : Nat) (f : Tlb → Tlb) : State :=
  let g (es : List Tlb) : List Tlb := es.map fun e => if e.overlaps ctx va size then f e else e
  { s with
    cores := s.cores.map fun e => (e.1, { e.2 with ca := { e.2.ca with tlb := g e.2.ca.tlb } })
    clusters := s.clusters.map fun e => (e.1, { e.2 with tlb := g e.2.tlb })
    stks := s.stks.map fun e => (e.1, { e.2 with tlb := g e.2.tlb }) }

/-- An offer is a miss record on a page. -/
def Offer.missIn (o : Offer) (ctx va size : Nat) : Bool :=
  o.key.name == missName && o.key.ctx == 64 && o.who == .engine && o.data / 2 ^ 120 % 64 == ctx &&
    va ≤ o.data % 2 ^ 64 && o.data % 2 ^ 64 < va + size

/-- A miss record on a page is being received: its event occurs. -/
def State.recordGoing (s : State) (ctx va size : Nat) : Bool :=
  s.bugles.any fun b => b.2.evs.any fun e => match e.st with
    | .occurring ps _ _ _ => ps.any fun o => o.missIn ctx va size
    | _ => false

/-- Outstanding misses on a page that is being locked are served from the pinned entry: no record of them reaches a Setter core any
more (R312, R320). A record that stands at its home is withdrawn there, and the next one queued behind it stands (R151, R152). -/
def State.recallMisses (s : State) (ctx va size : Nat) : State :=
  let mine (m : Miss) : Bool := m.sent && m.ctx == ctx && va ≤ m.va.toNat && m.va.toNat < va + size
  let s := { s with net := s.net.filter fun m => match m.body with
    | .offer o => !o.missIn ctx va size
    | _ => true }
  let s := s.bugles.foldl (fun s b => (b.2.offers.filter fun o => o.missIn ctx va size).foldl (fun s o => (s.removeOffer b.1 o).getD s) s) s
  { s with misses := s.misses.map fun m => if mine m then { m with sent := false, tag := 0 } else m }

/-- Step 1 of R318, the lock; F = 1 with CODE 3 when some bank has 16 pinned entries. -/
def State.migLock (s : State) (core thr blk b : Nat) : State :=
  let ctl := migCtl b
  let ctx := bits ctl 63 58
  let sz := bits ctl 55 54
  let va := migField b 0 8
  let size := 2 ^ pageLog sz
  if s.stks.any fun e => 16 ≤ (e.2.tlb.filter Tlb.pin).length then s.migEnd core thr blk (2 ^ 63 + 3 * 2 ^ 56)
  else
    let old := migField b 16 8
    let perm := match s.anyTlb ctx va with
      | some e => e.perm
      | none => (Config.pinPerm s.tick).toNat
    let e : Tlb := ⟨BitVec.ofNat 64 (2 ^ 63 + sz * 2 ^ 61 + ctx * 2 ^ 55 + va / 65536),
      BitVec.ofNat 64 (bits ctl 53 51 * 2 ^ 61 + 2 ^ 60 + perm * 2 ^ 57 + bits ctl 50 44 * 2 ^ 36 + old), true⟩
    let s := s.mapTlb ctx va size fun x => { x with w1 := setBits x.w1 60 60 1 }
    let s := s.recallMisses ctx va size
    let s := (List.range 72).foldl (fun s k =>
      let st := s.stack k
      s.setStack k { st with tlb := tlbPut s 32768 16 e (st.tlb.filter fun x => !x.overlaps ctx va size) }) s
    { s with migs := s.migs ++ [⟨ctx, BitVec.ofNat 64 va, sz, bits ctl 53 51, bits ctl 50 44, old, migField b 24 8, core, thr, blk, []⟩] }

/-- A scrub (R319): zero bytes, timestamps of the home's `mts`, no poison; CODE 4 while some entry maps the frame. -/
def State.scrub (s : State) (core thr blk b : Nat) : State :=
  let ctl := migCtl b
  let cls := bits ctl 53 51
  let near := bits ctl 50 44
  let sz := bits ctl 55 54
  let frame := migField b 16 8
  let maps (e : Tlb) : Bool := e.valid && e.cls ≤ 2 && (e.cls == 1) == (cls == 1) && (cls != 1 || e.aux % 128 == near) &&
    e.pa < frame * 65536 + 2 ^ pageLog sz && frame * 65536 < e.pa + 2 ^ pageLog e.sz
  if s.cores.any (fun e => e.2.ca.tlb.any maps) || s.clusters.any (fun e => e.2.tlb.any maps) || s.stks.any (fun e => e.2.tlb.any maps)
  then s.migEnd core thr blk (2 ^ 63 + 4 * 2 ^ 56)
  else
    let ls := (frameLines cls near frame sz).map Prod.fst
    let s := s.flushLines fun l _ => ls.contains l
    let s := ls.foldl (fun s l =>
      let st := s.stack (stackOf l)
      let s := s.setHome l ⟨st.mts, st.mts, none⟩
      { s with dram := mzeroFrom s.dram (l * 512) (l * 512 + 512) }) s
    ({ s with poison := s.poison.filter fun l => !ls.contains l }).migEnd core thr blk 0

/-- The context and place in issue order of a thread's `seed` or `migr` in progress, and whether it is a `seed`. -/
def State.pageOp (s : State) (core thr : Nat) : Option (Bool × Nat × Nat) :=
  match (s.thread core thr).wait with
  | .load r => match r.kind with
    | .seed x o => some (true, bits x 63 58, o)
    | .migr blk o => some (false, bits (migCtl ((s.core core).dread blk 64)) 63 58, o)
    | _ => none
  | _ => none

/-- The Setter cores' threads. -/
def State.setterThreads (s : State) : List (Nat × Nat) :=
  s.cores.flatMap fun e => if isSetter e.1 then e.2.threads.map fun t => (e.1, t.1) else []

/-- An operation of a context that was issued earlier is not complete (R316): `P` tells which of them count. -/
def State.earlierOp (s : State) (P : Bool → Bool) (ctx ord : Nat) : Bool :=
  s.setterThreads.any fun x => match s.pageOp x.1 x.2 with
    | some (sd, c, o) => P sd && c == ctx && o < ord
    | none => false

/-- The operation of a waiting `migr` begins, unless a seed change of its context issued earlier is not complete or its page is
LOCKED; a migrate also waits while a miss record on the page is being received, since R312 lets none reach a Setter core once the page is
LOCKED (DEDUCED, log 71). -/
def State.migBegin (s : State) (core thr : Nat) : State :=
  match (s.thread core thr).wait with
  | .load r => match r.kind with
    | .migr blk ord =>
      let b := (s.core core).dread blk 64
      let ctx := bits (migCtl b) 63 58
      if s.reseeding ctx || s.earlierOp id ctx ord || s.migs.any (fun m => (m.core == core && m.thr == thr) || m.holds ctx (BitVec.ofNat 64 (migField b 0 8))) then s
      else if bits (migCtl b) 57 56 = 1 then s.scrub core thr blk b
      else if s.recordGoing ctx (migField b 0 8) (2 ^ pageLog (bits (migCtl b) 55 54)) then s
      else s.migLock core thr blk b
    | _ => s
  | _ => s

/-- The seed change of a waiting `seed` begins, unless an operation of its context issued earlier is not complete (R316). -/
def State.seedBegin (s : State) (core thr : Nat) : State :=
  match (s.thread core thr).wait with
  | .load r => match r.kind with
    | .seed x ord =>
      let c := bits x 63 58
      if s.reseeding c || (s.earlierOp (fun _ => true) c ord) || (s.migs.any fun m => m.ctx == c) then s
      else s.setCtx c { s.ctx c with seedNew := some (BitVec.ofNat 64 (bits x 42 0)) }
    | _ => s
  | _ => s

/-- Waiting `seed` and `migr` instructions go on (R316). -/
def State.pageResume (s : State) : State :=
  s.setterThreads.foldl (fun s x => (s.migBegin x.1 x.2).seedBegin x.1 x.2) s

/-- SEED (R316): a zero field that is not zero is cause 52. -/
def execSeed (a : GReg) (s : State) : Out :=
  privileged a [] (fun s =>
    let x := s.gr a
    if bits x 57 43 ≠ 0 then .trap (.access 0 52)
    else
      let s' := s.postIssue (.load { kind := .seed x s.tick }) (if a = 28 then s.me.crs.inRoute else none) none
      .gone (s'.seedBegin s.cur.core s.cur.thr)) s

/-- MIGR (R317). -/
def execMigr (a : GReg) (s : State) : Out :=
  privileged a [] (fun s =>
    let x := s.gr a
    let c := s.myCore
    if x.toNat % 64 ≠ 0 then .trap (.align x)
    else if c.dirLimit < x.toNat + 64 then .trap (.access x)
    else if migBad (c.dread x.toNat 64) then .trap (.access 0 52)
    else
      let s' := s.postIssue (.load { kind := .migr x.toNat s.tick }) (if a = 28 then s.me.crs.inRoute else none) none
      .gone (s'.migBegin s.cur.core s.cur.thr)) s

/-- SEED_CHANGE_COMPLETE (R241, R316): every copy of the context's lines is written back and dropped, on every die; then the
new seed applies and the waiting thread goes on. -/
def execSeedChangeComplete (ctx : Nat) (s : State) : Out :=
  .next (match (s.ctx ctx).seedNew with
    | none => s
    | some v =>
      let s := s.flushLines fun _ c => c == ctx
      let s := s.setCtx ctx { s.ctx ctx with seedNew := none, desc := tset (s.ctx ctx).desc 1 v }
      let s := match s.setterThreads.find? fun x => match s.pageOp x.1 x.2 with
          | some (true, c, o) => c == ctx && !s.earlierOp id ctx o
          | _ => false with
        | some x => s.complete x.1 x.2
        | none => s
      s.pageResume)

end Sys2Proof.Machine
end

