-- ==== Sys2Proof/Machine/Kernel.lean ====
section
/-!
DEFINITION. Kernels (R347-R361, R408): the structure a launch record declares, admission, teams and their placement, sink,
completion and abort, and the instructions `launch`, `rank` and `size`.
-/

namespace Sys2Proof.Machine

/-! ### Core groups and teams (R352, R353, R358) -/

/-- Level L of R352: the lowest with domain core, otherwise the lowest above thread. -/
def Kernel.coreLevel (k : Kernel) : Nat :=
  let ls := List.range k.levels
  match ls.find? fun l => k.lvDom l == 1 with
  | some l => l
  | none => (ls.find? fun l => k.lvDom l != 0).getD 0

/-- Core groups in one level-L group. -/
def Kernel.per (k : Kernel) : Nat :=
  if k.lvDom k.coreLevel ≤ 1 then 1 else (k.below (k.coreLevel + 1) + 15) / 16

/-- Core groups of the kernel. -/
def Kernel.groupCount (k : Kernel) : Nat := k.below k.levels / k.below (k.coreLevel + 1) * k.per

/-- Flat index of the first thread of core group `g`, and its threads. -/
def Kernel.firstFlat (k : Kernel) (g : Nat) : Nat := g / k.per * k.below (k.coreLevel + 1) + 16 * (g % k.per)
def Kernel.groupSize (k : Kernel) (g : Nat) : Nat := min 16 (k.below (k.coreLevel + 1) - 16 * (g % k.per))

/-- Level T of R358, when there is one; otherwise each core group is a team. -/
def Kernel.teamLevel (k : Kernel) : Option Nat :=
  (List.range k.levels).reverse.find? fun l => 1 ≤ k.lvDom l && k.lvDom l ≤ 3
def Kernel.teamDom (k : Kernel) : Nat :=
  match k.teamLevel with
  | some t => k.lvDom t
  | none => 1
def Kernel.teamCount (k : Kernel) : Nat :=
  match k.teamLevel with
  | some t => k.below k.levels / k.below (t + 1)
  | none => k.groupCount

/-- The core groups of a team, ascending. -/
def Kernel.teamGroups (k : Kernel) (team : Nat) : List Nat :=
  match k.teamLevel with
  | some t =>
    let n := k.below (t + 1) / k.below (k.coreLevel + 1) * k.per
    (List.range n).map fun i => team * n + i
  | none => [team]

/-- The group of a level that a core group lies in. -/
def Kernel.groupOf (k : Kernel) (g l : Nat) : Nat := k.firstFlat g / k.below (l + 1)

/-- Levels whose instances bind the choice of a team's die (R359, R408). -/
def Kernel.above (k : Kernel) : List Nat :=
  (List.range k.levels).filter fun l => match k.teamLevel with
    | some t => t < l
    | none => k.coreLevel ≤ l && 1 < k.lvDom l

/-- Host-placement mode (R327). -/
def Kernel.hostPlaces (k : Kernel) : Bool := bits k.fmode 5 5 = 1

/-- A die may take kernels of this kind: FULL, or EARLY for a top level of die or lower (R396). -/
def State.dieServes (s : State) (k : Kernel) (d : Nat) : Bool :=
  (s.die d).st == .full || ((s.die d).st == .early && k.lvDom (k.levels - 1) ≤ 3)

/-- A die is eligible for a team (R359): its instance of every level above T is that of the teams of the same group, and of no
other (R349). -/
def State.eligible (s : State) (k : Kernel) (team d : Nat) : Bool :=
  d < 72 && s.dieServes k d && k.above.all fun l =>
    let g := k.groupOf ((k.teamGroups team).headD 0) l
    k.teams.all fun e => e.1 == team || 72 ≤ e.2.die ||
      ((k.groupOf ((k.teamGroups e.1).headD 0) l == g) ==
        (domInst (k.lvDom l) (e.2.die * 4096) == domInst (k.lvDom l) (d * 4096)))

/-- The kernel as the placement register sees it: under host placement a team that the host has not named yet binds no other team to
an instance, so that the host may choose each (R359, R361). -/
def Kernel.bound (k : Kernel) : Kernel := if k.hostPlaces then { k with teams := k.teams.filter fun e => e.2.named } else k

/-- The logical cores of the instance of a domain, die or lower, that holds a logical core. -/
def instCores (dom l : Nat) : List Nat :=
  match dom with
  | 2 => (List.range 16).map fun i => l / 16 * 16 + i
  | 3 => (List.range 256).map fun i => l / 256 * 256 + i
  | _ => [l]

/-- Live logical cores among some. -/
def State.live (s : State) (ls : List Nat) : List Nat := ls.filter fun l => (s.phys l).isSome

/-- A live logical core is FREE and assigned to no team, and takes no part in a pre-emption. DEDUCED (log 30): a kernel's cores
are its own until it ends. -/
def State.coreFree (s : State) (l : Nat) : Bool :=
  match s.phys l with
  | none => false
  | some p => let c := s.core p
    c.slot.isNone && c.idle && c.moveTo.isNone && !c.retired && s.cores.all fun e => e.2.moveTo != some p

/-- Whether a set of live cores can hold one group of a level, each group below in an instance of its own (R349, R352). -/
def Kernel.fits (k : Kernel) : Nat → List Nat → Bool
  | 0, ls => k.per ≤ ls.length
  | l + 1, ls =>
    if l + 1 ≤ k.coreLevel then k.per ≤ ls.length
    else
      let inst (x : Nat) : Nat := domInst (k.lvDom l) (x * 16)
      k.lvSize (l + 1) ≤ ((ls.map inst).dedup.filter fun i => k.fits l (ls.filter fun x => inst x == i)).length

/-- The barrier segments that a kernel needs for a core clash with none that another kernel holds (R172). -/
def State.segmentsFree (s : State) (k : Kernel) (slot l : Nat) : Bool :=
  s.kernels.all fun e => e.1 == slot || e.2.st == .complete || e.2.st == .aborted ||
    (List.range 16).all fun ch => match k.barLevel ch, e.2.barLevel ch with
      | some a, some b =>
        let d := min (k.lvDom a) (e.2.lvDom b)
        e.2.groups.all fun g => domInst d (g.2 * 16) != domInst d (l * 16)
      | _, _ => true

/-- The instance of domain `lvT_dom` that holds a logical core can take a team (R349, R408). -/
def State.canTake (s : State) (k : Kernel) (slot l : Nat) : Bool :=
  let ls := s.live (instCores k.teamDom l)
  !ls.isEmpty && ls.all s.coreFree && (match k.teamLevel with
    | some t => k.fits t ls
    | none => true) &&
    (k.groups.all fun g => domInst k.teamDom (g.2 * 16) != domInst k.teamDom (l * 16)) && ls.all fun x => s.segmentsFree k slot x

/-- The instances of a die, each by its first logical core. -/
def dieInsts (dom d : Nat) : List Nat :=
  (List.range 256).filterMap fun i => if i % (instCores dom 0).length = 0 then some (d * 256 + i) else none

/-- A die advertises free team slots (R360). -/
def State.advertises (s : State) (k : Kernel) (d : Nat) : Bool :=
  (dieInsts k.teamDom d).any fun l =>
    let ls := s.live (instCores k.teamDom l)
    !ls.isEmpty && ls.all s.coreFree

/-- Some instance of a die can take a team. -/
def State.dieTakes (s : State) (k : Kernel) (slot d : Nat) : Bool := (dieInsts k.teamDom d).any fun l => s.canTake k slot l

/-- Too many cores are dead for some level (R355 cause 18). -/
def State.impossible (s : State) (k : Kernel) : Bool :=
  let all := s.live (List.range 18432)
  (List.range k.levels).any fun l => k.coreLevel ≤ l && 1 ≤ k.lvDom l &&
    let inst (x : Nat) : Nat := domInst (k.lvDom l) (x * 16)
    (all.map inst).dedup.all fun i => !k.fits l (all.filter fun x => inst x == i)

/-! ### The checks of admission (R351) -/

/-- Threads that a domain's instance holds (R350). -/
def domCap (d : Nat) : Nat := match d with | 0 => 1 | 1 => 16 | 2 => 256 | 3 => 4096 | 4 => 16384 | _ => 294912

/-- Causes 1 to 6 of R351; 0 when none holds. -/
def Kernel.fieldCause (k : Kernel) (queued : Bool) : Nat :=
  let ls := List.range k.levels
  let lw (l : Nat) : Nat := k.field (96 + 8 * l) 8
  let bar (c : Nat) : Nat := k.field (160 + c) 1
  let fev : Word := BitVec.ofNat 64 (k.field 72 8)
  let fsvc := bits k.fmode 2 1
  if 16 ≤ k.field 21 1 || 16 ≤ k.field 22 1 || k.field 23 1 ≠ 0 || 2 ^ 21 ≤ k.field 52 4 || k.field 70 2 ≠ 0 ||
      k.field 92 4 ≠ 0 || k.field 192 64 ≠ 0 || (List.range 8).any (fun l => 2 ^ 39 ≤ lw l || lw l / 2 ^ 35 % 2 != 0 ||
        (k.levels ≤ l && lw l != 0)) || (List.range 16).any (fun c => bar c / 8 % 16 != 0 || (bar c < 128 && bar c != 0)) ||
      (queued && (k.field 176 8 != 0 || k.field 184 8 != 0)) then 1
  else if k.levels = 0 || 8 < k.levels || ls.any (fun l => k.lvSize l == 0 || 6 ≤ k.lvDom l ||
      (k.lvDom l == 0 && (l != 0 || k.lvSize l != 1)) || (l != 0 && k.lvDom l < k.lvDom (l - 1)) || k.lvMsc l == 7 ||
      (k.lvMsc l != 0 && k.lvMsc l < k.lvDom l)) then 2
  else if ls.any (fun l => domCap (k.lvDom l) < k.below (l + 1)) then 3
  else if k.field 0 8 % 4 ≠ 0 || k.field 16 4 % 4 ≠ 0 || 524288 < k.field 16 4 || k.field 48 4 % 64 ≠ 0 ||
      524288 < k.field 48 4 + 64 || k.field 64 4 % 16 ≠ 0 || k.field 40 8 % 64 ≠ 0 || k.field 80 8 % 8 ≠ 0 then 4
  else if (List.range 16).any (fun c => match k.barLevel c with
      | some l => k.levels ≤ l || k.lvDom l == 0
      | none => false) then 5
  else if fsvc = 3 || (fsvc = 0 && fev = 0) || (fev ≠ 0 && (bits fev 63 60 ≠ 3 || 8 ≤ bits fev 59 56 || k.levels ≤ bits fev 59 56))
    then 6
  else 0

/-- Addresses of the 8-byte words of the shape record, and of the route block. -/
def Kernel.shapeWords (k : Kernel) : List Word :=
  if k.field 40 8 = 0 then [] else (List.range 8).map fun i => BitVec.ofNat 64 (k.field 40 8 + 8 * i)
def Kernel.routeWords (k : Kernel) : List Word :=
  if k.field 80 8 = 0 then []
  else (List.range (16 * k.field 88 4)).map fun i => BitVec.ofNat 64 (k.field 80 8 + 8 * i)

/-- A route entry that names no core group it may (R353). -/
def Kernel.badRoute (k : Kernel) (w : Nat) : Bool :=
  2 ^ 63 ≤ w && (k.field 88 4 ≤ w / 16 % 2 ^ 15 || k.groupCount ≤ w / 16 % 2 ^ 15)

/-- What the checks of a record come to. -/
inductive Checked where
  | ok (s : State) (shape : BitVec 512) (routes : List Word)
  | cause (s : State) (n : Nat)
  | wait (s : State)

/-- What the reads of all the units of a row come to: their values in order. -/
inductive Words where
  | ok (s : State) (vs : List Nat)
  | wait (s : State)
  | fault (s : State) (rank : Nat) (a : Word)

/-- Reads of a whole row for a context, translated by `f`, by core `core` at logical time `p`. -/
def State.readWords (s : State) (f : State → Word → EngAt) (ctx core : Nat) (p : Word) (ws : List Word) : Words :=
  match rowPlaces f ws s with
  | .wait s => .wait s
  | .fault s n a => .fault s n a
  | .ok pls =>
    match readPlaces ctx core p 8 [] false ((List.range ws.length).zip (ws.zip pls)) s [] with
    | .wait s => .wait s
    | .fault s n a => .fault s n a
    | .ok s got _ => .ok s ((List.range ws.length).map fun i => tget 0 got i)

/-- The checks of R351 in order; `at'` translates a word's address for the reader, `core` and `p` are the reader's core and
logical time. -/
def State.checkRecord (s : State) (k : Kernel) (queued : Bool) (at' : State → Word → EngAt) (core : Nat) (p : Word) : Checked :=
  let c := k.fieldCause queued
  if c ≠ 0 then .cause s c
  else match s.readWords at' k.ctx core p k.shapeWords with
  | .wait s => .wait s
  | .fault s _ _ => .cause s 8
  | .ok s sh =>
    let shape : BitVec 512 := BitVec.ofNat 512 (sh.foldr (fun x acc => acc * 2 ^ 64 + x) 0)
    if !sh.isEmpty && shapeCause k.levels shape ≠ 0 then .cause s 7
    else match s.readWords at' k.ctx core p k.routeWords with
    | .wait s => .wait s
    | .fault s _ _ => .cause s 8
    | .ok s rs =>
      if (k.field 80 8 ≠ 0 && (List.range k.levels).all fun l => k.lvDom l != 1) || 18432 < k.field 88 4 || rs.any k.badRoute
      then .cause s 9
      else .ok s shape (rs.map fun x => BitVec.ofNat 64 x)

/-! ### Admission (R347, R354, R359) -/

/-- No lower than the wts of any write accepted so far. -/
def State.wtsBound (s : State) : Word :=
  let up (a : Word) (ws : List Word) : Word := ws.foldl maxW a
  let a := s.stks.foldl (fun a e => up (maxW a e.2.mts) (e.2.homes.map fun h => h.2.wts)) 0
  let a := s.dies.foldl (fun a e => up a (e.2.slices.map fun x => x.2.wts)) a
  s.cores.foldl (fun a e => up a (e.2.ca.stash.map fun x => x.wts)) a

/-- An admission time AT (R354, R357); how far it lies above its bound is open (log 31). -/
def State.admitTime (s : State) (rt : Word) : Word :=
  BitVec.ofNat 64 (min ((maxW rt s.wtsBound).toNat + Config.admitSlack s.tick) (2 ^ 64 - 1))

/-- FMODE of a context as a kernel is admitted with it, with its debug mode (R326, R403). -/
def State.admitMode (s : State) (ctx : Nat) : Word :=
  BitVec.ofNat 64 (s.fmodeOf ctx % 64 + bits s.panel.dbg ctx ctx * 64)

/-- A kernel as its record declares it. -/
def State.kernelFrom (s : State) (ctx : Nat) (rec' : BitVec 2048) : Kernel :=
  { st := .admitted, ctx := ctx, launch := rec', fmode := s.admitMode ctx, heap := s.descWord ctx 5 }

/-- The lowest free kernel slot. -/
def State.freeSlot (s : State) : Option Nat := (List.range 256).find? fun n => (s.kernel n).isNone

/-- A WAITING team is announced to the host (R327). -/
def State.announce (s : State) (ctx team : Nat) : State := s.toHost ctx (plainRecord 20 0 0 0 0 team)

/-- Assigns the teams to dies in ascending number (R359), in host-placement mode too; 72 stands for none. -/
def State.assignTeams (s : State) (k : Kernel) : Kernel :=
  (List.range k.teamCount).foldl (fun k t =>
    let ds := (List.range 72).filter fun d => s.eligible k t d
    let d := match ds with
      | [d] => d
      | ds => (ds[Config.kennelDie (s.tick + t) % ds.length]?).getD 72
    { k with teams := tset k.teams t { die := d, since := s.tick } }) k

/-- A checked kernel enters the table: its teams are assigned, and it is PLACING. In host-placement mode each team is announced (R327). -/
def State.enlist (s : State) (slot : Nat) (k : Kernel) : State :=
  let k := s.assignTeams { k with id := s.tick }
  let k := if k.teams.all (fun e => e.2.die < 72) then { k with st := .placing } else k
  let s := s.setKernel slot k
  if k.hostPlaces then k.teams.foldl (fun s e => s.announce k.ctx e.1) s else s

/-- The place in issue order of a launch request that has not left its core (R357). -/
def Core.launchOrds (c : Core) : List (Nat × Nat) :=
  c.journal.filterMap fun e => match e.2.kind with
    | .launch r => if e.2.busy then some (r.ord, r.ctx) else none
    | _ => none

/-- An older launch request of a RESIDENT context has been issued than number `ord`. -/
def State.olderLaunch (s : State) (ord : Nat) : Bool :=
  s.launches.any (fun r => r.ord < ord && (s.ctx r.ctx).st == .resident) ||
    s.cores.any fun e => e.2.launchOrds.any fun x => x.1 < ord && (s.ctx x.2).st == .resident

/-- LAUNCH_ADMISSION (R357): requests of RESIDENT contexts (R324) are admitted in issue order, ahead of every draw. A request that the FMODE of its
turn refuses (R326) is gone (DESIGN CHOICE, log 31: the trap of R357 belongs to its issue). -/
def execLaunchAdmission (s : State) : Out :=
  .next (match s.launches.find? fun r => (s.ctx r.ctx).st == .resident && !s.olderLaunch r.ord, s.freeSlot with
    | some r, some slot =>
      if s.panel.adm.isSome || s.panel.fwdig.isNone || (List.range 72).all fun d => !s.dieServes (s.kernelFrom r.ctx r.launch) d then s
      else
        let k := s.kernelFrom r.ctx r.launch
        let ev : Word := BitVec.ofNat 64 (k.field 176 8)
        let s := { s with launches := s.launches.erase r }
        if k.fieldCause false ≠ 0 then s
        else
          let done := if ev = 0 then none else some (⟨ev, r.ctx, r.inst⟩, BitVec.ofNat 64 (k.field 184 8))
          s.enlist slot { k with shape := r.shape, routes := r.routes, at' := s.admitTime r.rt, parent := some (r.slot, r.kid, r.gtn), done := done }
    | _, _ => s)

/-! ### Placement (R39, R163, R182, R352-R354, R408) -/

/-- A chain entry on its way to a core or from it. -/
def State.chainOf (s : State) (p : Nat) (m : Msg) : Bool :=
  (match m.body with
    | .chain _ _ => true
    | _ => false) && ((match m.dst with
    | .core l => s.phys l == some p
    | _ => false) || m.src == s.endpOf p)

/-- What placement resets on a core (R39, R64, R204, R286, R402). What an ended kernel's threads have pushed goes with it: an entry belongs to
the kernel that placed both its ends (R163, R165). -/
def State.coreReset (s : State) (p : Nat) : State :=
  let s := (s.carveWrite p 16).getD s
  let k := s.poolCluster p
  let bit := match s.logical p with
    | some l => l % 16
    | none => 16
  let vp := (s.cluster k).vpool &&& ~~~ BitVec.ofNat 64 (2 ^ bit)
  let s := if bit < 16 then (s.vpoolWrite k vp).getD s else s
  let s := { s with misses := s.misses.filter fun m => m.who != ringWho p
                    net := s.net.filter fun m => !s.chainOf p m }
  s.modCore p fun c =>
    { c with rfd := 0, routes := [], inq := [], outRes := [], outWait := [], racy := [], racyN := 0, last := 255, dacc := [],
             nctr := Vector.replicate 8 0, direct := [], deque := [], spill := [], spillLo := 0, leaves := [], moveRet := false,
             mx := { c.mx with slots := [], table := 0 }, ca := { c.ca with l1 := [], heap := [] } }

/-- A thread placed from FREE at thread index `t` with a flat index (R23, R354). -/
def Kernel.placed (k : Kernel) (slot flat : Nat) (old : Thread) : Thread :=
  let w (off n : Nat) : Word := BitVec.ofNat 64 (k.field off n)
  let g30 : Word := if k.field 64 4 = 0 then 0 else w 56 8 + BitVec.ofNat 64 ((flat + 1) * k.field 64 4)
  let regs : Regs := { pc := BitVec.ofNat 56 (k.field 0 8) }
  { seq := old.seq, cell := { seq := old.cell.seq, base := old.cell.seq }, st := .inRot, slot := slot, flat := flat,
    regs := { regs with g := regs.g.set 30 g30 },
    crs := { fmta := w 21 1, fmtb := w 22 1, scla := w 24 8, sclb := w 32 8, lease := w 52 4, ptime := k.at', fmode := k.fmode,
             geom := if k.field 40 8 = 0 then 0 else geomOf k.shape (k.rank flat (blk k.shape 8 1 % 8)) } }

/-- Direct storage from the image (R182), with the shape record over it (R354). -/
def Kernel.storage (k : Kernel) (image : List Nat) : Memory :=
  let m := (List.range image.length).foldl (fun m i => mwrite m (4 * i) 4 (image.getD i 0)) []
  if k.field 40 8 = 0 then m else mwrite m (k.field 48 4) 64 k.shape.toNat

/-- Places core group `g` on a physical core. -/
def State.placeGroup (s : State) (k : Kernel) (slot g p : Nat) (image : List Nat) : State :=
  let s := s.coreReset p
  let n := k.groupSize g
  let mask : BitVec 16 := BitVec.ofNat 16 (2 ^ n - 1)
  s.modCore p fun c =>
    let c := (List.range n).foldl (fun c t => c.setThread t (k.placed slot (k.firstFlat g + t) (c.thread t))) c
    { c with ctx := k.ctx, slot := some slot, kix := g, direct := k.storage image,
             leaves := (List.range 16).filterMap fun ch => if (k.barLevel ch).isSome then some (ch, { mask := mask }) else none }

/-- A route entry as placement writes it (R163, R353): `g` is the writing core's logical number. -/
def State.routeWord (s : State) (k : Kernel) (l : Nat) (w : Word) : Word :=
  let w := BitVec.ofNat 64 (w.toNat % 2 ^ 24 + bits w 63 63 * 2 ^ 63)
  if bits w 63 63 = 0 then w
  else match (k.groups.find? fun e => e.1 == bits w 18 4).map Prod.snd with
    | none => setBits w 62 62 1
    | some q =>
      if (s.phys q).isNone || q / 256 ≠ l / 256 then setBits w 63 63 0 else setBits w 18 4 q

/-- Writes the routes of a core that is placed now. -/
def State.writeRoutes (s : State) (k : Kernel) (g l p : Nat) : State :=
  let ws := (k.routes.drop (16 * g)).take 16
  s.modCore p fun c => { c with routes := (List.range ws.length).map fun i => (i, s.routeWord k l (ws.getD i 0)) }

/-- Completes the pending entries of a core that was placed before (R163): a thread that waits on one issues again (R28). -/
def State.completeRoutes (s : State) (k : Kernel) (l p : Nat) : State :=
  (s.core p).routes.foldl (fun s e =>
    if bits e.2 62 62 = 1 && k.groups.any fun g => g.1 == bits e.2 18 4 then
      (s.modCore p fun c => { c with routes := tset c.routes e.1 (s.routeWord k l (setBits e.2 62 62 0)) }).wake p fun w =>
        w == .chainIn e.1 || w == .chainOut e.1
    else s) s

/-- Placement reads the image, which need not be aligned, through the third-level bank of the die that holds the core (R182, log 32): its
4-byte words in order. DESIGN CHOICE (log 32; R182 and R354 do not say): it reads at the kernel's admission time AT, the bytes that stand at the
lines' homes, whose rts rise to AT. -/
def State.imageRead (s : State) (k : Kernel) (slot team l : Nat) : Words :=
  let at' := k.field 8 8
  let off := at' % 8
  let len := k.field 16 4
  if at' = 0 || len = 0 then .ok s []
  else
    let ws := (List.range ((off + len + 7) / 8)).map fun i => (BitVec.ofNat 64 (at' / 8 * 8 + 8 * i) : Word)
    let f (s : State) (va : Word) : EngAt :=
      s.engPlace (bankOf (dieOf ((s.phys l).getD 0))) (.kennel (slot * 2 ^ 20 + team)) (l * 16) k.ctx (l * 16) slot 0 k.at' needLd va 8 |>.reached s
        (siteOfDie (dieOf ((s.phys l).getD 0)))
    match s.readWords f k.ctx 0 k.at' ws with
    | .ok s vs =>
      let m := (List.range vs.length).foldl (fun m i => mwrite m (8 * i) 8 (vs.getD i 0)) []
      .ok s ((List.range (len / 4)).map fun i => mread m (off + 4 * i) 4)
    | x => x

/-- Two core groups are in one instance of a level's domain just when they are of one group of that level (R349). -/
def Kernel.apart (k : Kernel) (a b : Nat × Nat) : Bool :=
  a.2 != b.2 && (List.range k.levels).all fun l => l < k.coreLevel || k.lvDom l == 0 ||
    (k.groupOf a.1 l == k.groupOf b.1 l) == (domInst (k.lvDom l) (a.2 * 16) == domInst (k.lvDom l) (b.2 * 16))

/-- The logical cores named for a team's core groups are ones it may take on its die (R349, R352, R408). -/
def State.placementOk (s : State) (k : Kernel) (slot team die : Nat) (cores : List Nat) : Bool :=
  let new := (k.teamGroups team).zip cores
  let l := cores.headD 0
  cores.length == (k.teamGroups team).length && !cores.isEmpty && s.dieServes k die && s.canTake k slot l &&
    (cores.all fun x => x / 256 == die && (s.phys x).isSome && domInst k.teamDom (x * 16) == domInst k.teamDom (l * 16)) &&
    (new.all fun a => (new.all fun b => a == b || k.apart a b) && k.groups.all fun b => k.apart a b) && cores.Nodup &&
    cores.all fun x => ((s.core ((s.phys x).getD 0)).journal.all fun e => !e.2.busy)

/-- Places a team: cores, direct storage, threads, routes; a kernel whose teams are all placed is RUNNING. -/
def State.placeTeam (s : State) (k : Kernel) (slot team : Nat) (cores : List Nat) (image : List Nat) : State :=
  let new := (k.teamGroups team).zip cores
  let x : Team := tget { die := 72 } k.teams team
  let k : Kernel := { k with groups := new.foldl (fun g e => tset g e.1 e.2) k.groups
                             teams := tset k.teams team { x with st := .placed, cores := cores } }
  let k := if k.teams.all fun e => e.2.st == .placed || e.2.st == .done then { k with st := .running } else k
  let s := s.setKernel slot k
  let s := new.foldl (fun s e => s.placeGroup k slot e.1 ((s.phys e.2).getD 0) image) s
  let s := new.foldl (fun s e => s.writeRoutes k e.1 e.2 ((s.phys e.2).getD 0)) s
  k.groups.foldl (fun s e => match s.phys e.2 with
    | some p => s.completeRoutes k e.2 p
    | none => s) s

/-- TEAM_PLACEMENT (R408): the Kennel places a WAITING team on `cores`, one logical core for each of its core groups; in host-placement mode
once the host has named its die (R327, R359). -/
def execTeamPlacement (slot team : Nat) (cores : List Nat) (s : State) : Out :=
  .next (match s.liveKernel slot with
    | none => s
    | some k =>
      match k.teams.find? fun e => e.1 == team with
      | none => s
      | some (_, x) =>
        if k.st = .placing && x.st = .waiting && (x.named || !k.hostPlaces) && x.die < 72 && s.placementOk k slot team x.die cores then
          match s.imageRead k slot team (cores.headD 0) with
          | .wait s => s
          | .fault s _ _ => s.abortKernel slot 21 0 0
          | .ok s image => s.placeTeam k slot team cores image
        else s)

/-- A team waits without an instance before another (R360). -/
def olderTeam (a b : Nat × Nat × Nat) : Bool :=
  a.1 < b.1 || (a.1 == b.1 && (a.2.1 < b.2.1 || (a.2.1 == b.2.1 && a.2.2 < b.2.2)))

/-- The WAITING teams of a die for which it has no instance, by age. -/
def State.stuckTeams (s : State) (d : Nat) : List (Nat × Nat × Nat) :=
  s.kernels.flatMap fun e =>
    if e.2.st == .placing && !e.2.hostPlaces && !s.dieTakes e.2 e.1 d then
      (e.2.teams.filter fun t => t.2.die == d && t.2.st == .waiting).map fun t => (t.2.since, e.2.id, t.1)
    else []

/-- TEAM_FORWARD (R360): a Kennel sends its oldest such team to an eligible die that advertises free team slots. -/
def execTeamForward (slot team die : Nat) (s : State) : Out :=
  .next (match s.liveKernel slot with
    | none => s
    | some k =>
      match k.teams.find? fun e => e.1 == team with
      | none => s
      | some (_, x) =>
        let me := (x.since, k.id, team)
        if (s.stuckTeams x.die).contains me && (s.stuckTeams x.die).all (fun y => !olderTeam y me) && die ≠ x.die &&
            s.eligible k team die && s.advertises k die then
          (s.setKernel slot { k with teams := tset k.teams team { x with st := .travelling, die := die } }).send .event
            (.kennel x.die) (.kennel die) k.ctx (.team slot team)
        else s)

/-- TEAM_ARRIVAL (R359): a die that is being reset holds the message (R360). -/
def execTeamArrival (k : Nat) (s : State) : Out :=
  .next (match s.arrived k with
    | some ⟨_, _, .kennel d, _, _, _, _, _, _, _, _, _, .team slot team⟩ =>
      if !((s.die d).st == .early || (s.die d).st == .full) then s
      else
        let s := s.drop k
        match s.liveKernel slot with
        | none => s
        | some x =>
          match x.teams.find? fun e => e.1 == team with
          | some (_, t) =>
            if t.st = .travelling && t.die = d then
              s.setKernel slot { x with teams := tset x.teams team { t with st := .waiting, since := s.tick } }
            else s
          | none => s
    | _ => s)

/-- PLACEMENT_REGISTER_WRITE (R361): an ignored write leaves the register as it stands. -/
def execPlacementRegisterWrite (val : Word) (s : State) : Out :=
  .next (
    let v : Word := BitVec.ofNat 64 (bits val 39 17 * 2 ^ 17 + bits val 6 0)
    let team := bits v 31 17
    let d := bits v 6 0
    match s.liveKernel (bits v 39 32) with
    | none => s
    | some k =>
      match k.teams.find? fun e => e.1 == team with
      | none => s
      | some (_, x) =>
        if x.st ≠ .waiting then s
        else if s.eligible k.bound team d then
          { s.setKernel (bits v 39 32) { k with teams := tset k.teams team { x with die := d, since := s.tick, named := true } } with
            panel := { s.panel with place := v } }
        else s.announce k.ctx team)

/-! ### Sink, completion, abort (R346, R347, R354, R355, R357) -/

/-- Copies and relocations of a kernel that are outstanding, its `launch` requests in the journal among them. -/
def State.enginesOpen (s : State) (slot : Nat) : Bool :=
  (s.cores.any fun e => !isSetter e.1 && e.2.journal.any fun j => j.2.busy && match j.2.kind with
      | .copy r => r.slot == slot
      | .htag r => r.slot == slot
      | .launch r => r.slot == slot
      | _ => false) ||
    (s.retrs.any fun e => e.2.queue.any (fun r => r.slot == slot && r.ctx != 64) ||
      e.2.active.any fun r => r.req.slot == slot && r.req.ctx != 64) ||
    (s.stks.any fun e => e.2.collie.queue.any (fun r => r.slot == slot && r.ctx != 64) || match e.2.collie.cur with
      | some (r, _, _) => r.slot == slot && r.ctx != 64
      | none => false)

/-- Copies, relocations and `launch` requests of a kernel that are outstanding (R354). -/
def State.requestsOpen (s : State) (slot : Nat) : Bool := s.enginesOpen slot || s.launches.any fun r => r.slot == slot

/-- The cores that a kernel holds. -/
def State.coresOf (s : State) (slot : Nat) : List Nat :=
  (s.cores.filter fun e => e.2.slot == some slot).map Prod.fst

/-- KERNEL_SINK (R354). -/
def execKernelSink (slot : Nat) (s : State) : Out :=
  .next (match s.kernel slot with
    | some k =>
      if k.st = .running && (s.coresOf slot).all (fun p => (s.core p).idle && (s.core p).deque.isEmpty && (s.core p).spill.isEmpty &&
          (s.core p).moveTo.isNone) && !s.requestsOpen slot
      then s.setKernel slot { k with st := .sinking } else s
    | none => s)

/-- Every write of a kernel's threads and engines is accepted or refused. -/
def State.writesDone (s : State) (slot : Nat) : Bool :=
  !s.enginesOpen slot && (s.coresOf slot).all fun p =>
    let c := s.core p
    (c.journal.all fun e => !e.2.busy) && c.outWait.isEmpty && c.joins.isEmpty && c.mx.ops.isEmpty && c.mx.banks.isEmpty &&
      c.mx.tabs.isEmpty && c.moveTo.isNone && c.idle

/-- STAT of a completion record (R346): OUT, CAUSE and thread. -/
def statWord (out cause gtn : Nat) : Word := BitVec.ofNat 64 (out * 2 ^ 62 + cause % 64 * 2 ^ 56 + gtn % 2 ^ 19)

/-- A write of the Vorter to host memory. -/
def State.hostWrite (s : State) (a n v : Nat) : State := { s with host := mwrite s.host a n v }

/-- An MSI-X vector is raised (R389). -/
def State.msix (s : State) (v : Nat) : State := { s with panel := { s.panel with msix := v :: s.panel.msix } }

/-- Field of a queue's descriptor: CTL and TICK share word 0 (R339). -/
def Queue.word (q : Queue) (n : Nat) : Word := tget 0 q.desc n
def Queue.log2n (q : Queue) : Nat := bits (q.word 0) 23 20

/-- Writes a queue's next completion record, its count, and raises its vector (R346). -/
def State.completion (s : State) (q n : Nat) (stat : Word) (pc : Nat) : State :=
  let x := s.queue q
  let c := x.compl
  let a := (x.word 4).toNat + 32 * (c % 2 ^ x.log2n)
  let s := s.hostWrite a 32 (n + stat.toNat * 2 ^ 64 + pc * 2 ^ 128 + (s.die 0).time.toNat * 2 ^ 192)
  let s := s.hostWrite (x.word 5).toNat 8 (c + 1)
  (s.setQueue q { x with compl := c + 1 }).msix (bits (x.word 0) 17 10)

/-- A core that its kernel gives back. -/
def Core.released (c : Core) : Core := { c with slot := none, kix := 0, leaves := [] }

/-- The child's completion offer (R357): discarded when the parent kernel is gone. -/
def State.doneOffer (s : State) (k : Kernel) (stat : Word) : State :=
  match k.done, k.parent with
  | some (key, ctl), some (pslot, pid, gtn) =>
    match s.kernel pslot with
    | some p =>
      if p.id = pid then
        s.send .event (.kennel (gtn / 4096)) (s.homeBy pslot gtn key) k.ctx
          (.offer { key := key, index := ctlIndex ctl, ctl := ctl, rt := s.wtsBound, who := .engine,
                    data := if ctlSize ctl = 1 then stat.toNat else 0, kern := some pslot })
      else s
    | none => s
  | _, _ => s

/-- A kernel of the same queue has finished before: an aborted one, at its abort, whose record has still to go out (R346). -/
def State.finishedBefore (s : State) (k : Kernel) : Bool :=
  match k.queue with
  | none => false
  | some (q, _) => s.kernels.any fun e =>
      (e.2.queue.map Prod.fst) == some q && e.2.st == .aborted && e.2.id != k.id && (k.st != .aborted || e.2.fin < k.fin)

/-- KERNEL_COMPLETE (R346, R347, R389): the completion record, which goes over the CXL port, or offer is made, in the order in which a queue's kernels finish; cores, segments and
slot are released. -/
def execKernelComplete (slot : Nat) (s : State) : Out :=
  .next (match s.kernel slot with
    | some k =>
      if (k.st = .sinking || k.st = .aborted) && s.writesDone slot && !s.finishedBefore k && (k.queue.isNone || s.hostUp) then
        let out := if k.st = .aborted then 1 else 0
        let stat := statWord out k.cause k.athr
        let s := match k.queue with
          | some (q, n) => s.completion q n stat k.apc.toNat
          | none => s.doneOffer k stat
        let s := s.recordsToHost k.ctx slot k.id
        { s with kernels := s.kernels.filter fun e => e.1 != slot
                 cores := s.cores.map fun e => (e.1, if e.2.slot = some slot then e.2.released else e.2) }
      else s
    | none => s)

/-- KERNEL_ABORT (R355): cause 18, when a group of some level can never be placed, or no die may take a team. The other causes
abort where they arise. -/
def execKernelAbort (slot : Nat) (cause : Nat) (s : State) : Out :=
  .next (match s.liveKernel slot with
    | some k =>
      let never := (k.st == .admitted && k.teams.any fun e => e.2.die == 72) ||
        ((k.st == .admitted || k.st == .placing) && s.impossible k)
      if cause = 18 && never then s.abortKernel slot 18 0 0 else s
    | none => s)

/-! ### Instructions (R356, R357) -/

/-- A lookup of a thread at issue, for R351. -/
def State.launchPlace (s : State) (va : Word) : EngAt :=
  match eaKind va with
  | .virt => match s.tlb1 s.cur.core va.toNat with
    | some e => match checkPage e needLd va with
      | .ok pl => (EngAt.ok pl).reached s (siteOfDie (dieOf s.cur.core))
      | _ => .fault s 1
    | none => .miss (s.threadMiss s.cur.core s.cur.thr va needLd.acc)
  | _ => .fault s 1

/-- LAUNCH with its copy of the record: a missing translation begins the load wait, after which it goes on here. -/
def launchRecord (rec' : BitVec 2048) (s : State) : Ends :=
    let p := s.cur.core
    let t := s.cur.thr
    let k := s.kernelFrom s.myCore.ctx rec'
    let ev : Word := BitVec.ofNat 64 (k.field 176 8)
    let ctl : Word := BitVec.ofNat 64 (k.field 184 8)
    match s.checkRecord k false State.launchPlace p s.me.crs.ptime with
    | .cause _ n => .trap (.access 0 (64 + n))
    | .wait s => .wait s (.load { kind := .lookup (.launch rec'), need := 10, todo := [⟨0, 0, 8, 0, .direct 0⟩],
                                  miss := s.misses.any fun m => m.who == .thread p t })
    | .ok s shape routes =>
      if ev ≠ 0 && (eventBad (s.levelsOf p s.me.slot) ev ctl || bits ev 63 60 ≠ 3 || bits ctl 63 63 = 1 || 1 < ctlSize ctl) then
        .trap (.access 0 74)
      else
        let req : LaunchReq :=
          { launch := k.launch, shape := shape, routes := routes, gtn := s.gtn p t, ctx := k.ctx, slot := s.me.slot,
            kid := ((s.kernelOf p t).map Kernel.id).getD 0, inst := s.instOf s.me.slot p t (bits ev 59 56), ord := s.tick }
        match s.post p t (.launch req) [] with
        | some s => .done s
        | none => .again .journal

/-- LAUNCH as its issue begins it: the 256 bytes are copied once. -/
def launchBody (a : GReg) (s : State) : Ends :=
  let r := s.gr a
  if r.toNat % 256 ≠ 0 then .trap (.align r)
  else if s.myCore.dirLimit < r.toNat + 256 then .trap (.access r)
  else launchRecord (BitVec.ofNat 2048 ((s.land s.cur.core s.cur.thr r.toNat 256).myCore.dread r.toNat 256)) (s.land s.cur.core s.cur.thr r.toNat 256)

/-- LAUNCH (R357). -/
def execLaunch (a : GReg) (s : State) : Out := .next (s.issue [a] [] (launchBody a))

/-- RANK (R356). -/
def execRank (d : GReg) (n : Fin 8) (s : State) : Out :=
  .next (s.issue [] [d] fun s => .done (s.gw d (BitVec.ofNat 64 (s.rankOf s.cur.core s.cur.thr n))))

/-- SIZE (R356); a firmware thread's one level holds the 16 threads of its core (R311). -/
def execSize (d : GReg) (n : Fin 8) (s : State) : Out :=
  .next (s.issue [] [d] fun s =>
    let z := match s.kernelOf s.cur.core s.cur.thr with
      | some k => if n < k.levels then k.lvSize n else 1
      | none => if isSetter s.cur.core && n = 0 then 16 else 1
    .done (s.gw d (BitVec.ofNat 64 z)))

end Sys2Proof.Machine
end

