-- ==== Sys2Proof/Machine/Vector.lean ====
section
/-!
DEFINITION. Vector instructions (R115-R136): lane arithmetic, compares, permutes, conversions, q4 packing, reductions,
vector memory and moves. An ill-typed form raises ILLEGAL (R117); the decoder gives none.
-/

namespace Sys2Proof

/-- A float type of R117's class F, as a format. -/
def VTy.arith (t : VTy) : Option Machine.Fmt :=
  match t with
  | .f16 | .bf16 | .f32 => t.fmt
  | _ => none

/-- An integer type (classes I and N), as a format. -/
def VTy.asInt (t : VTy) : Option Machine.IFmt := if t.fmt.isSome then none else some t.int

end Sys2Proof

namespace Sys2Proof.Machine

/-! ### Lanes (R115-R118) -/

/-- An operation on one lane: lanes of `vA`, `vB`, `vD` to the result and the conditions it met. -/
abbrev LaneF := Nat → Nat → Nat → Nat × Cnt

/-- An operation chosen by type (R117): none where its type is not accepted. -/
def laneOp (ty : VTy) (ints : Option (IFmt → LaneF)) (floats : Option (Fmt → LaneF)) : Option LaneF :=
  match ty.asInt, ty.arith with
  | some t, _ => ints.map fun f => f t
  | _, some t => floats.map fun f => f t
  | _, _ => none

/-- Writes the active lanes of a register (R116), and sums the conditions they met. -/
def mapLanes (w : Nat) (mask : Word) (old : VWord) (f : Nat → Nat × Cnt) : VWord × Cnt :=
  let rs := (List.range (512 / w)).map fun i => if mask.getLsbD i then f i else (lane old w i, Cnt.zero)
  (ofLanes w (rs.map Prod.fst), (rs.map Prod.snd).foldl Cnt.add Cnt.zero)

/-- Counts conditions in the issuing core's counters (R63). -/
def State.counted (s : State) (k : Cnt) : State := s.modCore s.cur.core fun c => c.count k

/-- A lane-wise instruction (R120, R122). -/
def vlanes (d a b : VReg) (m : MReg) (ty : VTy) (op : Option LaneF) (s : State) : Out :=
  .next (s.issue [] [] fun s =>
    match op with
    | none => .trap .illegal
    | some f =>
      let r := mapLanes ty.w (s.mr m) (s.vr d) fun i =>
        f (lane (s.vr a) ty.w i) (lane (s.vr b) ty.w i) (lane (s.vr d) ty.w i)
      .done ((s.vw d r.1).counted r.2))

/-- A lane operation that moves bits only. -/
def quiet (x : Nat) : Nat × Cnt := (x, Cnt.zero)

/-- An exact integer result, wrapped and counted (R41, R62). -/
def intLane (f : Int → Int → Int → Int) (t : IFmt) : LaneF := fun x y z =>
  t.wrapCount (f (t.value x) (t.value y) (t.value z))

/-- An exact integer result, saturated; a saturated lane counts (R120). -/
def satLane (f : Int → Int → Int) (t : IFmt) : LaneF := fun x y _ =>
  let v := f (t.value x) (t.value y)
  (t.satBits v, if t.fits v then Cnt.zero else Cnt.oneWrap)

/-- Minimum or maximum in the type's order. -/
def intPick (isMax : Bool) (t : IFmt) (x y : Nat) : Nat :=
  if isMax then (if t.value x < t.value y then y else x) else (if t.value y < t.value x then y else x)

def bitLane (f : Nat → Nat → Nat) (_ : IFmt) : LaneF := fun x y _ => quiet (f x y)

/-- A shift by the low bits of a lane (R120). -/
def shiftLane (f : IFmt → Nat → Nat → Nat) (t : IFmt) : LaneF := fun x y _ => quiet (f t x (y % t.w))

def un (f : Fmt → Nat → Nat × Cnt) (t : Fmt) : LaneF := fun x _ _ => f t x
def bin (f : Fmt → Nat → Nat → Nat × Cnt) (t : Fmt) : LaneF := fun x y _ => f t x y

/-! ### Arithmetic (R120-R122) -/

/-- VADD (R120). -/
def execVadd (d a b : VReg) (m : MReg) (ty : VTy) (s : State) : Out :=
  vlanes d a b m ty (laneOp ty (some (intLane fun x y _ => x + y)) (some (bin Fmt.add))) s
/-- VSUB (R120). -/
def execVsub (d a b : VReg) (m : MReg) (ty : VTy) (s : State) : Out :=
  vlanes d a b m ty (laneOp ty (some (intLane fun x y _ => x - y)) (some (bin Fmt.sub))) s
/-- VMUL (R120). -/
def execVmul (d a b : VReg) (m : MReg) (ty : VTy) (s : State) : Out :=
  vlanes d a b m ty (laneOp ty (some (intLane fun x y _ => x * y)) (some (bin Fmt.mul))) s
/-- VMIN (R120, R51). -/
def execVmin (d a b : VReg) (m : MReg) (ty : VTy) (s : State) : Out :=
  vlanes d a b m ty (laneOp ty (some fun t x y _ => quiet (intPick false t x y)) (some (bin fun t => t.maxmin false))) s
/-- VMAX (R120, R51). -/
def execVmax (d a b : VReg) (m : MReg) (ty : VTy) (s : State) : Out :=
  vlanes d a b m ty (laneOp ty (some fun t x y _ => quiet (intPick true t x y)) (some (bin fun t => t.maxmin true))) s
/-- VCLAMP (R120, R51): `min(max(z, x), y)`. -/
def execVclamp (d a b : VReg) (m : MReg) (ty : VTy) (s : State) : Out :=
  vlanes d a b m ty (laneOp ty (some fun t x y z => quiet (intPick false t (intPick true t z x) y))
    (some fun t x y z => t.clamp z x y)) s
/-- VABS (R120). -/
def execVabs (d a : VReg) (m : MReg) (ty : VTy) (s : State) : Out :=
  vlanes d a a m ty (if ty.isI || ty.arith.isSome then
    laneOp ty (some (intLane fun x _ _ => x.natAbs)) (some (un fun t => t.absneg true)) else none) s
/-- VNEG (R120). -/
def execVneg (d a : VReg) (m : MReg) (ty : VTy) (s : State) : Out :=
  vlanes d a a m ty (if ty.isI || ty.arith.isSome then
    laneOp ty (some (intLane fun x _ _ => 0 - x)) (some (un fun t => t.absneg false)) else none) s
/-- VAND (R120). -/
def execVand (d a b : VReg) (m : MReg) (ty : VTy) (s : State) : Out :=
  vlanes d a b m ty (laneOp ty (some (bitLane fun x y => x &&& y)) none) s
/-- VOR (R120). -/
def execVor (d a b : VReg) (m : MReg) (ty : VTy) (s : State) : Out :=
  vlanes d a b m ty (laneOp ty (some (bitLane fun x y => x ||| y)) none) s
/-- VXOR (R120). -/
def execVxor (d a b : VReg) (m : MReg) (ty : VTy) (s : State) : Out :=
  vlanes d a b m ty (laneOp ty (some (bitLane fun x y => x ^^^ y)) none) s
/-- VSLL (R120). -/
def execVsll (d a b : VReg) (m : MReg) (ty : VTy) (s : State) : Out :=
  vlanes d a b m ty (laneOp ty (some (shiftLane fun t x n => x * 2 ^ n % 2 ^ t.w)) none) s
/-- VSRL (R120). -/
def execVsrl (d a b : VReg) (m : MReg) (ty : VTy) (s : State) : Out :=
  vlanes d a b m ty (laneOp ty (some (shiftLane fun _ x n => x / 2 ^ n)) none) s
/-- VSRA (R120). -/
def execVsra (d a b : VReg) (m : MReg) (ty : VTy) (s : State) : Out :=
  vlanes d a b m ty (if ty.isI then
    laneOp ty (some (shiftLane fun t x n => t.wrapBits (t.value x / 2 ^ n))) none else none) s
/-- VRCP (R121). -/
def execVrcp (d a : VReg) (m : MReg) (ty : VTy) (s : State) : Out :=
  vlanes d a a m ty (laneOp ty none (some (un Fmt.rcp))) s
/-- VRSQ (R121). -/
def execVrsq (d a : VReg) (m : MReg) (ty : VTy) (s : State) : Out :=
  vlanes d a a m ty (laneOp ty none (some (un Fmt.rsq))) s
/-- VSQRT (R121). -/
def execVsqrt (d a : VReg) (m : MReg) (ty : VTy) (s : State) : Out :=
  vlanes d a a m ty (laneOp ty none (some (un Fmt.sqrt))) s
/-- VEXP2 (R121). -/
def execVexp2 (d a : VReg) (m : MReg) (ty : VTy) (s : State) : Out :=
  vlanes d a a m ty (laneOp ty none (some (un Fmt.exp2))) s
/-- VLOG2 (R121). -/
def execVlog2 (d a : VReg) (m : MReg) (ty : VTy) (s : State) : Out :=
  vlanes d a a m ty (laneOp ty none (some (un Fmt.log2))) s
/-- VDIV (R42, R120, R121). -/
def execVdiv (d a b : VReg) (m : MReg) (ty : VTy) (s : State) : Out :=
  vlanes d a b m ty (laneOp ty (some fun t x y _ => t.div x y) (some (bin Fmt.div))) s
/-- VADDS (R120). -/
def execVadds (d a b : VReg) (m : MReg) (ty : VTy) (s : State) : Out :=
  vlanes d a b m ty (laneOp ty (some (satLane fun x y => x + y)) none) s
/-- VSUBS (R120). -/
def execVsubs (d a b : VReg) (m : MReg) (ty : VTy) (s : State) : Out :=
  vlanes d a b m ty (laneOp ty (some (satLane fun x y => x - y)) none) s
/-- VFMA (R122): `z + x * y`. -/
def execVfma (d a b : VReg) (m : MReg) (ty : VTy) (s : State) : Out :=
  vlanes d a b m ty (laneOp ty (some (intLane fun x y z => z + x * y)) (some fun t => t.fma false false)) s
/-- VFMS (R122): `x * y - z`. -/
def execVfms (d a b : VReg) (m : MReg) (ty : VTy) (s : State) : Out :=
  vlanes d a b m ty (laneOp ty (some (intLane fun x y z => x * y - z)) (some fun t => t.fma false true)) s
/-- VNFMA (R122): `z - x * y`. -/
def execVnfma (d a b : VReg) (m : MReg) (ty : VTy) (s : State) : Out :=
  vlanes d a b m ty (laneOp ty (some (intLane fun x y z => z - x * y)) (some fun t => t.fma true false)) s

/-! ### Compare, select, mask logic (R123-R125) -/

/-- Whether the condition holds between two lanes of a type (R123); none for a type not accepted. -/
def laneCond (ty : VTy) (c : VCond) (x y : Nat) : Option Bool :=
  match ty.asInt, ty.arith with
  | some t, _ => some (intCond c (t.value x) (t.value y))
  | _, some f => some (FVal.cond c (f.value x) (f.value y))
  | _, _ => none

/-- A mask from its bits, lane 0 first. -/
def maskOf (bs : List Bool) : Word := BitVec.ofNat 64 (bs.foldr (fun b acc => 2 * acc + b.toNat) 0)

/-- A compare (R123). -/
def vcompare (c : VCond) (d : MReg) (a b : VReg) (m : MReg) (ty : VTy) (s : State) : Out :=
  .next (s.issue [] [] fun s =>
    if (laneCond ty c 0 0).isNone then .trap .illegal
    else .done (s.mw d (maskOf ((List.range ty.lanes).map fun i =>
      (s.mr m).getLsbD i && (laneCond ty c (lane (s.vr a) ty.w i) (lane (s.vr b) ty.w i)).getD false))))

/-- VCMP_EQ (R123). -/
def execVcmpEq (d : MReg) (a b : VReg) (m : MReg) (ty : VTy) (s : State) : Out := vcompare .eq d a b m ty s
/-- VCMP_NE (R123). -/
def execVcmpNe (d : MReg) (a b : VReg) (m : MReg) (ty : VTy) (s : State) : Out := vcompare .ne d a b m ty s
/-- VCMP_LT (R123). -/
def execVcmpLt (d : MReg) (a b : VReg) (m : MReg) (ty : VTy) (s : State) : Out := vcompare .lt d a b m ty s
/-- VCMP_GE (R123). -/
def execVcmpGe (d : MReg) (a b : VReg) (m : MReg) (ty : VTy) (s : State) : Out := vcompare .ge d a b m ty s
/-- VCMP_LE (R123). -/
def execVcmpLe (d : MReg) (a b : VReg) (m : MReg) (ty : VTy) (s : State) : Out := vcompare .le d a b m ty s
/-- VCMP_GT (R123). -/
def execVcmpGt (d : MReg) (a b : VReg) (m : MReg) (ty : VTy) (s : State) : Out := vcompare .gt d a b m ty s

/-- A vector instruction without a general operand that always completes. -/
def vsimple (f : State → State) (s : State) : Out := .next (s.issue [] [] fun s => .done (f s))

/-- VSEL (R124): every lane is written. -/
def execVsel (d a b : VReg) (m : MReg) (ty : VTy) (s : State) : Out :=
  vsimple (fun s => s.vw d (ofLanes ty.w ((List.range ty.lanes).map fun i =>
    lane (if (s.mr m).getLsbD i then s.vr a else s.vr b) ty.w i))) s

/-- MAND (R125). -/
def execMand (d a b : MReg) (s : State) : Out := vsimple (fun s => s.mw d (s.mr a &&& s.mr b)) s
/-- MOR (R125). -/
def execMor (d a b : MReg) (s : State) : Out := vsimple (fun s => s.mw d (s.mr a ||| s.mr b)) s
/-- MXOR (R125). -/
def execMxor (d a b : MReg) (s : State) : Out := vsimple (fun s => s.mw d (s.mr a ^^^ s.mr b)) s
/-- MNOT (R125). -/
def execMnot (d a : MReg) (s : State) : Out := vsimple (fun s => s.mw d (~~~ s.mr a)) s

/-! ### Permutes (R126) -/

/-- A permute: the source lane that each active lane takes, none leaving it as it is. -/
def permute (d : VReg) (m : MReg) (ty : VTy) (f : Nat → Option Nat) (s : State) : State :=
  s.vw d (mapLanes ty.w (s.mr m) (s.vr d) fun i => quiet ((f i).getD (lane (s.vr d) ty.w i))).1

/-- VPERM (R126). -/
def execVperm (d a b : VReg) (m : MReg) (ty : VTy) (s : State) : Out :=
  vsimple (fun s => permute d m ty (fun i => some (lane (s.vr a) ty.w (lane (s.vr b) ty.w i % ty.lanes))) s) s
/-- VSLUP (R126). -/
def execVslup (d a : VReg) (b : GReg) (m : MReg) (ty : VTy) (s : State) : Out :=
  .next (s.issue [b] [] fun s =>
    let n := (s.gr b).toNat
    .done (permute d m ty (fun i => if n ≤ i then some (lane (s.vr a) ty.w (i - n)) else none) s))
/-- VSLDN (R126). -/
def execVsldn (d a : VReg) (b : GReg) (m : MReg) (ty : VTy) (s : State) : Out :=
  .next (s.issue [b] [] fun s =>
    let n := (s.gr b).toNat
    .done (permute d m ty (fun i => if i + n < ty.lanes then some (lane (s.vr a) ty.w (i + n)) else none) s))
/-- VZIP (R126). -/
def execVzip (d a b : VReg) (m : MReg) (ty : VTy) (s : State) : Out :=
  vsimple (fun s => permute d m ty (fun i => some (lane (if i % 2 = 0 then s.vr a else s.vr b) ty.w (i / 2))) s) s
/-- VUNZIP (R126). -/
def execVunzip (d a b : VReg) (m : MReg) (ty : VTy) (s : State) : Out :=
  vsimple (fun s => permute d m ty (fun i => some (
    if 2 * i < ty.lanes then lane (s.vr a) ty.w (2 * i) else lane (s.vr b) ty.w (2 * i - ty.lanes))) s) s
/-- VREV (R126). -/
def execVrev (d a : VReg) (m : MReg) (ty : VTy) (s : State) : Out :=
  vsimple (fun s => permute d m ty (fun i => some (lane (s.vr a) ty.w (ty.lanes - 1 - i))) s) s

/-! ### Conversions and q4 blocks (R127-R129) -/

/-- One conversion (R127). -/
def convLane (dty sty : VTy) (rtz : Bool) (x : Nat) : Nat × Cnt :=
  if dty = sty then quiet x
  else match sty.fmt, dty.fmt with
    | some f, some g => f.convert g rtz x
    | some f, none => f.toInt dty.int rtz x
    | none, some g => g.ofInt (sty.int.value x)
    | none, none => dty.int.wrapCount (sty.int.value x)

/-- VCVT (R127). -/
def execVcvt (d a : VReg) (m : MReg) (dty sty : VTy) (rtz : Bool) (s : State) : Out :=
  .next (s.issue [] [] fun s =>
    if rtz && sty.fmt.isNone then .trap .illegal
    else
      let r := mapLanes dty.w (s.mr m) (s.vr d) fun i =>
        if i < sty.lanes then convLane dty sty rtz (lane (s.vr a) sty.w i) else quiet (lane (s.vr d) dty.w i)
      .done ((s.vw d r.1).counted r.2))

/-- Quantises 32 values under a mask into bytes 0 to 16 of `vD` (R128). -/
def pack4 (d : VReg) (m : MReg) (f : Fmt) (xs : State → Nat → Nat) (s : State) : State :=
  let old := (s.vr d).toNat
  let ty := old / 2 ^ 134 % 4
  let vs := (List.range 32).map fun k => if (s.mr m).getLsbD k then f.value (xs s k) else .fin false 0 0
  let r := q4Pack ty vs
  (s.vw d (BitVec.ofNat 512 (old / 2 ^ 136 * 2 ^ 136 + r.1))).counted r.2

/-- A q4 instruction, which an EARLY die does not execute (R396). -/
def q4simple (f : State → State) (s : State) : Out :=
  .next (s.issue [] [] fun s => if s.early s.cur.core then .trap .illegal else .done (f s))

/-- VPACK4_F32 (R128). -/
def execVpack4F32 (d a b : VReg) (m : MReg) (s : State) : Out :=
  q4simple (pack4 d m .f32 fun s k => if k < 16 then lane (s.vr a) 32 k else lane (s.vr b) 32 (k - 16)) s
/-- VPACK4_HALF (R128). -/
def execVpack4Half (d a : VReg) (m : MReg) (bf : Bool) (s : State) : Out :=
  q4simple (pack4 d m (if bf then .bf16 else .f16) fun s k => lane (s.vr a) 16 k) s

/-- Element `i` of block `k` of a register, read into a format (R55, R129). -/
def unpackLane (f : Fmt) (v : VWord) (k i : Nat) : Nat × Cnt :=
  match q4Value (v.toNat / 2 ^ (136 * k) % 2 ^ 136) i with
  | .nan => (f.qnan, Cnt.oneNan)
  | x => f.deliver false x

/-- VUNPACK4_HALF (R129). -/
def execVunpack4Half (d a : VReg) (m : MReg) (bf : Bool) (k : Fin 4) (s : State) : Out :=
  .next (s.issue [] [] fun s =>
    if k = 3 || s.early s.cur.core then .trap .illegal
    else
      let r := mapLanes 16 (s.mr m) (s.vr d) fun i => unpackLane (if bf then .bf16 else .f16) (s.vr a) k i
      .done ((s.vw d r.1).counted r.2))
/-- VUNPACK4_F32 (R129). -/
def execVunpack4F32 (d a : VReg) (m : MReg) (k : Fin 4) (h : Bool) (s : State) : Out :=
  .next (s.issue [] [] fun s =>
    if k = 3 || s.early s.cur.core then .trap .illegal
    else
      let r := mapLanes 32 (s.mr m) (s.vr d) fun i => unpackLane .f32 (s.vr a) k (16 * h.toNat + i)
      .done ((s.vw d r.1).counted r.2))

/-! ### Reductions (R130) -/

/-- One level of the fixed tree: lane `i` with lane `i + half`. -/
def treeStep (f : Nat → Nat → Nat × Cnt) (xs : List Nat) (half : Nat) : List Nat × Cnt :=
  let rs := List.zipWith f (xs.take half) (xs.drop half)
  (rs.map Prod.fst, (rs.map Prod.snd).foldl Cnt.add Cnt.zero)

/-- The whole tree over `2 ^ k` lanes. -/
def tree (f : Nat → Nat → Nat × Cnt) : Nat → List Nat → Nat × Cnt
  | 0, xs => (xs.headD 0, Cnt.zero)
  | k + 1, xs =>
    let r := treeStep f xs (2 ^ k)
    let q := tree f k r.1
    (q.1, r.2.add q.2)

/-- The lanes of `vA` with inactive ones replaced by the identity. -/
def filled (s : State) (a : VReg) (m : MReg) (ty : VTy) (e : Nat) : List Nat :=
  (List.range ty.lanes).map fun i => if (s.mr m).getLsbD i then lane (s.vr a) ty.w i else e

/-- A reduced lane in a general register. -/
def extendLane (ty : VTy) (x : Nat) : Word := if ty.isI then sextN x ty.w else BitVec.ofNat 64 x

/-- A reduction (R130): combine, identity, and what the exact result adds to the counts. -/
def reduce (d : GReg) (a : VReg) (m : MReg) (ty : VTy) (op : Option ((Nat → Nat → Nat × Cnt) × Nat))
    (extra : State → Cnt) (s : State) : Out :=
  .next (s.issue [] [d] fun s =>
    match op with
    | none => .trap .illegal
    | some (f, e) =>
      let r := tree f (Nat.log2 ty.lanes) (filled s a m ty e)
      .done ((s.gw d (extendLane ty r.1)).counted (r.2.add (extra s))))

/-- A combine and identity chosen by type. -/
def redOp (ty : VTy) (ints : IFmt → (Nat → Nat → Nat × Cnt) × Nat)
    (floats : Option (Fmt → (Nat → Nat → Nat × Cnt) × Nat)) : Option ((Nat → Nat → Nat × Cnt) × Nat) :=
  match ty.asInt, ty.arith with
  | some t, _ => some (ints t)
  | _, some t => floats.map fun f => f t
  | _, _ => none

/-- Integer wrap of a sum: once, when the exact sum of the active lanes lies outside the type. -/
def sumWrap (a : VReg) (m : MReg) (ty : VTy) (s : State) : Cnt :=
  match ty.asInt with
  | some t => if t.fits (((filled s a m ty 0).map t.value).foldl (· + ·) 0) then Cnt.zero else Cnt.oneWrap
  | none => Cnt.zero

def noExtra (_ : State) : Cnt := Cnt.zero

/-- VRSUM (R130). -/
def execVrsum (d : GReg) (a : VReg) (m : MReg) (ty : VTy) (s : State) : Out :=
  reduce d a m ty (redOp ty (fun t => (fun x y => quiet ((x + y) % 2 ^ t.w), 0))
    (some fun t => (t.add, t.signBit true))) (sumWrap a m ty) s
/-- VRMAX (R130). -/
def execVrmax (d : GReg) (a : VReg) (m : MReg) (ty : VTy) (s : State) : Out :=
  reduce d a m ty (redOp ty (fun t => (fun x y => quiet (intPick true t x y), t.wrapBits t.lo))
    (some fun t => (t.maxmin true, t.infBits true))) noExtra s
/-- VRMIN (R130). -/
def execVrmin (d : GReg) (a : VReg) (m : MReg) (ty : VTy) (s : State) : Out :=
  reduce d a m ty (redOp ty (fun t => (fun x y => quiet (intPick false t x y), t.wrapBits t.hi))
    (some fun t => (t.maxmin false, t.infBits false))) noExtra s
/-- VRAND (R130). -/
def execVrand (d : GReg) (a : VReg) (m : MReg) (ty : VTy) (s : State) : Out :=
  reduce d a m ty (redOp ty (fun t => (fun x y => quiet (x &&& y), 2 ^ t.w - 1)) none) noExtra s
/-- VROR (R130). -/
def execVror (d : GReg) (a : VReg) (m : MReg) (ty : VTy) (s : State) : Out :=
  reduce d a m ty (redOp ty (fun _ => (fun x y => quiet (x ||| y), 0)) none) noExtra s
/-- VRXOR (R130). -/
def execVrxor (d : GReg) (a : VReg) (m : MReg) (ty : VTy) (s : State) : Out :=
  reduce d a m ty (redOp ty (fun _ => (fun x y => quiet (x ^^^ y), 0)) none) noExtra s

/-! ### Vector memory (R131-R135) -/

/-- The active elements of an access, lane by lane (R131). -/
def vecElems (s : State) (m : MReg) (ty : VTy) (ea : Nat → Word) (data : Nat → Nat) : List Elem :=
  ((List.range ty.lanes).filter fun i => (s.mr m).getLsbD i).map fun i => ⟨i, ea i, ty.w / 8, data i, .direct 0⟩

/-- Writes the lanes that a load has read (R133). -/
def vecPut (old : VWord) (w : Nat) (got : List (Nat × Nat)) : VWord :=
  got.foldl (fun v g => setLane v w g.1 g.2) old

/-- Element addresses of the three forms (R131). -/
def eaUnit (s : State) (a : GReg) (ty : VTy) (i : Nat) : Word := s.gr a + BitVec.ofNat 64 (i * (ty.w / 8))
def eaStride (s : State) (a b : GReg) (i : Nat) : Word := s.gr a + BitVec.ofNat 64 i * s.gr b
def eaIndex (s : State) (a : GReg) (b : VReg) (ty : VTy) (i : Nat) : Word := s.gr a + sextN (lane (s.vr b) ty.w i) ty.w

/-- A vector load (R131-R133). -/
def vecLoad (d : VReg) (m : MReg) (ty : VTy) (rd : List GReg) (ea : State → Nat → Word) (s : State) : Out :=
  .next (s.issue rd [] fun s =>
    s.startLoad (.vld d (s.mr m) ty) 0 (vecElems s m ty (ea s) fun _ => 0) fun s got =>
      .done (s.vw d (vecPut (s.vr d) ty.w got)))

/-- A vector store (R131, R132, R134). -/
def vecStore (d : VReg) (m : MReg) (ty : VTy) (rd : List GReg) (ea : State → Nat → Word) (s : State) : Out :=
  .next (s.issue rd [] fun s => s.startStore 1 (vecElems s m ty (ea s) fun i => lane (s.vr d) ty.w i))

/-- VLD (R131). -/
def execVld (d : VReg) (a : GReg) (m : MReg) (ty : VTy) (s : State) : Out :=
  vecLoad d m ty [a] (fun s => eaUnit s a ty) s
/-- VLDS (R131). -/
def execVlds (d : VReg) (a b : GReg) (m : MReg) (ty : VTy) (s : State) : Out :=
  vecLoad d m ty [a, b] (fun s => eaStride s a b) s
/-- VLDX (R131). -/
def execVldx (d : VReg) (a : GReg) (b : VReg) (m : MReg) (ty : VTy) (s : State) : Out :=
  vecLoad d m ty [a] (fun s => eaIndex s a b ty) s
/-- VST (R131). -/
def execVst (d : VReg) (a : GReg) (m : MReg) (ty : VTy) (s : State) : Out :=
  vecStore d m ty [a] (fun s => eaUnit s a ty) s
/-- VSTS (R131). -/
def execVsts (d : VReg) (a b : GReg) (m : MReg) (ty : VTy) (s : State) : Out :=
  vecStore d m ty [a, b] (fun s => eaStride s a b) s
/-- VSTX (R131). -/
def execVstx (d : VReg) (a : GReg) (b : VReg) (m : MReg) (ty : VTy) (s : State) : Out :=
  vecStore d m ty [a] (fun s => eaIndex s a b ty) s

/-! ### Moves (R136) -/

/-- VSPLAT (R136). -/
def execVsplat (d : VReg) (a : GReg) (m : MReg) (ty : VTy) (s : State) : Out :=
  .next (s.issue [a] [] fun s =>
    .done (s.vw d (mapLanes ty.w (s.mr m) (s.vr d) fun _ => quiet ((s.gr a).toNat % 2 ^ ty.w)).1))
/-- VINS (R136). -/
def execVins (d : VReg) (a b : GReg) (ty : VTy) (s : State) : Out :=
  .next (s.issue [a, b] [] fun s =>
    let j := (s.gr b).toNat
    .done (if j < ty.lanes then s.vw d (setLane (s.vr d) ty.w j ((s.gr a).toNat % 2 ^ ty.w)) else s))
/-- VEXT (R136). -/
def execVext (d : GReg) (a : VReg) (b : GReg) (ty : VTy) (s : State) : Out :=
  .next (s.issue [b] [d] fun s =>
    let j := (s.gr b).toNat
    .done (s.gw d (if j < ty.lanes then extendLane ty (lane (s.vr a) ty.w j) else 0)))
/-- MGETG (R136). -/
def execMgetg (d : GReg) (a : MReg) (s : State) : Out :=
  .next (s.issue [] [d] fun s => .done (s.gw d (s.mr a)))
/-- MSETG (R136). -/
def execMsetg (d : MReg) (a : GReg) (s : State) : Out :=
  .next (s.issue [a] [] fun s => .done (s.mw d (s.gr a)))

end Sys2Proof.Machine
end

