-- ==== Sys2Proof/Machine/Reply.lean ====
section
/-!
DEFINITION. What replies do: loads, atomics, translation fills, and the end of a migration (R90-R93, R104-R106, R243-R245, R310,
R311, R318).
-/

namespace Sys2Proof.Machine

/-! ### Loads -/

/-- What other writers have done to bytes that no home of the panel keeps, before a reply: host bytes, and pod bytes from 2^64
on (R253: the receiving member's and the host's own rules). -/
def State.landed (s : State) (ext : List (Nat × Byte)) : State :=
  ext.foldl (fun s e => if e.1 < 2 ^ 64 then { s with host := mset s.host e.1 e.2 } else { s with pod := mset s.pod (e.1 - 2 ^ 64) e.2 }) s

/-- Reads of the units of a request that a reply serves: those of one line that are not left to a later reply. What is read by lane, the
units that are still out, and the trap of the lowest lane. -/
structure Units where
  s    : State
  past : Bool := false
  got  : List (Nat × Nat) := []
  out  : List Elem := []
  trap : Option Trap := none

/-- Reads one unit, where `now` says so. A trap counts when no unit of a lower lane is still out (R133). -/
def Units.read (p t : Nat) (now : Elem → Bool) (x : Units) (u : Elem) : Units :=
  if x.trap.isSome then x
  else if !now u then { x with out := x.out ++ [u] }
  else match x.s.readUnit p t x.past u with
  | .data s v slice => { x with s := s, past := x.past || slice, got := x.got ++ [(u.lane, v)] }
  | .notYet => { x with out := x.out ++ [u] }
  | .trap tr => if x.out.isEmpty then { x with trap := some tr } else { x with out := x.out ++ [u] }

/-- A load whose last unit has arrived writes its registers (R100, R133). -/
def State.finishLoad (s : State) (p t : Nat) (r : Req) : State :=
  let s := s.take p t
  let v := (r.got.headD (0, 0)).2
  match r.kind with
  | .ld d sz => (s.gw d (sz.ext v)).complete p t
  | .vld d _ ty => (s.vw d (vecPut (s.vr d) ty.w r.got)).complete p t
  | _ => s

/-- The units of a load that stand first among those still out, with the rest of their line, are served, but for the lanes that
`skip` names; the last ends the wait (R90 step 6, R93, R100, R133, R135, R243). None: nothing can be served yet. -/
def State.serveLoad (s : State) (p t : Nat) (r : Req) (skip : List Nat) : Option State :=
  match groupAt r.todo 0 with
  | [] => none
  | u :: us =>
    let now (x : Elem) : Bool := (u :: us).contains x && !skip.contains x.lane
    let x := r.todo.foldl (Units.read p t now) { s := s, past := r.past }
    match x.trap with
    | some tr => some ((s.take p t).trapMe tr)
    | none =>
      if x.got.isEmpty then none
      else
        let r' := { r with todo := x.out, got := r.got ++ x.got, past := x.past && x.out.any u.near, far := if (x.out.any u.near) then r.far else none }
        let s' := x.s.modThread p t fun th => { th with wait := .load r' }
        if !x.out.isEmpty then some s'
        else match r.kind with
          | .hldr d _ moving => s'.finishHldr p t d moving u (BitVec.ofNat 64 (r'.got.headD (0, 0)).2)
          | _ => some (s'.finishLoad p t r')

/-- An atomic at a pod receiver (R105). -/
def State.remoteAtomic (s : State) (p t : Nat) (r : Req) (u : Elem) : State :=
  match r.kind, u.place with
  | .atom op d x cmp wd nat, .remote m a =>
    if !s.podUp then s
    else match Config.podAnswer s.tick with
    | 0 =>
      if Config.farPoison s.tick then (s.take p t).trapMe { kind := 13, addr := u.va }
      else
        let old := mread s.pod (m * 2 ^ 52 + a) u.w
        let s := (s.take p t).podSend (s.core p).ctx m (a / 64) a u.w
        let s := match atomNew op wd nat old x.toNat cmp.toNat with
          | some v => { s with pod := mwrite s.pod (m * 2 ^ 52 + a) u.w v }
          | none => s
        (((s.delay p 108).gw d (wd.ext nat old))).complete p t
    | 1 => (s.take p t).trapMe { kind := 6, addr := u.va, cause := 1 }
    | _ => (s.take p t).trapMe { kind := 4, addr := u.va, cause := 5 }
  | _, _ => s

/-! ### Atomics at the slice (R245) -/

/-- The read and write of a waiting atomic, where the line's owner has given it up; none while it must wait. -/
def State.atomicStep (s : State) (core thr : Nat) : Option State :=
  let th := s.thread core thr
  let c := s.core core
  match th.wait with
  | .load r =>
    match r.todo with
    | u :: us =>
      match u.place with
      | .line l off pa =>
        if r.miss || c.olderStore thr c.jord u then none
        else if s.poison.contains l then some ((s.take core thr).trapMe { kind := 13, addr := u.va })
        else
          -- the instruction's own effect on each old value; none: it has no atomic to make, or must wait
          let f : Option (Nat → Option Nat) := match r.kind with
            | .atom op _ x cmp wd nat => some fun old => atomNew op wd nat old x.toNat cmp.toNat
            | .hlog _ _ => some fun old => some ((old + 8) % 2 ^ 64)
            | .hswap v _ => if c.freeEntry.isNone then none else some fun _ => some v.toNat
            | .hpin _ _ => some fun old => some (min (old + 1) 0xFFFFFFFF)
            | _ => none
          match f with
          | none => none
          | some f =>
            -- a `cas` that fails is served as a load, and waits as one (R245, R263)
            if (f (dataAt (s.lineData l) off u.w)).isNone && s.behindOwn core thr then none
            else match (s.l1Drop core l).atomicAt core core l off pa u.w th.now th.len f with
            | none => none
            | some (s', wts, old) =>
              let s := ((s.delayAccept s' core core l pa).modThread core thr fun th => { th.owe wts with rel := maxW th.rel wts }).take core thr
              match r.kind with
              | .atom _ d _ _ wd nat =>
                -- on an object's old copy it is a raw write (R296)
                let s := if (f old).isSome then s.rawBreak core thr th.slot [u] else s
                some ((s.gw d (wd.ext nat old)).complete core thr)
              | .hlog v target => s.finishHlog core thr v target old
              | .hswap _ _ => (s.post core thr .ref (us.map fun y => { y with data := old })).map fun s => s.complete core thr
              | .hpin d a =>
                (s.modThread core thr fun th => { th with pinAt := if old < 0xFFFFFFFF then some u else none }).finishHpin core thr d a (u.va.toNat - 8)
              | _ => none
      | _ => none
    | [] => none
  | _ => none

/-- SLICE_ATOMIC (R105, R106, R245). To a LOCKED page it is held (R318). -/
def execSliceAtomic (core thr : Nat) (s : State) : Out :=
  .next (
    let c := s.core core
    let u : Option Elem := match (s.thread core thr).wait with
      | .load r => if r.miss then none else r.todo.head?
      | _ => none
    match u with
    | none => s
    | some u =>
      if c.moveTo.isSome || s.reseeding c.ctx then s
      else if u.line.isSome && s.locked c.ctx u.va then s.hold c.ctx u.va ⟨core, none, thr, u.line.getD 0, 0⟩
      else (s.atomicStep core thr).getD s)

/-! ### Translation fills (R90-R92, R310, R313) -/

/-- What each unit of a request needs of its page: the log entry of a logged `hstr` is a store. -/
def Req.needs (r : Req) (k : Nat) : AccNeed :=
  match r.kind with
  | .hswap _ _ => if k = 0 then needOf r.need else needSt
  | _ => needOf r.need

/-- Translates the units of a waiting request again. -/
def State.retranslate (s : State) (p : Nat) (r : Req) : Trs :=
  let limit := match r.kind with
    | .cache _ => 0
    | _ => (s.core p).dirLimit
  match r.todo with
  | [] => .ok []
  | u :: us =>
    match trAll limit (s.tlb1 p) (r.needs 0) [u], us with
    | .ok x, [] => .ok x
    | .ok x, us => match trAll limit (s.tlb1 p) (r.needs 1) us with
      | .ok y => .ok (x ++ y)
      | z => z
    | z, _ => z

/-- A store or cache operation whose translation has come (R92): it is posted or done, and the wait ends. While no journal entry is free it
waits on (DEDUCED, log 26: it has issued, so that R27's journal wait, which comes before issue, is not its). -/
def State.postWaiting (s : State) (p t : Nat) (r : Req) : Option State :=
  let s := s.take p t
  match r.kind with
  | .st => (s.storeNow p t r.todo).map fun s => s.complete p t
  | .cache fn => match r.todo with
    | u :: _ => (s.cacheOp p t fn u.va u.place).map fun s => s.complete p t
    | [] => none
  | _ => none

/-- A thread whose miss has been answered translates afresh (R92, R313): it misses again, traps, or goes on. A lookup that an instruction
makes on the way goes on at LOAD_REPLY. -/
def State.retryThread (s : State) (p t : Nat) : State :=
  match (s.thread p t).wait with
  | .load r =>
    if !r.miss then s
    else
      let s := s.take p t
      match r.kind with
      | .fetch => s.modThread p t fun th => { th.rejoin with latch := {} }
      | .lookup _ => s.modThread p t fun th => { th with wait := .load { r with miss := false } }
      | kind =>
        match s.retranslate p r with
        | .miss va => s.threadMiss p t va (r.needs 0).acc
        | .trap tr =>
          match kind with
          | .cache 4 => s.complete p t
          | .cache _ => s.trapMe { tr with addr := BitVec.ofNat 64 (r.todo.headD ⟨0, 0, 0, 0, .direct 0⟩).data }
          | _ => s.trapMe tr
        | .ok els =>
          let r := { r with todo := els, miss := false }
          (s.postWaiting p t r).getD (s.modThread p t fun th => { th with wait := .load r })
  | _ => s

/-- Hops of a fill's request and reply (R310, R383): within the cluster where its second level holds the page, otherwise over the die's networks
and the routers to the bank beside the die. -/
def State.fillHops (s : State) (p : Nat) (near : Bool) : Nat :=
  let a := siteOfDie (dieOf p)
  let b := siteOfStack (bankOf (dieOf p))
  if near then 2 * spareHop p else sliceHops p + s.routers a b + s.routers b a

/-- A core's miss reaches the bank beside its die, where its cluster's second level does not hold the page (R373, R396). -/
def State.fillWay (s : State) (m : Miss) : Bool :=
  !m.isCore || (findTlb (s.cluster m.cluster).tlb m.ctx m.va.toNat).isSome ||
    s.ways (siteOfDie (m.cluster / 16)) (siteOfStack m.bank)

/-- TLB_FILL_REPLY (R310): miss `k` is answered by a lower level that holds the page, or goes out again when none does. An engine has its
bank alone, which `tlbw` fills. -/
def execTlbFillReply (k : Nat) (s : State) : Out :=
  .next (match s.misses[k]? with
    | none => s
    | some m =>
      -- the entries of a FROZEN core are not streamed: its new core fills them (R310)
      let frozen : Bool := match m.who with
        | .thread p _ | .array p _ _ => (s.core p).moveTo.isSome
        | _ => false
      if m.sent || m.none' || s.panel.fwload.isSome || frozen || !s.fillWay m then s
      else
        let s' := { s with misses := s.misses.eraseIdx k }
        let again (s' : State) : State := s'.addMiss m.who m.ctx m.cluster m.slot m.va m.acc m.word m.rt
        let near : Bool := (findTlb (s.cluster m.cluster).tlb m.ctx m.va.toNat).isSome
        let core (s' : State) (p : Nat) : Option State :=
          match s'.tlb23 m.cluster m.ctx m.va.toNat with
          | none => none
          | some e =>
            let s' := if near then s' else s'.clusterPut m.cluster { e with pin := false }
            let c := s'.core p
            some ((if c.ctx = m.ctx then
              s'.setCore p { c with ca := { c.ca with tlb := tlbPut s' 64 64 { e with pin := false } c.ca.tlb } }
            else s').delayBy p 112 (s.fillHops p near))
        let engine (s' : State) : State := if (s'.below m).isSome then s' else again s'
        match m.who with
        | .thread p t => match core s' p with
          | some s' => s'.retryThread p t
          | none => again s'
        | .array p _ _ => (core s' p).getD (again s')
        | _ => engine s')

/-! ### The end of a migration (R318) -/

/-- A unit of the page named by the frame that is mapped now. -/
def Mig.retarget (m : Mig) (frame ctx : Nat) (u : Elem) : Elem :=
  if m.holds ctx u.va && u.line.isSome then
    let pa := frame * 65536 + u.va.toNat % 2 ^ pageLog m.sz
    let x := framePlace m.cls m.near pa
    { u with place := .line x.1 x.2 pa }
  else u

/-- Every unit under way to the page, named by a frame. -/
def State.retargetAll (s : State) (m : Mig) (frame : Nat) : State :=
  { s with
    cores := s.cores.map fun e =>
      let f := m.retarget frame e.2.ctx
      (e.1, { e.2 with
        journal := e.2.journal.map fun j => (j.1, { j.2 with todo := j.2.todo.map f })
        mx := { e.2.mx with ops := e.2.mx.ops.map fun o => { o with stores := o.stores.map f } }
        threads := e.2.threads.map fun t => (t.1, let th := { t.2 with pinAt := t.2.pinAt.map f }; match th.wait with
          | .load r => { th with wait := .load { r with
              todo := if r.miss then r.todo else r.todo.map f
              kind := match r.kind with
                | .hlog v u => .hlog v (f u)
                | .lookup (.logged v u e) => .lookup (.logged v (f u) e)
                | .lookup (.field d mv u v) => .lookup (.field d mv (f u) v)
                | x => x } }
          | _ => th) })
    panel := { s.panel with olds := s.panel.olds.map fun x => (x.1, x.2.1, m.retarget frame x.1 x.2.2.1, m.retarget frame x.1 x.2.2.2) }
    retrs := s.retrs.map fun e => (e.1, { e.2 with active := e.2.active.map fun x =>
      { x with open' := x.open'.map fun y => (y.1, m.retarget frame x.req.ctx y.2) } }) }

/-- Accepts a journal entry's units of a line. -/
def State.applyJournal (p i l : Nat) (s : State) : State :=
  let e := (s.core p).entry i
  match e.todo.findIdx? fun u => u.line == some l with
  | some k => (s.freeLine (dieOf (e.site.getD p)) l (if e.kind.isWrite && e.site.isNone then some p else none)).journalAccept p i k []
  | none => s

/-- Accepts the drain stores of a row of a matrix operation, known by its issue order, to a line. -/
def State.applyDrain (p ord l row : Nat) (s : State) : State :=
  match (s.core p).mx.ops.findIdx? fun o => o.ord == ord with
  | none => s
  | some j =>
    let site := (s.core p).mx.ops[j]?.bind Mop.site
    let els := ((s.core p).mx.ops[j]?.map Mop.stores).getD []
    match els.findIdx? fun u => u.line == some l with
    | some k =>
      let g := groupAt els k
      let skip := (List.range g.length).filter fun i => g[i]?.any fun u => u.lane != row
      (s.freeLine (dieOf (site.getD p)) l (if site.isNone then some p else none)).drainAccept p j k skip
    | none => s

/-- Accepts a copy's write: its element, unit and line. -/
def State.applyCopy (r id e unit l : Nat) (s : State) : State :=
  match (s.retr r).active.findIdx? fun x => x.id == id with
  | none => s
  | some j =>
    match (((s.retr r).active[j]?.map CopyRun.open').getD []).findIdx? fun x => x.1 == e && x.2.lane == unit && x.2.line == some l with
    | none => s
    | some k => s.copyAccept r j k

/-- A held write is applied in the line that is its own now. -/
def State.applyHeld (s : State) (h : HeldWrite) : State :=
  match h.entry with
  | none => ((s.freeLine (dieOf h.core) h.line none).atomicStep h.core h.thr).getD s
  | some i =>
    if copyBase ≤ h.core then State.applyCopy (h.core - copyBase) i h.thr h.unit h.line s
    else if i < 16 then State.applyJournal h.core i h.line s
    else State.applyDrain h.core (i - 16) h.line h.unit s

/-- A held write whose line has moved to a new frame. -/
def HeldWrite.moved (news : List (Nat × Nat)) (h : HeldWrite) : HeldWrite :=
  match news.find? fun x => x.1 == h.line with
  | some x => { h with line := x.2 }
  | none => h

/-- MIGRATION_SWITCH (R318): the lines of the old frame are recalled and copied, the new frame's take M, cached copies go, the
held writes are applied in arrival order, the pinned entries switch, and `migr` ends. -/
def execMigrationSwitch (k : Nat) (s : State) : Out :=
  .next (match s.migs[k]? with
    | none => s
    | some m =>
      let size := 2 ^ pageLog m.sz
      let olds := (frameLines m.cls m.near m.old m.sz).map Prod.fst
      let news := (frameLines m.cls m.near m.new m.sz).map Prod.fst
      let s := (olds ++ news).foldl (fun s l => s.dieGives l) s
      let mx : Word := olds.foldl (fun a l => maxW a (s.home l).rts) 0
      let bad := olds.any s.poison.contains
      let s := (olds.zip news).foldl (fun s x =>
        let s := { s with dram := mwrite s.dram (x.2 * 512) 512 (mread s.dram (x.1 * 512) 512)
                          poison := if s.poison.contains x.1 && !s.poison.contains x.2 then x.2 :: s.poison else s.poison }
        s.setHome x.2 ⟨mx, mx, none⟩) s
      let s := s.flushLines fun l _ => olds.contains l || news.contains l
      let s := s.dropTlb fun e => !e.pin && e.overlaps m.ctx m.va.toNat size
      let s := s.mapTlb m.ctx m.va.toNat size fun e => { e with w1 := setBits (setBits e.w1 35 0 m.new) 60 60 0 }
      let s := (s.retargetAll m m.new)
      let s := { s with migs := s.migs.eraseIdx k }
      let s := (m.held.map (HeldWrite.moved (olds.zip news))).foldl State.applyHeld s
      (s.migEnd m.core m.thr m.blk (if bad then 2 * 2 ^ 56 else 0)).pageResume)

/-- MIGRATION_ABANDON (R318): a copy fault. The page keeps its old frame. -/
def execMigrationAbandon (k : Nat) (s : State) : Out :=
  .next (match s.migs[k]? with
    | none => s
    | some m =>
      let s := s.mapTlb m.ctx m.va.toNat (2 ^ pageLog m.sz) fun e => { e with w1 := setBits e.w1 60 60 0 }
      let s := { s with migs := s.migs.eraseIdx k }
      let s := m.held.foldl State.applyHeld s
      (s.migEnd m.core m.thr m.blk (2 ^ 63 + 2 ^ 56)).pageResume)

end Sys2Proof.Machine
end

