-- ==== Sys2Proof/Machine/Group.lean ====
section
/-!
DEFINITION. Tasks (R362-R368): frames, deques and spill rings, `spawn`, `exit`, dispatch and steals.
-/

namespace Sys2Proof.Machine

/-! ### Frames and the spill ring (R362, R364) -/

/-- A frame's 64 bytes, in the order that R367 lists its parts (log 33). -/
def Frame.bytes (f : Frame) : Nat :=
  ([f.cpc, f.jn, f.jc, f.aff] ++ f.g).foldr (fun w acc => acc * 2 ^ 64 + w.toNat) 0

def frameOf (v : Nat) (rt : Word) (pend : Option (Nat × Nat × Nat)) : Frame :=
  let w (i : Nat) : Word := BitVec.ofNat 64 (v / 2 ^ (64 * i))
  { cpc := w 0, jn := w 1, jc := w 2, aff := w 3, g := [w 4, w 5, w 6, w 7], rt := rt, pend := pend }

def Frame.strict (f : Frame) : Bool := bits f.aff 63 63 = 1
def Frame.die (f : Frame) : Nat := bits f.aff 6 0

/-- Stack base of a core's kernel; the firmware's has none. -/
def State.stkb (s : State) (p : Nat) : Nat :=
  match (s.core p).slot.bind s.kernel with
  | some k => k.field 56 8
  | none => 0

/-- Address of frame `n` of a core's spill ring. -/
def State.ringAddr (s : State) (p n : Nat) : Nat :=
  (BitVec.ofNat 64 (s.stkb p) - BitVec.ofNat 64 (65536 * ((s.core p).kix + 1)) + BitVec.ofNat 64 (64 * (n % 1024)) : Word).toNat

/-- What an access to the spill ring comes to. -/
inductive Ring (α : Type) where
  | ok (s : State) (x : α)
  /-- a translation is missing, or the place cannot be reached for now -/
  | wait (s : State)
  /-- a fault, or an uncorrectable error: the frame is POISONED -/
  | fault (s : State)

def Ring.bind {α β : Type} (x : Ring α) (f : State → α → Ring β) : Ring β :=
  match x with
  | .ok s v => f s v
  | .wait s => .wait s
  | .fault s => .fault s

/-- Width of the units in which a core's ring is read and written, and the units of a frame of it. The base need not be aligned. -/
def State.ringWidth (s : State) (p : Nat) : Nat := if s.stkb p % 8 = 0 then 8 else 1

def State.ringUnits (s : State) (p n : Nat) : List Word :=
  let w := s.ringWidth p
  (List.range (64 / w)).map fun i => BitVec.ofNat 64 (s.ringAddr p n + w * i)

/-- Translation of one unit of a ring for the Kennel of the core's die, which no read barrier checks (R91, R362). A write to a LOCKED page
waits (R318). -/
def State.ringLook (s : State) (p : Nat) (n : AccNeed) (va : Word) : EngAt :=
  let c := (s.core p).ctx
  match eaKind va with
  | .bad => .fault s 1
  | .direct => if va.toNat + s.ringWidth p ≤ (s.core p).dirLimit then .ok (.direct va.toNat) else .fault s 1
  | .virt => match s.anyTlb c va.toNat with
    | some e => match checkPage e n va with
      | .ok pl =>
        if pl.isLine && ((n.w && s.locked c va) || s.reseeding c) then .miss s else (EngAt.ok pl).reached s (siteOfDie (dieOf p))
      | _ => .fault s 1
    | none =>
      let mine (m : Miss) : Bool := m.who == ringWho p && m.va.toNat / 65536 == va.toNat / 65536
      if s.misses.any fun m => mine m && m.none' then .fault { s with misses := s.misses.filter fun m => !mine m } 2
      else .miss (s.addMiss (ringWho p) c (clusterOf p) ((s.core p).slot.getD 0) va n.acc (s.gtn p 0) 0)

/-- A write of one unit by the Kennel, where R91 places it; none when it is refused. It is no thread's write (R362), and a port makes no record of
it (R251). -/
def State.ringPut (s : State) (p : Nat) (e : Elem) : Option State :=
  match e.place with
  | .direct a => s.portWrite p a e.w e.data 0 true
  | .lwin l a => match s.phys l with
    | some q => s.portWrite q a e.w e.data 0 true
    | none => none
  | .remote _ _ => if Config.podAnswer s.tick = 0 then some (s.engWrite (s.core p).ctx e 0).1 else none
  | .host _ => if Config.hostRefuses s.tick then none else some (s.engWrite (s.core p).ctx e 0).1
  | .line l _ _ => if s.poison.contains l then none else some (s.engWrite (s.core p).ctx e 0).1

/-- Writes frames to places of the ring, all or none. -/
def State.ringWrite (s : State) (p : Nat) (fs : List (Nat × Nat)) : Ring Unit :=
  let w := s.ringWidth p
  let us := fs.flatMap fun x => (s.ringUnits p x.1).zip ((List.range (64 / w)).map fun i => x.2 / 2 ^ (8 * w * i) % 2 ^ (8 * w))
  match rowPlaces (fun s va => s.ringLook p needSt va) (us.map Prod.fst) s with
  | .wait s => .wait s
  | .fault s _ _ => .fault s
  | .ok pls =>
    match (us.zip pls).foldl (fun (s? : Option State) u => s?.bind fun s => s.ringPut p ⟨0, u.1.1, w, u.1.2, u.2⟩) (some s) with
    | some s => .ok s ()
    | none => .fault s

/-- Reads the bytes of frames at places of the ring. -/
def State.ringRead (s : State) (p : Nat) (ns : List Nat) : Ring (List Nat) :=
  let w := s.ringWidth p
  let us := ns.flatMap (s.ringUnits p)
  match rowPlaces (fun s va => s.ringLook p needLd va) us s with
  | .wait s => .wait s
  | .fault s _ _ => .fault s
  | .ok pls =>
    match readPlaces (s.core p).ctx p 0 w [] false ((List.range us.length).zip (us.zip pls)) s [] with
    | .wait s => .wait s
    | .fault s _ _ => .fault s
    | .ok s got _ => .ok s ((List.range ns.length).map fun j =>
        (List.range (64 / w)).foldr (fun i acc => acc * 2 ^ (8 * w) + tget 0 got (64 / w * j + i)) 0)

/-- Place in the ring of its frame `i`, the far end first. -/
def Core.ringNo (c : Core) (i : Nat) : Nat := (c.spillLo + i) % 1024

/-- No room for another frame (R367): 64 stand, and the ring is absent or full. Hardware frames beyond 64 are on their way there. -/
def State.framesFull (s : State) (p : Nat) : Bool :=
  64 ≤ (s.core p).deque.length && (s.stkb p == 0 || 1024 ≤ (s.core p).spill.length + ((s.core p).deque.length - 64))

/-- The oldest of a core's hardware frames beyond 64 goes to the near end of the ring. -/
def State.spillOne (s : State) (p : Nat) : Ring Unit :=
  let c := s.core p
  match c.deque.getLast? with
  | none => .ok s ()
  | some old => (s.ringWrite p [(c.ringNo c.spill.length, old.bytes)]).bind fun s _ =>
      .ok (s.modCore p fun c => { c with deque := c.deque.dropLast, spill := c.spill ++ [(old.rt, old.pend)] }) ()

/-- Frames beyond 64 go to the ring, the oldest first; no thread waits for them. -/
def State.spillMore (s : State) (p : Nat) : Ring Unit :=
  (List.range ((s.core p).deque.length - 64)).foldl (fun x _ => x.bind fun s _ => s.spillOne p) (.ok s ())

/-- Pushes a frame at the near end: the oldest hardware frame goes to the ring when 64 stand. -/
def State.pushNear (s : State) (p : Nat) (f : Frame) : Ring Unit :=
  (s.modCore p fun c => { c with deque := f :: c.deque }).spillMore p

/-- Puts a frame at the far end (R367). -/
def State.pushFar (s : State) (p : Nat) (f : Frame) : Ring Unit :=
  let c := s.core p
  if c.deque.length < 64 then .ok (s.setCore p { c with deque := c.deque ++ [f] }) ()
  else
    let n := (c.spillLo + 1023) % 1024
    (s.ringWrite p [(n, f.bytes)]).bind fun s _ =>
      .ok (s.modCore p fun c => { c with spillLo := n, spill := (f.rt, f.pend) :: c.spill }) ()

/-- Takes frame `i` of the ring out, and closes the gap from the near end, or from the far end. -/
def State.ringTake (s : State) (p i : Nat) (near : Bool) : Ring Frame :=
  let c := s.core p
  let rt := (c.spill[i]?.map Prod.fst).getD 0
  let others := if near then (List.range (c.spill.length - 1 - i)).map fun k => i + 1 + k else List.range i
  (s.ringRead p ((i :: others).map c.ringNo)).bind fun s vs =>
    (s.ringWrite p ((others.zip (vs.drop 1)).map fun x => (c.ringNo (if near then x.1 + 1023 else x.1 + 1), x.2))).bind fun s _ =>
      .ok (s.modCore p fun c => { c with spill := c.spill.eraseIdx i, spillLo := if near then c.spillLo else (c.spillLo + 1) % 1024 })
        (frameOf (vs.headD 0) rt none)

/-- Numbers of the ring's STANDING frames, the far end first. -/
def Core.ringStands (c : Core) : List Nat := (List.range c.spill.length).filter fun i => c.spill[i]?.any fun x => x.2.isNone

/-- Takes the near-end STANDING frame; none when there is none. -/
def State.takeNear (s : State) (p : Nat) : Ring (Option Frame) :=
  let c := s.core p
  match c.deque.find? fun f => f.pend.isNone with
  | some f => .ok (s.setCore p { c with deque := c.deque.erase f }) (some f)
  | none => match c.ringStands.getLast? with
    | some i => (s.ringTake p i true).bind fun s f => .ok s (some f)
    | none => .ok s none

/-- The first frame of the ring, among some, that satisfies `P`. -/
def State.ringFind (s : State) (p : Nat) (P : Frame → Bool) : List Nat → Ring (Option Nat)
  | [] => .ok s none
  | i :: is => (s.ringRead p [(s.core p).ringNo i]).bind fun s v =>
      if P (frameOf (v.headD 0) 0 none) then .ok s (some i) else s.ringFind p P is

/-- Takes the far-end STANDING frame that satisfies `P`; none when there is none. -/
def State.takeFar (s : State) (p : Nat) (P : Frame → Bool) : Ring (Option Frame) :=
  (s.ringFind p P (s.core p).ringStands).bind fun s i =>
    match i with
    | some i => (s.ringTake p i false).bind fun s f => .ok s (some f)
    | none =>
      let c := s.core p
      match c.deque.reverse.find? fun f => f.pend.isNone && P f with
      | some f => .ok (s.setCore p { c with deque := (c.deque.reverse.erase f).reverse }) (some f)
      | none => .ok s none

/-- What becomes of an access that the Kennel makes for a core: a fault poisons the frame. -/
def State.ringStep {α : Type} (s : State) (p : Nat) (x : Ring α) (f : State → α → State) : State :=
  match x with
  | .ok s v => f s v
  | .wait s => s
  | .fault s' => match (s.core p).slot with
    | some k => s'.poisonFrame k (dieOf p)
    | none => s'

/-! ### spawn and exit (R356, R363, R367) -/

/-- The child's join pair breaks the block's layout, or check 3 of R146. -/
def joinBad (levels : Nat) (jn jc : Word) : Bool :=
  if jn = 0 then jc != 0
  else bits jn 63 60 != 4 || bits jn 59 56 + 1 != levels || bits jc 63 63 == 1 || ctlOp jc != 0 || ctlSize jc != 0 ||
    eventBad levels jn jc

/-- The die field and STRICT of AFF break its layout. -/
def affBad (aff : Word) : Bool :=
  bits aff 62 7 != 0 || (72 ≤ bits aff 6 0 && bits aff 6 0 != 127) || (bits aff 63 63 == 1 && bits aff 6 0 == 127)

/-- Logical die of a core. -/
def State.logDie (s : State) (p : Nat) : Nat :=
  match s.logical p with
  | some l => l / 256
  | none => dieOf p

/-- SPAWN's effect. The thread does not wait for a frame that goes to the ring: it goes when its translation has come. -/
def spawnBody (a b : GReg) (s : State) : Ends :=
  let blk := s.gr a
  let tgt := s.gr b
  let p := s.cur.core
  let t := s.cur.thr
  let c := s.myCore
  let me := s.me
  let inside : Bool := blk.toNat + 64 ≤ c.dirLimit
  let s := if inside then s.land p t blk.toNat 64 else s
  let c := s.myCore
  let w (i : Nat) : Word := BitVec.ofNat 64 (c.dread (blk.toNat + 8 * i) 8)
  if blk.toNat % 64 ≠ 0 then .trap (.align blk)
  else if tgt.toNat % 4 ≠ 0 then .trap (.align tgt)
  else if inside && (w 0).toNat % 4 != 0 then .trap (.align (w 0))
  else if !inside then .trap (.access blk)
  else if affBad (w 3) then .trap (.access 0 82)
  else if joinBad (s.levelsOf p me.slot) (w 1) (w 2) then .trap .event
  else if s.framesFull p then .trap (.access 0 80)
  else
    let f : Frame := { cpc := w 0, jn := me.jn, jc := me.jc, aff := w 3, g := [w 4, w 5, w 6, w 7], rt := me.rt,
                       pend := if c.settled t then none else some (p, t, c.jord) }
    if f.strict && f.die ≠ s.logDie p then .wait s (.load { kind := .strict f (w 1) (w 2) tgt })
    else match (s.modMe fun th => { th with jn := w 1, jc := w 2 }).pushNear p f with
      | .ok s _ | .wait s => .jump s (tgt.setWidth 56)
      | .fault s => .gone (s.poisonFrame me.slot (dieOf p))

/-- SPAWN (R367). -/
def execSpawn (a b : GReg) (s : State) : Out := .next (s.issue [a, b] [] (spawnBody a b))

/-- EXIT (R24, R356, R363): the thread goes to FREE; a task's join offer leaves once its posted stores are settled. -/
def execExit (s : State) : Out :=
  .next (s.issue [] [] fun s =>
    let p := s.cur.core
    let t := s.cur.thr
    let me := s.me
    let s := if me.jn = 0 then s
      else s.modCore p fun c => { c with joins := c.joins ++
        [{ thr := t, ord := c.jord, key := s.evKey p t me.jn, ctl := me.jc, slot := me.slot, gtn := s.gtn p t, rt := me.rt }] }
    .gone ((s.leave p t).flushJoins p))

/-- STRICT_FRAME_ANSWER (R367): the Kennel of the named die accepts or refuses the frame. -/
def execStrictFrameAnswer (core thr : Nat) (s : State) : Out :=
  .next (match (s.thread core thr).wait with
    | .load r => match r.kind with
      | .strict f jn jc tgt =>
        let word := (s.thread core thr).latch.word
        match s.kernelOf core thr with
        | none => if isSetter core then s.trapThread core thr word (.access 0 81) else s
        | some k =>
          if !(k.teams.any fun e => e.2.st == .placed && e.2.die == f.die) then s.trapThread core thr word (.access 0 81)
          else
            let ls := s.live ((k.groups.map Prod.snd).filter fun l => l / 256 == f.die)
            match ls with
            | [] => s.trapThread core thr word (.access 0 81)
            | l :: ls =>
              let q := (s.phys (ls.foldl min l)).getD 0
              if (s.core q).moveTo.isSome || (s.core core).moveTo.isSome then s
              else if s.framesFull q then s.trapThread core thr word (.access 0 80)
              else s.ringStep q (s.pushFar q f) fun s _ =>
                (s.complete core thr).modThread core thr fun th =>
                  { th with jn := jn, jc := jc, regs := { th.regs with pc := tgt.setWidth 56 } }
      | _ => s
    | _ => s)

/-- A frame's RT once what it waited for is settled (R364); none while it is not. -/
def State.standingRt (s : State) (rt : Word) (pend : Option (Nat × Nat × Nat)) : Option Word :=
  match pend with
  | some (p, t, o) =>
    if (s.core p).settledBefore t o then some (if t < 16 then maxW rt (s.thread p t).rt else rt) else none
  | none => none

/-- FRAME_STANDING (R364): frame `j` of the deque, the near end first, has its RT and STANDS; frame `j - 64` of the ring, the far end first,
where `j` is 64 or more; and frame `j - 1024` of the deque, where `j` is 1,088 or more. Frames beyond 64 go to the ring first. -/
def execFrameStanding (core j : Nat) (s : State) : Out :=
  .next (s.ringStep core (s.spillMore core) fun s _ =>
    let c := s.core core
    let i := if j < 64 then j else j - 1024
    if j < 64 || 1088 ≤ j then
      match c.deque[i]? with
      | some f => match s.standingRt f.rt f.pend with
        | some rt => s.setCore core { c with deque := c.deque.set i { f with rt := rt, pend := none } }
        | none => s
      | none => s
    else match c.spill[j - 64]? with
      | some x => match s.standingRt x.1 x.2 with
        | some rt => s.setCore core { c with spill := c.spill.set (j - 64) (rt, none) }
        | none => s
      | none => s)

/-! ### Dispatch and steals (R365, R366) -/

/-- A frame starts on a FREE thread context (R365). The position of a context beyond its core group's threads is taken by the
same formula (log 34). -/
def Kernel.task (k : Kernel) (slot g t : Nat) (f : Frame) (old : Thread) : Thread :=
  let th := k.placed slot (k.firstFlat g + t) old
  let regs := { th.regs with pc := wordPc f.cpc.toNat }
  let set (v : Vector Word 32) (i : Fin 32) (x : Word) : Vector Word 32 := v.set i x
  { th with jn := f.jn, jc := f.jc, crs := { th.crs with ptime := maxW k.at' f.rt },
            regs := { regs with g := set (set (set (set regs.g 1 (f.g.getD 0 0)) 2 (f.g.getD 1 0)) 3 (f.g.getD 2 0)) 4 (f.g.getD 3 0) } }

/-- The lowest FREE thread context of a core. -/
def Core.freeThread (c : Core) : Option Nat := (List.range 16).find? fun t => (c.thread t).st == .free

/-- Starts a frame on a core of its kernel. It is no member of any barrier (R174); the placement renews the region table's copy (R22, R286). DESIGN
CHOICE (log 63): it is no first placement of R64 and R204, and leaves counters and drain memory. -/
def State.startTask (s : State) (k : Kernel) (slot p t : Nat) (f : Frame) : State :=
  let s := s.modCore p fun c => { c with ca := { c.ca with heap := [] } }
  s.setThread p t (k.task slot (s.core p).kix t f (s.thread p t))

/-- The RUNNING kernel that a core works for. -/
def State.runningKernel (s : State) (p : Nat) : Option (Nat × Kernel) :=
  match (s.core p).slot with
  | some slot => match s.kernel slot with
    | some k => if k.st = .running && (s.core p).moveTo.isNone && !(s.core p).retired then some (slot, k) else none
    | none => none
  | none => none

/-- FRAME_DISPATCH (R365). A firmware core's own frames start there too, with every register of R354 zero. -/
def execFrameDispatch (core : Nat) (s : State) : Out :=
  .next (match (s.core core).freeThread with
    | none => s
    | some t =>
      if isSetter core then
        s.ringStep core (s.takeNear core) fun s f => match f with
          | some f => s.setThread core t (({ st := .admitted, ctx := 64, launch := 0 } : Kernel).task 256 0 t f (s.thread core t))
          | none => s
      else match s.runningKernel core with
        | none => s
        | some (slot, k) => s.ringStep core (s.takeNear core) fun s f => match f with
          | some f => s.startTask k slot core t f
          | none => s)

/-- A STANDING frame is on a core. -/
def Core.farStands (c : Core) : Bool := !c.ringStands.isEmpty || c.deque.any fun f => f.pend.isNone

/-- AFF.DIE of the STANDING frame nearest to a core's far end; 127 for none. -/
def State.farDie (s : State) (p : Nat) : Nat :=
  let c := s.core p
  match c.ringStands with
  | i :: _ => match s.ringRead p [c.ringNo i] with
    | .ok _ v => (frameOf (v.headD 0) 0 none).die
    | _ => 127
  | [] => match c.deque.reverse.find? fun f => f.pend.isNone with
    | some f => f.die
    | none => 127

/-- Two dies' sites share a neighbouring stack. -/
def shareStack (d e : Nat) : Bool := (stacksNear (siteOfDie d)).any fun k => (stacksNear (siteOfDie e)).contains k

/-- STEAL_REQUEST (R366): an idle core's Kennel takes the STANDING frame nearest to the far end of core `victim`: of its die, one whose AFF.DIE
names the die first; of a die that shares a stack with it, and passing by STRICT frames, when its own die holds none that is STANDING. -/
def execStealRequest (core victim : Nat) (s : State) : Out :=
  .next (match s.runningKernel core, (s.core core).freeThread with
    | some (slot, k), some t =>
      let d := s.logDie core
      let v := s.logDie victim
      let mine := (s.coresOf slot).filter fun p => s.logDie p == d && (s.core p).farStands
      let idle := (s.core core).deque.isEmpty && (s.core core).spill.isEmpty
      let here : Bool := v == d && mine.contains victim && (s.farDie victim == d || mine.all fun p => s.farDie p != d)
      let there : Bool := v != d && mine.isEmpty && shareStack d v && (s.core victim).slot == some slot && (s.core victim).farStands
      if victim ≠ core && idle && (here || there) && (s.core victim).moveTo.isNone then
        s.ringStep victim (s.takeFar victim fun f => v == d || !f.strict) fun s f => match f with
          | some f => s.startTask k slot core t f
          | none => s
      else s
    | _, _ => s)

end Sys2Proof.Machine
end

