-- ==== Sys2Proof/Machine/Context.lean ====
section
/-!
DEFINITION. Contexts, fault rings, pre-emption, debugger commands and machine checks (R22, R32, R33, R323-R325, R328,
R333-R338, R404).
-/

namespace Sys2Proof.Machine

/-! ### Descriptors (R323-R325) -/

/-- A zero field of a descriptor's word is nonzero: bits of words 0, 1 and 8, and the words that hold nothing. -/
def descBad (n : Nat) (w : Word) : Bool :=
  match n with
  | 0 => bits w 62 38 != 0
  | 1 => bits w 63 43 != 0
  | 7 => w != 0
  | 8 => bits w 63 48 != 0
  | n => 9 ≤ n && w != 0

/-- CONTEXT_ENABLE (R324): an ABSENT context whose zero fields are zero becomes RESIDENT. -/
def execContextEnable (ctx : Nat) (s : State) : Out :=
  .next (
    let x := s.ctx ctx
    if ctx < 64 && x.st == .absent && (List.range 16).all fun n => !descBad n (tget 0 x.desc n) then
      s.setCtx ctx { x with st := .resident, desc := tset x.desc 0 (setBits (tget 0 x.desc 0) 63 63 1) }
    else s)

/-- CONTEXT_DISABLE (R324). -/
def execContextDisable (ctx : Nat) (s : State) : Out :=
  .next (
    let x := s.ctx ctx
    if x.st = .resident then
      s.setCtx ctx { x with st := .closing, desc := tset x.desc 0 (setBits (tget 0 x.desc 0) 63 63 0) }
    else s)

/-- Copies and relocations of a context are still about. -/
def State.ctxEngines (s : State) (ctx : Nat) : Bool :=
  (s.cores.any fun e => e.2.journal.any fun j => j.2.busy && match j.2.kind with
      | .copy r => r.ctx == ctx
      | .htag r => r.ctx == ctx
      | .launch r => r.ctx == ctx
      | _ => false) ||
    (s.retrs.any fun e => e.2.queue.any (fun r => r.ctx == ctx) || e.2.active.any fun r => r.req.ctx == ctx) ||
    s.stks.any fun e => e.2.collie.queue.any (fun r => r.ctx == ctx) || match e.2.collie.cur with
      | some (r, _, _) => r.ctx == ctx
      | none => false

/-- Fault records of a context are on their way to a service's event, wait there for a party to receive them, or are being delivered
(R328). -/
def State.recordsOpen (s : State) (ctx : Nat) : Bool :=
  let mine (o : Offer) : Bool := (o.fault.map Prod.fst) == some ctx
  (s.bugles.any fun e => e.2.offers.any mine || e.2.evs.any fun x => match x.st with
    | .occurring ps _ _ _ => ps.any mine
    | _ => false) || s.net.any fun m => match m.body with
    | .offer o => mine o
    | _ => false

/-- CONTEXT_CLOSED (R324): its kernels and engine work are over and its records delivered; its TLB entries go. `launch` requests
that CLOSING has left unadmitted go with it. -/
def execContextClosed (ctx : Nat) (s : State) : Out :=
  .next (
    let x := s.ctx ctx
    let adm : Bool := match s.panel.adm with
      | some (_, _, c, _) => c == ctx
      | none => false
    if x.st = .closing && s.kernels.all (fun e => e.2.ctx != ctx) && !s.ctxEngines ctx && x.recs.isEmpty && !s.recordsOpen ctx && !adm then
      let s := s.setCtx ctx { x with st := .absent }
      let s := { s with launches := s.launches.filter fun r => r.ctx != ctx
                        panel := { s.panel with epochs := s.panel.epochs.filter fun e => e.1 / 256 != ctx
                                                olds := s.panel.olds.filter fun x => x.1 != ctx } }
      s.dropTlb fun e => e.ctx == ctx
    else s)

/-- CONTEXT_DESCRIPTOR_WRITE (R323, R325): an 8-byte write at byte `off`. V changes only by CONTEXT_ENABLE and
CONTEXT_DISABLE. While V = 1, SEED stays. -/
def execContextDescriptorWrite (ctx off : Nat) (val : Word) (s : State) : Out :=
  .next (
    let x := s.ctx ctx
    let n := off / 8
    let val := if n = 0 then setBits val 63 63 (bits (tget 0 x.desc 0) 63 63) else val
    if 64 ≤ ctx || 128 ≤ off || off % 8 ≠ 0 || descBad n val then s
    else if x.st = .resident && n = 1 then s
    else s.setCtx ctx { x with desc := tset x.desc n val })

/-- FAULT_RING_WRITE (R328): the oldest waiting record, once the host has consumed enough. -/
def execFaultRingWrite (ctx : Nat) (s : State) : Out :=
  .next (
    let x := s.ctx ctx
    let f := (tget 0 x.desc 6).toNat
    match x.recs with
    | [] => s
    | r :: rest =>
      if 64 ≤ ctx || !s.hostUp || mread s.host (f + 8200) 8 + 256 ≤ x.recN then s
      else
        let s := s.hostWrite (f + 32 * (x.recN % 256)) 32 r.data
        let s := s.hostWrite (f + 8192) 8 (x.recN + 1)
        (s.setCtx ctx { x with recs := rest, recN := x.recN + 1 }).msi 1)

/-! ### Debugger commands (R32, R404) -/

def State.setStopcmd (s : State) (op gtn : Nat) : State :=
  { s with panel := { s.panel with stopcmd := BitVec.ofNat 64 (op * 2 ^ 62 + gtn % 2 ^ 19) } }

/-- A wait in which a debug stop takes effect at once (R32, R177): the held-store wait also while a retry is on its way. -/
def Wait.stopsNow : Wait → Bool
  | .sync _ _ _ | .held _ | .heldPosted _ | .barw _ _ | .token _ | .chainIn _ | .chainOut _ | .journal => true
  | .load r => match r.kind with
    | .lookup (.held _) => true
    | _ => false
  | _ => false

/-- A debugger command acts on a thread (R24, R32): 0 stop, 1 resume, otherwise kill. -/
def State.debugThread (s : State) (op p t : Nat) : State :=
  let th := s.thread p t
  match op with
  | 0 => match th.st with
    | .inRot => s.setThread p t { th with stopReq := th.stopReq.or (some 2) }
    | .wait => if th.wait.stopsNow then s.stop p t 2 else s.setThread p t { th with stopReq := th.stopReq.or (some 2) }
    | _ => s
  | 1 => if th.st = .stopped then s.setThread p t { th with st := th.prior } else s
  | _ => if th.st = .stopped then s.leave p t else s

/-- A STOPCMD write: the command goes to the thread that the number names; while its core is being moved, it is held at the forwarding entry
(R334, R404). -/
def State.stopCommand (s : State) (op gtn : Nat) : State :=
  let s := s.setStopcmd op gtn
  match s.whereIs gtn with
  | none => s
  | some (p, t) =>
    if (s.core p).moveTo.isSome then { s with panel := { s.panel with held := s.panel.held ++ [(op, gtn)] } }
    else s.debugThread op p t

/-- The commands held for the threads of a core that is not moved any more, in their order. -/
def State.releaseHeld (s : State) (p : Nat) : State :=
  let mine (x : Nat × Nat) : Bool := (s.whereIs x.2).map Prod.fst == some p
  let xs := s.panel.held.filter mine
  let s := { s with panel := { s.panel with held := s.panel.held.filter fun x => !mine x } }
  xs.foldl (fun s x => match s.whereIs x.2 with
    | some (p, t) => s.debugThread x.1 p t
    | none => s) s

/-- STOPCMD_STOP (R32, R404). -/
def execStopcmdStop (gtn : Nat) (s : State) : Out := .next (s.stopCommand 0 gtn)

/-- STOPCMD_RESUME (R32, R404): the instruction before which the thread stopped issues on resume. -/
def execStopcmdResume (gtn : Nat) (s : State) : Out := .next (s.stopCommand 1 gtn)

/-- STOPCMD_KILL (R24, R404). -/
def execStopcmdKill (gtn : Nat) (s : State) : Out := .next (s.stopCommand 2 gtn)

/-! ### Pre-emption (R33, R333-R336) -/

/-- A physical core that can receive another's contexts: FREE, with a number or a spare, on a die that serves. -/
def State.canReceive (s : State) (q : Nat) : Bool :=
  let c := s.core q
  !isSetter q && c.slot.isNone && c.idle && c.moveTo.isNone && !c.retired && ((s.logical q).isSome || q % 17 == 16) &&
    ((s.die (dieOf q)).st == .early || (s.die (dieOf q)).st == .full) && s.cores.all fun e => e.2.moveTo != some q

/-- Some core of a die, or of the panel, can receive. -/
def State.anyFree (s : State) (die : Nat) : Bool :=
  (List.range setterBase).any fun q => (die == 127 || dieOf q == die) && s.canReceive q

/-- Every line of a core's stash is written back and given up. -/
def State.stashEmpty (s : State) (p : Nat) : State := (s.core p).ca.stash.foldl (fun s x => s.stashGives p x.line) s

/-- The move begins: every occupied context is FROZEN; rows of the drain unit that are not committed go (R228); the core's
caches write back and are dropped. -/
def State.freeze (s : State) (p q : Nat) (ret cmd : Bool) : State :=
  let s := s.stashEmpty p
  s.modCore p fun c =>
    { c with moveTo := some q, moveRet := ret, moveCmd := cmd,
             threads := c.threads.map fun e => (e.1, if e.2.st == .free then e.2 else { e.2 with st := .frozen, prior2 := e.2.st }),
             mx := { c.mx with drain := {}, ops := c.mx.ops.map fun o => { o with unit := false, got := [] } },
             ca := { c.ca with l1 := [], stash := [], tlb := [], pref := [] } }

/-- Replaces a core's number in what is held elsewhere (R334): messages and misses under way, acknowledgements, held writes, task
frames. -/
def State.renumber (s : State) (p q : Nat) : State :=
  let n (x : Nat) : Nat := if x = p then q else x
  let body (b : Body) : Body := match b with
    | .port off w data src core entry lane => .port off w data src (n core) entry lane
    | .copyReq r core entry => .copyReq r (n core) entry
    | .relReq r core entry => .relReq r (n core) entry
    | b => b
  let frame (x : Word × Option (Nat × Nat × Nat)) : Word × Option (Nat × Nat × Nat) :=
    (x.1, x.2.map fun y => (n y.1, y.2))
  let miss (m : Miss) : Miss := match m.who with
    | .thread c t => { m with who := .thread (n c) t, cluster := if c = p then clusterOf q else m.cluster }
    | .array c t o => { m with who := .array (n c) t o, cluster := if c = p then clusterOf q else m.cluster }
    | .kennel k =>
      if k = 2 ^ 40 + p then { m with who := .kennel (2 ^ 40 + q) }
      else if 2 ^ 44 + 16 * p ≤ k && k < 2 ^ 44 + 16 * (p + 1) then { m with who := htagWho q (k % 16) }
      else m
    | _ => m
  let s := s.modFrames frame
  { s with
    net := s.net.map fun m => { m with body := body m.body }
    misses := s.misses.map miss
    facks := s.facks.map fun f => { f with core := n f.core }
    migs := s.migs.map fun m => { m with core := n m.core, held := m.held.map fun h => { h with core := n h.core } } }

/-- The number under which a core's committed drain stores go on from `p`, for what is held at a LOCKED page (R318). -/
def Core.leftOrd (c : Core) (ord : Nat) : Option Nat :=
  let ops := c.mx.ops.filter fun o => !o.stores.isEmpty && o.site.isNone
  (ops.findIdx? fun o => o.ord == ord).map fun i => c.mx.ord + i

/-- Drain stores of a core that are held at a LOCKED page follow their operation's number. -/
def State.reholdDrain (s : State) (p : Nat) : State :=
  { s with migs := s.migs.map fun m => { m with held := m.held.map fun h =>
      match h.entry with
      | some i => if h.core = p && 16 ≤ i then
          (match (s.core p).leftOrd (i - 16) with
            | some o => { h with entry := some (16 + o) }
            | none => h)
        else h
      | none => h } }

/-- A thread on its new core holds the state it held before it froze. -/
def Thread.thaw (th : Thread) : Thread := if th.st = .frozen then { th with st := th.prior2 } else th

/-- A frame that a waiting STRICT spawn carries names its own core. -/
def Thread.renumber (p q : Nat) (th : Thread) : Thread :=
  match th.wait with
  | .load r => match r.kind with
    | .strict f jn jc tgt =>
      let f := { f with pend := f.pend.map fun y => (if y.1 = p then q else y.1, y.2) }
      { th with wait := .load { r with kind := .strict f jn jc tgt } }
    | _ => th
  | _ => th

/-- What is in flight when a core's contexts leave physical core `p` goes on from there: posted stores (R250), and the stores of drained rows
(R228), which no longer hold up the rows to come. -/
def Core.leftAt (c : Core) (p : Nat) : Core :=
  let ops := c.mx.ops.filter fun o => !o.stores.isEmpty && o.site.isNone
  let left := (List.range ops.length).zip ops |>.map fun x =>
    { x.2 with st := .complete, held := false, unit := false, inDrain := false, drn := none, fault := none, ord := c.mx.ord + x.1, site := some p }
  { c with
    journal := c.journal.map fun e => (e.1, if e.2.busy && e.2.isStore && e.2.site.isNone then { e.2 with site := some p } else e.2)
    mx := { c.mx with ops := (c.mx.ops.map fun o => if o.site.isNone then { o with stores := [] } else o) ++ left
                      ord := c.mx.ord + left.length } }

/-- A vacated core: its contexts are FREE and keep their latch sequences (R23). -/
def Core.vacated (c : Core) (ret : Bool) : Core :=
  { threads := c.threads.map fun e => (e.1, { seq := e.2.seq, cell := { seq := e.2.cell.seq, base := e.2.cell.seq } }), ptr := c.ptr, cyc := c.cyc,
    retired := c.retired || ret }

/-- A command has ended (R336): BUSY is clear and vector 0 is raised. -/
def State.cmdDone (s : State) (failed : Bool) : State :=
  let core := bits s.panel.precmd 14 0
  { s with panel := { s.panel with prestat := BitVec.ofNat 64 (failed.toNat * 2 ^ 62 + core) } }.msi 0

def State.busy (s : State) : Bool := bits s.panel.prestat 63 63 = 1

/-- No FREE core receives the contexts (R333): the threads go to FREE, the kernel is aborted with cause 19, and the context
receives a kind-18 record. The firmware's threads have neither kernel nor context. -/
def State.lostCore (s : State) (p : Nat) : State :=
  let s := s.modCore p fun c => { c with moveTo := none, moveRet := false, moveCmd := false, threads := c.threads.map fun e => (e.1, e.2.thaw) }
  let ts := ((s.core p).threads.filter fun e => e.2.st != .free).map Prod.fst
  let ctx := (s.core p).ctx
  let slot := (s.core p).slot
  let fmode := ((slot.bind s.kernel).map Kernel.fmode).getD 0
  let s := ts.foldl (fun s t => s.leave p t) s
  let s := match slot with
    | some k => s.abortKernel k 19 0 0
    | none => s
  (if isSetter p then s else s.machineRecord ctx fmode ts.length (dieOf p)).releaseHeld p

/-- A logical number that dies leaves its leaf's latched arrivals in its place in the kernel that was placed on it (R173, R175). -/
def State.leafStands (s : State) (p l : Nat) : State :=
  match (s.core p).slot with
  | none => s
  | some slot => match s.kernel slot with
    | none => s
    | some k => s.setKernel slot { k with vacated := tset k.vacated l p }

/-- A physical core goes out of service, and its logical number is dead (R8, R336). -/
def State.retire (s : State) (p l : Nat) : State :=
  let s := s.leafStands p l
  { s.modCore p fun c => { c with retired := true } with lmap := tset s.lmap l none }

/-- Starts a command; whether it now runs. -/
def State.startCmd (s : State) (v : Word) : State × Bool :=
  let l := bits v 14 0
  let s := { s with panel := { s.panel with precmd := v, prestat := BitVec.ofNat 64 (2 ^ 63 + l) } }
  match s.phys l with
  | none => (s.cmdDone false, false)
  | some p =>
    -- the Kennel moves it already: one pre-emption at a time, the command waits (R333)
    if (s.core p).moveTo.isSome then (s, true)
    else if (s.core p).idle then ((if bits v 63 62 = 2 then s.retire p l else s).cmdDone false, false)
    else if s.anyFree (bits v 22 16) then (s, true)
    else ((s.lostCore p).cmdDone true, false)

/-- Starts the commands that wait, up to the first that runs. -/
def State.nextCmds : List Word → State → State
  | [], s => { s with panel := { s.panel with prewait := [] } }
  | v :: vs, s =>
    match s.startCmd v with
    | (s, true) => { s with panel := { s.panel with prewait := vs } }
    | (s, false) => State.nextCmds vs s

/-- The command in progress is looked at again: it may have nothing left to move, or no core to move to. -/
def State.recheckCmd (s : State) : State := State.nextCmds (s.panel.precmd :: s.panel.prewait) s

/-- A move of logical core `l` has ended: that of the command, after which the next starts, or one of the Kennel's, for which the command has
waited (R333). -/
def State.endMove (s : State) (l : Nat) (cmd failed : Bool) : State :=
  if s.busy && bits s.panel.precmd 14 0 == l then
    (if cmd then State.nextCmds s.panel.prewait (s.cmdDone failed) else s.recheckCmd)
  else s

/-- The running command names the core; its operation and die. -/
def State.cmdFor (s : State) (p : Nat) : Option Word :=
  if s.busy && s.phys (bits s.panel.precmd 14 0) == some p then some s.panel.precmd else none

/-- The running command's core has no occupied thread context any more, or no number. -/
def State.cmdIdle (s : State) : Bool :=
  s.busy && match s.phys (bits s.panel.precmd 14 0) with
    | none => true
    | some p => (s.core p).idle && (s.core p).moveTo.isNone

/-- A FREE core of a Setter core's die, to which the Kennel moves the firmware's threads (DESIGN CHOICE, log 72). -/
def State.setterTo (s : State) (p q : Nat) : Bool := s.canReceive q && dieOf q == dieOf p

/-- PREEMPTION_FREEZE (R33, R333): physical core `core` moves to the FREE physical core `dst`, by the running command, or because
its Kennel retires it; a Kennel that finds no core FREE ends it as R333 gives. A command whose core has nothing left to move, or for which no
core is FREE any more, ends. DESIGN CHOICE (log 72): a Setter core's contexts go to a FREE core of its die, which serves as that Setter core
from then on. -/
def execPreemptionFreeze (core dst : Nat) (s : State) : Out :=
  .next (
    let c := s.core core
    if s.cmdIdle then s.recheckCmd
    else if c.idle || c.moveTo.isSome then s
    else if isSetter core then
      if s.setterTo core dst then s.freeze core dst true false
      else if (List.range setterBase).any (s.setterTo core) then s
      else s.lostCore core
    else match s.logical core with
    | none => s
    | some l =>
      match s.cmdFor core with
        | some v =>
          if s.canReceive dst && (bits v 22 16 = 127 || bits v 22 16 = dieOf dst) then s.freeze core dst (bits v 63 62 == 2) true
          else if s.anyFree (bits v 22 16) then s
          else s.recheckCmd
        | none =>
          if s.canReceive dst then s.freeze core dst true false
          else if s.anyFree 127 then s
          else (s.lostCore core).retire core l)

/-- What the receiving core starts with: the contexts thawed; caches and region copies empty, since the arrival is a placement (R22, R286). -/
def Core.received (c old : Core) (p q : Nat) : Core :=
  { c.leftAt p with moveTo := none, moveRet := false, moveCmd := false, ptr := old.ptr, retired := old.retired, ca := {},
                    threads := c.threads.map fun e => (e.1, (e.2.thaw).renumber p q) }

/-- PREEMPTION_ACK (R33, R166, R180, R228, R250, R280, R334): once the copies' writes to its direct storage that are in flight have
arrived, the receiving core has the contexts and takes the number. Stores in flight complete from the vacated core. -/
def execPreemptionAck (core : Nat) (s : State) : Out :=
  .next (
    let s := if (s.core core).moveTo.isSome then s.stashEmpty core else s
    let c := s.core core
    match c.moveTo, s.logical core with
    | some q, none =>
      if isSetter core && ((s.die (dieOf q)).st == .early || (s.die (dieOf q)).st == .full) then
        let lmap := match s.logical q with
          | some f => tset s.lmap f none
          | none => s.lmap
        let s := (s.reholdDrain core).modCore q fun d => { d with retired := true }
        { s.setCore core (c.received { c with retired := false } core core) with lmap := lmap }
      else s
    | some q, some l =>
      if !((s.die (dieOf q)).st == .early || (s.die (dieOf q)).st == .full) ||
          s.net.any fun m => m.isCopyPort && m.phys == core && m.dst == .core l then s
      else
      let old := s.core q
      let former := s.logical q
      let s := s.reholdDrain core
      let s := (s.setCore q (c.received old core q)).setCore core (c.vacated c.moveRet)
      let lmap := tset s.lmap l (some q)
      let lmap := match former with
        | some f => tset lmap f (if c.moveRet then none else some core)
        | none => lmap
      let s := { s with lmap := lmap }
      ((s.renumber core q).releaseHeld q).endMove l c.moveCmd false
    | _, _ => s)

/-- PREEMPTION_STREAM_FAILURE (R333): the Kennel tries another core, or none is FREE. -/
def execPreemptionStreamFailure (core : Nat) (dst : Option Nat) (s : State) : Out :=
  .next (match (s.core core).moveTo, s.logical core with
    | some q, none =>
      match dst with
      | some d => if isSetter core && d ≠ q && s.setterTo core d then s.modCore core fun c => { c with moveTo := some d } else s
      | none => if !isSetter core || (List.range setterBase).any (fun d => d != q && s.setterTo core d) then s else s.lostCore core
    | some q, some l =>
      let cmd := (s.core core).moveCmd
      let die := if cmd then bits s.panel.precmd 22 16 else 127
      match dst with
      | some d =>
        if d ≠ q && s.canReceive d && (die == 127 || die == dieOf d) then s.modCore core fun c => { c with moveTo := some d } else s
      | none => if (List.range setterBase).any fun d => d != q && (die == 127 || dieOf d == die) && s.canReceive d then s
                else (s.lostCore core).endMove l cmd true
    | _, _ => s)

/-- Routers and networks that a chain entry crosses from a core to the one that its receiver has moved to (R335, R391). -/
def State.onwardHops (s : State) (p q : Nat) : Nat :=
  spareHop q + (if dieOf p = dieOf q then 0 else s.routers (siteOfDie (dieOf p)) (siteOfDie (dieOf q)) + 1)

/-- A chain entry goes on over more hops; other messages as they are. -/
def Body.onward (b : Body) (n : Nat) : Body :=
  match b with
  | .chain r e => .chain r { e with hops := e.hops + n }
  | b => b

/-- FORWARDING_ENTRY_ARRIVAL (R156, R334): message `k` stands at a core that no longer serves its number, or serves it still but
is FROZEN. It is held in the second case, and goes on to the core that serves the number now in the first. -/
def execForwardingEntryArrival (k : Nat) (s : State) : Out :=
  .next (match s.net[k]? with
    | some m =>
      match m.dst with
      | .core l => match s.phys l with
        | some q =>
          if m.pos = m.site && m.phys ≠ q && (s.core m.phys).moveTo.isNone then
            { s with net := s.net.set k { m with phys := q, site := siteOfDie (dieOf q), body := m.body.onward (s.onwardHops m.phys q) } }
          else s
        | none => s
      | _ => s
    | none => s)

/-- A PRECMD write that R336 ignores in full. -/
def precmdBad (op : Nat) (v : Word) : Bool :=
  bits v 63 62 != op || 18431 < bits v 14 0 || (72 ≤ bits v 22 16 && bits v 22 16 ≤ 126) || bits v 61 23 != 0 || bits v 15 15 != 0

/-- A valid command runs now, or waits while BUSY = 1 (R336). -/
def State.command (s : State) (v : Word) : State :=
  if s.busy then { s with panel := { s.panel with prewait := s.panel.prewait ++ [v] } } else State.nextCmds [v] s

/-- PRECMD_PREEMPT (R336). -/
def execPrecmdPreempt (val : Word) (s : State) : Out := .next (if precmdBad 1 val then s else s.command val)

/-- PRECMD_RETIRE (R336). -/
def execPrecmdRetire (val : Word) (s : State) : Out := .next (if precmdBad 2 val then s else s.command val)

/-! ### Machine checks (R338, R364, R368) -/

/-- The offers of an event at a home are withdrawn, and its kernels are aborted: those of its threads and engines (R338, R368), or all of
its context where no offer tells. -/
def State.eventLost (s : State) (h idx cause : Nat) : State :=
  match (s.bugle h).evs[idx]? with
  | none => s
  | some e =>
    if e.key.ctx = 64 then s
    else
      let os := (s.bugle h).of e.key
      let slots := os.filterMap fun o => match o.who with
        | .thread g _ => (s.whereIs g).map fun x => (s.thread x.1 x.2).slot
        | .engine => o.kern
      let slots := if slots.isEmpty then (s.kernels.filter fun k => k.2.ctx == e.key.ctx).map Prod.fst else slots.dedup
      let fmode := ((slots.head?.bind s.kernel).map Kernel.fmode).getD 0
      let s := s.giveUp h e
      let b := s.bugle h
      let b := { b with offers := b.offers.filter fun o => o.key != e.key }
      let b := match e.st with
        | .occurring _ _ _ _ => b
        | _ => b.gone e.key
      let s := s.setBugle h b
      let s := slots.foldl (fun s k => s.abortKernel k cause 0 0) s
      s.machineRecord e.key.ctx fmode (Config.lostCount s.tick) (h / 32)

/-- MACHINE_CHECK (R338, R364, R368, R400): an uncorrectable error in state that one context owns; or an uncorrectable mismatch of data on
their path, whose line is poisoned. -/
def execMachineCheck (err : MachErr) (s : State) : Out :=
  .next (match err with
    | .coreState p =>
      let c := s.core p
      if isSetter p || c.idle || c.moveTo.isSome then s
      else
        let ts := (c.threads.filter fun e => e.2.st != .free).map Prod.fst
        let fmode := ((c.slot.bind s.kernel).map Kernel.fmode).getD 0
        let s := ts.foldl (fun s t => s.leave p t) s
        let s := match c.slot with
          | some k => s.abortKernel k 17 0 0
          | none => s
        s.machineRecord c.ctx fmode ts.length (dieOf p)
    | .bugleStore h i => s.eventLost h i 17
    | .dequeEntry p i =>
      if i < (s.core p).deque.length + (s.core p).spill.length then
        match (s.core p).slot with
        | some k => s.poisonFrame k (dieOf p)
        | none => s
      else s
    | .joinCount h i =>
      match (s.bugle h).evs[i]? with
      | some e => if bits e.key.name 63 60 = 4 then s.eventLost h i 20 else s
      | none => s
    | .line l => if s.poison.contains l then s else { s with poison := l :: s.poison })

end Sys2Proof.Machine
end

