-- ==== Sys2Proof/Machine/Drain.lean ====
section
/-!
DEFINITION. Drain memory and programs, the drain unit's micro-ops, its rows and their commit (R204-R231).
-/

namespace Sys2Proof.Machine

/-! ### Drain control instructions (R208-R210) -/

/-- What reading a drain program from direct storage gives (R208). -/
inductive ProgR where
  | prog (ws : List (BitVec 32))
  | access (a : Word)
  | noEnd

/-- Reads words up to and including the first `end`, at most `n`. -/
def readProg (c : Core) : Nat → Nat → ProgR
  | 0, _ => .noEnd
  | n + 1, a =>
    if c.dirLimit < a + 4 then .access (w64 a)
    else
      let w := c.dread a 4
      if w = 0xFC000000 then .prog [BitVec.ofNat 32 w]
      else match readProg c n (a + 4) with
        | .prog ws => .prog (BitVec.ofNat 32 w :: ws)
        | r => r

/-- Whether a micro-op word is an `stq`. -/
def isStq (w : BitVec 32) : Bool :=
  match decodeDrain w.toNat with
  | some (.drainStq _ _) => true
  | _ => false

/-- DLOAD (R80, R208). An EARLY die refuses a program that contains `stq` (R396). -/
def execDload (p : PSlot) (a : GReg) (s : State) : Out :=
  .next (s.issue [a] [] fun s =>
    let src := s.gr a
    if src.toNat % 4 ≠ 0 then .trap (.align src)
    else match readProg s.myCore 32 src.toNat with
      | .access x => .trap (.access x)
      | .noEnd => .trap (.drain 16)
      | .prog ws =>
        if ws.all (fun w => (decodeDrain w.toNat).isSome) && !(s.early s.cur.core && ws.any isStq) then
          .done (s.setMx s.cur.core fun x => { x with slots := tset x.slots p ⟨some ws, none⟩ })
        else .trap (.drain 16))

/-- Whether a program's `ldc` and `ldr` stay inside a table window (cause 18 of R208). -/
def fitsTable (n : Nat) (ws : List (BitVec 32)) : Bool :=
  ws.all fun w => match decodeDrain w.toNat with
    | some (.drainLdc _ off) => 4 * off.toNat + 128 ≤ n
    | some (.drainLdr _ off) => 4 * off.toNat + 128 ≤ n
    | _ => true

/-- DBIND (R209). -/
def execDbind (p : PSlot) (a : GReg) (s : State) : Out :=
  .next (s.issue [a] [] fun s =>
    let x := s.gr a
    let n := bits x 12 0
    match (tget {} s.myCore.mx.slots p.val).prog with
    | none => .trap (.drain 17)
    | some ws =>
      if bits x 63 13 ≠ 0 || n % 4 ≠ 0 || 6144 < n || !fitsTable n ws then .trap (.drain 18)
      else .done (s.setMx s.cur.core fun x => { x with slots := tset x.slots p ⟨some ws, some n⟩ }))

/-- DLOAD_T (R210). -/
def execDloadT (a b : GReg) (s : State) : Out :=
  .next (s.issue [a, b] [] fun s =>
    let src := s.gr a
    let x := s.gr b
    let len := bits x 31 16
    let toff := bits x 15 0
    if src.toNat % 4 ≠ 0 then .trap (.align src)
    else if bits x 63 32 ≠ 0 || len % 4 ≠ 0 || toff % 4 ≠ 0 || len = 0 || 6144 < len || 6144 < toff + len then .trap (.drain 19)
    else if s.myCore.dirLimit < src.toNat + len then .trap (.access src)
    else .wait (s.setMx s.cur.core fun x =>
      { x with tabs := x.tabs ++ [⟨s.cur.thr, src.toNat, len, toff, x.ord, false, []⟩], ord := x.ord + 1 }) .matrix)

/-- DLOAD_T_COPY_START (R210): every older overlapping operation has left, and older copies are done. -/
def execDloadTCopyStart (core thr : Nat) (s : State) : Out :=
  .next (
    let x := (s.core core).mx
    match x.tabs.find? fun b => b.thr == thr && !b.run with
    | some b =>
      if (x.ops.any fun o => o.ord < b.ord && o.overlaps b) || x.tabs.any fun y => y.ord < b.ord then s
      else s.setMx core fun x => { x with tabs := x.tabs.map fun y => if y = b then { b with run := true } else y }
    | none => s)

/-- The 8-byte locations that a table copy reads, by address / 8. -/
def TabCopy.locs (b : TabCopy) : List Nat :=
  ((List.range (b.len / 4)).map fun i => (b.src + 4 * i) / 8).eraseDups

/-- Table memory after a copy's words from the locations `P`. -/
def TabCopy.put (b : TabCopy) (c : Core) (P : Nat → Bool) : BitVec 49152 :=
  (List.range (b.len / 4)).foldl (fun t i =>
    if P ((b.src + 4 * i) / 8) then setNat t (32 * (b.toff / 4 + i)) 32 (c.dread (b.src + 4 * i) 4) else t) c.mx.table

/-- DLOAD_T_COPY_COMPLETE (R210): the locations not yet read are read, but for those that `skip` leaves to a later step, each for itself
(R255); with the last of them the copy is done. -/
def execDloadTCopyComplete : Portion → Nat → State → Out
  | ⟨core, skip⟩, thr, s => .next (
    match (s.core core).mx.tabs.find? fun b => b.thr == thr && b.run with
    | some b =>
      let s := s.land core b.thr b.src b.len
      let now := b.locs.filter fun l => !b.done.contains l && !skip.contains l
      let s := s.setMx core fun x => { x with table := b.put (s.core core) now.contains }
      if b.locs.all fun l => b.done.contains l || now.contains l then
        (s.setMx core fun x => { x with tabs := x.tabs.erase b }).endMatrix core thr
      else s.setMx core fun x => { x with tabs := x.tabs.map fun y => if y = b then { b with done := b.done ++ now } else y }
    | none => s)

/-! ### The row in the pipe (R211-R214) -/

/-- How a micro-op ends for its row: it goes on, faults, waits for a read so that the unit stalls with it, or passes `end`. -/
inductive Micro where
  | next (s : State) (r : DRow)
  | fault (s : State) (r : DRow) (lane kind cause : Nat) (addr : Word)
  | miss (s : State) (r : DRow)
  | last (s : State) (r : DRow)

/-- The drain unit's operation. -/
def Matrix.unitOp (x : Matrix) : Option Mop := x.ops.find? fun o => o.unit

/-- Replaces a row in the pipe, found by its row index. -/
def State.setRow (s : State) (p : Nat) (r : DRow) : State :=
  s.setMx p fun x => { x with drain := { x.drain with rows := x.drain.rows.map fun y => if y.m = r.m then r else y } }

/-- A row that has passed `end` goes to the store buffer (R224). -/
def State.toBuffer (s : State) (p : Nat) (r : DRow) : State :=
  s.setMx p fun x => { x with drain := { x.drain with rows := x.drain.rows.filter (fun y => y.m != r.m), buf := x.drain.buf ++ [r] } }

/-- The drain unit goes on with the cycle in hand while some row of the pipe has not run in it (R212). -/
def State.drainOn (s : State) (p : Nat) : State :=
  { s with focus := if (s.core p).mx.drain.turn.isSome then .drain p else .sched }

/-- A lane register as the row's position sees it (R213). -/
def DRow.reg (r : DRow) (x : DReg) : BitVec 1024 :=
  (r.wr.foldl (fun acc w => if w.reg = x.val && w.pos + 3 ≤ r.pos then some w.vals else acc) none).getD
    (if x = 0 then r.d0 else 0)

/-- A lane of it. -/
def DRow.at (r : DRow) (x : DReg) (n : Nat) : Nat := (r.reg x).toNat / 2 ^ (32 * n) % 2 ^ 32

/-- A row scratch register as the position sees it (R213). -/
def DRow.scratch (r : DRow) (k : RsReg) : Nat :=
  (r.rs.foldl (fun acc w => if w.2.1 = k.val && w.1 + 6 ≤ r.pos then some w.2.2.toNat else acc) none).getD 0

/-- The hazard detector of debug mode (R214). -/
def DRow.hazard (r : DRow) (xs : List DReg) (ks : List RsReg) : Bool :=
  (xs.any fun x => r.wr.any fun w => w.reg == x.val && r.pos < w.pos + 3) ||
    ks.any fun k => r.rs.any fun w => w.2.1 == k.val && r.pos < w.1 + 6

/-- A register image from its lanes. -/
def lanes32 (f : Nat → Nat) : BitVec 1024 :=
  BitVec.ofNat 1024 ((List.range 32).foldr (fun n acc => acc * 2 ^ 32 + f n % 2 ^ 32) 0)

/-- One micro-op of the row whose turn it is: the hazard check, its effect, the next position. A fault marks the row, and the rows after it
go on (R225); a read that waits stalls the unit. -/
def micro (xs : List DReg) (ks : List RsReg) (f : State → Mop → DRow → Micro) (s : State) : Out :=
  .next (
    let p := s.cur.core
    let x := (s.core p).mx
    match x.unitOp, x.drain.turn with
    | some o, some r =>
      let stop (s : State) (r : DRow) (lane kind cause : Nat) (addr : Word) : State :=
        (s.setRow p { r with fault := some ⟨r.m, r.pos, lane, kind, cause, addr⟩ }).drainOn p
      if o.dbg && r.hazard xs ks then stop s r (o.cols.headD 0) 12 0 0
      else match f s o r with
        | .next s r => (s.setRow p { r with pos := r.pos + 1, ran := true, got := [] }).drainOn p
        | .fault s r lane kind cause addr => stop s r lane kind cause addr
        | .miss s r => { s.setRow p r with focus := .sched }
        | .last s r => (s.toBuffer p r).drainOn p
    | _, _ => { s with focus := .sched })

/-- Writes the active lanes of a lane register, counting their conditions (R63, R213). -/
def DRow.put (r : DRow) (o : Mop) (d : DReg) (f : Nat → Nat × Cnt) (s : State) : Micro :=
  let rs := o.cols.map fun n => (n, f n)
  let k := rs.foldl (fun a x => a.add x.2.2) Cnt.zero
  .next (s.counted k) { r with wr := r.wr ++ [⟨r.pos, d.val, lanes32 fun n =>
    ((rs.find? fun x => x.1 == n).map fun x => x.2.1).getD 0⟩] }

/-! ### Arithmetic micro-ops (R218) -/

def dmap1 (d a : DReg) (f : Nat → Nat × Cnt) : State → Out :=
  micro [a] [] fun s o r => r.put o d (fun n => f (r.at a n)) s
def dmap2 (d a b : DReg) (f : Nat → Nat → Nat × Cnt) : State → Out :=
  micro [a, b] [] fun s o r => r.put o d (fun n => f (r.at a n) (r.at b n)) s
def dmap3 (d a b c : DReg) (f : Nat → Nat → Nat → Nat × Cnt) : State → Out :=
  micro [a, b, c] [] fun s o r => r.put o d (fun n => f (r.at a n) (r.at b n) (r.at c n)) s

/-- DRAIN_NOP (R216). -/
def execDrainNop (s : State) : Out := micro [] [] (fun s _ r => .next s r) s
/-- DRAIN_ADD (R218). -/
def execDrainAdd (d a b : DReg) (s : State) : Out := dmap2 d a b Fmt.f32.add s
/-- DRAIN_SUB (R218). -/
def execDrainSub (d a b : DReg) (s : State) : Out := dmap2 d a b Fmt.f32.sub s
/-- DRAIN_MUL (R218). -/
def execDrainMul (d a b : DReg) (s : State) : Out := dmap2 d a b Fmt.f32.mul s
/-- DRAIN_FMA (R218). -/
def execDrainFma (d a b c : DReg) (s : State) : Out := dmap3 d a b c (Fmt.f32.fma false false) s
/-- DRAIN_MAX (R218). -/
def execDrainMax (d a b : DReg) (s : State) : Out := dmap2 d a b (Fmt.f32.maxmin true) s
/-- DRAIN_MIN (R218). -/
def execDrainMin (d a b : DReg) (s : State) : Out := dmap2 d a b (Fmt.f32.maxmin false) s
/-- DRAIN_ABS (R218). -/
def execDrainAbs (d a : DReg) (s : State) : Out := dmap1 d a (Fmt.f32.absneg true) s
/-- DRAIN_NEG (R218). -/
def execDrainNeg (d a : DReg) (s : State) : Out := dmap1 d a (Fmt.f32.absneg false) s
/-- DRAIN_CLAMP (R218). -/
def execDrainClamp (d a b c : DReg) (s : State) : Out := dmap3 d a b c Fmt.f32.clamp s
/-- DRAIN_RCP (R218). -/
def execDrainRcp (d a : DReg) (s : State) : Out := dmap1 d a Fmt.f32.rcp s
/-- DRAIN_RSQ (R218). -/
def execDrainRsq (d a : DReg) (s : State) : Out := dmap1 d a Fmt.f32.rsq s
/-- DRAIN_EXP2 (R218). -/
def execDrainExp2 (d a : DReg) (s : State) : Out := dmap1 d a Fmt.f32.exp2 s
/-- DRAIN_LOG2 (R218). -/
def execDrainLog2 (d a : DReg) (s : State) : Out := dmap1 d a Fmt.f32.log2 s
/-- DRAIN_CMP (R218). -/
def execDrainCmp (cc : VCond) (d a b : DReg) (s : State) : Out :=
  dmap2 d a b (fun x y => quiet (if FVal.cond cc (Fmt.f32.value x) (Fmt.f32.value y) then 0x3F800000 else 0)) s
/-- DRAIN_SEL (R218). -/
def execDrainSel (d a b c : DReg) (s : State) : Out :=
  dmap3 d a b c (fun x y z => quiet (if FVal.cond .ne (Fmt.f32.value z) (.fin false 0 0) then x else y)) s
/-- DRAIN_MOV (R218). -/
def execDrainMov (d a : DReg) (s : State) : Out := dmap1 d a quiet s
/-- DRAIN_LDI (R218). -/
def execDrainLdi (d : DReg) (imm : BitVec 16) (s : State) : Out :=
  micro [] [] (fun s o r => r.put o d (fun _ => quiet (Fmt.bf16.convert .f32 false imm.toNat).1) s) s
/-- DRAIN_RGET (R218). -/
def execDrainRget (d : DReg) (k : RsReg) (s : State) : Out :=
  micro [] [k] (fun s o r => r.put o d (fun _ => quiet (r.scratch k)) s) s

/-! ### Tables and source elements (R219) -/

/-- The 32-bit word at a byte of table memory. -/
def Matrix.tableWord (x : Matrix) (a : Nat) : Nat := x.table.toNat / 2 ^ (8 * a) % 2 ^ 32

/-- DRAIN_LDC (R219). -/
def execDrainLdc (d : DReg) (off : BitVec 11) (s : State) : Out :=
  micro [] [] (fun s o r => r.put o d (fun n => quiet ((s.core s.cur.core).mx.tableWord (dTab o.desc + 4 * off.toNat + 4 * n))) s) s
/-- DRAIN_LDR (R219). -/
def execDrainLdr (d : DReg) (off : BitVec 11) (s : State) : Out :=
  micro [] [] (fun s o r => r.put o d (fun _ => quiet ((s.core s.cur.core).mx.tableWord (dTab o.desc + 4 * off.toNat + 4 * r.m))) s) s

end Sys2Proof.Machine

namespace Sys2Proof

/-- Bytes of an element (R217). -/
def DTy.es : DTy → Nat
  | .f32 => 4
  | .bf16 | .f16 => 2
  | .e4m3 | .e5m2 | .i8 => 1

def DTy.fmt : DTy → Option Machine.Fmt
  | .f32 => some .f32
  | .bf16 => some .bf16
  | .f16 => some .f16
  | .e4m3 => some .e4m3
  | .e5m2 => some .e5m2
  | .i8 => none

/-- An element of the type converted exactly to f32 (R219). -/
def DTy.widen (t : DTy) (x : Nat) : Nat × Machine.Cnt :=
  match t.fmt with
  | some f => f.convert .f32 false x
  | none => Machine.Fmt.f32.ofInt ((Machine.IFmt.mk 8 true).value x)

/-- An f32 converted to the type; f32 goes unchanged (R221). -/
def DTy.narrow (t : DTy) (x : Nat) : Nat × Machine.Cnt :=
  match t with
  | .f32 => (x, Machine.Cnt.zero)
  | .i8 => Machine.Fmt.f32.toInt ⟨8, true⟩ false x
  | _ => match t.fmt with
    | some f => Machine.Fmt.f32.convert f false x
    | none => (x, Machine.Cnt.zero)

end Sys2Proof

namespace Sys2Proof.Machine

/-- The first checks of R225 on an address: ACCESS when it is none or lies at or beyond the direct limit, then ALIGN. -/
def State.drainCheck (s : State) (p : Nat) (va : Word) (al : Nat) : Option Trap :=
  match eaKind va with
  | .bad => some (.access va)
  | .direct =>
    if (s.core p).dirLimit ≤ va.toNat then some (.access va) else if va.toNat % al ≠ 0 then some (.align va) else none
  | .virt => if va.toNat % al ≠ 0 then some (.align va) else none

/-- One lane of an `lds`: the checks of its address, then the read of its location; its fault counts once every lower lane's
location has been read (R225). -/
def ldsLane (p : Nat) (o : Mop) (es : Nat) (leave : List Nat) (x : Piece) (lane : Nat × Word) : Piece :=
  if x.trap.isSome then x
  else match x.s.drainCheck p lane.2 es with
  | some tr => if x.left then x else { x with trap := some (lane.1, tr) }
  | none => x.read p o.who o.ord leave lane.1 (locKey 0 lane.2) lane.2

/-- The source element of lane `n` in row `m` (R219). -/
def Mop.source (o : Mop) (es m n : Nat) : Word :=
  w64 (blk o.desc 48 8) + w64 ((o.origin.1 + m) * blk o.desc 56 4) + w64 ((o.origin.2 + n) * es)

/-- DRAIN_LDS (R219): each location of the row is read for itself, but for those the cycle leaves to a later read. -/
def execDrainLds (d : DReg) (t : DTy) (s : State) : Out :=
  micro [] [] (fun s o r =>
    let p := s.cur.core
    let ea := o.source t.es r.m
    let x := (o.cols.map fun n => (n, ea n)).foldl (ldsLane p o t.es (s.core p).mx.drain.leave) ({ s := s, got := r.got } : Piece)
    match x.trap with
    | some (n, tr) => .fault x.s r n tr.kind tr.cause tr.addr
    | none =>
      if x.left then .miss x.s { r with got := x.got }
      else r.put o d (fun n => t.widen (locElem x.got 0 t.es (ea n))) x.s) s

/-! ### Reductions (R220) -/

/-- A row reduction into a scratch register by the tree of R130. -/
def rred (k : RsReg) (a : DReg) (f : Nat → Nat → Nat × Cnt) (e : Nat) (s : State) : Out :=
  micro [a] [] (fun s o r =>
    let v := tree f 5 ((List.range 32).map fun n => if o.colOn n then r.at a n else e)
    .next (s.counted v.2) { r with rs := r.rs ++ [(r.pos, k.val, BitVec.ofNat 32 v.1)] }) s

/-- DRAIN_RRED_SUM (R220). -/
def execDrainRredSum (k : RsReg) (a : DReg) (s : State) : Out := rred k a Fmt.f32.add 0x80000000 s
/-- DRAIN_RRED_MAX (R220). -/
def execDrainRredMax (k : RsReg) (a : DReg) (s : State) : Out := rred k a (Fmt.f32.maxmin true) 0xFF800000 s

/-! ### Stores (R221-R223) -/

/-- Where a drain store lands: a place, a wait for its translation, or a fault (R223, R225). -/
inductive StoreAt where
  | ok (pl : Place)
  | miss (s : State)
  | trap (s : State) (t : Trap)

def State.drainPlace (s : State) (p : Nat) (o : Mop) (va : Word) (w : Nat) : StoreAt :=
  match s.drainCheck p va w with
  | some tr => .trap s tr
  | none =>
    match trUnit (s.core p).dirLimit (s.tlb1 p) needEngW va 1 with
    | .ok pl => .ok pl
    | .trap tr => .trap s tr
    | .miss => match s.engMiss p o.who o.ord va 2 with
      | .trap s tr => .trap s tr
      | .miss s | .data s _ _ => .miss s

/-- A row's stores translated in order: their units so far, whether some translation is still to come, and the first fault with its store,
which counts only when every store before it is translated (R224, R225). -/
structure Placed where
  s    : State
  els  : List Elem := []
  left : Bool := false
  trap : Option (DStore × Trap) := none

def Placed.store (p m : Nat) (o : Mop) (x : Placed) (d : DStore) : Placed :=
  if x.trap.isSome then x
  else match x.s.drainPlace p o d.va d.w with
  | .ok pl => { x with els := x.els ++ [⟨m, d.va, d.w, d.data, pl⟩] }
  | .miss s => { x with s := s, left := true }
  | .trap s tr => if x.left then x else { x with s := s, trap := some (d, tr) }

def placeStores (s : State) (p m : Nat) (o : Mop) (ds : List DStore) : Placed := ds.foldl (Placed.store p m o) { s := s }

/-- Puts stores into the row's buffer entry and asks for their translations (R224); the row goes on without them. A fault known now stops it
at the store that meets it, with those before it kept. DESIGN CHOICE (log 69; R63 and R225 do not say): a micro-op that stops so counts none of
its lanes' conditions, while one whose fault comes from a later translation has counted all of them. -/
def DRow.store (r : DRow) (o : Mop) (ds : List DStore) (k : Cnt) (s : State) : Micro :=
  let p := s.cur.core
  let ok := ds.takeWhile fun d => (s.drainCheck p d.va d.w).isNone
  let r := { r with out := r.out ++ ok }
  let x := placeStores s p r.m o r.out
  let s' := if x.trap.isSome then s else x.s
  match (ds.drop ok.length).head?.bind fun d => (s.drainCheck p d.va d.w).map fun tr => (d, tr) with
  | some (d, tr) => .fault s' r d.lane tr.kind tr.cause tr.addr
  | none => .next (s'.counted k) r

/-- Output row address (R192). -/
def Mop.outRow (o : Mop) (m : Nat) : Word := w64 (blk o.desc 16 8) + w64 ((o.origin.1 + m) * blk o.desc 32 4)

/-- DRAIN_ST (R221). -/
def execDrainSt (a : DReg) (t : DTy) (s : State) : Out :=
  micro [a] [] (fun s o r =>
    let vs := o.cols.map fun n => (n, t.narrow (r.at a n))
    r.store o (vs.map fun x => ⟨r.pos, x.1, o.outRow r.m + w64 ((o.origin.2 + x.1) * t.es), t.es, x.2.1⟩)
      (vs.foldl (fun k x => k.add x.2.2) Cnt.zero) s) s

/-- DRAIN_STQ (R222): the block's 17 bytes need no alignment. A fault of the block names the lowest active lane (DEDUCED, log
43). -/
def execDrainStq (a : DReg) (kind : Fin 4) (s : State) : Out :=
  micro [a] [] (fun s o r =>
    let vs := (List.range 32).map fun n => if o.colOn n then Fmt.f32.value (r.at a n) else .fin false 0 0
    let b := q4Pack kind vs
    let base := o.outRow r.m + w64 (17 * (o.origin.2 / 32))
    r.store o ((List.range 17).map fun i => ⟨r.pos, o.cols.headD 0, base + w64 i, 1, b.1 / 256 ^ i % 256⟩) b.2 s) s

/-- DRAIN_END (R212). -/
def execDrainEnd (s : State) : Out := micro [] [] (fun s _ r => .last s r) s

/-! ### Rows, commit and faults (R185, R212, R224-R229) -/

/-- DRAIN_GRANT (R185): the operation that first asked for the drain unit takes it. -/
def execDrainGrant (core : Nat) (s : State) : Out :=
  .next (
    let x := (s.core core).mx
    let asks := x.ops.filter fun o => !o.unit && o.drn.isSome && (o.st == .draining || (o.st == .queued && o.inDrain))
    let first := asks.find? fun o => asks.all fun y => o.drn.getD 0 ≤ y.drn.getD 0
    match first with
    | some o =>
      if (s.core core).moveTo.isSome || x.unitOp.isSome || x.tableBusy o then s
      else
        let o := { o with st := .draining, unit := true }
        ((s.setMx core fun x => x.setOp o).putMprog core o 1 3).putDprog core o 1
    | none => s)

/-- A bank's row as f32 lanes (R211): an i32 bank is converted, which counts nothing. -/
def Mop.rowLanes (o : Mop) (bank : BitVec 32768) (m : Nat) : BitVec 1024 :=
  lanes32 fun n =>
    let x := bankAt bank m n
    if o.fa = 4 || o.fa = 5 then (Fmt.f32.ofInt ((IFmt.mk 32 true).value x)).1 else x

/-- DRAIN_ROW_ADMIT (R212, R215): a cycle of the drain unit begins, or goes on after a stall; the next active row enters position 0
when `enters`. `leave` names source locations that this cycle's `lds` leaves to a later read. While the store buffer holds four rows the unit
stands still. -/
def execDrainRowAdmit : Admission → State → Out
  | ⟨core, enters, leave⟩, s => .next (
    let x := (s.core core).mx
    match x.unitOp with
    | none => s
    | some o =>
      if (s.core core).moveTo.isSome || 4 ≤ x.drain.buf.length then s
      else if x.drain.turn.isSome then
        { s.setMx core (fun x => { x with drain := { x.drain with leave := leave } }) with focus := .drain core }
      else
        let m := o.rowFrom ((x.drain.rows ++ x.drain.buf).foldl (fun a r => max a (r.m + 1)) o.next)
        let fresh : List DRow := if enters && m < 32 then [{ m := m, d0 := o.rowLanes (x.bank o.bank) m }] else []
        let rows := x.drain.rows.map (fun r => { r with ran := false }) ++ fresh
        (s.setMx core fun x => { x with drain := { x.drain with rows := rows, leave := leave } }).drainOn core)

/-- DRAIN_ROW_COMMIT (R224): once every earlier row is committed and its addresses are translated, a buffered row's stores are released
together, and NEXT passes it. -/
def execDrainRowCommit (core : Nat) (s : State) : Out :=
  .next (
    let x := (s.core core).mx
    match x.unitOp, x.drain.buf with
    | some o, r :: rest =>
      if (s.core core).moveTo.isSome || r.fault.isSome || r.m ≠ o.next then s
      else
        let x := placeStores s core r.m o r.out
        match x.trap with
        | some (d, tr) =>
          let r := { r with fault := some ⟨r.m, d.pos, d.lane, tr.kind, tr.cause, tr.addr⟩ }
          x.s.setMx core fun x => { x with drain := { x.drain with buf := r :: rest } }
        | none =>
          if x.left then x.s
          else
            let s := x.s.storeDirect core o.who x.els
            let far := x.els.filter fun e => e.line.isSome
            let s := far.foldl (fun s e => match e.line with
              | some l => s.l1Drop core l
              | none => s) s
            let o := { o with next := o.rowFrom (r.m + 1), stores := o.stores ++ far }
            (s.setMx core fun x => { x.setOp o with drain := { x.drain with buf := rest } }).putDprog core o 1
    | _, _ => s)

/-- DRAIN_FAULT_REPORT (R225, R226): every lower row is committed, and the faulted row's earlier stores are translated or give the fault
instead; the row and all after it are discarded and the operation parks. -/
def execDrainFaultReport (core : Nat) (s : State) : Out :=
  .next (
    let x := (s.core core).mx
    match x.unitOp with
    | none => s
    | some o =>
      match (x.drain.buf ++ x.drain.rows).find? fun r => r.m == o.next && r.fault.isSome with
      | none => s
      | some r =>
        if (s.core core).moveTo.isSome || !(o.discard || s.inMatrix core o.thr) then s
        else
          let y := placeStores s core r.m o r.out
          if y.trap.isNone && y.left then y.s
          else
            let fault : Option DFault := match y.trap with
              | some (d, tr) => some ⟨r.m, d.pos, d.lane, tr.kind, tr.cause, tr.addr⟩
              | none => r.fault
            match fault with
            | none => s
            | some f =>
              (y.s.setMx core fun x => { x with drain := {} }).park core { o with inDrain := true, fault := some f }
                { kind := f.kind, cause := f.cause, addr := f.addr,
                  detail := f.row * 2 ^ 32 + f.pos * 2 ^ 37 + f.lane * 2 ^ 42 })

/-- DRAIN_STORE_POISON (R229): committed stores of one row of operation `k` meet poisoned lines; the thread will take one POISON that
names the row and the first address. -/
def execDrainStorePoison (core k : Nat) (s : State) : Out :=
  .next (match (s.core core).mx.ops[k]? with
    | some o =>
      match o.stores.find? s.poisoned with
      | some e =>
        let s' := s.setMx core fun x => x.setOp { o with stores := o.stores.filter fun y => !(y.lane == e.lane && s.poisoned y) }
        if o.discard then s'
        else s'.modThread core o.thr fun th =>
          { th with traps := th.traps ++ [{ kind := 13, cause := 0, addr := e.va, detail := w64 (e.lane * 2 ^ 32 + 2 ^ 47) }] }
      | none => s
    | none => s)

end Sys2Proof.Machine
end

