-- ==== Sys2Proof/Machine/Queue.lean ====
section
/-!
DEFINITION. Queues (R339-R346): descriptors, tails and records in host memory, the lottery, admission of a drawn record.
-/

namespace Sys2Proof.Machine

def Queue.valid (q : Queue) : Bool := bits (q.word 0) 31 31 = 1
def Queue.ser (q : Queue) : Bool := bits (q.word 0) 30 30 = 1
def Queue.ctx (q : Queue) : Nat := bits (q.word 0) 29 24
def Queue.tick (q : Queue) : Nat := bits (q.word 0) 47 32
/-- Records that the ring holds. -/
def Queue.size (q : Queue) : Nat := 2 ^ q.log2n
/-- The queue is on and not in ERROR. -/
def Queue.on (q : Queue) : Bool := q.st != .off && q.st != .error

/-! ### READY and HELD (R341, R342) -/

/-- The record can be admitted under *Kernel*: a slot is free, the admission unit is free, an Umator image runs (R398), and some die may serve
it. -/
def State.admissible (s : State) (ctx : Nat) (rec' : BitVec 2048) : Bool :=
  s.freeSlot.isSome && s.panel.adm.isNone && s.panel.fwdig.isSome && (s.ctx ctx).st == .resident &&
    (List.range 72).any fun d => s.dieServes (s.kernelFrom ctx rec') d

/-- Record HEAD may be admitted as R342 lays down: the kernel before it is over in a serial queue, and the host leaves it a
completion slot. -/
def State.inTurn (s : State) (n : Nat) (q : Queue) : Bool :=
  (!q.ser || s.kernels.all fun e => e.2.queue != some (n, q.head - 1) || q.head == 0 || e.2.id < q.since ||
    e.2.st == .aborted) &&
    q.head < mread s.host ((q.word 5).toNat + 8) 8 + q.size

/-- READY (R341). -/
def State.ready (s : State) (n : Nat) : Bool :=
  let q := s.queue n
  q.on && match q.copy with
    | some r => 0 < q.tick && s.admissible q.ctx r && s.inTurn n q
    | none => false

/-- STATE of QST (R340). -/
def State.queueState (s : State) (n : Nat) : QSt :=
  let q := s.queue n
  if !q.on then q.st else if q.copy.isNone then .empty else if s.ready n then .ready else .held

/-- QST (R340). -/
def State.qst (s : State) (n : Nat) : Word :=
  let q := s.queue n
  let code := match s.queueState n with | .off => 0 | .empty => 1 | .ready => 2 | .held => 3 | .error => 4
  BitVec.ofNat 64 (code * 2 ^ 61 + (if q.st = .error then q.err else 0) * 2 ^ 56 + q.head % 2 ^ 48)

/-! ### Reading the tail and the next record (R341, R343, R344) -/

/-- ERROR (R341): its vector is raised. -/
def State.queueError (s : State) (n err : Nat) : State :=
  let q := s.queue n
  (s.setQueue n { q with st := .error, err := err, copy := none }).msix (bits (q.word 0) 17 10)

/-- Reads record HEAD when there is one and no copy is held, over the CXL port (R389). -/
def State.readRecord (s : State) (n : Nat) : State :=
  let q := s.queue n
  if q.copy.isSome || q.tail ≤ q.head || !s.hostUp then s
  else if Config.hostRefuses s.tick then s.queueError n 3
  else s.setQueue n { q with copy := some (BitVec.ofNat 2048 (mread s.host ((q.word 1).toNat + 256 * (q.head % q.size)) 256)) }

/-- Reads the tail (R343, R344). -/
def State.readTail (s : State) (n : Nat) : State :=
  let q := s.queue n
  if !q.on || !s.hostUp then s
  else if Config.hostRefuses s.tick then s.queueError n 3
  else
    let tail := mread s.host (q.word 2).toNat 8
    if tail < q.head then s.queueError n 1
    else if q.head + q.size < tail then s.queueError n 2
    else (s.setQueue n { q with tail := tail }).readRecord n

/-! ### Host writes (R339, R341, R343, R345) -/

/-- A descriptor with V = 1 breaks R339. -/
def State.queueBad (s : State) (n : Nat) (w : Nat → Word) : Bool :=
  let c := w 0
  let mine := s.queues.filter fun e => e.1 != n && e.2.valid && e.2.ctx == bits c 29 24
  bits c 19 18 != 0 || bits c 9 0 != 0 || bits c 63 48 != 0 || w 7 != 0 || bits c 23 20 < 4 || bits c 17 10 < 2 ||
    bits (w 1) 7 0 != 0 || bits (w 2) 2 0 != 0 || bits (w 3) 2 0 != 0 || bits (w 4) 4 0 != 0 || bits (w 5) 3 0 != 0 ||
    16 ≤ mine.length

/-- A queue turns OFF (R341). -/
def State.queueOff (s : State) (q : Nat) : State :=
  let x := s.queue q
  if x.valid then s.setQueue q { x with desc := tset x.desc 0 (setBits (x.word 0) 31 31 0), st := .off, err := 0, copy := none } else s

/-- The host writes words of a queue's descriptor in one access (R339, R341, R343); QST is the Vorter's. While V = 0 they are held, and a write
that leaves V = 1 takes them with those written before. While V = 1 only TICK and V change. -/
def State.queueWrite (s : State) (q : Nat) (ws : List (Nat × Word)) : State :=
  let x := s.queue q
  let w (i : Nat) : Word := ((ws.find? fun e => e.1 == i).map Prod.snd).getD (x.word i)
  let held : Tab Word := ws.foldl (fun t e => if e.1 < 8 && e.1 != 6 then tset t e.1 e.2 else t) x.desc
  if 1024 ≤ q then s
  else if bits (w 0) 31 31 = 0 then
    if x.valid then s.queueOff q else s.setQueue q { x with desc := held }
  else if s.queueBad q w then s
  else if x.valid then s.setQueue q { x with desc := tset x.desc 0 (setBits (x.word 0) 47 32 (bits (w 0) 47 32)) }
  else (s.setQueue q { desc := held, st := .empty, since := s.tick }).readTail q

/-- QUEUE_ENABLE (R339, R341, R343): the host writes the first words of a descriptor, with V = 1. -/
def execQueueEnable (q : Nat) (desc : List Word) (s : State) : Out :=
  .next (s.queueWrite q ((List.range desc.length).zip desc))

/-- QUEUE_DISABLE (R341). -/
def execQueueDisable (q : Nat) (s : State) : Out := .next (s.queueOff q)

/-- QUEUE_TICK_WRITE (R339). -/
def execQueueTickWrite (q : Nat) (val : BitVec 32) (s : State) : Out :=
  .next (
    let x := s.queue q
    if 1024 ≤ q || 2 ^ 16 ≤ val.toNat then s
    else s.setQueue q { x with desc := tset x.desc 0 (setBits (x.word 0) 47 32 val.toNat) })

/-- TAIL_LINE_INVALIDATION (R343): the host stores `bytes` at `addr` of its memory; queues whose tail's line it lies in read
their tails again. -/
def execTailLineInvalidation (addr : Nat) (bytes : List Byte) (s : State) : Out :=
  .next (
    let s := { s with host := (List.range bytes.length).foldl (fun m i => mset m (addr + i) (bytes.getD i 0)) s.host }
    let hit (q : Queue) : Bool :=
      q.on && addr / 64 ≤ (q.word 2).toNat / 64 && (q.word 2).toNat / 64 * 64 < addr + bytes.length
    (s.queues.filter fun e => hit e.2).foldl (fun s e => s.readTail e.1) s)

/-- GENERATOR_SEED_WRITE (R345): a write of 0 stores 1. -/
def execGeneratorSeedWrite (val : BitVec 32) (s : State) : Out :=
  .next { s with panel := { s.panel with x := if val = 0 then 1 else val } }

/-! ### The draw (R345) -/

/-- One step of the generator. -/
def xorshift (x : BitVec 32) : BitVec 32 :=
  let x := x ^^^ (x <<< 13)
  let x := x ^^^ (x >>> 17)
  x ^^^ (x <<< 5)

/-- The winner: the first queue whose cumulative tickets exceed `d`. -/
def winner : List (Nat × Nat) → Nat → Option Nat
  | [], _ => none
  | (q, t) :: rest, d => if d < t then some q else winner rest (d - t)

/-- The draw: the winner's copied record goes to the admission unit, and HEAD passes on. -/
def State.draw (s : State) : State :=
  let qs := (s.queues.filter fun e => s.ready e.1).map fun e => (e.1, e.2.tick)
  let x := xorshift s.panel.x
  let t := (qs.map Prod.snd).foldl (· + ·) 0
  match winner qs (x.toNat % t) with
  | none => s
  | some n =>
    let q := s.queue n
    match q.copy with
    | none => s
    | some r =>
      let s := { s with panel := { s.panel with x := x, adm := some (n, q.head, q.ctx, r) } }
      let s := s.setQueue n { q with head := q.head + 1, copy := none }
      (s.hostWrite (q.word 3).toNat 8 (q.head + 1)).readRecord n

/-- The record in the admission unit is checked, its shape record and route block read (log 32), and admitted or refused. No
kernel is admitted while no Umator image runs (R398). -/
def State.tryAdmit (s : State) : State :=
  match s.panel.adm, s.panel.fwdig with
  | none, _ => s
  | _, none => s
  | some (n, i, ctx, r), some _ =>
    let k := s.kernelFrom ctx r
    let clear (s : State) : State := { s with panel := { s.panel with adm := none } }
    let place (s : State) (va : Word) : EngAt :=
      s.engPlace (bankOf 0) (.kennel (2 ^ 41 + n)) 0 ctx 0 256 0 0 needLd va 8 |>.reached s (siteOfDie 0)
    match s.checkRecord k true place 0 s.wtsBound with
    | .wait s => s
    | .cause s c => if s.hostUp then (clear s).completion n i (statWord 2 c 0) 0 else s
    | .ok s shape routes =>
      match s.freeSlot with
      | none => s
      | some slot =>
        (clear s).enlist slot { k with shape := shape, routes := routes, queue := some (n, i), at' := s.admitTime 0 }

/-- LOTTERY_DRAW (R345): with no request from `launch` waiting (R357), one draw; a record whose pages are still being looked up
stays in the admission unit. While the CXL port carries nothing (R373), no record is drawn, since HADDR cannot be written. -/
def execLotteryDraw (s : State) : Out :=
  .next (if s.panel.adm.isSome then s.tryAdmit
    else if (s.launches.any fun r => (s.ctx r.ctx).st == .resident) || !s.hostUp then s
    else s.draw.tryAdmit)

end Sys2Proof.Machine
end

