-- ==== Sys2Proof/Machine/Link.lean ====
section
/-!
DEFINITION. Links, the mesh, pod requests and the host's memory window (R1, R140, R372-R391).
-/

namespace Sys2Proof.Machine

/-! ### Links (R372-R375) -/

/-- The other end of an edge, by link number. -/
def otherEnd (n : Nat) : Option Nat := if 576 ≤ n then none else (neighbour (n / 4) (n % 4)).map fun t => 4 * t + (n % 4 + 2) % 4

/-- A link exists: an edge on the panel, a fitted port (R372, R373). -/
def linkExists (n : Nat) : Bool :=
  if n < 576 then (neighbour (n / 4) (n % 4)).isSome else if n < 640 then Config.portFitted (n - 576) else n == 640

/-- Lanes of a link at its full width (R374). -/
def fullLanes (n : Nat) : Nat := if n < 576 then 32 else if n < 640 then 4 else 16

/-- The site numbers of compute dies' edges: link `n` has an end at a die, in reset or failed. -/
def State.endDark (s : State) (n : Nat) : Bool :=
  (List.range 72).any fun d =>
    (n < 576 && siteOfDie d == n / 4 || (otherEnd n).map (· / 4) == some (siteOfDie d)) &&
      ((s.die d).st == .reset || (s.die d).st == .failed)

/-- One number's state changes; every change raises vector 0 (R374). -/
def State.setLinkSt (s : State) (n lanes : Nat) (st : LinkSt) : State :=
  let l := s.link n
  let s' := s.setLink n { l with st := st, lanes := lanes, tries := 0, rply := if st = .up then 0 else l.rply,
                                 cmd := l.cmd && st != .training }
  if l.st = st then s' else s'.msi 0

/-- A link's state changes at both its ends: an edge is one link, shown at two numbers (R372). -/
def State.linkTo (s : State) (n lanes : Nat) (st : LinkSt) : State :=
  let s := s.setLinkSt n lanes st
  match otherEnd n with
  | some m => s.setLinkSt m lanes st
  | none => s

def LinkSt.code : LinkSt → Nat
  | .absent => 0
  | .training => 1
  | .up => 2
  | .down => 3

/-- A link's status as the host reads it at 0x3000 + 8n (R374). -/
def Link.word (l : Link) : Word := BitVec.ofNat 64 (l.st.code * 2 ^ 61 + l.cmd.toNat * 2 ^ 60 + l.lanes * 2 ^ 32 + l.rply.toNat)

/-- LINK_TRAINING_SUCCESS (R373). Tail lines that the Vorter held are read afresh as the CXL port comes up (R343; DEDUCED, log 44). -/
def execLinkTrainingSuccess (link lanes : Nat) (s : State) : Out :=
  .next (
    if (s.link link).st = .training && 1 ≤ lanes && lanes ≤ fullLanes link && !s.endDark link then
      let s' := s.linkTo link lanes .up
      if link = 640 then s'.queues.foldl (fun s e => s.readTail e.1) s' else s'
    else s)

/-- LINK_TRAINING_FAILURE (R373). -/
def execLinkTrainingFailure (link : Nat) (s : State) : Out :=
  .next (if (s.link link).st = .training then s.linkTo link 0 .down else s)

/-- FLIT_CRC_REPLAY (R373, R374): RPLY saturates; the sixteenth replay of one flit is the last. -/
def execFlitCrcReplay (link : Nat) (s : State) : Out :=
  .next (
    let l := s.link link
    if l.st = .up && l.tries < 16 then
      s.setLink link { l with rply := if l.rply = BitVec.allOnes 32 then l.rply else l.rply + 1
                              tries := if Config.sameFlit s.tick then l.tries + 1 else 1 }
    else s)

/-- LINK_RETRAIN_CMD (R373, R374): the host sets CMD, which is clear again as TRAINING begins. -/
def execLinkRetrainCmd (link : Nat) (s : State) : Out :=
  .next (if 641 ≤ link then s
    else
      let s' := s.setLink link { s.link link with cmd := true }
      if (s.link link).st = .up || (s.link link).st = .down then s'.linkTo link 0 .training else s')

/-! ### Routing (R376-R379) -/

/-- A path of a table set from a site ends at its destination over edges that are UP, and obeys the turn rule (R378): `turned`
tells that the message has moved north, south or east at its level. -/
def State.pathOk (s : State) (routes : Tab Nat) (dst : Nat) : Nat → Nat → Nat → Bool → Bool
  | 0, _, _, _ => false
  | fuel + 1, site, lvl, turned =>
    let h := hopBy routes site dst lvl
    if h.1 = 4 then site == dst
    else
      let turned := turned && h.2 == lvl
      match neighbour site h.1 with
      | none => false
      | some nb =>
        h.2 < 2 && lvl ≤ h.2 && !(h.1 == 2 && turned) && (s.link (4 * site + h.1)).st == .up &&
          s.pathOk routes dst fuel nb h.2 (turned || h.1 != 2)

/-- A site with a working edge. -/
def State.liveSite (s : State) (site : Nat) : Bool := (List.range 4).any fun d => (s.link (4 * site + d)).st == .up

/-- The turn rule at an entry of a table set (R378): it does not return to level 0; and no message that it sends north, south or east turns
west at that level at the next router, nor does it turn one west that a neighbour has sent so. -/
def entryOk (routes : Tab Nat) (key : Nat) : Bool :=
  let site := key / 2 / 144
  let dst := key / 2 % 144
  let lvl := key % 2
  let h := hopBy routes site dst lvl
  h.2 < 2 && lvl ≤ h.2 && (match neighbour site h.1 with
    | some nb => h.1 == 2 || hopBy routes nb dst h.2 != (2, h.2)
    | none => true) &&
  (h != (2, lvl) || (List.range 4).all fun d => match neighbour site d with
    | some nb => (List.range 2).all fun l =>
        let g := hopBy routes nb dst l
        !(g.2 == lvl && g.1 != 2 && g.1 < 4 && neighbour nb g.1 == some site)
    | none => true)

/-- A table set that Umator may load (R378): every entry obeys the rule, and every pair of live sites has a path. -/
def State.setOk (s : State) (routes : Tab Nat) : Bool :=
  let live := (List.range 144).filter s.liveSite
  routes.all (fun e => entryOk routes e.1) && live.all fun a => live.all fun b => s.pathOk routes b 600 a 0 false

/-- A message has left its sender's buffer (R376). -/
def Msg.injected (m : Msg) : Bool := m.hops != 0

/-- Every message in the mesh has reached its destination or is held at the output port of a DOWN edge (R375, R379). -/
def State.drained (s : State) : Bool :=
  s.net.all fun m => m.pos == m.site || !m.injected ||
    (s.link (4 * m.pos + (hopBy s.routes m.pos m.site m.lvl).1)).st == .down

/-- A message that is held in the mesh goes on lawfully under a new table set (R378). -/
def State.heldOk (s : State) (routes : Tab Nat) : Bool :=
  s.net.all fun m => m.pos == m.site || !m.injected || s.pathOk routes m.site 600 m.pos m.lvl m.turned

/-- TABLE_SET_INSTALL (R378, R379): the sites stop injecting; once the mesh is empty but for what is held, the tables are written, and
the held messages leave before any other enters it. -/
def execTableSetInstall (set : List (Nat × Nat)) (s : State) : Out :=
  .next (
    let routes : Tab Nat := set.foldl (fun t e => tset t e.1 e.2) []
    if !s.setOk routes then s
    else if s.drained && s.heldOk routes then
      { s with routes := routes, panel := { s.panel with quiet := false }
               net := s.net.map fun m => { m with held := m.injected && m.pos != m.site } }
    else { s with panel := { s.panel with quiet := true } })

/-! ### Sharing an output port (R382) -/

/-- Flits of a message (R376). -/
def Body.flits : Body → Nat
  | .offer o => 1 + (match o.who with
    | .engine => (16 * ctlSize o.ctl + 63) / 64
    | _ => 0)
  | .delivery _ _ ctl _ _ _ => 1 + (recvLen ctl + 63) / 64
  | .sendData _ _ _ _ => 2
  | .port _ _ _ _ _ _ _ => 2
  | .copyReq _ _ _ => 3
  | .epoch _ _ _ _ _ => 2
  | _ => 1

/-- Flits that a message sends in one turn: on a UALink port those of one transaction (R386). -/
def Msg.flits (m : Msg) (site : Nat) : Nat := if site < 144 then m.body.flits else min 2 m.body.flits

/-- Key of the fair-share ring of a class at a port; member 127 stands for the ring's place. -/
def ringKey (site port : Nat) (c : MCls) (memb : Nat) : Nat := ((site * 8 + port) * 4 + c.code) * 128 + memb

/-- The member that a message belongs to: its context, or one more for traffic of no context. -/
def Msg.memb (m : Msg) : Nat := min m.ctx 64

/-- The event that a message of the event protocol belongs to. -/
def Body.event : Body → Option EvKey
  | .offer o => some o.key
  | .withdraw k _ _ _ | .grant k _ | .deny k _ _ | .commit k _ _ _ _ | .release k _ | .delivery k _ _ _ _ _ | .ack k _
  | .sendData k _ _ _ | .trapped k _ _ _ => some k
  | .claim c _ _ => some c.key
  | _ => none

/-- The UALink port by which a message to another pod member leaves (R388), and the member; none for other messages. -/
def State.podPortOf (s : State) (m : Msg) : Option (Nat × Nat) :=
  match m.dst with
  | .pod memb => some (s.podPort memb ((m.body.event.map fun k => k.name.toNat).getD 0), memb)
  | _ => none

/-- Messages that wait at an output port in a class, in order: port 0 to 3 of a site's router; UALink port k is port 5 of site 144 + k. -/
def State.atPort (s : State) (site port : Nat) (c : MCls) : List Msg :=
  if site < 144 then
    s.net.filter fun m => m.pos == site && m.site != site && m.cls == c && (hopBy s.routes site m.site m.lvl).1 == port
  else s.net.filter fun m => m.pos == m.site && m.cls == c && (s.podPortOf m).map Prod.fst == some (site - 144)

/-- The next router has no buffer space for the message that a class would send by a port, at the level on which it would arrive (R376,
R380). -/
def State.noRoom (s : State) (site : Nat) (c : MCls) (m : Msg) : Bool :=
  Config.noRoom s.tick (2 * c.code + (if site < 144 then (hopBy s.routes site m.site m.lvl).2 else 0))

/-- The message goes now, when its context's turn has come among the messages of its class at a port and its deficit covers it;
otherwise the ring moves on as far as one visit (R382). The ring's order is by context number (log 37). -/
def State.share (s : State) (m : Msg) (site port : Nat) : State × Bool :=
  let ms := s.atPort site port m.cls
  let key := ringKey site port m.cls
  let of (c : Nat) : List Msg := ms.filter fun x => x.memb == c
  let cur := tget 128 s.deficit (key 127)
  let d (c : Nat) : Nat := tget 0 s.deficit (key c)
  let can (c : Nat) : Bool := match of c with
    | x :: _ => 64 * x.flits site ≤ d c
    | [] => false
  let put (t : Tab Nat) (c v : Nat) : Tab Nat := tset t (key c) v
  if (of m.memb).head? != some m then (s, false)
  else if cur = m.memb && can cur then
    ({ s with deficit := put s.deficit cur (if (of cur).length ≤ 1 then 0 else d cur - 64 * m.flits site) }, true)
  else if can cur then (s, false)
  else
    let t := if (of cur).isEmpty && cur < 65 then put s.deficit cur 0 else s.deficit
    let next := match (List.range 65).find? fun i => !(of ((cur + 1 + i) % 65)).isEmpty with
      | some i => (cur + 1 + i) % 65
      | none => m.memb
    let t := put (put t next (tget 0 t (key next) + 64 * ((of next).head?.map Msg.wgt).getD 1)) 127 next
    ({ s with deficit := t }, false)

/-! ### Turns of the classes at an output port (R381) -/

def MCls.all : List MCls := [.request, .reply, .event, .bulk]

/-- The class whose turn comes at a port after the class with code `last`, among those that have a message waiting that the next router has
room for. -/
def State.nextClass (s : State) (site port last : Nat) : Option MCls :=
  (List.range 4).findSome? fun i => (MCls.all[(last + 1 + i) % 4]?).bind fun c =>
    match s.atPort site port c with
    | [] => none
    | m :: _ => if s.noRoom site c m then none else some c

/-- Where a port's turns stand, beside the rings of its classes: the class served last in the round robin, and the slots that have passed
since one of event and control. -/
def turnKey (site port : Nat) : Nat := ringKey site port .request 126
def slotKey (site port : Nat) : Nat := ringKey site port .request 125

/-- Event-and-control is due its slot of this run of 16 (R381): `f` more slots of another class would leave it none. -/
def State.eventDue (s : State) (site port f : Nat) : Bool :=
  16 ≤ tget 0 s.deficit (slotKey site port) + f && match s.atPort site port .event with
    | [] => false
    | m :: _ => !s.noRoom site .event m

/-- A message may go by its class (R381): in the round robin, or in the slot due to its class. A message goes whole in its class's turn
(DESIGN CHOICE, log 37: flits of other classes may stand between its own). -/
def State.classTurn (s : State) (m : Msg) (site port : Nat) : Bool :=
  if m.cls = .event && s.eventDue site port 1 then true
  else s.nextClass site port (tget 3 s.deficit (turnKey site port)) == some m.cls && (m.cls == .event || !s.eventDue site port (m.flits site))

/-- A port's turns after a message has left by it. -/
def State.slotsUsed (s : State) (m : Msg) (site port : Nat) : State :=
  let passed := tget 0 s.deficit (slotKey site port) + m.flits site
  let due : Bool := m.cls == .event && s.eventDue site port 1
  let t := tset s.deficit (slotKey site port) (if m.cls = .event then 0 else passed)
  { s with deficit := if due then t else tset t (turnKey site port) m.cls.code }

/-! ### Forwarding (R376, R377, R380, R383) -/

/-- A message sends its next flits by a port in its class's and its context's turn: `f` is what it does; otherwise only the ring moves. -/
def State.portTurn (s : State) (m : Msg) (site port : Nat) (f : State → State) : State :=
  if s.noRoom site m.cls m || !s.classTurn m site port then s
  else
    let r := s.share m site port
    if r.2 then f (r.1.slotsUsed m site port) else r.1

/-- What a message to a pod member carries that has to be cut: units of 64 bytes of a delivery that have still to go, but for the last (R386:
no transaction is wider). -/
def Body.podLeft : Body → Option Body
  | .delivery key g ctl data rt put =>
    if put.length + 1 < (recvLen ctl + 63) / 64 then some (.delivery key g ctl data rt (put ++ [put.length])) else none
  | _ => none

/-- A message to another pod member leaves at its port, on the UP port that its event's hash names, with its context's tenant key (R386, R388),
a long delivery in transactions of 64 bytes; the receiver may refuse it, and a refused offer ends its `sync` with KEY (R140). -/
def State.leavePanel (s : State) (k : Nat) (m : Msg) : State :=
  match s.podPortOf m with
  | none => s
  | some (port, memb) =>
    if 64 ≤ port || olderSame s.net k m then s
    else s.portTurn m (144 + port) 5 fun s =>
      let name := ((m.body.event.map fun k => k.name.toNat).getD 0)
      let s := s.podSend m.ctx memb name name 0
      match m.body.podLeft with
      | some b => { s with net := s.net.set k { m with body := b } }
      | none =>
        if Config.podAnswer s.tick = 0 then s.drop k
        else match m.body with
          | .offer o =>
            match o.who with
            | .thread g seq => match s.partyAt o.key g with
              | some (p, t) => if (s.core p).moveTo.isSome then s else (s.drop k).syncTrap p t seq 6
              | none => s.drop k
            | .engine => s.drop k
          | _ => s.drop k

/-- MESSAGE_FORWARD (R376, R377, R379-R383): message `k` goes whole to the next router over an UP edge in its class's and its context's turn.
Messages held over a change of tables go before any enters the mesh, and none enters it while a change is awaited. A message to a pod
member leaves at its port. -/
def execMessageForward (k : Nat) (s : State) : Out :=
  .next (match s.net[k]? with
    | none => s
    | some m =>
      if m.pos = m.site then s.leavePanel k m
      else
        let h := hopBy s.routes m.pos m.site m.lvl
        let n := 4 * m.pos + h.1
        match neighbour m.pos h.1 with
        | none => s
        | some nb =>
          if (s.link n).st ≠ .up || (!m.injected && (s.panel.quiet || s.net.any Msg.held)) then s
          else s.portTurn m m.pos h.1 fun s =>
            let m' := { m with pos := nb, lvl := h.2, hops := m.hops + 1, held := false, turned := (m.turned && h.2 == m.lvl) || h.1 != 2 }
            ({ s with net := s.net.set k m' }).setLink n { s.link n with tries := 0 })

/-! ### What is lost (R375, R400) -/

/-- An event is gone from its home, with its offers; cells that it had claimed are released. -/
def State.wreckEvent (s : State) (h : Nat) (key : EvKey) : State :=
  let b := s.bugle h
  let os := b.of key
  let s := s.setBugle h { b.gone key with offers := b.offers.filter fun o => o.key != key }
  let s := (State.putSlots h 0 false os s).getD s
  let held := s.cores.flatMap fun e => (e.2.threads.filter fun t => t.2.cell.st == .claimed &&
    match t.2.cell.holder with
    | some c => c.key == key && c.home == some h
    | none => false).map fun t => (e.1, t.1)
  held.foldl (fun s x => s.releaseCell x.1 x.2) s

/-- What waits for a lost message waits no longer (log 38). -/
def State.settleLost (s : State) (m : Msg) : State :=
  match m.body with
  | .port _ w _ _ core entry lane => s.portSettled core entry lane w true
  | .copyReq _ core entry => s.release core entry
  | .relReq _ core entry => s.release core entry
  | .epoch _ _ _ st _ =>
    let co := (s.stack st).collie
    match co.cur, m.dst with
    | some (r, .acks cs ep, slot), .core l => s.setCollie st { co with cur := some (r, .acks (cs.erase l) ep, slot) }
    | _, _ => s
  | b =>
    match b.event with
    | none => s
    | some key =>
      match m.src, m.dst with
      | .bugle h, _ => s.wreckEvent h key
      | _, .bugle h => s.wreckEvent h key
      | _, _ => s

/-- A context's kernels are aborted with cause 17, and it receives a kind-18 record (R331, R375, R400). -/
def State.contextLost (s : State) (ctx count die : Nat) (addr : Word) : State :=
  let ks := s.kernels.filter fun e => e.2.ctx == ctx
  let fmode : Word := match ks with
    | (_, k) :: _ => k.fmode
    | [] => BitVec.ofNat 64 (s.fmodeOf ctx)
  let s := ks.foldl (fun s e => s.abortKernel e.1 17 0 0) s
  let r := plainRecord 18 0 0 addr 0 (count % 2 ^ 32 + die * 2 ^ 32)
  if bits fmode 2 1 = 1 then s.toUmator (die * 16) 0x3000000000000001 r.data 0 (some (ctx, 256, 0)) else s.toHost ctx r

/-- A die at an end of a link, for its record. -/
def dieOfLink (n : Nat) : Nat :=
  ((List.range 72).find? fun d => siteOfDie d == n / 4 || (otherEnd n).map (· / 4) == some (siteOfDie d)).getD 0

/-- The ways between two sites cross an edge. -/
def State.over (s : State) (link a b : Nat) : Bool :=
  let off (n : Nat) : Bool := n != link && otherEnd n != some link
  a != b && !(wayBy off s.routes b 600 a 0 && wayBy off s.routes a 600 b 0)

/-- A unit's request from a site, or its reply, crosses a link that goes DOWN: an edge on its way, or the UALink port that its pod request
is sent on. -/
def State.crosses (s : State) (link site : Nat) (e : Elem) : Bool :=
  match e.place with
  | .line l _ _ => s.over link site (siteOfStack (stackOf l))
  | .lwin l _ => match s.phys l with
    | some q => s.over link site (siteOfDie (dieOf q))
    | none => false
  | .remote m a => link == 576 + s.podPort m (a / 64)
  | _ => false

/-- Which of the units that cross a link the sender's replay buffer names, by a number that tells requests apart (R375). -/
def State.loses (s : State) (link site n : Nat) (e : Elem) : Bool := s.crosses link site e && Config.lostMsg s.tick (4096 * (n + 1) + e.lane)

/-- The numbers by which requests are told apart there: a core's waiting loads, journal entries and drain stores, and copies. -/
def loadNo (p t : Nat) : Nat := p * 64 + t
def entryNo (p i : Nat) : Nat := p * 64 + 16 + i
def drainNo (p j : Nat) : Nat := p * 64 + 32 + j
def copyNo (r j : Nat) : Nat := 2 ^ 24 + r * 8 + j

/-- A core's posted stores, drain stores and waiting loads of which a part is lost with a link: on an edge the stores are gone, and their
context is among those that lose; on a UALink port a store meets a refusal with cause 5, and a load or atomic takes ACCESS (R249). -/
def State.loseCore (s s₀ : State) (link p : Nat) : State :=
  let site := siteOfDie (dieOf p)
  let pod : Bool := 576 ≤ link
  let s := (List.range 16).foldl (fun s i =>
    let e := (s.core p).entry i
    let gone := e.todo.filter (s₀.loses link (siteOfDie (dieOf (e.site.getD p))) (entryNo p i))
    if !e.busy || !e.isStore || gone.isEmpty then s
    else
      let e := { e with todo := ungroup e.todo gone, refused := if pod then e.refused ++ gone.map fun y => (y, 5) else e.refused }
      (s.modCore p fun c => c.setEntry i e).settleEntry p i) s
  let s := s.modCore p fun c => { c with mx := { c.mx with ops := ((List.range c.mx.ops.length).zip c.mx.ops).map fun x =>
    { x.2 with stores := x.2.stores.filter fun e => !s₀.loses link (siteOfDie (dieOf (x.2.site.getD p))) (drainNo p x.1) e } } }
  if !pod then s
  else (List.range 16).foldl (fun s t => match (s.thread p t).st, (s.thread p t).wait with
    | .wait, .load r =>
      match r.todo.find? (s₀.loses link site (loadNo p t)) with
      | some u => if r.miss || r.kind == .st then s else (s.take p t).trapMe { kind := 4, addr := u.va, cause := 5 }
      | none => s
    | _, _ => s) s

/-- A context loses a request of one of its threads, stores or copies with an edge. -/
def State.loserOf (s : State) (link ctx : Nat) : Bool :=
  (s.cores.any fun x => x.2.ctx == ctx && !isSetter x.1 && (
    (x.2.threads.any fun t => match t.2.wait with
      | .load r => !r.miss && r.todo.any (s.loses link (siteOfDie (dieOf x.1)) (loadNo x.1 t.1))
      | _ => false) ||
    (x.2.journal.any fun e => e.2.busy && e.2.isStore &&
      e.2.todo.any (s.loses link (siteOfDie (dieOf (e.2.site.getD x.1))) (entryNo x.1 e.1))) ||
    ((List.range x.2.mx.ops.length).zip x.2.mx.ops).any fun o =>
      o.2.stores.any (s.loses link (siteOfDie (dieOf (o.2.site.getD x.1))) (drainNo x.1 o.1)))) ||
    s.retrs.any fun r => ((List.range r.2.active.length).zip r.2.active).any fun x => x.2.req.ctx == ctx &&
      x.2.open'.any fun e => s.loses link (siteOfStack (r.1 / 2)) (copyNo r.1 x.1) e.2

/-- The copies' writes that are lost with a link: gone with an edge, refused with a UALink port (R274). -/
def State.loseCopies (s s₀ : State) (link : Nat) : State :=
  s₀.retrs.foldl (fun s r => ((List.range r.2.active.length).zip r.2.active).foldl (fun s x =>
    let gone := x.2.open'.filter fun e => s₀.loses link (siteOfStack (r.1 / 2)) (copyNo r.1 x.1) e.2
    let y := { x.2 with open' := x.2.open'.filter fun e => !gone.contains e }
    if gone.isEmpty then s
    else if link < 576 then s.setRun r.1 y
    else gone.foldl (fun s e => match (s.retr r.1).active.find? fun z => z.id == y.id with
      | some z => s.copyStop r.1 { z with open' := y.open' } e.1 2 (copyTrap 5) e.2.va
      | none => s) s) s) s

/-- LINK_DOWN (R373, R375): sixteen replays have failed. What the sender's replay buffer names is lost: on an edge messages, requests and replies,
whose contexts are told; on a UALink port requests, which count as refused by their receiver with cause 5. -/
def execLinkDown (link : Nat) (s : State) : Out :=
  .next (
    let l := s.link link
    if l.st ≠ .up || l.tries < 16 then s
    else
      let edge : Bool := link < 576
      let s' := s.linkTo link 0 .down
      let crosses (m : Msg) : Bool :=
        let n := 4 * m.pos + (hopBy s.routes m.pos m.site m.lvl).1
        m.pos != m.site && m.ctx < 64 && (n == link || otherEnd link == some n)
      let idx := (List.range s.net.length).filter fun i => Config.lostMsg s.tick i && match s.net[i]? with
        | some m => edge && crosses m
        | none => false
      let lost := idx.filterMap fun i => s.net[i]?
      let s' := { s' with net := ((List.range s.net.length).filter fun i => !idx.contains i).filterMap fun i => s.net[i]? }
      let cs := if edge then (List.range 64).filter fun c => lost.any (fun m => m.ctx == c) || s.loserOf link c else []
      let s' := (s.cores.map Prod.fst).foldl (fun s' p => s'.loseCore s link p) s'
      let s' := s'.loseCopies s link
      let s' := cs.foldl (fun s' c => s'.contextLost c (Config.lostCount s.tick) (dieOfLink link) 0) s'
      lost.foldl State.settleLost s')

/-! ### Pod requests (R140, R386-R388) -/

/-- Word `i` of pod window `w` (R387). -/
def State.podWord (s : State) (w i : Nat) : Word := tget 0 s.panel.conf (0x2000 + 32 * w + 8 * i)

/-- The lowest-numbered window that covers a pod address. -/
def State.podWindow (s : State) (a : Nat) : Option Nat :=
  (List.range 64).find? fun w =>
    let base := (s.podWord w 0).toNat
    let len := (s.podWord w 1).toNat
    bits (s.podWord w 3) 31 31 = 1 && base % 65536 == 0 && len % 65536 == 0 && base ≤ a && a < base + len

/-- Bytes as a little-endian number. -/
def leNat (bs : List Byte) : Nat := bs.foldr (fun b a => b.toNat + 256 * a) 0

/-- The port's answer to its requester: 0 and data, or the cause of a refusal (R249). -/
def State.answered (s : State) (cause data : Nat) : State := { s with panel := { s.panel with answer := (cause, data) } }

/-- An access under R387 at a place; `src` is the source word of a port's record (R251). None: it waits. -/
def State.podServe (s : State) (ctx : Nat) (va : Word) (src : BitVec 32) (pl : Place) (op : PodOp) : Option State :=
  let wait : Bool := (match pl with
    | .line _ _ _ => s.locked ctx va && (match op with | .read _ => false | _ => true) || s.reseeding ctx ||
        !s.reachable (s.siteOf (.pod 0)) pl
    | .lwin l _ => match s.phys l with
      | some q => (s.core q).moveTo.isSome || !s.reachable (s.siteOf (.pod 0)) pl
      | none => false
    | pl => !s.reachable (s.siteOf (.pod 0)) pl)
  if wait then none
  else match op with
    | .read n =>
      some (match s.engLoad ctx 0 0 pl n with
        | (s', .inl v) => s'.answered 0 v
        | (s', .inr 4) => s'.answered 4 0
        | (s', .inr _) => s'.answered 5 0)
    | .write bytes =>
      let v := leNat bytes
      let n := bytes.length
      match pl with
      | .line l off _ =>
        some (if s.poison.contains l then s.answered 4 0 else ((s.homeWrite l off n v 0).1).answered 0 0)
      | .lwin l a =>
        let w := if n ≤ 1 then 1 else if n ≤ 2 then 2 else if n ≤ 4 then 4 else if n ≤ 8 then 8 else if n ≤ 16 then 16
          else if n ≤ 32 then 32 else 64
        match s.phys l with
        | none => some (s.answered 5 0)
        | some q =>
          if a + n ≤ (s.core q).dirLimit then
            some (((s.dwrite q a n v).modCore q fun c => c.record (s.die (dieOf q)).time src a w).answered 0 0)
          else some (s.answered 5 0)
      | .direct _ => some (s.answered 5 0)
      | pl => some (((s.engWrite ctx ⟨0, va, n, v, pl⟩ 0).1).answered 0 0)
    | .atomic o w nat x cmp =>
      match s.engLoad ctx 0 0 pl w.bytes with
      | (s', .inr 4) => some (s'.answered 4 0)
      | (s', .inr _) => some (s'.answered 5 0)
      | (s', .inl old) =>
        let s' := match atomNew o w nat old x.toNat cmp.toNat with
          | some v => (s'.engWrite ctx ⟨0, va, w.bytes, v, pl⟩ 0).1
          | none => s'
        some (s'.answered 0 old)
    | .event _ => some s

/-- Event traffic of a window's context (R140): to the event's Bugle here, or to a thread here whose event host is the sender. -/
def State.podEvent (s : State) (ctx memb src : Nat) (e : PodEv) : State :=
  let key (name : Word) (inst : Nat) : EvKey := ⟨name, ctx, inst⟩
  let g := 2 ^ 19 * (memb + 1) + src % 2 ^ 19
  let home (k : EvKey) (b : EvKey → Body) : State := s.send .event (.pod memb) (.bugle (bugleAmong 5 0 k)) ctx (b k)
  let party (gtn : Nat) (b : Body) : State := s.send .event (.pod memb) (.core (gtn % 2 ^ 19 / 16)) ctx b
  match e with
  | .offer name inst ctl rt seq =>
    home (key name inst) fun k => .offer { key := k, index := ctlIndex ctl, ctl := ctl, rt := rt, who := .thread g seq }
  | .withdraw name inst seq => home (key name inst) fun k => .withdraw k 0 g seq
  | .grant name inst => home (key name inst) fun k => .grant k g
  | .deny name inst seq => home (key name inst) fun k => .deny k g seq
  | .ack name inst => home (key name inst) fun k => .ack k g
  | .sendData name inst index data => s.homeData (bugleAmong 5 0 (key name inst)) (key name inst) g index data
  | .claim name inst age gtn seq => party gtn (.claim ⟨key name inst, age, some (2304 + memb), 0⟩ gtn seq)
  | .commit name inst ctl gtn index => party gtn (.commit (key name inst) gtn index ctl [])
  | .release name inst gtn => party gtn (.release (key name inst) gtn)
  | .delivery name inst ctl rt gtn data => party gtn (.delivery (key name inst) gtn ctl data rt [])
  | .trapped gtn seq kind =>
    match s.whereIs (gtn % 2 ^ 19) with
    | some (p, t) => if (s.core p).ctx = ctx then s.syncTrap p t seq kind else s
    | none => s

/-- What an access needs of its page (R387). -/
def podNeed : PodOp → AccNeed
  | .read _ => needLd
  | .write _ => needSt
  | _ => needAtom

/-- Bytes of a request; 0 for event traffic. -/
def podSize : PodOp → Nat
  | .read n => n
  | .write b => b.length
  | .atomic _ w _ _ _ => w.bytes
  | .event _ => 0

/-- A request as R386 allows it: 1 to 64 bytes within 64, atomics naturally aligned. -/
def podFine (r : PodReq) : Bool :=
  match r.op with
  | .event _ => true
  | .atomic _ w _ _ _ => r.addr % w.bytes == 0
  | op => 1 ≤ podSize op && r.addr % 64 + podSize op ≤ 64

/-- POD_REQUEST_RECEIVE (R387): the checks in order, then the access in the window's context, or the event traffic (R140). -/
def execPodRequestReceive (req : PodReq) (s : State) : Out :=
  .next (
    if (s.link (576 + req.port)).st ≠ .up || 64 ≤ req.port || !podFine req then s
    else match s.podWindow req.addr with
      | none => s.answered 5 0
      | some w =>
        let ctl := s.podWord w 3
        let ctx := bits ctl 27 22
        let key := bits (s.descWord ctx 0) 31 0
        let reads : Bool := match req.op with
          | .read _ | .atomic _ _ _ _ _ => true
          | _ => false
        let writes : Bool := match req.op with
          | .write _ | .atomic _ _ _ _ _ => true
          | _ => false
        let ev : Bool := match req.op with
          | .event _ => true
          | _ => false
        if (s.ctx ctx).st ≠ .resident || key = 0 || req.key.toNat ≠ key then s.answered 1 0
        else if (reads && bits ctl 30 30 = 0) || (writes && bits ctl 29 29 = 0) || (ev && bits ctl 28 28 = 0) then s.answered 5 0
        else match req.op with
          | .event e => (s.answered 0 0).podEvent ctx req.memb req.src e
          | op =>
            let va : Word := BitVec.ofNat 64 req.addr - s.podWord w 0 + s.podWord w 2
            match s.engPlace (bankOf 0) (.kennel (2 ^ 42 + req.port)) 0 ctx 0 256 0 0 (podNeed op) va (podSize op) with
            | .miss s => s
            | .fault s _ => s.answered 5 0
            | .ok pl =>
              let src := BitVec.ofNat 32 (req.src % 2 ^ 19 + req.port * 2 ^ 19 + 2 ^ 25)
              (s.podServe ctx va src pl op).getD s)

/-! ### The host's window (R390) -/

/-- CXL_MEM_WINDOW_WRITE (R390). -/
def execCxlMemWindowWrite (val : Word) (s : State) : Out :=
  .next (if 107 < bits val 12 0 then s
    else { s with panel := { s.panel with cxl := BitVec.ofNat 64 (bits val 63 63 * 2 ^ 63 + bits val 12 0) } })

/-- Line and offset of a window access of `n` bytes; none when the window is shut or the access leaves a line. -/
def State.windowPlace (s : State) (off n : Nat) : Option (Nat × Nat) :=
  if bits s.panel.cxl 63 63 = 1 && 1 ≤ n && off + n ≤ 2 ^ 36 && off % 512 + n ≤ 512 then
    some (ordPlace (bits s.panel.cxl 12 0 * 2 ^ 36 + off))
  else none

/-- A line belongs to a frame that a migration under way has locked (R318). -/
def State.frameLocked (s : State) (l : Nat) : Bool :=
  s.migs.any fun m => (frameLines m.cls m.near m.old m.sz).any fun x => x.1 == l

/-- The host reaches a line's home over the CXL port and the edges on the way (R373). -/
def State.hostReach (s : State) (l : Nat) : Bool := s.hostUp && s.reachable (s.siteOf .host) (.line l 0 0)

/-- HOST_WINDOW_WRITE (R244, R252, R329, R390): accepted at the home with p = 0; a poisoned line refuses it. -/
def execHostWindowWrite (off : Nat) (bytes : List Byte) (s : State) : Out :=
  .next (match s.windowPlace off bytes.length with
    | none => s
    | some (l, o) =>
      if s.frameLocked l || !s.hostReach l then s
      else if s.poison.contains l then s.answered 4 0
      else
        let r := s.homeWrite l o bytes.length (leNat bytes) 0
        { r.1 with panel := { r.1.panel with hostWts := maxW r.1.panel.hostWts r.2, answer := (0, 0) } })

/-- HOST_WINDOW_READ (R390): after any die's exclusivity is recalled; a poisoned line's data carries its mark (R400). -/
def execHostWindowRead (off n : Nat) (s : State) : Out :=
  .next (match s.windowPlace off n with
    | none => s
    | some (l, o) =>
      if !s.hostReach l then s
      else if s.poison.contains l then s.answered 4 0
      else
        let s := s.dieGives l
        s.answered 0 (mread s.dram (l * 512 + o) n))

end Sys2Proof.Machine
end

