-- ==== Sys2Proof/Machine/Resume.lean ====
section
/-!
DEFINITION. LOAD_REPLY: what a reply does for each request in the load wait (R26, R27, R90-R93, R243).
-/

namespace Sys2Proof.Machine

/-- An instruction goes on after a lookup that it made on the way. None: it must wait on. -/
def State.goesOn (s : State) (p t : Nat) (stage : Stage) : Option State :=
  let s' := s.take p t
  match stage with
  | .launch r => s'.resume p t (launchRecord r s')
  | stage => s.heapGoesOn p t stage

/-- An atomic that no slice makes, at a pod receiver once the thread's earlier stores there are settled (R104-R106); one in the direct range
completes as it issues. -/
def State.farAtomic (s : State) (p t : Nat) (r : Req) (u : Elem) : Option State :=
  match u.place with
  | .line _ _ _ | .direct _ => none
  | _ => if (s.core p).olderStore t (s.core p).jord u then none else some (s.remoteAtomic p t r u)

/-- A request in the load wait with no translation missing, as its reply finds it. None: this reply does nothing for it. -/
def State.reply (s : State) (p t : Nat) (r : Req) (skip : List Nat) : Option State :=
  match r.kind with
  | .tlbr d =>
    let x := (r.todo.headD ⟨0, 0, 8, 0, .direct 0⟩).va
    some (((s.take p t).gw d (s.bankWord p x)).complete p t)
  | .tlbi _ _ _ | .seed _ _ | .strict _ _ _ _ | .fetch | .hlog _ _ | .hswap _ _ | .hpin _ _ => none
  -- an operation that had to wait begins (R312, R316)
  | .migr _ _ => some (s.migBegin p t)
  | .lookup stage => s.goesOn p t stage
  | .st | .cache _ => s.postWaiting p t r
  | .atom _ _ _ _ _ _ => r.todo.head?.bind (s.farAtomic p t r)
  | .ld _ _ | .vld _ _ _ | .hldr _ _ _ =>
    if (r.todo.head?.bind Elem.line).isSome && s.reseeding (s.core p).ctx then none else s.serveLoad p t r skip

/-- LOAD_REPLY (R26, R90 step 6, R93, R100, R135, R243): the first unit that is still out, with the rest of its line, is served, but for
the lanes that `skip` names; the last ends the wait. `ext` are other writers' writes to host and pod bytes that landed before. -/
def execLoadReply : Nat → Portion → List (Nat × Byte) → State → Out
  | core, ⟨thr, skip⟩, ext, s => .next (match (s.thread core thr).wait with
    | .load r =>
      if r.miss || (s.core core).moveTo.isSome then s else ((s.landed ext).reply core thr r skip).getD s
    | _ => s)

end Sys2Proof.Machine
end

