-- ==== Sys2Proof/Machine/Sponge.lean ====
section
/-!
DEFINITION. The digest SHAKE256 (R398, R399), as its standard (FIPS 202) defines it: the permutation Keccak-f[1600] on 25 lanes of 64 bits,
and a sponge of 136 bytes with the suffix of SHAKE. Lane `x + 5 y` stands at place `x + 5 y` of the list.
-/

namespace Sys2Proof.Machine

/-- Rotation of each lane. -/
def keccakRho : List Nat := [0, 1, 62, 28, 27, 36, 44, 6, 55, 20, 3, 10, 43, 25, 39, 41, 45, 15, 21, 8, 18, 2, 61, 56, 14]

/-- The constants of the 24 rounds. -/
def keccakRc : List Word := [
  0x0000000000000001, 0x0000000000008082, 0x800000000000808A, 0x8000000080008000, 0x000000000000808B, 0x0000000080000001,
  0x8000000080008081, 0x8000000000008009, 0x000000000000008A, 0x0000000000000088, 0x0000000080008009, 0x000000008000000A,
  0x000000008000808B, 0x800000000000008B, 0x8000000000008089, 0x8000000000008003, 0x8000000000008002, 0x8000000000000080,
  0x000000000000800A, 0x800000008000000A, 0x8000000080008081, 0x8000000000008080, 0x0000000080000001, 0x8000000080008008]

/-- Five lanes of one plane as lists, columns apart. -/
def keccakLane (a : List Word) (i : Nat) : Word := a.getD i 0

/-- The parity of each column goes to its neighbours. -/
def keccakTheta (a : List Word) : List Word :=
  let c := (List.range 5).map fun x => (List.range 5).foldl (fun v y => v ^^^ keccakLane a (x + 5 * y)) 0
  let d := (List.range 5).map fun x => c.getD ((x + 4) % 5) 0 ^^^ (c.getD ((x + 1) % 5) 0).rotateLeft 1
  (List.range 25).map fun i => keccakLane a i ^^^ d.getD (i % 5) 0

/-- Lanes rotate and change places. -/
def keccakRhoPi (a : List Word) : List Word :=
  (List.range 25).map fun i =>
    let j := (i % 5 + 3 * (i / 5)) % 5 + 5 * (i % 5)
    (keccakLane a j).rotateLeft (keccakRho.getD j 0)

/-- The step that is not linear, and the round's constant. -/
def keccakChi (rc : Word) (b : List Word) : List Word :=
  (List.range 25).map fun i =>
    let row := i / 5 * 5
    let v := keccakLane b i ^^^ (~~~ keccakLane b (row + (i + 1) % 5) &&& keccakLane b (row + (i + 2) % 5))
    if i = 0 then v ^^^ rc else v

/-- The permutation. -/
def keccakF (a : List Word) : List Word := keccakRc.foldl (fun a rc => keccakChi rc (keccakRhoPi (keccakTheta a))) a

/-- A byte string padded to a multiple of 136 bytes. -/
def shakePad (bs : List Byte) : List Byte :=
  let k := 135 - bs.length % 136
  if k = 0 then bs ++ [0x9F] else bs ++ 0x1F :: List.replicate (k - 1) 0 ++ [0x80]

/-- Takes in `n` blocks. -/
def shakeAbsorb : Nat → List Byte → List Word → List Word
  | 0, _, a => a
  | n + 1, bs, a =>
    let block := bs.take 136
    let lane (i : Nat) : Word := BitVec.ofNat 64 (((block.drop (8 * i)).take 8).foldr (fun b v => b.toNat + 256 * v) 0)
    shakeAbsorb n (bs.drop 136) (keccakF ((List.range 25).map fun i => keccakLane a i ^^^ (if i < 17 then lane i else 0)))

/-- SHAKE256 of a byte string: its first 64 bytes, little-endian. -/
def shake256 (bs : List Byte) : BitVec 512 :=
  let p := shakePad bs
  let a := shakeAbsorb (p.length / 136) p (List.replicate 25 0)
  BitVec.ofNat 512 ((a.take 8).foldr (fun w v => w.toNat + 2 ^ 64 * v) 0)

end Sys2Proof.Machine
end

