-- ==== Sys2Proof/Machine/Service.lean ====
section
/-!
DEFINITION. Bring-up, integrity and debug (R7, R15, R252, R385, R395-R405): power, die states and clocks, die resets, firmware,
attestation, tracing, and configuration registers with no behaviour of their own.
-/

namespace Sys2Proof.Machine

/-! ### Power and die states (R384, R385, R395-R397, R401) -/

/-- The edges of a die's site. -/
def edgesOf (d : Nat) : List Nat := ((List.range 4).map fun i => 4 * siteOfDie d + i).filter linkExists

/-- Every edge of a die that is not UP trains. -/
def State.trainEdges (s : State) (d : Nat) : State :=
  (edgesOf d).foldl (fun s n => if (s.link n).st = .up || (s.link n).st = .training then s else s.linkTo n 0 .training) s

/-- POWER_ON (R395): everything at its reset value; what lies outside the module stays, and the links begin to train (R373). -/
def execPowerOn (s : State) : Out :=
  .next (
    let s' : State := { State.reset with tick := s.tick, agenda := s.agenda, host := s.host, pod := s.pod }
    ((List.range 641).filter linkExists).foldl (fun s n => if (s.link n).st = .training then s else s.linkTo n 0 .training) s')

/-- DIE_RESET_END (R384, R395): the time counter starts at 0. -/
def execDieResetEnd (die : Nat) (s : State) : Out :=
  .next (if die < 72 && (s.die die).st == .reset then
      (s.setDie die { s.die die with st := .training, time := 0 }).trainEdges die
    else s)

/-- A Umator thread of an image at a device address (R311, R398). -/
def firmwareThread (a t : Nat) (old : Thread) : Thread :=
  { seq := old.seq, cell := { seq := old.cell.seq, base := old.cell.seq }, st := .inRot, regs := { pc := wordPc (Config.firmwareEntry (a * 16 + t)).toNat } }

/-- The Setter cores of a die run an image. DESIGN CHOICE (log 69): R64 and R398 do not say whether fresh Umator threads on an all-FREE Setter core
are a first placement; its numerical counters and delay accumulators stay. -/
def State.startUmator (s : State) (d a : Nat) : State :=
  (List.range 16).foldl (fun s i =>
    let p := setterBase + 16 * d + i
    let ts := ((s.core p).threads.filter fun e => e.2.st != .free).map Prod.fst
    let s := ts.foldl (fun s t => s.leave p t) s
    s.modCore p fun c =>
      { (List.range 16).foldl (fun c t => c.setThread t (firmwareThread a t (c.thread t))) c with ctx := 64 }) s

/-- DIE_TRAINING_DONE (R8, R395, R396): EARLY at 600 MHz, or FAILED, which leaves its logical cores dead. Setter cores take up an
image that runs (log 39). -/
def execDieTrainingDone (die : Nat) (s : State) : Out :=
  .next (
    let x := s.die die
    if 72 ≤ die || x.st ≠ .training then s
    else if (edgesOf die).any fun n => (s.link n).st == .up then
      let s := s.setDie die { x with st := .early, clk := 1 }
      if s.panel.fwdig.isSome then s.startUmator die s.panel.fwaddr else s
    else if (edgesOf die).any fun n => (s.link n).st == .training then s
    else
      let s := s.setDie die { x with st := .failed, clk := 0 }
      { s with lmap := (List.range 18432).foldl (fun m l => match s.phys l with
          | some p => if dieOf p = die then tset m l none else m
          | none => m) s.lmap })

/-- Training is over on the whole panel: no link is TRAINING, the table set in force is legal (R378), and every memory site can be
reached (R395). -/
def State.panelTrained (s : State) : Bool :=
  (List.range 641).all (fun n => (s.link n).st != .training) && (List.range 72).all (fun k => s.liveSite (siteOfStack k)) &&
    s.setOk s.routes

/-- DIE_FULL (R395, R397): no instruction is in issue between two steps of the schedule. -/
def execDieFull (die : Nat) (s : State) : Out :=
  .next (if die < 72 && (s.die die).st == .early && s.panelTrained then s.setDie die { s.die die with st := .full, clk := 3 } else s)

/-- POWER_CAP_THROTTLE (R401): to 600 MHz (`slow`) or 900 MHz. -/
def execPowerCapThrottle (die : Nat) (slow : Bool) (s : State) : Out :=
  .next (
    let x := s.die die
    let clk := if slow then 1 else 2
    if x.st = .full && clk < x.clk then s.setDie die { x with clk := clk } else s)

/-- POWER_CAP_RELEASE (R401): to 1.2 GHz (`full`) or 900 MHz. -/
def execPowerCapRelease (die : Nat) (full : Bool) (s : State) : Out :=
  .next (
    let x := s.die die
    let clk := if full then 3 else 2
    if x.st = .full && x.clk < clk then s.setDie die { x with clk := clk } else s)

/-- CLOCK_MEASUREMENT (R385): die 0's ZERO is 0. -/
def execClockMeasurement (die : Nat) (zero rate : Word) (s : State) : Out :=
  .next (
    let x := s.die die
    if 72 ≤ die || x.st == .reset || x.st == .failed then s
    else s.setDie die { x with zero := if die = 0 then 0 else zero, rate := rate })

/-- CORRECTED_ERROR (R395, R400): CE saturates. -/
def execCorrectedError (die : Nat) (s : State) : Out :=
  .next (
    let x := s.die die
    if 72 ≤ die || x.st == .reset then s
    else s.setDie die { x with ce := if x.ce = BitVec.allOnes 32 then x.ce else x.ce + 1 })

/-! ### A die reset (R252, R320, R384, R400) -/

/-- The address of a line under ORD placement, by which records name it (R407). -/
def lineAddr (l : Nat) : Nat := (l % 4194304 * 3456 + l / 4194304) * 512

/-- Contexts with a thread on a die or an offer at its Bugles. -/
def State.ctxsOn (s : State) (d : Nat) : List Nat :=
  ((s.cores.filter fun e => dieOf e.1 == d && !isSetter e.1 && !e.2.idle).map (fun e => e.2.ctx) ++
    ((s.bugles.filter fun e => e.1 / 32 == d).flatMap fun e => e.2.offers.map fun o => o.key.ctx)).dedup.filter (· < 64)

/-- Occupied thread contexts of a context on a die. -/
def State.threadsOn (s : State) (d c : Nat) : Nat :=
  ((s.cores.filter fun e => dieOf e.1 == d && !isSetter e.1 && e.2.ctx == c).flatMap fun e =>
    e.2.threads.filter fun t => t.2.st != .free).length

/-- Events of some contexts that a die has a hand in: at its Bugles, or with a party on it. -/
def State.eventsOn (s : State) (d : Nat) (cs : List Nat) : List (Nat × EvKey) :=
  s.bugles.flatMap fun b => (b.2.evs.filter fun e => cs.contains e.key.ctx && (b.1 / 32 == d ||
    (b.2.of e.key).any (fun o => match o.gtn with
      | some g => match s.partyAt e.key g with
        | some (p, _) => dieOf p == d
        | none => false
      | none => false) ||
    match e.st with
      | .occurring ps _ _ _ => ps.any fun o => match o.gtn with
        | some g => match s.partyAt e.key g with
          | some (p, _) => dieOf p == d
          | none => false
        | none => false
      | _ => false)).map fun e => (b.1, e.key)

/-- Homes poison the lines that the die held exclusively; its shared lines lose their leases (R252). -/
def State.poisonDie (s : State) (d : Nat) : State :=
  let ls := ((s.die d).slices.filter fun x => x.2.excl).map Prod.fst
  ls.foldl (fun s l => { s.setHome l { s.home l with excl := none } with
    poison := if s.poison.contains l then s.poison else l :: s.poison }) s

/-- A team message, which is never lost (R360). -/
def Body.isTeam : Body → Bool
  | .team _ _ => true
  | _ => false

/-- A logical number of a die that no core serves is served again once the die is reset (R334, R336): by its own core, or, where that serves
another number, by the lowest core of its cluster that serves none (DESIGN CHOICE, log 72: no rule says which). -/
def State.revive (s : State) (l : Nat) : State :=
  let free (p : Nat) : Bool := (s.logical p).isNone
  let p := if free (homeCore l) then some (homeCore l) else ((List.range 17).map fun i => l / 16 * 17 + i).find? free
  if (s.phys l).isSome then s else { s with lmap := tset s.lmap l p }

/-- Everything that the die itself holds is gone (R400): its cores, clusters, slices, Bugles, its messages that have not left, teams apart, and the
debugger's commands for its threads. A core that was out of service is in service again (R334, R336). -/
def State.wipeDie (s : State) (d : Nat) : State :=
  let here : Endp → Bool := fun
    | .core l => match s.phys l with
      | some p => dieOf p == d
      | none => false
    | .setter k => k / 16 == d
    | .bugle h => h / 32 == d
    | .kennel k => k == d
    | _ => false
  { s with
    cores := s.cores.map fun e => if dieOf e.1 = d then (e.1, {}) else e
    panel := { s.panel with held := s.panel.held.filter fun x => ((s.whereIs x.2).map fun y => dieOf y.1) != some d }
    clusters := s.clusters.filter fun e => e.1 / 16 != d
    bugles := s.bugles.filter fun e => e.1 / 32 != d
    net := s.net.filter fun m => !(m.pos == siteOfDie d && here m.src) || m.body.isTeam
    misses := s.misses.filter fun m => m.cluster / 16 != d
    facks := s.facks.filter fun f => dieOf f.core != d
    launches := s.launches.filter fun r => r.gtn / 4096 != d
    dies := tset s.dies d { s.die d with st := .reset, clk := 0, ce := 0, time := 0, slices := [], trace := [], traceAt := 0, traceOn := false } }

/-- DIE_RESET (R252, R320, R373, R395, R400): an uncorrectable error in state that no context owns. Each context that loses lines,
threads or offers gets one record: of its poisoned lines and the lowest of them, or of its lost threads (log 40). -/
def execDieReset (die : Nat) (s : State) : Out :=
  .next (
    let x := s.die die
    if 72 ≤ die || x.st == .reset || x.st == .failed then s
    else
      let lines (c : Nat) : List Nat := (x.slices.filter fun e => e.2.excl && e.2.ctx == c).map fun e => lineAddr e.1
      let cs := s.ctxsOn die
      let owners := ((x.slices.filter fun e => e.2.excl && e.2.ctx < 64).map fun e => e.2.ctx).dedup
      let moving : Option (Nat × Bool) := if !s.busy then none else
        match s.phys (bits s.panel.precmd 14 0) with
        | some p => if dieOf p = die then some (bits s.panel.precmd 14 0, (s.core p).moveCmd) else none
        | none => none
      let evs := s.eventsOn die cs
      let s := s.poisonDie die
      let lost := cs.map fun c => (c, s.threadsOn die c)
      let s := lost.foldl (fun s c =>
        match lines c.1 with
        | [] => s.contextLost c.1 c.2 die 0
        | a :: as => s.contextLost c.1 (as.length + 1) die (BitVec.ofNat 64 (as.foldl min a))) s
      let s := (owners.filter fun c => !cs.contains c).foldl (fun s c =>
        match lines c with
        | [] => s
        | a :: as =>
          let fmode : Word := match s.kernels.find? fun e => e.2.ctx == c with
            | some (_, k) => k.fmode
            | none => BitVec.ofNat 64 (s.fmodeOf c)
          let r := plainRecord 18 0 0 (BitVec.ofNat 64 (as.foldl min a)) 0 ((as.length + 1) % 2 ^ 32 + die * 2 ^ 32)
          if bits fmode 2 1 = 1 then s.toUmator (die * 16) 0x3000000000000001 r.data 0 (some (c, 256, 0)) else s.toHost c r) s
      let s := evs.foldl (fun s e => s.wreckEvent e.1 e.2) s
      let s := s.wipeDie die
      let s := (List.range 256).foldl (fun s i => s.revive (256 * die + i)) s
      let s := (edgesOf die).foldl (fun s n => s.linkTo n 0 .training) s
      let s := match moving with
        | some (l, cmd) => s.endMove l cmd true
        | none => s
      s.msi 0)

/-! ### Firmware (R398) -/

/-- Bytes of device memory by physical address under ORD placement. -/
def State.deviceBytes (s : State) (a n : Nat) : List Byte :=
  (List.range n).map fun i =>
    let x := ordPlace (a + i)
    mget s.dram (x.1 * 512 + x.2)

/-- FIRMWARE_LOAD (R398): FWCTL, CMD in [63:62] and the image's address below (log 41). A write while an image is being checked
changes nothing. -/
def execFirmwareLoad (val : Word) (s : State) : Out :=
  .next (
    if s.panel.fwload.isSome then s
    else
      let p := { s.panel with fwctl := val }
      { s with panel := if bits val 63 62 = 1 then { p with fwload := some (bits val 47 0) } else p })

/-- An image at an address passes the Setter cores' check. -/
def State.imageOk (s : State) (a : Nat) : Bool :=
  let hdr := s.deviceBytes a 1360
  let len := leNat (hdr.take 8)
  let ver := leNat ((hdr.drop 8).take 8)
  let dig : BitVec 512 := BitVec.ofNat 512 (leNat ((hdr.drop 16).take 64))
  let sig : BitVec 10240 := BitVec.ofNat 10240 (leNat (hdr.drop 80))
  len ≤ 2 ^ 24 && Config.minVersion ≤ ver && shake256 (s.deviceBytes (a + 1360) len) == dig && Config.falconVerify dig sig

/-- A Setter core's thread whose cell some event's home holds. -/
def State.umatorClaimed (s : State) : Bool :=
  s.cores.any fun e => isSetter e.1 && e.2.threads.any fun t => t.2.cell.st == .claimed

/-- FIRMWARE_RELOAD_DONE (R398): STATUS 1 and fresh Umator threads, once no cell of the old ones is claimed; or STATUS 2. -/
def execFirmwareReloadDone (s : State) : Out :=
  .next (match s.panel.fwload with
    | none => s
    | some a =>
      if s.imageOk a then
        if s.umatorClaimed then s
        else
          let dig := BitVec.ofNat 512 (leNat (s.deviceBytes (a + 16) 64))
          let s := { s with panel := { s.panel with fwload := none, fwstat := 1, fwdig := some dig, fwaddr := a } }
          ((List.range 72).filter fun d => (s.die d).st == .early || (s.die d).st == .full).foldl (fun s d => s.startUmator d a) s
      else { s with panel := { s.panel with fwload := none, fwstat := 2 } })

/-! ### Attestation (R399) -/

/-- A number's low bytes, little-endian. -/
def leBytes : Nat → Nat → List Byte
  | 0, _ => []
  | n + 1, v => BitVec.ofNat 8 v :: leBytes n (v / 256)

def DieSt.code : DieSt → Nat
  | .reset => 0
  | .training => 1
  | .early => 2
  | .full => 3
  | .failed => 4

/-- A die's register of R395. -/
def Die.word (x : Die) : Word := BitVec.ofNat 64 (x.st.code * 2 ^ 61 + x.clk * 2 ^ 58 + x.ce.toNat)

/-- ATTESTATION_REPORT (R399): the write of the nonce's last 8 bytes. The report in place goes. -/
def execAttestationReport (val : Word) (s : State) : Out :=
  .next { s with panel := { s.panel with nonce := tset s.panel.nonce 3 val, atBusy := true, report := [] } }

/-- ATTESTATION_REPORT_DONE (R399): nonce, digest of the running image, die registers, their digest, its signature, zeros. -/
def execAttestationReportDone (s : State) : Out :=
  .next (
    if !s.panel.atBusy then s
    else
      let nonce := (List.range 4).flatMap fun i => leBytes 8 (tget 0 s.panel.nonce i).toNat
      let dig := leBytes 64 (s.panel.fwdig.getD 0).toNat
      let dies := (List.range 72).flatMap fun d => leBytes 8 (s.die d).word.toNat
      let body := nonce ++ dig ++ dies
      let rdig := shake256 body
      let report := body ++ leBytes 64 rdig.toNat ++ leBytes 1280 (Config.falconSign rdig).toNat ++ List.replicate 32 0
      { s with panel := { s.panel with report := report, atBusy := false, atCount := s.panel.atCount + 1 } })

/-! ### Debug registers and the rest (R7, R15, R387, R403-R405) -/

/-- TRCCTL_WRITE (R405): a new setting begins a new run of records. -/
def execTrcctlWrite (val : Word) (s : State) : Out :=
  .next (
    let v : Word := BitVec.ofNat 64 (bits val 63 62 * 2 ^ 62 + bits val 10 0)
    if v = s.panel.trcctl then s
    else { s with panel := { s.panel with trcctl := v }, dies := s.dies.map fun e => (e.1, { e.2 with traceOn := false }) })

/-- The core whose racy-store ring the window shows (R405): the one that serves the logical number of RINGSEL. -/
def State.ringCore (s : State) : Core := ((s.phys s.panel.ringsel.toNat).map s.core).getD {}

/-- RINGCNT at 0xB20 (R405). -/
def State.ringCnt (s : State) : Word := BitVec.ofNat 64 s.ringCore.racyN

/-- The 16 bytes of record `n` as the window at 0x3_8000 shows them, for the 1,024 records that are present (R251, R405); 0 where none is. -/
def State.ringWindow (s : State) (n : Nat) : Nat :=
  let c := s.ringCore
  match (List.range c.racy.length).find? fun i => (c.racyN - 1 - i) % 1024 == n with
  | some i => match c.racy[i]? with
    | some r => r.time.toNat + r.src.toNat * 2 ^ 64 + r.addr.toNat * 2 ^ 96
    | none => 0
  | none => 0

/-- RINGSEL_WRITE (R405): a value above 18,431 is ignored. -/
def execRingselWrite (val : Word) (s : State) : Out :=
  .next (if 18431 < val.toNat then s else { s with panel := { s.panel with ringsel := val } })

/-- CONFIG_REGISTER_WRITE (R15, R387, R399, R403-R405): an aligned 8-byte write to a register with no behaviour of its own. RO and
HW registers, and offsets that name none, keep what they hold. A word of a queue's descriptor is held for the write of V = 1 (R339). -/
def execConfigRegisterWrite (off : Nat) (val : Word) (s : State) : Out :=
  .next (
    let p := s.panel
    if off % 8 ≠ 0 then s
    else if off = 0x700 then { s with panel := { p with dbg := val } }
    else if off = 0xB08 then { s with panel := { p with trcbase := val } }
    else if 0x800 ≤ off && off < 0x840 then { s with panel := { p with bps := tset p.bps ((off - 0x800) / 8) (setBits val 62 62 0) } }
    else if 0x580 ≤ off && off < 0x598 then { s with panel := { p with nonce := tset p.nonce ((off - 0x580) / 8) val } }
    else if 0x2000 ≤ off && off < 0x2800 then
      let v := if off % 32 = 24 then BitVec.ofNat 64 (bits val 31 22 * 2 ^ 22) else val
      { s with panel := { p with conf := tset p.conf off v } }
    else if 0x20000 ≤ off && off < 0x30000 then s.queueWrite ((off - 0x20000) / 64) [((off - 0x20000) / 8 % 8, val)]
    else s)

/-- SPARE_REMAP (R7, R8): the spare, physical core 16 of the logical core's cluster, takes its number. Neither may be in use, and a
FAILED die has only dead cores (R395). -/
def execSpareRemap (lcore : Nat) (s : State) : Out :=
  .next (
    let q := lcore / 16 * 17 + 16
    let free (p : Nat) : Bool := (s.core p).idle && (s.core p).slot.isNone && (s.core p).moveTo.isNone &&
      s.cores.all fun e => e.2.moveTo != some p
    let old : Bool := match s.phys lcore with
      | some p => free p && p != q
      | none => true
    if lcore < 18432 && (s.logical q).isNone && !(s.core q).retired && (s.die (dieOf q)).st != .failed && free q && old then { s with lmap := tset s.lmap lcore (some q) }
    else s)

end Sys2Proof.Machine
end

