-- ==== Sys2Proof/Machine/Dispatch.lean ====
section
/-!
DEFINITION. One arm for every row of the opcode table, each a direct call of that row's meaning.
-/

namespace Sys2Proof.Machine

def exec (i : Instr) (s : State) : Host.Outcome State Fault Refusal :=
  match i with
  | .add d a b => Sys2Proof.Machine.execAdd d a b s
  | .sub d a b => Sys2Proof.Machine.execSub d a b s
  | .and d a b => Sys2Proof.Machine.execAnd d a b s
  | .or d a b => Sys2Proof.Machine.execOr d a b s
  | .xor d a b => Sys2Proof.Machine.execXor d a b s
  | .andn d a b => Sys2Proof.Machine.execAndn d a b s
  | .sll d a b => Sys2Proof.Machine.execSll d a b s
  | .srl d a b => Sys2Proof.Machine.execSrl d a b s
  | .sra d a b => Sys2Proof.Machine.execSra d a b s
  | .mul d a b => Sys2Proof.Machine.execMul d a b s
  | .mulh d a b => Sys2Proof.Machine.execMulh d a b s
  | .mulhn d a b => Sys2Proof.Machine.execMulhn d a b s
  | .div d a b => Sys2Proof.Machine.execDiv d a b s
  | .divn d a b => Sys2Proof.Machine.execDivn d a b s
  | .rem d a b => Sys2Proof.Machine.execRem d a b s
  | .remn d a b => Sys2Proof.Machine.execRemn d a b s
  | .slt d a b => Sys2Proof.Machine.execSlt d a b s
  | .sltn d a b => Sys2Proof.Machine.execSltn d a b s
  | .min d a b => Sys2Proof.Machine.execMin d a b s
  | .max d a b => Sys2Proof.Machine.execMax d a b s
  | .minn d a b => Sys2Proof.Machine.execMinn d a b s
  | .maxn d a b => Sys2Proof.Machine.execMaxn d a b s
  | .clz d a => Sys2Proof.Machine.execClz d a s
  | .ctz d a => Sys2Proof.Machine.execCtz d a s
  | .popc d a => Sys2Proof.Machine.execPopc d a s
  | .extI8 d a => Sys2Proof.Machine.execExtI8 d a s
  | .extN8 d a => Sys2Proof.Machine.execExtN8 d a s
  | .extI16 d a => Sys2Proof.Machine.execExtI16 d a s
  | .extN16 d a => Sys2Proof.Machine.execExtN16 d a s
  | .extI32 d a => Sys2Proof.Machine.execExtI32 d a s
  | .extN32 d a => Sys2Proof.Machine.execExtN32 d a s
  | .addi d a imm => Sys2Proof.Machine.execAddi d a imm s
  | .andi d a imm => Sys2Proof.Machine.execAndi d a imm s
  | .ori d a imm => Sys2Proof.Machine.execOri d a imm s
  | .xori d a imm => Sys2Proof.Machine.execXori d a imm s
  | .slli d a sh => Sys2Proof.Machine.execSlli d a sh s
  | .srli d a sh => Sys2Proof.Machine.execSrli d a sh s
  | .srai d a sh => Sys2Proof.Machine.execSrai d a sh s
  | .slti d a imm => Sys2Proof.Machine.execSlti d a imm s
  | .sltni d a imm => Sys2Proof.Machine.execSltni d a imm s
  | .lui d imm => Sys2Proof.Machine.execLui d imm s
  | .addpc d imm => Sys2Proof.Machine.execAddpc d imm s
  | .skipReg cc a b n => Sys2Proof.Machine.execSkipReg cc a b n s
  | .skipImm cc a imm n => Sys2Proof.Machine.execSkipImm cc a imm n s
  | .br cc a off => Sys2Proof.Machine.execBr cc a off s
  | .j off => Sys2Proof.Machine.execJ off s
  | .call off => Sys2Proof.Machine.execCall off s
  | .jr a => Sys2Proof.Machine.execJr a s
  | .callr d a => Sys2Proof.Machine.execCallr d a s
  | .ld d a sz imm => Sys2Proof.Machine.execLd d a sz imm s
  | .st d a sz imm => Sys2Proof.Machine.execSt d a sz imm s
  | .atomSwap d a b wd => Sys2Proof.Machine.execAtomSwap d a b wd s
  | .atomAdd d a b wd => Sys2Proof.Machine.execAtomAdd d a b wd s
  | .atomAnd d a b wd => Sys2Proof.Machine.execAtomAnd d a b wd s
  | .atomOr d a b wd => Sys2Proof.Machine.execAtomOr d a b wd s
  | .atomXor d a b wd => Sys2Proof.Machine.execAtomXor d a b wd s
  | .atomMax d a b wd nat => Sys2Proof.Machine.execAtomMax d a b wd nat s
  | .atomMin d a b wd nat => Sys2Proof.Machine.execAtomMin d a b wd nat s
  | .atomCas d a b wd => Sys2Proof.Machine.execAtomCas d a b wd s
  | .pinL a => Sys2Proof.Machine.execPinL a s
  | .unpinL a => Sys2Proof.Machine.execUnpinL a s
  | .flush a => Sys2Proof.Machine.execFlush a s
  | .inval a => Sys2Proof.Machine.execInval a s
  | .pref a => Sys2Proof.Machine.execPref a s
  | .crr d crn => Sys2Proof.Machine.execCrr d crn s
  | .crw a crn => Sys2Proof.Machine.execCrw a crn s
  | .crs d a crn => Sys2Proof.Machine.execCrs d a crn s
  | .crc d a crn => Sys2Proof.Machine.execCrc d a crn s
  | .nop => Sys2Proof.Machine.execNop s
  | .trap n => Sys2Proof.Machine.execTrap n s
  | .eret => Sys2Proof.Machine.execEret s
  | .halt => Sys2Proof.Machine.execHalt s
  | .yield => Sys2Proof.Machine.execYield s
  | .brk n => Sys2Proof.Machine.execBrk n s
  | .fackResume a => Sys2Proof.Machine.execFackResume a s
  | .fackSkip a => Sys2Proof.Machine.execFackSkip a s
  | .fackKill a => Sys2Proof.Machine.execFackKill a s
  | .vadd d a b m ty => Sys2Proof.Machine.execVadd d a b m ty s
  | .vsub d a b m ty => Sys2Proof.Machine.execVsub d a b m ty s
  | .vmul d a b m ty => Sys2Proof.Machine.execVmul d a b m ty s
  | .vmin d a b m ty => Sys2Proof.Machine.execVmin d a b m ty s
  | .vmax d a b m ty => Sys2Proof.Machine.execVmax d a b m ty s
  | .vclamp d a b m ty => Sys2Proof.Machine.execVclamp d a b m ty s
  | .vabs d a m ty => Sys2Proof.Machine.execVabs d a m ty s
  | .vneg d a m ty => Sys2Proof.Machine.execVneg d a m ty s
  | .vand d a b m ty => Sys2Proof.Machine.execVand d a b m ty s
  | .vor d a b m ty => Sys2Proof.Machine.execVor d a b m ty s
  | .vxor d a b m ty => Sys2Proof.Machine.execVxor d a b m ty s
  | .vsll d a b m ty => Sys2Proof.Machine.execVsll d a b m ty s
  | .vsrl d a b m ty => Sys2Proof.Machine.execVsrl d a b m ty s
  | .vsra d a b m ty => Sys2Proof.Machine.execVsra d a b m ty s
  | .vrcp d a m ty => Sys2Proof.Machine.execVrcp d a m ty s
  | .vrsq d a m ty => Sys2Proof.Machine.execVrsq d a m ty s
  | .vsqrt d a m ty => Sys2Proof.Machine.execVsqrt d a m ty s
  | .vexp2 d a m ty => Sys2Proof.Machine.execVexp2 d a m ty s
  | .vlog2 d a m ty => Sys2Proof.Machine.execVlog2 d a m ty s
  | .vdiv d a b m ty => Sys2Proof.Machine.execVdiv d a b m ty s
  | .vadds d a b m ty => Sys2Proof.Machine.execVadds d a b m ty s
  | .vsubs d a b m ty => Sys2Proof.Machine.execVsubs d a b m ty s
  | .vfma d a b m ty => Sys2Proof.Machine.execVfma d a b m ty s
  | .vfms d a b m ty => Sys2Proof.Machine.execVfms d a b m ty s
  | .vnfma d a b m ty => Sys2Proof.Machine.execVnfma d a b m ty s
  | .vcmpEq d a b m ty => Sys2Proof.Machine.execVcmpEq d a b m ty s
  | .vcmpNe d a b m ty => Sys2Proof.Machine.execVcmpNe d a b m ty s
  | .vcmpLt d a b m ty => Sys2Proof.Machine.execVcmpLt d a b m ty s
  | .vcmpGe d a b m ty => Sys2Proof.Machine.execVcmpGe d a b m ty s
  | .vcmpLe d a b m ty => Sys2Proof.Machine.execVcmpLe d a b m ty s
  | .vcmpGt d a b m ty => Sys2Proof.Machine.execVcmpGt d a b m ty s
  | .vsel d a b m ty => Sys2Proof.Machine.execVsel d a b m ty s
  | .mand d a b => Sys2Proof.Machine.execMand d a b s
  | .mor d a b => Sys2Proof.Machine.execMor d a b s
  | .mxor d a b => Sys2Proof.Machine.execMxor d a b s
  | .mnot d a => Sys2Proof.Machine.execMnot d a s
  | .vperm d a b m ty => Sys2Proof.Machine.execVperm d a b m ty s
  | .vslup d a b m ty => Sys2Proof.Machine.execVslup d a b m ty s
  | .vsldn d a b m ty => Sys2Proof.Machine.execVsldn d a b m ty s
  | .vzip d a b m ty => Sys2Proof.Machine.execVzip d a b m ty s
  | .vunzip d a b m ty => Sys2Proof.Machine.execVunzip d a b m ty s
  | .vrev d a m ty => Sys2Proof.Machine.execVrev d a m ty s
  | .vcvt d a m dty sty rtz => Sys2Proof.Machine.execVcvt d a m dty sty rtz s
  | .vpack4F32 d a b m => Sys2Proof.Machine.execVpack4F32 d a b m s
  | .vpack4Half d a m bf => Sys2Proof.Machine.execVpack4Half d a m bf s
  | .vunpack4Half d a m bf k => Sys2Proof.Machine.execVunpack4Half d a m bf k s
  | .vunpack4F32 d a m k h => Sys2Proof.Machine.execVunpack4F32 d a m k h s
  | .vrsum d a m ty => Sys2Proof.Machine.execVrsum d a m ty s
  | .vrmax d a m ty => Sys2Proof.Machine.execVrmax d a m ty s
  | .vrmin d a m ty => Sys2Proof.Machine.execVrmin d a m ty s
  | .vrand d a m ty => Sys2Proof.Machine.execVrand d a m ty s
  | .vror d a m ty => Sys2Proof.Machine.execVror d a m ty s
  | .vrxor d a m ty => Sys2Proof.Machine.execVrxor d a m ty s
  | .vld d a m ty => Sys2Proof.Machine.execVld d a m ty s
  | .vlds d a b m ty => Sys2Proof.Machine.execVlds d a b m ty s
  | .vldx d a b m ty => Sys2Proof.Machine.execVldx d a b m ty s
  | .vst d a m ty => Sys2Proof.Machine.execVst d a m ty s
  | .vsts d a b m ty => Sys2Proof.Machine.execVsts d a b m ty s
  | .vstx d a b m ty => Sys2Proof.Machine.execVstx d a b m ty s
  | .vsplat d a m ty => Sys2Proof.Machine.execVsplat d a m ty s
  | .vins d a b ty => Sys2Proof.Machine.execVins d a b ty s
  | .vext d a b ty => Sys2Proof.Machine.execVext d a b ty s
  | .mgetg d a => Sys2Proof.Machine.execMgetg d a s
  | .msetg d a => Sys2Proof.Machine.execMsetg d a s
  | .sync d a n => Sys2Proof.Machine.execSync d a n s
  | .barw a => Sys2Proof.Machine.execBarw a s
  | .barq d a => Sys2Proof.Machine.execBarq d a s
  | .barset a => Sys2Proof.Machine.execBarset a s
  | .evname d a b => Sys2Proof.Machine.execEvname d a b s
  | .evinfo d a => Sys2Proof.Machine.execEvinfo d a s
  | .mma acc a b fa fb => Sys2Proof.Machine.execMma acc a b fa fb s
  | .mgeo a => Sys2Proof.Machine.execMgeo a s
  | .mzero acc => Sys2Proof.Machine.execMzero acc s
  | .msave acc a => Sys2Proof.Machine.execMsave acc a s
  | .mrest acc a => Sys2Proof.Machine.execMrest acc a s
  | .dload p a => Sys2Proof.Machine.execDload p a s
  | .dloadT a b => Sys2Proof.Machine.execDloadT a b s
  | .dbind p a => Sys2Proof.Machine.execDbind p a s
  | .cpy d a => Sys2Proof.Machine.execCpy d a s
  | .gath d a => Sys2Proof.Machine.execGath d a s
  | .scat d a => Sys2Proof.Machine.execScat d a s
  | .fill d a => Sys2Proof.Machine.execFill d a s
  | .cpyEv a => Sys2Proof.Machine.execCpyEv a s
  | .gathEv a => Sys2Proof.Machine.execGathEv a s
  | .scatEv a => Sys2Proof.Machine.execScatEv a s
  | .fillEv a => Sys2Proof.Machine.execFillEv a s
  | .hld d a sz off => Sys2Proof.Machine.execHld d a sz off s
  | .hst d a sz off => Sys2Proof.Machine.execHst d a sz off s
  | .hldr d a off => Sys2Proof.Machine.execHldr d a off s
  | .hstr d a off => Sys2Proof.Machine.execHstr d a off s
  | .hnew d a b => Sys2Proof.Machine.execHnew d a b s
  | .hpin d a => Sys2Proof.Machine.execHpin d a s
  | .hunpin a => Sys2Proof.Machine.execHunpin a s
  | .hcmp d a b => Sys2Proof.Machine.execHcmp d a b s
  | .hmov d a => Sys2Proof.Machine.execHmov d a s
  | .htag d a => Sys2Proof.Machine.execHtag d a s
  | .hget d a => Sys2Proof.Machine.execHget d a s
  | .spawn a b => Sys2Proof.Machine.execSpawn a b s
  | .launch a => Sys2Proof.Machine.execLaunch a s
  | .exit => Sys2Proof.Machine.execExit s
  | .rank d n => Sys2Proof.Machine.execRank d n s
  | .size d n => Sys2Proof.Machine.execSize d n s
  | .tlbw a => Sys2Proof.Machine.execTlbw a s
  | .tlbi a => Sys2Proof.Machine.execTlbi a s
  | .tlbr d a => Sys2Proof.Machine.execTlbr d a s
  | .seed a => Sys2Proof.Machine.execSeed a s
  | .migr a => Sys2Proof.Machine.execMigr a s
  | .drainNop => Sys2Proof.Machine.execDrainNop s
  | .drainAdd d a b => Sys2Proof.Machine.execDrainAdd d a b s
  | .drainSub d a b => Sys2Proof.Machine.execDrainSub d a b s
  | .drainMul d a b => Sys2Proof.Machine.execDrainMul d a b s
  | .drainFma d a b c => Sys2Proof.Machine.execDrainFma d a b c s
  | .drainMax d a b => Sys2Proof.Machine.execDrainMax d a b s
  | .drainMin d a b => Sys2Proof.Machine.execDrainMin d a b s
  | .drainAbs d a => Sys2Proof.Machine.execDrainAbs d a s
  | .drainNeg d a => Sys2Proof.Machine.execDrainNeg d a s
  | .drainClamp d a b c => Sys2Proof.Machine.execDrainClamp d a b c s
  | .drainRcp d a => Sys2Proof.Machine.execDrainRcp d a s
  | .drainRsq d a => Sys2Proof.Machine.execDrainRsq d a s
  | .drainExp2 d a => Sys2Proof.Machine.execDrainExp2 d a s
  | .drainLog2 d a => Sys2Proof.Machine.execDrainLog2 d a s
  | .drainCmp cc d a b => Sys2Proof.Machine.execDrainCmp cc d a b s
  | .drainSel d a b c => Sys2Proof.Machine.execDrainSel d a b c s
  | .drainMov d a => Sys2Proof.Machine.execDrainMov d a s
  | .drainLdi d imm => Sys2Proof.Machine.execDrainLdi d imm s
  | .drainLdc d off => Sys2Proof.Machine.execDrainLdc d off s
  | .drainLdr d off => Sys2Proof.Machine.execDrainLdr d off s
  | .drainLds d t => Sys2Proof.Machine.execDrainLds d t s
  | .drainRredSum k a => Sys2Proof.Machine.execDrainRredSum k a s
  | .drainRredMax k a => Sys2Proof.Machine.execDrainRredMax k a s
  | .drainRget d k => Sys2Proof.Machine.execDrainRget d k s
  | .drainSt a t => Sys2Proof.Machine.execDrainSt a t s
  | .drainStq a kind => Sys2Proof.Machine.execDrainStq a kind s
  | .drainEnd => Sys2Proof.Machine.execDrainEnd s
  | .carveWrite core val => Sys2Proof.Machine.execCarveWrite core val s
  | .vpoolWrite cluster val => Sys2Proof.Machine.execVpoolWrite cluster val s
  | .jrnlWrite core val => Sys2Proof.Machine.execJrnlWrite core val s
  | .fackSent k => Sys2Proof.Machine.execFackSent k s
  | .fackArrival k => Sys2Proof.Machine.execFackArrival k s
  | .syncOffersSent core thr => Sys2Proof.Machine.execSyncOffersSent core thr s
  | .barrierArrivalLatched core thr => Sys2Proof.Machine.execBarrierArrivalLatched core thr s
  | .barrierRelease ch seg => Sys2Proof.Machine.execBarrierRelease ch seg s
  | .offerArrival k => Sys2Proof.Machine.execOfferArrival k s
  | .overflowSlotReturn ctx slot => Sys2Proof.Machine.execOverflowSlotReturn ctx slot s
  | .claimArrival k => Sys2Proof.Machine.execClaimArrival k s
  | .claimGrant k => Sys2Proof.Machine.execClaimGrant k s
  | .claimDenial k => Sys2Proof.Machine.execClaimDenial k s
  | .commitArrival k => Sys2Proof.Machine.execCommitArrival k s
  | .grantReleaseArrival k => Sys2Proof.Machine.execGrantReleaseArrival k s
  | .withdrawalArrival k => Sys2Proof.Machine.execWithdrawalArrival k s
  | .deliveryArrival k => Sys2Proof.Machine.execDeliveryArrival k s
  | .deliveryAck k => Sys2Proof.Machine.execDeliveryAck k s
  | .timerAlternativeDue core thr alt => Sys2Proof.Machine.execTimerAlternativeDue core thr alt s
  | .quiescenceDetected slot => Sys2Proof.Machine.execQuiescenceDetected slot s
  | .chainEntryArrival k => Sys2Proof.Machine.execChainEntryArrival k s
  | .bankOpTake core bank => Sys2Proof.Machine.execBankOpTake core bank s
  | .bankTransferComplete core bank => Sys2Proof.Machine.execBankTransferComplete core bank s
  | .mmaAdmission core => Sys2Proof.Machine.execMmaAdmission core s
  | .chunkAccumulate core => Sys2Proof.Machine.execChunkAccumulate core s
  | .drainGrant core => Sys2Proof.Machine.execDrainGrant core s
  | .drainRowAdmit core => Sys2Proof.Machine.execDrainRowAdmit core s
  | .drainRowCommit core => Sys2Proof.Machine.execDrainRowCommit core s
  | .drainFaultReport core => Sys2Proof.Machine.execDrainFaultReport core s
  | .drainStorePoison core k => Sys2Proof.Machine.execDrainStorePoison core k s
  | .matrixOperationComplete core thr => Sys2Proof.Machine.execMatrixOperationComplete core thr s
  | .dloadTCopyStart core thr => Sys2Proof.Machine.execDloadTCopyStart core thr s
  | .dloadTCopyComplete core thr => Sys2Proof.Machine.execDloadTCopyComplete core thr s
  | .copyRequestLeaves core entry => Sys2Proof.Machine.execCopyRequestLeaves core entry s
  | .copyRequestAccept k => Sys2Proof.Machine.execCopyRequestAccept k s
  | .copyStart ret => Sys2Proof.Machine.execCopyStart ret s
  | .copyElement ret j => Sys2Proof.Machine.execCopyElement ret j s
  | .copySettled ret j => Sys2Proof.Machine.execCopySettled ret j s
  | .zeroExtentCompletion core entry => Sys2Proof.Machine.execZeroExtentCompletion core entry s
  | .tokenWrite k => Sys2Proof.Machine.execTokenWrite k s
  | .relocationRequestAccept k => Sys2Proof.Machine.execRelocationRequestAccept k s
  | .epochBroadcastArrival k => Sys2Proof.Machine.execEpochBroadcastArrival k s
  | .collieEpochAcksDone stack => Sys2Proof.Machine.execCollieEpochAcksDone stack s
  | .collieCopyDone stack => Sys2Proof.Machine.execCollieCopyDone stack s
  | .collieFault stack => Sys2Proof.Machine.execCollieFault stack s
  | .heldStoreRetry core thr => Sys2Proof.Machine.execHeldStoreRetry core thr s
  | .strictFrameAnswer core thr => Sys2Proof.Machine.execStrictFrameAnswer core thr s
  | .frameStanding core j => Sys2Proof.Machine.execFrameStanding core j s
  | .frameDispatch core => Sys2Proof.Machine.execFrameDispatch core s
  | .stealRequest core victim => Sys2Proof.Machine.execStealRequest core victim s
  | .migrationSwitch k => Sys2Proof.Machine.execMigrationSwitch k s
  | .migrationAbandon k => Sys2Proof.Machine.execMigrationAbandon k s
  | .tlbiComplete core thr => Sys2Proof.Machine.execTlbiComplete core thr s
  | .seedChangeComplete ctx => Sys2Proof.Machine.execSeedChangeComplete ctx s
  | .tlbFillReply k => Sys2Proof.Machine.execTlbFillReply k s
  | .hostWalkAnswer tag absent w0 w1 => Sys2Proof.Machine.execHostWalkAnswer tag absent w0 w1 s
  | .slotTurn core => Sys2Proof.Machine.execSlotTurn core s
  | .ptimeSelfAdvance core thr => Sys2Proof.Machine.execPtimeSelfAdvance core thr s
  | .loadReply core thr ext => Sys2Proof.Machine.execLoadReply core thr ext s
  | .leaseRenewal die line need => Sys2Proof.Machine.execLeaseRenewal die line need s
  | .storeAcceptance core entry => Sys2Proof.Machine.execStoreAcceptance core entry s
  | .storeRefusal core entry => Sys2Proof.Machine.execStoreRefusal core entry s
  | .exclusivityRecall line => Sys2Proof.Machine.execExclusivityRecall line s
  | .stashRecall core line => Sys2Proof.Machine.execStashRecall core line s
  | .sliceAtomic core thr => Sys2Proof.Machine.execSliceAtomic core thr s
  | .homeEviction line => Sys2Proof.Machine.execHomeEviction line s
  | .prefetchFillReturn core j => Sys2Proof.Machine.execPrefetchFillReturn core j s
  | .inboundPortWrite k => Sys2Proof.Machine.execInboundPortWrite k s
  | .preemptionFreeze core dst => Sys2Proof.Machine.execPreemptionFreeze core dst s
  | .preemptionAck core => Sys2Proof.Machine.execPreemptionAck core s
  | .forwardingEntryArrival k => Sys2Proof.Machine.execForwardingEntryArrival k s
  | .stopcmdStop gtn => Sys2Proof.Machine.execStopcmdStop gtn s
  | .stopcmdResume gtn => Sys2Proof.Machine.execStopcmdResume gtn s
  | .stopcmdKill gtn => Sys2Proof.Machine.execStopcmdKill gtn s
  | .contextEnable ctx => Sys2Proof.Machine.execContextEnable ctx s
  | .contextDisable ctx => Sys2Proof.Machine.execContextDisable ctx s
  | .contextClosed ctx => Sys2Proof.Machine.execContextClosed ctx s
  | .contextDescriptorWrite ctx off val => Sys2Proof.Machine.execContextDescriptorWrite ctx off val s
  | .faultRingWrite ctx => Sys2Proof.Machine.execFaultRingWrite ctx s
  | .hostFackResume val => Sys2Proof.Machine.execHostFackResume val s
  | .hostFackSkip val => Sys2Proof.Machine.execHostFackSkip val s
  | .hostFackKill val => Sys2Proof.Machine.execHostFackKill val s
  | .precmdPreempt val => Sys2Proof.Machine.execPrecmdPreempt val s
  | .precmdRetire val => Sys2Proof.Machine.execPrecmdRetire val s
  | .machineCheck err => Sys2Proof.Machine.execMachineCheck err s
  | .queueEnable q desc => Sys2Proof.Machine.execQueueEnable q desc s
  | .queueDisable q => Sys2Proof.Machine.execQueueDisable q s
  | .queueTickWrite q val => Sys2Proof.Machine.execQueueTickWrite q val s
  | .tailLineInvalidation addr bytes => Sys2Proof.Machine.execTailLineInvalidation addr bytes s
  | .generatorSeedWrite val => Sys2Proof.Machine.execGeneratorSeedWrite val s
  | .lotteryDraw => Sys2Proof.Machine.execLotteryDraw s
  | .launchAdmission => Sys2Proof.Machine.execLaunchAdmission s
  | .teamPlacement slot team cores => Sys2Proof.Machine.execTeamPlacement slot team cores s
  | .teamForward slot team die => Sys2Proof.Machine.execTeamForward slot team die s
  | .teamArrival k => Sys2Proof.Machine.execTeamArrival k s
  | .placementRegisterWrite val => Sys2Proof.Machine.execPlacementRegisterWrite val s
  | .kernelSink slot => Sys2Proof.Machine.execKernelSink slot s
  | .kernelComplete slot => Sys2Proof.Machine.execKernelComplete slot s
  | .kernelAbort slot cause => Sys2Proof.Machine.execKernelAbort slot cause s
  | .linkTrainingSuccess link lanes => Sys2Proof.Machine.execLinkTrainingSuccess link lanes s
  | .linkTrainingFailure link => Sys2Proof.Machine.execLinkTrainingFailure link s
  | .flitCrcReplay link => Sys2Proof.Machine.execFlitCrcReplay link s
  | .linkDown link => Sys2Proof.Machine.execLinkDown link s
  | .linkRetrainCmd link => Sys2Proof.Machine.execLinkRetrainCmd link s
  | .tableSetInstall set => Sys2Proof.Machine.execTableSetInstall set s
  | .messageForward k => Sys2Proof.Machine.execMessageForward k s
  | .podRequestReceive req => Sys2Proof.Machine.execPodRequestReceive req s
  | .cxlMemWindowWrite val => Sys2Proof.Machine.execCxlMemWindowWrite val s
  | .hostWindowWrite off bytes => Sys2Proof.Machine.execHostWindowWrite off bytes s
  | .hostWindowRead off n => Sys2Proof.Machine.execHostWindowRead off n s
  | .clockMeasurement die zero rate => Sys2Proof.Machine.execClockMeasurement die zero rate s
  | .dieReset die => Sys2Proof.Machine.execDieReset die s
  | .dieResetEnd die => Sys2Proof.Machine.execDieResetEnd die s
  | .dieTrainingDone die => Sys2Proof.Machine.execDieTrainingDone die s
  | .dieFull die => Sys2Proof.Machine.execDieFull die s
  | .powerCapThrottle die slow => Sys2Proof.Machine.execPowerCapThrottle die slow s
  | .correctedError die => Sys2Proof.Machine.execCorrectedError die s
  | .firmwareLoad val => Sys2Proof.Machine.execFirmwareLoad val s
  | .attestationReport val => Sys2Proof.Machine.execAttestationReport val s
  | .trcctlWrite val => Sys2Proof.Machine.execTrcctlWrite val s
  | .ringselWrite val => Sys2Proof.Machine.execRingselWrite val s
  | .configRegisterWrite off val => Sys2Proof.Machine.execConfigRegisterWrite off val s
  | .powerOn => Sys2Proof.Machine.execPowerOn s
  | .spareRemap lcore => Sys2Proof.Machine.execSpareRemap lcore s
  | .preemptionStreamFailure core dst => Sys2Proof.Machine.execPreemptionStreamFailure core dst s
  | .firmwareReloadDone => Sys2Proof.Machine.execFirmwareReloadDone s
  | .attestationReportDone => Sys2Proof.Machine.execAttestationReportDone s
  | .hostRelocationDone stack status => Sys2Proof.Machine.execHostRelocationDone stack status s
  | .powerCapRelease die full => Sys2Proof.Machine.execPowerCapRelease die full s

end Sys2Proof.Machine
end

