-- ==== Sys2Proof/Machine/Step.lean ====
section
/-!
DEFINITION. One step of the machine: the next event, an issue, or a drain micro-op; and how the host places an
instruction where the next step issues it.
-/

namespace Sys2Proof.Machine

/-- The issue of a thread (R28, R71, R98): its word is fetched and decoded, and runs; a word that decodes to nothing raises
ILLEGAL. -/
def stepIssue (s : State) (p t : Nat) : Host.Outcome State Fault Refusal :=
  match s.atIssue.fetchIssue p t with
  | .ended s' => .next s'
  | .run s' w =>
    match decodeWord w with
    | some i => exec i s'
    | none => .next (s'.trapMe .illegal)

/-- The drain unit's next micro-op (R212). -/
def stepDrain (s : State) (p : Nat) : Host.Outcome State Fault Refusal :=
  match s.drainWord p with
  | none => .next s.atIssue
  | some w =>
    match decodeDrain w with
    | some i => exec i (s.atDrain p)
    | none => .next s.atIssue

/-- One step. -/
def step (s : State) : Host.Outcome State Fault Refusal :=
  match s.focus with
  | .issue p t => stepIssue s p t
  | .drain p => stepDrain s p
  | .sched =>
    if s.nextEvent.2.isEvent then exec s.nextEvent.2 s.nextEvent.1 else .next s.nextEvent.1

/-- The page on which `withFetchWord` puts an instruction: virtual and physical address 1 MiB, ORD, all permissions. -/
def placedTlb : Tlb := ⟨BitVec.ofNat 64 (2 ^ 63 + 16), BitVec.ofNat 64 (7 * 2 ^ 57 + 16), false⟩

/-- Thread 0 of core 0 stands IN at virtual address 1 MiB, its core's first-level TLB holds the page, the word lies in
DRAM there, and the thread issues at the next step (log 10 says how a program comes to run from reset). -/
def State.withFetchWord (s : State) (nbits w : Nat) : State :=
  let th : Thread := { s.thread 0 0 with st := .inRot, latch := {}, regs := { (s.thread 0 0).regs with pc := 0x100000 } }
  let c := (s.core 0).setThread 0 th
  let c := { c with ca := { c.ca with tlb := [{ placedTlb with w0 := placedTlb.w0 + BitVec.ofNat 64 (c.ctx % 64 * 2 ^ 55) }] } }
  let pl := ordPlace 0x100000
  { s.setCore 0 c with focus := .issue 0 0, dram := mwrite s.dram (pl.1 * 512 + pl.2) 4 (w % 2 ^ nbits) }

end Sys2Proof.Machine
end

