-- ==== Sys2Proof/Safety.lean ====
section
/-!
DEFINITION. What counts as a sound state: the invariant that claims about steps assume and keep.
-/

namespace Sys2Proof.Machine

/-- Every byte memory of the machine has its canonical form: DRAM, host, pod and each core's direct storage. -/
def State.memWf (s : State) : Prop :=
  Memory.wf s.dram = true ∧ Memory.wf s.host = true ∧ Memory.wf s.pod = true ∧
    ∀ e ∈ s.cores, Memory.wf e.2.direct = true

end Sys2Proof.Machine
end

