-- ==== Sys2Proof/Certificates/Slice0/Obligations.lean ====
section
/-!
DEFINITION. The statements for the provers: one `def Obligations.<Name> : Prop` for each entry of OBLIGATIONS.json, and the
words they are said in.
-/

open Sys2Proof Sys2Proof.Machine

namespace Sys2Proof.Claims

/-! ### The words of the statements -/

/-- An instruction that reads the general registers `rd` and writes `wr` meets no engine token, pending or written and not yet
accessed, and no chain queue (R27, R165, R167); TokenAccess says what an access to a written token adds. -/
def plain (s : State) (rd wr : List GReg) : Bool :=
  (rd ++ wr).all (fun r => r == 0 || !s.me.pend.getLsbD r.val) && !s.me.toks.any (fun e => (rd ++ wr).any fun r => r.val == e.1) &&
    (!rd.contains 28 || s.me.crs.inRoute.isNone) && (!wr.contains 29 || s.me.crs.outRoute.isNone)

/-- The control registers once `ptime` has taken what the loads of the instruction raise it to (R243): nothing, for an instruction
that has made none. -/
def paid (s : State) : Crs := { s.me.crs with ptime := maxW s.me.crs.ptime s.me.due }

/-- The thread in hand once its instruction is complete: retry latch empty, program counter at `pc`, `ptime` as its loads have
left it, all else as in `s`; what the model itself keeps of the instruction while it is under way is let go. -/
def at' (s : State) (pc : BitVec 56) : State :=
  s.modMe fun th => { th with latch := {}, due := 0, taken := [], pinAt := none, passBp := false,
                              crs := { th.crs with ptime := maxW th.crs.ptime th.due }, regs := { th.regs with pc := pc } }

/-- Complete, with the program counter at the next word. -/
def on (s : State) : State := at' s (s.me.regs.pc + 4)

/-- A general register written by R34 and R165: `g0` takes nothing, nor does `g28` while it is a chain input. -/
def putG (s : State) (d : GReg) (v : Word) : State :=
  if d = 0 ∨ (d = 28 ∧ s.me.crs.inRoute ≠ none) then s
  else s.modMe fun th => { th with regs := { th.regs with g := th.regs.g.set d.val v } }

/-- The conditions of R69 on two 64-bit values. -/
def condMeans (c : Cond) (a b : Word) : Prop :=
  match c with
  | .eq => a = b
  | .ne => a ≠ b
  | .lt => a.toInt < b.toInt
  | .ge => b.toInt ≤ a.toInt
  | .ltn => a.toNat < b.toNat
  | .gen => b.toNat ≤ a.toNat
  | .le => a.toInt ≤ b.toInt
  | .gt => b.toInt < a.toInt
  | .len => a.toNat ≤ b.toNat
  | .gtn => b.toNat < a.toNat
  | .bs => a &&& b ≠ 0
  | .bc => a &&& b = 0

/-- The integer of the low `n` bits of a word in two's complement. -/
def sx (x : Word) (n : Nat) : Int := (BitVec.ofNat n x.toNat).toInt

/-- The register operations of R94 with two operands, each with the value it gives. -/
def alu2s : List ((GReg → GReg → GReg → Instr) × (Word → Word → Word)) :=
  [(.add, fun x y => BitVec.ofNat 64 (x.toNat + y.toNat)),
   (.sub, fun x y => BitVec.ofInt 64 (x.toInt - y.toInt)),
   (.and, fun x y => x &&& y),
   (.or, fun x y => x ||| y),
   (.xor, fun x y => x ^^^ y),
   (.andn, fun x y => x &&& ~~~ y),
   (.sll, fun x y => BitVec.ofNat 64 (x.toNat * 2 ^ (y.toNat % 64))),
   (.srl, fun x y => BitVec.ofNat 64 (x.toNat / 2 ^ (y.toNat % 64))),
   (.sra, fun x y => BitVec.ofInt 64 (x.toInt / 2 ^ (y.toNat % 64))),
   (.mul, fun x y => BitVec.ofInt 64 (x.toInt * y.toInt)),
   (.mulh, fun x y => BitVec.ofInt 64 (x.toInt * y.toInt / 2 ^ 64)),
   (.mulhn, fun x y => BitVec.ofNat 64 (x.toNat * y.toNat / 2 ^ 64)),
   (.div, fun x y => if y = 0 then BitVec.allOnes 64 else BitVec.ofInt 64 (x.toInt.tdiv y.toInt)),
   (.divn, fun x y => if y = 0 then BitVec.allOnes 64 else BitVec.ofNat 64 (x.toNat / y.toNat)),
   (.rem, fun x y => if y = 0 then x else BitVec.ofInt 64 (x.toInt.tmod y.toInt)),
   (.remn, fun x y => if y = 0 then x else BitVec.ofNat 64 (x.toNat % y.toNat)),
   (.slt, fun x y => if x.toInt < y.toInt then 1 else 0),
   (.sltn, fun x y => if x.toNat < y.toNat then 1 else 0),
   (.min, fun x y => if x.toInt ≤ y.toInt then x else y),
   (.max, fun x y => if x.toInt ≤ y.toInt then y else x),
   (.minn, fun x y => if x.toNat ≤ y.toNat then x else y),
   (.maxn, fun x y => if x.toNat ≤ y.toNat then y else x)]

/-- The extensions of R94. -/
def exts : List ((GReg → GReg → Instr) × (Word → Word)) :=
  [(.extI8, fun x => BitVec.ofInt 64 (sx x 8)),
   (.extN8, fun x => BitVec.ofNat 64 (x.toNat % 2 ^ 8)),
   (.extI16, fun x => BitVec.ofInt 64 (sx x 16)),
   (.extN16, fun x => BitVec.ofNat 64 (x.toNat % 2 ^ 16)),
   (.extI32, fun x => BitVec.ofInt 64 (sx x 32)),
   (.extN32, fun x => BitVec.ofNat 64 (x.toNat % 2 ^ 32))]

/-- The immediate operations of R95 that read a register. -/
def alui : List ((GReg → GReg → BitVec 16 → Instr) × (Word → BitVec 16 → Word)) :=
  [(.addi, fun x i => BitVec.ofInt 64 (x.toInt + i.toInt)),
   (.andi, fun x i => x &&& i.signExtend 64),
   (.ori, fun x i => x ||| i.signExtend 64),
   (.xori, fun x i => x ^^^ i.signExtend 64),
   (.slti, fun x i => if x.toInt < i.toInt then 1 else 0),
   (.sltni, fun x i => if x.toNat < (i.signExtend 64).toNat then 1 else 0)]

/-- The shifts of R95. -/
def shiftis : List ((GReg → GReg → Fin 64 → Instr) × (Word → Nat → Word)) :=
  [(.slli, fun x n => BitVec.ofNat 64 (x.toNat * 2 ^ n)),
   (.srli, fun x n => BitVec.ofNat 64 (x.toNat / 2 ^ n)),
   (.srai, fun x n => BitVec.ofInt 64 (x.toInt / 2 ^ n))]

end Sys2Proof.Claims

open Sys2Proof.Claims

/-! ### Encoding -/

def Sys2Proof.Claims.EncodeDecode : Prop :=
  ∀ i : Instr, i.wf = true → i.kind = .isa → decodeWord (encode i) = some i

def Sys2Proof.Claims.DrainEncodeDecode : Prop :=
  ∀ i : Instr, i.wf = true → i.kind = .drain → decodeDrain (encode i).toNat = some i

/-- A word that decodes is the encoding of what it decodes to (R65, R70, R71, R79, R80). -/
def Obligations.DecodeEncode : Prop :=
  (∀ (w : BitVec 32) (i : Instr), decodeWord w = some i → i.wf = true ∧ i.kind = .isa ∧ encode i = w) ∧
  ∀ (w : BitVec 32) (i : Instr), decodeDrain w.toNat = some i → i.kind = .drain ∧ encode i = w

/-! ### Scalar -/

def Sys2Proof.Claims.AluRegister : Prop :=
  ∀ row ∈ alu2s, ∀ (d a b : GReg) (s : State), plain s [a, b] [d] = true →
    exec (row.1 d a b) s = .next (on (putG s d (row.2 (s.gr a) (s.gr b))))

def Sys2Proof.Claims.AluUnary : Prop :=
  ∀ (d a : GReg) (s : State), plain s [a] [d] = true →
    (∀ row ∈ exts, exec (row.1 d a) s = .next (on (putG s d (row.2 (s.gr a))))) ∧
    (∃ n : Nat, exec (.clz d a) s = .next (on (putG s d (BitVec.ofNat 64 n))) ∧ n ≤ 64 ∧
      (s.gr a).toNat < 2 ^ (64 - n) ∧ (n < 64 → 2 ^ (63 - n) ≤ (s.gr a).toNat)) ∧
    (∃ n : Nat, exec (.ctz d a) s = .next (on (putG s d (BitVec.ofNat 64 n))) ∧ n ≤ 64 ∧
      (∀ k < n, (s.gr a).getLsbD k = false) ∧ (n < 64 → (s.gr a).getLsbD n = true)) ∧
    exec (.popc d a) s = .next (on (putG s d (BitVec.ofNat 64 ((List.range 64).countP fun k => (s.gr a).getLsbD k))))

def Sys2Proof.Claims.AluImmediate : Prop :=
  ∀ (d a : GReg) (s : State),
    (plain s [a] [d] = true →
      (∀ row ∈ alui, ∀ imm, exec (row.1 d a imm) s = .next (on (putG s d (row.2 (s.gr a) imm)))) ∧
      ∀ row ∈ shiftis, ∀ sh : Fin 64, exec (row.1 d a sh) s = .next (on (putG s d (row.2 (s.gr a) sh.val)))) ∧
    (plain s [] [d] = true → ∀ imm : BitVec 16,
      exec (.lui d imm) s = .next (on (putG s d (BitVec.ofInt 64 (imm.toInt * 65536)))) ∧
      exec (.addpc d imm) s = .next (on (putG s d (BitVec.ofInt 64 (s.me.regs.pc.toNat + 4 + 4 * imm.toInt)))))

def Sys2Proof.Claims.Skips : Prop :=
  ∀ (cc : Cond) (a b : GReg) (imm : BitVec 14) (n : Fin 4) (s : State),
    (plain s [a, b] [] = true →
      (condMeans cc (s.gr a) (s.gr b) → exec (.skipReg cc a b n) s =
        .next (at' (s.modMe fun th => { th with ann := n.val }) (s.me.regs.pc + 4 + BitVec.ofNat 56 (4 * n.val)))) ∧
      (¬ condMeans cc (s.gr a) (s.gr b) → exec (.skipReg cc a b n) s = .next (on s))) ∧
    (plain s [a] [] = true →
      (condMeans cc (s.gr a) (imm.signExtend 64) → exec (.skipImm cc a imm n) s =
        .next (at' (s.modMe fun th => { th with ann := n.val }) (s.me.regs.pc + 4 + BitVec.ofNat 56 (4 * n.val)))) ∧
      (¬ condMeans cc (s.gr a) (imm.signExtend 64) → exec (.skipImm cc a imm n) s = .next (on s)))

def Sys2Proof.Claims.Branches : Prop :=
  ∀ (cc : Cond) (a : GReg) (off : BitVec 16) (far : BitVec 26) (s : State),
    (plain s [a] [] = true →
      (condMeans cc (s.gr a) 0 → exec (.br cc a off) s =
        .next (at' s (BitVec.ofInt 56 (s.me.regs.pc.toNat + 4 + 4 * off.toInt)))) ∧
      (¬ condMeans cc (s.gr a) 0 → exec (.br cc a off) s = .next (on s))) ∧
    exec (.j far) s = .next (at' s (BitVec.ofInt 56 (s.me.regs.pc.toNat + 4 + 4 * far.toInt))) ∧
    (plain s [] [31] = true → exec (.call far) s =
      .next (at' (putG s 31 (s.me.regs.pc.setWidth 64 + 4)) (BitVec.ofInt 56 (s.me.regs.pc.toNat + 4 + 4 * far.toInt))))

def Sys2Proof.Claims.RegisterJumps : Prop :=
  ∀ (d a : GReg) (s : State),
    let t := s.gr a
    let far : State → State := fun x => x.modMe fun th => { th with noAddr := decide (2 ^ 56 ≤ t.toNat) }
    (plain s [a] [] = true →
      (t.toNat % 4 = 0 → exec (.jr a) s = .next (at' (far s) (t.setWidth 56))) ∧
      (t.toNat % 4 ≠ 0 → exec (.jr a) s = .next (s.trapMe (.align t)))) ∧
    (plain s [a] [d] = true →
      (t.toNat % 4 = 0 → exec (.callr d a) s = .next (at' (far (putG s d (s.me.regs.pc.setWidth 64 + 4))) (t.setWidth 56))) ∧
      (t.toNat % 4 ≠ 0 → exec (.callr d a) s = .next (s.trapMe (.align t))))

namespace Sys2Proof.Claims

/-- A scalar load's value by its size (R100). -/
def loaded (z : Sz) (v : Nat) : Word :=
  match z with
  | .i8 => BitVec.ofInt 64 (BitVec.ofNat 8 v).toInt
  | .i16 => BitVec.ofInt 64 (BitVec.ofNat 16 v).toInt
  | .i32 => BitVec.ofInt 64 (BitVec.ofNat 32 v).toInt
  | _ => BitVec.ofNat 64 v

/-- An aligned access of `w` bytes in the direct storage of the core in hand (R88-R90). -/
def inDirect (s : State) (ea : Word) (w : Nat) : Bool :=
  ea.toNat < 2 ^ 19 && ea.toNat % w == 0 && ea.toNat + w ≤ s.myCore.dirG * 32768

/-- None of these bytes of direct storage is written by a store of the thread in hand that is in flight to it through an LWIN page. -/
def noOwn (s : State) (a w : Nat) : Prop := ∀ m ∈ s.net, s.ownPortAt s.cur.core s.cur.thr a w m = false

/-- The state once the stores of the thread in hand to these bytes of its core's direct storage that travel to the core's own port, and
what precedes them on that way, have arrived (R103, R251, R262). -/
def landed (s : State) (a w : Nat) : State := s.land s.cur.core s.cur.thr a w

/-- Bytes written to the direct storage of the core in hand. -/
def putDirect (s : State) (a w v : Nat) : State :=
  s.modCore s.cur.core fun c => { c with direct := mwrite c.direct a w v }

/-- An aligned access of `w` bytes to a virtual address that the core's first-level TLB translates, to a place in a line
(R88-R91): ORD, NEAR or MGD. -/
def onLine (s : State) (n : AccNeed) (ea : Word) (w l off pa : Nat) : Prop :=
  2 ^ 19 ≤ ea.toNat ∧ ea.toNat < 2 ^ 56 ∧ ea.toNat % w = 0 ∧
    ∃ e, s.tlb1 s.cur.core ea.toNat = some e ∧ (n.r = true → e.canR = true) ∧ (n.w = true → e.canW = true) ∧
      n.cls e.cls = true ∧ e.place ea.toNat = .line l off pa

/-- The thread in hand out of rotation in a post-issue wait, its instruction kept for the wait's end. -/
def waits (s : State) (w : Wait) : State :=
  s.modMe fun th => { th with st := .wait, wait := w, popIn := none, resOut := none,
                              latch := { kind := .empty, word := s.cur.word, pc := th.regs.pc } }

/-- The thread in hand out of rotation in a pre-issue wait, its instruction in the retry latch (R28, R31). -/
def held (s : State) (w : Wait) : State :=
  s.modMe fun th => { th with st := .wait, wait := w, latch := { kind := .preIssue, word := s.cur.word, pc := th.regs.pc } }

/-- The atomics of R104 on operands of `n` bits: what `old` becomes. -/
def atoms : List ((GReg → GReg → GReg → AWidth → Instr) × (Nat → Nat → Nat → Nat)) :=
  [(.atomSwap, fun _ _ x => x),
   (.atomAdd, fun n old x => (old + x) % 2 ^ n),
   (.atomAnd, fun _ old x => old &&& x),
   (.atomOr, fun _ old x => old ||| x),
   (.atomXor, fun _ old x => old ^^^ x),
   (fun d a b w => .atomMax d a b w true, fun _ old x => max old x),
   (fun d a b w => .atomMin d a b w true, fun _ old x => min old x),
   (fun d a b w => .atomMax d a b w false, fun n old x =>
      if (BitVec.ofNat n old).toInt < (BitVec.ofNat n x).toInt then x else old),
   (fun d a b w => .atomMin d a b w false, fun n old x =>
      if (BitVec.ofNat n x).toInt < (BitVec.ofNat n old).toInt then x else old)]

/-- Whether a row of `atoms` is of a natural type. -/
def natAtom (k : Nat) : Bool := k == 5 || k == 6

/-- The value an atomic returns (R104). -/
def atomOld (w : AWidth) (nat : Bool) (old : Nat) : Word :=
  match w, nat with
  | .w32, false => BitVec.ofInt 64 (BitVec.ofNat 32 old).toInt
  | _, _ => BitVec.ofNat 64 old

/-- The control registers of R109 as they read for the thread in hand, but for the counters. -/
def crReads (s : State) : List (BitVec 12 × Word) :=
  let r := s.me.crs
  let c := s.myCore
  [(0x000, r.geom), (0x001, r.fmta), (0x002, r.fmtb), (0x003, r.scla), (0x004, r.sclb), (0x008, maxW r.ptime s.me.due), (0x009, r.lease),
   (0x010, r.chain), (0x018, r.mprog), (0x019, r.dprog), (0x040, r.fmode),
   (0x020, BitVec.ofNat 64 (c.stashG * 256 + c.dirG))]

/-- The thread-scope registers that take a write, with the bits their maps mark RW (R109), and the write. -/
def crWrites : List (BitVec 12 × Nat × (Thread → Word → Thread)) :=
  [(0x001, 2 ^ 4, fun th v => { th with crs := { th.crs with fmta := v } }),
   (0x002, 2 ^ 4, fun th v => { th with crs := { th.crs with fmtb := v } }),
   (0x003, 2 ^ 64, fun th v => { th with crs := { th.crs with scla := v } }),
   (0x004, 2 ^ 64, fun th v => { th with crs := { th.crs with sclb := v } }),
   -- a write of TICK begins the count toward the next self-advance anew (the model's choice, log 63)
   (0x009, 2 ^ 21, fun th v => { th with crs := { th.crs with lease := v }
                                         inCyc := if bits v 20 16 = bits th.crs.lease 20 16 then th.inCyc else 0 }),
   (0x010, 2 ^ 10, fun th v => { th with crs := { th.crs with chain := v } })]

/-- The registers whose fields are all RO or HW: a write is ignored (R109). -/
def crReadOnly : List (BitVec 12) := [0x000, 0x008, 0x018, 0x019, 0x040]

/-- `jrnl` of a core as it reads (R250). -/
def jrnlReads (c : Core) (v : Word) : Prop :=
  v.extractLsb' 48 16 = c.rfd ∧ (∀ i < 16, v.getLsbD (32 + i) = (tget {} c.journal i).busy) ∧
    v.toNat % 2 ^ 32 = (List.range 16).countP fun i => !(tget {} c.journal i).busy

/-- `vpool` of the cluster in hand as it reads (R240). -/
def vpoolReads (s : State) : Word :=
  BitVec.ofNat 64 ((s.cluster (s.poolCluster s.cur.core)).lend * 2 ^ 16 + (s.cluster (s.poolCluster s.cur.core)).memb.toNat)

/-- What a write of `carve` leaves of the core in hand (R37, R38): the fields, direct storage below both limits, and zeros in the granules
that it gains. -/
def carved (s t : State) (v : Word) : Prop :=
  t.myCore.dirG = bits v 4 0 ∧ t.myCore.stashG = bits v 12 8 ∧
    (∀ x < 32768 * min (bits v 4 0) s.myCore.dirG, mget t.myCore.direct x = mget s.myCore.direct x) ∧
    ∀ x, 32768 * s.myCore.dirG ≤ x → x < 32768 * bits v 4 0 → mget t.myCore.direct x = 0

/-- What a write of `vpool` leaves of the cluster in hand (R240). -/
def pooled (s t : State) (v : Word) : Prop :=
  (t.cluster (s.poolCluster s.cur.core)).lend = bits v 20 16 ∧ (t.cluster (s.poolCluster s.cur.core)).memb = v.extractLsb' 0 16

/-- The thread in hand as an instruction that changes only state of its core leaves it. -/
def meOn (s t : State) : Prop :=
  t.me.regs = { s.me.regs with pc := s.me.regs.pc + 4 } ∧ t.me.crs = paid s ∧ t.me.st = s.me.st

end Sys2Proof.Claims

def Sys2Proof.Claims.LoadDirect : Prop :=
  ∀ (d a : GReg) (sz : Sz) (imm : BitVec 13) (s : State), plain s [a] [d] = true →
    let ea := s.gr a + imm.signExtend 64
    let u := landed s ea.toNat sz.bytes
    (inDirect s ea sz.bytes = true →
      (noOwn s ea.toNat sz.bytes →
        exec (.ld d a sz imm) s = .next (on (putG s d (loaded sz (mread s.myCore.direct ea.toNat sz.bytes))))) ∧
      exec (.ld d a sz imm) s =
        .next (at' (u.gw d (loaded sz (mread (u.core s.cur.core).direct ea.toNat sz.bytes))) (s.me.regs.pc + 4))) ∧
    (ea.toNat % sz.bytes ≠ 0 → exec (.ld d a sz imm) s = .next (s.trapMe (.align ea)))

def Sys2Proof.Claims.LoadBeginsWait : Prop :=
  ∀ (d a : GReg) (sz : Sz) (imm : BitVec 13) (s : State) (l off pa : Nat), plain s [a] [d] = true →
    let ea := s.gr a + imm.signExtend 64
    onLine s ⟨true, false, fun c => c ≤ 5⟩ ea sz.bytes l off pa →
    exec (.ld d a sz imm) s = .next (waits s (.load
      { kind := .ld d sz, need := 0, todo := [{ lane := 0, va := ea, w := sz.bytes, place := .line l off pa }] }))

def Sys2Proof.Claims.StoreDirect : Prop :=
  ∀ (d a : GReg) (sz : Sz) (imm : BitVec 13) (s : State), plain s [a, d] [] = true →
    let ea := s.gr a + imm.signExtend 64
    let v := (s.gr d).toNat % 2 ^ (8 * sz.bytes)
    (inDirect s ea sz.bytes = true →
      (noOwn s ea.toNat sz.bytes → exec (.st d a sz imm) s = .next (on (putDirect s ea.toNat sz.bytes v))) ∧
      exec (.st d a sz imm) s =
        .next (at' ((landed s ea.toNat sz.bytes).dwrite s.cur.core ea.toNat sz.bytes v) (s.me.regs.pc + 4))) ∧
    (ea.toNat % sz.bytes ≠ 0 → exec (.st d a sz imm) s = .next (s.trapMe (.align ea)))

def Sys2Proof.Claims.StoreFrame : Prop :=
  ∀ (d a : GReg) (sz : Sz) (imm : BitVec 13) (s t : State), plain s [a, d] [] = true → Memory.wf s.myCore.direct = true →
    let ea := s.gr a + imm.signExtend 64
    inDirect s ea sz.bytes = true → noOwn s ea.toNat sz.bytes → exec (.st d a sz imm) s = .next t →
      mread t.myCore.direct ea.toNat sz.bytes = (s.gr d).toNat % 2 ^ (8 * sz.bytes) ∧
      (∀ x, x < ea.toNat ∨ ea.toNat + sz.bytes ≤ x → mget t.myCore.direct x = mget s.myCore.direct x) ∧
      t.dram = s.dram ∧ t.host = s.host ∧ t.pod = s.pod ∧ t.net = s.net ∧ t.me = (on s).me ∧ t.me.crs = paid s ∧
      t.me.regs = { s.me.regs with pc := s.me.regs.pc + 4 } ∧
      (∀ p, p ≠ s.cur.core → t.core p = s.core p) ∧ (∀ k, k ≠ s.cur.thr → t.thread s.cur.core k = s.thread s.cur.core k)

def Sys2Proof.Claims.StorePosted : Prop :=
  ∀ (d a : GReg) (sz : Sz) (imm : BitVec 13) (s : State) (l off pa i : Nat), plain s [a, d] [] = true →
    let ea := s.gr a + imm.signExtend 64
    onLine s ⟨false, true, fun c => c ≤ 5⟩ ea sz.bytes l off pa →
    (i < 16 → (tget {} s.myCore.journal i).busy = false → (∀ j < i, (tget {} s.myCore.journal j).busy = true) →
      ∃ t, exec (.st d a sz imm) s = .next t ∧ t.me.regs.pc = s.me.regs.pc + 4 ∧ t.me.st = s.me.st ∧
        tget {} t.myCore.journal i =
          { busy := true, thr := s.cur.thr, ord := s.myCore.jord, p := maxW s.me.crs.ptime s.me.due, kind := .store,
            todo := [{ lane := 0, va := ea, w := sz.bytes, data := (s.gr d).toNat % 2 ^ (8 * sz.bytes), place := .line l off pa }] } ∧
        t.myCore.jord = s.myCore.jord + 1 ∧ t.dram = s.dram ∧ t.myCore.direct = s.myCore.direct) ∧
    ((∀ j < 16, (tget {} s.myCore.journal j).busy = true) → exec (.st d a sz imm) s = .next (held s .journal))

def Sys2Proof.Claims.AtomicDirect : Prop :=
  ∀ (d a b : GReg) (w : AWidth) (s : State),
    let ea := s.gr a
    let n := 8 * w.bytes
    let old := mread s.myCore.direct ea.toNat w.bytes
    let x := (s.gr b).toNat % 2 ^ n
    let u := landed s ea.toNat w.bytes
    let now := mread (u.core s.cur.core).direct ea.toNat w.bytes
    inDirect s ea w.bytes = true →
    (plain s [a, b] [d] = true → ∀ k row, atoms[k]? = some row →
      exec (row.1 d a b w) s = .next (at' ((u.dwrite u.cur.core ea.toNat w.bytes (row.2 n now x)).gw d (atomOld w (natAtom k) now))
        (s.me.regs.pc + 4))) ∧
    (plain s [a, b, d] [d] = true →
      exec (.atomCas d a b w) s = .next (at' ((if now = (s.gr d).toNat % 2 ^ n then u.dwrite u.cur.core ea.toNat w.bytes x else u).gw d
        (atomOld w false now)) (s.me.regs.pc + 4))) ∧
    (noOwn s ea.toNat w.bytes → plain s [a, b] [d] = true → ∀ k row, atoms[k]? = some row →
      exec (row.1 d a b w) s = .next (on (putG (putDirect s ea.toNat w.bytes (row.2 n old x)) d (atomOld w (natAtom k) old)))) ∧
    (noOwn s ea.toNat w.bytes → plain s [a, b, d] [d] = true →
      exec (.atomCas d a b w) s = .next (on (putG
        (if old = (s.gr d).toNat % 2 ^ n then putDirect s ea.toNat w.bytes x else s) d (atomOld w false old))))

def Sys2Proof.Claims.AtomicMisaligned : Prop :=
  ∀ (d a b : GReg) (w : AWidth) (s : State), (s.gr a).toNat % w.bytes ≠ 0 →
    (plain s [a, b] [d] = true → ∀ row ∈ atoms, exec (row.1 d a b w) s = .next (s.trapMe (.align (s.gr a)))) ∧
    (plain s [a, b, d] [d] = true → exec (.atomCas d a b w) s = .next (s.trapMe (.align (s.gr a))))

/-- pin.l, unpin.l, flush, inval and pref: direct addresses do nothing; line addresses act on the core's copies (R107, R406,
R237). -/
def Obligations.CacheOperations : Prop :=
  ∀ (a : GReg) (s : State) (l off pa : Nat), plain s [a] [] = true →
    ((s.gr a).toNat < 2 ^ 19 → ∀ i ∈ [Instr.pinL a, .unpinL a, .flush a, .inval a, .pref a], exec i s = .next (on s)) ∧
    (onLine s ⟨true, false, fun c => c ≤ 2⟩ (s.gr a - BitVec.ofNat 64 ((s.gr a).toNat % 512)) 1 l off pa →
        2 ^ 19 ≤ (s.gr a).toNat → (s.gr a).toNat < 2 ^ 56 →
      (s.l1Full s.cur.core pa = true → exec (.pref a) s = .next (on s)) ∧
      (s.l1Full s.cur.core pa = false → ∃ t, exec (.pref a) s = .next t ∧ t.me.regs.pc = s.me.regs.pc + 4 ∧
        ∃ f, t.myCore.ca.pref = s.myCore.ca.pref ++ [f] ∧ f.line = l ∧ f.pin = false) ∧
      (s.l1Holds s.cur.core l = true → ∃ t, exec (.pinL a) s = .next t ∧ t.me.regs.pc = s.me.regs.pc + 4 ∧
        ∀ y ∈ t.myCore.ca.l1, y.line = l → y.pin = true) ∧
      (s.l1Holds s.cur.core l = false → s.l1Full s.cur.core pa = true → exec (.pinL a) s = .next (on s)) ∧
      (s.l1Holds s.cur.core l = false → s.l1Full s.cur.core pa = false →
        ∃ t, exec (.pinL a) s = .next t ∧ t.me.regs.pc = s.me.regs.pc + 4 ∧
          ∃ f, t.myCore.ca.pref = s.myCore.ca.pref ++ [f] ∧ f.line = l ∧ f.pin = true) ∧
      (∃ t, exec (.unpinL a) s = .next t ∧ t.me.regs.pc = s.me.regs.pc + 4 ∧
        (∀ y ∈ t.myCore.ca.l1, y.line = l → y.pin = false) ∧ ∀ f ∈ t.myCore.ca.pref, f.line = l → f.pin = false) ∧
      (∀ x i, (s.myCore.ca.stash.find? fun y => y.line == l) = some x → x.dirty ≠ 0 → s.myCore.freeEntry = some i →
        ∃ t, exec (.flush a) s = .next t ∧ t.me.regs.pc = s.me.regs.pc + 4 ∧ t.myCore.ca = s.myCore.ca ∧
          (tget {} t.myCore.journal i).busy = true ∧ (tget {} t.myCore.journal i).kind = .writeback l false) ∧
      ((s.myCore.ca.stash.find? fun y => y.line == l) = none →
        exec (.flush a) s = .next (on s) ∧
        ∃ t, exec (.inval a) s = .next t ∧ t.me.regs.pc = s.me.regs.pc + 4 ∧ ∀ y ∈ t.myCore.ca.l1, y.line ≠ l))

def Sys2Proof.Claims.ControlReads : Prop :=
  ∀ (d : GReg) (s : State), plain s [] [d] = true →
    (∀ row ∈ crReads s, exec (.crr d row.1) s = .next (on (putG s d row.2))) ∧
    (∀ k : Fin 8, exec (.crr d (BitVec.ofNat 12 (0x30 + k.val))) s = .next (on (putG s d ((s.myCore.nctr[k.val]).setWidth 64)))) ∧
    (∀ k : Fin 128, exec (.crr d (BitVec.ofNat 12 (0x100 + k.val))) s = .next (on (putG s d (tget 0 s.myCore.dacc k.val)))) ∧
    exec (.crr d 0x021) s = .next (on (putG s d (vpoolReads s))) ∧
    ∃ v, jrnlReads s.myCore v ∧ exec (.crr d 0x022) s = .next (on (putG s d v))

def Sys2Proof.Claims.ControlWrites : Prop :=
  ∀ (d a : GReg) (s : State),
    (plain s [a] [] = true →
      (∀ row ∈ crWrites, exec (.crw a row.1) s =
        .next (on (s.modMe fun th => row.2.2 th (BitVec.ofNat 64 ((s.gr a).toNat % row.2.1))))) ∧
      (∀ n ∈ crReadOnly, exec (.crw a n) s = .next (on s)) ∧
      (∀ k : Fin 8, exec (.crw a (BitVec.ofNat 12 (0x30 + k.val))) s =
        .next (on (s.modCore s.cur.core fun c => { c with nctr := c.nctr.set k.val ((s.gr a).setWidth 32) }))) ∧
      ∀ k : Fin 128, exec (.crw a (BitVec.ofNat 12 (0x100 + k.val))) s =
        .next (on (s.modCore s.cur.core fun c => { c with dacc := tset c.dacc k.val (s.gr a) }))) ∧
    (plain s [a] [d] = true → ∀ row ∈ crWrites, ∀ old, (row.1, old) ∈ crReads s →
      exec (.crs d a row.1) s = .next (on ((putG s d old).modMe fun th =>
        row.2.2 th (BitVec.ofNat 64 ((old ||| (putG s d old).gr a).toNat % row.2.1)))) ∧
      exec (.crc d a row.1) s = .next (on ((putG s d old).modMe fun th =>
        row.2.2 th (BitVec.ofNat 64 ((old &&& ~~~ (putG s d old).gr a).toNat % row.2.1))))) ∧
    (plain s [a] [d] = true → ∀ n ∈ crReadOnly, ∀ old, (n, old) ∈ crReads s →
      exec (.crs d a n) s = .next (on (putG s d old)) ∧ exec (.crc d a n) s = .next (on (putG s d old))) ∧
    (plain s [a] [d] = true → ∀ k : Fin 8,
      let old := (s.myCore.nctr[k.val]).setWidth 64
      let b := (putG s d old).gr a
      let put (v : Word) : State :=
        on ((putG s d old).modCore s.cur.core fun c => { c with nctr := c.nctr.set k.val (v.setWidth 32) })
      exec (.crs d a (BitVec.ofNat 12 (0x30 + k.val))) s = .next (put (old ||| b)) ∧
      exec (.crc d a (BitVec.ofNat 12 (0x30 + k.val))) s = .next (put (old &&& ~~~ b))) ∧
    (plain s [a] [d] = true → ∀ k : Fin 128,
      let old := tget 0 s.myCore.dacc k.val
      let b := (putG s d old).gr a
      let put (v : Word) : State := on ((putG s d old).modCore s.cur.core fun c => { c with dacc := tset c.dacc k.val v })
      exec (.crs d a (BitVec.ofNat 12 (0x100 + k.val))) s = .next (put (old ||| b)) ∧
      exec (.crc d a (BitVec.ofNat 12 (0x100 + k.val))) s = .next (put (old &&& ~~~ b)))

def Sys2Proof.Claims.CoreSwaps : Prop :=
  ∀ (d a : GReg) (s : State), plain s [a] [d] = true → ∀ set : Bool,
    let form (n : BitVec 12) : Instr := if set then .crs d a n else .crc d a n
    let new (old : Word) : Word := if set then old ||| (putG s d old).gr a else old &&& ~~~ (putG s d old).gr a
    let carve : Word := BitVec.ofNat 64 (s.myCore.stashG * 256 + s.myCore.dirG)
    (16 < bits (new carve) 4 0 + bits (new carve) 12 8 → exec (form 0x020) s = .next (s.trapMe .illegal)) ∧
    (bits (new carve) 4 0 + bits (new carve) 12 8 ≤ 16 →
      ∃ t, exec (form 0x020) s = .next t ∧ meOn (putG s d carve) t ∧ carved s t (new carve)) ∧
    (16 < bits (new (vpoolReads s)) 20 16 → exec (form 0x021) s = .next (s.trapMe .illegal)) ∧
    (bits (new (vpoolReads s)) 20 16 ≤ 16 →
      ∃ t, exec (form 0x021) s = .next t ∧ meOn (putG s d (vpoolReads s)) t ∧ pooled s t (new (vpoolReads s))) ∧
    ∃ v, jrnlReads s.myCore v ∧ exec (form 0x022) s =
      .next (on ((putG s d v).modCore s.cur.core fun c => { c with rfd := c.rfd &&& ~~~ (new v).extractLsb' 48 16 }))

def Sys2Proof.Claims.CarveJournalPool : Prop :=
  ∀ (a : GReg) (s : State) (p k : Nat) (v : Word),
    (plain s [a] [] = true →
      (16 < bits (s.gr a) 4 0 + bits (s.gr a) 12 8 → exec (.crw a 0x020) s = .next (s.trapMe .illegal)) ∧
      (bits (s.gr a) 4 0 + bits (s.gr a) 12 8 ≤ 16 → ∃ t, exec (.crw a 0x020) s = .next t ∧ meOn s t ∧ carved s t (s.gr a)) ∧
      (16 < bits (s.gr a) 20 16 → exec (.crw a 0x021) s = .next (s.trapMe .illegal)) ∧
      (bits (s.gr a) 20 16 ≤ 16 → ∃ t, exec (.crw a 0x021) s = .next t ∧ meOn s t ∧ pooled s t (s.gr a)) ∧
      exec (.crw a 0x022) s = .next (on (s.modCore s.cur.core fun c => { c with rfd := c.rfd &&& ~~~ (s.gr a).extractLsb' 48 16 }))) ∧
    exec (.jrnlWrite p v) s = .next (s.modCore p fun c => { c with rfd := c.rfd &&& ~~~ v.extractLsb' 48 16 }) ∧
    (∃ t, exec (.carveWrite p v) s = .next t ∧
      ((16 < bits v 4 0 + bits v 12 8 ∨ (bits v 4 0 = (s.core p).dirG ∧ bits v 12 8 = (s.core p).stashG)) → t = s) ∧
      (bits v 4 0 + bits v 12 8 ≤ 16 → (t.core p).dirG = bits v 4 0 ∧ (t.core p).stashG = bits v 12 8)) ∧
    (∃ t, exec (.vpoolWrite k v) s = .next t ∧ (16 < bits v 20 16 → t = s) ∧
      (bits v 20 16 ≤ 16 → (t.cluster k).lend = bits v 20 16 ∧ (t.cluster k).memb = v.extractLsb' 0 16))

namespace Sys2Proof.Claims

/-- The fault record of a trap (R330, R331). -/
def faultRecord (seq : BitVec 8) (gtn : Nat) (pc : BitVec 56) (word : BitVec 32) (t : Trap) : FRec :=
  ⟨BitVec.ofNat 64 (seq.toNat * 2 ^ 19 + gtn), BitVec.ofNat 64 (t.kind * 2 ^ 59 + t.w * 2 ^ 57 + pc.toNat),
   BitVec.ofNat 64 (t.cause * 2 ^ 56 + t.addr.toNat % 2 ^ 56),
   BitVec.ofNat 64 (t.detail + if t.noWord then 0 else word.toNat)⟩

/-- Whether one of the registers an instruction names has its token pending. -/
def tokenPending (s : State) (rs : List GReg) : Prop := ∃ r ∈ rs, r ≠ 0 ∧ s.me.pend.getLsbD r.val = true

/-- No register that an instruction names has its token pending, or written and not yet accessed. -/
def noTokens (s : State) (rs : List GReg) : Prop :=
  ∀ r ∈ rs, (r ≠ 0 → s.me.pend.getLsbD r.val = false) ∧ ∀ e ∈ s.me.toks, e.1 ≠ r.val

end Sys2Proof.Claims

/-! ### Registers and waits before issue -/

def Sys2Proof.Claims.HardwiredRegisters : Prop :=
  ∀ (s : State) (v : Word), s.gr 0 = 0 ∧ s.gw 0 v = s ∧ s.mr 0 = BitVec.allOnes 64 ∧ s.mw 0 v = s ∧ s.hr 0 = 0 ∧ s.hw 0 v = s ∧
    ∀ r : GReg, r ≠ 0 → r ≠ 28 → r ≠ 29 → s.gr r = s.me.regs.g[r.val] ∧ (s.gw r v).me.regs.g = s.me.regs.g.set r.val v

def Sys2Proof.Claims.TokenWait : Prop :=
  (∀ row ∈ alu2s, ∀ (d a b : GReg) (s : State), tokenPending s [a, b, d] →
    ∃ r ∈ [a, b, d], r ≠ 0 ∧ s.me.pend.getLsbD r.val = true ∧ exec (row.1 d a b) s = .next (held s (.token r.val))) ∧
  ∀ (d a : GReg) (sz : Sz) (imm : BitVec 13) (s : State), tokenPending s [a, d] →
    (∃ r ∈ [a, d], r ≠ 0 ∧ s.me.pend.getLsbD r.val = true ∧ exec (.ld d a sz imm) s = .next (held s (.token r.val))) ∧
    ∃ r ∈ [a, d], r ≠ 0 ∧ s.me.pend.getLsbD r.val = true ∧ exec (.st d a sz imm) s = .next (held s (.token r.val))

def Sys2Proof.Claims.TokenAccess : Prop :=
  ∀ row ∈ alu2s, ∀ (d a b : GReg) (s : State),
    let rs := [a, b, d]
    let mine := s.me.toks.filter fun e => rs.any fun r => r.val == e.1
    ¬ tokenPending s rs → mine ≠ [] → (28 ∈ [a, b] → s.me.crs.inRoute = none) → (d = 29 → s.me.crs.outRoute = none) →
    ∃ t, exec (row.1 d a b) s = .next t ∧ t.me.regs.pc = s.me.regs.pc + 4 ∧
      t.me.regs.g = (putG s d (row.2 (s.gr a) (s.gr b))).me.regs.g ∧
      t.me.toks = s.me.toks.filter (fun e => !rs.any fun r => r.val == e.1) ∧
      t.me.crs.ptime = maxW (maxW s.me.crs.ptime (mine.foldl (fun x e => maxW x e.2) 0)) s.me.due

def Sys2Proof.Claims.ChainRead : Prop :=
  ∀ row ∈ alu2s, ∀ (d b : GReg) (s : State) (q : Nat), noTokens s [28, b, d] → s.me.crs.inRoute = some q →
    (d = 29 → s.me.crs.outRoute = none) →
    (s.routeOk q false = false → exec (row.1 d 28 b) s = .next (s.trapMe .event)) ∧
    (s.routeOk q false = true →
      (bits (tget 0 s.myCore.routes q) 62 62 = 1 ∨ s.myCore.inQ q = [] → exec (row.1 d 28 b) s = .next (held s (.chainIn q))) ∧
      ∀ e rest, bits (tget 0 s.myCore.routes q) 62 62 = 0 → s.myCore.inQ q = e :: rest →
        ∃ t, exec (row.1 d 28 b) s = .next t ∧ t.me.regs.pc = s.me.regs.pc + 4 ∧ t.myCore.inQ q = rest ∧
          t.me.crs.ptime = maxW (maxW s.me.crs.ptime e.rt) s.me.due ∧
          t.me.regs.g = (putG s d (row.2 e.val (if b = 28 then e.val else s.gr b))).me.regs.g)

def Sys2Proof.Claims.ChainWrite : Prop :=
  ∀ row ∈ alu2s, ∀ (a b : GReg) (s : State) (q : Nat), noTokens s [a, b, 29] → s.me.crs.outRoute = some q →
    (28 ∈ [a, b] → s.me.crs.inRoute = none) →
    (s.routeOk q true = false → exec (row.1 29 a b) s = .next (s.trapMe .event)) ∧
    (s.routeOk q true = true →
      (bits (tget 0 s.myCore.routes q) 62 62 = 1 ∨ 8 ≤ tget 0 s.myCore.outRes q →
        exec (row.1 29 a b) s = .next (held s (.chainOut q))) ∧
      (bits (tget 0 s.myCore.routes q) 62 62 = 0 → tget 0 s.myCore.outRes q < 8 →
        (∀ e ∈ s.myCore.journal, e.2.busy = false) → s.myCore.outWait = [] →
        ∃ t, exec (row.1 29 a b) s = .next t ∧ t.me.regs.pc = s.me.regs.pc + 4 ∧ t.me.regs.g = s.me.regs.g ∧
          tget 0 t.myCore.outRes q = tget 0 s.myCore.outRes q + 1 ∧
          ∃ m, t.net = s.net ++ [m] ∧ m.dst = .core (bits (tget 0 s.myCore.routes q) 18 4) ∧
            m.body = .chain (bits (tget 0 s.myCore.routes q) 23 20) ⟨row.2 (s.gr a) (s.gr b), maxW (maxW s.me.crs.ptime s.me.due) s.me.rel,
              s.chainHops s.cur.core (bits (tget 0 s.myCore.routes q) 18 4)⟩))

/-! ### Exceptions -/

def Sys2Proof.Claims.TrapLatches : Prop :=
  ∀ (s : State) (p t : Nat) (w : BitVec 32) (tr : Trap), isSetter p = false → (s.thread p t).st = .inRot →
    let th := s.thread p t
    let u := s.trapThread p t w tr
    (u.thread p t).st = .latched ∧ (u.thread p t).seq = th.seq + 1 ∧
    (u.thread p t).latch = { kind := .trap, word := w, pc := th.regs.pc, trap := tr.kind, cause := tr.cause, addr := tr.addr,
                                  goesOn := tr.kind == 13 && tr.detail / 2 ^ 47 % 2 == 1 } ∧
    (u.thread p t).regs = th.regs ∧ (u.thread p t).crs = th.crs ∧ (u.thread p t).pend = th.pend ∧
    u.dram = s.dram ∧ u.host = s.host ∧ u.pod = s.pod ∧ (∀ q, (u.core q).direct = (s.core q).direct) ∧
    ∀ q k, (q, k) ≠ (p, t) → u.thread q k = s.thread q k

def Sys2Proof.Claims.FaultRecords : Prop :=
  ∀ (s : State) (p t : Nat) (w : BitVec 32) (tr : Trap) (k : Kernel), isSetter p = false →
    s.kernel (s.thread p t).slot = some k →
    let th := s.thread p t
    let c := (s.core p).ctx
    let u := s.trapThread p t w tr
    let r := faultRecord (th.seq + 1) (s.gtn p t) th.regs.pc w tr
    let ev : Word := BitVec.ofNat 64 (recField k.launch 72 8)
    let data := r.w0.toNat + r.w1.toNat * 2 ^ 64 + r.w2.toNat * 2 ^ 128 + r.w3.toNat * 2 ^ 192
    (bits k.fmode 2 1 = 2 → (u.ctx c).recs = (s.ctx c).recs ++ [r] ∧ u.net = s.net) ∧
    (bits k.fmode 2 1 = 1 → ∃ m o, u.net = s.net ++ [m] ∧ m.body = .offer o ∧ o.key.name = 0x3000000000000001 ∧
      o.data = data ∧ u.ctxs = s.ctxs) ∧
    (bits k.fmode 2 1 = 0 → k.st ≠ .complete → k.st ≠ .aborted → ev ≠ 0 →
      ∃ m o, u.net = s.net ++ [m] ∧ m.body = .offer o ∧ o.key.name = ev ∧ o.data = data ∧ u.ctxs = s.ctxs) ∧
    (bits k.fmode 2 1 = 0 → k.st = .complete ∨ k.st = .aborted → (u.ctx c).recs = (s.ctx c).recs ++ [r])

def Sys2Proof.Claims.SetterTrap : Prop :=
  ∀ (s : State) (p t : Nat) (w : BitVec 32) (tr : Trap), isSetter p = true → Memory.wf (s.core p).direct = true →
    let th := s.thread p t
    let u := s.trapThread p t w tr
    let r := faultRecord th.seq t th.regs.pc w tr
    (u.thread p t).regs.pc = BitVec.ofNat 56 (mread (s.core p).direct 0 8 / 4 * 4) ∧ (u.thread p t).st = .inRot ∧
    (u.thread p t).regs.g = th.regs.g ∧
    mread (u.core p).direct (0x100 + 32 * t) 8 = r.w0.toNat ∧ mread (u.core p).direct (0x100 + 32 * t + 8) 8 = r.w1.toNat ∧
    mread (u.core p).direct (0x100 + 32 * t + 16) 8 = r.w2.toNat ∧ mread (u.core p).direct (0x100 + 32 * t + 24) 8 = r.w3.toNat ∧
    (∀ x, x < 0x100 + 32 * t ∨ 0x100 + 32 * t + 32 ≤ x → mget (u.core p).direct x = mget (s.core p).direct x) ∧ u.net = s.net

def Sys2Proof.Claims.Eret : Prop :=
  ∀ s : State,
    (isSetter s.cur.core = true →
      exec .eret s = .next (s.modMe fun th => { th with latch := {}, regs := { th.regs with
        pc := BitVec.ofNat 56 (mread s.myCore.direct (0x100 + 32 * s.cur.thr + 8) 8 / 4 * 4) } })) ∧
    (isSetter s.cur.core = false → exec .eret s = .next (s.trapMe (.access 0)))

def Sys2Proof.Claims.TrapThenEret : Prop :=
  ∀ (s : State) (tr : Trap), isSetter s.cur.core = true → Memory.wf s.myCore.direct = true →
    ∃ t, exec .eret (s.trapMe tr) = .next t ∧ t.me.st = .inRot ∧
      t.me.regs = { s.me.regs with pc := BitVec.ofNat 56 (s.me.regs.pc.toNat / 4 * 4) }

/-! ### System instructions -/

def Sys2Proof.Claims.NopYield : Prop :=
  ∀ s : State, exec .nop s = .next (on s) ∧ exec .yield s = .next (on (s.modMe fun th => { th with ann := 1 }))

def Sys2Proof.Claims.SystemTraps : Prop :=
  ∀ (s : State) (n : BitVec 8), isSetter s.cur.core = false → s.me.st = .inRot →
    (∃ t, exec (.trap n) s = .next t ∧ t.me.st = .latched ∧ t.me.regs = s.me.regs ∧ t.me.seq = s.me.seq + 1 ∧
      t.me.latch = { kind := .trap, word := s.cur.word, pc := s.me.regs.pc, trap := 15 } ∧
      t = s.trapMe { kind := 15, detail := n.toNat * 2 ^ 32 }) ∧
    ∃ t, exec (.brk n) s = .next t ∧ t.me.regs = s.me.regs ∧
      if Config.debuggerAttached s.tick = true then
        t.me.st = .stopped ∧ t.panel.stopcnt = s.panel.stopcnt + 1 ∧ t.panel.msix = 0 :: s.panel.msix
      else t.me.st = .latched ∧ t.me.seq = s.me.seq + 1 ∧
        t.me.latch = { kind := .trap, word := s.cur.word, pc := s.me.regs.pc, trap := 14 } ∧
        t = s.trapMe { kind := 14, detail := n.toNat * 2 ^ 32 }

def Sys2Proof.Claims.Halt : Prop :=
  ∀ s : State, s.me.cell.st ≠ .claimed →
    ∃ t, exec .halt s = .next t ∧ t.me.st = .free ∧
      (isSetter s.cur.core = false → ∀ k, s.kernel s.me.slot = some k → k.st ≠ .complete → k.st ≠ .aborted →
        ∃ k', t.kernel s.me.slot = some k' ∧ k'.st = .aborted ∧ k'.cause = 16 ∧
          k'.athr = s.gtn s.cur.core s.cur.thr ∧ k'.apc = s.me.regs.pc)

def Sys2Proof.Claims.FackIssue : Prop :=
  ∀ (a : GReg) (s : State), plain s [a] [] = true →
    let acts : List (Nat × Instr) := [(0, .fackResume a), (1, .fackSkip a), (2, .fackKill a)]
    let service : Prop := isSetter s.cur.core = true ∨ ∃ k, s.kernel s.me.slot = some k ∧ bits k.fmode 2 1 = 0
    ∀ x ∈ acts,
      (bits (s.gr a) 63 27 ≠ 0 ∨ 294911 < bits (s.gr a) 18 0 ∨ ¬ service → exec x.2 s = .next (s.trapMe (.access 0))) ∧
      (bits (s.gr a) 63 27 = 0 → bits (s.gr a) 18 0 ≤ 294911 → service →
        exec x.2 s = .next (on { s with facks := s.facks ++
          [{ core := s.cur.core, thr := s.cur.thr, ord := s.myCore.jord, act := x.1, arg := s.gr a, slot := s.me.slot,
             kid := ((s.kernel s.me.slot).map Kernel.id).getD 0 }] }))

namespace Sys2Proof.Claims

/-- A lane as an exact integer of its type (R40). -/
def elt (ty : VTy) (x : Nat) : Int := if ty.isI then (BitVec.ofNat ty.w x).toInt else x

/-- The range of an integer type (R40). -/
def eltMin (ty : VTy) : Int := if ty.isI then -(2 ^ (ty.w - 1)) else 0
def eltMax (ty : VTy) : Int := if ty.isI then 2 ^ (ty.w - 1) - 1 else 2 ^ ty.w - 1

/-- The low bits of an exact integer in a type's width (R41). -/
def low (ty : VTy) (v : Int) : Nat := (v % 2 ^ ty.w).toNat

/-- Whether an exact integer lies outside a type. -/
def outside (ty : VTy) (v : Int) : Bool := v < eltMin ty || eltMax ty < v

/-- What every vector instruction with a vector destination leaves as it was: the other vector registers, every other
register file, the control registers, all memory, all other threads; the program counter passes on. -/
def vecFrame (s t : State) (d : VReg) : Prop :=
  t.me.regs.pc = s.me.regs.pc + 4 ∧ (∀ r, r ≠ d → t.vr r = s.vr r) ∧ t.me.regs.g = s.me.regs.g ∧
    t.me.regs.m = s.me.regs.m ∧ t.me.regs.h = s.me.regs.h ∧ t.me.crs = paid s ∧ t.me.st = s.me.st ∧
    t.dram = s.dram ∧ t.host = s.host ∧ t.pod = s.pod ∧ (∀ p, (t.core p).direct = (s.core p).direct) ∧
    ∀ p k, (p, k) ≠ (s.cur.core, s.cur.thr) → t.thread p k = s.thread p k

/-- The active lanes of `vD` become `f`, the others stay (R116). -/
def vecLanes (s t : State) (d : VReg) (m : MReg) (w : Nat) (f : Nat → Nat) : Prop :=
  ∀ i < 512 / w, lane (t.vr d) w i = if (s.mr m).getLsbD i then f i else lane (s.vr d) w i

/-- How many active lanes meet a condition. -/
def countLanes (s : State) (m : MReg) (w : Nat) (c : Nat → Bool) : Nat :=
  (List.range (512 / w)).countP fun i => (s.mr m).getLsbD i && c i

/-- The core's counters rise by `k`, saturating (R61). -/
def counters (s t : State) (k : Nat → Nat) : Prop :=
  ∀ i : Fin 8, t.myCore.nctr[i.val] = BitVec.ofNat 32 (min ((s.myCore.nctr[i.val]).toNat + k i.val) 0xFFFFFFFF)

/-- Wrapping integer operations of R120 and R122 on the exact lanes x of `vA`, y of `vB`, z of `vD`. -/
def wrapOps : List ((VReg → VReg → VReg → MReg → VTy → Instr) × (Int → Int → Int → Int)) :=
  [(.vadd, fun x y _ => x + y), (.vsub, fun x y _ => x - y), (.vmul, fun x y _ => x * y),
   (.vfma, fun x y z => z + x * y), (.vfms, fun x y z => x * y - z), (.vnfma, fun x y z => z - x * y)]

/-- Integer operations of R120 that count nothing: on exact lanes of the type. -/
def pickOps : List ((VReg → VReg → VReg → MReg → VTy → Instr) × (Int → Int → Int → Int)) :=
  [(.vmin, fun x y _ => min x y), (.vmax, fun x y _ => max x y), (.vclamp, fun x y z => min (max z x) y)]

/-- Bitwise and shift operations of R120 on lanes of `w` bits. -/
def bitOps : List ((VReg → VReg → VReg → MReg → VTy → Instr) × (Nat → Nat → Nat → Nat)) :=
  [(.vand, fun _ x y => x &&& y), (.vor, fun _ x y => x ||| y), (.vxor, fun _ x y => x ^^^ y),
   (.vsll, fun w x y => x * 2 ^ (y % w) % 2 ^ w), (.vsrl, fun w x y => x / 2 ^ (y % w))]

/-- Float operations of R120 and R122 by the operations of R46 to R51. -/
def floatOps : List ((VReg → VReg → VReg → MReg → VTy → Instr) × (Fmt → Nat → Nat → Nat → Nat × Cnt)) :=
  [(.vadd, fun f x y _ => f.add x y), (.vsub, fun f x y _ => f.sub x y), (.vmul, fun f x y _ => f.mul x y),
   (.vmin, fun f x y _ => f.maxmin false x y), (.vmax, fun f x y _ => f.maxmin true x y), (.vclamp, fun f x y z => f.clamp z x y),
   (.vdiv, fun f x y _ => f.div x y), (.vfma, fun f x y z => f.fma false false x y z),
   (.vfms, fun f x y z => f.fma false true x y z), (.vnfma, fun f x y z => f.fma true false x y z)]

/-- Float operations of one source (R120, R121). -/
def floatUns : List ((VReg → VReg → MReg → VTy → Instr) × (Fmt → Nat → Nat × Cnt)) :=
  [(.vrcp, Fmt.rcp), (.vrsq, Fmt.rsq), (.vsqrt, Fmt.sqrt), (.vexp2, Fmt.exp2), (.vlog2, Fmt.log2),
   (.vabs, fun f x => f.absneg true x), (.vneg, fun f x => f.absneg false x)]

/-- The arithmetic float types (R117). -/
def floatTys : List (VTy × Fmt) := [(.f16, .f16), (.bf16, .bf16), (.f32, .f32)]

/-- A counted condition by its counter (R62). -/
def Cnt.at (c : Cnt) : Nat → Nat
  | 0 => c.inv
  | 1 => c.ovf
  | 2 => c.unf
  | 3 => c.nan
  | 4 => c.q4
  | 5 => c.wrap
  | 6 => c.dz
  | _ => 0

/-- What the active lanes count in all (R63). -/
def sumLanes (s : State) (m : MReg) (w : Nat) (c : Nat → Cnt) (k : Nat) : Nat :=
  ((List.range (512 / w)).map fun i => if (s.mr m).getLsbD i then Cnt.at (c i) k else 0).sum

/-- The magnitude `m * 2 ^ e`. -/
def mag (m : Nat) (e : Int) : Rat := m * (2 : Rat) ^ e

/-- A reduced lane in a general register (R130). -/
def widened (ty : VTy) (x : Nat) : Word := if ty.isI then BitVec.ofInt 64 (BitVec.ofNat ty.w x).toInt else BitVec.ofNat 64 x

/-- The tree of R130 over `2 ^ k` values. -/
def treeOf (f : Nat → Nat → Nat) : Nat → (Nat → Nat) → Nat
  | 0, t => t 0
  | k + 1, t => treeOf f k fun i => f (t i) (t (i + 2 ^ k))

/-- Integer reductions of R130: combine and identity. -/
def intReds : List ((GReg → VReg → MReg → VTy → Instr) × (VTy → Nat → Nat → Nat) × (VTy → Nat)) :=
  [(.vrmax, fun ty x y => low ty (max (elt ty x) (elt ty y)), fun ty => low ty (eltMin ty)),
   (.vrmin, fun ty x y => low ty (min (elt ty x) (elt ty y)), fun ty => low ty (eltMax ty)),
   (.vrand, fun _ x y => x &&& y, fun ty => 2 ^ ty.w - 1),
   (.vror, fun _ x y => x ||| y, fun _ => 0),
   (.vrxor, fun _ x y => x ^^^ y, fun _ => 0)]

/-- A lane of `vA`, or the identity where it is inactive. -/
def orId (s : State) (a : VReg) (m : MReg) (ty : VTy) (e : Nat) (i : Nat) : Nat :=
  if (s.mr m).getLsbD i then lane (s.vr a) ty.w i else e

/-- The address of an active element by the three forms of R131. -/
def unitAt (s : State) (a : GReg) (ty : VTy) (i : Nat) : Word := BitVec.ofNat 64 ((s.gr a).toNat + i * (ty.w / 8))
def strideAt (s : State) (a b : GReg) (i : Nat) : Word := BitVec.ofNat 64 ((s.gr a).toNat + i * (s.gr b).toNat)
def indexAt (s : State) (a : GReg) (b : VReg) (ty : VTy) (i : Nat) : Word :=
  BitVec.ofInt 64 ((s.gr a).toNat + (BitVec.ofNat ty.w (lane (s.vr b) ty.w i)).toInt)

/-- Every active element lies aligned in direct storage. -/
def allDirect (s : State) (m : MReg) (ty : VTy) (ea : Nat → Word) : Prop :=
  ∀ i < 512 / ty.w, (s.mr m).getLsbD i = true → inDirect s (ea i) (ty.w / 8) = true

/-- `noOwn` and `landed` over the active elements, in ascending lane order. -/
def noOwnLanes (s : State) (m : MReg) (ty : VTy) (ea : Nat → Word) : Prop :=
  ∀ i < 512 / ty.w, (s.mr m).getLsbD i = true → noOwn s (ea i).toNat (ty.w / 8)

def landedLanes (s : State) (m : MReg) (ty : VTy) (ea : Nat → Word) : State :=
  ((List.range (512 / ty.w)).filter fun i => (s.mr m).getLsbD i).foldl
    (fun u i => u.land s.cur.core s.cur.thr (ea i).toNat (ty.w / 8)) s

/-- The lowest active lane whose element address is not aligned, with every lower active element aligned in direct
storage. -/
def firstMisaligned (s : State) (m : MReg) (ty : VTy) (ea : Nat → Word) (i : Nat) : Prop :=
  i < 512 / ty.w ∧ (s.mr m).getLsbD i = true ∧ (ea i).toNat % (ty.w / 8) ≠ 0 ∧
    ∀ j < i, (s.mr m).getLsbD j = true → inDirect s (ea j) (ty.w / 8) = true

end Sys2Proof.Claims

def Sys2Proof.Claims.VectorWrap : Prop :=
  ∀ row ∈ wrapOps, ∀ (d a b : VReg) (m : MReg) (ty : VTy) (s : State), ty.isInt = true →
    let r (i : Nat) : Int := row.2 (elt ty (lane (s.vr a) ty.w i)) (elt ty (lane (s.vr b) ty.w i)) (elt ty (lane (s.vr d) ty.w i))
    ∃ t, exec (row.1 d a b m ty) s = .next t ∧ vecFrame s t d ∧ vecLanes s t d m ty.w (fun i => low ty (r i)) ∧
      counters s t fun k => if k = 5 then countLanes s m ty.w (fun i => outside ty (r i)) else 0

def Sys2Proof.Claims.VectorInteger : Prop :=
  ∀ (d a b : VReg) (m : MReg) (ty : VTy) (s : State), ty.isInt = true →
    let x (i : Nat) : Int := elt ty (lane (s.vr a) ty.w i)
    let y (i : Nat) : Int := elt ty (lane (s.vr b) ty.w i)
    let z (i : Nat) : Int := elt ty (lane (s.vr d) ty.w i)
    (∀ row ∈ pickOps, ∃ t, exec (row.1 d a b m ty) s = .next t ∧ vecFrame s t d ∧
      vecLanes s t d m ty.w (fun i => low ty (row.2 (x i) (y i) (z i))) ∧ counters s t fun _ => 0) ∧
    (∀ row ∈ bitOps, ∃ t, exec (row.1 d a b m ty) s = .next t ∧ vecFrame s t d ∧
      vecLanes s t d m ty.w (fun i => row.2 ty.w (lane (s.vr a) ty.w i) (lane (s.vr b) ty.w i)) ∧ counters s t fun _ => 0) ∧
    (∀ row ∈ [((.vadds d a b m ty : Instr), fun u v : Int => u + v), (.vsubs d a b m ty, fun u v => u - v)],
      ∃ t, exec row.1 s = .next t ∧ vecFrame s t d ∧
        vecLanes s t d m ty.w (fun i => low ty (max (eltMin ty) (min (eltMax ty) (row.2 (x i) (y i))))) ∧
        counters s t fun k => if k = 5 then countLanes s m ty.w (fun i => outside ty (row.2 (x i) (y i))) else 0) ∧
    (ty.isI = true →
      (∃ t, exec (.vsra d a b m ty) s = .next t ∧ vecFrame s t d ∧
        vecLanes s t d m ty.w (fun i => low ty (x i / 2 ^ (lane (s.vr b) ty.w i % ty.w))) ∧ counters s t fun _ => 0) ∧
      ∀ row ∈ [((.vabs d a m ty : Instr), fun u : Int => |u|), (.vneg d a m ty, fun u => -u)],
        ∃ t, exec row.1 s = .next t ∧ vecFrame s t d ∧ vecLanes s t d m ty.w (fun i => low ty (row.2 (x i))) ∧
          counters s t fun k => if k = 5 then countLanes s m ty.w (fun i => outside ty (row.2 (x i))) else 0)

def Sys2Proof.Claims.VectorDivide : Prop :=
  ∀ (d a b : VReg) (m : MReg) (ty : VTy) (s : State), ty.isInt = true →
    let x (i : Nat) : Int := elt ty (lane (s.vr a) ty.w i)
    let y (i : Nat) : Int := elt ty (lane (s.vr b) ty.w i)
    ∃ t, exec (.vdiv d a b m ty) s = .next t ∧ vecFrame s t d ∧
      vecLanes s t d m ty.w (fun i => if y i = 0 then 2 ^ ty.w - 1 else low ty ((x i).tdiv (y i))) ∧
      counters s t fun k =>
        if k = 6 then countLanes s m ty.w (fun i => y i == 0)
        else if k = 5 then countLanes s m ty.w (fun i => ty.isI && x i == eltMin ty && y i == -1)
        else 0

namespace Sys2Proof.Claims

/-- The value `(-1)^s * m * 2^e`. -/
def signed (s : Bool) (m : Nat) (e : Int) : Rat := if s then -mag m e else mag m e

/-- R45: each format with its largest finite value, the distance to the next value of its fraction width, and its smallest normal. -/
def limits : List (Fmt × Rat × Rat × Rat) :=
  [(.f32, (2 - (2 : Rat) ^ (-23 : Int)) * 2 ^ (127 : Int), 2 ^ (104 : Int), 2 ^ (-126 : Int)),
   (.f16, 65504, 2 ^ (5 : Int), 2 ^ (-14 : Int)),
   (.bf16, (2 - (2 : Rat) ^ (-7 : Int)) * 2 ^ (127 : Int), 2 ^ (120 : Int), 2 ^ (-126 : Int)),
   (.e5m2, 57344, 2 ^ (13 : Int), 2 ^ (-14 : Int)),
   (.e4m3, 448, 32, 2 ^ (-6 : Int))]

/-- The formats of R50: those of vector arithmetic, each with its limits. -/
def arithLimits : List (Fmt × Rat × Rat × Rat) := limits.filter fun x => x.1 != .e5m2 && x.1 != .e4m3

/-- A finite encoding whose sign and magnitude are given. -/
def isFin (f : Fmt) (x : Nat) (sg : Bool) (v : Rat) : Prop := ∃ k q, f.value x = .fin sg k q ∧ mag k q = v

/-- The magnitude `v` under a sign, rounded once to a format (R46-R48): an overflow, or a nearest value with ties to the even encoding
(RNE), or the largest value that is not greater (RTZ); and what is counted. -/
def rounded (row : Fmt × Rat × Rat × Rat) (rtz sg : Bool) (v : Rat) (r : Nat × Cnt) : Prop :=
  let f := row.1
  let exceeds : Prop :=
    if rtz then row.2.1 + row.2.2.1 ≤ v else if f.hasInf then row.2.1 + row.2.2.1 / 2 ≤ v else row.2.1 + row.2.2.1 / 2 < v
  (exceeds → r.2 = { ovf := 1 } ∧ (if rtz ∨ f.hasInf = false then isFin f r.1 sg row.2.1 else f.value r.1 = .inf sg)) ∧
  (¬ exceeds → ∃ w, isFin f r.1 sg w ∧
    (∀ x u, x < 2 ^ f.width → isFin f x sg u →
      if rtz then w ≤ v ∧ (u ≤ v → u ≤ w) else |w - v| ≤ |u - v| ∧ (|w - v| = |u - v| → x ≠ r.1 → r.1 % 2 = 0)) ∧
    ∀ k, Cnt.at r.2 k = if k = 2 ∧ v ≠ 0 ∧ v < row.2.2.2 ∧ w ≠ v then 1 else 0)

/-- `x` comes no later than `y` in the order of R51: by value, with -0 below +0; neither is NaN. -/
def upTo (x y : FVal) : Prop :=
  match x, y with
  | .nan, _ => False
  | _, .nan => False
  | .inf s, .inf t => s = true ∨ t = false
  | .inf s, .fin _ _ _ => s = true
  | .fin _ _ _, .inf t => t = false
  | .fin s m e, .fin t n g => signed s m e < signed t n g ∨ (signed s m e = signed t n g ∧ (m = 0 → s = true ∨ t = false))

/-- The sign of an exact sum (R46): that of a sum which is not zero; otherwise + unless both addends are -0. -/
def sumSign (sum : Rat) (bothZero : Bool) (s t : Bool) : Bool := if sum = 0 then bothZero && (s && t) else decide (sum < 0)

/-- The magnitudes of R54 by TYPE and index, and their largest. -/
def q4Mags (ty : Nat) : List Rat :=
  match ty with
  | 1 => [0, 1 / 2, 1, 3 / 2, 2, 3, 4, 6]
  | 2 => [0, 1 / 8, 1 / 4, 1 / 2, 1, 2, 4, 8]
  | _ => [0, 1, 2, 3, 4, 6, 8, 12]

def q4Max (ty : Nat) : Rat := if ty = 0 then 7 else (q4Mags ty).getD 7 0

/-- What a code stands for under a TYPE (R54). -/
def q4Code (ty c : Nat) : Rat :=
  if ty = 0 then ((BitVec.ofNat 4 c).toInt : Rat)
  else if c / 8 % 2 = 1 then -(q4Mags ty).getD (c % 8) 0 else (q4Mags ty).getD (c % 8) 0

/-- A quotient that no code of a TYPE reaches (R56). -/
def q4Beyond (ty : Nat) (q : Rat) : Prop := if ty = 0 then 7 < q ∨ q < -8 else q4Max ty < |q|

/-- The values of the operand that a chunk reads for one element: 32 elements of a format, or the 17 bytes of a block (R55, R57, R60). -/
def operandVals (f : Nat) (xs : List Nat) : List FVal :=
  if f = 6 then (List.range 32).map (q4Value ((List.range 17).map fun i => xs.getD i 0 * 256 ^ i).sum)
  else xs.map (([Fmt.e4m3, .e5m2, .bf16].getD f .f16).value)

/-- Float pairs of R57. -/
def floatPair (fa fb : Nat) : Prop := (fa < 2 ∧ fb < 2) ∨ (fa = fb ∧ (fa = 2 ∨ fa = 3 ∨ fa = 6))

end Sys2Proof.Claims

/-- Add, subtract, multiply, divide, fused multiply-add and reciprocal form the exact result and round it once; NaN, infinite and invalid
operands (R46-R48, R50, R121). -/
def Sys2Proof.Claims.FloatArithmetic : Prop :=
  ∀ row ∈ arithLimits, ∀ x y z : Nat,
    let f := row.1
    let X := f.value x
    let Y := f.value y
    let Z := f.value z
    let nan : Nat × Cnt := (f.qnan, { nan := 1 })
    let inv : Nat × Cnt := (f.qnan, { inv := 1 })
    -- NaN operands
    (X = .nan ∨ Y = .nan → f.add x y = nan ∧ f.sub x y = nan ∧ f.mul x y = nan ∧ f.div x y = nan) ∧
    (X = .nan ∨ Y = .nan ∨ Z = .nan → ∀ p q, f.fma p q x y z = nan) ∧
    (X = .nan → f.rcp x = nan ∧ f.sqrt x = nan ∧ f.rsq x = nan ∧ f.exp2 x = nan ∧ f.log2 x = nan) ∧
    -- finite operands
    (∀ s m e t n g, X = .fin s m e → Y = .fin t n g →
      rounded row false (sumSign (signed s m e + signed t n g) (m == 0 && n == 0) s t) |signed s m e + signed t n g| (f.add x y) ∧
      rounded row false (sumSign (signed s m e - signed t n g) (m == 0 && n == 0) s !t) |signed s m e - signed t n g| (f.sub x y) ∧
      rounded row false (s ^^ t) (mag m e * mag n g) (f.mul x y) ∧
      (m ≠ 0 → n ≠ 0 → rounded row false (s ^^ t) (mag m e / mag n g) (f.div x y)) ∧
      (m ≠ 0 → n = 0 → f.div x y = (f.infBits (s ^^ t), { dz := 1 })) ∧ (m = 0 → n = 0 → f.div x y = inv) ∧
      (m = 0 → n ≠ 0 → f.div x y = (f.signBit (s ^^ t), {})) ∧
      (m ≠ 0 → rounded row false s (1 / mag m e) (f.rcp x)) ∧ (m = 0 → f.rcp x = (f.infBits s, { dz := 1 })) ∧
      (m = 0 → f.sqrt x = (x % 2 ^ f.width, {}) ∧ f.rsq x = (f.infBits s, { dz := 1 }) ∧ f.log2 x = (f.infBits true, { dz := 1 })) ∧
      (m ≠ 0 → s = true → f.sqrt x = inv ∧ f.rsq x = inv ∧ f.log2 x = inv) ∧
      ∀ p q u l h, Z = .fin u l h →
        let P := if p then -(signed s m e * signed t n g) else signed s m e * signed t n g
        let A := if q then -signed u l h else signed u l h
        rounded row false (sumSign (P + A) ((m == 0 || n == 0) && l == 0) (s ^^ t ^^ p) (u ^^ q)) |P + A| (f.fma p q x y z)) ∧
    -- infinite operands
    (∀ s t, X = .inf s → Y = .inf t →
      (f.add x y = if s = t then (f.infBits s, {}) else inv) ∧ (f.sub x y = if s = t then inv else (f.infBits s, {})) ∧
      f.mul x y = (f.infBits (s ^^ t), {}) ∧ f.div x y = inv) ∧
    (∀ s t n g, X = .inf s → Y = .fin t n g →
      f.add x y = (f.infBits s, {}) ∧ f.sub x y = (f.infBits s, {}) ∧ f.add y x = (f.infBits s, {}) ∧
      f.sub y x = (f.infBits (!s), {}) ∧ (f.mul x y = if n = 0 then inv else (f.infBits (s ^^ t), {})) ∧
      (f.mul y x = if n = 0 then inv else (f.infBits (s ^^ t), {})) ∧ f.div x y = (f.infBits (s ^^ t), {}) ∧
      f.div y x = (f.signBit (s ^^ t), {})) ∧
    (∀ s, X = .inf s → f.rcp x = (f.signBit s, {}) ∧ (f.sqrt x = if s then inv else (f.infBits false, {})) ∧
      (f.rsq x = if s then inv else (0, {})) ∧ (f.exp2 x = if s then (0, {}) else (f.infBits false, {})) ∧
      (f.log2 x = if s then inv else (f.infBits false, {}))) ∧
    ∀ p q, Z ≠ .nan →
      ((∃ s t n g, n = 0 ∧ ((X = .inf s ∧ Y = .fin t n g) ∨ (X = .fin t n g ∧ Y = .inf s))) → f.fma p q x y z = inv) ∧
      (∀ s t, (X = .inf s ∧ Y = .inf t) ∨ (∃ n g, n ≠ 0 ∧ ((X = .inf s ∧ Y = .fin t n g) ∨ (X = .fin t n g ∧ Y = .inf s))) →
        f.fma p q x y z = if Z = .inf (!(s ^^ t ^^ p ^^ q)) then inv else (f.infBits (s ^^ t ^^ p), {})) ∧
      ∀ s m e t n g u, X = .fin s m e → Y = .fin t n g → Z = .inf u → f.fma p q x y z = (f.infBits (u ^^ q), {})

/-- max, min and clamp go by value, with -0 below +0, and pass over one NaN (R51). -/
def Sys2Proof.Claims.FloatOrder : Prop :=
  ∀ row ∈ arithLimits, ∀ x y z : Nat,
    let f := row.1
    (∀ mx, f.value x = .nan → f.value y = .nan → f.maxmin mx x y = (f.qnan, { nan := 1 })) ∧
    (∀ mx, f.value x = .nan → f.value y ≠ .nan → f.maxmin mx x y = (y, { nan := 1 }) ∧ f.maxmin mx y x = (y, { nan := 1 })) ∧
    (f.value x ≠ .nan → f.value y ≠ .nan →
      (∃ r, (r = x ∨ r = y) ∧ f.maxmin true x y = (r, {}) ∧ upTo (f.value x) (f.value r) ∧ upTo (f.value y) (f.value r)) ∧
      ∃ r, (r = x ∨ r = y) ∧ f.maxmin false x y = (r, {}) ∧ upTo (f.value r) (f.value x) ∧ upTo (f.value r) (f.value y)) ∧
    (f.clamp x y z).1 = (f.maxmin false (f.maxmin true x y).1 z).1 ∧
    (f.clamp x y z).2 = if f.value x = .nan ∨ f.value y = .nan ∨ f.value z = .nan then { nan := 1 } else {}

/-- Float vector operations act lane by lane through the operations of the number formats and count their conditions (R116,
R117, R120, R121, R122, R50, R51, R61, R63). -/
def Sys2Proof.Claims.VectorFloat : Prop :=
  ∀ tf ∈ floatTys, ∀ (d a b : VReg) (m : MReg) (s : State),
    (∀ row ∈ floatOps,
      let r (i : Nat) : Nat × Cnt := row.2 tf.2 (lane (s.vr a) tf.1.w i) (lane (s.vr b) tf.1.w i) (lane (s.vr d) tf.1.w i)
      ∃ t, exec (row.1 d a b m tf.1) s = .next t ∧ vecFrame s t d ∧ vecLanes s t d m tf.1.w (fun i => (r i).1) ∧
        counters s t (sumLanes s m tf.1.w fun i => (r i).2)) ∧
    ∀ row ∈ floatUns,
      let r (i : Nat) : Nat × Cnt := row.2 tf.2 (lane (s.vr a) tf.1.w i)
      ∃ t, exec (row.1 d a m tf.1) s = .next t ∧ vecFrame s t d ∧ vecLanes s t d m tf.1.w (fun i => (r i).1) ∧
        counters s t (sumLanes s m tf.1.w fun i => (r i).2)

/-- Every rounding, to nearest or toward zero, with what overflows, what underflows, and what is counted (R45-R48). -/
def Sys2Proof.Claims.RoundingLimits : Prop :=
  ∀ row ∈ limits, ∀ (rtz sg : Bool) (m : Nat) (e : Int), rounded row rtz sg (mag m e) (row.1.round rtz sg m e)

/-- Rounding gives a nearest value of the format, ties to the even encoding (R43, R44, R45, R46, R47). -/
def Sys2Proof.Claims.RoundToNearest : Prop :=
  ∀ f ∈ [Fmt.f32, .f16, .bf16, .e5m2, .e4m3], ∀ (sg : Bool) (m : Nat) (e : Int),
    (f.round false sg m e).2.ovf = 0 →
    ∃ k q, f.value (f.round false sg m e).1 = .fin sg k q ∧
      ∀ x k' q', x < 2 ^ f.width → f.value x = .fin sg k' q' →
        |mag k q - mag m e| ≤ |mag k' q' - mag m e| ∧
        (|mag k q - mag m e| = |mag k' q' - mag m e| → x ≠ (f.round false sg m e).1 → (f.round false sg m e).1 % 2 = 0)

/-- Vector compares write all 64 mask bits (R123, R116, R40, R44). -/
def Obligations.VectorCompare : Prop :=
  ∀ (d : MReg) (a b : VReg) (m : MReg) (ty : VTy) (s : State), ty.isINF = true →
    let ops : List (Instr × (Int → Int → Bool) × VCond) :=
      [(.vcmpEq d a b m ty, fun x y => x == y, .eq), (.vcmpNe d a b m ty, fun x y => x != y, .ne),
       (.vcmpLt d a b m ty, fun x y => x < y, .lt), (.vcmpGe d a b m ty, fun x y => y ≤ x, .ge),
       (.vcmpLe d a b m ty, fun x y => x ≤ y, .le), (.vcmpGt d a b m ty, fun x y => y < x, .gt)]
    ∀ op ∈ ops, ∃ t, exec op.1 s = .next t ∧ t.me.regs.pc = s.me.regs.pc + 4 ∧ t.me.regs.v = s.me.regs.v ∧
      t.me.regs.g = s.me.regs.g ∧ t.me.regs.h = s.me.regs.h ∧ t.myCore.nctr = s.myCore.nctr ∧ t.dram = s.dram ∧
      (d = 0 → t.me.regs.m = s.me.regs.m) ∧ (∀ r, r ≠ d → t.mr r = s.mr r) ∧
      (d ≠ 0 → ∀ i < 64, (t.mr d).getLsbD i = (decide (i < 512 / ty.w) && (s.mr m).getLsbD i &&
        if ty.isInt then op.2.1 (elt ty (lane (s.vr a) ty.w i)) (elt ty (lane (s.vr b) ty.w i))
        else match ty.fmt with
          | some f => FVal.cond op.2.2 (f.value (lane (s.vr a) ty.w i)) (f.value (lane (s.vr b) ty.w i))
          | none => false))

/-- vsel chooses lane by lane; mand, mor, mxor, mnot act on all 64 bits (R124, R125). -/
def Obligations.SelectAndMasks : Prop :=
  ∀ (s : State) (d a b : VReg) (m : MReg) (ty : VTy) (md ma mb : MReg),
    (∃ t, exec (.vsel d a b m ty) s = .next t ∧ vecFrame s t d ∧
      ∀ i < 512 / ty.w, lane (t.vr d) ty.w i = lane (if (s.mr m).getLsbD i then s.vr a else s.vr b) ty.w i) ∧
    ∀ row ∈ [((.mand md ma mb : Instr), s.mr ma &&& s.mr mb), (.mor md ma mb, s.mr ma ||| s.mr mb),
        (.mxor md ma mb, s.mr ma ^^^ s.mr mb), (.mnot md ma, ~~~ s.mr ma)],
      ∃ t, exec row.1 s = .next t ∧ t.me.regs.pc = s.me.regs.pc + 4 ∧ (md ≠ 0 → t.mr md = row.2) ∧
        (∀ r, r ≠ md → t.mr r = s.mr r) ∧ t.mr 0 = BitVec.allOnes 64 ∧ t.me.regs.g = s.me.regs.g ∧ t.me.regs.v = s.me.regs.v ∧
        t.me.regs.h = s.me.regs.h ∧ t.dram = s.dram

/-- vperm, vslup, vsldn, vzip, vunzip and vrev move bits by the table (R126). -/
def Obligations.Permutes : Prop :=
  ∀ (d a b : VReg) (n : GReg) (m : MReg) (ty : VTy) (s : State),
    let L := 512 / ty.w
    let A (i : Nat) : Nat := lane (s.vr a) ty.w i
    let B (i : Nat) : Nat := lane (s.vr b) ty.w i
    let D (i : Nat) : Nat := lane (s.vr d) ty.w i
    let k := (s.gr n).toNat
    (∀ row ∈ [((.vperm d a b m ty : Instr), fun i => A (B i % L)),
        (.vzip d a b m ty, fun i => if i % 2 = 0 then A (i / 2) else B (i / 2)),
        (.vunzip d a b m ty, fun i => if 2 * i < L then A (2 * i) else B (2 * i - L)),
        (.vrev d a m ty, fun i => A (L - 1 - i))],
      ∃ t, exec row.1 s = .next t ∧ vecFrame s t d ∧ vecLanes s t d m ty.w row.2 ∧ t.myCore.nctr = s.myCore.nctr) ∧
    (plain s [n] [] = true →
      ∀ row ∈ [((.vslup d a n m ty : Instr), fun i => if k ≤ i then A (i - k) else D i),
          (.vsldn d a n m ty, fun i => if i + k < L then A (i + k) else D i)],
        ∃ t, exec row.1 s = .next t ∧ vecFrame s t d ∧ vecLanes s t d m ty.w row.2 ∧ t.myCore.nctr = s.myCore.nctr)

def Sys2Proof.Claims.Conversions : Prop :=
  ∀ (d a : VReg) (m : MReg) (dty sty : VTy) (rtz : Bool) (s : State),
    let N := min (512 / sty.w) (512 / dty.w)
    let x (i : Nat) : Nat := lane (s.vr a) sty.w i
    let ok (f : Nat → Nat) (c : Nat → Cnt) : Prop :=
      ∃ t, exec (.vcvt d a m dty sty rtz) s = .next t ∧ vecFrame s t d ∧
        vecLanes s t d m dty.w (fun i => if i < N then f i else lane (s.vr d) dty.w i) ∧
        counters s t (sumLanes s m dty.w fun i => if i < N then c i else Cnt.zero)
    (dty = sty → (rtz = true → sty.isInt = false) → ok x fun _ => Cnt.zero) ∧
    (dty ≠ sty →
      (sty.isInt = true → rtz = false →
        (dty.isInt = true → ok (fun i => low dty (elt sty (x i)))
          fun i => if outside dty (elt sty (x i)) then Cnt.oneWrap else Cnt.zero) ∧
        (∀ g, dty.fmt = some g → ok (fun i => (g.ofInt (elt sty (x i))).1) fun i => (g.ofInt (elt sty (x i))).2)) ∧
      ∀ f, sty.fmt = some f →
        (∀ g, dty.fmt = some g → ok (fun i => (f.convert g rtz (x i)).1) fun i => (f.convert g rtz (x i)).2) ∧
        (dty.isInt = true → ok (fun i => (f.toInt ⟨dty.w, dty.isI⟩ rtz (x i)).1) fun i => (f.toInt ⟨dty.w, dty.isI⟩ rtz (x i)).2))

def Sys2Proof.Claims.Blocks : Prop :=
  ∀ (d a b : VReg) (m : MReg) (bf h : Bool) (k : Fin 4) (s : State),
    (s.early s.cur.core = true →
      ∀ i ∈ [Instr.vpack4F32 d a b m, .vpack4Half d a m bf, .vunpack4Half d a m bf k, .vunpack4F32 d a m k h],
        exec i s = .next (s.trapMe .illegal)) ∧
    (s.early s.cur.core = false →
    let half : Fmt := if bf then .bf16 else .f16
    let block (v : VWord) (j : Nat) : Nat := v.toNat / 2 ^ (136 * j) % 2 ^ 136
    let packed (f : Fmt) (x : Nat → Nat) : Nat × Cnt :=
      q4Pack ((s.vr d).toNat / 2 ^ 134 % 4) ((List.range 32).map fun i =>
        if (s.mr m).getLsbD i then f.value (x i) else .fin false 0 0)
    (∀ row ∈ [((.vpack4F32 d a b m : Instr), packed .f32 fun i => if i < 16 then lane (s.vr a) 32 i else lane (s.vr b) 32 (i - 16)),
        (.vpack4Half d a m bf, packed half fun i => lane (s.vr a) 16 i)],
      ∃ t, exec row.1 s = .next t ∧ vecFrame s t d ∧ block (t.vr d) 0 = row.2.1 ∧
        (t.vr d).toNat / 2 ^ 136 = (s.vr d).toNat / 2 ^ 136 ∧ counters s t (Cnt.at row.2.2)) ∧
    (k ≠ 3 →
      let un (f : Fmt) (i : Nat) : Nat × Cnt := match q4Value (block (s.vr a) k.val) i with
        | .nan => (f.qnan, Cnt.oneNan)
        | v => f.deliver false v
      (∃ t, exec (.vunpack4Half d a m bf k) s = .next t ∧ vecFrame s t d ∧ vecLanes s t d m 16 (fun i => (un half i).1) ∧
        counters s t (sumLanes s m 16 fun i => (un half i).2)) ∧
      ∃ t, exec (.vunpack4F32 d a m k h) s = .next t ∧ vecFrame s t d ∧
        vecLanes s t d m 32 (fun i => (un .f32 (16 * h.toNat + i)).1) ∧
        counters s t (sumLanes s m 32 fun i => (un .f32 (16 * h.toNat + i)).2)))

/-- Conversions between float formats and to and from integers, rounded once (R46-R49). -/
def Sys2Proof.Claims.ConversionValues : Prop :=
  (∀ src ∈ limits, ∀ dst ∈ limits, ∀ (rtz : Bool) (x : Nat),
    (src.1.value x = .nan → src.1.convert dst.1 rtz x = (dst.1.qnan, { nan := 1 })) ∧
    (∀ s, src.1.value x = .inf s → src.1.convert dst.1 rtz x = (dst.1.infBits s, if dst.1.hasInf then {} else { ovf := 1 })) ∧
    ∀ s m e, src.1.value x = .fin s m e → rounded dst rtz s (mag m e) (src.1.convert dst.1 rtz x)) ∧
  (∀ src ∈ limits, ∀ (ty : VTy) (rtz : Bool) (x : Nat), ty.isInt = true →
    let f := src.1
    let r := f.toInt ⟨ty.w, ty.isI⟩ rtz x
    (f.value x = .nan → r = (0, { inv := 1, nan := 1 })) ∧
    (∀ s, f.value x = .inf s → r = (low ty (if s then eltMin ty else eltMax ty), { inv := 1 })) ∧
    ∀ s m e, f.value x = .fin s m e →
      let v := signed s m e
      ∃ i : Int, (if rtz then |(i : Rat)| ≤ |v| ∧ |v| - |(i : Rat)| < 1 ∧ 0 ≤ v * i
          else |v - i| ≤ 1 / 2 ∧ (|v - i| = 1 / 2 → i % 2 = 0)) ∧
        r = (low ty (max (eltMin ty) (min (eltMax ty) i)), if outside ty i then { inv := 1 } else {})) ∧
  ∀ dst ∈ limits, ∀ i : Int, rounded dst false (decide (i < 0)) |(i : Rat)| (dst.1.ofInt i)

/-- Reading and quantising q4 blocks (R53-R56). -/
def Sys2Proof.Claims.BlockValues : Prop :=
  (∀ b i : Nat, i < 32 →
    let scale : Nat := b / 2 ^ 128 % 256
    (scale % 64 = 63 → q4Value b i = .nan) ∧
    (scale % 64 ≠ 63 → ∃ s m e, q4Value b i = .fin s m e ∧
      signed s m e = q4Code (scale / 64) (b / 2 ^ (4 * i) % 16) * 2 ^ ((scale % 64 : Int) - 32))) ∧
  ∀ (ty : Nat) (vs : List FVal), ty < 4 → vs.length = 32 →
    (.nan ∈ vs → q4Pack ty vs = ((ty * 64 + 63) * 2 ^ 128, { nan := 1 })) ∧
    (FVal.nan ∉ vs →
      let r := q4Pack ty vs
      let E : Nat := r.1 / 2 ^ 128 % 64
      let code (i : Nat) : Nat := r.1 / 2 ^ (4 * i) % 16
      let covers (e : Nat) : Prop := ∀ v ∈ vs, ∃ s m g, v = .fin s m g ∧ mag m g ≤ q4Max ty * 2 ^ ((e : Int) - 32)
      let sat (i : Nat) : Prop := (∃ s, vs[i]? = some (.inf s)) ∨
        ∃ s m g, vs[i]? = some (.fin s m g) ∧ q4Beyond ty (signed s m g / 2 ^ ((E : Int) - 32))
      r.1 / 2 ^ 134 = ty ∧ E ≤ 62 ∧ (∀ e < E, ¬ covers e) ∧ (E < 62 → covers E) ∧
      (∀ i s, vs[i]? = some (.inf s) → code i = if ty = 0 then (if s then 8 else 7) else if s then 15 else 7) ∧
      (∀ i s m g, vs[i]? = some (.fin s m g) →
        let q := signed s m g / 2 ^ ((E : Int) - 32)
        (q4Beyond ty q → code i = if ty = 0 then (if 0 < q then 7 else 8) else if 0 < q then 7 else 15) ∧
        (¬ q4Beyond ty q → (q4Code ty (code i) = 0 → code i = 0) ∧
          ∀ c < 16, |q4Code ty (code i) - q| ≤ |q4Code ty c - q| ∧
            (|q4Code ty (code i) - q| = |q4Code ty c - q| → q4Code ty c ≠ q4Code ty (code i) → code i % 2 = 0))) ∧
      ∃ hits : List Nat, hits.Nodup ∧ (∀ i, i ∈ hits ↔ i < 32 ∧ sat i) ∧ r.2 = { q4 := hits.length })

def Sys2Proof.Claims.Reductions : Prop :=
  ∀ (d : GReg) (a : VReg) (m : MReg) (ty : VTy) (s : State), plain s [] [d] = true → ty.isInt = true →
    (∀ row ∈ intReds, exec (row.1 d a m ty) s =
      .next (on (putG s d (widened ty (treeOf (row.2.1 ty) (Nat.log2 (512 / ty.w)) (orId s a m ty (row.2.2 ty))))))) ∧
    let total : Int := ((List.range (512 / ty.w)).map fun i =>
      if (s.mr m).getLsbD i then elt ty (lane (s.vr a) ty.w i) else 0).sum
    ∃ t, exec (.vrsum d a m ty) s = .next t ∧ t.me.regs.g = (putG s d (widened ty (low ty total))).me.regs.g ∧
      t.me.regs.pc = s.me.regs.pc + 4 ∧ t.me.regs.v = s.me.regs.v ∧ t.dram = s.dram ∧
      counters s t fun k => if k = 5 ∧ outside ty total = true then 1 else 0

def Sys2Proof.Claims.FloatReductions : Prop :=
  ∀ tf ∈ floatTys, ∀ (d : GReg) (a : VReg) (m : MReg) (s : State), plain s [] [d] = true →
    ∀ row ∈ [((.vrsum d a m tf.1 : Instr), fun x y => (tf.2.add x y).1, 2 ^ (tf.1.w - 1)),
        (.vrmax d a m tf.1, fun x y => (tf.2.maxmin true x y).1, tf.2.infBits true),
        (.vrmin d a m tf.1, fun x y => (tf.2.maxmin false x y).1, tf.2.infBits false)],
      ∃ t, exec row.1 s = .next t ∧ t.me.regs.pc = s.me.regs.pc + 4 ∧ t.me.regs.v = s.me.regs.v ∧ t.dram = s.dram ∧
        t.me.regs.g = (putG s d (BitVec.ofNat 64 (treeOf row.2.1 (Nat.log2 (512 / tf.1.w)) (orId s a m tf.1 row.2.2)))).me.regs.g

def Sys2Proof.Claims.VectorLoads : Prop :=
  ∀ (d : VReg) (a b : GReg) (x : VReg) (m : MReg) (ty : VTy) (s : State),
    let forms : List (Instr × List GReg × (Nat → Word)) :=
      [(.vld d a m ty, [a], unitAt s a ty), (.vlds d a b m ty, [a, b], strideAt s a b), (.vldx d a x m ty, [a], indexAt s a x ty)]
    ∀ f ∈ forms, plain s f.2.1 [] = true →
      (allDirect s m ty f.2.2 →
        (∃ t, exec f.1 s = .next t ∧ t.me.regs.pc = s.me.regs.pc + 4 ∧
          vecLanes s t d m ty.w fun i => mread ((landedLanes s m ty f.2.2).core s.cur.core).direct (f.2.2 i).toNat (ty.w / 8)) ∧
        (noOwnLanes s m ty f.2.2 → ∃ t, exec f.1 s = .next t ∧ vecFrame s t d ∧
          vecLanes s t d m ty.w fun i => mread s.myCore.direct (f.2.2 i).toNat (ty.w / 8))) ∧
      ∀ i, firstMisaligned s m ty f.2.2 i → exec f.1 s = .next (s.trapMe (.align (f.2.2 i)))

def Sys2Proof.Claims.VectorStores : Prop :=
  ∀ (d : VReg) (a b : GReg) (x : VReg) (m : MReg) (ty : VTy) (s : State), Memory.wf s.myCore.direct = true →
    let forms : List (Instr × List GReg × (Nat → Word)) :=
      [(.vst d a m ty, [a], unitAt s a ty), (.vsts d a b m ty, [a, b], strideAt s a b), (.vstx d a x m ty, [a], indexAt s a x ty)]
    let w := ty.w / 8
    let covers (ea : Nat → Word) (i z : Nat) : Prop :=
      i < 512 / ty.w ∧ (s.mr m).getLsbD i = true ∧ (ea i).toNat ≤ z ∧ z < (ea i).toNat + w
    ∀ f ∈ forms, plain s f.2.1 [] = true →
      (allDirect s m ty f.2.2 → ∃ t, exec f.1 s = .next t ∧ t.me.regs = { s.me.regs with pc := s.me.regs.pc + 4 } ∧
        t.dram = s.dram ∧ t.host = s.host ∧ t.pod = s.pod) ∧
      (allDirect s m ty f.2.2 → noOwnLanes s m ty f.2.2 → ∃ t, exec f.1 s = .next t ∧ t.me = (on s).me ∧ t.net = s.net ∧
        t.dram = s.dram ∧ t.host = s.host ∧ t.pod = s.pod ∧
        (∀ p k, (p, k) ≠ (s.cur.core, s.cur.thr) → t.thread p k = s.thread p k) ∧
        (∀ z, (∀ i, ¬ covers f.2.2 i z) → mget t.myCore.direct z = mget s.myCore.direct z) ∧
        ∀ i z, covers f.2.2 i z → (∀ j, i < j → ¬ covers f.2.2 j z) →
          (mget t.myCore.direct z).toNat = lane (s.vr d) ty.w i / 256 ^ (z - (f.2.2 i).toNat) % 256) ∧
      ∀ i, firstMisaligned s m ty f.2.2 i → exec f.1 s = .next (s.trapMe (.align (f.2.2 i)))

/-- vsplat, vins, vext, mgetg and msetg (R136). -/
def Obligations.VectorMoves : Prop :=
  ∀ (d a : VReg) (g n : GReg) (m : MReg) (md : MReg) (ty : VTy) (s : State),
    let L := 512 / ty.w
    let k := (s.gr n).toNat
    (plain s [g] [] = true → ∃ t, exec (.vsplat d g m ty) s = .next t ∧ vecFrame s t d ∧
      vecLanes s t d m ty.w fun _ => (s.gr g).toNat % 2 ^ ty.w) ∧
    (plain s [g, n] [] = true → ∃ t, exec (.vins d g n ty) s = .next t ∧ vecFrame s t d ∧
      ∀ i < L, lane (t.vr d) ty.w i = if i = k then (s.gr g).toNat % 2 ^ ty.w else lane (s.vr d) ty.w i) ∧
    (plain s [n] [g] = true → exec (.vext g a n ty) s =
      .next (on (putG s g (if k < L then widened ty (lane (s.vr a) ty.w k) else 0)))) ∧
    (plain s [] [g] = true → exec (.mgetg g md) s = .next (on (putG s g (s.mr md)))) ∧
    (plain s [g] [] = true → exec (.msetg md g) s = .next (on (if md = 0 then s
      else s.modMe fun th => { th with regs := { th.regs with m := th.regs.m.set md.val (s.gr g) } })))

namespace Sys2Proof.Claims

/-- A thread about to fetch at its program counter: the issue of `(p, t)` is in hand and its retry latch holds nothing to
issue again. -/
def fetches (s : State) (p t : Nat) : Prop :=
  s.focus = .issue p t ∧ (s.thread p t).latch.kind ≠ .preIssue ∧ (s.thread p t).latch.kind ≠ .reissue

/-- The word that lies at the program counter of `(p, t)`: a virtual address that the core's first-level TLB translates,
with execute permission, to a place in a line. -/
def wordAt (s : State) (p t : Nat) (w : BitVec 32) : Prop :=
  let pc := (s.thread p t).regs.pc.toNat
  (s.thread p t).noAddr = false ∧ 2 ^ 19 ≤ pc ∧
    ∃ e l off pa, s.tlb1 p pc = some e ∧ e.canX = true ∧ e.place pc = .line l off pa ∧
      w = BitVec.ofNat 32 (mread s.dram (l * 512 + off) 4)

/-- The state in which the instruction in hand is that of `(p, t)` with word `w`: its issue is recorded where TRCCTL traces its cluster (R405),
and else nothing more has happened. -/
def inHand (s : State) (p t : Nat) (w : BitVec 32) : State :=
  let u : State := { s with focus := .sched, tick := s.tick + 1, cur := ⟨p, t, w⟩ }
  if bits s.panel.trcctl 63 63 = 0 then u else u.traceIssue p t

end Sys2Proof.Claims

/-! ### Steps, reset, invariants -/

/-- A step runs the instruction decoded at the program counter (R65, R98, R26, R28). -/
def Obligations.StepRunsDecoded : Prop :=
  ∀ (s : State) (p t : Nat) (w : BitVec 32) (i : Instr), fetches s p t → wordAt s p t w → decodeWord w = some i →
    step s = exec i (inHand s p t w)

def Sys2Proof.Claims.StepIllegalWord : Prop :=
  ∀ (s : State) (p t : Nat) (w : BitVec 32), fetches s p t → wordAt s p t w → decodeWord w = none →
    step s = .next ((inHand s p t w).trapMe { kind := 1 })

def Sys2Proof.Claims.StepLatchedWord : Prop :=
  ∀ (s : State) (p t : Nat), s.focus = .issue p t →
    (s.thread p t).latch.kind = .preIssue ∨ (s.thread p t).latch.kind = .reissue →
    let w := (s.thread p t).latch.word
    (∀ i, decodeWord w = some i → step s = exec i (inHand s p t w)) ∧
    (decodeWord w = none → step s = .next ((inHand s p t w).trapMe { kind := 1 }))

def Sys2Proof.Claims.StepFetchFault : Prop :=
  ∀ (s : State) (p t : Nat), fetches s p t →
    let pc := (s.thread p t).regs.pc
    (pc.toNat < 2 ^ 19 ∨ (s.thread p t).noAddr = true ∨
        (∃ e, s.tlb1 p pc.toNat = some e ∧ e.canX = false) →
      ∃ u, step s = .next u ∧ (isSetter p = false → (s.thread p t).st = .inRot →
        (u.thread p t).st = .latched ∧ (u.thread p t).latch.trap = 4 ∧ (u.thread p t).latch.pc = pc ∧
        (u.thread p t).latch.addr = pc.setWidth 64 ∧ (u.thread p t).regs = (s.thread p t).regs)) ∧
    ((s.thread p t).noAddr = false → 2 ^ 19 ≤ pc.toNat → s.tlb1 p pc.toNat = none →
      ∃ u r, step s = .next u ∧ (u.thread p t).st = .wait ∧ (u.thread p t).wait = .load r ∧ r.kind = .fetch ∧
        (u.thread p t).regs = (s.thread p t).regs)

def Sys2Proof.Claims.StepEvents : Prop :=
  ∀ (s : State),
    (s.focus = .sched → ∀ i rest, s.agenda = i :: rest → i.isEvent = true →
      step s = exec i { s with agenda := rest, tick := s.tick + 1 }) ∧
    ∀ p r o, s.focus = .drain p → (s.core p).mx.drain.rows.find? (fun r => !r.ran && r.fault.isNone) = some r →
      (s.core p).mx.ops.find? (fun o => o.unit) = some o →
      ∀ w i, o.prog[r.pos]? = some w → decodeDrain w.toNat = some i →
        step s = exec i { s with cur := ⟨p, 0, 0⟩, tick := s.tick + 1 }

/-- Words of the manual's assembly examples decode to their instructions (R68, R70, R71, R75, R76). -/
def Obligations.DecodeSanity : Prop :=
  decodeWord 0x04642800 = some (.add 3 4 5) ∧ decodeWord 0x18840083 = some (.srai 4 4 3) ∧
  decodeWord 0x2C030001 = some (.skipReg .eq 3 0 1) ∧ decodeWord 0x3FE90001 = some (.callr 31 9) ∧
  decodeWord 0x40433FFF = some (.ld 2 3 .n8 (-1)) ∧ decodeWord 0x50071020 = some (.crw 7 0x20) ∧
  decodeWord 0x5C221E40 = some (.vfma 1 2 3 1 .f32) ∧ decodeWord 0x6843A600 = some (.vcvt 2 3 0 .f32 .bf16 false) ∧
  decodeWord 0x80640002 = some (.sync 3 4 2) ∧ decodeWord 0x90242822 = some (.mma 1 4 5 2 2) ∧
  decodeWord 0xA12A0002 = some (.scat 9 10) ∧ decodeWord 0xA8A3C010 = some (.hld 5 3 .d64 16) ∧
  decodeWord 0xB4053000 = some (.spawn 5 6) ∧ decodeWord 0 = none ∧ decodeWord 0xFFFFFFFF = none

def Sys2Proof.Claims.ResetState : Prop :=
  let s := State.reset
  (∀ d, (s.die d).st = .reset ∧ (s.die d).clk = 0 ∧ (s.die d).ce = 0) ∧
  (∀ p, (s.core p).dirG = 16 ∧ (s.core p).stashG = 0 ∧ (s.core p).jrnlWord = 16 ∧ (∀ i : Fin 8, (s.core p).nctr[i.val] = 0) ∧
    (∀ n, tget 0 (s.core p).dacc n = 0) ∧ ∀ n, bits (tget 0 (s.core p).routes n) 63 63 = 0) ∧
  (∀ p t, (s.thread p t).st = .free ∧ (s.thread p t).crs.chain = 0 ∧ (s.thread p t).crs.ptime = 0) ∧
  (∀ k, (s.cluster k).lend = 0 ∧ (s.cluster k).memb = 0) ∧ (∀ q, (s.queue q).st = .off ∧ (s.queue q).head = 0) ∧
  (∀ c, (s.ctx c).st = .absent) ∧ (∀ l, l < 18432 → s.phys l = some (l / 16 * 17 + l % 16)) ∧ s.net = [] ∧ s.kernels = []

def Sys2Proof.Claims.ResetMemory : Prop := State.reset.memWf

/-- Every step keeps the canonical form of every memory (R34, R88, R234, R35). -/
def Obligations.MemoryFormKept : Prop := ∀ s t : State, s.memWf → step s = .next t → t.memWf

def Sys2Proof.Claims.EveryStepGoesOn : Prop := ∀ (i : Instr) (s : State), ∃ t, exec i s = .next t


namespace Sys2Proof.Claims

/-! ### Words for events and messages -/

/-- A core that is no Setter core's. -/
def compute (p : Nat) : Prop := isSetter p = false

/-- The state of a thread as it returns to rotation with its instruction complete: IN, no wait, the next word. -/
def back (s t : State) (p k : Nat) : Prop :=
  (t.thread p k).st = .inRot ∧ (t.thread p k).wait = .none ∧ (t.thread p k).regs.pc = (s.thread p k).regs.pc + 4

/-- The thread has taken a trap of a KIND: it is LATCHED with its instruction, at its program counter (R31). -/
def trapped (s t : State) (p k kind : Nat) : Prop :=
  (t.thread p k).st = .latched ∧ (t.thread p k).latch.trap = kind ∧ (t.thread p k).latch.word = (s.thread p k).latch.word ∧
    (t.thread p k).regs = (s.thread p k).regs ∧ (t.thread p k).seq = (s.thread p k).seq + 1

/-- Message `k` has left the net, and messages with these bodies have been sent after it. -/
def answers (s t : State) (k : Nat) (bs : List Body) : Prop :=
  t.net.map Msg.body = (s.net.eraseIdx k).map Msg.body ++ bs

/-- Message `k` of class event has reached `dst` from `src` with a body. -/
def reaches (s : State) (k : Nat) (src dst : Endp) (b : Body) : Prop :=
  ∃ m, s.arrived k = some m ∧ m.src = src ∧ m.dst = dst ∧ m.body = b

/-- The value of a general register of a thread that is not in hand, after a write (R34, R165). -/
def gAfter (th : Thread) (d : GReg) (v : Word) : Vector Word 32 :=
  if d = 0 ∨ (d = 28 ∧ th.crs.inRoute ≠ none) ∨ (d = 29 ∧ th.crs.outRoute ≠ none) then th.regs.g else th.regs.g.set d.val v

/-- The alternatives of an offer block, four words each (R141). -/
def altsAt (s : State) (blk n : Nat) : List Alt :=
  (List.range n).map fun k =>
    let w (i : Nat) : Word := BitVec.ofNat 64 (mread s.myCore.direct (blk + 32 * k + 8 * i) 8)
    ⟨w 0, w 1, w 2, w 3⟩

/-- What R146 asks of an alternative's name and CTL word under a number of levels. -/
def goodAlt (levels : Nat) (a : Alt) : Prop :=
  let cls := bits a.name 63 60
  let op := bits a.ctl 48 44
  let size := bits a.ctl 62 54
  let count := bits a.ctl 39 20
  cls ∈ [0, 3, 4, 5] ∧ bits a.name 59 56 < min levels 8 ∧ op ∈ [0, 1, 2, 3, 4, 5, 6, 8, 9, 10, 11, 12, 13, 14, 15, 16] ∧
    bits a.ctl 53 49 = 0 ∧ bits a.ctl 43 40 = 0 ∧ bits a.ctl 19 0 < count ∧ size ≤ 256 ∧ (op = 0 → size = 0) ∧
    (op = 2 → count * size ≤ 256) ∧ (bits a.ctl 63 63 = 1 ↔ cls = 5) ∧
    (cls = 5 → bits a.name 59 56 = 0 ∧ bits a.ctl 19 0 = 0 ∧ count = 1 ∧ op = 0 ∧ size = 0)

/-- The buffers an alternative uses: address and length (R143). -/
def usedBuffers (a : Alt) : List (Word × Nat) :=
  let op := bits a.ctl 48 44
  let size := bits a.ctl 62 54
  (if size ≠ 0 ∧ op ∈ [1, 2, 3, 4, 5, 6, 8, 9, 10, 11, 12, 13, 14, 15, 16] ∧ (op = 1 → bits a.ctl 19 0 = 0)
    then [(a.send, 16 * size)] else []) ++
  (if size ≠ 0 then [(a.recv, if op = 2 then 16 * size * bits a.ctl 39 20 else 16 * size)] else [])

/-- The declared levels of the kernel of the thread in hand; the firmware's kernel has one (R311). -/
def levels (s : State) : Nat :=
  if isSetter s.cur.core then 1 else match s.kernel s.me.slot with
    | some k => recField k.launch 20 1
    | none => 0

/-- The release time of a thread (R145): its `ptime`, with what its instruction in hand has raised it to, or the latest of its settled
stores. -/
def releaseTime (th : Thread) : Word := maxW (maxW th.crs.ptime th.due) th.rel

/-- The offer of an alternative that a thread's `sync` makes (R145). -/
def offerOf (s : State) (p k : Nat) (a : Alt) : Body :=
  .offer { key := s.evKey p k a.name, index := bits a.ctl 19 0, ctl := a.ctl,
           rt := releaseTime (s.thread p k), who := .thread (s.gtn p k) (s.thread p k).cell.seq }

end Sys2Proof.Claims

/-! ### Events -/

def Sys2Proof.Claims.SyncIssue : Prop :=
  ∀ (d a : GReg) (n : Fin 8) (s : State), plain s [a] [d] = true →
    let blk := s.gr a
    let lim := s.myCore.dirG * 32768
    let alts := altsAt s blk.toNat n.val
    let bufs := alts.flatMap usedBuffers
    let distinct : Prop := ((alts.map Alt.name).filter fun x => bits x 63 60 != 5).Nodup
    (blk.toNat % 32 ≠ 0 → exec (.sync d a n) s = .next (s.trapMe (.align blk))) ∧
    (blk.toNat % 32 = 0 →
      (lim < blk.toNat + 32 * n.val → exec (.sync d a n) s = .next (s.trapMe (.access blk))) ∧
      (blk.toNat + 32 * n.val ≤ lim →
        ((∃ b ∈ bufs, b.1.toNat % 16 ≠ 0) → ∃ b ∈ bufs, b.1.toNat % 16 ≠ 0 ∧ exec (.sync d a n) s = .next (s.trapMe (.align b.1))) ∧
        ((∀ b ∈ bufs, b.1.toNat % 16 = 0) →
          ((∃ b ∈ bufs, lim < b.1.toNat + b.2) →
            ∃ b ∈ bufs, lim < b.1.toNat + b.2 ∧ exec (.sync d a n) s = .next (s.trapMe (.access b.1))) ∧
          ((∀ b ∈ bufs, b.1.toNat + b.2 ≤ lim) →
            (¬ ((∀ x ∈ alts, goodAlt (levels s) x) ∧ distinct) → exec (.sync d a n) s = .next (s.trapMe .event)) ∧
            ((∀ x ∈ alts, goodAlt (levels s) x) → distinct →
             -- a timer with D = 0 commits at issue (R158), the lowest of them
             (∀ k x, alts[k]? = some x → bits x.name 63 60 = 5 → bits x.name 55 0 = 0 →
                (∀ j < k, ∀ y, alts[j]? = some y → bits y.name 63 60 = 5 → bits y.name 55 0 ≠ 0) →
              ∃ u, exec (.sync d a n) s = .next u ∧ u.me.st = s.me.st ∧ u.me.regs.pc = s.me.regs.pc + 4 ∧
                u.me.regs.g = (putG s d (BitVec.ofNat 64 k)).me.regs.g ∧ u.me.cell = { seq := s.me.cell.seq + 1, base := s.me.cell.base } ∧
                u.me.ev = ⟨k, x.name, (s.die (dieOf s.cur.core)).time⟩ ∧ u.net = s.net ∧ u.dram = s.dram ∧
                u.myCore.direct = s.myCore.direct) ∧
             ((∀ x ∈ alts, bits x.name 63 60 = 5 → bits x.name 55 0 ≠ 0) →
              ∃ u, exec (.sync d a n) s = .next u ∧ u.me.st = .wait ∧ u.me.wait = .sync d alts false ∧
                u.me.regs = s.me.regs ∧ u.me.cell.st = .opened ∧ u.me.cell.seq = s.me.cell.seq + 1 ∧
                u.me.cell.holder = none ∧ u.me.cell.queue = [] ∧ u.net = s.net ∧ u.dram = s.dram ∧
                u.myCore.direct = s.myCore.direct))))))

def Sys2Proof.Claims.OffersLeave : Prop :=
  ∀ (p k : Nat) (d : GReg) (alts : List Alt) (s : State), (s.thread p k).wait = .sync d alts false →
    let th := s.thread p k
    ((s.core p).settled k = false → exec (.syncOffersSent p k) s = .next s) ∧
    ((s.core p).settled k = true →
      ((∀ a ∈ th.traps, a.kind ≠ 7) → ∃ u, exec (.syncOffersSent p k) s = .next u ∧ (u.thread p k).wait = .sync d alts true ∧
        (u.thread p k).cell = th.cell ∧ (u.thread p k).regs = th.regs ∧
        u.net.map Msg.body = s.net.map Msg.body ++ (alts.filter fun a => bits a.ctl 63 63 != 1).map (offerOf s p k)) ∧
      ((∃ a ∈ th.traps, a.kind = 7) → compute p → th.st = .wait → ∃ u, exec (.syncOffersSent p k) s = .next u ∧
        trapped s u p k 7 ∧ (u.thread p k).cell.st = .idle))

/-- An event's offers at its home lie in the Bugle itself, none in the overflow area. -/
def Sys2Proof.Claims.noSlots (s : State) (h : Nat) (key : EvKey) : Prop := ∀ o ∈ (s.bugle h).of key, o.spill = none

def Sys2Proof.Claims.OffersArrive : Prop :=
  ∀ (k h g : Nat) (q : BitVec 8) (o : Offer) (src : Endp) (s : State), reaches s k src (.bugle h) (.offer o) →
    o.who = .thread g q → o.spill = none → o.fault = none → s.settledOffer h o = true → noSlots s h o.key →
    let mine := (s.bugle h).of o.key
    ((s.bugle h).held < 4096 → (∀ x ∈ mine, bits x.ctl 62 20 = bits o.ctl 62 20 ∧ x.gtn ≠ some g ∧ x.queued = false ∧ x.index ≠ o.index) →
      (∀ e, (s.bugle h).ev o.key = some e → e.st = .gathering) →
      -- parties are still missing: the offer stands
      (mine.length + 1 < bits o.ctl 39 20 → ∃ u e, exec (.offerArrival k) s = .next u ∧ answers s u k [] ∧
        (u.bugle h).ev o.key = some e ∧ e.st = .gathering ∧
        ∃ o', (u.bugle h).offers = (s.bugle h).offers ++ [o'] ∧ o'.key = o.key ∧ o'.index = o.index ∧ o'.ctl = o.ctl ∧
          o'.rt = o.rt ∧ o'.who = o.who ∧ o'.queued = false) ∧
      -- the last party: the home claims the party of the lowest global thread number, all being threads of this Vorter
      (mine.length + 1 = bits o.ctl 39 20 → (∀ x ∈ g :: mine.filterMap Offer.gtn, x < 2 ^ 19) → ∃ u e g₁ rest q₁, exec (.offerArrival k) s = .next u ∧
        (u.bugle h).ev o.key = some e ∧ e.st = .claiming [] (g₁ :: rest) ∧ (∀ g' ∈ g :: mine.filterMap Offer.gtn, g₁ ≤ g') ∧
        g₁ ∈ g :: mine.filterMap Offer.gtn ∧ answers s u k [.claim ⟨o.key, e.age, some h, 0⟩ g₁ q₁])) ∧
    -- R162: offers that disagree
    ((∃ x ∈ mine, bits x.ctl 62 20 ≠ bits o.ctl 62 20) → ∃ u, exec (.offerArrival k) s = .next u ∧ (u.bugle h).of o.key = [])

def Sys2Proof.Claims.ClaimsAnswered : Prop :=
  ∀ (k h g : Nat) (key : EvKey) (e : HomeEv) (granted rest : List Nat) (src : Endp) (s : State),
    (s.bugle h).ev key = some e → e.key = key → e.st = .claiming granted (g :: rest) → noSlots s h key →
    (reaches s k src (.bugle h) (.grant key g) →
      (∀ g' tl, rest = g' :: tl → ∃ u q, exec (.claimGrant k) s = .next u ∧
        (u.bugle h).ev key = some { e with st := .claiming (granted ++ [g]) rest } ∧ (u.bugle h).offers = (s.bugle h).offers ∧
        answers s u k [.claim ⟨key, e.age, some h, 0⟩ g' q]) ∧
      (rest = [] → ∃ u e', exec (.claimGrant k) s = .next u ∧ (u.bugle h).ev key = some e' ∧
        (∃ data gs, e'.st = .occurring ((s.bugle h).standing key) data gs gs ∧
          ∀ x, x ∈ gs ↔ x ∈ ((s.bugle h).standing key).filterMap Offer.gtn) ∧
        (u.bugle h).standing key = [] ∧
        answers s u k (((s.bugle h).standing key).filterMap fun o => o.gtn.map fun x => .commit key x o.index o.ctl []))) ∧
    (∀ q, reaches s k src (.bugle h) (.deny key g q) → (∀ o ∈ (s.bugle h).standing key, o.who ≠ .thread g q) →
      exec (.claimDenial k) s = .next { s with net := s.net.eraseIdx k }) ∧
    (∀ q, reaches s k src (.bugle h) (.deny key g q) → (∃ o ∈ (s.bugle h).standing key, o.who = .thread g q) → ∃ u, exec (.claimDenial k) s = .next u ∧
      (u.bugle h).ev key = some { e with st := .gathering } ∧ (u.bugle h).offers = (s.bugle h).offers ∧
      answers s u k (granted.map fun x => .release key x)) ∧
    ∀ g', g' ≠ g → reaches s k src (.bugle h) (.grant key g') → ∃ u, exec (.claimGrant k) s = .next u ∧
      u.bugles = s.bugles ∧ answers s u k [.release key g']

def Sys2Proof.Claims.OffersGo : Prop :=
  ∀ (k h g : Nat) (q : BitVec 8) (key : EvKey) (i : Nat) (src : Endp) (s : State), noSlots s h key →
    (reaches s k src (.bugle h) (.withdraw key i g q) →
      ((∀ o ∈ (s.bugle h).of key, o.who ≠ .thread g q) → ∃ u, exec (.withdrawalArrival k) s = .next u ∧ u.bugles = s.bugles ∧
        answers s u k []) ∧
      (∀ o ∈ (s.bugle h).of key, o.who = .thread g q → (∀ x ∈ (s.bugle h).of key, x.who = .thread g q → x = o) →
        (∃ e, (s.bugle h).ev key = some e) →
        ∃ u, exec (.withdrawalArrival k) s = .next u ∧ ∀ x ∈ (u.bugle h).of key, x.who ≠ .thread g q)) ∧
    ∀ e ps data todo acks, (s.bugle h).ev key = some e → e.key = key → e.st = .occurring ps data todo acks →
      reaches s k src (.bugle h) (.ack key g) →
      (acks.erase g ≠ [] → ∃ u, exec (.deliveryAck k) s = .next u ∧ answers s u k [] ∧
        (u.bugle h).ev key = some { e with st := .occurring ps data todo (acks.erase g) }) ∧
      (acks.erase g = [] → (s.bugle h).of key = [] → ∃ u, exec (.deliveryAck k) s = .next u ∧ answers s u k [] ∧
        (u.bugle h).ev key = none)

def Sys2Proof.Claims.OverflowReturn : Prop :=
  ∀ (c n h : Nat) (b : Bugle) (o : Offer) (s v : State),
    (s.bugles.find? fun e => e.2.offers.any fun x => x.key.ctx == c && x.spill == some n) = some (h, b) →
    (b.offers.find? fun x => x.key.ctx == c && x.spill == some n) = some o →
    (4096 ≤ b.held → exec (.overflowSlotReturn c n) s = .next s) ∧
    (b.held < 4096 →
      (s.setBugle h { b with offers := b.offers.map fun x => if x = o then { x with spill := none } else x }).putSlot h
        ((b.ev o.key).map HomeEv.age |>.getD 0) false o = some v →
      ∃ u, exec (.overflowSlotReturn c n) s = .next u ∧ u.bugles = v.bugles ∧ u.dram = v.dram ∧ u.net = v.net)

/-- A claim as the cell holds it: with the alternative that it names (R148). -/
def Sys2Proof.Claims.heldClaim (s : State) (p t : Nat) (c : Claim) : Claim := { c with alt := ((s.altOf p t c.key).map Prod.fst).getD 0 }

def Sys2Proof.Claims.CellClaims : Prop :=
  ∀ (k h g p t : Nat) (c : Claim) (q : BitVec 8) (src dst : Endp) (s : State), reaches s k src dst (.claim c g q) →
    s.partyAt c.key g = some (p, t) → c.home = some h →
    let th := s.thread p t
    let me := s.gtn p t
    (th.cell.seq = q → th.cell.st = .opened → ∃ u, exec (.claimArrival k) s = .next u ∧
      (u.thread p t).cell = { th.cell with st := .claimed, holder := some (heldClaim s p t c) } ∧
      answers s u k [.grant c.key me]) ∧
    (th.cell.seq = q → th.cell.st = .claimed → ∃ u, exec (.claimArrival k) s = .next u ∧
      (u.thread p t).cell = { th.cell with queue := th.cell.queue ++ [heldClaim s p t c] } ∧ answers s u k []) ∧
    (th.cell.seq ≠ q ∨ th.cell.st = .idle ∨ th.cell.st = .committed → ∃ u, exec (.claimArrival k) s = .next u ∧
      (u.thread p t).cell = th.cell ∧ answers s u k [.deny c.key me q])

def Sys2Proof.Claims.CellCommits : Prop :=
  ∀ (k h g p t i n : Nat) (key : EvKey) (ctl : Word) (a : Alt) (d : GReg) (alts : List Alt) (e : HomeEv) (ps : List Offer)
    (data : List (Nat × Nat)) (todo acks skip : List Nat) (old : List (Nat × Nat)) (dst : Endp) (s : State),
    reaches s k (.bugle h) dst (.commit key g n ctl old) → s.partyAt key g = some (p, t) →
    (s.thread p t).wait = .sync d alts true → s.altOf p t key = some (i, a) →
    (s.thread p t).cell.st = .claimed → (s.thread p t).cell.leaving = false →
    (s.bugle h).ev key = some e → e.key = key → e.st = .occurring ps data todo acks →
    let used := ps.any fun o => o.index == n && sends o.ctl
    -- the send buffer's 8-byte units: those read before, and those that this step reads
    let units := 2 * bits ctl 62 54
    let unit (i : Nat) : Nat := if i ∈ old.map Prod.fst then tget 0 old i else mread (s.core p).direct (a.send.toNat + 8 * i) 8
    old.Pairwise (fun x y => x.1 < y.1) → (∀ x ∈ old, x.1 < units) →
    ((∃ i < units, i ∉ old.map Prod.fst ∧ i ∈ skip) → ∃ u m got, exec (.commitArrival ⟨k, skip⟩) s = .next u ∧ u.cores = s.cores ∧
      u.bugles = s.bugles ∧ u.net[k]? = some m ∧ m.body = .commit key g n ctl got ∧
      ∀ i < units, i ∉ skip → i ∈ got.map Prod.fst ∧ tget 0 got i = unit i) ∧
    ((∀ i < units, i ∈ old.map Prod.fst ∨ i ∉ skip) →
    ∃ u e', exec (.commitArrival ⟨k, skip⟩) s = .next u ∧ (u.thread p t).cell.st = .committed ∧ (u.thread p t).cell.queue = [] ∧
      (u.thread p t).cell.trap = none ∧ (u.thread p t).wait = (s.thread p t).wait ∧
      (∀ c ∈ (s.thread p t).cell.queue, ∀ h', c.home = some h' → ∃ m ∈ u.net,
        m.body = .deny c.key (s.gtn p t) (s.thread p t).cell.seq) ∧
      (∀ j x, alts[j]? = some x → j ≠ i → bits x.name 63 60 ≠ 5 → ∃ m ∈ u.net,
        m.body = .withdraw (s.evKey p t x.name) (bits x.ctl 19 0) (s.gtn p t) (s.thread p t).cell.seq) ∧
      (u.bugle h).ev key = some e' ∧ e'.st = .occurring ps
        (if used then data ++ [(n, (List.range units).foldr (fun i acc => acc * 2 ^ 64 + unit i) 0)] else data) (todo.erase g) acks)

def Sys2Proof.Claims.CellReleases : Prop :=
  ∀ (k g p t : Nat) (key : EvKey) (c : Claim) (src dst : Endp) (s : State), reaches s k src dst (.release key g) →
    s.partyAt key g = some (p, t) → (s.thread p t).cell.holder = some c → c.key = key → c.home.isSome = true →
    (s.thread p t).cell.leaving = false →
    let th := s.thread p t
    (∀ kind cause, th.cell.trap = some (kind, cause) → compute p → th.st = .wait → ∃ u, exec (.grantReleaseArrival k) s = .next u ∧
      trapped s u p t kind ∧ (u.thread p t).cell.st = .idle) ∧
    (th.cell.trap = none →
      (th.cell.queue = [] → ∃ u, exec (.grantReleaseArrival k) s = .next u ∧ answers s u k [] ∧
        (u.thread p t).cell = { th.cell with st := .opened, holder := none }) ∧
      (th.cell.queue ≠ [] → (∀ x ∈ th.cell.queue, x.home.isSome = true) → ∃ u x, exec (.grantReleaseArrival k) s = .next u ∧
        x ∈ th.cell.queue ∧ (∀ y ∈ th.cell.queue, Claim.before y x = false) ∧ answers s u k [.grant x.key (s.gtn p t)] ∧
        (u.thread p t).cell = { th.cell with st := .claimed, holder := some x, queue := th.cell.queue.erase x }))

def Sys2Proof.Claims.Delivered : Prop :=
  ∀ (k h g p t i data : Nat) (key : EvKey) (ctl rt : Word) (a : Alt) (d : GReg) (alts : List Alt) (c : Claim) (put skip : List Nat)
    (dst : Endp) (s : State), reaches s k (.bugle h) dst (.delivery key g ctl data rt put) → s.partyAt key g = some (p, t) →
    (s.thread p t).wait = .sync d alts true → (s.thread p t).st = .wait → s.altOf p t key = some (i, a) →
    (s.thread p t).cell.st = .committed → (s.thread p t).cell.holder = some c → c.key = key → (s.thread p t).popIn = none →
    let th := s.thread p t
    -- the receive buffer's 8-byte units: those written before, and those that this step writes
    let units := if bits ctl 62 54 = 0 then 0 else 2 * bits ctl 62 54 * if bits ctl 48 44 = 2 then bits ctl 39 20 else 1
    let now := (List.range units).filter fun j => !put.contains j && !skip.contains j
    let written := now.foldl (fun m j => mwrite m (a.recv.toNat + 8 * j) 8 (data / 2 ^ (64 * j))) (s.core p).direct
    put.Nodup → (∀ j ∈ put, j < units) →
    ((∃ j < units, j ∉ put ∧ j ∈ skip) → ∃ u m, exec (.deliveryArrival ⟨k, skip⟩) s = .next u ∧ u.thread p t = th ∧
      (u.core p).direct = written ∧ u.net[k]? = some m ∧ m.body = .delivery key g ctl data rt (put ++ now)) ∧
    ((∀ j < units, j ∈ put ∨ j ∉ skip) →
    ∃ u, exec (.deliveryArrival ⟨k, skip⟩) s = .next u ∧ back s u p t ∧ (u.thread p t).crs.ptime = maxW (maxW th.crs.ptime rt) th.due ∧
      (u.thread p t).regs.g = gAfter th d (BitVec.ofNat 64 i) ∧ (u.thread p t).ev = ⟨i, a.name, (s.die (dieOf p)).time⟩ ∧
      (u.thread p t).cell = { seq := th.cell.seq, base := th.cell.base } ∧ (∃ m ∈ u.net, m.body = .ack key g) ∧
      (u.core p).direct = written)

def Sys2Proof.Claims.TimersDue : Prop :=
  ∀ (p t j : Nat) (a : Alt) (d : GReg) (alts : List Alt) (sent : Bool) (s : State), (s.thread p t).wait = .sync d alts sent →
    alts[j]? = some a → bits a.ctl 63 63 = 1 → j ∉ (s.thread p t).cell.fired → (s.thread p t).cell.leaving = false →
    (s.core p).moveTo = none →
    let th := s.thread p t
    ((s.core p).cyc - th.cell.cyc < bits a.name 55 0 → exec (.timerAlternativeDue p t j) s = .next s) ∧
    -- a timer of the same `sync` that has not made its claim goes before it: the shorter delay, then the lower index
    let before : Prop := ∃ i b, alts[i]? = some b ∧ bits b.ctl 63 63 = 1 ∧ i ∉ th.cell.fired ∧
      (bits b.name 55 0 < bits a.name 55 0 ∨ (bits b.name 55 0 = bits a.name 55 0 ∧ i < j))
    (before → exec (.timerAlternativeDue p t j) s = .next s) ∧
    (bits a.name 55 0 ≤ (s.core p).cyc - th.cell.cyc → ¬ before →
      (th.cell.st = .opened → th.st = .wait → ∃ u, exec (.timerAlternativeDue p t j) s = .next u ∧ back s u p t ∧
        (u.thread p t).regs.g = gAfter th d (BitVec.ofNat 64 j) ∧ (u.thread p t).cell.st = .idle ∧
        (u.thread p t).ev.index = j ∧ (u.thread p t).ev.name = a.name) ∧
      (th.cell.st = .claimed → ∃ u x, exec (.timerAlternativeDue p t j) s = .next u ∧ u.net = s.net ∧ x.alt = j ∧ x.home = none ∧
        (u.thread p t).cell = { th.cell with fired := j :: th.cell.fired, queue := th.cell.queue ++ [x] }))

def Sys2Proof.Claims.Quiescence : Prop :=
  ∀ (slot : Nat) (s : State),
    (s.quiescent slot = false → exec (.quiescenceDetected slot) s = .next s) ∧
    (s.quiescent slot = true → ∃ u, exec (.quiescenceDetected slot) s = .next u ∧
      ∀ p t, compute p → (s.thread p t).slot = slot → (s.thread p t).st = .wait → (s.core p).moveTo = none →
        ((∃ d alts sent, (s.thread p t).wait = .sync d alts sent) → (s.thread p t).cell.st = .opened → trapped s u p t 10) ∧
        ((∃ ch sent, (s.thread p t).wait = .barw ch sent) ∨ (∃ n, (s.thread p t).wait = .chainIn n) ∨
            (∃ n, (s.thread p t).wait = .chainOut n) ∨ (∃ n, (s.thread p t).wait = .token n) → trapped s u p t 10))

def Sys2Proof.Claims.ChainArrives : Prop :=
  ∀ (k l p n : Nat) (e : ChainEntry) (src : Endp) (s : State), reaches s k src (.core l) (.chain n e) → s.phys l = some p →
    ∃ u, exec (.chainEntryArrival k) s = .next u ∧ answers s u k [] ∧ (u.core p).inQ n = (s.core p).inQ n ++ [e] ∧
      ∀ t, ((s.thread p t).wait = .chainIn n → (s.thread p t).st = .wait →
          (u.thread p t).st = .inRot ∧ (u.thread p t).wait = .none ∧ (u.thread p t).latch = (s.thread p t).latch) ∧
        ((s.thread p t).wait ≠ .chainIn n → u.thread p t = s.thread p t)

def Sys2Proof.Claims.NamesAndInfo : Prop :=
  ∀ (d a b : GReg) (s : State),
    (plain s [a, b] [d] = true → exec (.evname d a b) s = .next (on (putG s d
      (BitVec.ofNat 64 (bits (s.gr a) 63 56 * 2 ^ 56 + (bits (s.gr a) 55 0 + (s.gr b).toNat) % 2 ^ 56))))) ∧
    (plain s [a] [d] = true →
      let is : Nat → Prop := fun n => (s.gr a).toNat = n
      let gives : Word → Prop := fun v => exec (.evinfo d a) s = .next (on (putG s d v))
      (is 0 → gives (BitVec.ofNat 64 s.me.ev.index)) ∧ (is 1 → gives s.me.ev.name) ∧ (is 2 → gives s.me.ev.time) ∧
      (is 3 → gives ((s.me.cell.seq - s.me.cell.base).setWidth 64)) ∧ (∀ n < 16, is (0x10 + n) → gives (tget 0 s.myCore.routes n)) ∧
      (is 0x20 →
        let i := bits s.me.crs.chain 3 0
        let o := bits s.me.crs.chain 7 4
        let idle (q : Nat) : Bool := bits (tget 0 s.myCore.routes q) 62 62 == 0
        gives (BitVec.ofNat 64 ((if idle i then (s.myCore.inQ i).length else 0) +
          256 * if idle o then 8 - tget 0 s.myCore.outRes o else 0))) ∧
      ∀ n, is n → 3 < n → n ≠ 0x20 → n < 0x10 ∨ 0x1F < n → gives 0)

def Sys2Proof.Claims.AcksTravel : Prop :=
  (∀ (k : Nat) (f : PendFack) (s : State), s.facks[k]? = some f →
    ((s.core f.core).settledBefore f.thr f.ord = false → exec (.fackSent k) s = .next s) ∧
    ((s.core f.core).settledBefore f.thr f.ord = true → ∃ u m, exec (.fackSent k) s = .next u ∧ u.facks = s.facks.eraseIdx k ∧
      u.net = s.net ++ [m] ∧ m.dst = .core (bits f.arg 18 0 / 16) ∧
      m.body = .fack f.act (BitVec.ofNat 8 (bits f.arg 26 19)) (bits f.arg 18 0)
        (if f.thr = 16 then f.rt else releaseTime (s.thread f.core f.thr))
        (if isSetter f.core then none else some (f.slot, f.kid)))) ∧
  ∀ (k act g p t : Nat) (seq : BitVec 8) (rt : Word) (by' : Option (Nat × Nat)) (src dst : Endp) (s : State),
    reaches s k src dst (.fack act seq g rt by') → s.whereIs g = some (p, t) →
    let th := s.thread p t
    (¬ (th.st = .latched ∧ th.seq = seq ∧ s.serves by' th = true) → exec (.fackArrival k) s = .next { s with net := s.net.eraseIdx k }) ∧
    (th.st = .latched → th.seq = seq → s.serves by' th = true →
      (act = 0 → ∃ u, exec (.fackArrival k) s = .next u ∧ (u.thread p t).st = .inRot ∧ (u.thread p t).regs = th.regs ∧
        (u.thread p t).latch = (if th.latch.noWord then {} else { th.latch with kind := .reissue }) ∧
        (u.thread p t).crs.ptime = maxW th.crs.ptime rt) ∧
      -- one that ends a parked matrix operation waits for the stores of its committed rows (the model's choice, log 64)
      (act ≠ 0 → (s.core p).rowsUnderWay t = true → exec (.fackArrival k) s = .next s) ∧
      (act = 1 → (s.core p).rowsUnderWay t = false → ∃ u, exec (.fackArrival k) s = .next u ∧ (u.thread p t).st = .inRot ∧
        (u.thread p t).crs.ptime = maxW th.crs.ptime rt ∧
        (th.latch.goesOn = false → (u.thread p t).latch = {} ∧ (u.thread p t).regs = { th.regs with pc := th.regs.pc + 4 }) ∧
        (th.latch.goesOn = true → (u.thread p t).latch = { th.latch with kind := .reissue } ∧ (u.thread p t).regs = th.regs)) ∧
      (act = 2 → (s.core p).rowsUnderWay t = false → th.cell.st ≠ .claimed → ∃ u, exec (.fackArrival k) s = .next u ∧ (u.thread p t).st = .free ∧
        (u.thread p t).seq = th.seq))

namespace Sys2Proof.Claims

/-! ### Words for barriers and the matrix side -/

/-- The kernel of the thread in hand binds channel `ch` to the level that a barrier name gives, and the thread is a member
(R171, R178). -/
def barrierName (s : State) (x : Word) (ch : Nat) : Prop :=
  ch = bits x 3 0 ∧ compute s.cur.core ∧ bits x 63 60 = 1 ∧ bits x 55 4 = 0 ∧
    (∃ k, s.kernel s.me.slot = some k ∧ bits x 59 56 < min (recField k.launch 20 1) 8 ∧
      128 ≤ recField k.launch (160 + ch) 1 ∧ recField k.launch (160 + ch) 1 % 8 = bits x 59 56) ∧
    ((tget {} s.myCore.leaves ch).mask &&& ~~~ (tget {} s.myCore.leaves ch).leaving).getLsbD s.cur.thr = true

/-- An arrival with its RT at a leaf (R175). -/
def arrivedAt (s u : State) (p t ch : Nat) : Prop :=
  let l := tget {} (s.core p).leaves ch
  let l' := tget {} (u.core p).leaves ch
  l'.arrived = l.arrived ||| (1 <<< t) ∧ l'.mask = l.mask ∧ l'.came = true ∧
    l'.rt = maxW l.rt (releaseTime (s.thread p t)) ∧
    (l.mask ≠ 0 → l.mask &&& ~~~ l'.arrived = 0 → l'.latched = true)

/-- All stores that the thread in hand has posted are accepted or refused, and no JOURNAL is pending. -/
def storesDone (s : State) : Prop := s.myCore.settled s.cur.thr = true ∧ ∀ a ∈ s.me.traps, a.kind ≠ 7

/-- Bytes `off` to `off + n - 1` of a 64-byte block (R187, R188). -/
def fld (b : BitVec 512) (off n : Nat) : Nat := b.toNat / 2 ^ (8 * off) % 2 ^ (8 * n)

/-- A 64-byte block of the direct storage of the core in hand. -/
def blockAt (s : State) (a : Nat) : BitVec 512 := BitVec.ofNat 512 (mread s.myCore.direct a 64)

/-- A shape record that no check of R199 on it refuses. -/
def goodShape (lv : Nat) (sh : BitVec 512) : Prop :=
  fld sh 8 1 < 8 ∧ fld sh 9 1 = 0 ∧ fld sh 40 24 = 0 ∧ fld sh 8 1 < lv ∧ fld sh 10 2 ≠ 0 ∧ fld sh 12 2 ≠ 0 ∧ fld sh 14 2 ≠ 0

/-- The pairs of R57. -/
def pairs : List (Nat × Nat) := [(0, 0), (0, 1), (1, 0), (1, 1), (2, 2), (3, 3), (4, 4), (4, 5), (5, 4), (5, 5), (6, 6)]

/-- A descriptor and shape record that no cause of R199 refuses; `early` is early service (R396). -/
def goodMma (early : Bool) (acc : Acc) (fa fb lv : Nat) (direct : Bool) (d sh : BitVec 512) : Prop :=
  let k := fld d 36 4
  let conv := fld d 43 1 % 2 = 1
  fld d 42 1 / 16 % 8 = 0 ∧ fld d 43 1 < 8 ∧ fld d 60 4 = 0 ∧ (direct = false → goodShape lv sh) ∧
    fld d 43 1 / 4 % 2 = acc.val ∧ 32 ≤ k ∧ k ≤ 0x7FFFFFE0 ∧ k % 32 = 0 ∧ (fa, fb) ∈ pairs ∧ (early = true → fa ≠ 6) ∧
    (conv → direct = false ∧ fa ≠ 6 ∧ k = fld sh 30 1 * fld sh 31 1 * fld sh 28 2 ∧ fld sh 28 2 ≠ 0 ∧ fld sh 28 2 % 32 = 0 ∧
      ∀ x ∈ [(16, 2), (18, 2), (20, 2), (22, 2), (24, 4), (30, 1), (31, 1), (32, 1), (33, 1), (34, 1), (35, 1)], fld sh x.1 x.2 ≠ 0) ∧
    (direct = true → 1 ≤ fld d 46 1 ∧ fld d 46 1 ≤ 32 ∧ 1 ≤ fld d 47 1 ∧ fld d 47 1 ≤ 32) ∧ (direct = false → fld d 46 2 = 0)

/-- Operand bases and strides are multiples of the element size (R192). -/
def goodBases (fa fb : Nat) (d : BitVec 512) : Prop :=
  (fa ≠ 6 → fld d 0 8 % elemSize fa = 0 ∧ fld d 24 4 % elemSize fa = 0) ∧
    (fb ≠ 6 → fld d 8 8 % elemSize fb = 0 ∧ fld d 28 4 % elemSize fb = 0)

/-- A drain program is bound in the descriptor's slot, and its table window lies in table memory (R207). -/
def boundSlot (s : State) (d : BitVec 512) : Prop :=
  let sl := tget {} s.myCore.mx.slots (fld d 42 1 % 16)
  ∃ pr n, sl.prog = some pr ∧ sl.tlen = some n ∧ fld d 40 2 % 4 = 0 ∧ fld d 40 2 + n ≤ 6144

/-- `mprog` as R201 lays it out. -/
def mprogWord (act bank phase kdone : Nat) : Word := BitVec.ofNat 64 (act * 2 ^ 63 + bank * 2 ^ 62 + phase * 2 ^ 60 + kdone % 2 ^ 26)

/-- No operation holds a bank, and no bank instruction waits for it or runs on it. -/
def freeBank (x : Matrix) (acc : Acc) : Prop := (∀ o ∈ x.ops, o.held = true → o.bank ≠ acc) ∧ ∀ b ∈ x.banks, b.bank ≠ acc

/-- A thread of a core that waits for the matrix side, out of rotation. -/
def matrixWait (s : State) (p t : Nat) : Prop := t < 16 ∧ (s.thread p t).wait = .matrix ∧ (s.thread p t).st = .wait

/-- The thread in hand, of index `t`, has begun a matrix wait. -/
def matrixWait' (u : State) (t : Nat) : Prop := u.cur.thr = t ∧ u.me.wait = .matrix ∧ u.me.st = .wait

/-- Every copy of operation `o` in the table is in state `st`. -/
def opIs (x : Matrix) (o : Mop) (f : Mop → Prop) : Prop := ∀ y ∈ x.ops, y.ord = o.ord → f y

end Sys2Proof.Claims

/-! ### Barriers -/

def Sys2Proof.Claims.BarrierWaits : Prop :=
  ∀ (a : GReg) (s : State), plain s [a] [] = true →
    ((∀ ch, ¬ barrierName s (s.gr a) ch) → exec (.barw a) s = .next (s.trapMe .event)) ∧
    ∀ ch, barrierName s (s.gr a) ch →
      let b := s.me.bars[ch]!
      (b = .none → storesDone s → ∃ u, exec (.barw a) s = .next u ∧ u.me.st = .wait ∧ u.me.wait = .barw ch true ∧
        u.me.bars = s.me.bars.set! ch .waiting ∧ u.me.regs = s.me.regs ∧ arrivedAt s u s.cur.core s.cur.thr ch) ∧
      (b = .none → s.myCore.settled s.cur.thr = false → exec (.barw a) s = .next (waits s (.barw ch false))) ∧
      (b = .arrived ∨ b = .waiting → exec (.barw a) s =
        .next (waits (s.modMe fun th => { th with bars := th.bars.set! ch .waiting }) (.barw ch true))) ∧
      ∀ rt, b = .released rt → ∃ u, exec (.barw a) s = .next u ∧ u.me.regs.pc = s.me.regs.pc + 4 ∧ u.me.regs.g = s.me.regs.g ∧
        u.me.crs.ptime = maxW (maxW s.me.crs.ptime rt) s.me.due ∧ u.me.bars = s.me.bars.set! ch .none ∧
        u.myCore.leaves = s.myCore.leaves

def Sys2Proof.Claims.BarrierArrives : Prop :=
  ∀ (d a : GReg) (s : State), plain s [a] [d] = true →
    ((∀ ch, ¬ barrierName s (s.gr a) ch) → exec (.barq d a) s = .next (s.trapMe .event)) ∧
    ∀ ch, barrierName s (s.gr a) ch →
      let b := s.me.bars[ch]!
      (b ≠ .none → exec (.barq d a) s = .next (s.trapMe .event)) ∧
      (b = .none → storesDone s → ∃ u, exec (.barq d a) s = .next u ∧ u.me.regs.pc = s.me.regs.pc + 4 ∧ u.me.st = s.me.st ∧
        u.me.bars = s.me.bars.set! ch .arrived ∧ arrivedAt s u s.cur.core s.cur.thr ch ∧
        u.me.regs.g = (putG s d ((s.phaseOf s.cur.core s.cur.thr ch).setWidth 64)).me.regs.g) ∧
      (b = .none → s.myCore.settled s.cur.thr = false → exec (.barq d a) s = .next (waits s (.release d ch)))

def Sys2Proof.Claims.BarrierMembers : Prop :=
  ∀ (a : GReg) (s : State) (k : Kernel), plain s [a] [] = true → compute s.cur.core → s.kernel s.me.slot = some k →
    let x := s.gr a
    let ch := bits x 3 0
    let l := tget {} s.myCore.leaves ch
    let bit : BitVec 16 := 1 <<< s.cur.thr
    (bits x 63 5 ≠ 0 ∨ recField k.launch (160 + ch) 1 < 128 → exec (.barset a) s = .next (s.trapMe .event)) ∧
    (bits x 63 5 = 0 → 128 ≤ recField k.launch (160 + ch) 1 →
      -- the bit of an arrived thread that has gone to FREE since is not the new thread's membership
      (bits x 4 4 = 1 → l.mask &&& ~~~ l.leaving &&& bit = 0 → l.joining &&& bit = 0 → ∃ u, exec (.barset a) s = .next u ∧
        u.me.regs.pc = s.me.regs.pc + 4 ∧ u.me.regs.g = s.me.regs.g ∧
        tget {} u.myCore.leaves ch = if l.latched then { l with joining := l.joining ||| bit }
          else { l with mask := l.mask ||| bit, arrived := l.arrived &&& ~~~ bit, leaving := l.leaving &&& ~~~ bit }) ∧
      (bits x 4 4 = 0 → s.me.bars[ch]! ≠ .none → exec (.barset a) s = .next (s.trapMe .event)) ∧
      (bits x 4 4 = 0 → s.me.bars[ch]! = .none → l.arrived &&& bit = 0 → ∃ u, exec (.barset a) s = .next u ∧
        u.me.regs.pc = s.me.regs.pc + 4 ∧ (tget {} u.myCore.leaves ch).mask = l.mask &&& ~~~ bit))

def Sys2Proof.Claims.BarrierSteps : Prop :=
  (∀ (p t ch : Nat) (d : GReg) (s : State), (s.core p).settled t = true → (∀ a ∈ (s.thread p t).traps, a.kind ≠ 7) →
    ((s.thread p t).wait = .barw ch false → ∃ u, exec (.barrierArrivalLatched p t) s = .next u ∧ arrivedAt s u p t ch ∧
      (u.thread p t).wait = .barw ch true ∧ (u.thread p t).bars = (s.thread p t).bars.set! ch .waiting ∧
      (u.thread p t).regs = (s.thread p t).regs) ∧
    ((s.thread p t).wait = .release d ch → (s.thread p t).st = .wait → ∃ u, exec (.barrierArrivalLatched p t) s = .next u ∧
      arrivedAt s u p t ch ∧ back s u p t ∧ (u.thread p t).bars = (s.thread p t).bars.set! ch .arrived ∧
      (u.thread p t).regs.g = gAfter (s.thread p t) d ((s.phaseOf p t ch).setWidth 64))) ∧
  (∀ (p t ch : Nat) (s : State), (s.core p).settled t = true → (∃ a ∈ (s.thread p t).traps, a.kind = 7) → compute p →
    (s.thread p t).st = .wait → (s.thread p t).wait = .barw ch false →
    ∃ u, exec (.barrierArrivalLatched p t) s = .next u ∧ trapped s u p t 7) ∧
  ∀ (ch seg slot p0 : Nat) (k : Kernel) (s : State), s.phys seg = some p0 → (s.core p0).slot = some slot →
    s.liveKernel slot = some k → 128 ≤ recField k.launch (160 + ch) 1 → (∀ e ∈ k.teams, e.2.st = .placed ∨ e.2.st = .done) →
    let ps := s.barCores k ch (k.barInst ch seg)
    let rt := ps.foldl (fun a p => maxW a (tget {} (s.core p).leaves ch).rt) 0
    (∀ p ∈ ps, (tget {} (s.core p).leaves ch).mask = 0 ∨ (tget {} (s.core p).leaves ch).latched = true) →
    (∃ p ∈ ps, (tget {} (s.core p).leaves ch).came = true) →
    ∃ u, exec (.barrierRelease ch seg) s = .next u ∧ u.kernel slot = some (k.nextPhase ch (k.barInst ch seg)) ∧
      ∀ p ∈ ps, (tget {} (u.core p).leaves ch).arrived = 0 ∧ (tget {} (u.core p).leaves ch).latched = false ∧
        ∀ t, (tget {} (s.core p).leaves ch).mask.getLsbD t = true → t < 16 →
          ((s.thread p t).bars[ch]! = .arrived → (u.thread p t).bars = (s.thread p t).bars.set! ch (.released rt)) ∧
          ((s.thread p t).bars[ch]! = .waiting → (s.thread p t).st = .wait → back s u p t ∧
            (u.thread p t).bars = (s.thread p t).bars.set! ch .none ∧ rt.toNat ≤ (u.thread p t).crs.ptime.toNat)

/-! ### The matrix side -/

def Sys2Proof.Claims.MatrixIssue : Prop :=
  ∀ (acc : Acc) (a b : GReg) (fa fb : Fin 16) (s : State), plain s [a, b] [] = true →
    let ga := s.gr a
    let gb := s.gr b
    let lim := s.myCore.dirG * 32768
    let direct := ga == 0
    let d := blockAt s gb.toNat
    let sh : BitVec 512 := if direct then 0 else blockAt s ga.toNat
    let fmtA := if fa = 15 then bits s.me.crs.fmta 3 0 else fa.val
    let fmtB := if fb = 15 then bits s.me.crs.fmtb 3 0 else fb.val
    (s.me.latch.kind = .reissue → (∃ o ∈ s.myCore.mx.ops, o.thr = s.cur.thr ∧ o.discard = false) →
      exec (.mma acc a b fa fb) s = .next (waits s .matrix)) ∧
    (s.me.latch.kind ≠ .reissue →
      (gb.toNat % 64 ≠ 0 → exec (.mma acc a b fa fb) s = .next (s.trapMe (.align gb))) ∧
      (gb.toNat % 64 = 0 → ga.toNat % 64 = 0 → gb.toNat + 64 ≤ lim → (direct = false → ga.toNat + 64 ≤ lim) →
        (¬ goodMma (s.early s.cur.core) acc fmtA fmtB (levels s) direct d sh →
          ∃ c, 1 ≤ c ∧ c ≤ 7 ∧ exec (.mma acc a b fa fb) s = .next (s.trapMe { kind := 11, cause := c })) ∧
        (goodMma (s.early s.cur.core) acc fmtA fmtB (levels s) direct d sh →
          (128 ≤ fld d 42 1 → ¬ boundSlot s d → exec (.mma acc a b fa fb) s = .next (s.trapMe { kind := 11, cause := 8 })) ∧
          ((128 ≤ fld d 42 1 → boundSlot s d) → goodBases fmtA fmtB d →
            ∃ u o, exec (.mma acc a b fa fb) s = .next u ∧ u.me.st = .wait ∧ u.me.wait = .matrix ∧ u.me.regs = s.me.regs ∧
              u.myCore.mx.ops = s.myCore.mx.ops ++ [o] ∧ o.thr = s.cur.thr ∧ o.st = .queued ∧ o.bank = acc ∧ o.desc = d ∧
              o.shape = sh ∧ o.direct = direct ∧ o.geom = s.me.crs.geom ∧ o.fa = fmtA ∧ o.fb = fmtB ∧ o.kdone = 0 ∧
              u.me.crs.mprog = mprogWord 0 acc.val 1 0 ∧ u.myCore.direct = s.myCore.direct ∧ u.dram = s.dram))))

def Sys2Proof.Claims.Geometry : Prop :=
  ∀ (a : GReg) (s : State), plain s [a] [] = true →
    let ga := s.gr a
    let sh := blockAt s ga.toNat
    (ga.toNat % 64 ≠ 0 → exec (.mgeo a) s = .next (s.trapMe (.align ga))) ∧
    (ga.toNat % 64 = 0 → s.myCore.dirG * 32768 < ga.toNat + 64 → exec (.mgeo a) s = .next (s.trapMe (.access ga))) ∧
    (ga.toNat % 64 = 0 → ga.toNat + 64 ≤ s.myCore.dirG * 32768 → goodShape (levels s) sh →
      let r := s.rankOf s.cur.core s.cur.thr (fld sh 8 1)
      let w : Word := BitVec.ofNat 64 (fld sh 8 1 * 2 ^ 56 + r / fld sh 10 2 % 2 ^ 28 * 2 ^ 28 + r % fld sh 10 2)
      exec (.mgeo a) s = .next (on (s.modMe fun th => { th with crs := { th.crs with geom := w } })))

def Sys2Proof.Claims.Banks : Prop :=
  (∀ (acc : Acc) (s : State),
    (freeBank s.myCore.mx acc → ∃ u, exec (.mzero acc) s = .next u ∧ u.me.regs.pc = s.me.regs.pc + 4 ∧ u.myCore.mx.bank acc = 0 ∧
      (∀ b, b ≠ acc → u.myCore.mx.bank b = s.myCore.mx.bank b) ∧ u.me.regs.g = s.me.regs.g ∧ u.myCore.direct = s.myCore.direct) ∧
    (¬ freeBank s.myCore.mx acc →
      ∃ u b, exec (.mzero acc) s = .next u ∧ matrixWait' u s.cur.thr ∧ u.myCore.mx.banks = s.myCore.mx.banks ++ [b] ∧
        b.op = 0 ∧ b.bank = acc ∧ b.thr = s.cur.thr ∧ b.run = false)) ∧
  (∀ (acc : Acc) (a : GReg) (s : State), plain s [a] [] = true →
    let ga := s.gr a
    ∀ i ∈ [(1, Instr.msave acc a), (2, Instr.mrest acc a)],
      (ga.toNat % 64 ≠ 0 → exec i.2 s = .next (s.trapMe (.align ga))) ∧
      (ga.toNat % 64 = 0 → s.myCore.dirG * 32768 < ga.toNat + 4096 → exec i.2 s = .next (s.trapMe (.access ga))) ∧
      (ga.toNat % 64 = 0 → ga.toNat + 4096 ≤ s.myCore.dirG * 32768 →
        ∃ u b, exec i.2 s = .next u ∧ matrixWait' u s.cur.thr ∧ u.myCore.mx.banks = s.myCore.mx.banks ++ [b] ∧
          b.op = i.1 ∧ b.bank = acc ∧ b.thr = s.cur.thr ∧ b.addr = ga.toNat ∧ (freeBank s.myCore.mx acc → b.run = true))) ∧
  ∀ (p : Nat) (b : BankOp) (s : State),
    ((s.core p).mx.banks.find? (fun y => y.bank == b.bank && !y.run) = some b → (s.core p).mx.isHeld b.bank = false →
      (b.op = 0 → matrixWait s p b.thr → ∃ u, exec (.bankOpTake p b.bank) s = .next u ∧ back s u p b.thr ∧
        (u.core p).mx.bank b.bank = 0 ∧ (u.core p).mx.banks = (s.core p).mx.banks.erase b) ∧
      (b.op ≠ 0 → ∃ u, exec (.bankOpTake p b.bank) s = .next u ∧
        ∃ r ∈ (u.core p).mx.banks, r = { b with run := true })) ∧
    -- the 8-byte locations that the step moves, each for itself (R255), the last of them ending the instruction
    ∀ skip : List Nat, (s.core p).mx.banks.find? (fun y => y.bank == b.bank && y.run) = some b →
      let now := (List.range 512).filter fun i => !b.done.contains i && !skip.contains i
      ((∀ m ∈ s.net, s.ownPortAt p b.thr b.addr 4096 m = false) → ∃ u, exec (.bankTransferComplete ⟨p, skip⟩ b.bank) s = .next u ∧
        (b.op = 1 → (u.core p).mx.bank b.bank = (s.core p).mx.bank b.bank ∧ (u.core p).direct = now.foldl (fun m i =>
          mwrite m (b.addr + 8 * i) 8 (((s.core p).mx.bank b.bank).toNat / 2 ^ (64 * i) % 2 ^ 64)) (s.core p).direct) ∧
        (b.op = 2 → (u.core p).direct = (s.core p).direct ∧ ∀ i < 512,
          ((u.core p).mx.bank b.bank).toNat / 2 ^ (64 * i) % 2 ^ 64 =
            if i ∈ now then mread (s.core p).direct (b.addr + 8 * i) 8 else ((s.core p).mx.bank b.bank).toNat / 2 ^ (64 * i) % 2 ^ 64)) ∧
      ((∃ i < 512, i ∉ b.done ∧ i ∈ skip) → (s.thread p b.thr).wait = .matrix →
        ∃ u, exec (.bankTransferComplete ⟨p, skip⟩ b.bank) s = .next u ∧ (u.thread p b.thr).wait = .matrix ∧
        ∃ r ∈ (u.core p).mx.banks, r = { b with done := b.done ++ now }) ∧
      ((∀ i < 512, i ∈ b.done ∨ i ∉ skip) → matrixWait s p b.thr →
        ∃ u, exec (.bankTransferComplete ⟨p, skip⟩ b.bank) s = .next u ∧ back s u p b.thr ∧
          (u.core p).mx.banks = (s.core p).mx.banks.erase b)

def Sys2Proof.Claims.DrainSlots : Prop :=
  (∀ (p : PSlot) (a : GReg) (s : State), plain s [a] [] = true →
    let src := (s.gr a).toNat
    let lim := s.myCore.dirG * 32768
    let word (i : Nat) : Nat := mread s.myCore.direct (src + 4 * i) 4
    (src % 4 ≠ 0 → exec (.dload p a) s = .next (s.trapMe (.align (s.gr a)))) ∧
    (src % 4 = 0 →
      ((∀ i < 32, src + 4 * i + 4 ≤ lim ∧ word i ≠ 0xFC000000) → exec (.dload p a) s = .next (s.trapMe { kind := 11, cause := 16 })) ∧
      (∀ n < 32, (∀ i < n, src + 4 * i + 4 ≤ lim ∧ word i ≠ 0xFC000000) → lim < src + 4 * n + 4 →
        exec (.dload p a) s = .next (s.trapMe (.access (BitVec.ofNat 64 (src + 4 * n))))) ∧
      ∀ n < 32, (∀ i < n, word i ≠ 0xFC000000) → word n = 0xFC000000 → src + 4 * n + 4 ≤ lim →
        let ws := (List.range (n + 1)).map fun i => BitVec.ofNat 32 (word i)
        let runs : Prop := (∀ w ∈ ws, decodeDrain w.toNat ≠ none) ∧
          (s.early s.cur.core = true → ∀ w ∈ ws, ∀ r k, decodeDrain w.toNat ≠ some (.drainStq r k))
        (¬ runs → exec (.dload p a) s = .next (s.trapMe { kind := 11, cause := 16 })) ∧
        (runs → ∃ u, exec (.dload p a) s = .next u ∧ u.me.regs.pc = s.me.regs.pc + 4 ∧ u.me.regs.g = s.me.regs.g ∧
          tget {} u.myCore.mx.slots p.val = { prog := some ws, tlen := none } ∧
          ∀ q, q ≠ p.val → tget {} u.myCore.mx.slots q = tget {} s.myCore.mx.slots q))) ∧
  (∀ (p : PSlot) (a : GReg) (s : State), plain s [a] [] = true →
    let n := bits (s.gr a) 12 0
    ((tget {} s.myCore.mx.slots p.val).prog = none → exec (.dbind p a) s = .next (s.trapMe { kind := 11, cause := 17 })) ∧
    ∀ ws, (tget {} s.myCore.mx.slots p.val).prog = some ws →
      let fits : Prop := bits (s.gr a) 63 13 = 0 ∧ n % 4 = 0 ∧ n ≤ 6144 ∧ ∀ w ∈ ws, ∀ r off,
        decodeDrain w.toNat = some (.drainLdc r off) ∨ decodeDrain w.toNat = some (.drainLdr r off) → 4 * off.toNat + 128 ≤ n
      (¬ fits → exec (.dbind p a) s = .next (s.trapMe { kind := 11, cause := 18 })) ∧
      (fits → ∃ u, exec (.dbind p a) s = .next u ∧ u.me.regs.pc = s.me.regs.pc + 4 ∧
        tget {} u.myCore.mx.slots p.val = { prog := some ws, tlen := some n })) ∧
  ∀ (a b : GReg) (s : State), plain s [a, b] [] = true →
    let src := (s.gr a).toNat
    let x := s.gr b
    let len := bits x 31 16
    let toff := bits x 15 0
    let fits : Prop := bits x 63 32 = 0 ∧ len % 4 = 0 ∧ toff % 4 = 0 ∧ len ≠ 0 ∧ toff + len ≤ 6144
    (src % 4 ≠ 0 → exec (.dloadT a b) s = .next (s.trapMe (.align (s.gr a)))) ∧
    (src % 4 = 0 → ¬ fits → exec (.dloadT a b) s = .next (s.trapMe { kind := 11, cause := 19 })) ∧
    (src % 4 = 0 → fits → s.myCore.dirG * 32768 < src + len → exec (.dloadT a b) s = .next (s.trapMe (.access (s.gr a)))) ∧
    (src % 4 = 0 → fits → src + len ≤ s.myCore.dirG * 32768 → ∃ u c, exec (.dloadT a b) s = .next u ∧
      matrixWait' u s.cur.thr ∧ u.myCore.mx.tabs = s.myCore.mx.tabs ++ [c] ∧ c.thr = s.cur.thr ∧ c.src = src ∧ c.len = len ∧
      c.toff = toff ∧ c.run = false ∧ c.ord = s.myCore.mx.ord)

def Sys2Proof.Claims.TableCopies : Prop :=
  ∀ (p t : Nat) (b : TabCopy) (s : State),
    let x := (s.core p).mx
    (x.tabs.find? (fun y => y.thr == t && !y.run) = some b →
      ((∃ o ∈ x.ops, o.ord < b.ord ∧ o.overlaps b = true) ∨ (∃ y ∈ x.tabs, y.ord < b.ord) → exec (.dloadTCopyStart p t) s = .next s) ∧
      ((∀ o ∈ x.ops, o.ord < b.ord → o.overlaps b = false) → (∀ y ∈ x.tabs, b.ord ≤ y.ord) →
        ∃ u, exec (.dloadTCopyStart p t) s = .next u ∧ ∃ r ∈ (u.core p).mx.tabs, r = { b with run := true })) ∧
    -- the 8-byte locations that the step reads, each for itself (R255), the last of them ending the instruction
    ∀ skip : List Nat, x.tabs.find? (fun y => y.thr == t && y.run) = some b →
      b.toff + b.len ≤ 6144 → b.src % 4 = 0 → b.toff % 4 = 0 → b.len % 4 = 0 →
      let loc (i : Nat) : Nat := (b.src + (i - b.toff)) / 8
      let mine (i : Nat) : Prop := b.toff ≤ i ∧ i < b.toff + b.len
      ((∀ m ∈ s.net, s.ownPortAt p t b.src b.len m = false) → ∃ u, exec (.dloadTCopyComplete ⟨p, skip⟩ t) s = .next u ∧
        ∀ i < 6144, (u.core p).mx.table.toNat / 256 ^ i % 256 =
          if mine i ∧ loc i ∉ b.done ∧ loc i ∉ skip then (mget (s.core p).direct (b.src + (i - b.toff))).toNat
          else x.table.toNat / 256 ^ i % 256) ∧
      ((∃ i, mine i ∧ loc i ∉ b.done ∧ loc i ∈ skip) → (s.thread p t).wait = .matrix →
        ∃ u, exec (.dloadTCopyComplete ⟨p, skip⟩ t) s = .next u ∧ (u.thread p t).wait = .matrix ∧
        ∃ r ∈ (u.core p).mx.tabs, r.thr = t ∧ r.run = true ∧ r.src = b.src ∧ r.len = b.len ∧ r.toff = b.toff ∧ r.ord = b.ord ∧
          ∀ i, mine i → (loc i ∈ r.done ↔ loc i ∈ b.done ∨ loc i ∉ skip)) ∧
      ((∀ i, mine i → loc i ∈ b.done ∨ loc i ∉ skip) → matrixWait s p t →
        ∃ u, exec (.dloadTCopyComplete ⟨p, skip⟩ t) s = .next u ∧ back s u p t ∧ (u.core p).mx.tabs = x.tabs.erase b)

/-- One element's update by one chunk: the exact sum of the accumulator and the products, rounded once, or wrapped to i32 (R57-R60). That
a NaN operand and an invalid product both count is the model's reading (log 42). -/
def Sys2Proof.Claims.Accumulation : Prop :=
  (∀ (fa fb acc : Nat) (xs ys : List Nat), floatPair fa fb → acc < 2 ^ 32 →
    xs.length = (if fa = 6 then 17 else 32) → ys.length = xs.length → (∀ b ∈ xs ++ ys, b < if fa = 2 ∨ fa = 3 then 65536 else 256) →
    let A := operandVals fa xs
    let B := operandVals fb ys
    let a := Fmt.f32.value acc
    let r := accumulate fa fb acc xs ys
    let bad : Bool := (List.zip A B).any fun z => !z.1.isNan && !z.2.isNan && (z.1.mul z.2).isNone
    let infs : List FVal := a :: (List.zip A B).filterMap fun z => z.1.mul z.2
    (a = .nan ∨ .nan ∈ A ∨ .nan ∈ B → r = (Fmt.f32.qnan, { nan := 1, inv := if bad then 1 else 0 })) ∧
    (a ≠ .nan → FVal.nan ∉ A → FVal.nan ∉ B →
      (bad = true ∨ (.inf true ∈ infs ∧ .inf false ∈ infs) → r = (Fmt.f32.qnan, { inv := 1 })) ∧
      (∀ s, bad = false → .inf s ∈ infs → FVal.inf (!s) ∉ infs → r = (Fmt.f32.infBits s, {})) ∧
      ∀ s m e, bad = false → a = .fin s m e → (∀ t, FVal.inf t ∉ infs) → ∀ P : Rat,
        P = ((List.range 32).map fun k => match A[k]?, B[k]? with
          | some (.fin t n g), some (.fin u l h) => signed t n g * signed u l h
          | _, _ => 0).sum →
        (signed s m e + P = 0 → r = (0, {})) ∧
        (signed s m e + P ≠ 0 → ∀ row ∈ limits, row.1 = .f32 →
          rounded row false (decide (signed s m e + P < 0)) |signed s m e + P| r))) ∧
  ∀ (fa fb acc : Nat) (xs ys : List Nat), (fa = 4 ∨ fa = 5) → (fb = 4 ∨ fb = 5) → xs.length = 32 → ys.length = 32 →
    let int (f x : Nat) : Int := if f = 4 then (BitVec.ofNat 8 x).toInt else (x % 256 : Nat)
    let total : Int := (BitVec.ofNat 32 acc).toInt + ((List.range 32).map fun k => int fa (xs.getD k 0) * int fb (ys.getD k 0)).sum
    accumulate fa fb acc xs ys = (low .i32 total, if outside .i32 total then { wrap := 1 } else {})

/-- A matrix operation is admitted, accumulates chunk by chunk, gets the drain unit and completes (R184, R185, R190, R191,
R193, R196, R201). -/
def Sys2Proof.Claims.OperationSteps : Prop :=
  ∀ (p : Nat) (o : Mop) (s : State),
    let x := (s.core p).mx

    -- R185: admission to the array
    ((s.core p).moveTo = none → (∀ y ∈ x.ops, y.st ≠ .accumulating) → x.ops.find? x.admissible = some o → o.discard = false →
      ∃ u, exec (.mmaAdmission p) s = .next u ∧ opIs (u.core p).mx o (fun y => y.st = .accumulating ∧ y.held = true) ∧
        (u.thread p o.thr).crs.mprog = mprogWord 1 o.bank.val 2 o.kdone ∧
        (u.core p).mx.bank o.bank = if o.held = false ∧ fld o.desc 43 1 / 2 % 2 = 0 then 0 else x.bank o.bank) ∧
    -- R185: the drain unit
    ((s.core p).moveTo = none → (∀ y ∈ x.ops, y.unit = false) → o ∈ x.ops → o.drn.isSome = true →
      (o.st = .draining ∨ o.st = .queued ∧ o.inDrain = true) →
      (∀ y ∈ x.ops, y.drn.isSome = true → y.ord ≠ o.ord → o.drn.getD 0 < y.drn.getD 0) → (∀ y ∈ x.ops, y.ord = o.ord → y = o) →
      x.tableBusy o = false → o.discard = false →
      ∃ u, exec (.drainGrant p) s = .next u ∧ opIs (u.core p).mx o (fun y => y.st = .draining ∧ y.unit = true ∧ y.next = o.next) ∧
        (u.thread p o.thr).crs.mprog = mprogWord 1 o.bank.val 3 o.kdone) ∧
    -- R184: completion
    ((s.core p).moveTo = none → o ∈ x.ops → (∀ y ∈ x.ops, y.thr = o.thr → y = o) → o.stores = [] → o.site = none →
      (o.st = .complete ∨ o.st = .draining ∧ o.unit = true ∧ o.next = 32 ∧ x.drain.buf = [] ∧ x.drain.rows = []) →
      o.discard = false → matrixWait s p o.thr →
      ∃ u, exec (.matrixOperationComplete p o.thr) s = .next u ∧ back s u p o.thr ∧ (∀ y ∈ (u.core p).mx.ops, y.ord ≠ o.ord) ∧
        (u.thread p o.thr).crs.mprog = mprogWord 0 o.bank.val 0 o.kdone ∧ (u.core p).mx.acc0 = x.acc0 ∧ (u.core p).mx.acc1 = x.acc1) ∧
    -- R196: one chunk, once each of its locations has been read (R193, R195)
    ((s.core p).moveTo = none → x.ops.find? (fun y => y.st == .accumulating) = some o → x.tableBusy o = false → o.discard = false →
      ∀ leave : List Nat,
        let es (f : Nat) : Nat := if f = 6 then 1 else elemSize f
        let y := (o.reads o.kdone).foldl (fun y r => y.read p o.thr o.ord leave r.1 (locKey r.1 r.2) r.2) ({ s := s, got := o.got } : Piece)
        let old (m n : Nat) : Nat := bankAt ((y.s.core p).mx.bank o.bank) m n
        y.trap = none → y.left = false →
        let last := decide (fld o.desc 36 4 / 32 ≤ o.kdone + 1)
        let drain := decide (128 ≤ fld o.desc 42 1)
        ∃ u, exec (.chunkAccumulate ⟨p, leave⟩) s = .next u ∧
          (∀ m n, m < 32 → n < 32 → bankAt ((u.core p).mx.bank o.bank) m n =
            if m ∈ o.rows ∧ n ∈ o.cols then
              (accumulate o.fa o.fb (old m n) (runData y.got m (es o.fa) (o.aAddrs o.kdone m))
                (runData y.got (32 + n) (es o.fb) (o.bAddrs o.kdone n))).1 % 2 ^ 32
            else old m n) ∧
          (u.thread p o.thr).crs.mprog = mprogWord 1 o.bank.val (if last ∧ drain then 3 else 2) (o.kdone + 1) ∧
          opIs (u.core p).mx o fun y => y.kdone = o.kdone + 1 ∧
            y.st = if last then (if drain then .draining else .complete) else .accumulating)

namespace Sys2Proof.Claims

/-! ### Words for the drain unit -/

/-- The drain unit of the core in hand serves operation `o`, and `r` is the first row of the pipe that has not yet run its micro-op in
this cycle (R212). -/
def itsTurn (s : State) (o : Mop) (r : DRow) : Prop :=
  s.myCore.mx.ops.find? (fun y => y.unit) = some o ∧
    s.myCore.mx.drain.rows.find? (fun y => !y.ran && y.fault.isNone) = some r

/-- It is row `r`'s turn, and it meets no hazard that the debug mode would report on the registers it reads (R211-R214). -/
def inPipe (s : State) (o : Mop) (r : DRow) (xs : List DReg) (ks : List RsReg) : Prop :=
  itsTurn s o r ∧ (o.dbg = true → r.hazard xs ks = false)

/-- The micro-op is done: the row stands at the next position, as `r'`. -/
def advances (u : State) (r r' : DRow) : Prop :=
  r' ∈ u.myCore.mx.drain.rows ∧ r'.pos = r.pos + 1 ∧ r'.m = r.m ∧ r'.d0 = r.d0 ∧ r'.fault = r.fault ∧ r'.ran = true

/-- A store of the core in hand that meets no ACCESS or ALIGN of its own (R225): an address below 2^56, that of direct storage below the
direct limit, aligned to the store's width. -/
def placeable (s : State) (d : DStore) : Prop :=
  d.va.toNat < 2 ^ 56 ∧ (d.va.toNat < 2 ^ 19 → d.va.toNat < s.myCore.dirG * 32768) ∧ d.va.toNat % d.w = 0

/-- The row stops with a fault at a store that is not `placeable`: ACCESS for its address, otherwise ALIGN (R225). -/
def storeFault (s u : State) (r : DRow) (d : DStore) : Prop :=
  ∃ r' ∈ u.myCore.mx.drain.rows, ∃ f, r'.m = r.m ∧ r'.fault = some f ∧ f.row = r.m ∧ f.pos = r.pos ∧ f.lane = d.lane ∧ f.addr = d.va ∧
    f.kind = if 2 ^ 56 ≤ d.va.toNat ∨ (d.va.toNat < 2 ^ 19 ∧ s.myCore.dirG * 32768 ≤ d.va.toNat) then 4 else 2

/-- What the active lanes of a row count in all (R63). -/
def sumCols (o : Mop) (c : Nat → Cnt) (k : Nat) : Nat := (o.cols.map fun n => Cnt.at (c n) k).sum

/-- The row writes `f` to the active lanes of lane register `d`, counting its conditions; all memory stays. -/
def rowWrites (s u : State) (o : Mop) (r : DRow) (d : DReg) (f : Nat → Nat × Cnt) : Prop :=
  ∃ r' w, advances u r r' ∧ r'.wr = r.wr ++ [w] ∧ w.pos = r.pos ∧ w.reg = d.val ∧ r'.rs = r.rs ∧ r'.out = r.out ∧
    (∀ n ∈ o.cols, w.vals.toNat / 2 ^ (32 * n) % 2 ^ 32 = (f n).1 % 2 ^ 32) ∧
    counters s u (sumCols o fun n => (f n).2) ∧ u.dram = s.dram ∧ u.myCore.direct = s.myCore.direct

/-- The f32 operations of R218 by the operations of R46 to R51. -/
def drain1 : List ((DReg → DReg → Instr) × (Nat → Nat × Cnt)) :=
  [(.drainAbs, Fmt.f32.absneg true), (.drainNeg, Fmt.f32.absneg false), (.drainRcp, Fmt.f32.rcp), (.drainRsq, Fmt.f32.rsq),
   (.drainExp2, Fmt.f32.exp2), (.drainLog2, Fmt.f32.log2), (.drainMov, fun x => (x, Cnt.zero))]

def drain2 : List ((DReg → DReg → DReg → Instr) × (Nat → Nat → Nat × Cnt)) :=
  [(.drainAdd, Fmt.f32.add), (.drainSub, Fmt.f32.sub), (.drainMul, Fmt.f32.mul), (.drainMax, Fmt.f32.maxmin true),
   (.drainMin, Fmt.f32.maxmin false)]

def drain3 : List ((DReg → DReg → DReg → DReg → Instr) × (Nat → Nat → Nat → Nat × Cnt)) :=
  [(.drainFma, Fmt.f32.fma false false), (.drainClamp, Fmt.f32.clamp),
   (.drainSel, fun x y z => (if z % 2 ^ 31 = 0 then y else x, Cnt.zero))]

/-- The bytes of a row's stores at direct addresses, in order (R223, R224). -/
def storedDirect (els : List Elem) (m : Memory) : Memory :=
  els.foldl (fun m e => match e.place with | .direct a => mwrite m a e.w e.data | _ => m) m

end Sys2Proof.Claims

def Sys2Proof.Claims.DrainArithmetic : Prop :=
  ∀ (s : State) (o : Mop) (r : DRow) (d a b c : DReg),
    (∀ row ∈ drain1, inPipe s o r [a] [] →
      ∃ u, exec (row.1 d a) s = .next u ∧ rowWrites s u o r d fun n => row.2 (r.at a n)) ∧
    (∀ row ∈ drain2, inPipe s o r [a, b] [] →
      ∃ u, exec (row.1 d a b) s = .next u ∧ rowWrites s u o r d fun n => row.2 (r.at a n) (r.at b n)) ∧
    (∀ row ∈ drain3, inPipe s o r [a, b, c] [] →
      ∃ u, exec (row.1 d a b c) s = .next u ∧ rowWrites s u o r d fun n => row.2 (r.at a n) (r.at b n) (r.at c n)) ∧
    (∀ cc : VCond, inPipe s o r [a, b] [] → ∃ u, exec (.drainCmp cc d a b) s = .next u ∧ rowWrites s u o r d fun n =>
      (if FVal.cond cc (Fmt.f32.value (r.at a n)) (Fmt.f32.value (r.at b n)) then 0x3F800000 else 0, Cnt.zero))

def Sys2Proof.Claims.DrainMoves : Prop :=
  ∀ (s : State) (o : Mop) (r : DRow) (d a : DReg) (k : RsReg) (imm : BitVec 16) (off : BitVec 11) (t : DTy),
    let tab (i : Nat) : Nat := s.myCore.mx.table.toNat / 256 ^ (fld o.desc 40 2 + 4 * off.toNat + 4 * i) % 2 ^ 32
    (inPipe s o r [] [] →
      (∃ u r', exec .drainNop s = .next u ∧ advances u r r' ∧ r'.wr = r.wr ∧ r'.rs = r.rs ∧ r'.out = r.out) ∧
      (∃ u, exec (.drainLdi d imm) s = .next u ∧ rowWrites s u o r d fun _ =>
        (if 0x7F80 < imm.toNat % 2 ^ 15 then 0x7FC00000 else (Fmt.bf16.convert .f32 false imm.toNat).1, Cnt.zero)) ∧
      (∃ u, exec (.drainLdc d off) s = .next u ∧ rowWrites s u o r d fun n => (tab n, Cnt.zero)) ∧
      (∃ u, exec (.drainLdr d off) s = .next u ∧ rowWrites s u o r d fun _ => (tab r.m, Cnt.zero)) ∧
      (∃ u, exec .drainEnd s = .next u ∧ u.myCore.mx.drain.rows = s.myCore.mx.drain.rows.filter (fun y => y.m != r.m) ∧
        u.myCore.mx.drain.buf = s.myCore.mx.drain.buf ++ [r]) ∧
      -- R219: an `lds` whose locations are all read
      let ea (n : Nat) : Word :=
        w64 (fld o.desc 48 8) + w64 ((o.origin.1 + r.m) * fld o.desc 56 4) + w64 ((o.origin.2 + n) * t.es)
      let y := (o.cols.map fun n => (n, ea n)).foldl (ldsLane s.cur.core o t.es s.myCore.mx.drain.leave)
        ({ s := s, got := r.got } : Piece)
      y.trap = none → y.left = false →
        ∃ u r' w, exec (.drainLds d t) s = .next u ∧ advances u r r' ∧ r'.wr = r.wr ++ [w] ∧ w.pos = r.pos ∧ w.reg = d.val ∧
          ∀ n ∈ o.cols,
            let v := locElem y.got 0 t.es (ea n)
            w.vals.toNat / 2 ^ (32 * n) % 2 ^ 32 = (match t.fmt with
              | some f => (f.convert .f32 false v).1
              | none => (Fmt.f32.ofInt (BitVec.ofNat 8 v).toInt).1) % 2 ^ 32) ∧
    (inPipe s o r [] [k] → ∃ u, exec (.drainRget d k) s = .next u ∧ rowWrites s u o r d fun _ => (r.scratch k, Cnt.zero)) ∧
    (inPipe s o r [a] [] →
      ∀ row ∈ [((.drainRredSum k a : Instr), fun x y => (Fmt.f32.add x y).1, 0x80000000),
          (.drainRredMax k a, fun x y => (Fmt.f32.maxmin true x y).1, 0xFF800000)],
        ∃ u r', exec row.1 s = .next u ∧ advances u r r' ∧ r'.wr = r.wr ∧ r'.out = r.out ∧
          r'.rs = r.rs ++ [(r.pos, k.val, BitVec.ofNat 32 (treeOf row.2.1 5 fun n => if n ∈ o.cols then r.at a n else row.2.2))])

def Sys2Proof.Claims.DrainHazards : Prop :=
  ∀ (s : State) (o : Mop) (r : DRow) (d a b : DReg), itsTurn s o r → o.dbg = true →
    (∃ w ∈ r.wr, (w.reg = a.val ∨ w.reg = b.val) ∧ r.pos < w.pos + 3) →
    ∃ u, ∃ r' ∈ u.myCore.mx.drain.rows, ∃ f, exec (.drainAdd d a b) s = .next u ∧ r'.m = r.m ∧ r'.wr = r.wr ∧
      r'.fault = some f ∧ f.kind = 12 ∧ f.row = r.m ∧ f.pos = r.pos

def Sys2Proof.Claims.DrainStores : Prop :=
  ∀ (s : State) (o : Mop) (r : DRow) (a : DReg) (t : DTy) (kind : Fin 4), inPipe s o r [a] [] →
    let row : Word := w64 (fld o.desc 16 8) + w64 ((o.origin.1 + r.m) * fld o.desc 32 4)
    let conv (x : Nat) : Nat × Cnt := match t with
      | .f32 => (x, Cnt.zero)
      | .i8 => Fmt.f32.toInt ⟨8, true⟩ false x
      | .bf16 => Fmt.f32.convert .bf16 false x
      | .f16 => Fmt.f32.convert .f16 false x
      | .e4m3 => Fmt.f32.convert .e4m3 false x
      | .e5m2 => Fmt.f32.convert .e5m2 false x
    let ds : List DStore := o.cols.map fun n => ⟨r.pos, n, row + w64 ((o.origin.2 + n) * t.es), t.es, (conv (r.at a n)).1⟩
    ((∀ d ∈ ds, placeable s d) → ∃ u r', exec (.drainSt a t) s = .next u ∧ advances u r r' ∧
      r'.out = r.out ++ ds ∧ r'.wr = r.wr ∧ r'.rs = r.rs ∧ counters s u (sumCols o fun n => (conv (r.at a n)).2)) ∧
    (∀ pre d rest, ds = pre ++ d :: rest → (∀ e ∈ pre, placeable s e) → ¬ placeable s d →
      ∃ u, exec (.drainSt a t) s = .next u ∧ storeFault s u r d) ∧
    let blk := q4Pack kind ((List.range 32).map fun n => if n ∈ o.cols then Fmt.f32.value (r.at a n) else .fin false 0 0)
    let qs : List DStore := (List.range 17).map fun i =>
      ⟨r.pos, o.cols.headD 0, row + w64 (17 * (o.origin.2 / 32)) + w64 i, 1, blk.1 / 256 ^ i % 256⟩
    ((∀ d ∈ qs, placeable s d) → ∃ u r', exec (.drainStq a kind) s = .next u ∧ advances u r r' ∧
      r'.out = r.out ++ qs ∧ r'.wr = r.wr ∧ r'.rs = r.rs ∧ counters s u (Cnt.at blk.2)) ∧
    ∀ pre d rest, qs = pre ++ d :: rest → (∀ e ∈ pre, placeable s e) → ¬ placeable s d →
      ∃ u, exec (.drainStq a kind) s = .next u ∧ storeFault s u r d

def Sys2Proof.Claims.DrainRows : Prop :=
  ∀ (p : Nat) (o : Mop) (s : State), (s.core p).mx.ops.find? (fun y => y.unit) = some o → (s.core p).moveTo = none →
    let x := (s.core p).mx
    let m := o.rowFrom ((x.drain.rows ++ x.drain.buf).foldl (fun a r => max a (r.m + 1)) o.next)
    let waiting := x.drain.rows.find? fun y => !y.ran && y.fault.isNone
    -- R212: a cycle begins; the next active row enters position 0, when it is admitted
    (∀ leave, x.drain.buf.length < 4 → waiting = none →
      (m < 32 → ∃ u r, exec (.drainRowAdmit ⟨p, true, leave⟩) s = .next u ∧ u.focus = .drain p ∧
        (u.core p).mx.drain.rows = x.drain.rows.map (fun y => { y with ran := false }) ++ [r] ∧ r.m = m ∧ r.pos = 0 ∧
        r.wr = [] ∧ r.rs = [] ∧ r.out = [] ∧ r.fault = none ∧ r.ran = false ∧ ∀ n < 32, r.d0.toNat / 2 ^ (32 * n) % 2 ^ 32 =
          if o.fa = 4 ∨ o.fa = 5 then (Fmt.f32.ofInt (BitVec.ofNat 32 (bankAt (x.bank o.bank) m n)).toInt).1 % 2 ^ 32
          else bankAt (x.bank o.bank) m n) ∧
      ∃ u, exec (.drainRowAdmit ⟨p, false, leave⟩) s = .next u ∧
        (u.core p).mx.drain.rows = x.drain.rows.map fun y => { y with ran := false }) ∧
    -- R215: a cycle that has stalled goes on, unless the store buffer is full
    (∀ enters leave, x.drain.buf.length < 4 → waiting ≠ none → ∃ u, exec (.drainRowAdmit ⟨p, enters, leave⟩) s = .next u ∧
      u.focus = .drain p ∧ (u.core p).mx.drain = { x.drain with leave := leave }) ∧
    (∀ enters leave, 4 ≤ x.drain.buf.length → exec (.drainRowAdmit ⟨p, enters, leave⟩) s = .next s) ∧
    -- R224: the lowest row's stores are released together, once they are translated
    (∀ r rest, x.drain.buf = r :: rest → r.fault = none → r.m = o.next →
      let y := placeStores s p r.m o r.out
      y.trap = none → y.left = false →
      ∃ u, exec (.drainRowCommit p) s = .next u ∧ (u.core p).mx.drain.buf = rest ∧
        ((∀ e ∈ y.els, ∀ a, e.place = .direct a → ∀ m ∈ s.net, s.ownPortAt p o.who a e.w m = false) →
          (u.core p).direct = storedDirect y.els (s.core p).direct) ∧
        opIs (u.core p).mx o (fun z => z.next = o.rowFrom (r.m + 1) ∧ z.stores = o.stores ++ y.els.filter fun e => e.line.isSome)) ∧
    -- R225, R226: a fault of the lowest row, or of a store that it has made
    (∀ r f, (x.drain.buf ++ x.drain.rows).find? (fun r => r.m == o.next && r.fault.isSome) = some r → r.fault = some f →
      o.discard = false → compute p → matrixWait s p o.thr →
      let y := placeStores s p r.m o r.out
      (y.trap = none → y.left = false) →
      let at' : Nat × Nat × Word := match y.trap with
        | some (_, tr) => (tr.kind, tr.cause, tr.addr)
        | none => (f.kind, f.cause, f.addr)
      ∃ u, exec (.drainFaultReport p) s = .next u ∧ trapped s u p o.thr at'.1 ∧ (u.thread p o.thr).latch.cause = at'.2.1 ∧
        (u.thread p o.thr).latch.addr = at'.2.2 ∧ (u.core p).mx.drain.buf = [] ∧ (u.core p).mx.drain.rows = [] ∧
        opIs (u.core p).mx o (fun z => z.st = .parked ∧ z.unit = false ∧ z.next = o.next)) ∧
    -- R229: a committed store meets poison
    ∀ k o' e, x.ops[k]? = some o' → o'.discard = false → o'.stores.find? s.poisoned = some e →
      ∃ u a, exec (.drainStorePoison p k) s = .next u ∧ (u.thread p o'.thr).traps = (s.thread p o'.thr).traps ++ [a] ∧
        a.kind = 13 ∧ a.addr = e.va ∧ (e.lane < 32 → bits a.detail 36 32 = e.lane ∧ bits a.detail 47 47 = 1) ∧
        opIs (u.core p).mx o' fun y => y.stores = o'.stores.filter fun z => !(z.lane == e.lane && s.poisoned z)

namespace Sys2Proof.Claims

/-! ### Words for copies -/

/-- Bytes `off` to `off + n - 1` of a copy descriptor (R267). -/
def cfld (d : BitVec 1024) (off n : Nat) : Nat := d.toNat / 2 ^ (8 * off) % 2 ^ (8 * n)

/-- The strides that a copy of a form uses (R268), as offsets in the descriptor. -/
def usedStrides (form : Nat) (d : BitVec 1024) : List Nat :=
  let ext (i : Nat) : Nat := cfld d (16 + 4 * i) 4
  match form with
  | 0 => ([1, 2, 3].filter fun i => ext i != 1).flatMap fun i => [28 + 4 * i, 40 + 4 * i]
  | 1 => 32 :: if 1 < ext 1 then [44] else []
  | 2 => 44 :: if 1 < ext 1 then [32] else []
  | _ => ([1, 2, 3].filter fun i => ext i != 1).map fun i => 40 + 4 * i

/-- A descriptor that no check of R278 refuses: form (0 cpy, 1 gath, 2 scat, 3 fill), whether an `.ev` form, token register. -/
def goodCopy (lv form : Nat) (ev : Bool) (reg : GReg) (d : BitVec 1024) : Prop :=
  let indexed : Prop := form = 1 ∨ form = 2
  (form = 0 → cfld d 56 8 = 0) ∧ (ev = false → cfld d 64 8 = 0 ∧ cfld d 72 8 = 0) ∧ cfld d 80 4 < 4 ∧ cfld d 84 44 = 0 ∧
    (indexed → cfld d 80 4 ≠ 3 ∧ cfld d 24 4 = 1 ∧ cfld d 28 4 = 1) ∧
    cfld d 20 4 * cfld d 24 4 * cfld d 28 4 < 2 ^ 32 ∧ (ev = false → reg ≠ 28 ∧ reg ≠ 29) ∧
    cfld d 16 4 % 8 = 0 ∧ cfld d 8 8 % 8 = 0 ∧ (∀ o ∈ usedStrides form d, cfld d o 4 % 8 = 0) ∧ (form ≠ 3 → cfld d 0 8 % 8 = 0) ∧
    (indexed → cfld d 56 8 % (if cfld d 80 4 = 2 then 8 else 4) = 0) ∧
    (ev = true → cfld d 64 8 / 2 ^ 60 = 3 ∧ goodAlt lv ⟨BitVec.ofNat 64 (cfld d 64 8), BitVec.ofNat 64 (cfld d 72 8), 0, 0⟩ ∧
      bits (BitVec.ofNat 64 (cfld d 72 8)) 62 54 ≤ 1)

/-- The traps of R278's checks. -/
def copyTraps : List Trap :=
  [{ kind := 4, cause := 32 }, { kind := 4, cause := 33 }, { kind := 4, cause := 34 }, { kind := 2, cause := 35 }, { kind := 8, cause := 36 }]

/-- Entry `i` is the free journal entry of the lowest number. -/
def firstFree (c : Core) (i : Nat) : Prop :=
  i < 16 ∧ (tget {} c.journal i).busy = false ∧ ∀ j < i, (tget {} c.journal j).busy = true

/-- The RT with which a journal entry's request leaves (R258, R259). -/
def leavingRt (s : State) (p : Nat) (e : JEntry) : Word :=
  if e.thr < 16 then maxW e.p (releaseTime (s.thread p e.thr)) else e.p

/-- No request of the entry is on its way. -/
def notUnderWay (s : State) (p i : Nat) : Prop := ∀ m ∈ s.net, (∀ r, m.body ≠ .copyReq r p i) ∧ ∀ r, m.body ≠ .relReq r p i

/-- Token register `d` of a thread takes a value (R167): its pending bit clears, the engine's RT is kept for the register's next access
(TokenAccess), and an instruction that waits for it may issue. -/
def tokenTaken (s u : State) (p t d : Nat) (v rt : Word) : Prop :=
  (u.thread p t).regs.g = (s.thread p t).regs.g.set! d v ∧ (u.thread p t).pend = (s.thread p t).pend &&& ~~~ ((1 : BitVec 32) <<< d) ∧
    (u.thread p t).crs = (s.thread p t).crs ∧ tget 0 (u.thread p t).toks d = maxW (tget 0 (s.thread p t).toks d) rt ∧
    ((s.thread p t).wait = .token d → (s.thread p t).st = .wait → (u.thread p t).st = .inRot ∧ (u.thread p t).wait = .none) ∧
    ((s.thread p t).wait ≠ .token d → (u.thread p t).st = (s.thread p t).st ∧ (u.thread p t).wait = (s.thread p t).wait)

end Sys2Proof.Claims

/-! ### Copies -/

def Sys2Proof.Claims.CopyIssue : Prop :=
  ∀ (d a : GReg) (s : State),
    let x := s.gr a
    let desc : BitVec 1024 := BitVec.ofNat 1024 (mread s.myCore.direct x.toNat 128)
    ∀ i ∈ [(0, false, Instr.cpy d a), (1, false, .gath d a), (2, false, .scat d a), (3, false, .fill d a),
        (0, true, .cpyEv a), (1, true, .gathEv a), (2, true, .scatEv a), (3, true, .fillEv a)],
      let reg : GReg := if i.2.1 then 0 else d
      plain s [a] [reg] = true →
      (x.toNat % 64 ≠ 0 → exec i.2.2 s = .next (s.trapMe (.align x))) ∧
      (x.toNat % 64 = 0 → s.myCore.dirG * 32768 < x.toNat + 128 → exec i.2.2 s = .next (s.trapMe (.access x))) ∧
      (x.toNat % 64 = 0 → x.toNat + 128 ≤ s.myCore.dirG * 32768 → noOwn s x.toNat 128 →
        (¬ goodCopy (levels s) i.1 i.2.1 reg desc → ∃ tr ∈ copyTraps, exec i.2.2 s = .next (s.trapMe tr)) ∧
        (goodCopy (levels s) i.1 i.2.1 reg desc →
          ((∀ j < 16, (tget {} s.myCore.journal j).busy = true) → exec i.2.2 s = .next (held s .journal)) ∧
          ∀ n, firstFree s.myCore n → ∃ u r, exec i.2.2 s = .next u ∧ u.me.regs.pc = s.me.regs.pc + 4 ∧ u.me.st = s.me.st ∧
            u.me.regs.g = s.me.regs.g ∧ u.me.pend = (if reg = 0 then s.me.pend else s.me.pend ||| (1 <<< reg.val)) ∧
            tget {} u.myCore.journal n = { busy := true, thr := s.cur.thr, ord := s.myCore.jord, p := maxW s.me.crs.ptime s.me.due, kind := .copy r } ∧
            r.form = i.1 ∧ r.ev = i.2.1 ∧ r.desc = desc ∧ r.d = reg.val ∧ r.gtn = s.gtn s.cur.core s.cur.thr ∧ u.dram = s.dram))

def Sys2Proof.Claims.RequestsLeave : Prop :=
  ∀ (p i : Nat) (s : State),
    let e := tget {} (s.core p).journal i
    e.busy = true →
    ((s.core p).settledBefore e.thr e.ord = false → exec (.copyRequestLeaves p i) s = .next s) ∧
    ((s.core p).settledBefore e.thr e.ord = true →
      (∀ r, e.kind = .copy r → r.e0 ≠ 0 → r.total ≠ 0 → notUnderWay s p i → ∃ u m k r', exec (.copyRequestLeaves p i) s = .next u ∧
        u.net = s.net ++ [m] ∧ m.dst = .retr k ∧ k / 2 = s.anchorStack p r.ctx (if r.form = 1 then r.aux else if r.form = 3 then r.dst else r.src) ∧
        m.body = .copyReq r' p i ∧ r' = { r with rt := leavingRt s p e, retr := k, hops := s.requestHops p (siteOfStack (k / 2)) }) ∧
      -- a relocation request goes to the stack that holds the object's first byte, once a level translates its address
      (∀ r tl l off pa, e.kind = .htag r → notUnderWay s p i →
        (s.tlb1 p (bits r.ref 47 4 * 16) = some tl ∨ s.tlb1 p (bits r.ref 47 4 * 16) = none ∧ s.anyTlb r.ctx (bits r.ref 47 4 * 16) = some tl) →
        tl.place (bits r.ref 47 4 * 16) = .line l off pa →
        ∃ u m r', exec (.copyRequestLeaves p i) s = .next u ∧
        u.net = s.net ++ [m] ∧ m.dst = .collie (stackOf l) ∧ m.body = .relReq r' p i ∧
        r' = { r with rt := leavingRt s p e, hops := s.requestHops p (siteOfStack (stackOf l)) }) ∧
      ∀ r, e.kind = .launch r → ∃ u r', exec (.copyRequestLeaves p i) s = .next u ∧ r' = { r with rt := leavingRt s p e } ∧
        r' ∈ u.launches ∧ (tget {} (u.core p).journal i).busy = false)

def Sys2Proof.Claims.RetrieverQueues : Prop :=
  (∀ (k n p i : Nat) (r : CopyReq) (src : Endp) (s : State), reaches s k src (.retr n) (.copyReq r p i) →
    (64 ≤ (s.retr n).queue.length → exec (.copyRequestAccept k) s = .next s) ∧
    ((s.retr n).queue.length < 64 → ∃ u, exec (.copyRequestAccept k) s = .next u ∧ answers s u k [] ∧
      (u.retr n).queue = (s.retr n).queue ++ [r] ∧ (u.retr n).active = (s.retr n).active ∧
      (tget {} (u.core p).journal i).busy = false)) ∧
  ∀ (n : Nat) (s : State), (s.retr n).queue ≠ [] →
    (4 ≤ (s.retr n).active.length → exec (.copyStart n) s = .next s) ∧
    ((s.retr n).active.length < 4 → ∃ u r x, exec (.copyStart n) s = .next u ∧ r ∈ (s.retr n).queue ∧
      (s.retr n).queue.find? (fun y => y.ctx == r.ctx) = some r ∧ (u.retr n).queue = (s.retr n).queue.erase r ∧
      (u.retr n).active = (s.retr n).active ++ [x] ∧ x.req = r ∧ x.next = 0 ∧ x.open' = [] ∧ x.got = [] ∧ x.fault = none ∧
      x.settling = false)

def Sys2Proof.Claims.CopyElements : Prop :=
  ∀ (n j : Nat) (skip : List Nat) (x : CopyRun) (s : State), (s.retr n).active[j]? = some x → x.settling = false → x.next < x.req.total →
    x.req.ctx ≠ 64 → x.fault = none → (∀ y ∈ (s.retr n).active, y.id = x.id → y = x) →
    let r := x.req
    -- the index, read as unit 2^40 of the element; then the units of the row, but for those left to a later read (R255, R275)
    let index : RowData := if r.form = 1 ∨ r.form = 2 then
      s.readRow n x.id r r.iw indexUnit [r.aux + BitVec.ofNat 64 (x.next * r.iw)] [] x.got else .ok s x.got false
    (∀ s₁ k a, index = .fault s₁ k a → s₁.retr n = s.retr n → ∃ u y, exec (.copyElement n ⟨j, skip⟩) s = .next u ∧
      y ∈ (u.retr n).active ∧ y.id = x.id ∧ y.settling = true ∧ y.next = x.next ∧ y.fault = some (x.next, 0, k, a)) ∧
    ∀ s₁ got l₁, index = .ok s₁ got l₁ →
      let iv := tget 0 got indexUnit
      let ix : Word := if r.itype = 0 then BitVec.ofInt 64 (BitVec.ofNat 32 iv).toInt else BitVec.ofNat 64 iv
      let dst := r.units (r.rows x.next ix).1
      let src := r.units (r.rows x.next ix).2
      let data : RowData := if r.form = 3 then .ok s₁ got false else s₁.readRow n x.id r 8 0 src skip got
      (∀ s₂ k a, data = .fault s₂ k a → s₂.retr n = s.retr n → ∃ u y, exec (.copyElement n ⟨j, skip⟩) s = .next u ∧
        y ∈ (u.retr n).active ∧ y.id = x.id ∧ y.settling = true ∧ y.next = x.next ∧ y.fault = some (x.next, 1, k, a)) ∧
      (∀ s₂ got₂, data = .ok s₂ got₂ true → s₂.retr n = s.retr n → ∃ u y, exec (.copyElement n ⟨j, skip⟩) s = .next u ∧
        y ∈ (u.retr n).active ∧ y.id = x.id ∧ y.next = x.next ∧ y.got = got₂ ∧ y.open' = x.open' ∧ y.settling = false) ∧
      ∀ s₂ got₂ pls, data = .ok s₂ got₂ false →
        rowPlaces (fun s va => s.copyPlace n x.id r needSt va 8) dst s₂ = .ok pls → s₂.retr n = s.retr n → pls.length = dst.length →
        ∃ u y, exec (.copyElement n ⟨j, skip⟩) s = .next u ∧ y ∈ (u.retr n).active ∧ y.id = x.id ∧ y.next = x.next + 1 ∧ y.got = [] ∧
          (y.settling = true ↔ x.next + 1 = r.total) ∧ y.fault = none ∧ y.open'.length = x.open'.length + dst.length ∧
          ∀ i va pl, dst[i]? = some va → pls[i]? = some pl →
            let v := if r.form = 3 then r.aux.toNat else tget 0 got₂ i
            y.open'[x.open'.length + i]? = some (x.next, { lane := i, va := va, w := 8, data := v, place := pl }) ∧
            ∀ off, pl = .direct off → ∃ m ∈ u.net, m.dst = .core (r.gtn / 16) ∧ ∃ src core entry lane, m.body = .port off 8 v src core entry lane

def Sys2Proof.Claims.CopyEnds : Prop :=
  (∀ (n j : Nat) (x : CopyRun) (s : State), (s.retr n).active[j]? = some x → x.settling = true → x.open' = [] →
    let status : Word := match x.fault with
      | none => BitVec.ofNat 64 x.req.total
      | some (e, step, k, _) => BitVec.ofNat 64 (2 ^ 63 + step * 2 ^ 61 + (if k = 5 then 1 else k) * 2 ^ 56 + e)
    -- rows written in full: those whose writes were issued and not refused
    let rows := match x.fault with
      | none => x.req.total
      | some _ => x.next - (x.bad.filter fun e => decide (e < x.next)).length
    ∃ u, exec (.copySettled n j) s = .next u ∧ (u.retr n).active = (s.retr n).active.eraseIdx j ∧
      (x.req.ev = false → x.req.d ≠ 0 → ∃ m ∈ u.net, m.src = .retr n ∧ ∃ inst acc,
        m.body = .token x.req.gtn x.req.d status (maxW x.req.rt x.wts) inst acc x.req.hops) ∧
      (x.req.ev = true → ∃ m ∈ u.net, m.src = .retr n ∧ ∃ o, m.body = .offer o ∧ o.key = ⟨x.req.ename, x.req.ctx, x.req.inst⟩ ∧
        o.ctl = x.req.ectl ∧ o.rt = maxW x.req.rt x.wts ∧ o.who = .engine ∧ o.data = status.toNat + rows * 2 ^ 64)) ∧
  (∀ (p i : Nat) (r : CopyReq) (s : State),
    let e := tget {} (s.core p).journal i
    e.busy = true → e.kind = .copy r → r.e0 = 0 ∨ r.total = 0 → (s.core p).settledBefore e.thr e.ord = true →
    ∃ u, exec (.zeroExtentCompletion p i) s = .next u ∧ (tget {} (u.core p).journal i).busy = false ∧ u.dram = s.dram ∧
      (r.ev = false → r.d ≠ 0 → r.d < 32 → e.thr < 16 → (s.thread p e.thr).wait ≠ .journal →
        tokenTaken s u p e.thr r.d 0 (leavingRt s p e)) ∧
      (r.ev = true → ∃ m ∈ u.net, ∃ o, m.body = .offer o ∧ o.key = ⟨r.ename, r.ctx, r.inst⟩ ∧ o.ctl = r.ectl ∧ o.data = 0 ∧
        o.rt = leavingRt s p e)) ∧
  ∀ (k g d p t inst acc hops : Nat) (v rt : Word) (m : Msg) (s : State), s.arrived k = some m → m.body = .token g d v rt inst acc hops →
    s.partyAt ⟨0, m.ctx, inst⟩ g = some (p, t) →
    (d = 0 → exec (.tokenWrite k) s = .next { s with net := s.net.eraseIdx k }) ∧
    (0 < d → d < 32 → ∃ u, exec (.tokenWrite k) s = .next u ∧ answers s u k [] ∧ tokenTaken s u p t d v rt)

namespace Sys2Proof.Claims

/-! ### Words for lines, replies and turns -/

/-- The timestamps of a line at its home (R242, R246). -/
def homeTimes (s : State) (l : Nat) : Word × Word := ((s.home l).wts, (s.home l).rts)

/-- A core with a thread that waits for a read of line `l`, which is to renew its lease up to `need` (R243). -/
def wantsLease (s : State) (p l need : Nat) : Prop :=
  ∃ c t th r, (p, c) ∈ s.cores ∧ (t, th) ∈ c.threads ∧ th.wait = .load r ∧ r.miss = false ∧ (∃ x ∈ r.todo, x.line = some l) ∧
    (s.renewNeed p t l).toNat = need ∧ s.reseeding c.ctx = false

/-- Entry `i` of core `p` is a posted store whose one unit that is left, `x`, goes next (R248). -/
def oneLeft (s : State) (p i : Nat) (x : Elem) : Prop :=
  let e := tget {} (s.core p).journal i
  i < 16 ∧ e.busy = true ∧ e.kind = .store ∧ e.todo = [x] ∧ e.flight = [] ∧ e.refused = [] ∧ e.thr < 16 ∧ e.site = none ∧
    (s.core p).olderStore e.thr e.ord x = false

/-- Entry `i` is released, its refusal a pending JOURNAL of its thread with a cause, and its RFD bit set (R249, R250). -/
def journalPends (s u : State) (p i : Nat) (x : Elem) (cause : Nat) : Prop :=
  let t := (tget {} (s.core p).journal i).thr
  (tget {} (u.core p).journal i).busy = false ∧ (u.core p).rfd = (s.core p).rfd ||| (1 <<< i) ∧
    ∃ a, (u.thread p t).traps = (s.thread p t).traps ++ [a] ∧ a.kind = 7 ∧ a.cause = cause ∧ a.addr = x.va ∧ a.entry = i ∧
      a.detail = BitVec.ofNat 64 x.data

/-- The member of a slot that its turn goes to (R25). -/
def turnOf (s : State) (p : Nat) : Option Nat :=
  let sl := (s.core p).ptr
  let a := (s.thread p sl).st
  let b := (s.thread p (sl + 8)).st
  if a = .inRot ∧ b = .inRot then some (if (s.core p).last.getLsbD sl then sl else sl + 8)
  else if a = .inRot then some sl
  else if b = .inRot then some (sl + 8)
  else none

end Sys2Proof.Claims

/-! ### Lines -/

def Sys2Proof.Claims.LeaseRenewal : Prop :=
  ∀ (d l need p : Nat) (s : State), dieOf p = d → wantsLease s p l need → (s.home l).excl = none → s.homeUp d l = true → l ∉ s.poison →
    let rts := maxW (s.home l).rts (BitVec.ofNat 64 need)
    ∃ u c no, exec (.leaseRenewal d l need) s = .next u ∧ u.home l = { s.home l with rts := rts } ∧ u.dram = s.dram ∧
      u.slice d l = some { excl := false, wts := (s.home l).wts, rts := rts, owner := none, ctx := c, no := no,
                           data := BitVec.ofNat 4096 (mread s.dram (l * 512) 512) }

def Sys2Proof.Claims.LinesGivenUp : Prop :=
  (∀ (l d p : Nat) (c : Core) (s : State), (s.home l).excl = some d → s.homeUp d l = true → (p, c) ∈ s.cores →
    (c.writesLine p l (fun q => dieOf q != d) || (dieOf p != d && c.readsLine l)) = true →
    ∃ u, exec (.exclusivityRecall l) s = .next u ∧ (u.home l).excl = none ∧ u.dram = s.dram ∧
      ∀ sl, s.slice d l = some sl → sl.owner = none → (u.home l).wts = sl.wts ∧ (s.home l).rts.toNat ≤ (u.home l).rts.toNat ∧
        sl.rts.toNat ≤ (u.home l).rts.toNat) ∧
  (∀ (l : Nat) (s : State), (s.home l).excl = none → exec (.exclusivityRecall l) s = .next s) ∧
  (∀ (l p q : Nat) (c : Core) (x : StashLine) (sl : SliceLine) (s : State), (q, c) ∈ s.cores →
    c.writesLine q l (fun y => dieOf y == dieOf p && y != p) = true → (s.core p).stashLine l = some x → s.slice (dieOf p) l = some sl →
    ∃ u, exec (.stashRecall p l) s = .next u ∧ (∀ y ∈ (u.core p).ca.stash, y.line ≠ l) ∧ u.dram = s.dram ∧
      u.slice (dieOf p) l = some { sl with wts := x.wts, rts := x.rts, owner := none }) ∧
  ∀ (l : Nat) (h : HomeLine) (s : State), (s.stack (stackOf l)).homes.find? (fun e => e.1 == l) = some (l, h) →
    (h.excl ≠ none → exec (.homeEviction l) s = .next s) ∧
    (h.excl = none →
      let m := maxW (s.stack (stackOf l)).mts (maxW h.wts h.rts)
      ∃ u, exec (.homeEviction l) s = .next u ∧ (u.stack (stackOf l)).mts = m ∧
        u.home l = { wts := m, rts := m, excl := none } ∧ u.dram = s.dram)

def Sys2Proof.Claims.FillsReturn : Prop :=
  ∀ (p j : Nat) (x : Prefetch) (s : State), (s.core p).ca.pref[j]? = some x →
    (x.line ∈ s.poison ∨ (s.core p).ctx ≠ x.ctx → ∃ u, exec (.prefetchFillReturn p j) s = .next u ∧
      (u.core p).ca.pref = (s.core p).ca.pref.eraseIdx j ∧ (u.core p).ca.l1 = (s.core p).ca.l1) ∧
    (x.line ∉ s.poison → (s.core p).ctx = x.ctx → s.reseeding x.ctx = false → ∀ sl, s.slice (dieOf p) x.line = some sl →
      sl.owner = none → sl.excl = false → x.need.toNat ≤ sl.rts.toNat → (∀ y ∈ (s.core p).ca.l1, y.line ≠ x.line) →
      ∃ u, exec (.prefetchFillReturn p j) s = .next u ∧ (u.core p).ca.pref = (s.core p).ca.pref.eraseIdx j ∧ u.dram = s.dram ∧
        ∀ y ∈ (u.core p).ca.l1, y.line = x.line → y.data = sl.data ∧ y.wts = sl.wts ∧ y.rts = sl.rts ∧ y.pin = x.pin)

/-! ### Stores at their receivers -/

def Sys2Proof.Claims.StoreAccepted : Prop :=
  ∀ (p i l off pa : Nat) (skip : List Nat) (x : Elem) (sl : SliceLine) (s : State), oneLeft s p i x → p < 30000 → 0 ∉ skip →
    x.place = .line l off pa →
    l ∉ s.poison → s.reseeding (s.core p).ctx = false → s.locked (s.core p).ctx x.va = false → (s.core p).stashG = 0 →
    s.slice (dieOf p) l = some sl → sl.owner = none → (s.home l).excl = some (dieOf p) →
    let e := tget {} (s.core p).journal i
    let th := s.thread p e.thr
    (th.wait ≠ .heldPosted i) →
    let wts := maxW e.p (sl.rts + 1)
    ∃ u, exec (.storeAcceptance p ⟨i, skip⟩) s = .next u ∧ u.dram = mwrite s.dram (l * 512 + off) x.w x.data ∧
      (tget {} (u.core p).journal i).busy = false ∧ (u.thread p e.thr).crs.ptime = maxW th.crs.ptime wts ∧
      (u.thread p e.thr).rel = maxW th.rel wts ∧ u.slice (dieOf p) l = some { sl with wts := wts, rts := wts } ∧
      (∀ j, (u.core p).rfd.getLsbD j = ((s.core p).rfd.getLsbD j && j != i)) ∧ u.host = s.host ∧ u.pod = s.pod

def Sys2Proof.Claims.StoreRefused : Prop :=
  ∀ (p i : Nat) (x : Elem) (s : State), oneLeft s p i x → p < 30000 →
    let t := (tget {} (s.core p).journal i).thr
    (s.thread p t).wait ≠ .heldPosted i → (s.thread p t).st ≠ .free →
    (∀ l off pa, x.place = .line l off pa → l ∈ s.poison → s.locked (s.core p).ctx x.va = false →
      ∃ u, exec (.storeRefusal p i) s = .next u ∧ journalPends s u p i x 4 ∧ u.dram = s.dram) ∧
    (∀ l off pa, x.place = .line l off pa → l ∉ s.poison → exec (.storeRefusal p i) s = .next s) ∧
    (∀ a, x.place = .host a → ∃ u, exec (.storeRefusal p i) s = .next u ∧ journalPends s u p i x 3 ∧ u.host = s.host) ∧
    ∀ m a, x.place = .remote m a → ∃ u c, exec (.storeRefusal p i) s = .next u ∧ c ∈ [1, 5] ∧ journalPends s u p i x c ∧ u.pod = s.pod

def Sys2Proof.Claims.AtomicAtSlice : Prop :=
  ∀ (p t l off pa : Nat) (r : Req) (x : Elem) (sl : SliceLine) (op : Fin 8) (d : GReg) (a b : Word) (wd : AWidth) (nat : Bool) (s : State),
    (s.thread p t).wait = .load r → (s.thread p t).st = .wait → (s.thread p t).popIn = none → r.kind = .atom op d a b wd nat →
    r.miss = false → r.todo = [x] → x.place = .line l off pa → (s.core p).moveTo = none → s.reseeding (s.core p).ctx = false →
    t < 16 → (s.core p).olderStore t (s.core p).jord x = false →
    (l ∈ s.poison → compute p → ∃ u, exec (.sliceAtomic p t) s = .next u ∧ trapped s u p t 13 ∧ u.dram = s.dram) ∧
    (l ∉ s.poison → s.locked (s.core p).ctx x.va = false →
      s.slice (dieOf p) l = some sl → sl.owner = none → (s.home l).excl = some (dieOf p) →
      let old := mread s.dram (l * 512) 512 / 2 ^ (8 * off) % 2 ^ (8 * x.w)
      -- a `cas` that fails is a load, and waits as one for the acceptance of the thread's own stores that it has read (log 66)
      (atomNew op wd nat old a.toNat b.toNat = none → s.behindOwn p t = false) →
      ∃ u, exec (.sliceAtomic p t) s = .next u ∧ back s u p t ∧ (u.thread p t).regs.g = gAfter (s.thread p t) d (atomOld wd nat old) ∧
        (∀ v, atomNew op wd nat old a.toNat b.toNat = some v →
          let wts := maxW (maxW (s.thread p t).crs.ptime (s.thread p t).due) (sl.rts + 1)
          u.dram = mwrite s.dram (l * 512 + off) x.w v ∧ u.slice (dieOf p) l = some { sl with wts := wts, rts := wts } ∧
          (u.thread p t).crs.ptime = maxW (s.thread p t).crs.ptime (maxW (s.thread p t).due wts)) ∧
        (atomNew op wd nat old a.toNat b.toNat = none → u.dram = s.dram ∧
          (u.thread p t).crs.ptime = maxW (s.thread p t).crs.ptime (maxW (s.thread p t).due sl.wts)))

def Sys2Proof.Claims.PortWrites : Prop :=
  ∀ (k l p off w data core entry lane : Nat) (src : BitVec 32) (m : Endp) (s : State),
    reaches s k m (.core l) (.port off w data src core entry lane) → s.phys l = some p →
    -- a core's own stores make no record
    let own : Prop := core < 60000 ∧ src.toNat % 2 ^ 19 / 16 = l
    (off + w ≤ (s.core p).dirG * 32768 → ∃ u, exec (.inboundPortWrite k) s = .next u ∧
      (u.core p).direct = mwrite (s.core p).direct off w data ∧
      (own → (u.core p).racyN = (s.core p).racyN ∧ (u.core p).racy = (s.core p).racy) ∧
      (¬ own → (u.core p).racyN = (s.core p).racyN + 1 ∧ ∃ r, (u.core p).racy.head? = some r ∧ r.time = (s.die (dieOf p)).time ∧ r.src = src ∧ r.addr.toNat % 2 ^ 19 = off % 2 ^ 19)) ∧
    ((s.core p).dirG * 32768 < off + w → ∃ u, exec (.inboundPortWrite k) s = .next u ∧ (u.core p).direct = (s.core p).direct ∧
      u.dram = s.dram ∧ ∀ x, core < 60000 → w ≠ 64 → x.lane = lane →
        let e := tget {} (s.core core).journal entry
        e.busy = true → e.todo = [] → e.flight = [x] → e.refused = [] → e.thr < 16 → (s.thread core e.thr).st ≠ .free →
        (s.thread core e.thr).wait ≠ .heldPosted entry → entry < 16 → journalPends s u core entry x 2)

/-! ### Replies -/

def Sys2Proof.Claims.LoadReplies : Prop :=
  ∀ (p t : Nat) (skip : List Nat) (ext : List (Nat × Byte)) (r : Req) (s : State), (s.thread p t).wait = .load r →
    (s.thread p t).st = .wait → r.miss = false → (s.core p).moveTo = none →
    -- a scalar load; `s₁` is the state after its unit is read, with what its `ptime` is to rise to
    (∀ d sz x, r.kind = .ld d sz → r.todo = [x] → r.got = [] → s.reseeding (s.core p).ctx = false → x.lane ∉ skip →
      (∀ s₁ v slice, (s.landed ext).readUnit p t r.past x = .data s₁ v slice → (s₁.thread p t).st = .wait → (s₁.thread p t).popIn = none →
        ∃ u, exec (.loadReply p ⟨t, skip⟩ ext) s = .next u ∧ back s₁ u p t ∧ u.dram = s₁.dram ∧
          (u.thread p t).regs.g = gAfter (s₁.thread p t) d (loaded sz v) ∧
          (u.thread p t).crs = { (s₁.thread p t).crs with ptime := maxW (s₁.thread p t).crs.ptime (s₁.thread p t).due }) ∧
      (∀ tr, (s.landed ext).readUnit p t r.past x = .trap tr → compute p →
        ∃ u, exec (.loadReply p ⟨t, skip⟩ ext) s = .next u ∧ trapped s u p t tr.kind) ∧
      ((s.landed ext).readUnit p t r.past x = .notYet → exec (.loadReply p ⟨t, skip⟩ ext) s = .next s)) ∧
    -- a vector load: the units of the first line that is still out, but for the lanes left to a later reply (R133, R135)
    (∀ d m ty, r.kind = .vld d m ty → r.todo ≠ [] → s.reseeding (s.core p).ctx = false →
      let now (x : Elem) : Bool := (groupAt r.todo 0).contains x && !skip.contains x.lane
      let y := r.todo.foldl (Units.read p t now) ({ s := s.landed ext, past := r.past } : Units)
      let th := y.s.thread p t
      (∀ tr, y.trap = some tr → compute p → ∃ u, exec (.loadReply p ⟨t, skip⟩ ext) s = .next u ∧ trapped s u p t tr.kind) ∧
      (y.trap = none → y.got = [] → exec (.loadReply p ⟨t, skip⟩ ext) s = .next s) ∧
      (y.trap = none → y.got ≠ [] → y.out ≠ [] → ∃ u r', exec (.loadReply p ⟨t, skip⟩ ext) s = .next u ∧
        (u.thread p t).wait = .load r' ∧ r'.kind = r.kind ∧ r'.todo = y.out ∧ r'.got = r.got ++ y.got ∧
        (u.thread p t).st = th.st ∧ (u.thread p t).regs = th.regs) ∧
      (y.trap = none → y.got ≠ [] → y.out = [] → th.st = .wait → th.popIn = none →
        let all := r.got ++ y.got
        ∃ u, exec (.loadReply p ⟨t, skip⟩ ext) s = .next u ∧ back y.s u p t ∧ (u.thread p t).regs.g = th.regs.g ∧
          (∀ q : VReg, q ≠ d → (u.thread p t).regs.v[q.val] = th.regs.v[q.val]) ∧
          ∀ i < 512 / ty.w,
            (∀ v, (i, v) ∈ all → (∀ z ∈ all, z.1 = i → z.2 = v) → lane (u.thread p t).regs.v[d.val] ty.w i = v % 2 ^ ty.w) ∧
            ((∀ z ∈ all, z.1 ≠ i) → lane (u.thread p t).regs.v[d.val] ty.w i = lane th.regs.v[d.val] ty.w i))) ∧
    -- `tlbr`
    ∀ d, r.kind = .tlbr d → (s.thread p t).popIn = none → ∃ u, exec (.loadReply p ⟨t, skip⟩ ext) s = .next u ∧ back s u p t ∧
      (u.thread p t).regs.g = gAfter (s.thread p t) d (s.bankWord p (r.todo.headD ⟨0, 0, 8, 0, .direct 0⟩).va)

/-! ### Turns and time -/

def Sys2Proof.Claims.SlotTurns : Prop :=
  ∀ (p : Nat) (s : State), (s.core p).ptr < 8 →
    ((s.die (dieOf p)).clk = 0 ∨ (s.core p).moveTo ≠ none → exec (.slotTurn p) s = .next s) ∧
    ((s.die (dieOf p)).clk ≠ 0 → (s.core p).moveTo = none → (isSetter p = true → s.panel.fwload = none) →
      ∃ u, exec (.slotTurn p) s = .next u ∧ (u.core p).ptr = ((s.core p).ptr + 1) % 8 ∧ (s.core p).cyc < (u.core p).cyc ∧
        (turnOf s p = none → u.focus = s.focus ∧ (u.core p).last = (s.core p).last) ∧
        ∀ t, turnOf s p = some t → ((u.core p).last.getLsbD (s.core p).ptr = decide (8 ≤ t)) ∧
          ((s.thread p t).ann = 0 → (s.thread p t).stopReq = none →
            ((s.thread p t).traps = [] → s.atBreakpoint p t = false → u.focus = .issue p t ∧ (u.thread p t).regs = (s.thread p t).regs ∧
              (u.thread p t).st = .inRot) ∧
            (∀ a rest, (s.thread p t).traps = a :: rest → compute p → (u.thread p t).st = .latched ∧
              (u.thread p t).latch.trap = a.kind ∧ (u.thread p t).regs = (s.thread p t).regs ∧ (u.thread p t).traps = rest)) ∧
          (0 < (s.thread p t).ann → (u.thread p t).ann = (s.thread p t).ann - 1 ∧
            ((s.thread p (if t < 8 then t + 8 else t - 8)).st ≠ .inRot → u.focus = s.focus)))

def Sys2Proof.Claims.SelfAdvance : Prop :=
  ∀ (p t : Nat) (s : State),
    let th := s.thread p t
    let tick := bits th.crs.lease 20 16
    (24 < tick ∨ th.inCyc < 2 ^ (tick + 6) → exec (.ptimeSelfAdvance p t) s = .next s) ∧
    (tick ≤ 24 → 2 ^ (tick + 6) ≤ th.inCyc → ∃ u, exec (.ptimeSelfAdvance p t) s = .next u ∧
      u.thread p t = { th with inCyc := th.inCyc - 2 ^ (tick + 6), crs := { th.crs with ptime := th.crs.ptime + 1 } })

namespace Sys2Proof.Claims

/-! ### Words for managed objects -/

/-- The address of the object that a reference names (R281). -/
def objAt (v : Word) : Nat := bits v 47 4 * 16

/-- A trap that ends an instruction in state `s`. -/
def trapIn (s : State) (t : Trap) : State := (s.modMe fun th => { th with resOut := none }).trapMe t

/-- What the thread in hand reads next is read no earlier than logical time `t`: the time of the EPOCH of a region's entry that it uses
(the model's reading of R305 and R306, DEDUCED, log 68). -/
def owing (s : State) (t : Word) : State := s.modMe fun th => { th with due := maxW th.due t }

/-- The core in hand holds region `reg`'s entry `e`, with the logical time of its EPOCH (R286, log 68). -/
def holdsEntry (s : State) (reg : Nat) (e : BitVec 512) (time : Word) : Prop :=
  ∃ r, s.myCore.ca.heap.find? (fun x => x.1 == reg) = some (r, (e, time))

/-- A nonnull reference whose region's entry the core holds, valid, with the reference's EPOCH: the read barrier leaves it as it is
(R288), and the state is then `u`. -/
def passes (s : State) (v : Word) (u : State) : Prop :=
  v ≠ 0 ∧ ∃ e time, holdsEntry s (bits v 55 48) e time ∧ bits (BitVec.ofNat 64 e.toNat : Word) 63 63 = 1 ∧
    bits v 59 56 = bits (BitVec.ofNat 64 e.toNat : Word) 61 58 ∧ u = owing s time

/-- The journal entry that a store of the thread in hand takes. -/
def storeEntry (s : State) (k : JKind) (us : List Elem) : JEntry :=
  { busy := true, thr := s.cur.thr, ord := s.myCore.jord, p := maxW s.me.crs.ptime s.me.due, kind := k, todo := us }

/-- An instruction that posts units from state `s`: complete, with the lowest free journal entry taken; else the journal wait,
with nothing done since `s₀`, the state at its issue. -/
def posts (i : Instr) (s₀ s : State) (k : JKind) (us : List Elem) : Prop :=
  ((∀ j < 16, (tget {} s.myCore.journal j).busy = true) → exec i s₀ = .next (held s₀ .journal)) ∧
    ∀ n, firstFree s.myCore n → ∃ u, exec i s₀ = .next u ∧ u.me.regs.pc = s₀.me.regs.pc + 4 ∧ u.me.regs.g = s₀.me.regs.g ∧
      tget {} u.myCore.journal n = storeEntry s k us ∧ u.dram = s.dram

/-- Forwarding slots (R287): state, old address, new reference. -/
def slotState (x : Nat) : Nat := x / 2 ^ 62 % 4
def slotFor (x : Nat) : Nat := x / 16 % 2 ^ 44 * 16
def slotRef (x : Nat) : Word := BitVec.ofNat 64 (x / 2 ^ 64)

/-- Bytes of an address lie at `m` of the stacks, in a line that no die holds and no lock or poison keeps, and the Collie of stack `n` reaches
and translates them for a request (R269, R291). -/
def atCollie (s : State) (n : Nat) (r : RelReq) (va w m : Nat) : Prop :=
  ∃ l off pa, m = l * 512 + off ∧ l ∉ s.poison ∧ (s.home l).excl = none ∧ s.locked r.ctx (BitVec.ofNat 64 va) = false ∧
    ∀ nd ∈ [needLd, needAtom, needSt], s.colPlace n r nd w (BitVec.ofNat 64 va) = .ok (.line l off pa)

/-- The reference by which an object that stays where it is has its slot's NEW (R290). -/
def stays (r : RelReq) (ep : Nat) : Nat := ep % 16 * 2 ^ 56 + bits r.ref 55 48 * 2 ^ 48 + objAt r.ref
/-- A slot's 16 bytes that say MOVED, with the object's address and NEW (R287). -/
def movedTo (r : RelReq) (new : Nat) : Nat := 2 ^ 63 + objAt r.ref + new * 2 ^ 64
/-- Statuses of a skip and of a fault (R294). -/
def skipWord (r : RelReq) (code : Nat) : Word := BitVec.ofNat 64 (2 ^ 62 + code * 2 ^ 56 + r.ref.toNat % 2 ^ 56)
def faultWord (r : RelReq) (code : Nat) : Word := BitVec.ofNat 64 (2 ^ 63 + code * 2 ^ 56 + r.ref.toNat % 2 ^ 56)

/-- The end of a relocation request: the Collie is free, and the token of a request that has one gets its status (R294). -/
def requestEnds (u : State) (k : Nat) (r : RelReq) (status : Word) : Prop :=
  (u.stack k).collie.cur = none ∧
    (r.d ≠ 0 → ∃ m ∈ u.net, m.src = .collie k ∧ m.dst = (if r.ctx = 64 then .setter (r.inst - setterBase) else .core (r.gtn / 16)) ∧ ∃ rt inst acc, m.body = .token r.gtn r.d status rt inst acc r.hops)

end Sys2Proof.Claims

/-! ### Managed objects -/

def Sys2Proof.Claims.ReadBarrier : Prop :=
  ∀ (s : State) (v : Word),
    (v = 0 → ∃ s', s.barrier v = .trap s' (.access 0)) ∧
    -- a region's entry is read from the kernel's table at its first use, and kept
    (∀ reg tab s₁ x, s.myCore.ca.heap.find? (fun x => x.1 == reg) = none → s.heapTable = some tab →
      (owing s (s.epochTime s.myCore.ctx reg)).hload false (tab + 64 + 64 * reg) 64 = .ok s₁ x →
      ∃ u, s.region reg = .ok u (BitVec.ofNat 512 x) ∧ u.dram = s₁.dram ∧ (u.core s.cur.core).ca.heap =
        tset (s₁.core s.cur.core).ca.heap reg (BitVec.ofNat 512 x, s.epochTime s.myCore.ctx reg)) ∧
    ∀ e time, v ≠ 0 → holdsEntry s (bits v 55 48) e time →
      let w0 : Word := BitVec.ofNat 64 e.toNat
      let now := bits w0 61 58
      (bits w0 63 63 = 0 → ∃ s', s.barrier v = .trap s' (.access 0)) ∧
      (bits w0 63 63 = 1 →
        (bits v 59 56 = now → s.barrier v = .ok (owing s time) (v, .plain)) ∧
        (bits v 59 56 ≠ now → ∀ s₁ x, (owing s time).hload false (slotAddr e (objAt v) 0) 16 = .ok s₁ x →
          (slotState x = 0 → s.barrier v = .ok s₁ (setBits v 59 56 now, .healed)) ∧
          (slotState x = 3 → ∃ s', s.barrier v = .trap s' (.access (BitVec.ofNat 64 (slotAddr e (objAt v) 0)))) ∧
          (slotFor x = objAt v →
            (slotState x = 1 → s.barrier v = .ok s₁ (v, .moving)) ∧
            (slotState x = 2 →
              (bits (slotRef x) 55 48 = bits v 55 48 ∧ objAt (slotRef x) = objAt v →
                s.barrier v = .ok s₁ (setBits (slotRef x) 59 56 now, .healed)) ∧
              (¬ (bits (slotRef x) 55 48 = bits v 55 48 ∧ objAt (slotRef x) = objAt v) →
                s.barrier v = .ok s₁ (slotRef x, .healed))))))

def Sys2Proof.Claims.FieldLoads : Prop :=
  ∀ (d : GReg) (d' a : HReg) (sz : Sz) (off : BitVec 11) (s : State),
    (plain s [] [d] = true →
      (∀ s₁ tr, s.heapBase a off sz.bytes false = .trap s₁ tr → exec (.hld d a sz off) s = .next (trapIn s₁ tr)) ∧
      ∀ s₁ b, s.heapBase a off sz.bytes false = .ok s₁ b →
        let need := if b.ref = 0 then 6 else 4
        (∀ s₂ tr, s₁.heapPlace need b.ea sz.bytes = .trap s₂ tr → exec (.hld d a sz off) s = .next (trapIn s₂ tr)) ∧
        ∀ s₂ u, s₁.heapPlace need b.ea sz.bytes = .ok s₂ u →
          exec (.hld d a sz off) s = .next (waits s₂ (.load { kind := .ld d sz, need := need, todo := [u] }))) ∧
    (∀ s₁ b, s.heapBase a off 8 false = .ok s₁ b →
      let need := if b.ref = 0 then 6 else 4
      ∀ s₂ u, s₁.heapPlace need b.ea 8 = .ok s₂ u →
        let keep := b.bar == .moving || !((s₂.tlb1 s₂.cur.core b.ea.toNat).any fun e => e.canW && decide (e.cls ≤ 2))
        exec (.hldr d' a off) s = .next (waits s₂ (.load { kind := .hldr d' a keep, need := need, todo := [u] }))) ∧
    ∀ (p t : Nat) (moving : Bool) (u : Elem) (v x : Word) (b : Bar) (s₁ : State), d' ≠ 0 → (s.thread p t).st = .wait →
      (v = 0 → (s.thread p t).popIn = none → ∃ w, s.finishHldr p t d' moving u v = some w ∧ back s w p t ∧
        (w.thread p t).regs.h = (s.thread p t).regs.h.set d'.val 0) ∧
      (v ≠ 0 → bits v 63 60 = 0 → bits v 3 0 = 0 → (s.take p t).barrier v = .ok s₁ (x, b) → b ≠ .healed ∨ x = v ∨ moving = true →
        (s₁.thread p t).st = .wait → s₁.cur = (s.take p t).cur → ∃ w, s.finishHldr p t d' moving u v = some w ∧ back s₁ w p t ∧
          (w.thread p t).regs.h = (s₁.thread p t).regs.h.set d'.val x) ∧
      -- a healed value goes back to the field by a `cas` under way, unless the field's page forbids it or the object is MOVING
      (v ≠ 0 → bits v 63 60 = 0 → bits v 3 0 = 0 → (s.take p t).barrier v = .ok s₁ (x, .healed) → x ≠ v → moving = false →
        u.isLwin = false → (s₁.thread p t).st = .wait → (s₁.thread p t).popIn = none → s₁.cur = (s.take p t).cur →
        ((∀ j < 16, (tget {} (s₁.core p).journal j).busy = true) → s.finishHldr p t d' moving u v = none) ∧
        ∀ n, firstFree (s₁.core p) n → ∃ w, s.finishHldr p t d' moving u v = some w ∧ back s₁ w p t ∧
          (w.thread p t).regs.h = (s₁.thread p t).regs.h.set d'.val x ∧
          tget {} (w.core p).journal n = { busy := true, thr := t, ord := (s₁.core p).jord, kind := .heal v x, todo := [u],
                                           p := maxW (s₁.thread p t).crs.ptime (s₁.thread p t).due })

def Sys2Proof.Claims.FieldStores : Prop :=
  ∀ (d : GReg) (d' a : HReg) (sz : Sz) (off : BitVec 11) (s : State),
    (plain s [d] [] = true →
      (∀ s₁ tr, s.heapBase a off sz.bytes true = .trap s₁ tr → exec (.hst d a sz off) s = .next (trapIn s₁ tr)) ∧
      ∀ s₁ b s₂ u, s.heapBase a off sz.bytes true = .ok s₁ b →
        s₁.heapPlace (if b.ref = 0 then 7 else 5) b.ea sz.bytes = .ok s₂ u → u.isLwin = false →
        (b.bar = .moving → exec (.hst d a sz off) s = .next (waits s₂ (.held a))) ∧
        (b.bar ≠ .moving → s₂.cur = s.cur → (s₂.me.regs.pc = s.me.regs.pc ∧ s₂.me.regs.g = s.me.regs.g) →
          posts (.hst d a sz off) s s₂ .ref [{ u with data := (s₂.gr d).toNat % 2 ^ (8 * sz.bytes) }])) ∧
    ∀ s₀ s₁ b s₂ u, s.heapBase a off 8 true = .ok s₀ b →
      (b.ref = 0 ∧ s₁ = s₀ ∨ b.ref ≠ 0 ∧ ∃ e time, holdsEntry s₀ (bits b.ref 55 48) e time ∧
        bits (BitVec.ofNat 64 e.toNat : Word) 62 62 = 0 ∧ s₁ = owing s₀ time) →
      s₁.heapPlace (if b.ref = 0 then 7 else 5) b.ea 8 = .ok s₂ u → u.isLwin = false →
      (b.bar = .moving → exec (.hstr d' a off) s = .next (waits s₂ (.held a))) ∧
      (b.bar ≠ .moving → s₂.cur = s.cur → (s₂.me.regs.pc = s.me.regs.pc ∧ s₂.me.regs.g = s.me.regs.g) →
        posts (.hstr d' a off) s s₂ .ref [{ u with data := (s₂.hr d').toNat }])

def Sys2Proof.Claims.NewObjects : Prop :=
  ∀ (d : HReg) (a b : GReg) (s : State) (e : BitVec 512) (time : Word), plain s [a, b] [] = true →
    let x := s.gr a
    let y := (s.gr b).toNat
    let rd (off n : Nat) : Nat := mread s.myCore.direct (y + off) n
    let size := bits x 31 0
    let cur := rd 0 8
    let lim := rd 8 8
    let reg := rd 16 1
    let w (n : Nat) : Word := BitVec.ofNat 64 (e.toNat / 2 ^ (64 * n))
    (y % 32 ≠ 0 → exec (.hnew d a b) s = .next (s.trapMe (.align (s.gr b)))) ∧
    (y % 32 = 0 → s.myCore.dirG * 32768 < y + 32 → exec (.hnew d a b) s = .next (s.trapMe (.access (s.gr b)))) ∧
    (y % 32 = 0 → y + 32 ≤ s.myCore.dirG * 32768 → noOwn s y 32 →
      (bits x 63 56 ≠ 0 ∨ size % 16 ≠ 0 ∨ size < 16 ∨ 65536 < size ∨ rd 17 15 ≠ 0 →
        exec (.hnew d a b) s = .next (s.trapMe (.access 0))) ∧
      (bits x 63 56 = 0 → size % 16 = 0 → 16 ≤ size → size ≤ 65536 → rd 17 15 = 0 →
        holdsEntry s reg e time →
        (bits (w 0) 63 63 = 0 → exec (.hnew d a b) s = .next (s.trapMe (.access 0))) ∧
        (bits (w 0) 63 63 = 1 →
        -- the buffer has no room, or does not lie in the region
        (lim < cur + size → exec (.hnew d a b) s = .next (on ((owing s time).hw d 0))) ∧
        (cur + size ≤ lim → cur % 16 ≠ 0 ∨ cur < (w 2).toNat ∨ (w 3).toNat < cur + size →
          exec (.hnew d a b) s = .next (s.trapMe (.access (BitVec.ofNat 64 cur)))) ∧
        -- it has, and every unit of the new object is translated
        (cur + size ≤ lim → cur % 16 = 0 → (w 2).toNat ≤ cur → cur + size ≤ (w 3).toNat → cur + size ≤ 2 ^ 56 →
          (∀ i < size / 8, ∃ l off pa, onLine s (needOf 5) (BitVec.ofNat 64 (cur + 8 * i)) 8 l off pa) →
          ((∀ j < 16, (tget {} s.myCore.journal j).busy = true) → exec (.hnew d a b) s = .next (held s .journal)) ∧
          ∀ n, firstFree s.myCore n → ∃ u us, exec (.hnew d a b) s = .next u ∧ u.me.regs.pc = s.me.regs.pc + 4 ∧
            tget {} u.myCore.journal n = storeEntry (owing s time) .ref us ∧ us.length = size / 8 ∧
            (∀ i l off pa, i < size / 8 → onLine s (needOf 5) (BitVec.ofNat 64 (cur + 8 * i)) 8 l off pa →
              us[i]? = some { lane := i, va := BitVec.ofNat 64 (cur + 8 * i), w := 8, data := if i = 0 then x.toNat else 0,
                              place := .line l off pa }) ∧
            u.myCore.direct = mwrite s.myCore.direct y 8 (cur + size) ∧
            (d ≠ 0 → u.hr d = BitVec.ofNat 64 (bits (w 0) 61 58 * 2 ^ 56 + reg % 256 * 2 ^ 48 + cur / 16 % 2 ^ 44 * 16)) ∧
            ∀ q, q ≠ d → u.hr q = s.hr q))))

def Sys2Proof.Claims.ObjectInstructions : Prop :=
  (∀ (d : GReg) (a : HReg) (s s₁ : State), passes s (s.hr a) s₁ →
    let pin : Word := BitVec.ofNat 64 (objAt (s.hr a) + 8)
    ∀ l off pa, onLine s (needOf 8) pin 4 l off pa →
      let u : Elem := { lane := 0, va := pin, w := 4, data := 0, place := .line l off pa }
      -- the increment of PIN, and the decrement, are atomics under way to the object's header
      (plain s [] [d] = true → exec (.hpin d a) s = .next (waits s₁ (.load { kind := .hpin d a, need := 8, todo := [u] }))) ∧
      posts (.hunpin a) s s₁ .unpin [u]) ∧
  (∀ (d : GReg) (a : HReg) (s : State),
    (plain s [] [d] = true → ∀ s₁ x b s₂ u, s.barrier (s.hr a) = .ok s₁ (x, b) →
      (if b = .healed then s₁.hw a x else s₁).heapPlace 8 (BitVec.ofNat 64 (objAt x + 8)) 4 = .ok s₂ u →
      exec (.hpin d a) s = .next (waits s₂ (.load { kind := .hpin d a, need := 8, todo := [u] }))) ∧
    ∀ s₁ x b, s.barrier (s.hr a) = .ok s₁ (x, b) →
      (b = .moving → exec (.hunpin a) s = .next (waits s₁ (.pin 0 a 0 true))) ∧
      (b ≠ .moving → ∀ s₂ u, (if b = .healed then s₁.hw a x else s₁).heapPlace 8 (BitVec.ofNat 64 (objAt x + 8)) 4 = .ok s₂ u →
        u.isLwin = false → s₂.cur = s.cur → (s₂.me.regs.pc = s.me.regs.pc ∧ s₂.me.regs.g = s.me.regs.g) →
        posts (.hunpin a) s s₂ .unpin [u])) ∧
  -- `hpin` once PIN is incremented: no slot stands for the object, or its slot is MOVING (R295)
  (∀ (p t obj : Nat) (d : GReg) (a : HReg) (e : BitVec 512) (time : Word) (s s₁ : State),
    let v := (s.take p t).hr a
    holdsEntry (s.take p t) (bits v 55 48) e time → (s₁.thread p t).st = .wait → s₁.cur = (s.take p t).cur →
    let found := probe true e obj (2 ^ bits (BitVec.ofNat 64 e.toNat : Word) 49 45) 0 (owing (s.take p t) time)
    (found = .ok s₁ none ∨ (∃ x, found = .ok s₁ (some x) ∧ slotState x ≠ 1 ∧ bits (slotRef x) 55 48 = bits v 55 48 ∧ objAt (slotRef x) = obj) →
      (s₁.thread p t).popIn = none →
      ∃ w, s.finishHpin p t d a obj = some w ∧ back s₁ w p t ∧
        (w.thread p t).regs.g = gAfter (s₁.thread p t) d (BitVec.ofNat 64 obj)) ∧
    ∀ x, found = .ok s₁ (some x) →
      (slotState x = 1 → s.finishHpin p t d a obj = some (s₁.modThread p t fun th => { th with wait := .pin d a obj false })) ∧
      -- the slot names another copy: the instruction goes on to that one's PIN
      ∀ s₂ u, slotState x ≠ 1 → ¬ (bits (slotRef x) 55 48 = bits v 55 48 ∧ objAt (slotRef x) = obj) →
        (s₁.hw a (slotRef x)).heapPlace 8 (BitVec.ofNat 64 (objAt (slotRef x) + 8)) 4 = .ok s₂ u →
        s.finishHpin p t d a obj = some (s₂.modThread p t fun th => { th with wait := .load { kind := .hpin d a, need := 8, todo := [u] } })) ∧
  ∀ (d : GReg) (d' a b : HReg) (s : State),
    exec (.hmov d' a) s = .next (on (s.hw d' (s.hr a))) ∧
    (plain s [] [d] = true →
      exec (.hget d a) s = .next (on (putG s d (s.hr a))) ∧
      (∀ s₁ s₂, s.hr a = 0 ∧ s₁ = s ∨ passes s (s.hr a) s₁ → s.hr b = 0 ∧ s₂ = s₁ ∨ passes s₁ (s.hr b) s₂ →
        exec (.hcmp d a b) s = .next (on (putG s₂ d (if bits (s.hr a) 47 4 = bits (s.hr b) 47 4 then 1 else 0)))) ∧
      (s.hr a = 0 ∨ d = 28 ∨ d = 29 → exec (.htag d a) s = .next (s.trapMe (.access 0))) ∧
      (s.hr a ≠ 0 → d ≠ 28 → d ≠ 29 →
        ((∀ j < 16, (tget {} s.myCore.journal j).busy = true) → exec (.htag d a) s = .next (held s .journal)) ∧
        ∀ n, firstFree s.myCore n → ∃ u r, exec (.htag d a) s = .next u ∧ u.me.regs.pc = s.me.regs.pc + 4 ∧
          u.me.pend = (if d = 0 then s.me.pend else s.me.pend ||| (1 <<< d.val)) ∧
          tget {} u.myCore.journal n = storeEntry s (.htag r) [] ∧ r.ref = s.hr a ∧ r.d = d.val ∧
          r.gtn = s.gtn s.cur.core s.cur.thr ∧ u.me.regs.h = s.me.regs.h))

/-! ### Relocation -/

def Sys2Proof.Claims.RelocationSteps : Prop :=
  -- a request is queued, and begun: header, slot, EPOCH, broadcast
  (∀ (k n p i : Nat) (r : RelReq) (src : Endp) (s : State), k < 2 ^ 20 → reaches s k src (.collie n) (.relReq r p i) →
    (64 ≤ (s.stack n).collie.queue.length → exec (.relocationRequestAccept k) s = .next s) ∧
    ((s.stack n).collie.queue.length < 64 → (s.stack n).collie.cur ≠ none →
      ∃ u, exec (.relocationRequestAccept k) s = .next u ∧ answers s u k [] ∧
        (u.stack n).collie.queue = (s.stack n).collie.queue ++ [r] ∧ (u.stack n).collie.cur = (s.stack n).collie.cur ∧
        (tget {} (u.core p).journal i).busy = false)) ∧
  -- steps 1 to 3: the header, the claim of an EMPTY slot, the advance of EPOCH, and the broadcast
  (∀ (n mh me ms mw : Nat) (r : RelReq) (s : State), (s.stack n).collie.cur = none → (s.stack n).collie.queue = [r] → r.ctx < 64 →
    let a := objAt r.ref
    let reg := bits r.ref 55 48
    let ent := s.relTable r + 64 + 64 * reg
    let e := mread s.dram me 64
    let slot := slotAddr (BitVec.ofNat 512 e) a 0
    let now := e / 2 ^ 58 % 16
    let ep := (now + 1) % 16
    let e' := e - now * 2 ^ 58 + ep * 2 ^ 58
    atCollie s n r a 16 mh → atCollie s n r ent 64 me → atCollie s n r ent 8 mw → atCollie s n r slot 16 ms → atCollie s n r slot 8 ms →
    (mread s.dram mh 16 / 2 ^ 48 % 2 = 1 → s.hostReloc r = false → ∃ u, exec (.relocationRequestAccept (2 ^ 20 + n)) s = .next u ∧
      requestEnds u n r (skipWord r 2) ∧ u.dram = s.dram) ∧
    (mread s.dram mh 16 / 2 ^ 48 % 2 = 0 →
      (slotState (mread s.dram ms 16) ∈ [1, 2] → slotFor (mread s.dram ms 16) = a → s.hostReloc r = false →
        ∃ u, exec (.relocationRequestAccept (2 ^ 20 + n)) s = .next u ∧ requestEnds u n r (skipWord r 3) ∧ u.dram = s.dram) ∧
      (slotState (mread s.dram ms 16) = 0 → ∃ u time, exec (.relocationRequestAccept (2 ^ 20 + n)) s = .next u ∧
        u.dram = mwrite (mwrite s.dram ms 8 (2 ^ 62 + a)) mw 8 (e' % 2 ^ 64) ∧ (u.stack n).collie.queue = [] ∧
        (u.stack n).collie.cur = some (r, .acks (s.placedCores r.ctx) ep, slot) ∧
        u.net.map (fun m => (m.src, m.dst, m.body)) = s.net.map (fun m => (m.src, m.dst, m.body)) ++
          (s.placedCores r.ctx).map fun l => (.collie n, .core l, .epoch r.ctx reg (BitVec.ofNat 512 e') n time)))) ∧
  -- a core takes the new entry, unless it has a later one, once its reference stores into the region are settled
  (∀ (k l p c reg st ep : Nat) (ent : BitVec 512) (time : Word) (r : RelReq) (cs : List Nat) (slot : Nat) (src : Endp) (s : State),
    reaches s k src (.core l) (.epoch c reg ent st time) → s.phys l = some p → (s.stack st).collie.cur = some (r, .acks cs ep, slot) →
    let lo := (BitVec.ofNat 64 (ent.toNat / 2 ^ 128) : Word).toNat
    let hi := (BitVec.ofNat 64 (ent.toNat / 2 ^ 192) : Word).toNat
    let later : Prop := ∃ y z x, (s.core p).ca.heap.find? (fun x => x.1 == reg) = some (y, (z, x)) ∧ time.toNat < x.toNat
    ((s.core p).ctx = c → (s.core p).regionSettled lo hi = false → exec (.epochBroadcastArrival k) s = .next s) ∧
    ((s.core p).ctx = c → (s.core p).regionSettled lo hi = true → ∃ u, exec (.epochBroadcastArrival k) s = .next u ∧ answers s u k [] ∧
      (¬ later → (u.core p).ca.heap = tset (s.core p).ca.heap reg (ent, time)) ∧ (later → (u.core p).ca.heap = (s.core p).ca.heap) ∧
      (u.stack st).collie.cur = some (r, .acks (cs.erase l) ep, slot)) ∧
    ((s.core p).ctx ≠ c → ∃ u, exec (.epochBroadcastArrival k) s = .next u ∧ answers s u k [] ∧
      (u.core p).ca.heap = (s.core p).ca.heap ∧ (u.stack st).collie.cur = some (r, .acks (cs.erase l) ep, slot))) ∧
  -- steps 4 and 5 once every core that serves has acknowledged: PIN, then the reservation of CCUR
  (∀ (n slot ep mp mh me mt mc ms : Nat) (r : RelReq) (cs skip : List Nat) (s : State), (s.stack n).collie.cur = some (r, .acks cs ep, slot) →
    r.ctx < 64 →
    ((∃ l ∈ cs, s.phys l ≠ none) → exec (.collieEpochAcksDone ⟨n, skip⟩) s = .next s) ∧
    ((∀ l ∈ cs, s.phys l = none) → s.strayRefs r.ctx = false →
      let a := objAt r.ref
      let pin := mread s.dram mp 4
      -- PIN is read by an atomic add of 0
      let d := mwrite s.dram mp 4 pin
      let size := mread d mh 4
      let e := mread d me 64
      let tgt := e / 2 ^ 50 % 256
      let t := mread d mt 64
      let cur := t / 2 ^ 256 % 2 ^ 64
      let ent (x : Nat) := s.relTable r + 64 + 64 * x
      atCollie s n r (a + 8) 4 mp → atCollie s n r a 4 mh → atCollie s n r slot 16 ms →
      (pin ≠ 0 → s.hostReloc r = false → ∃ u, exec (.collieEpochAcksDone ⟨n, skip⟩) s = .next u ∧
        u.dram = mwrite d ms 16 (movedTo r (stays r ep)) ∧ requestEnds u n r (skipWord r 1)) ∧
      (pin = 0 → atCollie s n r (ent (bits r.ref 55 48)) 64 me → atCollie s n r (ent tgt) 64 mt → atCollie s n r (ent tgt + 32) 8 mc →
        (t / 2 ^ 192 % 2 ^ 64 < cur + size → s.hostReloc r = false → ∃ u, exec (.collieEpochAcksDone ⟨n, skip⟩) s = .next u ∧
          u.dram = mwrite d ms 16 (movedTo r (stays r ep)) ∧ requestEnds u n r (skipWord r 4)) ∧
        (cur + size ≤ t / 2 ^ 192 % 2 ^ 64 → 0 < size / 8 → (∀ i < size / 8, i ∈ skip) →
          ∃ u, exec (.collieEpochAcksDone ⟨n, skip⟩) s = .next u ∧ u.dram = mwrite d mc 8 (cur + size) ∧
            (u.stack n).collie.cur = some (r, .taking ep (BitVec.ofNat 64
              (t / 2 ^ 58 % 16 * 2 ^ 56 + tgt * 2 ^ 48 + cur / 16 % 2 ^ 44 * 16)) size [], slot))))) ∧
  -- step 6: the object's bytes, but for its PIN, which is 0 in the copy; units that are left to a later read are read then
  (∀ (n slot ep size : Nat) (new : Word) (r : RelReq) (skip : List Nat) (from' to' : Nat → Nat) (s : State),
    (s.stack n).collie.cur = some (r, .taking ep new size [], slot) → r.ctx < 64 →
    (∀ i < size / 8, atCollie s n r (objAt r.ref + 8 * i) 8 (from' i) ∧ atCollie s n r (objAt new + 8 * i) 8 (to' i)) →
    let v (i : Nat) := mread s.dram (from' i) 8
    ((∀ i < size / 8, i ∉ skip) → ∃ u, exec (.collieEpochAcksDone ⟨n, skip⟩) s = .next u ∧
      u.dram = (List.range (size / 8)).foldl (fun d i => mwrite d (to' i) 8 (if i = 1 then v i / 2 ^ 32 * 2 ^ 32 else v i)) s.dram ∧
      (u.stack n).collie.cur = some (r, .copying ep new, slot)) ∧
    ((∃ i < size / 8, i ∈ skip) → ∃ u got, exec (.collieEpochAcksDone ⟨n, skip⟩) s = .next u ∧ u.dram = s.dram ∧
      (u.stack n).collie.cur = some (r, .taking ep new size got, slot) ∧ ∀ i < size / 8, i ∉ skip → (i, v i) ∈ got)) ∧
  -- step 7: NEW and MOVED in one write; where the host directs it, the status is left to the host's finish (R294)
  (∀ (n slot ep ms : Nat) (new : Word) (r : RelReq) (s : State), (s.stack n).collie.cur = some (r, .copying ep new, slot) → r.ctx < 64 →
    atCollie s n r slot 16 ms → ∃ u, exec (.collieCopyDone n) s = .next u ∧ u.dram = mwrite s.dram ms 16 (movedTo r new.toNat) ∧
      (s.hostReloc r = false → requestEnds u n r new) ∧ (s.hostReloc r = true → (u.stack n).collie.cur = some (r, .host new, 0))) ∧
  -- a fault with no slot claimed ends the request with its status; here the header's page is not mapped (PAGE)
  (∀ (n : Nat) (r : RelReq) (m : Miss) (s : State), (s.stack n).collie.cur = none → (s.stack n).collie.queue = [r] → r.ctx < 64 →
    2 ^ 19 ≤ objAt r.ref → findTlb (s.stack n).tlb r.ctx (objAt r.ref) = none → m ∈ s.misses → m.who = .collie n r.gtn →
    m.none' = true → m.va.toNat / 65536 = objAt r.ref / 65536 → s.hostReloc r = false →
    ∃ u, exec (.collieFault n) s = .next u ∧ requestEnds u n r (faultWord r 2) ∧ u.dram = s.dram) ∧
  -- with a slot claimed it is MOVED in place: here PIN or the slot's own line is poisoned, or its page is not mapped
  (∀ (n slot ep ms l off pa : Nat) (r : RelReq) (cs : List Nat) (s : State), (s.stack n).collie.cur = some (r, .acks cs ep, slot) →
    r.ctx < 64 → (∀ l ∈ cs, s.phys l = none) → s.strayRefs r.ctx = false → s.hostReloc r = false →
    s.colPlace n r needLd 4 (BitVec.ofNat 64 (objAt r.ref + 8)) = .ok (.line l off pa) → l ∈ s.poison → atCollie s n r slot 16 ms →
    ∃ u, exec (.collieFault n) s = .next u ∧ requestEnds u n r (faultWord r 4) ∧ u.dram = mwrite s.dram ms 16 (movedTo r (stays r ep))) ∧
  (∀ (n slot ep l off pa : Nat) (new : Word) (r : RelReq) (s : State), (s.stack n).collie.cur = some (r, .copying ep new, slot) →
    r.ctx < 64 → s.hostReloc r = false → s.colPlace n r needAtom 16 (BitVec.ofNat 64 slot) = .ok (.line l off pa) → l ∈ s.poison →
    ∃ u, exec (.collieFault n) s = .next u ∧ requestEnds u n r (faultWord r 4) ∧ u.dram = s.dram) ∧
  (∀ (n slot ep : Nat) (new : Word) (r : RelReq) (m : Miss) (s : State), (s.stack n).collie.cur = some (r, .copying ep new, slot) →
    r.ctx < 64 → 2 ^ 19 ≤ slot → slot < 2 ^ 56 → findTlb (s.stack n).tlb r.ctx slot = none → m ∈ s.misses → m.who = .collie n r.gtn → m.none' = true →
    m.va.toNat / 65536 = slot / 65536 →
    ∃ u, exec (.collieFault n) s = .next u ∧ (u.stack n).collie.cur = some (r, .inPlace ep (faultWord r 2), slot) ∧ u.dram = s.dram) ∧
  (∀ (n slot ep ms : Nat) (status : Word) (r : RelReq) (s : State), (s.stack n).collie.cur = some (r, .inPlace ep status, slot) →
    r.ctx < 64 → s.hostReloc r = false → atCollie s n r slot 16 ms →
    ∃ u, exec (.collieCopyDone n) s = .next u ∧ requestEnds u n r status ∧ u.dram = mwrite s.dram ms 16 (movedTo r (stays r ep))) ∧
  (∀ (n : Nat) (r : RelReq) (x : Nat) (st status : Word) (s : State), (s.stack n).collie.cur = some (r, .host st, x) →
    (status ≠ st → exec (.hostRelocationDone n status) s = .next s) ∧
    (status = st → ∃ u, exec (.hostRelocationDone n status) s = .next u ∧ requestEnds u n r status ∧ u.dram = s.dram)) ∧
  -- a held store, or a pin, is tried again once the relocation is over
  ∀ (p t : Nat) (a : HReg) (s : State), (s.thread p t).st = .wait →
    let busy := s.relocating (s.core p).ctx (objAt (s.thread p t).regs.h[a.val])
    ((s.thread p t).wait = .held a →
      (busy = true → exec (.heldStoreRetry p t) s = .next s) ∧
      ∀ d sz off n, busy = false → decodeWord (s.thread p t).latch.word = some (.hst d a sz off) → firstFree (s.core p) n →
        ∀ x, hstBody d a sz off (.held a) (s.take p t) = .done x →
          exec (.heldStoreRetry p t) s = .next (x.modThread p t fun th => { th with wait := .heldPosted n })) ∧
    ∀ d pinned un, (s.thread p t).wait = .pin d a pinned un →
      (busy = true → exec (.heldStoreRetry p t) s = .next s) ∧
      ∀ x, busy = false →
        (if un then hunpinBody a (.pin d a pinned un) (s.take p t) else hpinBody d a pinned (.pin d a pinned un) (s.take p t)) = .done x →
        exec (.heldStoreRetry p t) s = .next (x.complete p t)

namespace Sys2Proof.Claims

/-! ### Words for tasks and pages -/

/-- The lowest FREE thread context of a core (R365). -/
def firstFreeThread (s : State) (p t : Nat) : Prop := t < 16 ∧ (s.thread p t).st = .free ∧ ∀ j < t, (s.thread p j).st ≠ .free

/-- A core works for a RUNNING kernel. -/
def worksFor (s : State) (p slot : Nat) (k : Kernel) : Prop :=
  (s.core p).slot = some slot ∧ s.kernel slot = some k ∧ k.st = .running ∧ (s.core p).moveTo = none ∧ (s.core p).retired = false

/-- A thread context has taken up a frame (R365). -/
def started (s u : State) (p t slot : Nat) (k : Kernel) (f : Frame) : Prop :=
  let th := u.thread p t
  th.st = .inRot ∧ th.slot = slot ∧ th.regs.pc = BitVec.ofNat 56 (f.cpc.toNat / 4 * 4) ∧ th.jn = f.jn ∧ th.jc = f.jc ∧
    th.regs.g[1] = f.g.getD 0 0 ∧ th.regs.g[2] = f.g.getD 1 0 ∧ th.regs.g[3] = f.g.getD 2 0 ∧ th.regs.g[4] = f.g.getD 3 0 ∧
    th.crs.ptime = maxW k.at' f.rt ∧ th.seq = (s.thread p t).seq ∧ th.regs.g[5] = 0 ∧ th.regs.m = Vector.replicate 4 0

/-- AFF and the child's join pair keep the block's layout (R367). -/
def goodAff (a : Word) : Prop :=
  bits a 62 7 = 0 ∧ (bits a 6 0 < 72 ∨ bits a 6 0 = 127) ∧ (bits a 63 63 = 1 → bits a 6 0 ≠ 127)
def goodJoin (s : State) (jn jc : Word) : Prop :=
  (jn = 0 ∧ jc = 0) ∨ (jn ≠ 0 ∧ bits jn 63 60 = 4 ∧ bits jn 59 56 + 1 = levels s ∧ bits jc 48 44 = 0 ∧ bits jc 62 54 = 0 ∧
    goodAlt (levels s) ⟨jn, jc, 0, 0⟩)

/-- The core in hand has no stack base: its kernel's record gives none. -/
def noStack (s : State) (p : Nat) : Prop :=
  ∀ slot k, (s.core p).slot = some slot → s.kernel slot = some k → recField k.launch 56 8 = 0

/-- Bytes of a page by its SZ code (R307). -/
def pageBytes (sz : Nat) : Nat := if sz = 0 then 2 ^ 16 else if sz = 1 then 2 ^ 21 else 2 ^ 28

/-- What R322 asks of a `tlbw` block beside CTL: layout, alignment, class, frame and permission. -/
def goodLayout (w0 w1 : Word) : Prop :=
  let cls := bits w1 63 61
  let size := if bits w0 62 61 = 3 then 1 else pageBytes (bits w0 62 61)
  bits w0 54 40 = 0 ∧ bits w1 56 56 = 0 ∧ bits w0 39 0 * 65536 % size = 0 ∧ bits w1 35 0 * 65536 % size = 0 ∧
    (cls = 1 → bits w1 55 43 = 0) ∧ (cls = 3 → bits w1 55 51 = 0) ∧ (cls = 4 → bits w1 55 46 = 0) ∧
    (cls ≠ 1 → cls ≠ 3 → cls ≠ 4 → bits w1 55 36 = 0)
def goodFrame (s : State) (w0 w1 : Word) : Prop :=
  let cls := bits w1 63 61
  let pa := bits w1 35 0 * 65536
  bits w0 62 61 < 3 ∧ cls < 6 ∧ (cls = 0 ∨ cls = 2 → pa + pageBytes (bits w0 62 61) ≤ 6912 * 2 ^ 30) ∧
    (cls = 1 → bits w1 42 36 < 72 ∧
      pa + pageBytes (bits w0 62 61) ≤ (stacksNear (siteOfDie (bits w1 42 36))).length * 96 * 2 ^ 30) ∧
    (3 ≤ cls → bits w1 57 57 = 0) ∧
    (cls = 3 → bits w0 62 61 = 0 ∧ pa < 2 ^ 19 ∧ ∃ p, s.phys (bits w1 50 36) = some p)

/-- A pinned entry of some bank overlaps a page (R312). -/
def pageHeld (s : State) (w0 : Word) : Prop :=
  ∃ k st e, (k, st) ∈ s.stks ∧ e ∈ st.tlb ∧ e.pin = true ∧ bits e.w0 63 63 = 1 ∧ bits e.w0 60 55 = bits w0 60 55 ∧
    bits e.w0 39 0 * 65536 < bits w0 39 0 * 65536 + pageBytes (bits w0 62 61) ∧
    bits w0 39 0 * 65536 < bits e.w0 39 0 * 65536 + pageBytes (bits e.w0 62 61)

/-- The second levels hold no pinned entry, nor do the cores', and no bank holds 16 (R312). -/
def roomy (s : State) : Prop :=
  (∀ c ∈ s.cores, ∀ e ∈ c.2.ca.tlb, e.pin = false) ∧ (∀ c ∈ s.clusters, ∀ e ∈ c.2.tlb, e.pin = false) ∧
    ∀ c ∈ s.stks, (c.2.tlb.filter Tlb.pin).length < 16

/-- The entries that a `tlbi` operand covers (R314). -/
def spokenOf (x : Word) (e : Tlb) : Prop :=
  bits e.w0 63 63 = 1 ∧
    (bits x 57 56 = 0 → bits e.w0 60 55 = bits x 63 58 ∧ bits x 55 16 * 65536 / pageBytes (bits e.w0 62 61) =
      bits e.w0 39 0 * 65536 / pageBytes (bits e.w0 62 61)) ∧
    (bits x 57 56 = 1 → bits e.w0 60 55 = bits x 63 58)

/-- A thread that begins a page instruction's load wait: its request, and nothing else about it. -/
def loadWaits (s u : State) (k : ReqKind) : Prop :=
  u.me.st = .wait ∧ (∃ r, u.me.wait = .load r ∧ r.kind = k) ∧ u.me.regs = s.me.regs ∧ u.dram = s.dram

/-- No Setter thread but one waits in `seed` or `migr`. -/
def soleWaiter (s : State) (p t : Nat) : Prop :=
  ∀ q c j th r, (q, c) ∈ s.cores → isSetter q = true → (j, th) ∈ c.threads → th.wait = .load r →
    ((∃ x o, r.kind = .seed x o) ∨ ∃ b o, r.kind = .migr b o) → q = p ∧ j = t

/-- A field of a migration block, and what R317 asks of the block. -/
def mfld (b off n : Nat) : Nat := b / 2 ^ (8 * off) % 2 ^ (8 * n)
def goodMig (b : Nat) : Prop :=
  let ctl : Word := BitVec.ofNat 64 (mfld b 8 8)
  let size := pageBytes (bits ctl 55 54)
  bits ctl 57 56 ≤ 1 ∧ bits ctl 55 54 < 3 ∧ bits ctl 53 51 ≤ 2 ∧ bits ctl 43 0 = 0 ∧ (bits ctl 53 51 = 1 → bits ctl 50 44 < 72) ∧
    (bits ctl 53 51 ≠ 1 → bits ctl 50 44 = 0) ∧ mfld b 0 8 % size = 0 ∧ mfld b 0 8 < 2 ^ 56 ∧ mfld b 16 8 < 2 ^ 36 ∧
    mfld b 24 8 < 2 ^ 36 ∧ mfld b 16 8 * 65536 % size = 0 ∧ mfld b 24 8 * 65536 % size = 0 ∧
    (bits ctl 57 56 = 1 → mfld b 24 8 = 0) ∧ mfld b 40 24 = 0

end Sys2Proof.Claims

/-! ### Ranks and tasks -/

def Sys2Proof.Claims.Ranks : Prop :=
  ∀ (d : GReg) (n : Fin 8) (s : State), plain s [] [d] = true →
    (compute s.cur.core → ∀ k, s.kernel s.me.slot = some k →
      let size (i : Nat) : Nat := recField k.launch (96 + 8 * i) 4
      (n.val < recField k.launch 20 1 →
        exec (.rank d n) s = .next (on (putG s d
          (BitVec.ofNat 64 (s.me.flat / ((List.range n.val).map size).foldl (· * ·) 1 % size n.val)))) ∧
        exec (.size d n) s = .next (on (putG s d (BitVec.ofNat 64 (size n.val))))) ∧
      (recField k.launch 20 1 ≤ n.val → exec (.rank d n) s = .next (on (putG s d 0)) ∧ exec (.size d n) s = .next (on (putG s d 1)))) ∧
    (¬ compute s.cur.core →
      exec (.rank d n) s = .next (on (putG s d (BitVec.ofNat 64 (if n = 0 then s.cur.thr else 0)))) ∧
      exec (.size d n) s = .next (on (putG s d (if n = 0 then 16 else 1))))

def Sys2Proof.Claims.TaskSpawn : Prop :=
  ∀ (a b : GReg) (s : State), plain s [a, b] [] = true →
    let blk := s.gr a
    let tgt := s.gr b
    let w (i : Nat) : Word := BitVec.ofNat 64 (mread s.myCore.direct (blk.toNat + 8 * i) 8)
    let lim := s.myCore.dirG * 32768
    let ring := (s.myCore.spillLo + s.myCore.spill.length) % 1024
    (blk.toNat % 64 ≠ 0 → exec (.spawn a b) s = .next (s.trapMe (.align blk))) ∧
    (blk.toNat % 64 = 0 → tgt.toNat % 4 ≠ 0 → exec (.spawn a b) s = .next (s.trapMe (.align tgt))) ∧
    (blk.toNat % 64 = 0 → tgt.toNat % 4 = 0 → lim < blk.toNat + 64 → exec (.spawn a b) s = .next (s.trapMe (.access blk))) ∧
    (blk.toNat % 64 = 0 → tgt.toNat % 4 = 0 → blk.toNat + 64 ≤ lim → noOwn s blk.toNat 64 →
      ((w 0).toNat % 4 ≠ 0 → exec (.spawn a b) s = .next (s.trapMe (.align (w 0)))) ∧
      ((w 0).toNat % 4 = 0 →
        (¬ goodAff (w 3) → exec (.spawn a b) s = .next (s.trapMe (.access 0 82))) ∧
        (goodAff (w 3) → ¬ goodJoin s (w 1) (w 2) → exec (.spawn a b) s = .next (s.trapMe .event)) ∧
        (goodAff (w 3) → goodJoin s (w 1) (w 2) →
          (s.myCore.deque.length = 64 → noStack s s.cur.core → exec (.spawn a b) s = .next (s.trapMe (.access 0 80))) ∧
          (s.myCore.deque.length < 64 →
            (bits (w 3) 63 63 = 1 → bits (w 3) 6 0 = s.logDie s.cur.core) →
            ∃ u f, exec (.spawn a b) s = .next u ∧ u.me.regs = { s.me.regs with pc := tgt.setWidth 56 } ∧ u.me.jn = w 1 ∧
              u.me.jc = w 2 ∧ u.me.st = s.me.st ∧ u.dram = s.dram ∧ u.net = s.net ∧ u.myCore.deque = f :: s.myCore.deque ∧
              f.cpc = w 0 ∧ f.jn = s.me.jn ∧ f.jc = s.me.jc ∧ f.aff = w 3 ∧ f.g = [w 4, w 5, w 6, w 7] ∧
              (f.pend = none ↔ s.myCore.settled s.cur.thr = true)) ∧
          (s.myCore.deque.length < 64 → bits (w 3) 63 63 = 1 → bits (w 3) 6 0 ≠ s.logDie s.cur.core →
            ∃ u f, exec (.spawn a b) s = .next u ∧ loadWaits s u (.strict f (w 1) (w 2) tgt) ∧ f.cpc = w 0 ∧ f.aff = w 3 ∧
              u.me.jn = s.me.jn ∧ u.myCore.deque = s.myCore.deque) ∧
          -- the deque is full: its oldest frame goes to the spill ring
          (∀ rest old, s.myCore.deque = rest ++ [old] → rest.length = 63 → s.stkb s.cur.core ≠ 0 → s.myCore.spill.length < 1024 →
            bits (w 3) 63 63 = 0 →
            let f : Frame := { cpc := w 0, jn := s.me.jn, jc := s.me.jc, aff := w 3, g := [w 4, w 5, w 6, w 7], rt := releaseTime s.me,
                               pend := if s.myCore.settled s.cur.thr then none else some (s.cur.core, s.cur.thr, s.myCore.jord) }
            let s₀ := (s.modMe fun th => { th with jn := w 1, jc := w 2 }).modCore s.cur.core fun c => { c with deque := f :: c.deque }
            (∀ s₁, s₀.ringWrite s.cur.core [(ring, old.bytes)] = .ok s₁ () →
              ∃ u, exec (.spawn a b) s = .next u ∧ u.me.regs.pc = tgt.setWidth 56 ∧ u.dram = s₁.dram ∧
                (u.core s.cur.core).deque = f :: rest ∧
                (u.core s.cur.core).spill = (s₁.core s.cur.core).spill ++ [(old.rt, old.pend)]) ∧
            -- or waits for the translation of its place there; the thread does not
            ∀ s₁, s₀.ringWrite s.cur.core [(ring, old.bytes)] = .wait s₁ →
              ∃ u, exec (.spawn a b) s = .next u ∧ u.me.regs.pc = tgt.setWidth 56 ∧ u.dram = s.dram ∧
                (u.core s.cur.core).deque = f :: s.myCore.deque))))

def Sys2Proof.Claims.TaskExit : Prop :=
  ∀ s : State, s.me.cell.st ≠ .claimed →
    ∃ u, exec .exit s = .next u ∧ (u.thread s.cur.core s.cur.thr).st = .free ∧ (u.thread s.cur.core s.cur.thr).regs = {} ∧
      (u.thread s.cur.core s.cur.thr).seq = s.me.seq ∧ u.dram = s.dram ∧ (u.core s.cur.core).direct = s.myCore.direct ∧
      (s.me.jn ≠ 0 → s.myCore.joins = [] → (∀ e ∈ s.myCore.journal, e.2.busy = false) →
        (u.core s.cur.core).joins = [] ∧ ∃ m ∈ u.net, m.src = .kennel (dieOf s.cur.core) ∧
          m.body = .offer { key := s.evKey s.cur.core s.cur.thr s.me.jn, index := bits s.me.jc 19 0, ctl := s.me.jc,
                            rt := releaseTime s.me, who := .engine,
                            kern := if (s.evKey s.cur.core s.cur.thr s.me.jn).ctx = 64 then none else some s.me.slot }) ∧
      (s.me.jn ≠ 0 → s.myCore.joins = [] → s.myCore.settled s.cur.thr = false →
        ∃ j, (u.core s.cur.core).joins = [j] ∧ j.key = s.evKey s.cur.core s.cur.thr s.me.jn ∧ j.ctl = s.me.jc)

def Sys2Proof.Claims.StrictAnswer : Prop :=
  ∀ (p t slot : Nat) (r : Req) (f : Frame) (jn jc tgt : Word) (k : Kernel) (s : State), compute p →
    (s.thread p t).wait = .load r → (s.thread p t).st = .wait → (s.thread p t).popIn = none → r.kind = .strict f jn jc tgt →
    (s.thread p t).slot = slot → s.kernel slot = some k →
    ((∀ e ∈ k.teams, e.2.st = .placed → e.2.die ≠ f.die) → ∃ u, exec (.strictFrameAnswer p t) s = .next u ∧ trapped s u p t 4 ∧
      (u.thread p t).latch.cause = 81 ∧ (u.core p).deque = (s.core p).deque) ∧
    ∀ g l q, (∃ e ∈ k.teams, e.2.st = .placed ∧ e.2.die = f.die) → (g, l) ∈ k.groups → l / 256 = f.die → s.phys l = some q →
      (∀ e ∈ k.groups, e.2 / 256 = f.die → (s.phys e.2).isSome = true → l ≤ e.2) → (s.core q).moveTo = none → (s.core p).moveTo = none →
      ((s.core q).deque.length < 64 → ∃ u, exec (.strictFrameAnswer p t) s = .next u ∧
        (u.core q).deque = (s.core q).deque ++ [f] ∧ (u.thread p t).st = .inRot ∧ (u.thread p t).wait = .none ∧
        (u.thread p t).regs = { (s.thread p t).regs with pc := tgt.setWidth 56 } ∧ (u.thread p t).jn = jn ∧ (u.thread p t).jc = jc) ∧
      ((s.core q).deque.length = 64 → noStack s q → ∃ u, exec (.strictFrameAnswer p t) s = .next u ∧ trapped s u p t 4 ∧
        (u.thread p t).latch.cause = 80 ∧ (u.thread p t).jn = (s.thread p t).jn)

def Sys2Proof.Claims.FramesStand : Prop :=
  -- `j` below 64 is a frame of the deque; from 64 on one of the ring
  (∀ (p j q t o : Nat) (x : Word × Option (Nat × Nat × Nat)) (s : State), j < 1024 → (s.core p).deque.length ≤ 64 →
    (s.core p).spill[j]? = some x →
    (x.2 = none → exec (.frameStanding p (64 + j)) s = .next s) ∧
    (x.2 = some (q, t, o) →
      ((∃ e ∈ (s.core q).journal, e.2.busy = true ∧ e.2.thr = t ∧ e.2.isStore = true ∧ e.2.ord < o) →
        exec (.frameStanding p (64 + j)) s = .next s) ∧
      ((∀ e ∈ (s.core q).journal, e.2.busy = true → e.2.thr = t → e.2.isStore = true → o ≤ e.2.ord) →
        ∃ u, exec (.frameStanding p (64 + j)) s = .next u ∧ (u.core p).deque = (s.core p).deque ∧
          (u.core p).spill = (s.core p).spill.set j (if t < 16 then maxW x.1 (releaseTime (s.thread q t)) else x.1, none)))) ∧
  ∀ (p j q t o : Nat) (f : Frame) (s : State), j < 64 → (s.core p).deque.length ≤ 64 → (s.core p).deque[j]? = some f →
    (f.pend = none → exec (.frameStanding p j) s = .next s) ∧
    (f.pend = some (q, t, o) →
      ((∃ e ∈ (s.core q).journal, e.2.busy = true ∧ e.2.thr = t ∧ e.2.isStore = true ∧ e.2.ord < o) →
        exec (.frameStanding p j) s = .next s) ∧
      ((∀ e ∈ (s.core q).journal, e.2.busy = true → e.2.thr = t → e.2.isStore = true → o ≤ e.2.ord) →
        ∃ u, exec (.frameStanding p j) s = .next u ∧ (u.core p).deque = (s.core p).deque.set j { f with
          rt := if t < 16 then maxW f.rt (releaseTime (s.thread q t)) else f.rt, pend := none }))

def Sys2Proof.Claims.FramesStart : Prop :=
  (∀ (p t slot : Nat) (k : Kernel) (f : Frame) (a b : List Frame) (s : State), compute p → worksFor s p slot k → firstFreeThread s p t →
    (s.core p).deque = a ++ f :: b → f.pend = none → (∀ x ∈ a, x.pend ≠ none) →
    ∃ u, exec (.frameDispatch p) s = .next u ∧ started s u p t slot k f ∧ (u.core p).deque = a ++ b) ∧
  (∀ (p : Nat) (s : State), (∀ t < 16, (s.thread p t).st ≠ .free) ∨ ((s.core p).deque = [] ∧ (s.core p).spill = []) →
    exec (.frameDispatch p) s = .next s) ∧
  (∀ (p v t slot : Nat) (k : Kernel) (f : Frame) (rest : List Frame) (s : State), v ≠ p → worksFor s p slot k → firstFreeThread s p t →
    (s.core p).deque = [] → (s.core p).spill = [] → (v, s.core v) ∈ s.cores → (s.core v).slot = some slot →
    (s.core v).moveTo = none → s.logDie v = s.logDie p → (s.core v).spill = [] → (s.core v).deque = rest ++ [f] → f.pend = none →
    bits f.aff 6 0 = s.logDie p →
    ∃ u, exec (.stealRequest p v) s = .next u ∧ started s u p t slot k f ∧ (u.core v).deque = rest) ∧
  ∀ (p v : Nat) (s : State), (s.core p).deque ≠ [] → exec (.stealRequest p v) s = .next s

/-! ### Pages -/

def Sys2Proof.Claims.PagePrivilege : Prop :=
  ∀ (d a : GReg) (s : State), compute s.cur.core →
    ∀ i ∈ [Instr.tlbw a, .tlbi a, .tlbr d a, .seed a, .migr a], exec i s = .next (s.trapMe (.access 0))

def Sys2Proof.Claims.PageWrite : Prop :=
  ∀ (a : GReg) (s : State), isSetter s.cur.core = true → plain s [a] [] = true →
    let x := s.gr a
    let w (i : Nat) : Word := BitVec.ofNat 64 (mread s.myCore.direct (x.toNat + 8 * i) 8)
    let traps (c : Nat) : Prop := exec (.tlbw a) s = .next (s.trapMe (.access 0 c))
    (x.toNat % 32 ≠ 0 → exec (.tlbw a) s = .next (s.trapMe (.align x))) ∧
    (x.toNat % 32 = 0 → s.myCore.dirG * 32768 < x.toNat + 32 → exec (.tlbw a) s = .next (s.trapMe (.access x))) ∧
    (x.toNat % 32 = 0 → x.toNat + 32 ≤ s.myCore.dirG * 32768 →
      (bits (w 3) 63 1 ≠ 0 ∨ ¬ goodLayout (w 0) (w 1) → traps 48) ∧
      (bits (w 3) 63 1 = 0 → goodLayout (w 0) (w 1) →
        -- an answer of NONE
        (bits (w 3) 0 0 = 1 → (w 0 ≠ 0 ∨ w 1 ≠ 0 → traps 49) ∧
          (w 0 = 0 → w 1 = 0 → w 2 = 0 → exec (.tlbw a) s = .next (on s)) ∧
          ∀ m p t r, w 0 = 0 → w 1 = 0 → w 2 ≠ 0 → (s.misses.filter fun m => m.sent && m.tag == w 2) = [m] → m.who = .thread p t →
            compute p → (s.thread p t).wait = .load r → (s.thread p t).st = .wait → r.miss = true → (∃ d sz, r.kind = .ld d sz) →
            ∃ u, exec (.tlbw a) s = .next u ∧ trapped s u p t 3 ∧ (u.thread p t).latch.addr = m.va ∧ u.misses = s.misses.erase m) ∧
        -- an entry
        (bits (w 3) 0 0 = 0 → (¬ goodFrame s (w 0) (w 1) → traps 49) ∧
          (goodFrame s (w 0) (w 1) → (pageHeld s (w 0) → traps 50) ∧
            (¬ pageHeld s (w 0) → roomy s → ∃ u, exec (.tlbw a) s = .next u ∧ u.me.regs.pc = s.me.regs.pc + 4 ∧ u.dram = s.dram ∧
              (w 2 = 0 → ∃ e ∈ (u.stack (bankOf (dieOf s.cur.core))).tlb, e.w0 = w 0 ∧ e.w1 = setBits (w 1) 60 60 0 ∧ e.pin = false) ∧
              (∀ m ∈ s.misses, m.sent = true → m.tag = w 2 → w 2 ≠ 0 →
                (∃ e ∈ (u.stack m.bank).tlb, e.w0 = w 0 ∧ e.w1 = setBits (w 1) 60 60 0) ∧ { m with sent := false } ∈ u.misses ∧
                ∀ p t, m.who = .thread p t → ∃ e ∈ (u.cluster m.cluster).tlb, e.w0 = w 0 ∧ e.w1 = setBits (w 1) 60 60 0))))))

def Sys2Proof.Claims.PageRequests : Prop :=
  ∀ (d a : GReg) (s : State), isSetter s.cur.core = true →
    let x := s.gr a
    (plain s [a] [] = true → (bits x 57 56 = 3 ∨ bits x 15 0 ≠ 0 → exec (.tlbi a) s = .next (s.trapMe (.access 0 51))) ∧
      (bits x 57 56 ≠ 3 → bits x 15 0 = 0 → ∃ u, exec (.tlbi a) s = .next u ∧ loadWaits s u (.tlbi x 0 []) ∧ u.stks = s.stks) ∧
      (bits x 57 43 ≠ 0 → exec (.seed a) s = .next (s.trapMe (.access 0 52))) ∧
      (bits x 57 43 = 0 → ∃ u, exec (.seed a) s = .next u ∧ loadWaits s u (.seed x s.tick) ∧
        (s.reseeding (bits x 63 58) = false → soleWaiter s s.cur.core s.cur.thr → (∀ m ∈ s.migs, m.ctx ≠ bits x 63 58) →
          (u.ctx (bits x 63 58)).seedNew = some (BitVec.ofNat 64 (bits x 42 0)))) ∧
      (x.toNat % 64 ≠ 0 → exec (.migr a) s = .next (s.trapMe (.align x))) ∧
      (x.toNat % 64 = 0 → s.myCore.dirG * 32768 < x.toNat + 64 → exec (.migr a) s = .next (s.trapMe (.access x))) ∧
      (x.toNat % 64 = 0 → x.toNat + 64 ≤ s.myCore.dirG * 32768 →
        let b := mread s.myCore.direct x.toNat 64
        let ctl : Word := BitVec.ofNat 64 (mfld b 8 8)
        (¬ goodMig b → exec (.migr a) s = .next (s.trapMe (.access 0 52))) ∧
        (goodMig b → s.reseeding (bits ctl 63 58) = false → s.migs = [] → soleWaiter s s.cur.core s.cur.thr →
          -- a migration locks its page, once no miss record on it is being received
          (bits ctl 57 56 = 0 → s.recordGoing (bits ctl 63 58) (mfld b 0 8) (pageBytes (bits ctl 55 54)) = true →
            ∃ u, exec (.migr a) s = .next u ∧ loadWaits s u (.migr x.toNat s.tick) ∧ u.migs = [] ∧ u.stks = s.stks) ∧
          (bits ctl 57 56 = 0 → s.recordGoing (bits ctl 63 58) (mfld b 0 8) (pageBytes (bits ctl 55 54)) = false → (∀ e ∈ s.stks, (e.2.tlb.filter Tlb.pin).length < 16) →
            ∃ u, exec (.migr a) s = .next u ∧ loadWaits s u (.migr x.toNat s.tick) ∧
              u.migs = [{ ctx := bits ctl 63 58, va := BitVec.ofNat 64 (mfld b 0 8), sz := bits ctl 55 54, cls := bits ctl 53 51,
                          near := bits ctl 50 44, old := mfld b 16 8, new := mfld b 24 8, core := s.cur.core, thr := s.cur.thr,
                          blk := x.toNat }] ∧
              ∀ k < 72, ∃ e ∈ (u.stack k).tlb, e.pin = true ∧ bits e.w1 60 60 = 1 ∧ bits e.w1 35 0 = mfld b 16 8 ∧
                bits e.w0 60 55 = bits ctl 63 58 ∧ bits e.w0 39 0 = mfld b 0 8 / 65536) ∧
          (bits ctl 57 56 = 0 → s.recordGoing (bits ctl 63 58) (mfld b 0 8) (pageBytes (bits ctl 55 54)) = false → (∃ e ∈ s.stks, 16 ≤ (e.2.tlb.filter Tlb.pin).length) →
            ∃ u, exec (.migr a) s = .next u ∧ u.me.regs.pc = s.me.regs.pc + 4 ∧ u.migs = [] ∧
              mread u.myCore.direct (x.toNat + 32) 8 = 2 ^ 63 + 3 * 2 ^ 56) ∧
          -- a scrub of a frame that no entry maps
          (bits ctl 57 56 = 1 → (∀ e ∈ s.cores, e.2.ca.tlb = []) → (∀ e ∈ s.clusters, e.2.tlb = []) → (∀ e ∈ s.stks, e.2.tlb = []) →
            ∃ u, exec (.migr a) s = .next u ∧ u.me.regs.pc = s.me.regs.pc + 4 ∧ u.migs = [] ∧
              mread u.myCore.direct (x.toNat + 32) 8 = 0 ∧
              ∀ l, (l ∈ (frameLines (bits ctl 53 51) (bits ctl 50 44) (mfld b 16 8) (bits ctl 55 54)).map Prod.fst →
                  l ∉ u.poison ∧ ∀ j < 512, mget u.dram (l * 512 + j) = 0) ∧
                (l ∉ (frameLines (bits ctl 53 51) (bits ctl 50 44) (mfld b 16 8) (bits ctl 55 54)).map Prod.fst →
                  (l ∈ u.poison ↔ l ∈ s.poison) ∧ ∀ j < 512, mget u.dram (l * 512 + j) = mget s.dram (l * 512 + j)))))) ∧
    (plain s [a] [d] = true →
      (bits x 57 56 ≠ 0 ∨ bits x 15 0 ≠ 0 → exec (.tlbr d a) s = .next (s.trapMe (.access 0 51))) ∧
      (bits x 57 56 = 0 → bits x 15 0 = 0 → ∃ u, exec (.tlbr d a) s = .next u ∧ u.me.st = .wait ∧ u.dram = s.dram ∧
        ∃ r, u.me.wait = .load r ∧ r.kind = .tlbr d ∧ (r.todo.map Elem.va) = [x]))

def Sys2Proof.Claims.PageAnswers : Prop :=
  -- a host walk's answer
  (∀ (tag w0 w1 : Word) (absent : Bool) (s : State),
    (tag = 0 ∨ (∀ m ∈ s.misses, m.sent = true → m.host = true → m.tag ≠ tag) → exec (.hostWalkAnswer tag absent w0 w1) s = .next s) ∧
    (tag ≠ 0 → (∃ m ∈ s.misses, m.sent = true ∧ m.host = true ∧ m.tag = tag) → goodLayout w0 w1 → goodFrame s w0 w1 → ¬ pageHeld s w0 →
      roomy s → ∃ u, exec (.hostWalkAnswer tag false w0 w1) s = .next u ∧ ∀ m ∈ s.misses, m.sent = true → m.tag = tag →
        (∃ e ∈ (u.stack m.bank).tlb, e.w0 = w0 ∧ e.w1 = setBits w1 60 60 0) ∧ { m with sent := false } ∈ u.misses ∧
        ∀ p t, m.who = .thread p t → ∃ e ∈ (u.cluster m.cluster).tlb, e.w0 = w0 ∧ e.w1 = setBits w1 60 60 0) ∧
    -- the host finds no page: PAGE for the thread that waits
    (tag ≠ 0 → (w0 ≠ 0 ∨ w1 ≠ 0 → exec (.hostWalkAnswer tag true w0 w1) s = .next s) ∧
      ∀ m p t r, w0 = 0 → w1 = 0 → (s.misses.filter fun m => m.sent && m.tag == tag) = [m] → m.host = true → m.who = .thread p t →
        compute p → (s.thread p t).wait = .load r → (s.thread p t).st = .wait → r.miss = true → (∃ d sz, r.kind = .ld d sz) →
        ∃ u, exec (.hostWalkAnswer tag true w0 w1) s = .next u ∧ trapped s u p t 3 ∧ (u.thread p t).latch.addr = m.va ∧
          u.misses = s.misses.erase m)) ∧
  -- `tlbi` removes what it covers, then ends
  (∀ (p t : Nat) (x rt : Word) (ps : List (Nat × Nat × Nat)) (r : Req) (s : State), (s.thread p t).wait = .load r →
    (s.thread p t).st = .wait → (s.thread p t).popIn = none → r.kind = .tlbi x rt ps →
    ((s.core p).settled t = false → exec (.tlbiComplete p t) s = .next s) ∧
    ((s.core p).settled t = true → s.migs = [] →
      (r.got = [] → ∃ u, exec (.tlbiComplete p t) s = .next u ∧ (u.thread p t).st = .wait ∧
        (∀ k e, e ∈ (u.stack k).tlb ↔ e ∈ (s.stack k).tlb ∧ ¬ spokenOf x e) ∧
        (∀ k e, e ∈ (u.cluster k).tlb ↔ e ∈ (s.cluster k).tlb ∧ ¬ spokenOf x e) ∧
        ∀ k e, e ∈ (u.core k).ca.tlb ↔ e ∈ (s.core k).ca.tlb ∧ ¬ spokenOf x e) ∧
      (r.got ≠ [] → (s.translated fun _ _ => true) = false → ∃ u, exec (.tlbiComplete p t) s = .next u ∧ back s u p t))) ∧
  -- a fill
  (∀ (k p t : Nat) (m : Miss) (r : Req) (e : Tlb) (s : State), s.misses[k]? = some m → m.sent = false → m.none' = false →
    s.panel.fwload = none → m.who = .thread p t → compute p → m.ctx = (s.core p).ctx → (s.core p).moveTo = none → s.fillWay m = true →
    roomy s →
    (s.thread p t).wait = .load r → (s.thread p t).st = .wait → r.miss = true →
    (s.tlb23 m.cluster m.ctx m.va.toNat = some e → (r.kind = .fetch ∨ ∃ stage, r.kind = .lookup stage) →
      ∃ u, exec (.tlbFillReply k) s = .next u ∧
        (r.kind = .fetch → (u.thread p t).st = .inRot ∧ (u.thread p t).wait = .none) ∧
        -- a lookup that an instruction makes on the way stays in its load wait, to go on at LOAD_REPLY
        (r.kind ≠ .fetch → (u.thread p t).st = .wait ∧ (u.thread p t).wait = .load { r with miss := false }) ∧
        (u.thread p t).regs = (s.thread p t).regs ∧ { e with pin := false } ∈ (u.core p).ca.tlb ∧ u.misses = s.misses.eraseIdx k) ∧
    (s.tlb23 m.cluster m.ctx m.va.toNat = none → (∀ x ∈ s.misses.eraseIdx k, x.who ≠ m.who ∧
        ¬ (x.sent = true ∧ x.ctx = m.ctx ∧ x.cluster = m.cluster ∧ x.va.toNat / 65536 = m.va.toNat / 65536)) →
      ∃ u, exec (.tlbFillReply k) s = .next u ∧ u.thread p t = s.thread p t ∧
        ∃ m', u.misses = s.misses.eraseIdx k ++ [m'] ∧ m'.who = m.who ∧ m'.va = m.va ∧ m'.ctx = m.ctx ∧ m'.sent = true)) ∧
  -- a new seed
  (∀ (c p t ord : Nat) (v x : Word) (r : Req) (s : State), (s.ctx c).seedNew = some v → soleWaiter s p t → isSetter p = true →
    (s.thread p t).wait = .load r → (s.thread p t).st = .wait → (s.thread p t).popIn = none → r.kind = .seed x ord →
    bits x 63 58 = c → BitVec.ofNat 64 (bits x 42 0) = v →
    ∃ u, exec (.seedChangeComplete c) s = .next u ∧ (u.ctx c).seedNew = none ∧ tget 0 (u.ctx c).desc 1 = v ∧ back s u p t) ∧
  ∀ (c : Nat) (s : State), (s.ctx c).seedNew = none → exec (.seedChangeComplete c) s = .next s

def Sys2Proof.Claims.Migrations : Prop :=
  ∀ (k ord : Nat) (m : Mig) (r : Req) (s : State), s.migs[k]? = some m → m.held = [] → soleWaiter s m.core m.thr → isSetter m.core = true →
    (s.thread m.core m.thr).wait = .load r → (s.thread m.core m.thr).st = .wait → (s.thread m.core m.thr).popIn = none →
    r.kind = .migr m.blk ord →
    let olds := (frameLines m.cls m.near m.old m.sz).map Prod.fst
    let news := (frameLines m.cls m.near m.new m.sz).map Prod.fst
    let page : Tlb → Prop := fun e => e.overlaps m.ctx m.va.toNat (pageBytes m.sz) = true
    let status (u : State) (n : Nat) : Prop := mread (u.core m.core).direct (m.blk + 32) 8 = n
    ((olds ++ news).Nodup → m.new < 2 ^ 36 → m.sz < 3 → ∃ u, exec (.migrationSwitch k) s = .next u ∧ u.migs = s.migs.eraseIdx k ∧ back s u m.core m.thr ∧
      (∀ i l l' : Nat, olds[i]? = some l → news[i]? = some l' → ∀ j < 512, mget u.dram (l' * 512 + j) = mget s.dram (l * 512 + j)) ∧
      (∀ l ∉ news, ∀ j < 512, mget u.dram (l * 512 + j) = mget s.dram (l * 512 + j)) ∧
      (∀ i l l' : Nat, olds[i]? = some l → news[i]? = some l' → l ∈ s.poison → l' ∈ u.poison) ∧
      (∀ j e, e ∈ (u.stack j).tlb → page e → e.pin = true ∧ bits e.w1 35 0 = m.new ∧ bits e.w1 60 60 = 0) ∧
      status u (if ∃ l ∈ olds, l ∈ s.poison then 2 * 2 ^ 56 else 0)) ∧
    ∃ u, exec (.migrationAbandon k) s = .next u ∧ u.migs = s.migs.eraseIdx k ∧ back s u m.core m.thr ∧ u.dram = s.dram ∧
      (m.sz < 3 → ∀ j e, e ∈ (u.stack j).tlb → page e → bits e.w1 60 60 = 0) ∧ status u (2 ^ 63 + 2 ^ 56)

namespace Sys2Proof.Claims

/-! ### Words for kernels, queues and contexts -/

/-- No fault record of a kernel is under way to its event's home or waits there (R328). -/
def faultsReceived (s : State) (slot : Nat) (k : Kernel) : Prop :=
  (∀ b ∈ s.bugles, ∀ o ∈ b.2.offers, o.fault ≠ some (k.ctx, slot, k.id)) ∧
    ∀ m ∈ s.net, ∀ o, m.body = .offer o → o.fault ≠ some (k.ctx, slot, k.id)

/-- A kernel is aborted with a cause (R355): its threads that no event claims are FREE, its frames gone. -/
def aborted (s u : State) (slot cause : Nat) : Prop :=
  (∃ k, u.kernel slot = some k ∧ k.st = .aborted ∧ k.cause = cause ∧ ∀ e ∈ k.teams, e.2.st = .placed ∨ e.2.st = .done) ∧
    (∀ p t, compute p → (s.thread p t).slot = slot → (s.thread p t).cell.st ≠ .claimed → (u.thread p t).st = .free) ∧
    (∀ p, (s.core p).slot = some slot → (u.core p).deque = [] ∧ (u.core p).spill = []) ∧
    ∀ k, s.kernel slot = some k → faultsReceived s slot k → u.dram = s.dram

/-- A kernel that has neither completed nor been aborted. -/
def alive (k : Kernel) : Prop := k.st ≠ .complete ∧ k.st ≠ .aborted

/-- A thread as placement makes it (R354). -/
def placedAs (s u : State) (p t slot : Nat) (k : Kernel) (flat : Nat) : Prop :=
  let th := u.thread p t
  th.st = .inRot ∧ th.slot = slot ∧ th.flat = flat ∧ th.regs.pc = BitVec.ofNat 56 (recField k.launch 0 8) ∧
    th.crs.ptime = k.at' ∧ th.crs.fmode = k.fmode ∧ th.crs.lease = BitVec.ofNat 64 (recField k.launch 52 4) ∧
    th.seq = (s.thread p t).seq ∧ th.latch = {} ∧ th.wait = .none ∧ th.jn = 0 ∧
    th.regs.g = (Vector.replicate 32 0).set 30 (if recField k.launch 64 4 = 0 then 0 else
      BitVec.ofNat 64 (recField k.launch 56 8 + (flat + 1) * recField k.launch 64 4))

/-- A team of a kernel. -/
def teamIs (s : State) (slot team : Nat) (x : Team) : Prop :=
  ∃ k, s.kernel slot = some k ∧ alive k ∧ k.teams.find? (fun e => e.1 == team) = some (team, x)

/-- Word `n` of a queue's descriptor (R339), its ring size, and the words of a queue at the host. -/
def qword (q : Queue) (n : Nat) : Word := tget 0 q.desc n
def qsize (q : Queue) : Nat := 2 ^ bits (qword q 0) 23 20
def hostWord (s : State) (a : Nat) : Nat := mread s.host a 8

/-- The queue is on (R341). -/
def qon (q : Queue) : Prop := q.st ≠ .off ∧ q.st ≠ .error

/-- A queue's descriptor keeps the layout of R339. -/
def goodQueue (w : Nat → Word) : Prop :=
  bits (w 0) 19 18 = 0 ∧ bits (w 0) 9 0 = 0 ∧ bits (w 0) 63 48 = 0 ∧ w 7 = 0 ∧ 4 ≤ bits (w 0) 23 20 ∧ 2 ≤ bits (w 0) 17 10 ∧
    bits (w 1) 7 0 = 0 ∧ bits (w 2) 2 0 = 0 ∧ bits (w 3) 2 0 = 0 ∧ bits (w 4) 4 0 = 0 ∧ bits (w 5) 3 0 = 0

/-- A queue's error (R341). -/
def queueErr (s u : State) (n code : Nat) : Prop :=
  (u.queue n).st = .error ∧ (u.queue n).err = code ∧ (u.queue n).copy = none ∧
    ∃ rest, u.panel.msix = bits (qword (s.queue n) 0) 17 10 :: rest

end Sys2Proof.Claims

/-! ### Kernels -/

def Sys2Proof.Claims.LaunchIssue : Prop :=
  ∀ (a : GReg) (s : State), plain s [a] [] = true →
    let x := s.gr a
    let r : BitVec 2048 := BitVec.ofNat 2048 (mread s.myCore.direct x.toNat 256)
    let c := s.checkRecord (s.kernelFrom s.myCore.ctx r) false State.launchPlace s.cur.core s.me.crs.ptime
    let ev : Word := BitVec.ofNat 64 (recField r 176 8)
    let ctl : Word := BitVec.ofNat 64 (recField r 184 8)
    (x.toNat % 256 ≠ 0 → exec (.launch a) s = .next (s.trapMe (.align x))) ∧
    (x.toNat % 256 = 0 → s.myCore.dirG * 32768 < x.toNat + 256 → exec (.launch a) s = .next (s.trapMe (.access x))) ∧
    (x.toNat % 256 = 0 → x.toNat + 256 ≤ s.myCore.dirG * 32768 → noOwn s x.toNat 256 →
      (recField r 192 64 ≠ 0 → ∃ u, exec (.launch a) s = .next u ∧
        (compute s.cur.core → u.me.st = .latched ∧ u.me.latch.trap = 4 ∧ u.me.latch.cause = 65 ∧ u.launches = s.launches)) ∧
      (∀ n s₁, c = .cause s₁ n → exec (.launch a) s = .next (s.trapMe (.access 0 (64 + n)))) ∧
      (∀ s₁, c = .wait s₁ → ∃ u, exec (.launch a) s = .next u ∧ u.misses = s₁.misses ∧ u.launches = s₁.launches ∧
        (s₁.cur = s.cur → u.me.st = .wait ∧ u.me.regs = s₁.me.regs)) ∧
      ∀ s₁ sh rs, c = .ok s₁ sh rs → s₁.cur = s.cur →
        let fine : Prop := ev = 0 ∨
          (goodAlt (levels s₁) ⟨ev, ctl, 0, 0⟩ ∧ bits ev 63 60 = 3 ∧ bits ctl 63 63 = 0 ∧ bits ctl 62 54 ≤ 1)
        (¬ fine → exec (.launch a) s = .next (s.trapMe (.access 0 74))) ∧
        (fine →
          ((∀ j < 16, (tget {} s₁.myCore.journal j).busy = true) → exec (.launch a) s = .next (s.preIssue .journal)) ∧
          ∀ n, firstFree s₁.myCore n → ∃ u q, exec (.launch a) s = .next u ∧ u.me.regs = { s₁.me.regs with pc := s.me.regs.pc + 4 } ∧
            tget {} u.myCore.journal n = storeEntry s₁ (.launch q) [] ∧ q.launch = r ∧ q.shape = sh ∧ q.routes = rs ∧
            q.ctx = s.myCore.ctx ∧ q.slot = s₁.me.slot ∧ q.gtn = s₁.gtn s.cur.core s.cur.thr))

/-- The checks of a launch record (R351), in order: what `fieldCause` and `checkRecord` answer, which LaunchIssue and Lottery use. -/
def Sys2Proof.Claims.RecordChecks : Prop :=
  ∀ (k : Kernel) (queued : Bool) (f : State → Word → EngAt) (core : Nat) (p : Word) (s : State),
    let x (off n : Nat) : Nat := recField k.launch off n
    let lv := x 20 1
    let size (l : Nat) := x (96 + 8 * l) 4
    let dom (l : Nat) := x (100 + 8 * l) 1 % 8
    let msc (l : Nat) := x (100 + 8 * l) 1 / 16 % 8
    let bar (c : Nat) := x (160 + c) 1
    let fev : Word := BitVec.ofNat 64 (x 72 8)
    let zeros : Prop := 16 ≤ x 21 1 ∨ 16 ≤ x 22 1 ∨ x 23 1 ≠ 0 ∨ 2 ^ 21 ≤ x 52 4 ∨ x 70 2 ≠ 0 ∨ x 92 4 ≠ 0 ∨ x 192 64 ≠ 0 ∨
      (∃ l < 8, x (96 + 8 * l) 8 / 2 ^ 39 ≠ 0 ∨ x (96 + 8 * l) 8 / 2 ^ 35 % 2 ≠ 0 ∨ (lv ≤ l ∧ x (96 + 8 * l) 8 ≠ 0)) ∨
      (∃ c < 16, bar c / 8 % 16 ≠ 0 ∨ (bar c < 128 ∧ bar c ≠ 0)) ∨ (queued = true ∧ (x 176 8 ≠ 0 ∨ x 184 8 ≠ 0))
    let levels : Prop := lv = 0 ∨ 8 < lv ∨ ∃ l < lv, size l = 0 ∨ 6 ≤ dom l ∨ (dom l = 0 ∧ (l ≠ 0 ∨ size l ≠ 1)) ∨
      (0 < l ∧ dom l < dom (l - 1)) ∨ msc l = 7 ∨ (msc l ≠ 0 ∧ msc l < dom l)
    let capacity : Prop := ∃ l < lv, [1, 16, 256, 4096, 16384].getD (dom l) 294912 <
      ((List.range (l + 1)).map size).foldl (· * ·) 1
    let fields : Prop := x 0 8 % 4 ≠ 0 ∨ x 16 4 % 4 ≠ 0 ∨ 524288 < x 16 4 ∨ x 48 4 % 64 ≠ 0 ∨ 524288 < x 48 4 + 64 ∨ x 64 4 % 16 ≠ 0 ∨
      x 40 8 % 64 ≠ 0 ∨ x 80 8 % 8 ≠ 0
    let bound : Prop := ∃ c < 16, 128 ≤ bar c ∧ (lv ≤ bar c % 8 ∨ dom (bar c % 8) = 0)
    let service : Prop := bits k.fmode 2 1 = 3 ∨ (bits k.fmode 2 1 = 0 ∧ fev = 0) ∨
      (fev ≠ 0 ∧ (bits fev 63 60 ≠ 3 ∨ 8 ≤ bits fev 59 56 ∨ lv ≤ bits fev 59 56))
    let cause := k.fieldCause queued
    (zeros → cause = 1) ∧ (¬ zeros → levels → cause = 2) ∧ (¬ zeros → ¬ levels → capacity → cause = 3) ∧
    (¬ zeros → ¬ levels → ¬ capacity → fields → cause = 4) ∧ (¬ zeros → ¬ levels → ¬ capacity → ¬ fields → bound → cause = 5) ∧
    (¬ zeros → ¬ levels → ¬ capacity → ¬ fields → ¬ bound → service → cause = 6) ∧
    (¬ zeros → ¬ levels → ¬ capacity → ¬ fields → ¬ bound → ¬ service → cause = 0) ∧
    (cause ≠ 0 → s.checkRecord k queued f core p = .cause s cause) ∧
    (cause = 0 →
      let words (a n : Nat) : List Word := (List.range n).map fun i => BitVec.ofNat 64 (a + 8 * i)
      let shape := s.readWords f k.ctx core p (words (x 40 8) 8)
      (∀ s₁ n a, x 40 8 ≠ 0 → shape = .fault s₁ n a → s.checkRecord k queued f core p = .cause s₁ 8) ∧
      ∀ s₁ vs, x 40 8 ≠ 0 ∧ shape = .ok s₁ vs ∨ x 40 8 = 0 ∧ s₁ = s ∧ vs = [] →
        let v := vs.foldr (fun y acc => acc * 2 ^ 64 + y) 0 % 2 ^ 512
        let z (off n : Nat) : Nat := v / 2 ^ (8 * off) % 2 ^ (8 * n)
        let bad : Prop := vs ≠ [] ∧ (8 ≤ z 8 1 ∨ z 9 1 ≠ 0 ∨ z 40 24 ≠ 0 ∨ lv ≤ z 8 1 % 8 ∨ z 10 2 = 0 ∨ z 12 2 = 0 ∨ z 14 2 = 0)
        (bad → s.checkRecord k queued f core p = .cause s₁ 7) ∧
        (¬ bad →
          let routes := s₁.readWords f k.ctx core p (words (x 80 8) (16 * x 88 4))
          (∀ s₂ n a, x 80 8 ≠ 0 → routes = .fault s₂ n a → s.checkRecord k queued f core p = .cause s₂ 8) ∧
          ∀ s₂ rs, x 80 8 ≠ 0 ∧ routes = .ok s₂ rs ∨ x 80 8 = 0 ∧ s₂ = s₁ ∧ rs = [] →
            let wrong : Prop := (x 80 8 ≠ 0 ∧ ∀ l < lv, dom l ≠ 1) ∨ 18432 < x 88 4 ∨
              ∃ w ∈ rs, 2 ^ 63 ≤ w ∧ (x 88 4 ≤ w / 16 % 2 ^ 15 ∨ k.groupCount ≤ w / 16 % 2 ^ 15)
            (wrong → s.checkRecord k queued f core p = .cause s₂ 9) ∧
            (¬ wrong → s.checkRecord k queued f core p = .ok s₂ (BitVec.ofNat 512 v) (rs.map fun y => BitVec.ofNat 64 y))))

def Sys2Proof.Claims.LaunchesAdmitted : Prop :=
  (∀ (a b : List LaunchReq) (r : LaunchReq) (n : Nat) (s : State), s.launches = a ++ r :: b →
    (∀ x ∈ a, (s.ctx x.ctx).st ≠ .resident) → (s.ctx r.ctx).st = .resident → s.olderLaunch r.ord = false → n < 256 → s.kernel n = none →
    (∀ m < n, s.kernel m ≠ none) → s.panel.adm = none → s.panel.fwdig ≠ none → (∃ d < 72, (s.die d).st = .full) →
    -- a request that its context's FMODE now refuses is gone (log 31)
    ((s.kernelFrom r.ctx r.launch).fieldCause false ≠ 0 → exec .launchAdmission s = .next { s with launches := a ++ b }) ∧
    ((s.kernelFrom r.ctx r.launch).fieldCause false = 0 →
      ∃ u k, exec .launchAdmission s = .next u ∧ u.launches = a ++ b ∧ u.kernel n = some k ∧ (∀ m ≠ n, u.kernel m = s.kernel m) ∧
      k.launch = r.launch ∧ k.shape = r.shape ∧ k.routes = r.routes ∧ k.ctx = r.ctx ∧ k.parent = some (r.slot, r.kid, r.gtn) ∧
      k.queue = none ∧ k.id = s.tick ∧ (k.st = .admitted ∨ k.st = .placing) ∧ r.rt.toNat ≤ k.at'.toNat ∧
      (∀ e ∈ k.teams, e.2.st = .waiting ∧ e.2.since = s.tick ∧ e.2.die ≤ 72) ∧
      (recField r.launch 176 8 = 0 → k.done = none) ∧ u.dram = s.dram)) ∧
  ∀ s : State, (∀ r ∈ s.launches, (s.ctx r.ctx).st = .resident → s.olderLaunch r.ord = true) ∨ s.panel.fwdig = none ∨ s.panel.adm ≠ none →
    exec .launchAdmission s = .next s

def Sys2Proof.Claims.TeamsPlaced : Prop :=
  ∀ (slot team : Nat) (cores : List Nat) (k : Kernel) (x : Team) (s : State), s.kernel slot = some k → alive k →
    k.teams.find? (fun e => e.1 == team) = some (team, x) →
    (k.st ≠ .placing ∨ x.st ≠ .waiting ∨ (x.named = false ∧ bits k.fmode 5 5 = 1) ∨ 72 ≤ x.die ∨ s.placementOk k slot team x.die cores = false →
      exec (.teamPlacement slot team cores) s = .next s) ∧
    (k.st = .placing → x.st = .waiting → x.named = true ∨ bits k.fmode 5 5 = 0 → x.die < 72 → s.placementOk k slot team x.die cores = true →
      (∀ s₁ n va, s.imageRead k slot team (cores.headD 0) = .fault s₁ n va → s₁.kernels = s.kernels →
        ∃ u, exec (.teamPlacement slot team cores) s = .next u ∧ aborted s₁ u slot 21) ∧
      ∀ s₁ image, s.imageRead k slot team (cores.headD 0) = .ok s₁ image →
        (∀ a ∈ cores, ∀ b ∈ cores, s₁.phys a = s₁.phys b → a = b) →
        ∃ u k', exec (.teamPlacement slot team cores) s = .next u ∧ u.kernel slot = some k' ∧
          tget { die := 72 } k'.teams team = { x with st := .placed, cores := cores } ∧
          ((∀ e ∈ k'.teams, e.2.st = .placed ∨ e.2.st = .done) → k'.st = .running) ∧
          ((∃ e ∈ k'.teams, e.2.st = .waiting ∨ e.2.st = .travelling) → k'.st = .placing) ∧
          ∀ g l p, (g, l) ∈ (k.teamGroups team).zip cores → s₁.phys l = some p →
            (u.core p).slot = some slot ∧ (u.core p).kix = g ∧ (u.core p).ctx = k.ctx ∧ (u.core p).deque = [] ∧
              (u.core p).direct = k.storage image ∧ (tget 0 k'.groups g = l) ∧
              ∀ t < k.groupSize g, placedAs s₁ u p t slot k (k.firstFlat g + t))

def Sys2Proof.Claims.TeamsMove : Prop :=
  (∀ (slot team die : Nat) (k : Kernel) (x : Team) (s : State), s.kernel slot = some k → alive k →
    k.teams.find? (fun e => e.1 == team) = some (team, x) →
    let me := (x.since, k.id, team)
    (s.eligible k team die = false ∨ s.advertises k die = false ∨ me ∉ s.stuckTeams x.die → exec (.teamForward slot team die) s = .next s) ∧
    (me ∈ s.stuckTeams x.die → (∀ y ∈ s.stuckTeams x.die, olderTeam y me = false) → die ≠ x.die → s.eligible k team die = true →
      s.advertises k die = true → ∃ u m, exec (.teamForward slot team die) s = .next u ∧
        teamIs u slot team { x with st := .travelling, die := die } ∧ u.net = s.net ++ [m] ∧ m.dst = .kennel die ∧
        m.src = .kennel x.die ∧ m.body = .team slot team)) ∧
  (∀ (i d slot team : Nat) (x : Team) (src : Endp) (s : State), reaches s i src (.kennel d) (.team slot team) →
    ((s.die d).st ≠ .early → (s.die d).st ≠ .full → exec (.teamArrival i) s = .next s) ∧
    ((s.die d).st = .early ∨ (s.die d).st = .full → teamIs s slot team x →
      (x.st = .travelling → x.die = d → ∃ u, exec (.teamArrival i) s = .next u ∧ answers s u i [] ∧
        teamIs u slot team { x with st := .waiting, since := s.tick }) ∧
      (x.st ≠ .travelling ∨ x.die ≠ d → ∃ u, exec (.teamArrival i) s = .next u ∧ answers s u i [] ∧ u.kernels = s.kernels))) ∧
  ∀ (v : Word) (s : State),
    let slot := bits v 39 32
    let team := bits v 31 17
    -- a write that names no WAITING team is ignored, the register as it stands
    (s.kernel slot = none → exec (.placementRegisterWrite v) s = .next s) ∧
    ∀ k, s.kernel slot = some k → alive k →
      (k.teams.find? (fun e => e.1 == team) = none → exec (.placementRegisterWrite v) s = .next s) ∧
      ∀ x, k.teams.find? (fun e => e.1 == team) = some (team, x) →
        (x.st ≠ .waiting → exec (.placementRegisterWrite v) s = .next s) ∧
        (x.st = .waiting → s.eligible k.bound team (bits v 6 0) = true → ∃ u, exec (.placementRegisterWrite v) s = .next u ∧
          u.panel.place = BitVec.ofNat 64 (bits v 39 17 * 2 ^ 17 + bits v 6 0) ∧
          teamIs u slot team { x with die := bits v 6 0, since := s.tick, named := true }) ∧
        (x.st = .waiting → s.eligible k.bound team (bits v 6 0) = false → ∃ u, exec (.placementRegisterWrite v) s = .next u ∧
          u.panel.place = s.panel.place ∧ u.kernels = s.kernels ∧
          ∃ r, (u.ctx k.ctx).recs = (s.ctx k.ctx).recs ++ [r] ∧ bits r.w1 63 59 = 20)

/-- A kernel sinks when its cores are idle, completes with its record or event, and aborts (R346, R347, R355, R357). -/
def Obligations.KernelsEnd : Prop :=
  ∀ (slot : Nat) (k : Kernel) (s : State), s.kernel slot = some k →
    -- R354
    (k.st ≠ .running ∨ (∃ p ∈ s.coresOf slot, (s.core p).idle = false) → exec (.kernelSink slot) s = .next s) ∧
    (k.st = .running → (∀ p ∈ s.coresOf slot, (s.core p).idle = true ∧ (s.core p).deque = [] ∧ (s.core p).spill = [] ∧
        (s.core p).moveTo = none) → s.requestsOpen slot = false →
      ∃ u, exec (.kernelSink slot) s = .next u ∧ u.kernel slot = some { k with st := .sinking }) ∧
    -- R346, R347
    (k.st ≠ .sinking → k.st ≠ .aborted → exec (.kernelComplete slot) s = .next s) ∧
    (s.writesDone slot = false → exec (.kernelComplete slot) s = .next s) ∧
    -- a queue's records go out in the order of finishing, and over the CXL port
    (s.finishedBefore k = true ∨ (k.queue ≠ none ∧ s.hostUp = false) → exec (.kernelComplete slot) s = .next s) ∧
    (k.st = .sinking ∨ k.st = .aborted → s.writesDone slot = true → s.finishedBefore k = false → (k.queue ≠ none → s.hostUp = true) →
      (∀ q n, k.queue = some (q, n) →
        let d := s.queue q
        let at' := (qword d 4).toNat + 32 * (d.compl % qsize d)
        let out := if k.st = .aborted then 1 else 0
        ∃ u, exec (.kernelComplete slot) s = .next u ∧ u.kernel slot = none ∧ (u.queue q).compl = d.compl + 1 ∧
          u.panel.msix = bits (qword d 0) 17 10 :: s.panel.msix ∧
          (∀ p, (s.core p).slot = some slot → (u.core p).slot = none ∧ (u.core p).leaves = []) ∧
          (n < 2 ^ 64 → (qword d 5).toNat + 8 ≤ at' ∨ at' + 32 ≤ (qword d 5).toNat →
            hostWord u at' = n ∧ hostWord u (at' + 8) = out * 2 ^ 62 + k.cause % 64 * 2 ^ 56 + k.athr % 2 ^ 19 ∧
              hostWord u (at' + 16) = k.apc.toNat ∧ hostWord u (at' + 24) = (s.die 0).time.toNat ∧
              hostWord u (qword d 5).toNat = (d.compl + 1) % 2 ^ 64)) ∧
      -- R357
      (∀ key ctl pslot pid gtn p, faultsReceived s slot k → k.queue = none → k.done = some (key, ctl) → k.parent = some (pslot, pid, gtn) →
        s.kernel pslot = some p → p.id = pid → ∃ u m, exec (.kernelComplete slot) s = .next u ∧ u.net = s.net ++ [m] ∧
          m.src = .kennel (gtn / 4096) ∧ ∃ o, m.body = .offer o ∧ o.key = key ∧ o.ctl = ctl ∧ o.who = .engine) ∧
      (faultsReceived s slot k → k.queue = none → k.done = none ∨ (∃ pslot pid gtn, k.parent = some (pslot, pid, gtn) ∧ s.kernel pslot = none) →
        ∃ u, exec (.kernelComplete slot) s = .next u ∧ u.kernel slot = none ∧ u.net = s.net) ∧
      -- R328: a fault record that the ended kernel has not received goes to the host's ring
      (∀ m o, k.queue = none → k.done = none → s.bugles = [] → s.net = [m] → m.body = .offer o → o.fault = some (k.ctx, slot, k.id) →
        ∃ u r, exec (.kernelComplete slot) s = .next u ∧ u.net = [] ∧ (u.ctx k.ctx).recs = (s.ctx k.ctx).recs ++ [r] ∧
          r.w0.toNat + r.w1.toNat * 2 ^ 64 + r.w2.toNat * 2 ^ 128 + r.w3.toNat * 2 ^ 192 = o.data % 2 ^ 256)) ∧
    -- R355
    (∀ cause, cause ≠ 18 → exec (.kernelAbort slot cause) s = .next s) ∧
    (k.st = .admitted → (∃ e ∈ k.teams, e.2.die = 72) → ∃ u, exec (.kernelAbort slot 18) s = .next u ∧ aborted s u slot 18) ∧
    (k.st = .running ∨ k.st = .sinking → exec (.kernelAbort slot 18) s = .next s)

/-! ### Queues -/

def Sys2Proof.Claims.QueuesWritten : Prop :=
  ∀ (n : Nat) (d : List Word) (s : State),
    let q := s.queue n
    -- words that this access leaves out stand as written before
    let w (i : Nat) : Word := d.getD i (qword q i)
    let v : Prop := bits (qword q 0) 31 31 = 1
    (1024 ≤ n → exec (.queueEnable n d) s = .next s) ∧
    (n < 1024 → bits (w 0) 31 31 = 0 → ∃ u, exec (.queueEnable n d) s = .next u ∧
      (v → (u.queue n).st = .off ∧ bits (qword (u.queue n) 0) 31 31 = 0 ∧ (u.queue n).copy = none ∧ (u.queue n).head = q.head) ∧
      (¬ v → (∀ i < 8, i ≠ 6 → qword (u.queue n) i = w i) ∧ u.queue n = { q with desc := (u.queue n).desc })) ∧
    (n < 1024 → bits (w 0) 31 31 = 1 →
      -- while V = 1 only TICK changes
      (v → (¬ goodQueue w → exec (.queueEnable n d) s = .next s) ∧
        (goodQueue w → (∀ e ∈ s.queues, e.1 ≠ n → bits (qword e.2 0) 29 24 ≠ bits (w 0) 29 24) → ∃ u, exec (.queueEnable n d) s = .next u ∧ bits (qword (u.queue n) 0) 47 32 = bits (w 0) 47 32 ∧
          bits (qword (u.queue n) 0) 31 0 = bits (qword q 0) 31 0 ∧ (u.queue n).head = q.head ∧ (u.queue n).st = q.st)) ∧
      (¬ v → (¬ goodQueue w → exec (.queueEnable n d) s = .next s) ∧
        (goodQueue w → (∀ e ∈ s.queues, e.1 ≠ n → bits (qword e.2 0) 29 24 ≠ bits (w 0) 29 24) →
          ∃ u, exec (.queueEnable n d) s = .next u ∧ (∀ i < 8, i ≠ 6 → qword (u.queue n) i = w i) ∧ (u.queue n).head = 0 ∧
            if s.hostUp = false then (u.queue n).st = .empty ∧ (u.queue n).copy = none
            else if Config.hostRefuses s.tick = true then (u.queue n).st = .error ∧ (u.queue n).err = 3
            else (hostWord s (w 2).toNat = 0 → (u.queue n).st = .empty ∧ (u.queue n).copy = none) ∧
              (2 ^ bits (w 0) 23 20 < hostWord s (w 2).toNat → (u.queue n).st = .error ∧ (u.queue n).err = 2) ∧
              (0 < hostWord s (w 2).toNat → hostWord s (w 2).toNat ≤ 2 ^ bits (w 0) 23 20 →
                (u.queue n).copy = some (BitVec.ofNat 2048 (mread s.host (w 1).toNat 256)))))) ∧
    (v → ∃ u, exec (.queueDisable n) s = .next u ∧ (u.queue n).st = .off ∧ bits (qword (u.queue n) 0) 31 31 = 0 ∧
      (u.queue n).copy = none ∧ (u.queue n).head = q.head) ∧
    (¬ v → exec (.queueDisable n) s = .next s) ∧
    (∀ x : BitVec 32, (1024 ≤ n ∨ 2 ^ 16 ≤ x.toNat → exec (.queueTickWrite n x) s = .next s) ∧
      (n < 1024 → x.toNat < 2 ^ 16 → ∃ u, exec (.queueTickWrite n x) s = .next u ∧
        bits (qword (u.queue n) 0) 47 32 = x.toNat ∧ bits (qword (u.queue n) 0) 31 0 = bits (qword q 0) 31 0)) ∧
    (∀ x : BitVec 32, ∃ u, exec (.generatorSeedWrite x) s = .next u ∧ u.panel.x = (if x = 0 then 1 else x) ∧ u.queues = s.queues) ∧
    -- the host's store of a tail
    ∀ (a : Nat) (bs : List Byte), (∃ u, exec (.tailLineInvalidation a bs) s = .next u ∧
      (∀ i < bs.length, mget u.host (a + i) = bs.getD i 0) ∧ ∀ x, x < a ∨ a + bs.length ≤ x → mget u.host x = mget s.host x) ∧
      (s.queues = [(n, q)] → qon q → s.hostUp = true → bs.length = 8 → (qword q 2).toNat = a → a % 8 = 0 →
        ∃ u, exec (.tailLineInvalidation a bs) s = .next u ∧
          if Config.hostRefuses s.tick = true then queueErr s u n 3
          else (leNat bs < q.head → queueErr s u n 1) ∧ (q.head + qsize q < leNat bs → queueErr s u n 2) ∧
            (q.head ≤ leNat bs → leNat bs ≤ q.head + qsize q → (u.queue n).tail = leNat bs ∧ (u.queue n).st = q.st))

def Sys2Proof.Claims.Lottery : Prop :=
  -- nothing is drawn ahead of a `launch` request of a RESIDENT context
  (∀ s : State, s.panel.adm = none → (∃ r ∈ s.launches, (s.ctx r.ctx).st = .resident) → exec .lotteryDraw s = .next s) ∧
  -- nor while no Umator image runs, nor over a CXL port that carries nothing
  (∀ s : State, s.panel.adm = none → s.hostUp = false → exec .lotteryDraw s = .next s) ∧
  (∀ (n : Nat) (s : State), s.panel.fwdig = none → s.ready n = false) ∧
  -- one queue READY, an image running and the admission unit empty: its record goes to the admission unit and HEAD passes on; the record is
  -- checked as one that stands there (below)
  (∀ (n : Nat) (q : Queue) (r : BitVec 2048) (s : State), s.panel.adm = none → s.launches = [] → s.hostUp = true → s.queues = [(n, q)] →
    s.ready n = true → q.copy = some r → q.tail = q.head + 1 →
    let a := s.panel.x ^^^ (s.panel.x <<< 13)
    let b := a ^^^ (a >>> 17)
    let x := b ^^^ (b <<< 5)
    let c := bits (qword q 0) 29 24
    let drawn : State := { s with queues := [(n, { q with head := q.head + 1, copy := none })],
                                  host := mwrite s.host (qword q 3).toNat 8 (q.head + 1),
                                  panel := { s.panel with x := x, adm := some (n, q.head, c, r) } }
    s.panel.fwdig ≠ none ∧ exec .lotteryDraw s = exec .lotteryDraw drawn ∧
    -- so a record that names no block in memory and that no check refuses is admitted at once
    ∀ slot, (s.kernelFrom c r).fieldCause true = 0 → recField r 40 8 = 0 → recField r 80 8 = 0 → recField r 88 4 ≤ 18432 →
      slot < 256 → s.kernel slot = none → (∀ m < slot, s.kernel m ≠ none) →
      ∃ u k, exec .lotteryDraw s = .next u ∧ u.panel.adm = none ∧ u.panel.x = x ∧ (u.queue n).head = q.head + 1 ∧
        (u.queue n).copy = none ∧ hostWord u (qword q 3).toNat = (q.head + 1) % 2 ^ 64 ∧ u.kernel slot = some k ∧ k.launch = r ∧
        k.queue = some (n, q.head) ∧ k.ctx = c ∧ (k.st = .admitted ∨ k.st = .placing)) ∧
  -- a record in the admission unit
  ∀ (n i c : Nat) (r : BitVec 2048) (s : State), s.panel.adm = some (n, i, c, r) → s.panel.fwdig ≠ none →
    let k := s.kernelFrom c r
    let check := s.checkRecord k true (fun s va => (s.engPlace (bankOf 0) (.kennel (2 ^ 41 + n)) 0 c 0 256 0 0 needLd va 8).reached s (siteOfDie 0)) 0 s.wtsBound
    (∀ s₁ x, check = .cause s₁ x → s₁.hostUp = true → x < 64 → i < 2 ^ 64 → (qword (s₁.queue n) 5).toNat + 8 ≤ (qword (s₁.queue n) 4).toNat →
      ∃ u, exec .lotteryDraw s = .next u ∧ u.panel.adm = none ∧ u.kernels = s₁.kernels ∧
        hostWord u ((qword (s₁.queue n) 4).toNat + 32 * ((s₁.queue n).compl % qsize (s₁.queue n)) + 8) = 2 * 2 ^ 62 + x * 2 ^ 56) ∧
    (∀ s₁, check = .wait s₁ → exec .lotteryDraw s = .next s₁) ∧
    ∀ s₁ sh rs slot, check = .ok s₁ sh rs → slot < 256 → s₁.kernel slot = none → (∀ m < slot, s₁.kernel m ≠ none) →
      ∃ u k', exec .lotteryDraw s = .next u ∧ u.panel.adm = none ∧ u.kernel slot = some k' ∧ k'.launch = r ∧ k'.queue = some (n, i) ∧
        k'.ctx = c ∧ k'.shape = sh ∧ k'.routes = rs ∧ (k'.st = .admitted ∨ k'.st = .placing) ∧ s₁.wtsBound.toNat ≤ k'.at'.toNat

namespace Sys2Proof.Claims

/-! ### Words for contexts, moves, links and service -/

/-- Word `n` of a descriptor has zeros where R323 gives zeros. -/
def goodWord (n : Nat) (w : Word) : Prop :=
  (n = 0 → bits w 62 38 = 0) ∧ (n = 1 → bits w 63 43 = 0) ∧ (n = 7 → w = 0) ∧ (n = 8 → bits w 63 48 = 0) ∧ (9 ≤ n → w = 0)

/-- No fault record of a context is under way to a service's event, waits there or is being delivered (R324). -/
def noRecords (s : State) (c : Nat) : Prop :=
  (∀ b ∈ s.bugles, ∀ o ∈ b.2.offers, o.fault.map Prod.fst ≠ some c) ∧
    (∀ b ∈ s.bugles, ∀ e ∈ b.2.evs, ∀ ps x y z, e.st = .occurring ps x y z → ∀ o ∈ ps, o.fault.map Prod.fst ≠ some c) ∧
    ∀ m ∈ s.net, ∀ o, m.body = .offer o → o.fault.map Prod.fst ≠ some c

/-- The context receives one record of a kind in its ring (R328). -/
def ringTold (s u : State) (c kind : Nat) : Prop := ∃ r, (u.ctx c).recs = (s.ctx c).recs ++ [r] ∧ bits r.w1 63 59 = kind

/-- PRECMD as R336 allows it. -/
def goodCmd (op : Nat) (v : Word) : Prop :=
  bits v 63 62 = op ∧ bits v 14 0 < 18432 ∧ (bits v 22 16 < 72 ∨ bits v 22 16 = 127) ∧ bits v 61 23 = 0 ∧ bits v 15 15 = 0

/-- PRESTAT (R336): BUSY, FAILED and the logical core. -/
def prestatIs (u : State) (busy failed : Nat) (l : Nat) : Prop :=
  u.panel.prestat = BitVec.ofNat 64 (busy * 2 ^ 63 + failed * 2 ^ 62 + l)

/-- A link's state at both its numbers (R372). -/
def linkIs (u : State) (n : Nat) (st : LinkSt) (lanes : Nat) : Prop :=
  (u.link n).st = st ∧ (u.link n).lanes = lanes ∧ ∀ m, otherEnd n = some m → (u.link m).st = st ∧ (u.link m).lanes = lanes

/-- A message of a class waits at a site's output port for the next hop. -/
def portWaits (s : State) (site port : Nat) (c : MCls) : Prop :=
  ∃ m ∈ s.net, m.pos = site ∧ m.site ≠ site ∧ m.cls = c ∧ (hopBy s.routes site m.site m.lvl).1 = port

/-- The port answers a request (R387): cause 0 and data, or the cause of a refusal. -/
def replied (u : State) (cause data : Nat) : Prop := u.panel.answer = (cause, data)

/-- Word `i` of pod window `w` (R387). -/
def podAt (s : State) (w i : Nat) : Word := tget 0 s.panel.conf (0x2000 + 32 * w + 8 * i)

/-- Window `w` covers a pod address, and no lower one does. -/
def coveredBy (s : State) (a w : Nat) : Prop :=
  let has (v : Nat) : Prop := bits (podAt s v 3) 31 31 = 1 ∧ (podAt s v 0).toNat % 65536 = 0 ∧ (podAt s v 1).toNat % 65536 = 0 ∧
    (podAt s v 0).toNat ≤ a ∧ a < (podAt s v 0).toNat + (podAt s v 1).toNat
  w < 64 ∧ has w ∧ ∀ v < w, ¬ has v

end Sys2Proof.Claims

/-! ### Contexts -/

def Sys2Proof.Claims.ContextLife : Prop :=
  ∀ (c : Nat) (s : State),
    let x := s.ctx c
    let w (n : Nat) : Word := tget 0 x.desc n
    (64 ≤ c ∨ x.st ≠ .absent ∨ (∃ n < 16, ¬ goodWord n (w n)) → exec (.contextEnable c) s = .next s) ∧
    (c < 64 → x.st = .absent → (∀ n < 16, goodWord n (w n)) → ∃ u, exec (.contextEnable c) s = .next u ∧ (u.ctx c).st = .resident ∧
      bits (tget 0 (u.ctx c).desc 0) 63 63 = 1 ∧ bits (tget 0 (u.ctx c).desc 0) 62 0 = bits (w 0) 62 0 ∧
      ∀ n, n ≠ 0 → tget 0 (u.ctx c).desc n = w n) ∧
    (x.st ≠ .resident → exec (.contextDisable c) s = .next s) ∧
    (x.st = .resident → ∃ u, exec (.contextDisable c) s = .next u ∧ (u.ctx c).st = .closing ∧
      bits (tget 0 (u.ctx c).desc 0) 63 63 = 0 ∧ (u.ctx c).recs = x.recs ∧ u.kernels = s.kernels) ∧
    (x.st ≠ .closing ∨ (∃ e ∈ s.kernels, e.2.ctx = c) ∨ x.recs ≠ [] ∨ s.ctxEngines c = true ∨ ¬ noRecords s c → exec (.contextClosed c) s = .next s) ∧
    (x.st = .closing → (∀ e ∈ s.kernels, e.2.ctx ≠ c) → x.recs = [] → s.ctxEngines c = false → noRecords s c → s.panel.adm = none →
      ∃ u, exec (.contextClosed c) s = .next u ∧ (u.ctx c).st = .absent ∧ (∀ r ∈ u.launches, r.ctx ≠ c) ∧
        (∀ k e, e ∈ (u.stack k).tlb → bits e.w0 60 55 ≠ c) ∧ (∀ k e, e ∈ (u.cluster k).tlb → bits e.w0 60 55 ≠ c) ∧
        ∀ k e, e ∈ (u.core k).ca.tlb → bits e.w0 60 55 ≠ c) ∧
    (∀ (off : Nat) (v : Word),
      let n := off / 8
      (64 ≤ c ∨ 128 ≤ off ∨ off % 8 ≠ 0 ∨ (x.st = .resident ∧ n = 1) ∨ ¬ goodWord n v →
        exec (.contextDescriptorWrite c off v) s = .next s) ∧
      (c < 64 → off < 128 → off % 8 = 0 → goodWord n v → (x.st ≠ .resident ∨ n ≠ 1) →
        ∃ u, exec (.contextDescriptorWrite c off v) s = .next u ∧ (∀ m, m ≠ n → tget 0 (u.ctx c).desc m = w m) ∧
          (n ≠ 0 → tget 0 (u.ctx c).desc n = v) ∧
          (n = 0 → bits (tget 0 (u.ctx c).desc 0) 62 0 = bits v 62 0 ∧
            bits (tget 0 (u.ctx c).desc 0) 63 63 = bits (w 0) 63 63) ∧ (u.ctx c).st = x.st)) ∧
    -- the fault ring
    (x.recs = [] ∨ s.hostUp = false → exec (.faultRingWrite c) s = .next s) ∧
    (∀ r rest, x.recs = r :: rest → c < 64 → s.hostUp = true →
      let f := (w 6).toNat
      (hostWord s (f + 8200) + 256 ≤ x.recN → exec (.faultRingWrite c) s = .next s) ∧
      (x.recN < hostWord s (f + 8200) + 256 → ∃ u, exec (.faultRingWrite c) s = .next u ∧ (u.ctx c).recs = rest ∧
        (u.ctx c).recN = x.recN + 1 ∧ u.panel.msix = 1 :: s.panel.msix ∧ hostWord u (f + 8192) = (x.recN + 1) % 2 ^ 64 ∧
        hostWord u (f + 32 * (x.recN % 256)) = r.w0.toNat ∧ hostWord u (f + 32 * (x.recN % 256) + 8) = r.w1.toNat ∧
        hostWord u (f + 32 * (x.recN % 256) + 16) = r.w2.toNat ∧ hostWord u (f + 32 * (x.recN % 256) + 24) = r.w3.toNat))

def Sys2Proof.Claims.HostAcks : Prop :=
  ∀ (v : Word) (s : State), ∀ row ∈ [(0, Instr.hostFackResume v), (1, .hostFackSkip v), (2, .hostFackKill v)],
    (bits v 63 30 ≠ 0 ∨ bits v 27 27 ≠ 0 ∨ bits v 29 28 ≠ row.1 → exec row.2 s = .next s) ∧
    (bits v 63 30 = 0 → bits v 27 27 = 0 → bits v 29 28 = row.1 → ∃ u m, exec row.2 s = .next u ∧ u.panel.fack = v ∧
      u.net = s.net ++ [m] ∧ m.src = .host ∧ m.dst = .core (bits v 18 0 / 16) ∧
      m.body = .fack row.1 (BitVec.ofNat 8 (bits v 26 19)) (bits v 18 0) s.panel.hostWts (some (256, 0)))

/-! ### Debugger, moves, machine checks -/

/-- What STOPCMD does with the thread that it names: a stop at once, or at the stop point that its state gives; a resume of a STOPPED thread; its
kill. While the thread's core is being moved, the command waits at the forwarding entry (R32, R404). -/
def Sys2Proof.Claims.DebugCommands : Prop :=
  ∀ (g p t : Nat) (s : State), s.whereIs g = some (p, t) → g < 2 ^ 19 →
    let th := s.thread p t
    let cmd (u : State) (op : Nat) : Prop := bits u.panel.stopcmd 63 62 = op ∧ bits u.panel.stopcmd 18 0 = g
    ((s.core p).moveTo ≠ none → ∀ row ∈ [(0, Instr.stopcmdStop g), (1, .stopcmdResume g), (2, .stopcmdKill g)],
      ∃ u, exec row.2 s = .next u ∧ cmd u row.1 ∧ u.cores = s.cores ∧ u.panel.held = s.panel.held ++ [(row.1, g)]) ∧
    ((s.core p).moveTo = none →
      (∃ u, exec (.stopcmdStop g) s = .next u ∧ cmd u 0 ∧
        (th.st = .inRot → th.stopReq = none → u.thread p t = { th with stopReq := some 2 }) ∧
        (th.st = .wait → (∃ d alts sent, th.wait = .sync d alts sent) ∨ (∃ c b, th.wait = .barw c b) ∨ (∃ d, th.wait = .token d) ∨
            (∃ q, th.wait = .chainIn q) ∨ (∃ q, th.wait = .chainOut q) ∨ th.wait = .journal ∨ (∃ a, th.wait = .held a) ∨
            (∃ e, th.wait = .heldPosted e) ∨ (∃ r a, th.wait = .load r ∧ r.kind = .lookup (.held a)) →
          u.thread p t = { th with st := .stopped, prior := .wait, stopReq := none, passBp := th.wait.preIssue } ∧
            u.panel.stopcnt = s.panel.stopcnt + 1 ∧ u.panel.msix = 0 :: s.panel.msix) ∧
        (th.st = .wait → (∃ r, th.wait = .load r ∧ ∀ a, r.kind ≠ .lookup (.held a)) ∨ th.wait = .matrix ∨
            (∃ d a n un, th.wait = .pin d a n un) ∨ (∃ d c, th.wait = .release d c) → th.stopReq = none →
          u.thread p t = { th with stopReq := some 2 }) ∧
        (th.st = .free ∨ th.st = .latched ∨ th.st = .stopped → u.thread p t = th)) ∧
      (∃ u, exec (.stopcmdResume g) s = .next u ∧ cmd u 1 ∧
        (th.st = .stopped → u.thread p t = { th with st := th.prior }) ∧ (th.st ≠ .stopped → u.thread p t = th)) ∧
      ∃ u, exec (.stopcmdKill g) s = .next u ∧ cmd u 2 ∧
        (th.st = .stopped → th.cell.st ≠ .claimed → (u.thread p t).st = .free ∧ (u.thread p t).seq = th.seq) ∧
        (th.st ≠ .stopped → u.thread p t = th)) ∧
  ∀ g, s.whereIs g = none → ∀ i ∈ [Instr.stopcmdStop g, .stopcmdResume g, .stopcmdKill g],
    ∃ u, exec i s = .next u ∧ u.cores = s.cores ∧ u.panel.held = s.panel.held ∧ bits u.panel.stopcmd 18 0 = g % 2 ^ 19

def Sys2Proof.Claims.CoresMove : Prop :=
  -- freeze; a Setter core goes to a FREE core of its die (log 72)
  (∀ (p q : Nat) (s : State), s.cmdIdle = false →
    ((s.core p).idle = true ∨ (s.core p).moveTo ≠ none → exec (.preemptionFreeze p q) s = .next s) ∧
    ((s.core p).idle = false → (s.core p).moveTo = none →
      (compute p → s.logical p ≠ none → s.cmdFor p = none → s.canReceive q = false → s.anyFree 127 = true →
        exec (.preemptionFreeze p q) s = .next s) ∧
      (s.canReceive q = true →
        (compute p ∧ s.logical p ≠ none ∧ (∀ v, s.cmdFor p = some v → bits v 22 16 = 127 ∨ bits v 22 16 = dieOf q)) ∨
          (isSetter p = true ∧ dieOf q = dieOf p) →
        ∃ u, exec (.preemptionFreeze p q) s = .next u ∧ (u.core p).moveTo = some q ∧ u.dram = s.dram ∧ (u.core p).ca.stash = [] ∧
          (u.core p).ca.l1 = [] ∧ (u.core p).ca.tlb = [] ∧ (u.core p).direct = (s.core p).direct ∧
          ∀ t, ((s.thread p t).st = .free → u.thread p t = s.thread p t) ∧
            ((s.thread p t).st ≠ .free → u.thread p t = { s.thread p t with st := .frozen, prior2 := (s.thread p t).st })) ∧
      -- the Kennel finds no core FREE
      (compute p → s.logical p ≠ none → s.cmdFor p = none → s.anyFree 127 = false → (∀ t, (s.thread p t).cell.st ≠ .claimed) →
        ∃ u, exec (.preemptionFreeze p q) s = .next u ∧ (u.core p).retired = true ∧ (∀ l, s.logical p = some l → u.phys l = none) ∧
          ∀ t, (u.thread p t).st = .free))) ∧
  -- a command whose core has nothing to move ends
  (∀ (p q : Nat) (s : State), s.cmdIdle = true → s.panel.prewait = [] → ∃ u, exec (.preemptionFreeze p q) s = .next u ∧
    prestatIs u 0 0 (bits s.panel.precmd 14 0) ∧ u.panel.msix = 0 :: s.panel.msix) ∧
  -- the receiving core takes the contexts and the number
  (∀ (p q l : Nat) (s : State), p ≠ q → (s.core p).moveTo = some q → s.logical p = some l → s.logical q ≠ some l → l < 18432 →
    s.panel.prewait = [] → s.panel.held = [] → (s.die (dieOf q)).st = .full → (s.core p).ca.stash = [] →
    (s.busy = false ∨ (s.core p).moveCmd = true) →
    -- while a copy's write to the core's direct storage is under way, it waits (R280)
    ((∃ m ∈ s.net, m.isCopyPort = true ∧ m.phys = p ∧ m.dst = .core l) → exec (.preemptionAck p) s = .next s) ∧
    ((∀ m ∈ s.net, m.isCopyPort = true → m.phys = p → m.dst ≠ .core l) → ∃ u, exec (.preemptionAck p) s = .next u ∧ u.phys l = some q ∧
      (u.core q).direct = (s.core p).direct ∧ (u.core q).slot = (s.core p).slot ∧ (u.core q).ctx = (s.core p).ctx ∧
      (u.core q).moveTo = none ∧ (u.core q).ca = {} ∧ (u.core p).idle = true ∧
      -- posted stores in flight complete from the vacated core (R250)
      (∀ i, let e := tget {} (s.core p).journal i
        e.busy = true → e.kind = .store → e.site = none → tget {} (u.core q).journal i = { e with site := some p }) ∧
      ∀ t, (u.thread p t).st = .free ∧ (u.thread p t).seq = (s.thread p t).seq ∧
        ((∀ r f a b c, (s.thread p t).wait = .load r → r.kind ≠ .strict f a b c) → (s.thread p t).st = .frozen →
          u.thread q t = { s.thread p t with st := (s.thread p t).prior2 }))) ∧
  -- another core, or none
  (∀ (p q d : Nat) (s : State), (s.core p).moveTo = some q → s.logical p ≠ none → d ≠ q → s.canReceive d = true →
    ((s.core p).moveCmd = true → bits s.panel.precmd 22 16 = 127 ∨ bits s.panel.precmd 22 16 = dieOf d) →
    ∃ u, exec (.preemptionStreamFailure p (some d)) s = .next u ∧ (u.core p).moveTo = some d ∧ u.net = s.net ∧
      ∀ t, u.thread p t = s.thread p t) ∧
  (∀ (p q slot : Nat) (k : Kernel) (s : State), compute p → (s.core p).moveTo = some q → s.logical p ≠ none → s.busy = false →
    (∀ d < 19584, d ≠ q → s.canReceive d = false) → (s.core p).slot = some slot → s.kernel slot = some k → alive k →
    bits k.fmode 2 1 ≠ 1 → faultsReceived s slot k → (∀ t, (s.thread p t).cell.st ≠ .claimed) →
    ∃ u, exec (.preemptionStreamFailure p none) s = .next u ∧ (∀ t, (u.thread p t).st = .free) ∧
      (∃ k', u.kernel slot = some k' ∧ k'.st = .aborted ∧ k'.cause = 19) ∧ ringTold s u (s.core p).ctx 18) ∧
  -- forwarding
  ∀ (k l q : Nat) (m : Msg) (s : State), s.net[k]? = some m → m.dst = .core l → s.phys l = some q →
    (m.phys = q ∨ m.pos ≠ m.site ∨ (s.core m.phys).moveTo ≠ none → exec (.forwardingEntryArrival k) s = .next s) ∧
    (m.phys ≠ q → m.pos = m.site → (s.core m.phys).moveTo = none → ∃ u, exec (.forwardingEntryArrival k) s = .next u ∧
      u.cores = s.cores ∧
      ((∀ r e, m.body ≠ .chain r e) → u.net = s.net.set k { m with phys := q, site := siteOfDie (dieOf q) }) ∧
      -- a chain entry counts the routers and networks that it now crosses besides (R335, R391)
      ∀ r e, m.body = .chain r e → u.net = s.net.set k { m with phys := q, site := siteOfDie (dieOf q), body := .chain r { e with
        hops := e.hops + spareHop q + (if dieOf m.phys = dieOf q then 0 else s.routers (siteOfDie (dieOf m.phys)) (siteOfDie (dieOf q)) + 1) } })

def Sys2Proof.Claims.MoveCommands : Prop :=
  ∀ (op : Nat) (v : Word) (s : State), ∀ i ∈ (if op = 1 then [Instr.precmdPreempt v] else if op = 2 then [.precmdRetire v] else []),
    let l := bits v 14 0
    (¬ goodCmd op v → exec i s = .next s) ∧
    (goodCmd op v →
      (bits s.panel.prestat 63 63 = 1 → ∃ u, exec i s = .next u ∧ u.panel.prewait = s.panel.prewait ++ [v] ∧
        u.panel.precmd = s.panel.precmd ∧ u.cores = s.cores) ∧
      (bits s.panel.prestat 63 63 = 0 →
        (s.phys l = none → ∃ u, exec i s = .next u ∧ prestatIs u 0 0 l ∧ u.panel.precmd = v ∧
          u.panel.msix = 0 :: s.panel.msix ∧ u.cores = s.cores) ∧
        -- its Kennel moves the core already: the command waits for that move (R333)
        (∀ p, s.phys l = some p → (s.core p).moveTo ≠ none → ∃ u, exec i s = .next u ∧ prestatIs u 1 0 l ∧ u.panel.precmd = v ∧
          u.panel.prewait = [] ∧ u.cores = s.cores) ∧
        (∀ p, s.phys l = some p → (s.core p).moveTo = none →
          ((s.core p).idle = true → ∃ u, exec i s = .next u ∧ prestatIs u 0 0 l ∧ u.panel.msix = 0 :: s.panel.msix ∧
            (op = 2 → (u.core p).retired = true ∧ u.phys l = none) ∧ (op = 1 → u.phys l = some p)) ∧
          ((s.core p).idle = false → s.anyFree (bits v 22 16) = true → ∃ u, exec i s = .next u ∧ prestatIs u 1 0 l ∧
            u.panel.precmd = v ∧ u.panel.prewait = [] ∧ u.cores = s.cores) ∧
          ((s.core p).idle = false → compute p → s.anyFree (bits v 22 16) = false → (∀ t, (s.thread p t).cell.st ≠ .claimed) →
            ∃ u, exec i s = .next u ∧ prestatIs u 0 1 l ∧ ∀ t, (u.thread p t).st = .free))))

def Sys2Proof.Claims.MachineChecks : Prop :=
  (∀ (p slot : Nat) (k : Kernel) (s : State),
    (isSetter p = true ∨ (s.core p).idle = true ∨ (s.core p).moveTo ≠ none → exec (.machineCheck (.coreState p)) s = .next s) ∧
    (compute p → (s.core p).idle = false → (s.core p).moveTo = none → (s.core p).slot = some slot → s.kernel slot = some k → alive k →
      bits k.fmode 2 1 ≠ 1 → faultsReceived s slot k → (∀ t, (s.thread p t).cell.st ≠ .claimed) →
      ∃ u, exec (.machineCheck (.coreState p)) s = .next u ∧ (∀ t, (u.thread p t).st = .free) ∧ aborted s u slot 17 ∧
        ringTold s u (s.core p).ctx 18)) ∧
  (∀ (p n slot : Nat) (k : Kernel) (s : State), (s.core p).slot = some slot → s.kernel slot = some k → alive k →
    ((s.core p).deque.length + (s.core p).spill.length ≤ n → exec (.machineCheck (.dequeEntry p n)) s = .next s) ∧
    (n < (s.core p).deque.length + (s.core p).spill.length → bits k.fmode 2 1 ≠ 1 → faultsReceived s slot k →
      ∃ u, exec (.machineCheck (.dequeEntry p n)) s = .next u ∧ aborted s u slot 20 ∧ ringTold s u k.ctx 18)) ∧
  -- an uncorrectable mismatch of data on their path poisons their line (R400)
  (∀ (l : Nat) (s : State), ∃ u, exec (.machineCheck (.line l)) s = .next u ∧ (∀ x, x ∈ u.poison ↔ x = l ∨ x ∈ s.poison) ∧ u.cores = s.cores ∧
    u.dram = s.dram ∧ u.kernels = s.kernels) ∧
  -- a join of which only engines' offers stand: the kernel whose join it is
  (∀ (h n slot : Nat) (e : HomeEv) (o : Offer) (k : Kernel) (s : State), (s.bugle h).evs[n]? = some e → bits e.key.name 63 60 = 4 →
    e.st = .gathering → e.key.ctx < 64 → (s.bugle h).of e.key = [o] → o.who = .engine → o.kern = some slot → s.kernel slot = some k → alive k →
    bits k.fmode 2 1 ≠ 1 → faultsReceived s slot k → ∃ u, exec (.machineCheck (.joinCount h n)) s = .next u ∧ (u.bugle h).of e.key = [] ∧
      (∃ k', u.kernel slot = some k' ∧ k'.st = .aborted ∧ k'.cause = 20) ∧ ringTold s u e.key.ctx 18 ∧
      ∀ x kx, x ≠ slot → s.kernel x = some kx → ∃ k', u.kernel x = some k' ∧ k'.st = kx.st) ∧
  ∀ (h n g p t : Nat) (q : BitVec 8) (e : HomeEv) (o : Offer) (k : Kernel) (s : State),
    ((s.bugle h).evs[n]? = none → exec (.machineCheck (.bugleStore h n)) s = .next s ∧ exec (.machineCheck (.joinCount h n)) s = .next s) ∧
    ((s.bugle h).evs[n]? = some e → (bits e.key.name 63 60 ≠ 4 → exec (.machineCheck (.joinCount h n)) s = .next s) ∧
      (e.st = .gathering → e.key.ctx < 64 → (s.bugle h).of e.key = [o] → o.who = .thread g q → s.whereIs g = some (p, t) → compute p →
        s.kernel (s.thread p t).slot = some k → alive k → bits k.fmode 2 1 ≠ 1 → faultsReceived s (s.thread p t).slot k → ∀ row ∈ [(17, MachErr.bugleStore h n), (20, .joinCount h n)],
          (row.1 = 20 → bits e.key.name 63 60 = 4) → ∃ u, exec (.machineCheck row.2) s = .next u ∧ (u.bugle h).of e.key = [] ∧
            (∃ k', u.kernel (s.thread p t).slot = some k' ∧ k'.st = .aborted ∧ k'.cause = row.1) ∧ ringTold s u e.key.ctx 18))

/-! ### Links -/

def Sys2Proof.Claims.LinksTrain : Prop :=
  ∀ (n lanes : Nat) (s : State),
    let l := s.link n
    let full : Nat := if n < 576 then 32 else if n < 640 then 4 else 16
    (l.st ≠ .training ∨ lanes = 0 ∨ full < lanes ∨ s.endDark n = true → exec (.linkTrainingSuccess n lanes) s = .next s) ∧
    (l.st = .training → 1 ≤ lanes → lanes ≤ full → s.endDark n = false → ∃ u, exec (.linkTrainingSuccess n lanes) s = .next u ∧
      linkIs u n .up lanes ∧ (u.link n).rply = 0 ∧ (n ≠ 640 → ∃ k, u.panel.msix = List.replicate (k + 1) 0 ++ s.panel.msix)) ∧
    (l.st ≠ .training → exec (.linkTrainingFailure n) s = .next s) ∧
    (l.st = .training → ∃ u, exec (.linkTrainingFailure n) s = .next u ∧ linkIs u n .down 0 ∧
      ∃ k, u.panel.msix = List.replicate (k + 1) 0 ++ s.panel.msix) ∧
    (l.st ≠ .up ∨ 16 ≤ l.tries → exec (.flitCrcReplay n) s = .next s) ∧
    (l.st = .up → l.tries < 16 → ∃ u, exec (.flitCrcReplay n) s = .next u ∧ (u.link n).st = .up ∧
      (u.link n).rply.toNat = min (l.rply.toNat + 1) 0xFFFFFFFF ∧ ((u.link n).tries = l.tries + 1 ∨ (u.link n).tries = 1)) ∧
    (641 ≤ n → exec (.linkRetrainCmd n) s = .next s) ∧
    (n < 641 → l.st = .absent ∨ l.st = .training → ∃ u, exec (.linkRetrainCmd n) s = .next u ∧ u.link n = { l with cmd := true }) ∧
    (n < 641 → l.st = .up ∨ l.st = .down → ∃ u, exec (.linkRetrainCmd n) s = .next u ∧ linkIs u n .training 0 ∧ (u.link n).cmd = false) ∧
    -- the status word (R374): 0 ABSENT, 1 TRAINING, 2 UP, 3 DOWN
    (l.lanes < 64 → bits l.word 63 61 = [LinkSt.absent, .training, .up, .down].findIdx (· = l.st) ∧ bits l.word 60 60 = l.cmd.toNat ∧
      bits l.word 37 32 = l.lanes ∧ bits l.word 31 0 = l.rply.toNat) ∧
    (l.st ≠ .up ∨ l.tries < 16 → exec (.linkDown n) s = .next s) ∧
    (l.st = .up → 16 ≤ l.tries → ∃ u, exec (.linkDown n) s = .next u ∧ linkIs u n .down 0 ∧
      -- what the replay buffer names is lost; a context that loses with an edge is told
      ((∀ i, Config.lostMsg s.tick i = false) → u.net = s.net ∧ u.kernels = s.kernels ∧ ∀ p, u.core p = s.core p) ∧
      (576 ≤ n → ∀ m ∈ s.net, m ∈ u.net) ∧
      ∀ m slot k, n < 576 → s.net = [m] → m.pos ≠ m.site → 4 * m.pos + (hopBy s.routes m.pos m.site m.lvl).1 = n → m.ctx < 64 →
        Config.lostMsg s.tick 0 = true → s.kernel slot = some k → k.ctx = m.ctx → alive k →
        (m.hops ≠ 0 → m ∉ u.net) ∧ ∃ k', u.kernel slot = some k' ∧ k'.st = .aborted ∧ k'.cause = 17)

def Sys2Proof.Claims.Routing : Prop :=
  (∀ (set : List (Nat × Nat)) (s : State),
    let t : Tab Nat := set.foldl (fun t e => tset t e.1 e.2) []
    (s.setOk t = false → exec (.tableSetInstall set) s = .next s) ∧
    -- the sites stop injecting until the mesh has drained
    (s.setOk t = true → s.drained = false ∨ s.heldOk t = false → exec (.tableSetInstall set) s =
      .next { s with panel := { s.panel with quiet := true } }) ∧
    (s.setOk t = true → s.drained = true → s.heldOk t = true → exec (.tableSetInstall set) s =
      .next { s with routes := t, panel := { s.panel with quiet := false }
                     net := s.net.map fun m => { m with held := m.hops != 0 && m.pos != m.site } })) ∧
  ∀ (k : Nat) (m : Msg) (s : State), s.net[k]? = some m →
    let h := hopBy s.routes m.pos m.site m.lvl
    (m.pos = m.site → (∀ p, m.dst ≠ .pod p) → exec (.messageForward k) s = .next s) ∧
    (m.pos ≠ m.site →
      -- dimension order where the table set has no entry of its own
      (s.routes = [] → m.pos < 144 → m.site < 144 → h.2 = m.lvl ∧
        (m.site % 12 < m.pos % 12 → h.1 = 2) ∧ (m.pos % 12 < m.site % 12 → h.1 = 0) ∧
        (m.pos % 12 = m.site % 12 → (m.pos / 12 < m.site / 12 → h.1 = 1) ∧ (m.site / 12 < m.pos / 12 → h.1 = 3))) ∧
      (neighbour m.pos h.1 = none → exec (.messageForward k) s = .next s) ∧
      ∀ nb, neighbour m.pos h.1 = some nb →
        ((s.link (4 * m.pos + h.1)).st ≠ .up → exec (.messageForward k) s = .next s) ∧
        ((s.link (4 * m.pos + h.1)).st = .up →
          -- the next router has no room; another class's turn, or event and control is due its slot (R381); messages held over a change
          -- of tables go before any enters the mesh (R379)
          (m.cls ≠ .event → portWaits s m.pos h.1 .event → m.pos < 144 → 16 ≤ tget 0 s.deficit (slotKey m.pos h.1) + m.body.flits →
            ∃ u, exec (.messageForward k) s = .next u ∧ (u = s ∨ ∃ lvl, Config.noRoom s.tick (4 + lvl) = true)) ∧
          (m.hops = 0 → s.panel.quiet = true ∨ (∃ x ∈ s.net, x.held = true) → exec (.messageForward k) s = .next s) ∧
          let goes (u : State) (m' : Msg) : Prop := m' = { m with pos := nb, lvl := h.2, hops := m.hops + 1, held := false, turned := m'.turned } ∧
            (h.1 ≠ 2 → m'.turned = true) ∧ (u.link (4 * m.pos + h.1)).st = .up
          (m.hops ≠ 0 ∨ (s.panel.quiet = false ∧ ∀ x ∈ s.net, x.held = false) →
            let stays : Prop := s.noRoom m.pos m.cls m = true ∨ s.classTurn m m.pos h.1 = false
            (∀ s₁ b, s.share m m.pos h.1 = (s₁, b) → ∃ u, exec (.messageForward k) s = .next u ∧
              (stays → u = s) ∧ (¬ stays → b = false → u = s₁) ∧
              (¬ stays → b = true → ∃ m', goes u m' ∧ u.net = s.net.set k m' ∧
                tget 0 u.deficit (slotKey m.pos h.1) =
                  (if m.cls = .event then 0 else tget 0 s.deficit (slotKey m.pos h.1) + m.flits m.pos))) ∧
            -- a message alone in the mesh whose context's deficit covers it goes
            (s.net = [m] → m.pos < 144 → tget 128 s.deficit (ringKey m.pos h.1 m.cls 127) = m.memb →
              64 * m.body.flits ≤ tget 0 s.deficit (ringKey m.pos h.1 m.cls m.memb) → ∃ u, exec (.messageForward k) s = .next u ∧
                (s.noRoom m.pos m.cls m = true → u = s) ∧ (s.noRoom m.pos m.cls m = false → ∃ m', goes u m' ∧ u.net = [m']))))) ∧
  -- a message to a pod member leaves on the UP port of its event's hash, with its context's tenant key (R386, R388)
  ∀ (m : Msg) (memb : Nat) (s : State), s.net = [m] → m.dst = .pod memb → m.pos = m.site → m.ctx < 64 →
    let name := (m.body.event.map fun k => k.name.toNat).getD 0
    let port := s.podPort memb name
    ((∀ n < 64, (s.link (576 + n)).st ≠ .up) → exec (.messageForward 0) s = .next s) ∧
    (port < 64 → tget 128 s.deficit (ringKey (144 + port) 5 m.cls 127) = m.memb →
      64 * m.flits (144 + port) ≤ tget 0 s.deficit (ringKey (144 + port) 5 m.cls m.memb) → (∀ o, m.body ≠ .offer o) →
      ∃ u, exec (.messageForward 0) s = .next u ∧ (s.noRoom (144 + port) m.cls m = true → u = s) ∧
        (s.noRoom (144 + port) m.cls m = false → u.panel.podOut = some ⟨port, memb, name, 0, bits (tget 0 (s.ctx m.ctx).desc 0) 31 0⟩ ∧
        (m.body.podLeft = none → u.net = []) ∧ ∀ b, m.body.podLeft = some b → u.net = [{ m with body := b }]))

/-! ### Pod and host -/

def Sys2Proof.Claims.PodServed : Prop :=
  ∀ (r : PodReq) (s : State),
    let up : Prop := r.port < 64 ∧ (s.link (576 + r.port)).st = .up
    let fine : Prop := match r.op with
      | .read n => 1 ≤ n ∧ r.addr % 64 + n ≤ 64
      | .write b => 1 ≤ b.length ∧ r.addr % 64 + b.length ≤ 64
      | .atomic _ w _ _ _ => r.addr % w.bytes = 0
      | .event _ => True
    let does (u : State) : Prop := exec (.podRequestReceive r) s = .next u
    (¬ (up ∧ fine) → does s) ∧
    (up → fine →
      ((∀ w, ¬ coveredBy s r.addr w) → ∃ u, does u ∧ replied u 5 0 ∧ u.dram = s.dram) ∧
      ∀ w, coveredBy s r.addr w →
        let ctl := podAt s w 3
        let c := bits ctl 27 22
        let key := bits (tget 0 (s.ctx c).desc 0) 31 0
        let reads : Prop := (∃ n, r.op = .read n) ∨ ∃ o w n x y, r.op = .atomic o w n x y
        let writes : Prop := (∃ b, r.op = .write b) ∨ ∃ o w n x y, r.op = .atomic o w n x y
        let open' : Prop := (s.ctx c).st = .resident ∧ key ≠ 0 ∧ r.key.toNat = key
        let may : Prop := (reads → bits ctl 30 30 = 1) ∧ (writes → bits ctl 29 29 = 1) ∧ ((∃ e, r.op = .event e) → bits ctl 28 28 = 1)
        (¬ open' → ∃ u, does u ∧ replied u 1 0 ∧ u.dram = s.dram) ∧
        (open' → ¬ may → ∃ u, does u ∧ replied u 5 0 ∧ u.dram = s.dram) ∧
        (open' → may →
          let va : Word := BitVec.ofNat 64 r.addr - podAt s w 0 + podAt s w 2
          let size : Nat := match r.op with
            | .read n => n
            | .write b => b.length
            | .atomic _ w _ _ _ => w.bytes
            | .event _ => 0
          let at' := s.engPlace (bankOf 0) (.kennel (2 ^ 42 + r.port)) 0 c 0 256 0 0 (podNeed r.op) va size
          (∀ e, r.op = .event e → ∃ u, does u ∧ replied u 0 0 ∧
            (∀ name inst seq, (e = .ack name inst ∨ e = .grant name inst ∨ e = .deny name inst seq) → ∃ m, u.net = s.net ++ [m] ∧ m.src = .pod r.memb)) ∧
          ((∀ e, r.op ≠ .event e) →
            (∀ s₁, at' = .miss s₁ → does s₁) ∧
            (∀ s₁ x, at' = .fault s₁ x → ∃ u, does u ∧ replied u 5 0 ∧ u.dram = s₁.dram) ∧
            (∀ l off pa, at' = .ok (.line l off pa) → s.reachable (s.siteOf (.pod 0)) (.line l off pa) = false → does s) ∧
            ∀ l off pa, at' = .ok (.line l off pa) → s.reachable (s.siteOf (.pod 0)) (.line l off pa) = true →
              (l ∈ s.poison → s.reseeding c = false → s.locked c va = false → ∃ u, does u ∧ replied u 4 0 ∧ u.dram = s.dram) ∧
              (l ∉ s.poison → s.reseeding c = false →
                (∀ n, r.op = .read n → ∃ u, does u ∧ u.dram = s.dram ∧ replied u 0 (mread s.dram (l * 512 + off) n)) ∧
                (s.locked c va = false →
                  (∀ b, r.op = .write b → ∃ u, does u ∧ replied u 0 0 ∧ u.dram = mwrite s.dram (l * 512 + off) b.length (leNat b)) ∧
                  ∀ o w nat x y, r.op = .atomic o w nat x y →
                    let old := mread s.dram (l * 512 + off) w.bytes
                    ∃ u, does u ∧ replied u 0 old ∧
                      (∀ v, atomNew o w nat old x.toNat y.toNat = some v → u.dram = mwrite s.dram (l * 512 + off) w.bytes v) ∧
                      (atomNew o w nat old x.toNat y.toNat = none → u.dram = s.dram)) ∧
                (s.locked c va = true → (∀ n, r.op ≠ .read n) → does s)))))

def Sys2Proof.Claims.HostWindow : Prop :=
  ∀ (v : Word) (off n : Nat) (bs : List Byte) (s : State),
    let fits (k : Nat) : Prop := bits s.panel.cxl 63 63 = 1 ∧ 1 ≤ k ∧ off + k ≤ 2 ^ 36 ∧ off % 512 + k ≤ 512
    let pl := ordPlace (bits s.panel.cxl 12 0 * 2 ^ 36 + off)
    (107 < bits v 12 0 → exec (.cxlMemWindowWrite v) s = .next s) ∧
    (bits v 12 0 ≤ 107 → ∃ u, exec (.cxlMemWindowWrite v) s = .next u ∧ bits u.panel.cxl 63 63 = bits v 63 63 ∧
      bits u.panel.cxl 12 0 = bits v 12 0 ∧ bits u.panel.cxl 62 13 = 0) ∧
    (¬ fits bs.length ∨ s.hostReach pl.1 = false ∨ s.migs ≠ [] ∧ s.frameLocked pl.1 = true → exec (.hostWindowWrite off bs) s = .next s) ∧
    (fits bs.length → s.frameLocked pl.1 = false → s.hostReach pl.1 = true →
      (pl.1 ∈ s.poison → ∃ u, exec (.hostWindowWrite off bs) s = .next u ∧ replied u 4 0 ∧ u.dram = s.dram) ∧
      (pl.1 ∉ s.poison → ∃ u, exec (.hostWindowWrite off bs) s = .next u ∧ replied u 0 0 ∧
        u.dram = mwrite s.dram (pl.1 * 512 + pl.2) bs.length (leNat bs) ∧ (u.home pl.1).excl = none ∧
        (u.home pl.1).wts = (u.home pl.1).rts ∧ u.panel.hostWts = maxW s.panel.hostWts (u.home pl.1).wts ∧
        ((s.home pl.1).excl = none → (s.home pl.1).rts.toNat < 2 ^ 64 - 1 → (u.home pl.1).wts = (s.home pl.1).rts + 1))) ∧
    (¬ fits n ∨ s.hostReach pl.1 = false → exec (.hostWindowRead off n) s = .next s) ∧
    (fits n → s.hostReach pl.1 = true → (pl.1 ∈ s.poison → ∃ u, exec (.hostWindowRead off n) s = .next u ∧ replied u 4 0) ∧
      (pl.1 ∉ s.poison → ∃ u, exec (.hostWindowRead off n) s = .next u ∧ u.dram = s.dram ∧ (u.home pl.1).excl = none ∧
        replied u 0 (mread s.dram (pl.1 * 512 + pl.2) n)))

/-! ### Dies and service -/

def Sys2Proof.Claims.DiesGo : Prop :=
  ∀ (d : Nat) (s : State),
    let x := s.die d
    (72 ≤ d ∨ x.st ≠ .reset → exec (.dieResetEnd d) s = .next s) ∧
    (d < 72 → x.st = .reset → ∃ u, exec (.dieResetEnd d) s = .next u ∧ u.die d = { x with st := .training, time := 0 } ∧
      ∀ n ∈ edgesOf d, (s.link n).st ≠ .up → (u.link n).st = .training) ∧
    (72 ≤ d ∨ x.st ≠ .training → exec (.dieTrainingDone d) s = .next s) ∧
    (d < 72 → x.st = .training →
      ((∃ n ∈ edgesOf d, (s.link n).st = .up) → s.panel.fwdig = none →
        exec (.dieTrainingDone d) s = .next (s.setDie d { x with st := .early, clk := 1 })) ∧
      ((∃ n ∈ edgesOf d, (s.link n).st = .up) → s.panel.fwdig ≠ none → ∃ u, exec (.dieTrainingDone d) s = .next u ∧
        u.die d = { x with st := .early, clk := 1 } ∧ ∀ i < 16, ∀ t < 16, (u.thread (19584 + 16 * d + i) t).st = .inRot ∧
          (u.thread (19584 + 16 * d + i) t).regs.pc = BitVec.ofNat 56 ((Config.firmwareEntry (s.panel.fwaddr * 16 + t)).toNat / 4 * 4)) ∧
      ((∀ n ∈ edgesOf d, (s.link n).st ≠ .up) → (∃ n ∈ edgesOf d, (s.link n).st = .training) →
        exec (.dieTrainingDone d) s = .next s) ∧
      ((∀ n ∈ edgesOf d, (s.link n).st ≠ .up ∧ (s.link n).st ≠ .training) → ∃ u, exec (.dieTrainingDone d) s = .next u ∧
        u.die d = { x with st := .failed, clk := 0 } ∧ ∀ l p, s.phys l = some p → (dieOf p = d → u.phys l = none) ∧
          (dieOf p ≠ d → u.phys l = some p))) ∧
    (x.st ≠ .early ∨ s.panelTrained = false → exec (.dieFull d) s = .next s) ∧
    (d < 72 → x.st = .early → s.panelTrained = true → exec (.dieFull d) s = .next (s.setDie d { x with st := .full, clk := 3 })) ∧
    (∀ slow : Bool, let clk : Nat := if slow then 1 else 2
      (x.st = .full → clk < x.clk → exec (.powerCapThrottle d slow) s = .next (s.setDie d { x with clk := clk })) ∧
      (x.st ≠ .full ∨ x.clk ≤ clk → exec (.powerCapThrottle d slow) s = .next s)) ∧
    (∀ all : Bool, let clk : Nat := if all then 3 else 2
      (x.st = .full → x.clk < clk → exec (.powerCapRelease d all) s = .next (s.setDie d { x with clk := clk })) ∧
      (x.st ≠ .full ∨ clk ≤ x.clk → exec (.powerCapRelease d all) s = .next s)) ∧
    (∀ z r : Word, (d < 72 → x.st ≠ .reset → x.st ≠ .failed → exec (.clockMeasurement d z r) s =
        .next (s.setDie d { x with zero := if d = 0 then 0 else z, rate := r })) ∧
      (72 ≤ d ∨ x.st = .reset ∨ x.st = .failed → exec (.clockMeasurement d z r) s = .next s)) ∧
    (d < 72 → x.st ≠ .reset → ∃ u, exec (.correctedError d) s = .next u ∧ u.die d = { x with ce := (u.die d).ce } ∧
      (u.die d).ce.toNat = min (x.ce.toNat + 1) 0xFFFFFFFF) ∧
    (72 ≤ d ∨ x.st = .reset → exec (.correctedError d) s = .next s)

def Sys2Proof.Claims.DieResets : Prop :=
  ∀ (d : Nat) (s : State),
    (72 ≤ d ∨ (s.die d).st = .reset ∨ (s.die d).st = .failed → exec (.dieReset d) s = .next s) ∧
    (d < 72 → (s.die d).st ≠ .reset → (s.die d).st ≠ .failed → s.busy = false → ∃ u, exec (.dieReset d) s = .next u ∧
      (u.die d).st = .reset ∧ (u.die d).clk = 0 ∧ (u.die d).ce = 0 ∧ (u.die d).time = 0 ∧ (u.die d).slices = [] ∧
      ((∀ b ∈ s.bugles, ∀ o ∈ b.2.offers, o.spill = none) → u.dram = s.dram) ∧
      -- its cores hold nothing, and those out of service serve again (R334, R336); of two cores that could take a dead number, log 72 names one
      (∀ p, dieOf p = d → u.core p = {}) ∧
      (∀ l p, s.phys l = some p → u.phys l = some p) ∧
      (∀ l < 18432, l / 256 = d → s.phys l = none → s.logical (homeCore l) = none → (∀ m, m / 16 = l / 16 → m ≠ l → s.phys m ≠ none) →
        u.phys l = some (homeCore l)) ∧
      (∀ h, h / 32 = d → u.bugle h = {}) ∧
      (∀ l sl, (l, sl) ∈ (s.die d).slices → sl.excl = true → l ∈ u.poison) ∧
      (∀ l ∈ s.poison, l ∈ u.poison) ∧
      (∀ n ∈ edgesOf d, (u.link n).st = .training) ∧
      (∀ p c t th slot k, (p, c) ∈ s.cores → (s.core p) = c → dieOf p = d → compute p → (t, th) ∈ c.threads → th.st ≠ .free →
        c.ctx < 64 → s.kernel slot = some k → k.ctx = c.ctx → alive k →
        ∃ k', u.kernel slot = some k' ∧ k'.st = .aborted ∧ k'.cause = 17))

def Sys2Proof.Claims.PowerOn : Prop :=
  ∀ s : State, ∃ u, exec .powerOn s = .next u ∧ u.host = s.host ∧ u.pod = s.pod ∧ u.tick = s.tick ∧ u.cores = [] ∧ u.clusters = [] ∧
    u.dies = [] ∧ u.stks = [] ∧ u.dram = [] ∧ u.poison = [] ∧ u.net = [] ∧ u.misses = [] ∧ u.migs = [] ∧ u.ctxs = [] ∧
    u.queues = [] ∧ u.bugles = [] ∧ u.retrs = [] ∧ u.facks = [] ∧ u.evs = [] ∧ u.recalls = [] ∧ u.deficit = [] ∧ u.kernels = [] ∧ u.launches = [] ∧ u.routes = [] ∧ u.lmap = [] ∧
    { u.panel with msix := [] } = ({} : Panel) ∧ ∀ n < 641, (linkExists n = true → (u.link n).st = .training) ∧
      (linkExists n = false → (u.link n).st = .absent)

def Sys2Proof.Claims.FirmwareAndReport : Prop :=
  ∀ s : State,
    (∀ v : Word,
      (∀ a, s.panel.fwload = some a → exec (.firmwareLoad v) s = .next s) ∧
      (s.panel.fwload = none → ∃ u, exec (.firmwareLoad v) s = .next u ∧ u.panel.fwctl = v ∧ u.cores = s.cores ∧
        (bits v 63 62 = 1 → u.panel.fwload = some (bits v 47 0)) ∧ (bits v 63 62 ≠ 1 → u.panel.fwload = none))) ∧
    (s.panel.fwload = none → exec .firmwareReloadDone s = .next s) ∧
    (∀ a, s.panel.fwload = some a →
      (s.imageOk a = false → ∃ u, exec .firmwareReloadDone s = .next u ∧ u.panel.fwload = none ∧ u.panel.fwstat = 2 ∧
        u.panel.fwdig = s.panel.fwdig ∧ u.cores = s.cores) ∧
      (s.imageOk a = true → (∃ p c t th, (p, c) ∈ s.cores ∧ isSetter p = true ∧ (t, th) ∈ c.threads ∧ th.cell.st = .claimed) →
        exec .firmwareReloadDone s = .next s) ∧
      (s.imageOk a = true → (∀ p c t th, (p, c) ∈ s.cores → isSetter p = true → (t, th) ∈ c.threads → th.cell.st ≠ .claimed) →
        ∃ u, exec .firmwareReloadDone s = .next u ∧ u.panel.fwload = none ∧ u.panel.fwstat = 1 ∧ u.panel.fwaddr = a ∧
          u.panel.fwdig = some (BitVec.ofNat 512 (leNat (s.deviceBytes (a + 16) 64))) ∧
          ∀ d < 72, (s.die d).st = .early ∨ (s.die d).st = .full → ∀ i < 16, ∀ t < 16,
            (u.thread (19584 + 16 * d + i) t).st = .inRot ∧
              (u.thread (19584 + 16 * d + i) t).regs.pc = BitVec.ofNat 56 ((Config.firmwareEntry (a * 16 + t)).toNat / 4 * 4))) ∧
    (∀ v : Word, ∃ u, exec (.attestationReport v) s = .next u ∧ tget 0 u.panel.nonce 3 = v ∧ u.panel.atBusy = true ∧
      u.panel.report = [] ∧ u.panel.atCount = s.panel.atCount) ∧
    (s.panel.atBusy = false → exec .attestationReportDone s = .next s) ∧
    (s.panel.atBusy = true → ∃ u, exec .attestationReportDone s = .next u ∧ u.panel.atBusy = false ∧
      u.panel.atCount = s.panel.atCount + 1 ∧ u.panel.report.length = 2048 ∧
      (∀ i < 4, leNat ((u.panel.report.drop (8 * i)).take 8) = (tget 0 s.panel.nonce i).toNat) ∧
      leNat ((u.panel.report.drop 32).take 64) = (s.panel.fwdig.getD 0).toNat ∧
      (∀ d < 72, leNat ((u.panel.report.drop (96 + 8 * d)).take 8) = (s.die d).word.toNat) ∧
      leNat ((u.panel.report.drop 672).take 64) = (shake256 (u.panel.report.take 672)).toNat ∧
      leNat ((u.panel.report.drop 736).take 1280) = (Config.falconSign (shake256 (u.panel.report.take 672))).toNat)

def Sys2Proof.Claims.ServiceRegisters : Prop :=
  ∀ (off : Nat) (v : Word) (s : State),
    (∃ u, exec (.trcctlWrite v) s = .next u ∧ bits u.panel.trcctl 63 62 = bits v 63 62 ∧ bits u.panel.trcctl 10 0 = bits v 10 0 ∧
      bits u.panel.trcctl 61 11 = 0 ∧ (u.panel.trcctl ≠ s.panel.trcctl → ∀ d x, (d, x) ∈ u.dies → x.traceOn = false)) ∧
    -- the window on a core's ring of racy stores, and its count (R251, R405)
    (∀ p, s.phys s.panel.ringsel.toNat = some p → s.ringCnt = BitVec.ofNat 64 (s.core p).racyN ∧
      ∀ i r, (s.core p).racy[i]? = some r → (s.core p).racy.length ≤ min 1024 (s.core p).racyN →
        s.ringWindow (((s.core p).racyN - 1 - i) % 1024) = r.time.toNat + r.src.toNat * 2 ^ 64 + r.addr.toNat * 2 ^ 96) ∧
    (18431 < v.toNat → exec (.ringselWrite v) s = .next s) ∧
    (v.toNat ≤ 18431 → ∃ u, exec (.ringselWrite v) s = .next u ∧ u.panel.ringsel = v ∧ u.cores = s.cores) ∧
    (off % 8 ≠ 0 → exec (.configRegisterWrite off v) s = .next s) ∧
    (off = 0x700 → ∃ u, exec (.configRegisterWrite off v) s = .next u ∧ u.panel.dbg = v) ∧
    (off = 0xB08 → ∃ u, exec (.configRegisterWrite off v) s = .next u ∧ u.panel.trcbase = v) ∧
    (∀ i < 8, off = 0x800 + 8 * i → ∃ u, exec (.configRegisterWrite off v) s = .next u ∧
      tget 0 u.panel.bps i = setBits v 62 62 0) ∧
    (∀ i < 3, off = 0x580 + 8 * i → ∃ u, exec (.configRegisterWrite off v) s = .next u ∧ tget 0 u.panel.nonce i = v) ∧
    (∀ w < 64, ∀ i < 4, off = 0x2000 + 32 * w + 8 * i → ∃ u, exec (.configRegisterWrite off v) s = .next u ∧
      (i ≠ 3 → podAt u w i = v) ∧ (i = 3 → podAt u w 3 = BitVec.ofNat 64 (bits v 31 22 * 2 ^ 22)) ∧
      ∀ w' i', w' < 64 → i' < 4 → (w', i') ≠ (w, i) → podAt u w' i' = podAt s w' i') ∧
    (∀ l : Nat,
      let q := l / 16 * 17 + 16
      let free (p : Nat) : Prop := (s.core p).idle = true ∧ (s.core p).slot = none ∧ (s.core p).moveTo = none ∧
        ∀ e ∈ s.cores, e.2.moveTo ≠ some p
      (18432 ≤ l ∨ s.logical q ≠ none ∨ (s.core q).retired = true ∨ (s.die (dieOf q)).st = .failed ∨ ¬ free q ∨ (∃ p, s.phys l = some p ∧ ¬ free p) →
        exec (.spareRemap l) s = .next s) ∧
      (l < 18432 → s.logical q = none → (s.core q).retired = false → (s.die (dieOf q)).st ≠ .failed → free q → (∀ p, s.phys l = some p → free p ∧ p ≠ q) →
        ∃ u, exec (.spareRemap l) s = .next u ∧ u.phys l = some q ∧ (∀ m, m ≠ l → u.phys m = s.phys m) ∧ u.cores = s.cores))

/-! ### Delay fields -/

namespace Sys2Proof.Claims

/-- A delay accumulator that a field of `hops` has gone into: HOPS and COUNT saturate, WAIT does not fall (R402). -/
def delayAdded (x y : Word) (hops : Nat) : Prop :=
  bits y 23 0 = min (bits x 23 0 + 1) 0xFFFFFF ∧ bits y 39 24 = min (bits x 39 24 + hops) 0xFFFF ∧ bits x 63 40 ≤ bits y 63 40

/-- Whether a core is its cluster's spare, behind the spare bridge (R7, R383). -/
def bridges (p : Nat) : Nat := if p < 19584 ∧ p % 17 = 16 then 1 else 0

end Sys2Proof.Claims

def Sys2Proof.Claims.ChainDelay : Prop :=
  (∀ (p a l q : Nat) (s : State), s.logical p = some a → s.phys l = some q → dieOf p = a / 256 → dieOf q = a / 256 →
    (clusterOf p = clusterOf q → s.chainHops p l = bridges p + bridges q) ∧
    (clusterOf p ≠ clusterOf q → s.chainHops p l = 2 + bridges p + bridges q)) ∧
  ∀ row ∈ alu2s, ∀ (d b : GReg) (s : State) (q : Nat) (e : ChainEntry) (rest : List ChainEntry), noTokens s [28, b, d] →
    s.me.crs.inRoute = some q → (d = 29 → s.me.crs.outRoute = none) → s.routeOk q false = true →
    bits (tget 0 s.myCore.routes q) 62 62 = 0 → s.myCore.inQ q = e :: rest →
    ∃ t, exec (row.1 d 28 b) s = .next t ∧ delayAdded (tget 0 s.myCore.dacc 104) (tget 0 t.myCore.dacc 104) (min e.hops 255) ∧
      ∀ n ≠ 104, tget 0 t.myCore.dacc n = tget 0 s.myCore.dacc n

def Sys2Proof.Claims.AcceptanceDelay : Prop :=
  ∀ (p i l off pa : Nat) (skip : List Nat) (x : Elem) (sl : SliceLine) (s : State), oneLeft s p i x → p < 30000 → 0 ∉ skip →
    x.place = .line l off pa →
    l ∉ s.poison → s.reseeding (s.core p).ctx = false → s.locked (s.core p).ctx x.va = false → (s.core p).stashG = 0 →
    s.slice (dieOf p) l = some sl → sl.owner = none → (s.home l).excl = some (dieOf p) →
    tget 0 s.recalls (l * 128 + 72) = 0 → tget 0 s.recalls (l * 128 + dieOf p) = 0 →
    (s.thread p (tget {} (s.core p).journal i).thr).wait ≠ .heldPosted i →
    let k := 72 + sliceOf pa (s.seedOf (s.core p).ctx)
    ∃ u, exec (.storeAcceptance p ⟨i, skip⟩) s = .next u ∧ delayAdded (tget 0 (s.core p).dacc k) (tget 0 (u.core p).dacc k) (2 + 2 * bridges p) ∧
      ∀ n ≠ k, tget 0 (u.core p).dacc n = tget 0 (s.core p).dacc n

/-! ### Statements of several parts -/

/-- Decoding the encoding of a well-formed instruction or micro-op gives it back (R65, R66, R68, R70, R71, R79). -/
def Obligations.EncodeDecode : Prop :=
  Claims.EncodeDecode ∧ Claims.DrainEncodeDecode

/-- Scalar arithmetic: result, and nothing else changes but the destination and the pc (R94, R95, R34, R42). -/
def Obligations.AluInstructions : Prop :=
  Claims.AluRegister ∧ Claims.AluUnary ∧ Claims.AluImmediate

/-- Skips, branches, calls and register jumps: the pc, the link and the annulled turns (R69, R96, R97, R30, R99). -/
def Obligations.ControlTransfers : Prop :=
  Claims.Skips ∧ Claims.Branches ∧ Claims.RegisterJumps

/-- Scalar loads complete from direct storage, begin the load wait for a line, and complete on the reply (R88, R89, R90, R100,
R92, R93, R133, R243). -/
def Obligations.Loads : Prop :=
  Claims.LoadDirect ∧ Claims.LoadBeginsWait ∧ Claims.LoadReplies

/-- Scalar stores: direct bytes at once, after the thread's own LWIN stores to them, with their frame, or one journal entry (R88, R89, R90,
R101, R248, R27, R262, R251). -/
def Obligations.Stores : Prop :=
  Claims.StoreDirect ∧ Claims.StoreFrame ∧ Claims.StorePosted

/-- Atomics on direct storage: new memory value, returned old value, ALIGN when misaligned (R104, R89, R90). The sign extension of the n32
results but those of max and min is the model's choice (log 63). -/
def Obligations.Atomics : Prop :=
  Claims.AtomicDirect ∧ Claims.AtomicMisaligned

/-- crr, crw, crs and crc on every control register class, the delay accumulators dacc0 to dacc127 among them; carve, jrnl and vpool writes
(R74, R109, R38, R61, R240, R250, R34). -/
def Obligations.ControlRegisters : Prop :=
  Claims.ControlReads ∧ Claims.ControlWrites ∧ Claims.CoreSwaps ∧ Claims.CarveJournalPool

/-- g0, m0 and h0 are wired; token waits; chain reads and writes through g28 and g29 (R34, R27, R28, R163, R164, R165, R167,
R258). -/
def Obligations.HardwiredAndChains : Prop :=
  Claims.HardwiredRegisters ∧ Claims.TokenWait ∧ Claims.TokenAccess ∧ Claims.ChainRead ∧ Claims.ChainWrite

/-- Taking a trap: what is latched, what stays, and where the fault record goes (R18, R31, R232, R328, R330, R331). -/
def Obligations.Exceptions : Prop :=
  Claims.TrapLatches ∧ Claims.FaultRecords

/-- A Setter core's thread takes its own traps and eret returns from them (R113, R111, R330, R331). The ACK word's content and the word
alignment of the vector and the saved pc are the model's (log 63). -/
def Obligations.SetterExceptions : Prop :=
  Claims.SetterTrap ∧ Claims.Eret ∧ Claims.TrapThenEret

/-- nop, yield, trap, brk and halt (R111, R112, R24, R32). -/
def Obligations.SystemInstructions : Prop :=
  Claims.NopYield ∧ Claims.SystemTraps ∧ Claims.Halt

/-- fack checks its operand and service, leaves behind earlier stores, and resumes, skips or kills at arrival (R114, R233,
R31, R24). -/
def Obligations.Acknowledgements : Prop :=
  Claims.FackIssue ∧ Claims.AcksTravel

/-- Integer vector operations: active lanes, frame and counters (R115, R116, R120, R122, R41, R42, R40, R61, R62, R63). -/
def Obligations.VectorInteger : Prop :=
  Claims.VectorWrap ∧ Claims.VectorInteger ∧ Claims.VectorDivide

/-- vcvt between all element types, and packing and unpacking q4 blocks (R127, R128, R129, R49, R53, R54, R55, R56, R396,
R63). -/
def Obligations.ConversionsAndBlocks : Prop :=
  Claims.Conversions ∧ Claims.Blocks ∧ Claims.ConversionValues ∧ Claims.BlockValues

/-- Float vector operations act lane by lane through the operations of the number formats and count their conditions; what those operations
give (R116, R117, R120, R121, R122, R46, R47, R48, R50, R51, R61, R63). -/
def Obligations.VectorFloat : Prop :=
  Claims.VectorFloat ∧ Claims.FloatArithmetic ∧ Claims.FloatOrder

/-- Rounding to nearest with ties to the even encoding, and toward zero, with overflow and underflow (R43, R44, R45, R46, R47, R48). -/
def Obligations.RoundToNearest : Prop :=
  Claims.RoundToNearest ∧ Claims.RoundingLimits

/-- A matrix operation is admitted, accumulates chunk by chunk, gets the drain unit and completes; what a chunk adds (R184, R185, R190, R191,
R193, R196, R201, R57, R58, R59, R60). -/
def Obligations.OperationSteps : Prop :=
  Claims.OperationSteps ∧ Claims.Accumulation

/-- Reductions: the fixed tree over lanes with the identity for inactive ones (R130, R50, R51, R41). -/
def Obligations.Reductions : Prop :=
  Claims.Reductions ∧ Claims.FloatReductions

/-- Vector loads and stores in direct storage: unit, strided and indexed forms (R131, R132, R134, R135, R90). -/
def Obligations.VectorMemory : Prop :=
  Claims.VectorLoads ∧ Claims.VectorStores

/-- Steps that run no fetched instruction: illegal words, latched words, fetch faults, machine events; every step goes on
(R28, R31, R71, R98, R90, R92, R211). -/
def Obligations.StepOther : Prop :=
  Claims.StepIllegalWord ∧ Claims.StepLatchedWord ∧ Claims.StepFetchFault ∧ Claims.StepEvents ∧ Claims.EveryStepGoesOn

/-- What reset leaves (R22, R37, R61, R163, R240, R323, R341, R395, R6). -/
def Obligations.ResetState : Prop :=
  Claims.ResetState ∧ Claims.ResetMemory

/-- sync checks its block in order, opens the cell, and its offers leave after its stores (R141, R143, R145, R146, R142, R27,
R249, R258). -/
def Obligations.Sync : Prop :=
  Claims.SyncIssue ∧ Claims.OffersLeave

/-- An event's home: gathering, claiming in ascending thread order, occurring, withdrawal, acknowledgement, overflow (R147,
R150, R151, R152, R155, R159, R160, R162). -/
def Obligations.EventHome : Prop :=
  Claims.OffersArrive ∧ Claims.ClaimsAnswered ∧ Claims.OffersGo ∧ Claims.OverflowReturn

/-- The choice cell: claims, commits, releases, delivery and timers (R148, R149, R151, R144, R145, R158, R150). -/
def Obligations.ChoiceCell : Prop :=
  Claims.CellClaims ∧ Claims.CellCommits ∧ Claims.CellReleases ∧ Claims.Delivered ∧ Claims.TimersDue

/-- Quiescence traps its waiters; chain entries arrive and wake readers; evname and evinfo (R161, R165, R169, R170). -/
def Obligations.QuiescenceAndChains : Prop :=
  Claims.Quiescence ∧ Claims.ChainArrives ∧ Claims.NamesAndInfo

/-- barw, barq, barset, the arrival step and the release of a barrier (R171, R174, R175, R176, R177, R178, R179, R258). -/
def Obligations.Barriers : Prop :=
  Claims.BarrierWaits ∧ Claims.BarrierArrives ∧ Claims.BarrierMembers ∧ Claims.BarrierSteps

/-- mma checks its descriptor and queues an operation; mgeo sets geom from a shape record (R187, R188, R189, R197, R199, R200,
R201, R202, R192). -/
def Obligations.MatrixIssue : Prop :=
  Claims.MatrixIssue ∧ Claims.Geometry

/-- mzero, msave, mrest; dload, dbind, dload.t; bank and table transfers (R203, R204, R205, R207, R208, R209, R210, R80). -/
def Obligations.MatrixBanks : Prop :=
  Claims.Banks ∧ Claims.DrainSlots ∧ Claims.TableCopies

/-- The drain unit: micro-ops, rows, hazards, stores, faults and poison (R211, R212, R213, R214, R215, R216, R218, R219, R221, R223, R225,
R229). The lane that an stq record names (log 43) and the one POISON of a row (log 62) are the model's readings. -/
def Obligations.DrainUnit : Prop :=
  Claims.DrainArithmetic ∧ Claims.DrainMoves ∧ Claims.DrainHazards ∧ Claims.DrainRows ∧ Claims.DrainStores

/-- Copy instructions check their descriptor and take a journal entry; requests leave behind earlier stores (R267, R268, R270,
R271, R278, R279, R167, R259). -/
def Obligations.CopyIssue : Prop :=
  Claims.CopyIssue ∧ Claims.RequestsLeave

/-- Retrievers queue 64 and run 4 copies, do elements in ascending order, and end them with a status (R268, R271, R272, R273,
R274, R276, R277, R167). -/
def Obligations.CopyRuns : Prop :=
  Claims.RetrieverQueues ∧ Claims.CopyElements ∧ Claims.CopyEnds

/-- Leases, recalls, stash recalls, evictions and fills keep timestamps and data (R242, R243, R244, R246, R236, R241, R406,
R107). -/
def Obligations.Lines : Prop :=
  Claims.LeaseRenewal ∧ Claims.LinesGivenUp ∧ Claims.FillsReturn

/-- Stores accepted or refused, atomics served at the slice, and writes at a core's port (R101, R102, R105, R242, R244, R245,
R248, R249, R251). -/
def Obligations.StoreReceivers : Prop :=
  Claims.StoreAccepted ∧ Claims.StoreRefused ∧ Claims.AtomicAtSlice ∧ Claims.PortWrites

/-- Slot turns choose the pair's member, annulled turns pass, pending traps are taken; ptime advances itself (R20, R25, R26,
R30, R31, R247). -/
def Obligations.Turns : Prop :=
  Claims.SlotTurns ∧ Claims.SelfAdvance

/-- The read barrier and the field loads and stores hld, hldr, hst, hstr (R281, R285, R286, R287, R288, R290, R292, R297, R298,
R299, R300). -/
def Obligations.ManagedObjects : Prop :=
  Claims.ReadBarrier ∧ Claims.FieldLoads ∧ Claims.FieldStores

/-- hnew, hpin, hunpin, hmov, hget, hcmp, htag, and the steps of a relocation (R301, R302, R303, R304, R290, R291, R292, R293,
R294, R282). -/
def Obligations.ObjectInstructions : Prop :=
  Claims.NewObjects ∧ Claims.ObjectInstructions ∧ Claims.RelocationSteps

/-- rank and size; spawn, exit and the answer to a strict frame (R352, R356, R362, R363, R364, R365, R367, R368, R24). -/
def Obligations.RanksAndTasks : Prop :=
  Claims.Ranks ∧ Claims.TaskSpawn ∧ Claims.TaskExit ∧ Claims.StrictAnswer

/-- Frames stand when their spawner's stores have settled, and start on the lowest FREE thread (R364, R365, R366, R258). That PENDING frames
in front are passed by is the model's reading (log 63). -/
def Obligations.Frames : Prop :=
  Claims.FramesStand ∧ Claims.FramesStart

/-- tlbw, tlbi, seed, migr, tlbr: privilege, checks and effects (R78, R308, R309, R312, R313, R314, R315, R316, R317, R319,
R322). -/
def Obligations.PageInstructions : Prop :=
  Claims.PagePrivilege ∧ Claims.PageWrite ∧ Claims.PageRequests

/-- Answers of walks, invalidations, fills, seed changes and migrations (R310, R311, R312, R313, R314, R316, R317, R318,
R327). That only pinned entries stay after a switch is the model's reading (logs 23, 59). -/
def Obligations.PagesAnswered : Prop :=
  Claims.PageAnswers ∧ Claims.Migrations

/-- launch checks its record, the admission unit admits it, teams are placed and move between dies (R182, R347, R351, R353,
R354, R355, R357, R358, R359, R360, R361, R408). -/
def Obligations.LaunchAndPlacement : Prop :=
  Claims.LaunchIssue ∧ Claims.RecordChecks ∧ Claims.LaunchesAdmitted ∧ Claims.TeamsPlaced ∧ Claims.TeamsMove

/-- Queues: enabling, disabling, TICK, seed, tails, and the lottery that draws a record (R339, R340, R341, R342, R343, R344,
R345, R347, R351, R398). The wait for a translation is log 32. -/
def Obligations.Queues : Prop :=
  Claims.QueuesWritten ∧ Claims.Lottery

/-- Contexts are enabled, disabled, closed; their descriptor and fault ring; the host's acknowledgements (R323, R324, R325,
R328, R329, R114). -/
def Obligations.Contexts : Prop :=
  Claims.ContextLife ∧ Claims.HostAcks

/-- Debugger stop, resume and kill; machine checks of cores, deques, event stores, joins and lines (R32, R404, R338, R355, R24, R364, R368,
R400). -/
def Obligations.DebugAndChecks : Prop :=
  Claims.DebugCommands ∧ Claims.MachineChecks

/-- Pre-emption: freeze, move, another core, failure, forwarding and the host's commands (R33, R333, R334, R335, R336, R156,
R355). Where a Setter core moves to is the model's choice (log 72). -/
def Obligations.CoreMoves : Prop :=
  Claims.CoresMove ∧ Claims.MoveCommands

/-- Links train, fail, replay, retrain and go down; messages are forwarded hop by hop and leave for the pod (R372-R382, R388). Class turns by
whole messages and the ring's order are the model's choice (log 37), one link at both numbers its reading (log 44). -/
def Obligations.Links : Prop :=
  Claims.LinksTrain ∧ Claims.Routing

/-- Requests of pod members and the host's window are checked and served in order of the rules (R386, R387, R390, R254). The translating
bank, window multiples, lengths and p = 0 (log 45), and one access within a line with its answer (log 46), are the model's. -/
def Obligations.PodAndHost : Prop :=
  Claims.PodServed ∧ Claims.HostWindow

/-- Dies leave reset, train, come to service, throttle and are reset; power-on (R252, R338, R384, R385, R395, R396, R397,
R398, R400, R401, R355). The model's own: firmware of EARLY dies (log 39), one record for each context (log 40), every edge to TRAINING
(log 44), what power-on keeps (log 47), entry addresses (log 48), who takes a dead number again (log 72). -/
def Obligations.Dies : Prop :=
  Claims.DiesGo ∧ Claims.DieResets ∧ Claims.PowerOn

/-- Firmware load, attestation report, trace, rings, breakpoints, pod windows and spare remap (R7, R387, R398, R399, R403,
R404, R405). The model's own: FWCTL's fields (log 41), entry addresses and contexts (log 48), zero bits (log 52). -/
def Obligations.Service : Prop :=
  Claims.FirmwareAndReport ∧ Claims.ServiceRegisters

/-- A chain entry's hops, and the delay accumulators that a pop and an acceptance at the slice add to (R383, R391, R402). -/
def Obligations.DelayFields : Prop :=
  Claims.ChainDelay ∧ Claims.AcceptanceDelay
end

