-- ==== Sys2Proof/Laws/State.lean ====
section
/-!
SUPPORT. The state's setters, field by field, and the sparse tables they keep: no later proof unfolds a record update.
-/

namespace Sys2Proof.Machine

/-! ### Sparse tables -/

theorem tget_tset_same {α : Type} (d : α) (t : Tab α) (n : Nat) (x : α) : tget d (tset t n x) n = x := by
  induction t with
  | nil => simp [tset, tget]
  | cons h t ih =>
    obtain ⟨k, v⟩ := h
    simp only [tset]
    split
    · simp [tget]
    · split
      · simp [tget]
      · rename_i h1 h2
        simp only [tget, if_neg (fun e : k = n => h2 e.symm), ih]

theorem tget_tset_ne {α : Type} (d : α) (t : Tab α) (n m : Nat) (x : α) (h : m ≠ n) :
    tget d (tset t n x) m = tget d t m := by
  induction t with
  | nil => simp [tset, tget, Ne.symm h]
  | cons e t ih =>
    obtain ⟨k, v⟩ := e
    simp only [tset]
    split
    · simp [tget, Ne.symm h]
    · split
      · rename_i h1 h2
        subst h2
        simp [tget, Ne.symm h]
      · simp only [tget, ih]

theorem mem_tset {α : Type} (t : Tab α) (n : Nat) (x : α) (e : Nat × α) (h : e ∈ tset t n x) : e = (n, x) ∨ e ∈ t := by
  induction t with
  | nil => simpa [tset] using h
  | cons c t ih =>
    obtain ⟨k, v⟩ := c
    simp only [tset] at h
    split at h
    · simpa using h
    · split at h
      · rcases List.mem_cons.mp h with h | h
        · exact .inl h
        · exact .inr (List.mem_cons_of_mem _ h)
      · rcases List.mem_cons.mp h with h | h
        · exact .inr (h ▸ List.mem_cons_self)
        · exact (ih h).imp id (List.mem_cons_of_mem _)

/-! ### Setters, field by field -/

@[simp] theorem State.setCore_focus (s : State) (p : Nat) (x : Core) : (s.setCore p x).focus = s.focus := rfl
@[simp] theorem State.setCore_cur (s : State) (p : Nat) (x : Core) : (s.setCore p x).cur = s.cur := rfl
@[simp] theorem State.setCore_tick (s : State) (p : Nat) (x : Core) : (s.setCore p x).tick = s.tick := rfl
@[simp] theorem State.setCore_agenda (s : State) (p : Nat) (x : Core) : (s.setCore p x).agenda = s.agenda := rfl
@[simp] theorem State.setCore_lmap (s : State) (p : Nat) (x : Core) : (s.setCore p x).lmap = s.lmap := rfl
@[simp] theorem State.setCore_clusters (s : State) (p : Nat) (x : Core) : (s.setCore p x).clusters = s.clusters := rfl
@[simp] theorem State.setCore_dies (s : State) (p : Nat) (x : Core) : (s.setCore p x).dies = s.dies := rfl
@[simp] theorem State.setCore_stks (s : State) (p : Nat) (x : Core) : (s.setCore p x).stks = s.stks := rfl
@[simp] theorem State.setCore_retrs (s : State) (p : Nat) (x : Core) : (s.setCore p x).retrs = s.retrs := rfl
@[simp] theorem State.setCore_bugles (s : State) (p : Nat) (x : Core) : (s.setCore p x).bugles = s.bugles := rfl
@[simp] theorem State.setCore_dram (s : State) (p : Nat) (x : Core) : (s.setCore p x).dram = s.dram := rfl
@[simp] theorem State.setCore_host (s : State) (p : Nat) (x : Core) : (s.setCore p x).host = s.host := rfl
@[simp] theorem State.setCore_pod (s : State) (p : Nat) (x : Core) : (s.setCore p x).pod = s.pod := rfl
@[simp] theorem State.setCore_recalls (s : State) (p : Nat) (x : Core) : (s.setCore p x).recalls = s.recalls := rfl
@[simp] theorem State.setCore_poison (s : State) (p : Nat) (x : Core) : (s.setCore p x).poison = s.poison := rfl
@[simp] theorem State.setCore_net (s : State) (p : Nat) (x : Core) : (s.setCore p x).net = s.net := rfl
@[simp] theorem State.setCore_misses (s : State) (p : Nat) (x : Core) : (s.setCore p x).misses = s.misses := rfl
@[simp] theorem State.setCore_facks (s : State) (p : Nat) (x : Core) : (s.setCore p x).facks = s.facks := rfl
@[simp] theorem State.setCore_migs (s : State) (p : Nat) (x : Core) : (s.setCore p x).migs = s.migs := rfl
@[simp] theorem State.setCore_ctxs (s : State) (p : Nat) (x : Core) : (s.setCore p x).ctxs = s.ctxs := rfl
@[simp] theorem State.setCore_queues (s : State) (p : Nat) (x : Core) : (s.setCore p x).queues = s.queues := rfl
@[simp] theorem State.setCore_kernels (s : State) (p : Nat) (x : Core) : (s.setCore p x).kernels = s.kernels := rfl
@[simp] theorem State.setCore_launches (s : State) (p : Nat) (x : Core) : (s.setCore p x).launches = s.launches := rfl
@[simp] theorem State.setCore_links (s : State) (p : Nat) (x : Core) : (s.setCore p x).links = s.links := rfl
@[simp] theorem State.setCore_routes (s : State) (p : Nat) (x : Core) : (s.setCore p x).routes = s.routes := rfl
@[simp] theorem State.setCore_deficit (s : State) (p : Nat) (x : Core) : (s.setCore p x).deficit = s.deficit := rfl
@[simp] theorem State.setCore_panel (s : State) (p : Nat) (x : Core) : (s.setCore p x).panel = s.panel := rfl
@[simp] theorem State.setCore_cores (s : State) (p : Nat) (x : Core) : (s.setCore p x).cores = tset s.cores p x := rfl
@[simp] theorem State.setCore_core_same (s : State) (p : Nat) (x : Core) : (s.setCore p x).core p = x := tget_tset_same _ _ _ _
theorem State.setCore_core_ne (s : State) (p : Nat) (x : Core) (q : Nat) (h : q ≠ p) : (s.setCore p x).core q = s.core q :=
  tget_tset_ne _ _ _ _ _ h
@[simp] theorem State.setCluster_core (s : State) (p : Nat) (x : Cluster) (q : Nat) : (s.setCluster p x).core q = s.core q := rfl
@[simp] theorem State.setDie_core (s : State) (p : Nat) (x : Die) (q : Nat) : (s.setDie p x).core q = s.core q := rfl
@[simp] theorem State.setStack_core (s : State) (p : Nat) (x : Stack) (q : Nat) : (s.setStack p x).core q = s.core q := rfl
@[simp] theorem State.setRetr_core (s : State) (p : Nat) (x : Retr) (q : Nat) : (s.setRetr p x).core q = s.core q := rfl
@[simp] theorem State.setBugle_core (s : State) (p : Nat) (x : Bugle) (q : Nat) : (s.setBugle p x).core q = s.core q := rfl
@[simp] theorem State.setCtx_core (s : State) (p : Nat) (x : Ctx) (q : Nat) : (s.setCtx p x).core q = s.core q := rfl
@[simp] theorem State.setQueue_core (s : State) (p : Nat) (x : Queue) (q : Nat) : (s.setQueue p x).core q = s.core q := rfl
@[simp] theorem State.setKernel_core (s : State) (p : Nat) (x : Kernel) (q : Nat) : (s.setKernel p x).core q = s.core q := rfl
@[simp] theorem State.setLink_core (s : State) (p : Nat) (x : Link) (q : Nat) : (s.setLink p x).core q = s.core q := rfl

@[simp] theorem State.setCluster_focus (s : State) (p : Nat) (x : Cluster) : (s.setCluster p x).focus = s.focus := rfl
@[simp] theorem State.setCluster_cur (s : State) (p : Nat) (x : Cluster) : (s.setCluster p x).cur = s.cur := rfl
@[simp] theorem State.setCluster_tick (s : State) (p : Nat) (x : Cluster) : (s.setCluster p x).tick = s.tick := rfl
@[simp] theorem State.setCluster_agenda (s : State) (p : Nat) (x : Cluster) : (s.setCluster p x).agenda = s.agenda := rfl
@[simp] theorem State.setCluster_cores (s : State) (p : Nat) (x : Cluster) : (s.setCluster p x).cores = s.cores := rfl
@[simp] theorem State.setCluster_lmap (s : State) (p : Nat) (x : Cluster) : (s.setCluster p x).lmap = s.lmap := rfl
@[simp] theorem State.setCluster_dies (s : State) (p : Nat) (x : Cluster) : (s.setCluster p x).dies = s.dies := rfl
@[simp] theorem State.setCluster_stks (s : State) (p : Nat) (x : Cluster) : (s.setCluster p x).stks = s.stks := rfl
@[simp] theorem State.setCluster_retrs (s : State) (p : Nat) (x : Cluster) : (s.setCluster p x).retrs = s.retrs := rfl
@[simp] theorem State.setCluster_bugles (s : State) (p : Nat) (x : Cluster) : (s.setCluster p x).bugles = s.bugles := rfl
@[simp] theorem State.setCluster_dram (s : State) (p : Nat) (x : Cluster) : (s.setCluster p x).dram = s.dram := rfl
@[simp] theorem State.setCluster_host (s : State) (p : Nat) (x : Cluster) : (s.setCluster p x).host = s.host := rfl
@[simp] theorem State.setCluster_pod (s : State) (p : Nat) (x : Cluster) : (s.setCluster p x).pod = s.pod := rfl
@[simp] theorem State.setCluster_recalls (s : State) (p : Nat) (x : Cluster) : (s.setCluster p x).recalls = s.recalls := rfl
@[simp] theorem State.setCluster_poison (s : State) (p : Nat) (x : Cluster) : (s.setCluster p x).poison = s.poison := rfl
@[simp] theorem State.setCluster_net (s : State) (p : Nat) (x : Cluster) : (s.setCluster p x).net = s.net := rfl
@[simp] theorem State.setCluster_misses (s : State) (p : Nat) (x : Cluster) : (s.setCluster p x).misses = s.misses := rfl
@[simp] theorem State.setCluster_facks (s : State) (p : Nat) (x : Cluster) : (s.setCluster p x).facks = s.facks := rfl
@[simp] theorem State.setCluster_migs (s : State) (p : Nat) (x : Cluster) : (s.setCluster p x).migs = s.migs := rfl
@[simp] theorem State.setCluster_ctxs (s : State) (p : Nat) (x : Cluster) : (s.setCluster p x).ctxs = s.ctxs := rfl
@[simp] theorem State.setCluster_queues (s : State) (p : Nat) (x : Cluster) : (s.setCluster p x).queues = s.queues := rfl
@[simp] theorem State.setCluster_kernels (s : State) (p : Nat) (x : Cluster) : (s.setCluster p x).kernels = s.kernels := rfl
@[simp] theorem State.setCluster_launches (s : State) (p : Nat) (x : Cluster) : (s.setCluster p x).launches = s.launches := rfl
@[simp] theorem State.setCluster_links (s : State) (p : Nat) (x : Cluster) : (s.setCluster p x).links = s.links := rfl
@[simp] theorem State.setCluster_routes (s : State) (p : Nat) (x : Cluster) : (s.setCluster p x).routes = s.routes := rfl
@[simp] theorem State.setCluster_deficit (s : State) (p : Nat) (x : Cluster) : (s.setCluster p x).deficit = s.deficit := rfl
@[simp] theorem State.setCluster_panel (s : State) (p : Nat) (x : Cluster) : (s.setCluster p x).panel = s.panel := rfl
@[simp] theorem State.setCluster_clusters (s : State) (p : Nat) (x : Cluster) : (s.setCluster p x).clusters = tset s.clusters p x := rfl
@[simp] theorem State.setCluster_cluster_same (s : State) (p : Nat) (x : Cluster) : (s.setCluster p x).cluster p = x := tget_tset_same _ _ _ _
theorem State.setCluster_cluster_ne (s : State) (p : Nat) (x : Cluster) (q : Nat) (h : q ≠ p) : (s.setCluster p x).cluster q = s.cluster q :=
  tget_tset_ne _ _ _ _ _ h
@[simp] theorem State.setCore_cluster (s : State) (p : Nat) (x : Core) (q : Nat) : (s.setCore p x).cluster q = s.cluster q := rfl
@[simp] theorem State.setDie_cluster (s : State) (p : Nat) (x : Die) (q : Nat) : (s.setDie p x).cluster q = s.cluster q := rfl
@[simp] theorem State.setStack_cluster (s : State) (p : Nat) (x : Stack) (q : Nat) : (s.setStack p x).cluster q = s.cluster q := rfl
@[simp] theorem State.setRetr_cluster (s : State) (p : Nat) (x : Retr) (q : Nat) : (s.setRetr p x).cluster q = s.cluster q := rfl
@[simp] theorem State.setBugle_cluster (s : State) (p : Nat) (x : Bugle) (q : Nat) : (s.setBugle p x).cluster q = s.cluster q := rfl
@[simp] theorem State.setCtx_cluster (s : State) (p : Nat) (x : Ctx) (q : Nat) : (s.setCtx p x).cluster q = s.cluster q := rfl
@[simp] theorem State.setQueue_cluster (s : State) (p : Nat) (x : Queue) (q : Nat) : (s.setQueue p x).cluster q = s.cluster q := rfl
@[simp] theorem State.setKernel_cluster (s : State) (p : Nat) (x : Kernel) (q : Nat) : (s.setKernel p x).cluster q = s.cluster q := rfl
@[simp] theorem State.setLink_cluster (s : State) (p : Nat) (x : Link) (q : Nat) : (s.setLink p x).cluster q = s.cluster q := rfl

@[simp] theorem State.setDie_focus (s : State) (p : Nat) (x : Die) : (s.setDie p x).focus = s.focus := rfl
@[simp] theorem State.setDie_cur (s : State) (p : Nat) (x : Die) : (s.setDie p x).cur = s.cur := rfl
@[simp] theorem State.setDie_tick (s : State) (p : Nat) (x : Die) : (s.setDie p x).tick = s.tick := rfl
@[simp] theorem State.setDie_agenda (s : State) (p : Nat) (x : Die) : (s.setDie p x).agenda = s.agenda := rfl
@[simp] theorem State.setDie_cores (s : State) (p : Nat) (x : Die) : (s.setDie p x).cores = s.cores := rfl
@[simp] theorem State.setDie_lmap (s : State) (p : Nat) (x : Die) : (s.setDie p x).lmap = s.lmap := rfl
@[simp] theorem State.setDie_clusters (s : State) (p : Nat) (x : Die) : (s.setDie p x).clusters = s.clusters := rfl
@[simp] theorem State.setDie_stks (s : State) (p : Nat) (x : Die) : (s.setDie p x).stks = s.stks := rfl
@[simp] theorem State.setDie_retrs (s : State) (p : Nat) (x : Die) : (s.setDie p x).retrs = s.retrs := rfl
@[simp] theorem State.setDie_bugles (s : State) (p : Nat) (x : Die) : (s.setDie p x).bugles = s.bugles := rfl
@[simp] theorem State.setDie_dram (s : State) (p : Nat) (x : Die) : (s.setDie p x).dram = s.dram := rfl
@[simp] theorem State.setDie_host (s : State) (p : Nat) (x : Die) : (s.setDie p x).host = s.host := rfl
@[simp] theorem State.setDie_pod (s : State) (p : Nat) (x : Die) : (s.setDie p x).pod = s.pod := rfl
@[simp] theorem State.setDie_recalls (s : State) (p : Nat) (x : Die) : (s.setDie p x).recalls = s.recalls := rfl
@[simp] theorem State.setDie_poison (s : State) (p : Nat) (x : Die) : (s.setDie p x).poison = s.poison := rfl
@[simp] theorem State.setDie_net (s : State) (p : Nat) (x : Die) : (s.setDie p x).net = s.net := rfl
@[simp] theorem State.setDie_misses (s : State) (p : Nat) (x : Die) : (s.setDie p x).misses = s.misses := rfl
@[simp] theorem State.setDie_facks (s : State) (p : Nat) (x : Die) : (s.setDie p x).facks = s.facks := rfl
@[simp] theorem State.setDie_migs (s : State) (p : Nat) (x : Die) : (s.setDie p x).migs = s.migs := rfl
@[simp] theorem State.setDie_ctxs (s : State) (p : Nat) (x : Die) : (s.setDie p x).ctxs = s.ctxs := rfl
@[simp] theorem State.setDie_queues (s : State) (p : Nat) (x : Die) : (s.setDie p x).queues = s.queues := rfl
@[simp] theorem State.setDie_kernels (s : State) (p : Nat) (x : Die) : (s.setDie p x).kernels = s.kernels := rfl
@[simp] theorem State.setDie_launches (s : State) (p : Nat) (x : Die) : (s.setDie p x).launches = s.launches := rfl
@[simp] theorem State.setDie_links (s : State) (p : Nat) (x : Die) : (s.setDie p x).links = s.links := rfl
@[simp] theorem State.setDie_routes (s : State) (p : Nat) (x : Die) : (s.setDie p x).routes = s.routes := rfl
@[simp] theorem State.setDie_deficit (s : State) (p : Nat) (x : Die) : (s.setDie p x).deficit = s.deficit := rfl
@[simp] theorem State.setDie_panel (s : State) (p : Nat) (x : Die) : (s.setDie p x).panel = s.panel := rfl
@[simp] theorem State.setDie_dies (s : State) (p : Nat) (x : Die) : (s.setDie p x).dies = tset s.dies p x := rfl
@[simp] theorem State.setDie_die_same (s : State) (p : Nat) (x : Die) : (s.setDie p x).die p = x := tget_tset_same _ _ _ _
theorem State.setDie_die_ne (s : State) (p : Nat) (x : Die) (q : Nat) (h : q ≠ p) : (s.setDie p x).die q = s.die q :=
  tget_tset_ne _ _ _ _ _ h
@[simp] theorem State.setCore_die (s : State) (p : Nat) (x : Core) (q : Nat) : (s.setCore p x).die q = s.die q := rfl
@[simp] theorem State.setCluster_die (s : State) (p : Nat) (x : Cluster) (q : Nat) : (s.setCluster p x).die q = s.die q := rfl
@[simp] theorem State.setStack_die (s : State) (p : Nat) (x : Stack) (q : Nat) : (s.setStack p x).die q = s.die q := rfl
@[simp] theorem State.setRetr_die (s : State) (p : Nat) (x : Retr) (q : Nat) : (s.setRetr p x).die q = s.die q := rfl
@[simp] theorem State.setBugle_die (s : State) (p : Nat) (x : Bugle) (q : Nat) : (s.setBugle p x).die q = s.die q := rfl
@[simp] theorem State.setCtx_die (s : State) (p : Nat) (x : Ctx) (q : Nat) : (s.setCtx p x).die q = s.die q := rfl
@[simp] theorem State.setQueue_die (s : State) (p : Nat) (x : Queue) (q : Nat) : (s.setQueue p x).die q = s.die q := rfl
@[simp] theorem State.setKernel_die (s : State) (p : Nat) (x : Kernel) (q : Nat) : (s.setKernel p x).die q = s.die q := rfl
@[simp] theorem State.setLink_die (s : State) (p : Nat) (x : Link) (q : Nat) : (s.setLink p x).die q = s.die q := rfl

@[simp] theorem State.setStack_focus (s : State) (p : Nat) (x : Stack) : (s.setStack p x).focus = s.focus := rfl
@[simp] theorem State.setStack_cur (s : State) (p : Nat) (x : Stack) : (s.setStack p x).cur = s.cur := rfl
@[simp] theorem State.setStack_tick (s : State) (p : Nat) (x : Stack) : (s.setStack p x).tick = s.tick := rfl
@[simp] theorem State.setStack_agenda (s : State) (p : Nat) (x : Stack) : (s.setStack p x).agenda = s.agenda := rfl
@[simp] theorem State.setStack_cores (s : State) (p : Nat) (x : Stack) : (s.setStack p x).cores = s.cores := rfl
@[simp] theorem State.setStack_lmap (s : State) (p : Nat) (x : Stack) : (s.setStack p x).lmap = s.lmap := rfl
@[simp] theorem State.setStack_clusters (s : State) (p : Nat) (x : Stack) : (s.setStack p x).clusters = s.clusters := rfl
@[simp] theorem State.setStack_dies (s : State) (p : Nat) (x : Stack) : (s.setStack p x).dies = s.dies := rfl
@[simp] theorem State.setStack_retrs (s : State) (p : Nat) (x : Stack) : (s.setStack p x).retrs = s.retrs := rfl
@[simp] theorem State.setStack_bugles (s : State) (p : Nat) (x : Stack) : (s.setStack p x).bugles = s.bugles := rfl
@[simp] theorem State.setStack_dram (s : State) (p : Nat) (x : Stack) : (s.setStack p x).dram = s.dram := rfl
@[simp] theorem State.setStack_host (s : State) (p : Nat) (x : Stack) : (s.setStack p x).host = s.host := rfl
@[simp] theorem State.setStack_pod (s : State) (p : Nat) (x : Stack) : (s.setStack p x).pod = s.pod := rfl
@[simp] theorem State.setStack_recalls (s : State) (p : Nat) (x : Stack) : (s.setStack p x).recalls = s.recalls := rfl
@[simp] theorem State.setStack_poison (s : State) (p : Nat) (x : Stack) : (s.setStack p x).poison = s.poison := rfl
@[simp] theorem State.setStack_net (s : State) (p : Nat) (x : Stack) : (s.setStack p x).net = s.net := rfl
@[simp] theorem State.setStack_misses (s : State) (p : Nat) (x : Stack) : (s.setStack p x).misses = s.misses := rfl
@[simp] theorem State.setStack_facks (s : State) (p : Nat) (x : Stack) : (s.setStack p x).facks = s.facks := rfl
@[simp] theorem State.setStack_migs (s : State) (p : Nat) (x : Stack) : (s.setStack p x).migs = s.migs := rfl
@[simp] theorem State.setStack_ctxs (s : State) (p : Nat) (x : Stack) : (s.setStack p x).ctxs = s.ctxs := rfl
@[simp] theorem State.setStack_queues (s : State) (p : Nat) (x : Stack) : (s.setStack p x).queues = s.queues := rfl
@[simp] theorem State.setStack_kernels (s : State) (p : Nat) (x : Stack) : (s.setStack p x).kernels = s.kernels := rfl
@[simp] theorem State.setStack_launches (s : State) (p : Nat) (x : Stack) : (s.setStack p x).launches = s.launches := rfl
@[simp] theorem State.setStack_links (s : State) (p : Nat) (x : Stack) : (s.setStack p x).links = s.links := rfl
@[simp] theorem State.setStack_routes (s : State) (p : Nat) (x : Stack) : (s.setStack p x).routes = s.routes := rfl
@[simp] theorem State.setStack_deficit (s : State) (p : Nat) (x : Stack) : (s.setStack p x).deficit = s.deficit := rfl
@[simp] theorem State.setStack_panel (s : State) (p : Nat) (x : Stack) : (s.setStack p x).panel = s.panel := rfl
@[simp] theorem State.setStack_stks (s : State) (p : Nat) (x : Stack) : (s.setStack p x).stks = tset s.stks p x := rfl
@[simp] theorem State.setStack_stack_same (s : State) (p : Nat) (x : Stack) : (s.setStack p x).stack p = x := tget_tset_same _ _ _ _
theorem State.setStack_stack_ne (s : State) (p : Nat) (x : Stack) (q : Nat) (h : q ≠ p) : (s.setStack p x).stack q = s.stack q :=
  tget_tset_ne _ _ _ _ _ h
@[simp] theorem State.setCore_stack (s : State) (p : Nat) (x : Core) (q : Nat) : (s.setCore p x).stack q = s.stack q := rfl
@[simp] theorem State.setCluster_stack (s : State) (p : Nat) (x : Cluster) (q : Nat) : (s.setCluster p x).stack q = s.stack q := rfl
@[simp] theorem State.setDie_stack (s : State) (p : Nat) (x : Die) (q : Nat) : (s.setDie p x).stack q = s.stack q := rfl
@[simp] theorem State.setRetr_stack (s : State) (p : Nat) (x : Retr) (q : Nat) : (s.setRetr p x).stack q = s.stack q := rfl
@[simp] theorem State.setBugle_stack (s : State) (p : Nat) (x : Bugle) (q : Nat) : (s.setBugle p x).stack q = s.stack q := rfl
@[simp] theorem State.setCtx_stack (s : State) (p : Nat) (x : Ctx) (q : Nat) : (s.setCtx p x).stack q = s.stack q := rfl
@[simp] theorem State.setQueue_stack (s : State) (p : Nat) (x : Queue) (q : Nat) : (s.setQueue p x).stack q = s.stack q := rfl
@[simp] theorem State.setKernel_stack (s : State) (p : Nat) (x : Kernel) (q : Nat) : (s.setKernel p x).stack q = s.stack q := rfl
@[simp] theorem State.setLink_stack (s : State) (p : Nat) (x : Link) (q : Nat) : (s.setLink p x).stack q = s.stack q := rfl

@[simp] theorem State.setRetr_focus (s : State) (p : Nat) (x : Retr) : (s.setRetr p x).focus = s.focus := rfl
@[simp] theorem State.setRetr_cur (s : State) (p : Nat) (x : Retr) : (s.setRetr p x).cur = s.cur := rfl
@[simp] theorem State.setRetr_tick (s : State) (p : Nat) (x : Retr) : (s.setRetr p x).tick = s.tick := rfl
@[simp] theorem State.setRetr_agenda (s : State) (p : Nat) (x : Retr) : (s.setRetr p x).agenda = s.agenda := rfl
@[simp] theorem State.setRetr_cores (s : State) (p : Nat) (x : Retr) : (s.setRetr p x).cores = s.cores := rfl
@[simp] theorem State.setRetr_lmap (s : State) (p : Nat) (x : Retr) : (s.setRetr p x).lmap = s.lmap := rfl
@[simp] theorem State.setRetr_clusters (s : State) (p : Nat) (x : Retr) : (s.setRetr p x).clusters = s.clusters := rfl
@[simp] theorem State.setRetr_dies (s : State) (p : Nat) (x : Retr) : (s.setRetr p x).dies = s.dies := rfl
@[simp] theorem State.setRetr_stks (s : State) (p : Nat) (x : Retr) : (s.setRetr p x).stks = s.stks := rfl
@[simp] theorem State.setRetr_bugles (s : State) (p : Nat) (x : Retr) : (s.setRetr p x).bugles = s.bugles := rfl
@[simp] theorem State.setRetr_dram (s : State) (p : Nat) (x : Retr) : (s.setRetr p x).dram = s.dram := rfl
@[simp] theorem State.setRetr_host (s : State) (p : Nat) (x : Retr) : (s.setRetr p x).host = s.host := rfl
@[simp] theorem State.setRetr_pod (s : State) (p : Nat) (x : Retr) : (s.setRetr p x).pod = s.pod := rfl
@[simp] theorem State.setRetr_recalls (s : State) (p : Nat) (x : Retr) : (s.setRetr p x).recalls = s.recalls := rfl
@[simp] theorem State.setRetr_poison (s : State) (p : Nat) (x : Retr) : (s.setRetr p x).poison = s.poison := rfl
@[simp] theorem State.setRetr_net (s : State) (p : Nat) (x : Retr) : (s.setRetr p x).net = s.net := rfl
@[simp] theorem State.setRetr_misses (s : State) (p : Nat) (x : Retr) : (s.setRetr p x).misses = s.misses := rfl
@[simp] theorem State.setRetr_facks (s : State) (p : Nat) (x : Retr) : (s.setRetr p x).facks = s.facks := rfl
@[simp] theorem State.setRetr_migs (s : State) (p : Nat) (x : Retr) : (s.setRetr p x).migs = s.migs := rfl
@[simp] theorem State.setRetr_ctxs (s : State) (p : Nat) (x : Retr) : (s.setRetr p x).ctxs = s.ctxs := rfl
@[simp] theorem State.setRetr_queues (s : State) (p : Nat) (x : Retr) : (s.setRetr p x).queues = s.queues := rfl
@[simp] theorem State.setRetr_kernels (s : State) (p : Nat) (x : Retr) : (s.setRetr p x).kernels = s.kernels := rfl
@[simp] theorem State.setRetr_launches (s : State) (p : Nat) (x : Retr) : (s.setRetr p x).launches = s.launches := rfl
@[simp] theorem State.setRetr_links (s : State) (p : Nat) (x : Retr) : (s.setRetr p x).links = s.links := rfl
@[simp] theorem State.setRetr_routes (s : State) (p : Nat) (x : Retr) : (s.setRetr p x).routes = s.routes := rfl
@[simp] theorem State.setRetr_deficit (s : State) (p : Nat) (x : Retr) : (s.setRetr p x).deficit = s.deficit := rfl
@[simp] theorem State.setRetr_panel (s : State) (p : Nat) (x : Retr) : (s.setRetr p x).panel = s.panel := rfl
@[simp] theorem State.setRetr_retrs (s : State) (p : Nat) (x : Retr) : (s.setRetr p x).retrs = tset s.retrs p x := rfl
@[simp] theorem State.setRetr_retr_same (s : State) (p : Nat) (x : Retr) : (s.setRetr p x).retr p = x := tget_tset_same _ _ _ _
theorem State.setRetr_retr_ne (s : State) (p : Nat) (x : Retr) (q : Nat) (h : q ≠ p) : (s.setRetr p x).retr q = s.retr q :=
  tget_tset_ne _ _ _ _ _ h
@[simp] theorem State.setCore_retr (s : State) (p : Nat) (x : Core) (q : Nat) : (s.setCore p x).retr q = s.retr q := rfl
@[simp] theorem State.setCluster_retr (s : State) (p : Nat) (x : Cluster) (q : Nat) : (s.setCluster p x).retr q = s.retr q := rfl
@[simp] theorem State.setDie_retr (s : State) (p : Nat) (x : Die) (q : Nat) : (s.setDie p x).retr q = s.retr q := rfl
@[simp] theorem State.setStack_retr (s : State) (p : Nat) (x : Stack) (q : Nat) : (s.setStack p x).retr q = s.retr q := rfl
@[simp] theorem State.setBugle_retr (s : State) (p : Nat) (x : Bugle) (q : Nat) : (s.setBugle p x).retr q = s.retr q := rfl
@[simp] theorem State.setCtx_retr (s : State) (p : Nat) (x : Ctx) (q : Nat) : (s.setCtx p x).retr q = s.retr q := rfl
@[simp] theorem State.setQueue_retr (s : State) (p : Nat) (x : Queue) (q : Nat) : (s.setQueue p x).retr q = s.retr q := rfl
@[simp] theorem State.setKernel_retr (s : State) (p : Nat) (x : Kernel) (q : Nat) : (s.setKernel p x).retr q = s.retr q := rfl
@[simp] theorem State.setLink_retr (s : State) (p : Nat) (x : Link) (q : Nat) : (s.setLink p x).retr q = s.retr q := rfl

@[simp] theorem State.setBugle_focus (s : State) (p : Nat) (x : Bugle) : (s.setBugle p x).focus = s.focus := rfl
@[simp] theorem State.setBugle_cur (s : State) (p : Nat) (x : Bugle) : (s.setBugle p x).cur = s.cur := rfl
@[simp] theorem State.setBugle_tick (s : State) (p : Nat) (x : Bugle) : (s.setBugle p x).tick = s.tick := rfl
@[simp] theorem State.setBugle_agenda (s : State) (p : Nat) (x : Bugle) : (s.setBugle p x).agenda = s.agenda := rfl
@[simp] theorem State.setBugle_cores (s : State) (p : Nat) (x : Bugle) : (s.setBugle p x).cores = s.cores := rfl
@[simp] theorem State.setBugle_lmap (s : State) (p : Nat) (x : Bugle) : (s.setBugle p x).lmap = s.lmap := rfl
@[simp] theorem State.setBugle_clusters (s : State) (p : Nat) (x : Bugle) : (s.setBugle p x).clusters = s.clusters := rfl
@[simp] theorem State.setBugle_dies (s : State) (p : Nat) (x : Bugle) : (s.setBugle p x).dies = s.dies := rfl
@[simp] theorem State.setBugle_stks (s : State) (p : Nat) (x : Bugle) : (s.setBugle p x).stks = s.stks := rfl
@[simp] theorem State.setBugle_retrs (s : State) (p : Nat) (x : Bugle) : (s.setBugle p x).retrs = s.retrs := rfl
@[simp] theorem State.setBugle_dram (s : State) (p : Nat) (x : Bugle) : (s.setBugle p x).dram = s.dram := rfl
@[simp] theorem State.setBugle_host (s : State) (p : Nat) (x : Bugle) : (s.setBugle p x).host = s.host := rfl
@[simp] theorem State.setBugle_pod (s : State) (p : Nat) (x : Bugle) : (s.setBugle p x).pod = s.pod := rfl
@[simp] theorem State.setBugle_recalls (s : State) (p : Nat) (x : Bugle) : (s.setBugle p x).recalls = s.recalls := rfl
@[simp] theorem State.setBugle_poison (s : State) (p : Nat) (x : Bugle) : (s.setBugle p x).poison = s.poison := rfl
@[simp] theorem State.setBugle_net (s : State) (p : Nat) (x : Bugle) : (s.setBugle p x).net = s.net := rfl
@[simp] theorem State.setBugle_misses (s : State) (p : Nat) (x : Bugle) : (s.setBugle p x).misses = s.misses := rfl
@[simp] theorem State.setBugle_facks (s : State) (p : Nat) (x : Bugle) : (s.setBugle p x).facks = s.facks := rfl
@[simp] theorem State.setBugle_migs (s : State) (p : Nat) (x : Bugle) : (s.setBugle p x).migs = s.migs := rfl
@[simp] theorem State.setBugle_ctxs (s : State) (p : Nat) (x : Bugle) : (s.setBugle p x).ctxs = s.ctxs := rfl
@[simp] theorem State.setBugle_queues (s : State) (p : Nat) (x : Bugle) : (s.setBugle p x).queues = s.queues := rfl
@[simp] theorem State.setBugle_kernels (s : State) (p : Nat) (x : Bugle) : (s.setBugle p x).kernels = s.kernels := rfl
@[simp] theorem State.setBugle_launches (s : State) (p : Nat) (x : Bugle) : (s.setBugle p x).launches = s.launches := rfl
@[simp] theorem State.setBugle_links (s : State) (p : Nat) (x : Bugle) : (s.setBugle p x).links = s.links := rfl
@[simp] theorem State.setBugle_routes (s : State) (p : Nat) (x : Bugle) : (s.setBugle p x).routes = s.routes := rfl
@[simp] theorem State.setBugle_deficit (s : State) (p : Nat) (x : Bugle) : (s.setBugle p x).deficit = s.deficit := rfl
@[simp] theorem State.setBugle_panel (s : State) (p : Nat) (x : Bugle) : (s.setBugle p x).panel = s.panel := rfl
@[simp] theorem State.setBugle_bugles (s : State) (p : Nat) (x : Bugle) : (s.setBugle p x).bugles = tset s.bugles p x := rfl
@[simp] theorem State.setBugle_bugle_same (s : State) (p : Nat) (x : Bugle) : (s.setBugle p x).bugle p = x := tget_tset_same _ _ _ _
theorem State.setBugle_bugle_ne (s : State) (p : Nat) (x : Bugle) (q : Nat) (h : q ≠ p) : (s.setBugle p x).bugle q = s.bugle q :=
  tget_tset_ne _ _ _ _ _ h
@[simp] theorem State.setCore_bugle (s : State) (p : Nat) (x : Core) (q : Nat) : (s.setCore p x).bugle q = s.bugle q := rfl
@[simp] theorem State.setCluster_bugle (s : State) (p : Nat) (x : Cluster) (q : Nat) : (s.setCluster p x).bugle q = s.bugle q := rfl
@[simp] theorem State.setDie_bugle (s : State) (p : Nat) (x : Die) (q : Nat) : (s.setDie p x).bugle q = s.bugle q := rfl
@[simp] theorem State.setStack_bugle (s : State) (p : Nat) (x : Stack) (q : Nat) : (s.setStack p x).bugle q = s.bugle q := rfl
@[simp] theorem State.setRetr_bugle (s : State) (p : Nat) (x : Retr) (q : Nat) : (s.setRetr p x).bugle q = s.bugle q := rfl
@[simp] theorem State.setCtx_bugle (s : State) (p : Nat) (x : Ctx) (q : Nat) : (s.setCtx p x).bugle q = s.bugle q := rfl
@[simp] theorem State.setQueue_bugle (s : State) (p : Nat) (x : Queue) (q : Nat) : (s.setQueue p x).bugle q = s.bugle q := rfl
@[simp] theorem State.setKernel_bugle (s : State) (p : Nat) (x : Kernel) (q : Nat) : (s.setKernel p x).bugle q = s.bugle q := rfl
@[simp] theorem State.setLink_bugle (s : State) (p : Nat) (x : Link) (q : Nat) : (s.setLink p x).bugle q = s.bugle q := rfl

@[simp] theorem State.setCtx_focus (s : State) (p : Nat) (x : Ctx) : (s.setCtx p x).focus = s.focus := rfl
@[simp] theorem State.setCtx_cur (s : State) (p : Nat) (x : Ctx) : (s.setCtx p x).cur = s.cur := rfl
@[simp] theorem State.setCtx_tick (s : State) (p : Nat) (x : Ctx) : (s.setCtx p x).tick = s.tick := rfl
@[simp] theorem State.setCtx_agenda (s : State) (p : Nat) (x : Ctx) : (s.setCtx p x).agenda = s.agenda := rfl
@[simp] theorem State.setCtx_cores (s : State) (p : Nat) (x : Ctx) : (s.setCtx p x).cores = s.cores := rfl
@[simp] theorem State.setCtx_lmap (s : State) (p : Nat) (x : Ctx) : (s.setCtx p x).lmap = s.lmap := rfl
@[simp] theorem State.setCtx_clusters (s : State) (p : Nat) (x : Ctx) : (s.setCtx p x).clusters = s.clusters := rfl
@[simp] theorem State.setCtx_dies (s : State) (p : Nat) (x : Ctx) : (s.setCtx p x).dies = s.dies := rfl
@[simp] theorem State.setCtx_stks (s : State) (p : Nat) (x : Ctx) : (s.setCtx p x).stks = s.stks := rfl
@[simp] theorem State.setCtx_retrs (s : State) (p : Nat) (x : Ctx) : (s.setCtx p x).retrs = s.retrs := rfl
@[simp] theorem State.setCtx_bugles (s : State) (p : Nat) (x : Ctx) : (s.setCtx p x).bugles = s.bugles := rfl
@[simp] theorem State.setCtx_dram (s : State) (p : Nat) (x : Ctx) : (s.setCtx p x).dram = s.dram := rfl
@[simp] theorem State.setCtx_host (s : State) (p : Nat) (x : Ctx) : (s.setCtx p x).host = s.host := rfl
@[simp] theorem State.setCtx_pod (s : State) (p : Nat) (x : Ctx) : (s.setCtx p x).pod = s.pod := rfl
@[simp] theorem State.setCtx_recalls (s : State) (p : Nat) (x : Ctx) : (s.setCtx p x).recalls = s.recalls := rfl
@[simp] theorem State.setCtx_poison (s : State) (p : Nat) (x : Ctx) : (s.setCtx p x).poison = s.poison := rfl
@[simp] theorem State.setCtx_net (s : State) (p : Nat) (x : Ctx) : (s.setCtx p x).net = s.net := rfl
@[simp] theorem State.setCtx_misses (s : State) (p : Nat) (x : Ctx) : (s.setCtx p x).misses = s.misses := rfl
@[simp] theorem State.setCtx_facks (s : State) (p : Nat) (x : Ctx) : (s.setCtx p x).facks = s.facks := rfl
@[simp] theorem State.setCtx_migs (s : State) (p : Nat) (x : Ctx) : (s.setCtx p x).migs = s.migs := rfl
@[simp] theorem State.setCtx_queues (s : State) (p : Nat) (x : Ctx) : (s.setCtx p x).queues = s.queues := rfl
@[simp] theorem State.setCtx_kernels (s : State) (p : Nat) (x : Ctx) : (s.setCtx p x).kernels = s.kernels := rfl
@[simp] theorem State.setCtx_launches (s : State) (p : Nat) (x : Ctx) : (s.setCtx p x).launches = s.launches := rfl
@[simp] theorem State.setCtx_links (s : State) (p : Nat) (x : Ctx) : (s.setCtx p x).links = s.links := rfl
@[simp] theorem State.setCtx_routes (s : State) (p : Nat) (x : Ctx) : (s.setCtx p x).routes = s.routes := rfl
@[simp] theorem State.setCtx_deficit (s : State) (p : Nat) (x : Ctx) : (s.setCtx p x).deficit = s.deficit := rfl
@[simp] theorem State.setCtx_panel (s : State) (p : Nat) (x : Ctx) : (s.setCtx p x).panel = s.panel := rfl
@[simp] theorem State.setCtx_ctxs (s : State) (p : Nat) (x : Ctx) : (s.setCtx p x).ctxs = tset s.ctxs p x := rfl
@[simp] theorem State.setCtx_ctx_same (s : State) (p : Nat) (x : Ctx) : (s.setCtx p x).ctx p = x := tget_tset_same _ _ _ _
theorem State.setCtx_ctx_ne (s : State) (p : Nat) (x : Ctx) (q : Nat) (h : q ≠ p) : (s.setCtx p x).ctx q = s.ctx q :=
  tget_tset_ne _ _ _ _ _ h
@[simp] theorem State.setCore_ctx (s : State) (p : Nat) (x : Core) (q : Nat) : (s.setCore p x).ctx q = s.ctx q := rfl
@[simp] theorem State.setCluster_ctx (s : State) (p : Nat) (x : Cluster) (q : Nat) : (s.setCluster p x).ctx q = s.ctx q := rfl
@[simp] theorem State.setDie_ctx (s : State) (p : Nat) (x : Die) (q : Nat) : (s.setDie p x).ctx q = s.ctx q := rfl
@[simp] theorem State.setStack_ctx (s : State) (p : Nat) (x : Stack) (q : Nat) : (s.setStack p x).ctx q = s.ctx q := rfl
@[simp] theorem State.setRetr_ctx (s : State) (p : Nat) (x : Retr) (q : Nat) : (s.setRetr p x).ctx q = s.ctx q := rfl
@[simp] theorem State.setBugle_ctx (s : State) (p : Nat) (x : Bugle) (q : Nat) : (s.setBugle p x).ctx q = s.ctx q := rfl
@[simp] theorem State.setQueue_ctx (s : State) (p : Nat) (x : Queue) (q : Nat) : (s.setQueue p x).ctx q = s.ctx q := rfl
@[simp] theorem State.setKernel_ctx (s : State) (p : Nat) (x : Kernel) (q : Nat) : (s.setKernel p x).ctx q = s.ctx q := rfl
@[simp] theorem State.setLink_ctx (s : State) (p : Nat) (x : Link) (q : Nat) : (s.setLink p x).ctx q = s.ctx q := rfl

@[simp] theorem State.setQueue_focus (s : State) (p : Nat) (x : Queue) : (s.setQueue p x).focus = s.focus := rfl
@[simp] theorem State.setQueue_cur (s : State) (p : Nat) (x : Queue) : (s.setQueue p x).cur = s.cur := rfl
@[simp] theorem State.setQueue_tick (s : State) (p : Nat) (x : Queue) : (s.setQueue p x).tick = s.tick := rfl
@[simp] theorem State.setQueue_agenda (s : State) (p : Nat) (x : Queue) : (s.setQueue p x).agenda = s.agenda := rfl
@[simp] theorem State.setQueue_cores (s : State) (p : Nat) (x : Queue) : (s.setQueue p x).cores = s.cores := rfl
@[simp] theorem State.setQueue_lmap (s : State) (p : Nat) (x : Queue) : (s.setQueue p x).lmap = s.lmap := rfl
@[simp] theorem State.setQueue_clusters (s : State) (p : Nat) (x : Queue) : (s.setQueue p x).clusters = s.clusters := rfl
@[simp] theorem State.setQueue_dies (s : State) (p : Nat) (x : Queue) : (s.setQueue p x).dies = s.dies := rfl
@[simp] theorem State.setQueue_stks (s : State) (p : Nat) (x : Queue) : (s.setQueue p x).stks = s.stks := rfl
@[simp] theorem State.setQueue_retrs (s : State) (p : Nat) (x : Queue) : (s.setQueue p x).retrs = s.retrs := rfl
@[simp] theorem State.setQueue_bugles (s : State) (p : Nat) (x : Queue) : (s.setQueue p x).bugles = s.bugles := rfl
@[simp] theorem State.setQueue_dram (s : State) (p : Nat) (x : Queue) : (s.setQueue p x).dram = s.dram := rfl
@[simp] theorem State.setQueue_host (s : State) (p : Nat) (x : Queue) : (s.setQueue p x).host = s.host := rfl
@[simp] theorem State.setQueue_pod (s : State) (p : Nat) (x : Queue) : (s.setQueue p x).pod = s.pod := rfl
@[simp] theorem State.setQueue_recalls (s : State) (p : Nat) (x : Queue) : (s.setQueue p x).recalls = s.recalls := rfl
@[simp] theorem State.setQueue_poison (s : State) (p : Nat) (x : Queue) : (s.setQueue p x).poison = s.poison := rfl
@[simp] theorem State.setQueue_net (s : State) (p : Nat) (x : Queue) : (s.setQueue p x).net = s.net := rfl
@[simp] theorem State.setQueue_misses (s : State) (p : Nat) (x : Queue) : (s.setQueue p x).misses = s.misses := rfl
@[simp] theorem State.setQueue_facks (s : State) (p : Nat) (x : Queue) : (s.setQueue p x).facks = s.facks := rfl
@[simp] theorem State.setQueue_migs (s : State) (p : Nat) (x : Queue) : (s.setQueue p x).migs = s.migs := rfl
@[simp] theorem State.setQueue_ctxs (s : State) (p : Nat) (x : Queue) : (s.setQueue p x).ctxs = s.ctxs := rfl
@[simp] theorem State.setQueue_kernels (s : State) (p : Nat) (x : Queue) : (s.setQueue p x).kernels = s.kernels := rfl
@[simp] theorem State.setQueue_launches (s : State) (p : Nat) (x : Queue) : (s.setQueue p x).launches = s.launches := rfl
@[simp] theorem State.setQueue_links (s : State) (p : Nat) (x : Queue) : (s.setQueue p x).links = s.links := rfl
@[simp] theorem State.setQueue_routes (s : State) (p : Nat) (x : Queue) : (s.setQueue p x).routes = s.routes := rfl
@[simp] theorem State.setQueue_deficit (s : State) (p : Nat) (x : Queue) : (s.setQueue p x).deficit = s.deficit := rfl
@[simp] theorem State.setQueue_panel (s : State) (p : Nat) (x : Queue) : (s.setQueue p x).panel = s.panel := rfl
@[simp] theorem State.setQueue_queues (s : State) (p : Nat) (x : Queue) : (s.setQueue p x).queues = tset s.queues p x := rfl
@[simp] theorem State.setQueue_queue_same (s : State) (p : Nat) (x : Queue) : (s.setQueue p x).queue p = x := tget_tset_same _ _ _ _
theorem State.setQueue_queue_ne (s : State) (p : Nat) (x : Queue) (q : Nat) (h : q ≠ p) : (s.setQueue p x).queue q = s.queue q :=
  tget_tset_ne _ _ _ _ _ h
@[simp] theorem State.setCore_queue (s : State) (p : Nat) (x : Core) (q : Nat) : (s.setCore p x).queue q = s.queue q := rfl
@[simp] theorem State.setCluster_queue (s : State) (p : Nat) (x : Cluster) (q : Nat) : (s.setCluster p x).queue q = s.queue q := rfl
@[simp] theorem State.setDie_queue (s : State) (p : Nat) (x : Die) (q : Nat) : (s.setDie p x).queue q = s.queue q := rfl
@[simp] theorem State.setStack_queue (s : State) (p : Nat) (x : Stack) (q : Nat) : (s.setStack p x).queue q = s.queue q := rfl
@[simp] theorem State.setRetr_queue (s : State) (p : Nat) (x : Retr) (q : Nat) : (s.setRetr p x).queue q = s.queue q := rfl
@[simp] theorem State.setBugle_queue (s : State) (p : Nat) (x : Bugle) (q : Nat) : (s.setBugle p x).queue q = s.queue q := rfl
@[simp] theorem State.setCtx_queue (s : State) (p : Nat) (x : Ctx) (q : Nat) : (s.setCtx p x).queue q = s.queue q := rfl
@[simp] theorem State.setKernel_queue (s : State) (p : Nat) (x : Kernel) (q : Nat) : (s.setKernel p x).queue q = s.queue q := rfl
@[simp] theorem State.setLink_queue (s : State) (p : Nat) (x : Link) (q : Nat) : (s.setLink p x).queue q = s.queue q := rfl

@[simp] theorem State.setKernel_focus (s : State) (p : Nat) (x : Kernel) : (s.setKernel p x).focus = s.focus := rfl
@[simp] theorem State.setKernel_cur (s : State) (p : Nat) (x : Kernel) : (s.setKernel p x).cur = s.cur := rfl
@[simp] theorem State.setKernel_tick (s : State) (p : Nat) (x : Kernel) : (s.setKernel p x).tick = s.tick := rfl
@[simp] theorem State.setKernel_agenda (s : State) (p : Nat) (x : Kernel) : (s.setKernel p x).agenda = s.agenda := rfl
@[simp] theorem State.setKernel_cores (s : State) (p : Nat) (x : Kernel) : (s.setKernel p x).cores = s.cores := rfl
@[simp] theorem State.setKernel_lmap (s : State) (p : Nat) (x : Kernel) : (s.setKernel p x).lmap = s.lmap := rfl
@[simp] theorem State.setKernel_clusters (s : State) (p : Nat) (x : Kernel) : (s.setKernel p x).clusters = s.clusters := rfl
@[simp] theorem State.setKernel_dies (s : State) (p : Nat) (x : Kernel) : (s.setKernel p x).dies = s.dies := rfl
@[simp] theorem State.setKernel_stks (s : State) (p : Nat) (x : Kernel) : (s.setKernel p x).stks = s.stks := rfl
@[simp] theorem State.setKernel_retrs (s : State) (p : Nat) (x : Kernel) : (s.setKernel p x).retrs = s.retrs := rfl
@[simp] theorem State.setKernel_bugles (s : State) (p : Nat) (x : Kernel) : (s.setKernel p x).bugles = s.bugles := rfl
@[simp] theorem State.setKernel_dram (s : State) (p : Nat) (x : Kernel) : (s.setKernel p x).dram = s.dram := rfl
@[simp] theorem State.setKernel_host (s : State) (p : Nat) (x : Kernel) : (s.setKernel p x).host = s.host := rfl
@[simp] theorem State.setKernel_pod (s : State) (p : Nat) (x : Kernel) : (s.setKernel p x).pod = s.pod := rfl
@[simp] theorem State.setKernel_recalls (s : State) (p : Nat) (x : Kernel) : (s.setKernel p x).recalls = s.recalls := rfl
@[simp] theorem State.setKernel_poison (s : State) (p : Nat) (x : Kernel) : (s.setKernel p x).poison = s.poison := rfl
@[simp] theorem State.setKernel_net (s : State) (p : Nat) (x : Kernel) : (s.setKernel p x).net = s.net := rfl
@[simp] theorem State.setKernel_misses (s : State) (p : Nat) (x : Kernel) : (s.setKernel p x).misses = s.misses := rfl
@[simp] theorem State.setKernel_facks (s : State) (p : Nat) (x : Kernel) : (s.setKernel p x).facks = s.facks := rfl
@[simp] theorem State.setKernel_migs (s : State) (p : Nat) (x : Kernel) : (s.setKernel p x).migs = s.migs := rfl
@[simp] theorem State.setKernel_ctxs (s : State) (p : Nat) (x : Kernel) : (s.setKernel p x).ctxs = s.ctxs := rfl
@[simp] theorem State.setKernel_queues (s : State) (p : Nat) (x : Kernel) : (s.setKernel p x).queues = s.queues := rfl
@[simp] theorem State.setKernel_launches (s : State) (p : Nat) (x : Kernel) : (s.setKernel p x).launches = s.launches := rfl
@[simp] theorem State.setKernel_links (s : State) (p : Nat) (x : Kernel) : (s.setKernel p x).links = s.links := rfl
@[simp] theorem State.setKernel_routes (s : State) (p : Nat) (x : Kernel) : (s.setKernel p x).routes = s.routes := rfl
@[simp] theorem State.setKernel_deficit (s : State) (p : Nat) (x : Kernel) : (s.setKernel p x).deficit = s.deficit := rfl
@[simp] theorem State.setKernel_panel (s : State) (p : Nat) (x : Kernel) : (s.setKernel p x).panel = s.panel := rfl
@[simp] theorem State.setKernel_kernels (s : State) (p : Nat) (x : Kernel) : (s.setKernel p x).kernels = tset s.kernels p x := rfl

@[simp] theorem State.setLink_focus (s : State) (p : Nat) (x : Link) : (s.setLink p x).focus = s.focus := rfl
@[simp] theorem State.setLink_cur (s : State) (p : Nat) (x : Link) : (s.setLink p x).cur = s.cur := rfl
@[simp] theorem State.setLink_tick (s : State) (p : Nat) (x : Link) : (s.setLink p x).tick = s.tick := rfl
@[simp] theorem State.setLink_agenda (s : State) (p : Nat) (x : Link) : (s.setLink p x).agenda = s.agenda := rfl
@[simp] theorem State.setLink_cores (s : State) (p : Nat) (x : Link) : (s.setLink p x).cores = s.cores := rfl
@[simp] theorem State.setLink_lmap (s : State) (p : Nat) (x : Link) : (s.setLink p x).lmap = s.lmap := rfl
@[simp] theorem State.setLink_clusters (s : State) (p : Nat) (x : Link) : (s.setLink p x).clusters = s.clusters := rfl
@[simp] theorem State.setLink_dies (s : State) (p : Nat) (x : Link) : (s.setLink p x).dies = s.dies := rfl
@[simp] theorem State.setLink_stks (s : State) (p : Nat) (x : Link) : (s.setLink p x).stks = s.stks := rfl
@[simp] theorem State.setLink_retrs (s : State) (p : Nat) (x : Link) : (s.setLink p x).retrs = s.retrs := rfl
@[simp] theorem State.setLink_bugles (s : State) (p : Nat) (x : Link) : (s.setLink p x).bugles = s.bugles := rfl
@[simp] theorem State.setLink_dram (s : State) (p : Nat) (x : Link) : (s.setLink p x).dram = s.dram := rfl
@[simp] theorem State.setLink_host (s : State) (p : Nat) (x : Link) : (s.setLink p x).host = s.host := rfl
@[simp] theorem State.setLink_pod (s : State) (p : Nat) (x : Link) : (s.setLink p x).pod = s.pod := rfl
@[simp] theorem State.setLink_recalls (s : State) (p : Nat) (x : Link) : (s.setLink p x).recalls = s.recalls := rfl
@[simp] theorem State.setLink_poison (s : State) (p : Nat) (x : Link) : (s.setLink p x).poison = s.poison := rfl
@[simp] theorem State.setLink_net (s : State) (p : Nat) (x : Link) : (s.setLink p x).net = s.net := rfl
@[simp] theorem State.setLink_misses (s : State) (p : Nat) (x : Link) : (s.setLink p x).misses = s.misses := rfl
@[simp] theorem State.setLink_facks (s : State) (p : Nat) (x : Link) : (s.setLink p x).facks = s.facks := rfl
@[simp] theorem State.setLink_migs (s : State) (p : Nat) (x : Link) : (s.setLink p x).migs = s.migs := rfl
@[simp] theorem State.setLink_ctxs (s : State) (p : Nat) (x : Link) : (s.setLink p x).ctxs = s.ctxs := rfl
@[simp] theorem State.setLink_queues (s : State) (p : Nat) (x : Link) : (s.setLink p x).queues = s.queues := rfl
@[simp] theorem State.setLink_kernels (s : State) (p : Nat) (x : Link) : (s.setLink p x).kernels = s.kernels := rfl
@[simp] theorem State.setLink_launches (s : State) (p : Nat) (x : Link) : (s.setLink p x).launches = s.launches := rfl
@[simp] theorem State.setLink_routes (s : State) (p : Nat) (x : Link) : (s.setLink p x).routes = s.routes := rfl
@[simp] theorem State.setLink_deficit (s : State) (p : Nat) (x : Link) : (s.setLink p x).deficit = s.deficit := rfl
@[simp] theorem State.setLink_panel (s : State) (p : Nat) (x : Link) : (s.setLink p x).panel = s.panel := rfl
@[simp] theorem State.setLink_links (s : State) (p : Nat) (x : Link) : (s.setLink p x).links = tset s.links p x := rfl
@[simp] theorem State.setLink_link_same (s : State) (p : Nat) (x : Link) : (s.setLink p x).link p = x := tget_tset_same _ _ _ _
theorem State.setLink_link_ne (s : State) (p : Nat) (x : Link) (q : Nat) (h : q ≠ p) : (s.setLink p x).link q = s.link q :=
  tget_tset_ne _ _ _ _ _ h
@[simp] theorem State.setCore_link (s : State) (p : Nat) (x : Core) (q : Nat) : (s.setCore p x).link q = s.link q := rfl
@[simp] theorem State.setCluster_link (s : State) (p : Nat) (x : Cluster) (q : Nat) : (s.setCluster p x).link q = s.link q := rfl
@[simp] theorem State.setDie_link (s : State) (p : Nat) (x : Die) (q : Nat) : (s.setDie p x).link q = s.link q := rfl
@[simp] theorem State.setStack_link (s : State) (p : Nat) (x : Stack) (q : Nat) : (s.setStack p x).link q = s.link q := rfl
@[simp] theorem State.setRetr_link (s : State) (p : Nat) (x : Retr) (q : Nat) : (s.setRetr p x).link q = s.link q := rfl
@[simp] theorem State.setBugle_link (s : State) (p : Nat) (x : Bugle) (q : Nat) : (s.setBugle p x).link q = s.link q := rfl
@[simp] theorem State.setCtx_link (s : State) (p : Nat) (x : Ctx) (q : Nat) : (s.setCtx p x).link q = s.link q := rfl
@[simp] theorem State.setQueue_link (s : State) (p : Nat) (x : Queue) (q : Nat) : (s.setQueue p x).link q = s.link q := rfl
@[simp] theorem State.setKernel_link (s : State) (p : Nat) (x : Kernel) (q : Nat) : (s.setKernel p x).link q = s.link q := rfl

/-! ### Operations over one core or one thread -/

@[simp] theorem State.modCore_focus (s : State) (p : Nat) (f : Core → Core) : (s.modCore p f).focus = s.focus := rfl
@[simp] theorem State.modCore_cur (s : State) (p : Nat) (f : Core → Core) : (s.modCore p f).cur = s.cur := rfl
@[simp] theorem State.modCore_tick (s : State) (p : Nat) (f : Core → Core) : (s.modCore p f).tick = s.tick := rfl
@[simp] theorem State.modCore_agenda (s : State) (p : Nat) (f : Core → Core) : (s.modCore p f).agenda = s.agenda := rfl
@[simp] theorem State.modCore_lmap (s : State) (p : Nat) (f : Core → Core) : (s.modCore p f).lmap = s.lmap := rfl
@[simp] theorem State.modCore_clusters (s : State) (p : Nat) (f : Core → Core) : (s.modCore p f).clusters = s.clusters := rfl
@[simp] theorem State.modCore_dies (s : State) (p : Nat) (f : Core → Core) : (s.modCore p f).dies = s.dies := rfl
@[simp] theorem State.modCore_stks (s : State) (p : Nat) (f : Core → Core) : (s.modCore p f).stks = s.stks := rfl
@[simp] theorem State.modCore_retrs (s : State) (p : Nat) (f : Core → Core) : (s.modCore p f).retrs = s.retrs := rfl
@[simp] theorem State.modCore_bugles (s : State) (p : Nat) (f : Core → Core) : (s.modCore p f).bugles = s.bugles := rfl
@[simp] theorem State.modCore_dram (s : State) (p : Nat) (f : Core → Core) : (s.modCore p f).dram = s.dram := rfl
@[simp] theorem State.modCore_host (s : State) (p : Nat) (f : Core → Core) : (s.modCore p f).host = s.host := rfl
@[simp] theorem State.modCore_pod (s : State) (p : Nat) (f : Core → Core) : (s.modCore p f).pod = s.pod := rfl
@[simp] theorem State.modCore_recalls (s : State) (p : Nat) (f : Core → Core) : (s.modCore p f).recalls = s.recalls := rfl
@[simp] theorem State.modCore_poison (s : State) (p : Nat) (f : Core → Core) : (s.modCore p f).poison = s.poison := rfl
@[simp] theorem State.modCore_net (s : State) (p : Nat) (f : Core → Core) : (s.modCore p f).net = s.net := rfl
@[simp] theorem State.modCore_misses (s : State) (p : Nat) (f : Core → Core) : (s.modCore p f).misses = s.misses := rfl
@[simp] theorem State.modCore_facks (s : State) (p : Nat) (f : Core → Core) : (s.modCore p f).facks = s.facks := rfl
@[simp] theorem State.modCore_migs (s : State) (p : Nat) (f : Core → Core) : (s.modCore p f).migs = s.migs := rfl
@[simp] theorem State.modCore_ctxs (s : State) (p : Nat) (f : Core → Core) : (s.modCore p f).ctxs = s.ctxs := rfl
@[simp] theorem State.modCore_queues (s : State) (p : Nat) (f : Core → Core) : (s.modCore p f).queues = s.queues := rfl
@[simp] theorem State.modCore_kernels (s : State) (p : Nat) (f : Core → Core) : (s.modCore p f).kernels = s.kernels := rfl
@[simp] theorem State.modCore_launches (s : State) (p : Nat) (f : Core → Core) : (s.modCore p f).launches = s.launches := rfl
@[simp] theorem State.modCore_links (s : State) (p : Nat) (f : Core → Core) : (s.modCore p f).links = s.links := rfl
@[simp] theorem State.modCore_routes (s : State) (p : Nat) (f : Core → Core) : (s.modCore p f).routes = s.routes := rfl
@[simp] theorem State.modCore_deficit (s : State) (p : Nat) (f : Core → Core) : (s.modCore p f).deficit = s.deficit := rfl
@[simp] theorem State.modCore_panel (s : State) (p : Nat) (f : Core → Core) : (s.modCore p f).panel = s.panel := rfl

@[simp] theorem State.setThread_focus (s : State) (p t : Nat) (x : Thread) : (s.setThread p t x).focus = s.focus := rfl
@[simp] theorem State.setThread_cur (s : State) (p t : Nat) (x : Thread) : (s.setThread p t x).cur = s.cur := rfl
@[simp] theorem State.setThread_tick (s : State) (p t : Nat) (x : Thread) : (s.setThread p t x).tick = s.tick := rfl
@[simp] theorem State.setThread_agenda (s : State) (p t : Nat) (x : Thread) : (s.setThread p t x).agenda = s.agenda := rfl
@[simp] theorem State.setThread_lmap (s : State) (p t : Nat) (x : Thread) : (s.setThread p t x).lmap = s.lmap := rfl
@[simp] theorem State.setThread_clusters (s : State) (p t : Nat) (x : Thread) : (s.setThread p t x).clusters = s.clusters := rfl
@[simp] theorem State.setThread_dies (s : State) (p t : Nat) (x : Thread) : (s.setThread p t x).dies = s.dies := rfl
@[simp] theorem State.setThread_stks (s : State) (p t : Nat) (x : Thread) : (s.setThread p t x).stks = s.stks := rfl
@[simp] theorem State.setThread_retrs (s : State) (p t : Nat) (x : Thread) : (s.setThread p t x).retrs = s.retrs := rfl
@[simp] theorem State.setThread_bugles (s : State) (p t : Nat) (x : Thread) : (s.setThread p t x).bugles = s.bugles := rfl
@[simp] theorem State.setThread_dram (s : State) (p t : Nat) (x : Thread) : (s.setThread p t x).dram = s.dram := rfl
@[simp] theorem State.setThread_host (s : State) (p t : Nat) (x : Thread) : (s.setThread p t x).host = s.host := rfl
@[simp] theorem State.setThread_pod (s : State) (p t : Nat) (x : Thread) : (s.setThread p t x).pod = s.pod := rfl
@[simp] theorem State.setThread_recalls (s : State) (p t : Nat) (x : Thread) : (s.setThread p t x).recalls = s.recalls := rfl
@[simp] theorem State.setThread_poison (s : State) (p t : Nat) (x : Thread) : (s.setThread p t x).poison = s.poison := rfl
@[simp] theorem State.setThread_net (s : State) (p t : Nat) (x : Thread) : (s.setThread p t x).net = s.net := rfl
@[simp] theorem State.setThread_misses (s : State) (p t : Nat) (x : Thread) : (s.setThread p t x).misses = s.misses := rfl
@[simp] theorem State.setThread_facks (s : State) (p t : Nat) (x : Thread) : (s.setThread p t x).facks = s.facks := rfl
@[simp] theorem State.setThread_migs (s : State) (p t : Nat) (x : Thread) : (s.setThread p t x).migs = s.migs := rfl
@[simp] theorem State.setThread_ctxs (s : State) (p t : Nat) (x : Thread) : (s.setThread p t x).ctxs = s.ctxs := rfl
@[simp] theorem State.setThread_queues (s : State) (p t : Nat) (x : Thread) : (s.setThread p t x).queues = s.queues := rfl
@[simp] theorem State.setThread_kernels (s : State) (p t : Nat) (x : Thread) : (s.setThread p t x).kernels = s.kernels := rfl
@[simp] theorem State.setThread_launches (s : State) (p t : Nat) (x : Thread) : (s.setThread p t x).launches = s.launches := rfl
@[simp] theorem State.setThread_links (s : State) (p t : Nat) (x : Thread) : (s.setThread p t x).links = s.links := rfl
@[simp] theorem State.setThread_routes (s : State) (p t : Nat) (x : Thread) : (s.setThread p t x).routes = s.routes := rfl
@[simp] theorem State.setThread_deficit (s : State) (p t : Nat) (x : Thread) : (s.setThread p t x).deficit = s.deficit := rfl
@[simp] theorem State.setThread_panel (s : State) (p t : Nat) (x : Thread) : (s.setThread p t x).panel = s.panel := rfl

@[simp] theorem State.modThread_focus (s : State) (p t : Nat) (f : Thread → Thread) : (s.modThread p t f).focus = s.focus := rfl
@[simp] theorem State.modThread_cur (s : State) (p t : Nat) (f : Thread → Thread) : (s.modThread p t f).cur = s.cur := rfl
@[simp] theorem State.modThread_tick (s : State) (p t : Nat) (f : Thread → Thread) : (s.modThread p t f).tick = s.tick := rfl
@[simp] theorem State.modThread_agenda (s : State) (p t : Nat) (f : Thread → Thread) : (s.modThread p t f).agenda = s.agenda := rfl
@[simp] theorem State.modThread_lmap (s : State) (p t : Nat) (f : Thread → Thread) : (s.modThread p t f).lmap = s.lmap := rfl
@[simp] theorem State.modThread_clusters (s : State) (p t : Nat) (f : Thread → Thread) : (s.modThread p t f).clusters = s.clusters := rfl
@[simp] theorem State.modThread_dies (s : State) (p t : Nat) (f : Thread → Thread) : (s.modThread p t f).dies = s.dies := rfl
@[simp] theorem State.modThread_stks (s : State) (p t : Nat) (f : Thread → Thread) : (s.modThread p t f).stks = s.stks := rfl
@[simp] theorem State.modThread_retrs (s : State) (p t : Nat) (f : Thread → Thread) : (s.modThread p t f).retrs = s.retrs := rfl
@[simp] theorem State.modThread_bugles (s : State) (p t : Nat) (f : Thread → Thread) : (s.modThread p t f).bugles = s.bugles := rfl
@[simp] theorem State.modThread_dram (s : State) (p t : Nat) (f : Thread → Thread) : (s.modThread p t f).dram = s.dram := rfl
@[simp] theorem State.modThread_host (s : State) (p t : Nat) (f : Thread → Thread) : (s.modThread p t f).host = s.host := rfl
@[simp] theorem State.modThread_pod (s : State) (p t : Nat) (f : Thread → Thread) : (s.modThread p t f).pod = s.pod := rfl
@[simp] theorem State.modThread_recalls (s : State) (p t : Nat) (f : Thread → Thread) : (s.modThread p t f).recalls = s.recalls := rfl
@[simp] theorem State.modThread_poison (s : State) (p t : Nat) (f : Thread → Thread) : (s.modThread p t f).poison = s.poison := rfl
@[simp] theorem State.modThread_net (s : State) (p t : Nat) (f : Thread → Thread) : (s.modThread p t f).net = s.net := rfl
@[simp] theorem State.modThread_misses (s : State) (p t : Nat) (f : Thread → Thread) : (s.modThread p t f).misses = s.misses := rfl
@[simp] theorem State.modThread_facks (s : State) (p t : Nat) (f : Thread → Thread) : (s.modThread p t f).facks = s.facks := rfl
@[simp] theorem State.modThread_migs (s : State) (p t : Nat) (f : Thread → Thread) : (s.modThread p t f).migs = s.migs := rfl
@[simp] theorem State.modThread_ctxs (s : State) (p t : Nat) (f : Thread → Thread) : (s.modThread p t f).ctxs = s.ctxs := rfl
@[simp] theorem State.modThread_queues (s : State) (p t : Nat) (f : Thread → Thread) : (s.modThread p t f).queues = s.queues := rfl
@[simp] theorem State.modThread_kernels (s : State) (p t : Nat) (f : Thread → Thread) : (s.modThread p t f).kernels = s.kernels := rfl
@[simp] theorem State.modThread_launches (s : State) (p t : Nat) (f : Thread → Thread) : (s.modThread p t f).launches = s.launches := rfl
@[simp] theorem State.modThread_links (s : State) (p t : Nat) (f : Thread → Thread) : (s.modThread p t f).links = s.links := rfl
@[simp] theorem State.modThread_routes (s : State) (p t : Nat) (f : Thread → Thread) : (s.modThread p t f).routes = s.routes := rfl
@[simp] theorem State.modThread_deficit (s : State) (p t : Nat) (f : Thread → Thread) : (s.modThread p t f).deficit = s.deficit := rfl
@[simp] theorem State.modThread_panel (s : State) (p t : Nat) (f : Thread → Thread) : (s.modThread p t f).panel = s.panel := rfl

@[simp] theorem State.setMe_focus (s : State) (x : Thread) : (s.setMe x).focus = s.focus := rfl
@[simp] theorem State.setMe_cur (s : State) (x : Thread) : (s.setMe x).cur = s.cur := rfl
@[simp] theorem State.setMe_tick (s : State) (x : Thread) : (s.setMe x).tick = s.tick := rfl
@[simp] theorem State.setMe_agenda (s : State) (x : Thread) : (s.setMe x).agenda = s.agenda := rfl
@[simp] theorem State.setMe_lmap (s : State) (x : Thread) : (s.setMe x).lmap = s.lmap := rfl
@[simp] theorem State.setMe_clusters (s : State) (x : Thread) : (s.setMe x).clusters = s.clusters := rfl
@[simp] theorem State.setMe_dies (s : State) (x : Thread) : (s.setMe x).dies = s.dies := rfl
@[simp] theorem State.setMe_stks (s : State) (x : Thread) : (s.setMe x).stks = s.stks := rfl
@[simp] theorem State.setMe_retrs (s : State) (x : Thread) : (s.setMe x).retrs = s.retrs := rfl
@[simp] theorem State.setMe_bugles (s : State) (x : Thread) : (s.setMe x).bugles = s.bugles := rfl
@[simp] theorem State.setMe_dram (s : State) (x : Thread) : (s.setMe x).dram = s.dram := rfl
@[simp] theorem State.setMe_host (s : State) (x : Thread) : (s.setMe x).host = s.host := rfl
@[simp] theorem State.setMe_pod (s : State) (x : Thread) : (s.setMe x).pod = s.pod := rfl
@[simp] theorem State.setMe_recalls (s : State) (x : Thread) : (s.setMe x).recalls = s.recalls := rfl
@[simp] theorem State.setMe_poison (s : State) (x : Thread) : (s.setMe x).poison = s.poison := rfl
@[simp] theorem State.setMe_net (s : State) (x : Thread) : (s.setMe x).net = s.net := rfl
@[simp] theorem State.setMe_misses (s : State) (x : Thread) : (s.setMe x).misses = s.misses := rfl
@[simp] theorem State.setMe_facks (s : State) (x : Thread) : (s.setMe x).facks = s.facks := rfl
@[simp] theorem State.setMe_migs (s : State) (x : Thread) : (s.setMe x).migs = s.migs := rfl
@[simp] theorem State.setMe_ctxs (s : State) (x : Thread) : (s.setMe x).ctxs = s.ctxs := rfl
@[simp] theorem State.setMe_queues (s : State) (x : Thread) : (s.setMe x).queues = s.queues := rfl
@[simp] theorem State.setMe_kernels (s : State) (x : Thread) : (s.setMe x).kernels = s.kernels := rfl
@[simp] theorem State.setMe_launches (s : State) (x : Thread) : (s.setMe x).launches = s.launches := rfl
@[simp] theorem State.setMe_links (s : State) (x : Thread) : (s.setMe x).links = s.links := rfl
@[simp] theorem State.setMe_routes (s : State) (x : Thread) : (s.setMe x).routes = s.routes := rfl
@[simp] theorem State.setMe_deficit (s : State) (x : Thread) : (s.setMe x).deficit = s.deficit := rfl
@[simp] theorem State.setMe_panel (s : State) (x : Thread) : (s.setMe x).panel = s.panel := rfl

@[simp] theorem State.modMe_focus (s : State) (f : Thread → Thread) : (s.modMe f).focus = s.focus := rfl
@[simp] theorem State.modMe_cur (s : State) (f : Thread → Thread) : (s.modMe f).cur = s.cur := rfl
@[simp] theorem State.modMe_tick (s : State) (f : Thread → Thread) : (s.modMe f).tick = s.tick := rfl
@[simp] theorem State.modMe_agenda (s : State) (f : Thread → Thread) : (s.modMe f).agenda = s.agenda := rfl
@[simp] theorem State.modMe_lmap (s : State) (f : Thread → Thread) : (s.modMe f).lmap = s.lmap := rfl
@[simp] theorem State.modMe_clusters (s : State) (f : Thread → Thread) : (s.modMe f).clusters = s.clusters := rfl
@[simp] theorem State.modMe_dies (s : State) (f : Thread → Thread) : (s.modMe f).dies = s.dies := rfl
@[simp] theorem State.modMe_stks (s : State) (f : Thread → Thread) : (s.modMe f).stks = s.stks := rfl
@[simp] theorem State.modMe_retrs (s : State) (f : Thread → Thread) : (s.modMe f).retrs = s.retrs := rfl
@[simp] theorem State.modMe_bugles (s : State) (f : Thread → Thread) : (s.modMe f).bugles = s.bugles := rfl
@[simp] theorem State.modMe_dram (s : State) (f : Thread → Thread) : (s.modMe f).dram = s.dram := rfl
@[simp] theorem State.modMe_host (s : State) (f : Thread → Thread) : (s.modMe f).host = s.host := rfl
@[simp] theorem State.modMe_pod (s : State) (f : Thread → Thread) : (s.modMe f).pod = s.pod := rfl
@[simp] theorem State.modMe_recalls (s : State) (f : Thread → Thread) : (s.modMe f).recalls = s.recalls := rfl
@[simp] theorem State.modMe_poison (s : State) (f : Thread → Thread) : (s.modMe f).poison = s.poison := rfl
@[simp] theorem State.modMe_net (s : State) (f : Thread → Thread) : (s.modMe f).net = s.net := rfl
@[simp] theorem State.modMe_misses (s : State) (f : Thread → Thread) : (s.modMe f).misses = s.misses := rfl
@[simp] theorem State.modMe_facks (s : State) (f : Thread → Thread) : (s.modMe f).facks = s.facks := rfl
@[simp] theorem State.modMe_migs (s : State) (f : Thread → Thread) : (s.modMe f).migs = s.migs := rfl
@[simp] theorem State.modMe_ctxs (s : State) (f : Thread → Thread) : (s.modMe f).ctxs = s.ctxs := rfl
@[simp] theorem State.modMe_queues (s : State) (f : Thread → Thread) : (s.modMe f).queues = s.queues := rfl
@[simp] theorem State.modMe_kernels (s : State) (f : Thread → Thread) : (s.modMe f).kernels = s.kernels := rfl
@[simp] theorem State.modMe_launches (s : State) (f : Thread → Thread) : (s.modMe f).launches = s.launches := rfl
@[simp] theorem State.modMe_links (s : State) (f : Thread → Thread) : (s.modMe f).links = s.links := rfl
@[simp] theorem State.modMe_routes (s : State) (f : Thread → Thread) : (s.modMe f).routes = s.routes := rfl
@[simp] theorem State.modMe_deficit (s : State) (f : Thread → Thread) : (s.modMe f).deficit = s.deficit := rfl
@[simp] theorem State.modMe_panel (s : State) (f : Thread → Thread) : (s.modMe f).panel = s.panel := rfl

@[simp] theorem State.dwrite_focus (s : State) (p a n v : Nat) : (s.dwrite p a n v).focus = s.focus := rfl
@[simp] theorem State.dwrite_cur (s : State) (p a n v : Nat) : (s.dwrite p a n v).cur = s.cur := rfl
@[simp] theorem State.dwrite_tick (s : State) (p a n v : Nat) : (s.dwrite p a n v).tick = s.tick := rfl
@[simp] theorem State.dwrite_agenda (s : State) (p a n v : Nat) : (s.dwrite p a n v).agenda = s.agenda := rfl
@[simp] theorem State.dwrite_lmap (s : State) (p a n v : Nat) : (s.dwrite p a n v).lmap = s.lmap := rfl
@[simp] theorem State.dwrite_clusters (s : State) (p a n v : Nat) : (s.dwrite p a n v).clusters = s.clusters := rfl
@[simp] theorem State.dwrite_dies (s : State) (p a n v : Nat) : (s.dwrite p a n v).dies = s.dies := rfl
@[simp] theorem State.dwrite_stks (s : State) (p a n v : Nat) : (s.dwrite p a n v).stks = s.stks := rfl
@[simp] theorem State.dwrite_retrs (s : State) (p a n v : Nat) : (s.dwrite p a n v).retrs = s.retrs := rfl
@[simp] theorem State.dwrite_bugles (s : State) (p a n v : Nat) : (s.dwrite p a n v).bugles = s.bugles := rfl
@[simp] theorem State.dwrite_dram (s : State) (p a n v : Nat) : (s.dwrite p a n v).dram = s.dram := rfl
@[simp] theorem State.dwrite_host (s : State) (p a n v : Nat) : (s.dwrite p a n v).host = s.host := rfl
@[simp] theorem State.dwrite_pod (s : State) (p a n v : Nat) : (s.dwrite p a n v).pod = s.pod := rfl
@[simp] theorem State.dwrite_recalls (s : State) (p a n v : Nat) : (s.dwrite p a n v).recalls = s.recalls := rfl
@[simp] theorem State.dwrite_poison (s : State) (p a n v : Nat) : (s.dwrite p a n v).poison = s.poison := rfl
@[simp] theorem State.dwrite_net (s : State) (p a n v : Nat) : (s.dwrite p a n v).net = s.net := rfl
@[simp] theorem State.dwrite_misses (s : State) (p a n v : Nat) : (s.dwrite p a n v).misses = s.misses := rfl
@[simp] theorem State.dwrite_facks (s : State) (p a n v : Nat) : (s.dwrite p a n v).facks = s.facks := rfl
@[simp] theorem State.dwrite_migs (s : State) (p a n v : Nat) : (s.dwrite p a n v).migs = s.migs := rfl
@[simp] theorem State.dwrite_ctxs (s : State) (p a n v : Nat) : (s.dwrite p a n v).ctxs = s.ctxs := rfl
@[simp] theorem State.dwrite_queues (s : State) (p a n v : Nat) : (s.dwrite p a n v).queues = s.queues := rfl
@[simp] theorem State.dwrite_kernels (s : State) (p a n v : Nat) : (s.dwrite p a n v).kernels = s.kernels := rfl
@[simp] theorem State.dwrite_launches (s : State) (p a n v : Nat) : (s.dwrite p a n v).launches = s.launches := rfl
@[simp] theorem State.dwrite_links (s : State) (p a n v : Nat) : (s.dwrite p a n v).links = s.links := rfl
@[simp] theorem State.dwrite_routes (s : State) (p a n v : Nat) : (s.dwrite p a n v).routes = s.routes := rfl
@[simp] theorem State.dwrite_deficit (s : State) (p a n v : Nat) : (s.dwrite p a n v).deficit = s.deficit := rfl
@[simp] theorem State.dwrite_panel (s : State) (p a n v : Nat) : (s.dwrite p a n v).panel = s.panel := rfl

@[simp] theorem State.delay_focus (s : State) (p i : Nat) : (s.delay p i).focus = s.focus := rfl
@[simp] theorem State.delay_cur (s : State) (p i : Nat) : (s.delay p i).cur = s.cur := rfl
@[simp] theorem State.delay_tick (s : State) (p i : Nat) : (s.delay p i).tick = s.tick := rfl
@[simp] theorem State.delay_agenda (s : State) (p i : Nat) : (s.delay p i).agenda = s.agenda := rfl
@[simp] theorem State.delay_lmap (s : State) (p i : Nat) : (s.delay p i).lmap = s.lmap := rfl
@[simp] theorem State.delay_clusters (s : State) (p i : Nat) : (s.delay p i).clusters = s.clusters := rfl
@[simp] theorem State.delay_dies (s : State) (p i : Nat) : (s.delay p i).dies = s.dies := rfl
@[simp] theorem State.delay_stks (s : State) (p i : Nat) : (s.delay p i).stks = s.stks := rfl
@[simp] theorem State.delay_retrs (s : State) (p i : Nat) : (s.delay p i).retrs = s.retrs := rfl
@[simp] theorem State.delay_bugles (s : State) (p i : Nat) : (s.delay p i).bugles = s.bugles := rfl
@[simp] theorem State.delay_dram (s : State) (p i : Nat) : (s.delay p i).dram = s.dram := rfl
@[simp] theorem State.delay_host (s : State) (p i : Nat) : (s.delay p i).host = s.host := rfl
@[simp] theorem State.delay_pod (s : State) (p i : Nat) : (s.delay p i).pod = s.pod := rfl
@[simp] theorem State.delay_recalls (s : State) (p i : Nat) : (s.delay p i).recalls = s.recalls := rfl
@[simp] theorem State.delay_poison (s : State) (p i : Nat) : (s.delay p i).poison = s.poison := rfl
@[simp] theorem State.delay_net (s : State) (p i : Nat) : (s.delay p i).net = s.net := rfl
@[simp] theorem State.delay_misses (s : State) (p i : Nat) : (s.delay p i).misses = s.misses := rfl
@[simp] theorem State.delay_facks (s : State) (p i : Nat) : (s.delay p i).facks = s.facks := rfl
@[simp] theorem State.delay_migs (s : State) (p i : Nat) : (s.delay p i).migs = s.migs := rfl
@[simp] theorem State.delay_ctxs (s : State) (p i : Nat) : (s.delay p i).ctxs = s.ctxs := rfl
@[simp] theorem State.delay_queues (s : State) (p i : Nat) : (s.delay p i).queues = s.queues := rfl
@[simp] theorem State.delay_kernels (s : State) (p i : Nat) : (s.delay p i).kernels = s.kernels := rfl
@[simp] theorem State.delay_launches (s : State) (p i : Nat) : (s.delay p i).launches = s.launches := rfl
@[simp] theorem State.delay_links (s : State) (p i : Nat) : (s.delay p i).links = s.links := rfl
@[simp] theorem State.delay_routes (s : State) (p i : Nat) : (s.delay p i).routes = s.routes := rfl
@[simp] theorem State.delay_deficit (s : State) (p i : Nat) : (s.delay p i).deficit = s.deficit := rfl
@[simp] theorem State.delay_panel (s : State) (p i : Nat) : (s.delay p i).panel = s.panel := rfl

@[simp] theorem State.delayBy_focus (s : State) (p i h : Nat) : (s.delayBy p i h).focus = s.focus := rfl
@[simp] theorem State.delayBy_cur (s : State) (p i h : Nat) : (s.delayBy p i h).cur = s.cur := rfl
@[simp] theorem State.delayBy_tick (s : State) (p i h : Nat) : (s.delayBy p i h).tick = s.tick := rfl
@[simp] theorem State.delayBy_agenda (s : State) (p i h : Nat) : (s.delayBy p i h).agenda = s.agenda := rfl
@[simp] theorem State.delayBy_lmap (s : State) (p i h : Nat) : (s.delayBy p i h).lmap = s.lmap := rfl
@[simp] theorem State.delayBy_clusters (s : State) (p i h : Nat) : (s.delayBy p i h).clusters = s.clusters := rfl
@[simp] theorem State.delayBy_dies (s : State) (p i h : Nat) : (s.delayBy p i h).dies = s.dies := rfl
@[simp] theorem State.delayBy_stks (s : State) (p i h : Nat) : (s.delayBy p i h).stks = s.stks := rfl
@[simp] theorem State.delayBy_retrs (s : State) (p i h : Nat) : (s.delayBy p i h).retrs = s.retrs := rfl
@[simp] theorem State.delayBy_bugles (s : State) (p i h : Nat) : (s.delayBy p i h).bugles = s.bugles := rfl
@[simp] theorem State.delayBy_dram (s : State) (p i h : Nat) : (s.delayBy p i h).dram = s.dram := rfl
@[simp] theorem State.delayBy_host (s : State) (p i h : Nat) : (s.delayBy p i h).host = s.host := rfl
@[simp] theorem State.delayBy_pod (s : State) (p i h : Nat) : (s.delayBy p i h).pod = s.pod := rfl
@[simp] theorem State.delayBy_recalls (s : State) (p i h : Nat) : (s.delayBy p i h).recalls = s.recalls := rfl
@[simp] theorem State.delayBy_poison (s : State) (p i h : Nat) : (s.delayBy p i h).poison = s.poison := rfl
@[simp] theorem State.delayBy_net (s : State) (p i h : Nat) : (s.delayBy p i h).net = s.net := rfl
@[simp] theorem State.delayBy_misses (s : State) (p i h : Nat) : (s.delayBy p i h).misses = s.misses := rfl
@[simp] theorem State.delayBy_facks (s : State) (p i h : Nat) : (s.delayBy p i h).facks = s.facks := rfl
@[simp] theorem State.delayBy_migs (s : State) (p i h : Nat) : (s.delayBy p i h).migs = s.migs := rfl
@[simp] theorem State.delayBy_ctxs (s : State) (p i h : Nat) : (s.delayBy p i h).ctxs = s.ctxs := rfl
@[simp] theorem State.delayBy_queues (s : State) (p i h : Nat) : (s.delayBy p i h).queues = s.queues := rfl
@[simp] theorem State.delayBy_kernels (s : State) (p i h : Nat) : (s.delayBy p i h).kernels = s.kernels := rfl
@[simp] theorem State.delayBy_launches (s : State) (p i h : Nat) : (s.delayBy p i h).launches = s.launches := rfl
@[simp] theorem State.delayBy_links (s : State) (p i h : Nat) : (s.delayBy p i h).links = s.links := rfl
@[simp] theorem State.delayBy_routes (s : State) (p i h : Nat) : (s.delayBy p i h).routes = s.routes := rfl
@[simp] theorem State.delayBy_deficit (s : State) (p i h : Nat) : (s.delayBy p i h).deficit = s.deficit := rfl
@[simp] theorem State.delayBy_panel (s : State) (p i h : Nat) : (s.delayBy p i h).panel = s.panel := rfl

@[simp] theorem State.modCore_core_same (s : State) (p : Nat) (f : Core → Core) : (s.modCore p f).core p = f (s.core p) :=
  tget_tset_same _ _ _ _
theorem State.modCore_core_ne (s : State) (p : Nat) (f : Core → Core) (q : Nat) (h : q ≠ p) : (s.modCore p f).core q = s.core q :=
  tget_tset_ne _ _ _ _ _ h

@[simp] theorem Core.setThread_thread_same (c : Core) (t : Nat) (x : Thread) : (c.setThread t x).thread t = x :=
  tget_tset_same _ _ _ _
theorem Core.setThread_thread_ne (c : Core) (t : Nat) (x : Thread) (u : Nat) (h : u ≠ t) :
    (c.setThread t x).thread u = c.thread u := tget_tset_ne _ _ _ _ _ h

@[simp] theorem Core.setThread_last (c : Core) (t : Nat) (x : Thread) : (c.setThread t x).last = c.last := rfl
@[simp] theorem Core.setThread_ptr (c : Core) (t : Nat) (x : Thread) : (c.setThread t x).ptr = c.ptr := rfl
@[simp] theorem Core.setThread_cyc (c : Core) (t : Nat) (x : Thread) : (c.setThread t x).cyc = c.cyc := rfl
@[simp] theorem Core.setThread_ctx (c : Core) (t : Nat) (x : Thread) : (c.setThread t x).ctx = c.ctx := rfl
@[simp] theorem Core.setThread_direct (c : Core) (t : Nat) (x : Thread) : (c.setThread t x).direct = c.direct := rfl
@[simp] theorem Core.setThread_dirG (c : Core) (t : Nat) (x : Thread) : (c.setThread t x).dirG = c.dirG := rfl
@[simp] theorem Core.setThread_stashG (c : Core) (t : Nat) (x : Thread) : (c.setThread t x).stashG = c.stashG := rfl
@[simp] theorem Core.setThread_rfd (c : Core) (t : Nat) (x : Thread) : (c.setThread t x).rfd = c.rfd := rfl
@[simp] theorem Core.setThread_journal (c : Core) (t : Nat) (x : Thread) : (c.setThread t x).journal = c.journal := rfl
@[simp] theorem Core.setThread_jord (c : Core) (t : Nat) (x : Thread) : (c.setThread t x).jord = c.jord := rfl
@[simp] theorem Core.setThread_nctr (c : Core) (t : Nat) (x : Thread) : (c.setThread t x).nctr = c.nctr := rfl
@[simp] theorem Core.setThread_dacc (c : Core) (t : Nat) (x : Thread) : (c.setThread t x).dacc = c.dacc := rfl
@[simp] theorem Core.setThread_routes (c : Core) (t : Nat) (x : Thread) : (c.setThread t x).routes = c.routes := rfl
@[simp] theorem Core.setThread_inq (c : Core) (t : Nat) (x : Thread) : (c.setThread t x).inq = c.inq := rfl
@[simp] theorem Core.setThread_outRes (c : Core) (t : Nat) (x : Thread) : (c.setThread t x).outRes = c.outRes := rfl
@[simp] theorem Core.setThread_outWait (c : Core) (t : Nat) (x : Thread) : (c.setThread t x).outWait = c.outWait := rfl
@[simp] theorem Core.setThread_mx (c : Core) (t : Nat) (x : Thread) : (c.setThread t x).mx = c.mx := rfl
@[simp] theorem Core.setThread_ca (c : Core) (t : Nat) (x : Thread) : (c.setThread t x).ca = c.ca := rfl
@[simp] theorem Core.setThread_racy (c : Core) (t : Nat) (x : Thread) : (c.setThread t x).racy = c.racy := rfl
@[simp] theorem Core.setThread_racyN (c : Core) (t : Nat) (x : Thread) : (c.setThread t x).racyN = c.racyN := rfl
@[simp] theorem Core.setThread_deque (c : Core) (t : Nat) (x : Thread) : (c.setThread t x).deque = c.deque := rfl
@[simp] theorem Core.setThread_spillLo (c : Core) (t : Nat) (x : Thread) : (c.setThread t x).spillLo = c.spillLo := rfl
@[simp] theorem Core.setThread_spill (c : Core) (t : Nat) (x : Thread) : (c.setThread t x).spill = c.spill := rfl
@[simp] theorem Core.setThread_joins (c : Core) (t : Nat) (x : Thread) : (c.setThread t x).joins = c.joins := rfl
@[simp] theorem Core.setThread_leaves (c : Core) (t : Nat) (x : Thread) : (c.setThread t x).leaves = c.leaves := rfl
@[simp] theorem Core.setThread_slot (c : Core) (t : Nat) (x : Thread) : (c.setThread t x).slot = c.slot := rfl
@[simp] theorem Core.setThread_kix (c : Core) (t : Nat) (x : Thread) : (c.setThread t x).kix = c.kix := rfl
@[simp] theorem Core.setThread_retired (c : Core) (t : Nat) (x : Thread) : (c.setThread t x).retired = c.retired := rfl
@[simp] theorem Core.setThread_moveTo (c : Core) (t : Nat) (x : Thread) : (c.setThread t x).moveTo = c.moveTo := rfl
@[simp] theorem Core.setThread_moveRet (c : Core) (t : Nat) (x : Thread) : (c.setThread t x).moveRet = c.moveRet := rfl

@[simp] theorem State.setThread_thread_same (s : State) (p t : Nat) (x : Thread) : (s.setThread p t x).thread p t = x := by
  simp [State.thread, State.setThread]
theorem State.setThread_thread_ne (s : State) (p t : Nat) (x : Thread) (q u : Nat) (h : (q, u) ≠ (p, t)) :
    (s.setThread p t x).thread q u = s.thread q u := by
  by_cases hq : q = p
  · subst hq
    have hu : u ≠ t := fun e => h (by rw [e])
    simp [State.thread, State.setThread, Core.setThread_thread_ne _ _ _ _ hu]
  · simp [State.thread, State.setThread, State.setCore_core_ne _ _ _ _ hq]
@[simp] theorem State.modThread_thread_same (s : State) (p t : Nat) (f : Thread → Thread) :
    (s.modThread p t f).thread p t = f (s.thread p t) := State.setThread_thread_same s p t _
@[simp] theorem State.modMe_me (s : State) (f : Thread → Thread) : (s.modMe f).me = f s.me :=
  State.setThread_thread_same s _ _ _
@[simp] theorem State.setMe_me (s : State) (x : Thread) : (s.setMe x).me = x := State.setThread_thread_same s _ _ _
theorem State.modMe_thread_ne (s : State) (f : Thread → Thread) (q u : Nat) (h : (q, u) ≠ (s.cur.core, s.cur.thr)) :
    (s.modMe f).thread q u = s.thread q u := State.setThread_thread_ne s _ _ _ q u h

@[simp] theorem State.setThread_core_last (s : State) (p t : Nat) (x : Thread) (q : Nat) :
    ((s.setThread p t x).core q).last = (s.core q).last := by
  by_cases h : q = p
  · subst h; simp [State.setThread]
  · simp [State.setThread, State.setCore_core_ne _ _ _ _ h]
@[simp] theorem State.modMe_core_last (s : State) (f : Thread → Thread) (q : Nat) :
    ((s.modMe f).core q).last = (s.core q).last := State.setThread_core_last s _ _ _ q
@[simp] theorem State.setThread_core_ptr (s : State) (p t : Nat) (x : Thread) (q : Nat) :
    ((s.setThread p t x).core q).ptr = (s.core q).ptr := by
  by_cases h : q = p
  · subst h; simp [State.setThread]
  · simp [State.setThread, State.setCore_core_ne _ _ _ _ h]
@[simp] theorem State.modMe_core_ptr (s : State) (f : Thread → Thread) (q : Nat) :
    ((s.modMe f).core q).ptr = (s.core q).ptr := State.setThread_core_ptr s _ _ _ q
@[simp] theorem State.setThread_core_cyc (s : State) (p t : Nat) (x : Thread) (q : Nat) :
    ((s.setThread p t x).core q).cyc = (s.core q).cyc := by
  by_cases h : q = p
  · subst h; simp [State.setThread]
  · simp [State.setThread, State.setCore_core_ne _ _ _ _ h]
@[simp] theorem State.modMe_core_cyc (s : State) (f : Thread → Thread) (q : Nat) :
    ((s.modMe f).core q).cyc = (s.core q).cyc := State.setThread_core_cyc s _ _ _ q
@[simp] theorem State.setThread_core_ctx (s : State) (p t : Nat) (x : Thread) (q : Nat) :
    ((s.setThread p t x).core q).ctx = (s.core q).ctx := by
  by_cases h : q = p
  · subst h; simp [State.setThread]
  · simp [State.setThread, State.setCore_core_ne _ _ _ _ h]
@[simp] theorem State.modMe_core_ctx (s : State) (f : Thread → Thread) (q : Nat) :
    ((s.modMe f).core q).ctx = (s.core q).ctx := State.setThread_core_ctx s _ _ _ q
@[simp] theorem State.setThread_core_direct (s : State) (p t : Nat) (x : Thread) (q : Nat) :
    ((s.setThread p t x).core q).direct = (s.core q).direct := by
  by_cases h : q = p
  · subst h; simp [State.setThread]
  · simp [State.setThread, State.setCore_core_ne _ _ _ _ h]
@[simp] theorem State.modMe_core_direct (s : State) (f : Thread → Thread) (q : Nat) :
    ((s.modMe f).core q).direct = (s.core q).direct := State.setThread_core_direct s _ _ _ q
@[simp] theorem State.setThread_core_dirG (s : State) (p t : Nat) (x : Thread) (q : Nat) :
    ((s.setThread p t x).core q).dirG = (s.core q).dirG := by
  by_cases h : q = p
  · subst h; simp [State.setThread]
  · simp [State.setThread, State.setCore_core_ne _ _ _ _ h]
@[simp] theorem State.modMe_core_dirG (s : State) (f : Thread → Thread) (q : Nat) :
    ((s.modMe f).core q).dirG = (s.core q).dirG := State.setThread_core_dirG s _ _ _ q
@[simp] theorem State.setThread_core_stashG (s : State) (p t : Nat) (x : Thread) (q : Nat) :
    ((s.setThread p t x).core q).stashG = (s.core q).stashG := by
  by_cases h : q = p
  · subst h; simp [State.setThread]
  · simp [State.setThread, State.setCore_core_ne _ _ _ _ h]
@[simp] theorem State.modMe_core_stashG (s : State) (f : Thread → Thread) (q : Nat) :
    ((s.modMe f).core q).stashG = (s.core q).stashG := State.setThread_core_stashG s _ _ _ q
@[simp] theorem State.setThread_core_rfd (s : State) (p t : Nat) (x : Thread) (q : Nat) :
    ((s.setThread p t x).core q).rfd = (s.core q).rfd := by
  by_cases h : q = p
  · subst h; simp [State.setThread]
  · simp [State.setThread, State.setCore_core_ne _ _ _ _ h]
@[simp] theorem State.modMe_core_rfd (s : State) (f : Thread → Thread) (q : Nat) :
    ((s.modMe f).core q).rfd = (s.core q).rfd := State.setThread_core_rfd s _ _ _ q
@[simp] theorem State.setThread_core_journal (s : State) (p t : Nat) (x : Thread) (q : Nat) :
    ((s.setThread p t x).core q).journal = (s.core q).journal := by
  by_cases h : q = p
  · subst h; simp [State.setThread]
  · simp [State.setThread, State.setCore_core_ne _ _ _ _ h]
@[simp] theorem State.modMe_core_journal (s : State) (f : Thread → Thread) (q : Nat) :
    ((s.modMe f).core q).journal = (s.core q).journal := State.setThread_core_journal s _ _ _ q
@[simp] theorem State.setThread_core_jord (s : State) (p t : Nat) (x : Thread) (q : Nat) :
    ((s.setThread p t x).core q).jord = (s.core q).jord := by
  by_cases h : q = p
  · subst h; simp [State.setThread]
  · simp [State.setThread, State.setCore_core_ne _ _ _ _ h]
@[simp] theorem State.modMe_core_jord (s : State) (f : Thread → Thread) (q : Nat) :
    ((s.modMe f).core q).jord = (s.core q).jord := State.setThread_core_jord s _ _ _ q
@[simp] theorem State.setThread_core_nctr (s : State) (p t : Nat) (x : Thread) (q : Nat) :
    ((s.setThread p t x).core q).nctr = (s.core q).nctr := by
  by_cases h : q = p
  · subst h; simp [State.setThread]
  · simp [State.setThread, State.setCore_core_ne _ _ _ _ h]
@[simp] theorem State.modMe_core_nctr (s : State) (f : Thread → Thread) (q : Nat) :
    ((s.modMe f).core q).nctr = (s.core q).nctr := State.setThread_core_nctr s _ _ _ q
@[simp] theorem State.setThread_core_dacc (s : State) (p t : Nat) (x : Thread) (q : Nat) :
    ((s.setThread p t x).core q).dacc = (s.core q).dacc := by
  by_cases h : q = p
  · subst h; simp [State.setThread]
  · simp [State.setThread, State.setCore_core_ne _ _ _ _ h]
@[simp] theorem State.modMe_core_dacc (s : State) (f : Thread → Thread) (q : Nat) :
    ((s.modMe f).core q).dacc = (s.core q).dacc := State.setThread_core_dacc s _ _ _ q
@[simp] theorem State.setThread_core_routes (s : State) (p t : Nat) (x : Thread) (q : Nat) :
    ((s.setThread p t x).core q).routes = (s.core q).routes := by
  by_cases h : q = p
  · subst h; simp [State.setThread]
  · simp [State.setThread, State.setCore_core_ne _ _ _ _ h]
@[simp] theorem State.modMe_core_routes (s : State) (f : Thread → Thread) (q : Nat) :
    ((s.modMe f).core q).routes = (s.core q).routes := State.setThread_core_routes s _ _ _ q
@[simp] theorem State.setThread_core_inq (s : State) (p t : Nat) (x : Thread) (q : Nat) :
    ((s.setThread p t x).core q).inq = (s.core q).inq := by
  by_cases h : q = p
  · subst h; simp [State.setThread]
  · simp [State.setThread, State.setCore_core_ne _ _ _ _ h]
@[simp] theorem State.modMe_core_inq (s : State) (f : Thread → Thread) (q : Nat) :
    ((s.modMe f).core q).inq = (s.core q).inq := State.setThread_core_inq s _ _ _ q
@[simp] theorem State.setThread_core_outRes (s : State) (p t : Nat) (x : Thread) (q : Nat) :
    ((s.setThread p t x).core q).outRes = (s.core q).outRes := by
  by_cases h : q = p
  · subst h; simp [State.setThread]
  · simp [State.setThread, State.setCore_core_ne _ _ _ _ h]
@[simp] theorem State.modMe_core_outRes (s : State) (f : Thread → Thread) (q : Nat) :
    ((s.modMe f).core q).outRes = (s.core q).outRes := State.setThread_core_outRes s _ _ _ q
@[simp] theorem State.setThread_core_outWait (s : State) (p t : Nat) (x : Thread) (q : Nat) :
    ((s.setThread p t x).core q).outWait = (s.core q).outWait := by
  by_cases h : q = p
  · subst h; simp [State.setThread]
  · simp [State.setThread, State.setCore_core_ne _ _ _ _ h]
@[simp] theorem State.modMe_core_outWait (s : State) (f : Thread → Thread) (q : Nat) :
    ((s.modMe f).core q).outWait = (s.core q).outWait := State.setThread_core_outWait s _ _ _ q
@[simp] theorem State.setThread_core_mx (s : State) (p t : Nat) (x : Thread) (q : Nat) :
    ((s.setThread p t x).core q).mx = (s.core q).mx := by
  by_cases h : q = p
  · subst h; simp [State.setThread]
  · simp [State.setThread, State.setCore_core_ne _ _ _ _ h]
@[simp] theorem State.modMe_core_mx (s : State) (f : Thread → Thread) (q : Nat) :
    ((s.modMe f).core q).mx = (s.core q).mx := State.setThread_core_mx s _ _ _ q
@[simp] theorem State.setThread_core_ca (s : State) (p t : Nat) (x : Thread) (q : Nat) :
    ((s.setThread p t x).core q).ca = (s.core q).ca := by
  by_cases h : q = p
  · subst h; simp [State.setThread]
  · simp [State.setThread, State.setCore_core_ne _ _ _ _ h]
@[simp] theorem State.modMe_core_ca (s : State) (f : Thread → Thread) (q : Nat) :
    ((s.modMe f).core q).ca = (s.core q).ca := State.setThread_core_ca s _ _ _ q
@[simp] theorem State.setThread_core_racy (s : State) (p t : Nat) (x : Thread) (q : Nat) :
    ((s.setThread p t x).core q).racy = (s.core q).racy := by
  by_cases h : q = p
  · subst h; simp [State.setThread]
  · simp [State.setThread, State.setCore_core_ne _ _ _ _ h]
@[simp] theorem State.modMe_core_racy (s : State) (f : Thread → Thread) (q : Nat) :
    ((s.modMe f).core q).racy = (s.core q).racy := State.setThread_core_racy s _ _ _ q
@[simp] theorem State.setThread_core_racyN (s : State) (p t : Nat) (x : Thread) (q : Nat) :
    ((s.setThread p t x).core q).racyN = (s.core q).racyN := by
  by_cases h : q = p
  · subst h; simp [State.setThread]
  · simp [State.setThread, State.setCore_core_ne _ _ _ _ h]
@[simp] theorem State.modMe_core_racyN (s : State) (f : Thread → Thread) (q : Nat) :
    ((s.modMe f).core q).racyN = (s.core q).racyN := State.setThread_core_racyN s _ _ _ q
@[simp] theorem State.setThread_core_deque (s : State) (p t : Nat) (x : Thread) (q : Nat) :
    ((s.setThread p t x).core q).deque = (s.core q).deque := by
  by_cases h : q = p
  · subst h; simp [State.setThread]
  · simp [State.setThread, State.setCore_core_ne _ _ _ _ h]
@[simp] theorem State.modMe_core_deque (s : State) (f : Thread → Thread) (q : Nat) :
    ((s.modMe f).core q).deque = (s.core q).deque := State.setThread_core_deque s _ _ _ q
@[simp] theorem State.setThread_core_spillLo (s : State) (p t : Nat) (x : Thread) (q : Nat) :
    ((s.setThread p t x).core q).spillLo = (s.core q).spillLo := by
  by_cases h : q = p
  · subst h; simp [State.setThread]
  · simp [State.setThread, State.setCore_core_ne _ _ _ _ h]
@[simp] theorem State.modMe_core_spillLo (s : State) (f : Thread → Thread) (q : Nat) :
    ((s.modMe f).core q).spillLo = (s.core q).spillLo := State.setThread_core_spillLo s _ _ _ q
@[simp] theorem State.setThread_core_spill (s : State) (p t : Nat) (x : Thread) (q : Nat) :
    ((s.setThread p t x).core q).spill = (s.core q).spill := by
  by_cases h : q = p
  · subst h; simp [State.setThread]
  · simp [State.setThread, State.setCore_core_ne _ _ _ _ h]
@[simp] theorem State.modMe_core_spill (s : State) (f : Thread → Thread) (q : Nat) :
    ((s.modMe f).core q).spill = (s.core q).spill := State.setThread_core_spill s _ _ _ q
@[simp] theorem State.setThread_core_joins (s : State) (p t : Nat) (x : Thread) (q : Nat) :
    ((s.setThread p t x).core q).joins = (s.core q).joins := by
  by_cases h : q = p
  · subst h; simp [State.setThread]
  · simp [State.setThread, State.setCore_core_ne _ _ _ _ h]
@[simp] theorem State.modMe_core_joins (s : State) (f : Thread → Thread) (q : Nat) :
    ((s.modMe f).core q).joins = (s.core q).joins := State.setThread_core_joins s _ _ _ q
@[simp] theorem State.setThread_core_leaves (s : State) (p t : Nat) (x : Thread) (q : Nat) :
    ((s.setThread p t x).core q).leaves = (s.core q).leaves := by
  by_cases h : q = p
  · subst h; simp [State.setThread]
  · simp [State.setThread, State.setCore_core_ne _ _ _ _ h]
@[simp] theorem State.modMe_core_leaves (s : State) (f : Thread → Thread) (q : Nat) :
    ((s.modMe f).core q).leaves = (s.core q).leaves := State.setThread_core_leaves s _ _ _ q
@[simp] theorem State.setThread_core_slot (s : State) (p t : Nat) (x : Thread) (q : Nat) :
    ((s.setThread p t x).core q).slot = (s.core q).slot := by
  by_cases h : q = p
  · subst h; simp [State.setThread]
  · simp [State.setThread, State.setCore_core_ne _ _ _ _ h]
@[simp] theorem State.modMe_core_slot (s : State) (f : Thread → Thread) (q : Nat) :
    ((s.modMe f).core q).slot = (s.core q).slot := State.setThread_core_slot s _ _ _ q
@[simp] theorem State.setThread_core_kix (s : State) (p t : Nat) (x : Thread) (q : Nat) :
    ((s.setThread p t x).core q).kix = (s.core q).kix := by
  by_cases h : q = p
  · subst h; simp [State.setThread]
  · simp [State.setThread, State.setCore_core_ne _ _ _ _ h]
@[simp] theorem State.modMe_core_kix (s : State) (f : Thread → Thread) (q : Nat) :
    ((s.modMe f).core q).kix = (s.core q).kix := State.setThread_core_kix s _ _ _ q
@[simp] theorem State.setThread_core_retired (s : State) (p t : Nat) (x : Thread) (q : Nat) :
    ((s.setThread p t x).core q).retired = (s.core q).retired := by
  by_cases h : q = p
  · subst h; simp [State.setThread]
  · simp [State.setThread, State.setCore_core_ne _ _ _ _ h]
@[simp] theorem State.modMe_core_retired (s : State) (f : Thread → Thread) (q : Nat) :
    ((s.modMe f).core q).retired = (s.core q).retired := State.setThread_core_retired s _ _ _ q
@[simp] theorem State.setThread_core_moveTo (s : State) (p t : Nat) (x : Thread) (q : Nat) :
    ((s.setThread p t x).core q).moveTo = (s.core q).moveTo := by
  by_cases h : q = p
  · subst h; simp [State.setThread]
  · simp [State.setThread, State.setCore_core_ne _ _ _ _ h]
@[simp] theorem State.modMe_core_moveTo (s : State) (f : Thread → Thread) (q : Nat) :
    ((s.modMe f).core q).moveTo = (s.core q).moveTo := State.setThread_core_moveTo s _ _ _ q
@[simp] theorem State.setThread_core_moveRet (s : State) (p t : Nat) (x : Thread) (q : Nat) :
    ((s.setThread p t x).core q).moveRet = (s.core q).moveRet := by
  by_cases h : q = p
  · subst h; simp [State.setThread]
  · simp [State.setThread, State.setCore_core_ne _ _ _ _ h]
@[simp] theorem State.modMe_core_moveRet (s : State) (f : Thread → Thread) (q : Nat) :
    ((s.modMe f).core q).moveRet = (s.core q).moveRet := State.setThread_core_moveRet s _ _ _ q

end Sys2Proof.Machine
end

