-- ==== Sys2Proof/Laws/Memory.lean ====
section
/-!
SUPPORT. Byte memories: reads after writes, and that every memory operation keeps the canonical form.
-/

namespace Sys2Proof.Machine

/-! ### Reads after writes -/

theorem mget_mset_ne (m : Memory) (a b : Nat) (v : Byte) (h : b ≠ a) : mget (mset m a v) b = mget m b := by
  induction m with
  | nil => by_cases hv : v = unwritten <;> simp [mset, mget, tget, hv, Ne.symm h]
  | cons c t ih =>
    obtain ⟨k, x⟩ := c
    simp only [mget] at ih
    simp only [mset, mget]
    split
    · split <;> simp [tget, Ne.symm h]
    · split
      · rename_i h2
        subst h2
        split <;> simp [tget, Ne.symm h]
      · simp only [tget, ih]

theorem tget_lt_all (m : Memory) (a : Nat) (h : m.all (fun c => a < c.1) = true) : tget unwritten m a = unwritten := by
  induction m with
  | nil => rfl
  | cons c t ih =>
    obtain ⟨k, x⟩ := c
    simp only [List.all_cons, Bool.and_eq_true, decide_eq_true_eq] at h
    simp [tget, Nat.ne_of_gt h.1, ih h.2]

/-- A byte reads as it was written, in a memory of canonical form. -/
theorem mget_mset_same (m : Memory) (a : Nat) (v : Byte) (w : Memory.wf m = true) : mget (mset m a v) a = v := by
  induction m with
  | nil => by_cases hv : v = unwritten <;> simp [mset, mget, tget, hv]
  | cons c t ih =>
    obtain ⟨k, x⟩ := c
    simp only [Memory.wf, Bool.and_eq_true] at w
    obtain ⟨⟨wx, wa⟩, wt⟩ := w
    have ih := ih wt
    simp only [mget] at ih
    simp only [mset, mget]
    split
    · rename_i h1
      split
      · rename_i hv
        have hk : (t.all fun c => a < c.1) = true := by
          rw [List.all_eq_true] at wa ⊢
          intro c hc
          have := wa c hc
          simp only [decide_eq_true_eq] at this ⊢
          omega
        simp [tget, Nat.ne_of_gt h1, tget_lt_all t a hk, hv]
      · simp [tget]
    · split
      · rename_i h2
        subst h2
        split
        · rename_i hv
          simp [tget_lt_all t a wa, hv]
        · simp [tget]
      · rename_i h1 h2
        simp only [tget, if_neg (fun e : k = a => h2 e.symm), ih]

/-! ### The canonical form -/

theorem mem_mset (m : Memory) (a : Nat) (v : Byte) (c : Host.Cell) (h : c ∈ mset m a v) : c = (a, v) ∨ c ∈ m := by
  induction m with
  | nil =>
    simp only [mset] at h
    split at h <;> simp_all
  | cons e t ih =>
    obtain ⟨k, x⟩ := e
    simp only [mset] at h
    split at h
    · split at h <;> simp_all
    · split at h
      · split at h
        · exact .inr (List.mem_cons_of_mem _ h)
        · rcases List.mem_cons.mp h with h | h
          · exact .inl h
          · exact .inr (List.mem_cons_of_mem _ h)
      · rcases List.mem_cons.mp h with h | h
        · exact .inr (h ▸ List.mem_cons_self)
        · exact (ih h).imp id (List.mem_cons_of_mem _)

theorem mset_wf (m : Memory) (a : Nat) (v : Byte) (w : Memory.wf m = true) : Memory.wf (mset m a v) = true := by
  induction m with
  | nil => by_cases hv : v = unwritten <;> simp [mset, Memory.wf, hv]
  | cons e t ih =>
    obtain ⟨k, x⟩ := e
    have w' := w
    simp only [Memory.wf, Bool.and_eq_true] at w
    obtain ⟨⟨wx, wa⟩, wt⟩ := w
    simp only [mset]
    split
    · rename_i h1
      split
      · exact w'
      · rename_i hv
        simp only [Memory.wf, Bool.and_eq_true, bne_iff_ne, ne_eq, hv, not_false_eq_true, true_and]
        refine ⟨?_, ⟨by simpa using wx, wa⟩, wt⟩
        rw [List.all_eq_true] at wa ⊢
        intro c hc
        rcases List.mem_cons.mp hc with hc | hc
        · subst hc; simpa using h1
        · have := wa c hc
          simp only [decide_eq_true_eq] at this ⊢
          omega
    · split
      · rename_i h2
        subst h2
        split
        · exact wt
        · rename_i hv
          simp only [Memory.wf, Bool.and_eq_true]
          exact ⟨⟨by simpa using hv, wa⟩, wt⟩
      · rename_i h1 h2
        simp only [Memory.wf, Bool.and_eq_true]
        refine ⟨⟨wx, ?_⟩, ih wt⟩
        rw [List.all_eq_true] at wa ⊢
        intro c hc
        rcases mem_mset t a v c hc with hc | hc
        · subst hc
          simp only [decide_eq_true_eq]
          omega
        · exact wa c hc

theorem mwrite_wf (n : Nat) : ∀ (m : Memory) (a v : Nat), Memory.wf m = true → Memory.wf (mwrite m a n v) = true := by
  induction n with
  | zero => intro m a v w; exact w
  | succ n ih => intro m a v w; exact ih _ _ _ (mset_wf m a _ w)

theorem mzeroFrom_wf (m : Memory) (lo hi : Nat) (w : Memory.wf m = true) : Memory.wf (mzeroFrom m lo hi) = true := by
  induction m with
  | nil => rfl
  | cons e t ih =>
    obtain ⟨k, x⟩ := e
    simp only [Memory.wf, Bool.and_eq_true] at w
    obtain ⟨⟨wx, wa⟩, wt⟩ := w
    have ih := ih wt
    unfold mzeroFrom at ih ⊢
    rw [List.filter_cons]
    split
    · simp only [Memory.wf, Bool.and_eq_true]
      refine ⟨⟨wx, ?_⟩, ih⟩
      rw [List.all_eq_true] at wa ⊢
      intro c hc
      exact wa c (List.mem_filter.mp hc).1
    · exact ih

/-- A write leaves every byte outside it alone. -/
theorem mget_mwrite_out (n : Nat) : ∀ (m : Memory) (a v b : Nat), (b < a ∨ a + n ≤ b) →
    mget (mwrite m a n v) b = mget m b := by
  induction n with
  | zero => intro m a v b _; rfl
  | succ n ih =>
    intro m a v b h
    rw [mwrite, ih _ _ _ _ (by omega), mget_mset_ne _ _ _ _ (by omega)]

/-- Bytes read after a write are the bytes written, in a memory of canonical form. -/
theorem mread_mwrite_same (n : Nat) : ∀ (m : Memory) (a v : Nat), Memory.wf m = true →
    mread (mwrite m a n v) a n = v % 256 ^ n := by
  induction n with
  | zero => intro m a v _; simp [mread, Nat.mod_one]
  | succ n ih =>
    intro m a v w
    have hb : mget (mwrite (mset m a (BitVec.ofNat 8 v)) (a + 1) n (v / 256)) a = BitVec.ofNat 8 v := by
      rw [mget_mwrite_out _ _ _ _ _ (by omega), mget_mset_same _ _ _ w]
    rw [mwrite, mread, hb, ih _ _ _ (mset_wf m a _ w), BitVec.toNat_ofNat]
    have h : v % 256 ^ (n + 1) = v % 256 + 256 * (v / 256 % 256 ^ n) := by rw [Nat.pow_succ', Nat.mod_mul]
    rw [h]

/-! ### The canonical form over the whole state -/

theorem State.reset_memWf : State.reset.memWf := ⟨rfl, rfl, rfl, fun _ h => nomatch h⟩

/-- Only the byte memories and the cores matter to the form. -/
theorem State.memWf_congr (s t : State) (hc : t.cores = s.cores) (hd : t.dram = s.dram) (hh : t.host = s.host)
    (hp : t.pod = s.pod) (w : s.memWf) : t.memWf := by
  unfold State.memWf
  rw [hc, hd, hh, hp]
  exact w

theorem State.core_wf (s : State) (p : Nat) (w : s.memWf) : Memory.wf (s.core p).direct = true := by
  have h := w.2.2.2
  unfold State.core
  generalize s.cores = l at h
  induction l with
  | nil => rfl
  | cons e t ih =>
    obtain ⟨k, c⟩ := e
    simp only [tget]
    split
    · exact h (k, c) List.mem_cons_self
    · exact ih fun e he => h e (List.mem_cons_of_mem _ he)

theorem State.setCore_memWf (s : State) (p : Nat) (c : Core) (w : s.memWf) (hc : Memory.wf c.direct = true) :
    (s.setCore p c).memWf := by
  refine ⟨w.1, w.2.1, w.2.2.1, fun e he => ?_⟩
  rcases mem_tset _ _ _ _ he with h | h
  · rw [h]; exact hc
  · exact w.2.2.2 e h

/-- A change of a core that leaves its direct storage alone keeps the form. -/
theorem State.modCore_memWf (s : State) (p : Nat) (f : Core → Core) (w : s.memWf)
    (hf : (f (s.core p)).direct = (s.core p).direct) : (s.modCore p f).memWf :=
  s.setCore_memWf p _ w (hf ▸ s.core_wf p w)

theorem State.setThread_memWf (s : State) (p t : Nat) (x : Thread) (w : s.memWf) : (s.setThread p t x).memWf :=
  s.modCore_memWf p (fun c => c.setThread t x) w rfl

theorem State.modThread_memWf (s : State) (p t : Nat) (f : Thread → Thread) (w : s.memWf) : (s.modThread p t f).memWf :=
  s.setThread_memWf p t _ w

theorem State.modMe_memWf (s : State) (f : Thread → Thread) (w : s.memWf) : (s.modMe f).memWf :=
  s.setThread_memWf _ _ _ w

theorem State.dwrite_memWf (s : State) (p a n v : Nat) (w : s.memWf) : (s.dwrite p a n v).memWf :=
  s.setCore_memWf p _ w (mwrite_wf n _ a v (s.core_wf p w))

/-- A change of every core that leaves direct storage alone keeps the form. -/
theorem State.mapCores_memWf (s : State) (f : Nat × Core → Core) (w : s.memWf)
    (hf : ∀ e, (f e).direct = e.2.direct) : ({ s with cores := s.cores.map fun e => (e.1, f e) } : State).memWf := by
  refine ⟨w.1, w.2.1, w.2.2.1, fun e he => ?_⟩
  obtain ⟨x, hx, rfl⟩ := List.mem_map.mp he
  simpa [hf x] using w.2.2.2 x hx

end Sys2Proof.Machine
end

