-- ==== Sys2Proof/Laws/Issue.lean ====
section
/-!
SUPPORT. What one issue, one register write and one exception can do: the lemmas that later proofs cite instead of
unfolding the shared operations.
-/

namespace Sys2Proof.Machine

/-! ### The thread in hand -/

theorem tset_tset {α : Type} (t : Tab α) (n : Nat) (x y : α) : tset (tset t n x) n y = tset t n y := by
  induction t with
  | nil => simp [tset]
  | cons e t ih =>
    obtain ⟨k, v⟩ := e
    simp only [tset]
    split
    · simp [tset]
    · split
      · simp [tset]
      · rename_i h1 h2
        simp [tset, h1, h2, ih]

theorem State.modMe_modMe (s : State) (f g : Thread → Thread) : (s.modMe f).modMe g = s.modMe fun x => g (f x) := by
  simp [State.modMe, State.setMe, State.setThread, State.setCore, State.me, State.thread, State.core, Core.setThread,
    Core.thread, tset_tset, tget_tset_same]

/-! ### Waits before issue (R27, R165, R167) -/

/-- No token, in-route or out-route delays an instruction that names these registers. -/
theorem State.before_none (s : State) (rd wr : List GReg)
    (tokens : ∀ r ∈ rd ++ wr, r ≠ 0 → s.me.pend.getLsbD r.val = false)
    (pops : (28 : GReg) ∈ rd → s.me.crs.inRoute = none) (pushes : (29 : GReg) ∈ wr → s.me.crs.outRoute = none) :
    s.before rd wr = none := by
  have hf : ((rd ++ wr).find? fun r : GReg => r != 0 && s.me.pend.getLsbD r.val) = none := by
    rw [List.find?_eq_none]
    intro r hr
    by_cases h0 : r = 0
    · simp [h0]
    · rw [tokens r hr h0]; simp
  unfold State.before
  simp only [hf]
  by_cases a : (28 : GReg) ∈ rd <;> by_cases b : (29 : GReg) ∈ wr <;> simp_all

/-- A named register whose token is pending delays the instruction, the first of them by name (R167). -/
theorem State.before_token (s : State) (rd wr : List GReg) (r : GReg) (hr : r ∈ rd ++ wr) (h0 : r ≠ 0)
    (hp : s.me.pend.getLsbD r.val = true) :
    ∃ q ∈ rd ++ wr, q ≠ 0 ∧ s.me.pend.getLsbD q.val = true ∧ s.before rd wr = some (.inr (.token q.val)) := by
  cases hf : (rd ++ wr).find? fun r : GReg => r != 0 && s.me.pend.getLsbD r.val with
  | none => exact absurd (List.find?_eq_none.mp hf r hr) (by simp [h0, hp])
  | some q =>
    have hq := List.find?_some hf
    simp only [Bool.and_eq_true, bne_iff_ne, ne_eq] at hq
    exact ⟨q, List.mem_of_find?_eq_some hf, hq.1, hq.2, by unfold State.before; simp only [hf]⟩

/-! ### One issue -/

theorem State.issue_token (s : State) (rd wr : List GReg) (f : State → Ends) (w : Wait) (h : s.before rd wr = some (.inr w)) :
    s.issue rd wr f = s.preIssue w := by unfold State.issue; rw [h]

theorem State.issue_trap (s : State) (rd wr : List GReg) (f : State → Ends) (t : Trap) (h : s.before rd wr = some (.inl t)) :
    s.issue rd wr f = s.trapMe t := by unfold State.issue; rw [h]

/-- No engine has written a register that these name: accessing them publishes nothing (R167). -/
theorem State.useTokens_none (s : State) (rs : List GReg) (h : s.me.toks.any (named rs) = false) : s.useTokens rs = s := by
  unfold State.useTokens; rw [if_neg (by simp [h])]

/-- Everything an issue can do when nothing delays it, no chain queue is touched and no token is to be published. -/
theorem State.issue_plain (s : State) (rd wr : List GReg) (f : State → Ends) (h : s.before rd wr = none)
    (pops : (28 : GReg) ∈ rd → s.me.crs.inRoute = none) (pushes : (29 : GReg) ∈ wr → s.me.crs.outRoute = none)
    (toks : s.me.toks.any (named (rd ++ wr)) = false) :
    s.issue rd wr f =
      match f s with
      | .done s' => s'.finish none (s.me.regs.pc + 4)
      | .jump s' pc => s'.finish none pc
      | .wait s' w => s'.postIssue w none none
      | .again w => s.preIssue w
      | .trap t => s.trapMe t
      | .trapKeep s' t => (s'.modMe fun th => { th with resOut := none }).trapMe t
      | .gone s' => s' := by
  have hp : (if rd.contains 28 then s.me.crs.inRoute else none) = none := by
    by_cases a : (28 : GReg) ∈ rd <;> simp_all
  have hr : (if wr.contains 29 then s.me.crs.outRoute else none) = none := by
    by_cases a : (29 : GReg) ∈ wr <;> simp_all
  unfold State.issue
  rw [h]
  dsimp only
  rw [hp, hr, show s.reserve none = s from rfl, s.useTokens_none _ toks]
  all_goals rfl

theorem State.finish_none (s : State) (pc : BitVec 56) :
    s.finish none pc = s.modMe fun th => { th.pay with latch := {}, regs := { th.regs with pc := pc } } := rfl

/-! ### Register writes (R34, R165) -/

@[simp] theorem State.gw_zero (s : State) (v : Word) : s.gw 0 v = s := by simp [State.gw]
@[simp] theorem State.mw_zero (s : State) (v : Word) : s.mw 0 v = s := by simp [State.mw]
@[simp] theorem State.hw_zero (s : State) (v : Word) : s.hw 0 v = s := by simp [State.hw]
@[simp] theorem State.gr_zero (s : State) : s.gr 0 = 0 := by simp [State.gr]
@[simp] theorem State.mr_zero (s : State) : s.mr 0 = BitVec.allOnes 64 := by simp [State.mr]
@[simp] theorem State.hr_zero (s : State) : s.hr 0 = 0 := by simp [State.hr]

/-- A write to a general register that is no chain register, and not `g0`. -/
theorem State.gw_plain (s : State) (r : GReg) (v : Word) (h0 : r ≠ 0) (h28 : r = 28 → s.me.crs.inRoute = none)
    (h29 : r = 29 → s.me.crs.outRoute = none) : s.gw r v = s.modMe fun th => th.setG r v := by
  unfold State.gw
  by_cases a : r = 28
  · subst a
    cases ho : s.me.crs.outRoute <;> simp [h28 rfl, ho, State.modMe]
  · by_cases b : r = 29
    · subst b
      simp [h29 rfl, State.modMe]
    · cases ho : s.me.crs.outRoute <;> simp [h0, a, b, ho, State.modMe]

/-- A write to `g28` is discarded while it is a chain input. -/
theorem State.gw_chain (s : State) (v : Word) (h : s.me.crs.inRoute ≠ none) : s.gw 28 v = s := by
  cases hi : s.me.crs.inRoute with
  | none => exact absurd hi h
  | some q => simp [State.gw, hi]

/-! ### Taking an exception and returning from it (R31, R113) -/

/-- A Setter core's exception: what the instruction has loaded and the tokens it has taken are as before it, the record in direct storage,
the program counter at the handler. -/
theorem State.trapThread_setter (s : State) (p t : Nat) (w : BitVec 32) (tr : Trap) (h : isSetter p = true)
    (hr : (s.thread p t).resOut = none) :
    s.trapThread p t w tr =
      let s := s.modThread p t Thread.unpay
      let r := mkRecord (s.thread p t).seq t (s.thread p t).regs.pc w tr
      let u := s.dwrite p (256 + 32 * t) 32 r.data
      u.modThread p t fun th =>
        { th with st := .inRot, wait := .none, latch := {}, popIn := none, resOut := none, noAddr := false,
                  regs := { th.regs with pc := wordPc ((u.core p).dread 0 8) } } := by
  simp [State.trapThread, State.unreserve, h, hr]

/-- Another core's exception: the thread latched, its record delivered. -/
theorem State.trapThread_compute (s : State) (p t : Nat) (w : BitVec 32) (tr : Trap) (h : isSetter p = false)
    (hr : (s.thread p t).resOut = none) :
    s.trapThread p t w tr =
      let s := s.modThread p t Thread.unpay
      let th := s.thread p t
      let u := s.setThread p t
        { th.enter .latched with
          wait := .none, seq := th.seq + 1, popIn := none, resOut := none,
          latch := ⟨.trap, w, th.regs.pc, tr.kind, tr.cause, tr.addr, false, tr.drainPoison⟩ }
      u.deliver p t th.slot (u.core p).ctx (mkRecord (th.seq + 1) (s.gtn p t) th.regs.pc w tr) := by
  simp [State.trapThread, State.unreserve, h, hr]

/-- A delivered record changes the net or a context's waiting records, and nothing else. -/
theorem State.deliver_frame (s : State) (p t slot ctx : Nat) (r : FRec) :
    (s.deliver p t slot ctx r).cores = s.cores ∧ (s.deliver p t slot ctx r).dram = s.dram ∧
      (s.deliver p t slot ctx r).host = s.host ∧ (s.deliver p t slot ctx r).pod = s.pod ∧
      (s.deliver p t slot ctx r).kernels = s.kernels := by
  have host : ∀ c, (s.toHost c r).cores = s.cores ∧ (s.toHost c r).dram = s.dram ∧ (s.toHost c r).host = s.host ∧
      (s.toHost c r).pod = s.pod ∧ (s.toHost c r).kernels = s.kernels := fun _ => ⟨rfl, rfl, rfl, rfl, rfl⟩
  unfold State.deliver
  dsimp only
  repeat' split
  all_goals first
    | exact host _
    | simp [State.toUmator, State.send]

end Sys2Proof.Machine
end

