-- ==== Sys2Proof/Laws/PerInstr.lean ====
section
/-!
SUPPORT. What holds of every instruction as syntax, one lemma for each constructor: its word, as a number, fits in 32 bits,
so that no field is cut off by the encoding.
-/

namespace Sys2Proof.Laws.Encoding

open Sys2Proof

/-- The fields of an instruction's word lie within its 32 bits. -/
def Statement (i : Instr) : Prop := encodeNat i < 2 ^ 32

theorem ty_lt (t : VTy) : t.code.1 < 8 ∧ t.code.2 < 2 := by cases t <;> decide
theorem sz_lt (z : Sz) : z.code < 8 := by cases z <;> decide
theorem wd_lt (z : AWidth) : z.code < 4 := by cases z <;> decide
theorem cond_lt (z : Cond) : z.code < 16 := by cases z <;> decide
theorem vcond_lt (z : VCond) : z.code < 8 := by cases z <;> decide
theorem dty_lt (z : DTy) : z.code < 8 := by cases z <;> decide

theorem add : ∀ d a b, Statement (.add d a b) := by
  intro d a b
  show 67108864 + d.val * 2097152 + a.val * 65536 + b.val * 2048 < _
  omega

theorem sub : ∀ d a b, Statement (.sub d a b) := by
  intro d a b
  show 67108865 + d.val * 2097152 + a.val * 65536 + b.val * 2048 < _
  omega

theorem and : ∀ d a b, Statement (.and d a b) := by
  intro d a b
  show 67108866 + d.val * 2097152 + a.val * 65536 + b.val * 2048 < _
  omega

theorem or : ∀ d a b, Statement (.or d a b) := by
  intro d a b
  show 67108867 + d.val * 2097152 + a.val * 65536 + b.val * 2048 < _
  omega

theorem xor : ∀ d a b, Statement (.xor d a b) := by
  intro d a b
  show 67108868 + d.val * 2097152 + a.val * 65536 + b.val * 2048 < _
  omega

theorem andn : ∀ d a b, Statement (.andn d a b) := by
  intro d a b
  show 67108869 + d.val * 2097152 + a.val * 65536 + b.val * 2048 < _
  omega

theorem sll : ∀ d a b, Statement (.sll d a b) := by
  intro d a b
  show 67108872 + d.val * 2097152 + a.val * 65536 + b.val * 2048 < _
  omega

theorem srl : ∀ d a b, Statement (.srl d a b) := by
  intro d a b
  show 67108873 + d.val * 2097152 + a.val * 65536 + b.val * 2048 < _
  omega

theorem sra : ∀ d a b, Statement (.sra d a b) := by
  intro d a b
  show 67108874 + d.val * 2097152 + a.val * 65536 + b.val * 2048 < _
  omega

theorem mul : ∀ d a b, Statement (.mul d a b) := by
  intro d a b
  show 67108880 + d.val * 2097152 + a.val * 65536 + b.val * 2048 < _
  omega

theorem mulh : ∀ d a b, Statement (.mulh d a b) := by
  intro d a b
  show 67108881 + d.val * 2097152 + a.val * 65536 + b.val * 2048 < _
  omega

theorem mulhn : ∀ d a b, Statement (.mulhn d a b) := by
  intro d a b
  show 67108882 + d.val * 2097152 + a.val * 65536 + b.val * 2048 < _
  omega

theorem div : ∀ d a b, Statement (.div d a b) := by
  intro d a b
  show 67108884 + d.val * 2097152 + a.val * 65536 + b.val * 2048 < _
  omega

theorem divn : ∀ d a b, Statement (.divn d a b) := by
  intro d a b
  show 67108885 + d.val * 2097152 + a.val * 65536 + b.val * 2048 < _
  omega

theorem rem : ∀ d a b, Statement (.rem d a b) := by
  intro d a b
  show 67108886 + d.val * 2097152 + a.val * 65536 + b.val * 2048 < _
  omega

theorem remn : ∀ d a b, Statement (.remn d a b) := by
  intro d a b
  show 67108887 + d.val * 2097152 + a.val * 65536 + b.val * 2048 < _
  omega

theorem slt : ∀ d a b, Statement (.slt d a b) := by
  intro d a b
  show 67108888 + d.val * 2097152 + a.val * 65536 + b.val * 2048 < _
  omega

theorem sltn : ∀ d a b, Statement (.sltn d a b) := by
  intro d a b
  show 67108889 + d.val * 2097152 + a.val * 65536 + b.val * 2048 < _
  omega

theorem min : ∀ d a b, Statement (.min d a b) := by
  intro d a b
  show 67108892 + d.val * 2097152 + a.val * 65536 + b.val * 2048 < _
  omega

theorem max : ∀ d a b, Statement (.max d a b) := by
  intro d a b
  show 67108893 + d.val * 2097152 + a.val * 65536 + b.val * 2048 < _
  omega

theorem minn : ∀ d a b, Statement (.minn d a b) := by
  intro d a b
  show 67108894 + d.val * 2097152 + a.val * 65536 + b.val * 2048 < _
  omega

theorem maxn : ∀ d a b, Statement (.maxn d a b) := by
  intro d a b
  show 67108895 + d.val * 2097152 + a.val * 65536 + b.val * 2048 < _
  omega

theorem clz : ∀ d a, Statement (.clz d a) := by
  intro d a
  show 67108896 + d.val * 2097152 + a.val * 65536 < _
  omega

theorem ctz : ∀ d a, Statement (.ctz d a) := by
  intro d a
  show 67108897 + d.val * 2097152 + a.val * 65536 < _
  omega

theorem popc : ∀ d a, Statement (.popc d a) := by
  intro d a
  show 67108898 + d.val * 2097152 + a.val * 65536 < _
  omega

theorem extI8 : ∀ d a, Statement (.extI8 d a) := by
  intro d a
  show 67108904 + d.val * 2097152 + a.val * 65536 < _
  omega

theorem extN8 : ∀ d a, Statement (.extN8 d a) := by
  intro d a
  show 67108905 + d.val * 2097152 + a.val * 65536 < _
  omega

theorem extI16 : ∀ d a, Statement (.extI16 d a) := by
  intro d a
  show 67108906 + d.val * 2097152 + a.val * 65536 < _
  omega

theorem extN16 : ∀ d a, Statement (.extN16 d a) := by
  intro d a
  show 67108907 + d.val * 2097152 + a.val * 65536 < _
  omega

theorem extI32 : ∀ d a, Statement (.extI32 d a) := by
  intro d a
  show 67108908 + d.val * 2097152 + a.val * 65536 < _
  omega

theorem extN32 : ∀ d a, Statement (.extN32 d a) := by
  intro d a
  show 67108909 + d.val * 2097152 + a.val * 65536 < _
  omega

theorem addi : ∀ d a imm, Statement (.addi d a imm) := by
  intro d a imm
  show 134217728 + d.val * 2097152 + a.val * 65536 + imm.toNat < _
  omega

theorem andi : ∀ d a imm, Statement (.andi d a imm) := by
  intro d a imm
  show 201326592 + d.val * 2097152 + a.val * 65536 + imm.toNat < _
  omega

theorem ori : ∀ d a imm, Statement (.ori d a imm) := by
  intro d a imm
  show 268435456 + d.val * 2097152 + a.val * 65536 + imm.toNat < _
  omega

theorem xori : ∀ d a imm, Statement (.xori d a imm) := by
  intro d a imm
  show 335544320 + d.val * 2097152 + a.val * 65536 + imm.toNat < _
  omega

theorem slli : ∀ d a sh, Statement (.slli d a sh) := by
  intro d a sh
  show 402653184 + d.val * 2097152 + a.val * 65536 + sh.val < _
  omega

theorem srli : ∀ d a sh, Statement (.srli d a sh) := by
  intro d a sh
  show 402653248 + d.val * 2097152 + a.val * 65536 + sh.val < _
  omega

theorem srai : ∀ d a sh, Statement (.srai d a sh) := by
  intro d a sh
  show 402653312 + d.val * 2097152 + a.val * 65536 + sh.val < _
  omega

theorem slti : ∀ d a imm, Statement (.slti d a imm) := by
  intro d a imm
  show 469762048 + d.val * 2097152 + a.val * 65536 + imm.toNat < _
  omega

theorem sltni : ∀ d a imm, Statement (.sltni d a imm) := by
  intro d a imm
  show 536870912 + d.val * 2097152 + a.val * 65536 + imm.toNat < _
  omega

theorem lui : ∀ d imm, Statement (.lui d imm) := by
  intro d imm
  show 603979776 + d.val * 2097152 + imm.toNat < _
  omega

theorem addpc : ∀ d imm, Statement (.addpc d imm) := by
  intro d imm
  show 671088640 + d.val * 2097152 + imm.toNat < _
  omega

theorem skipReg : ∀ cc a b n, Statement (.skipReg cc a b n) := by
  intro cc a b n
  have := cond_lt cc
  show 738197504 + cc.code * 4194304 + a.val * 65536 + b.val * 2048 + n.val < _
  omega

theorem skipImm : ∀ cc a imm n, Statement (.skipImm cc a imm n) := by
  intro cc a imm n
  have := cond_lt cc
  show 740294656 + cc.code * 4194304 + a.val * 65536 + imm.toNat * 4 + n.val < _
  omega

theorem br : ∀ cc a off, Statement (.br cc a off) := by
  intro cc a off
  have := cond_lt cc
  show 805306368 + cc.code * 4194304 + a.val * 65536 + off.toNat < _
  omega

theorem j : ∀ off, Statement (.j off) := by
  intro off
  show 872415232 + off.toNat < _
  omega

theorem call : ∀ off, Statement (.call off) := by
  intro off
  show 939524096 + off.toNat < _
  omega

theorem jr : ∀ a, Statement (.jr a) := by
  intro a
  show 1006632960 + a.val * 65536 < _
  omega

theorem callr : ∀ d a, Statement (.callr d a) := by
  intro d a
  show 1006632961 + d.val * 2097152 + a.val * 65536 < _
  omega

theorem ld : ∀ d a sz imm, Statement (.ld d a sz imm) := by
  intro d a sz imm
  have := sz_lt sz
  show 1073741824 + d.val * 2097152 + a.val * 65536 + sz.code * 8192 + imm.toNat < _
  omega

theorem st : ∀ d a sz imm, Statement (.st d a sz imm) := by
  intro d a sz imm
  have := sz_lt sz
  show 1140850688 + d.val * 2097152 + a.val * 65536 + sz.code * 8192 + imm.toNat < _
  omega

theorem atomSwap : ∀ d a b wd, Statement (.atomSwap d a b wd) := by
  intro d a b wd
  have := wd_lt wd
  show 1207959552 + d.val * 2097152 + a.val * 65536 + b.val * 2048 + wd.code * 32 < _
  omega

theorem atomAdd : ∀ d a b wd, Statement (.atomAdd d a b wd) := by
  intro d a b wd
  have := wd_lt wd
  show 1207959680 + d.val * 2097152 + a.val * 65536 + b.val * 2048 + wd.code * 32 < _
  omega

theorem atomAnd : ∀ d a b wd, Statement (.atomAnd d a b wd) := by
  intro d a b wd
  have := wd_lt wd
  show 1207959808 + d.val * 2097152 + a.val * 65536 + b.val * 2048 + wd.code * 32 < _
  omega

theorem atomOr : ∀ d a b wd, Statement (.atomOr d a b wd) := by
  intro d a b wd
  have := wd_lt wd
  show 1207959936 + d.val * 2097152 + a.val * 65536 + b.val * 2048 + wd.code * 32 < _
  omega

theorem atomXor : ∀ d a b wd, Statement (.atomXor d a b wd) := by
  intro d a b wd
  have := wd_lt wd
  show 1207960064 + d.val * 2097152 + a.val * 65536 + b.val * 2048 + wd.code * 32 < _
  omega

theorem atomMax : ∀ d a b wd nat, Statement (.atomMax d a b wd nat) := by
  intro d a b wd nat
  have := wd_lt wd
  have := Bool.toNat_lt nat
  show 1207960192 + d.val * 2097152 + a.val * 65536 + b.val * 2048 + wd.code * 32 + nat.toNat * 16 < _
  omega

theorem atomMin : ∀ d a b wd nat, Statement (.atomMin d a b wd nat) := by
  intro d a b wd nat
  have := wd_lt wd
  have := Bool.toNat_lt nat
  show 1207960320 + d.val * 2097152 + a.val * 65536 + b.val * 2048 + wd.code * 32 + nat.toNat * 16 < _
  omega

theorem atomCas : ∀ d a b wd, Statement (.atomCas d a b wd) := by
  intro d a b wd
  have := wd_lt wd
  show 1207960448 + d.val * 2097152 + a.val * 65536 + b.val * 2048 + wd.code * 32 < _
  omega

theorem pinL : ∀ a, Statement (.pinL a) := by
  intro a
  show 1275068416 + a.val * 65536 < _
  omega

theorem unpinL : ∀ a, Statement (.unpinL a) := by
  intro a
  show 1275068417 + a.val * 65536 < _
  omega

theorem flush : ∀ a, Statement (.flush a) := by
  intro a
  show 1275068418 + a.val * 65536 < _
  omega

theorem inval : ∀ a, Statement (.inval a) := by
  intro a
  show 1275068419 + a.val * 65536 < _
  omega

theorem pref : ∀ a, Statement (.pref a) := by
  intro a
  show 1275068420 + a.val * 65536 < _
  omega

theorem crr : ∀ d crn, Statement (.crr d crn) := by
  intro d crn
  show 1342177280 + d.val * 2097152 + crn.toNat < _
  omega

theorem crw : ∀ a crn, Statement (.crw a crn) := by
  intro a crn
  show 1342181376 + a.val * 65536 + crn.toNat < _
  omega

theorem crs : ∀ d a crn, Statement (.crs d a crn) := by
  intro d a crn
  show 1342185472 + d.val * 2097152 + a.val * 65536 + crn.toNat < _
  omega

theorem crc : ∀ d a crn, Statement (.crc d a crn) := by
  intro d a crn
  show 1342189568 + d.val * 2097152 + a.val * 65536 + crn.toNat < _
  omega

theorem nop : Statement (.nop) := by
  show 1409286144 < _
  omega

theorem trap : ∀ n, Statement (.trap n) := by
  intro n
  show 1409286400 + n.toNat < _
  omega

theorem eret : Statement (.eret) := by
  show 1409286656 < _
  omega

theorem halt : Statement (.halt) := by
  show 1409286912 < _
  omega

theorem yield : Statement (.yield) := by
  show 1409287168 < _
  omega

theorem brk : ∀ n, Statement (.brk n) := by
  intro n
  show 1409287424 + n.toNat < _
  omega

theorem fackResume : ∀ a, Statement (.fackResume a) := by
  intro a
  show 1409287680 + a.val * 65536 < _
  omega

theorem fackSkip : ∀ a, Statement (.fackSkip a) := by
  intro a
  show 1409287681 + a.val * 65536 < _
  omega

theorem fackKill : ∀ a, Statement (.fackKill a) := by
  intro a
  show 1409287682 + a.val * 65536 < _
  omega

theorem vadd : ∀ d a b m ty, Statement (.vadd d a b m ty) := by
  intro d a b m ty
  have := ty_lt ty
  show 1476395008 + d.val * 2097152 + a.val * 65536 + b.val * 2048 + m.val * 64 + ty.code.1 * 256 + ty.code.2 * 32 < _
  omega

theorem vsub : ∀ d a b m ty, Statement (.vsub d a b m ty) := by
  intro d a b m ty
  have := ty_lt ty
  show 1476395009 + d.val * 2097152 + a.val * 65536 + b.val * 2048 + m.val * 64 + ty.code.1 * 256 + ty.code.2 * 32 < _
  omega

theorem vmul : ∀ d a b m ty, Statement (.vmul d a b m ty) := by
  intro d a b m ty
  have := ty_lt ty
  show 1476395010 + d.val * 2097152 + a.val * 65536 + b.val * 2048 + m.val * 64 + ty.code.1 * 256 + ty.code.2 * 32 < _
  omega

theorem vmin : ∀ d a b m ty, Statement (.vmin d a b m ty) := by
  intro d a b m ty
  have := ty_lt ty
  show 1476395011 + d.val * 2097152 + a.val * 65536 + b.val * 2048 + m.val * 64 + ty.code.1 * 256 + ty.code.2 * 32 < _
  omega

theorem vmax : ∀ d a b m ty, Statement (.vmax d a b m ty) := by
  intro d a b m ty
  have := ty_lt ty
  show 1476395012 + d.val * 2097152 + a.val * 65536 + b.val * 2048 + m.val * 64 + ty.code.1 * 256 + ty.code.2 * 32 < _
  omega

theorem vclamp : ∀ d a b m ty, Statement (.vclamp d a b m ty) := by
  intro d a b m ty
  have := ty_lt ty
  show 1476395013 + d.val * 2097152 + a.val * 65536 + b.val * 2048 + m.val * 64 + ty.code.1 * 256 + ty.code.2 * 32 < _
  omega

theorem vabs : ∀ d a m ty, Statement (.vabs d a m ty) := by
  intro d a m ty
  have := ty_lt ty
  show 1476395014 + d.val * 2097152 + a.val * 65536 + m.val * 64 + ty.code.1 * 256 + ty.code.2 * 32 < _
  omega

theorem vneg : ∀ d a m ty, Statement (.vneg d a m ty) := by
  intro d a m ty
  have := ty_lt ty
  show 1476395015 + d.val * 2097152 + a.val * 65536 + m.val * 64 + ty.code.1 * 256 + ty.code.2 * 32 < _
  omega

theorem vand : ∀ d a b m ty, Statement (.vand d a b m ty) := by
  intro d a b m ty
  have := ty_lt ty
  show 1476395016 + d.val * 2097152 + a.val * 65536 + b.val * 2048 + m.val * 64 + ty.code.1 * 256 + ty.code.2 * 32 < _
  omega

theorem vor : ∀ d a b m ty, Statement (.vor d a b m ty) := by
  intro d a b m ty
  have := ty_lt ty
  show 1476395017 + d.val * 2097152 + a.val * 65536 + b.val * 2048 + m.val * 64 + ty.code.1 * 256 + ty.code.2 * 32 < _
  omega

theorem vxor : ∀ d a b m ty, Statement (.vxor d a b m ty) := by
  intro d a b m ty
  have := ty_lt ty
  show 1476395018 + d.val * 2097152 + a.val * 65536 + b.val * 2048 + m.val * 64 + ty.code.1 * 256 + ty.code.2 * 32 < _
  omega

theorem vsll : ∀ d a b m ty, Statement (.vsll d a b m ty) := by
  intro d a b m ty
  have := ty_lt ty
  show 1476395019 + d.val * 2097152 + a.val * 65536 + b.val * 2048 + m.val * 64 + ty.code.1 * 256 + ty.code.2 * 32 < _
  omega

theorem vsrl : ∀ d a b m ty, Statement (.vsrl d a b m ty) := by
  intro d a b m ty
  have := ty_lt ty
  show 1476395020 + d.val * 2097152 + a.val * 65536 + b.val * 2048 + m.val * 64 + ty.code.1 * 256 + ty.code.2 * 32 < _
  omega

theorem vsra : ∀ d a b m ty, Statement (.vsra d a b m ty) := by
  intro d a b m ty
  have := ty_lt ty
  show 1476395021 + d.val * 2097152 + a.val * 65536 + b.val * 2048 + m.val * 64 + ty.code.1 * 256 + ty.code.2 * 32 < _
  omega

theorem vrcp : ∀ d a m ty, Statement (.vrcp d a m ty) := by
  intro d a m ty
  have := ty_lt ty
  show 1476395022 + d.val * 2097152 + a.val * 65536 + m.val * 64 + ty.code.1 * 256 + ty.code.2 * 32 < _
  omega

theorem vrsq : ∀ d a m ty, Statement (.vrsq d a m ty) := by
  intro d a m ty
  have := ty_lt ty
  show 1476395023 + d.val * 2097152 + a.val * 65536 + m.val * 64 + ty.code.1 * 256 + ty.code.2 * 32 < _
  omega

theorem vsqrt : ∀ d a m ty, Statement (.vsqrt d a m ty) := by
  intro d a m ty
  have := ty_lt ty
  show 1476395024 + d.val * 2097152 + a.val * 65536 + m.val * 64 + ty.code.1 * 256 + ty.code.2 * 32 < _
  omega

theorem vexp2 : ∀ d a m ty, Statement (.vexp2 d a m ty) := by
  intro d a m ty
  have := ty_lt ty
  show 1476395025 + d.val * 2097152 + a.val * 65536 + m.val * 64 + ty.code.1 * 256 + ty.code.2 * 32 < _
  omega

theorem vlog2 : ∀ d a m ty, Statement (.vlog2 d a m ty) := by
  intro d a m ty
  have := ty_lt ty
  show 1476395026 + d.val * 2097152 + a.val * 65536 + m.val * 64 + ty.code.1 * 256 + ty.code.2 * 32 < _
  omega

theorem vdiv : ∀ d a b m ty, Statement (.vdiv d a b m ty) := by
  intro d a b m ty
  have := ty_lt ty
  show 1476395027 + d.val * 2097152 + a.val * 65536 + b.val * 2048 + m.val * 64 + ty.code.1 * 256 + ty.code.2 * 32 < _
  omega

theorem vadds : ∀ d a b m ty, Statement (.vadds d a b m ty) := by
  intro d a b m ty
  have := ty_lt ty
  show 1476395028 + d.val * 2097152 + a.val * 65536 + b.val * 2048 + m.val * 64 + ty.code.1 * 256 + ty.code.2 * 32 < _
  omega

theorem vsubs : ∀ d a b m ty, Statement (.vsubs d a b m ty) := by
  intro d a b m ty
  have := ty_lt ty
  show 1476395029 + d.val * 2097152 + a.val * 65536 + b.val * 2048 + m.val * 64 + ty.code.1 * 256 + ty.code.2 * 32 < _
  omega

theorem vfma : ∀ d a b m ty, Statement (.vfma d a b m ty) := by
  intro d a b m ty
  have := ty_lt ty
  show 1543503872 + d.val * 2097152 + a.val * 65536 + b.val * 2048 + m.val * 64 + ty.code.1 * 256 + ty.code.2 * 32 < _
  omega

theorem vfms : ∀ d a b m ty, Statement (.vfms d a b m ty) := by
  intro d a b m ty
  have := ty_lt ty
  show 1543503873 + d.val * 2097152 + a.val * 65536 + b.val * 2048 + m.val * 64 + ty.code.1 * 256 + ty.code.2 * 32 < _
  omega

theorem vnfma : ∀ d a b m ty, Statement (.vnfma d a b m ty) := by
  intro d a b m ty
  have := ty_lt ty
  show 1543503874 + d.val * 2097152 + a.val * 65536 + b.val * 2048 + m.val * 64 + ty.code.1 * 256 + ty.code.2 * 32 < _
  omega

theorem vcmpEq : ∀ d a b m ty, Statement (.vcmpEq d a b m ty) := by
  intro d a b m ty
  have := ty_lt ty
  show 1610612736 + d.val * 2097152 + a.val * 65536 + b.val * 2048 + m.val * 64 + ty.code.1 * 256 + ty.code.2 * 32 < _
  omega

theorem vcmpNe : ∀ d a b m ty, Statement (.vcmpNe d a b m ty) := by
  intro d a b m ty
  have := ty_lt ty
  show 1610612737 + d.val * 2097152 + a.val * 65536 + b.val * 2048 + m.val * 64 + ty.code.1 * 256 + ty.code.2 * 32 < _
  omega

theorem vcmpLt : ∀ d a b m ty, Statement (.vcmpLt d a b m ty) := by
  intro d a b m ty
  have := ty_lt ty
  show 1610612738 + d.val * 2097152 + a.val * 65536 + b.val * 2048 + m.val * 64 + ty.code.1 * 256 + ty.code.2 * 32 < _
  omega

theorem vcmpGe : ∀ d a b m ty, Statement (.vcmpGe d a b m ty) := by
  intro d a b m ty
  have := ty_lt ty
  show 1610612739 + d.val * 2097152 + a.val * 65536 + b.val * 2048 + m.val * 64 + ty.code.1 * 256 + ty.code.2 * 32 < _
  omega

theorem vcmpLe : ∀ d a b m ty, Statement (.vcmpLe d a b m ty) := by
  intro d a b m ty
  have := ty_lt ty
  show 1610612740 + d.val * 2097152 + a.val * 65536 + b.val * 2048 + m.val * 64 + ty.code.1 * 256 + ty.code.2 * 32 < _
  omega

theorem vcmpGt : ∀ d a b m ty, Statement (.vcmpGt d a b m ty) := by
  intro d a b m ty
  have := ty_lt ty
  show 1610612741 + d.val * 2097152 + a.val * 65536 + b.val * 2048 + m.val * 64 + ty.code.1 * 256 + ty.code.2 * 32 < _
  omega

theorem vsel : ∀ d a b m ty, Statement (.vsel d a b m ty) := by
  intro d a b m ty
  have := ty_lt ty
  show 1610612744 + d.val * 2097152 + a.val * 65536 + b.val * 2048 + m.val * 64 + ty.code.1 * 256 + ty.code.2 * 32 < _
  omega

theorem mand : ∀ d a b, Statement (.mand d a b) := by
  intro d a b
  show 1610612745 + d.val * 2097152 + a.val * 65536 + b.val * 2048 < _
  omega

theorem mor : ∀ d a b, Statement (.mor d a b) := by
  intro d a b
  show 1610612746 + d.val * 2097152 + a.val * 65536 + b.val * 2048 < _
  omega

theorem mxor : ∀ d a b, Statement (.mxor d a b) := by
  intro d a b
  show 1610612747 + d.val * 2097152 + a.val * 65536 + b.val * 2048 < _
  omega

theorem mnot : ∀ d a, Statement (.mnot d a) := by
  intro d a
  show 1610612748 + d.val * 2097152 + a.val * 65536 < _
  omega

theorem vperm : ∀ d a b m ty, Statement (.vperm d a b m ty) := by
  intro d a b m ty
  have := ty_lt ty
  show 1677721600 + d.val * 2097152 + a.val * 65536 + b.val * 2048 + m.val * 64 + ty.code.1 * 256 + ty.code.2 * 32 < _
  omega

theorem vslup : ∀ d a b m ty, Statement (.vslup d a b m ty) := by
  intro d a b m ty
  have := ty_lt ty
  show 1677721601 + d.val * 2097152 + a.val * 65536 + b.val * 2048 + m.val * 64 + ty.code.1 * 256 + ty.code.2 * 32 < _
  omega

theorem vsldn : ∀ d a b m ty, Statement (.vsldn d a b m ty) := by
  intro d a b m ty
  have := ty_lt ty
  show 1677721602 + d.val * 2097152 + a.val * 65536 + b.val * 2048 + m.val * 64 + ty.code.1 * 256 + ty.code.2 * 32 < _
  omega

theorem vzip : ∀ d a b m ty, Statement (.vzip d a b m ty) := by
  intro d a b m ty
  have := ty_lt ty
  show 1677721603 + d.val * 2097152 + a.val * 65536 + b.val * 2048 + m.val * 64 + ty.code.1 * 256 + ty.code.2 * 32 < _
  omega

theorem vunzip : ∀ d a b m ty, Statement (.vunzip d a b m ty) := by
  intro d a b m ty
  have := ty_lt ty
  show 1677721604 + d.val * 2097152 + a.val * 65536 + b.val * 2048 + m.val * 64 + ty.code.1 * 256 + ty.code.2 * 32 < _
  omega

theorem vrev : ∀ d a m ty, Statement (.vrev d a m ty) := by
  intro d a m ty
  have := ty_lt ty
  show 1677721605 + d.val * 2097152 + a.val * 65536 + m.val * 64 + ty.code.1 * 256 + ty.code.2 * 32 < _
  omega

theorem vcvt : ∀ d a m dty sty rtz, Statement (.vcvt d a m dty sty rtz) := by
  intro d a m dty sty rtz
  have := ty_lt dty
  have := ty_lt sty
  have := Bool.toNat_lt rtz
  show 1744830464 + d.val * 2097152 + a.val * 65536 + m.val * 64 + dty.code.1 * 256 + dty.code.2 * 32 + sty.code.1 * 8192 + sty.code.2 * 4096 + rtz.toNat * 2048 < _
  omega

theorem vpack4F32 : ∀ d a b m, Statement (.vpack4F32 d a b m) := by
  intro d a b m
  show 1744832001 + d.val * 2097152 + a.val * 65536 + b.val * 2048 + m.val * 64 < _
  omega

theorem vpack4Half : ∀ d a m bf, Statement (.vpack4Half d a m bf) := by
  intro d a m bf
  have := Bool.toNat_lt bf
  show 1744831489 + d.val * 2097152 + a.val * 65536 + m.val * 64 + bf.toNat * 256 < _
  omega

theorem vunpack4Half : ∀ d a m bf k, Statement (.vunpack4Half d a m bf k) := by
  intro d a m bf k
  have := Bool.toNat_lt bf
  show 1744831490 + d.val * 2097152 + a.val * 65536 + m.val * 64 + bf.toNat * 256 + k.val * 16384 < _
  omega

theorem vunpack4F32 : ∀ d a m k h, Statement (.vunpack4F32 d a m k h) := by
  intro d a m k h
  have := Bool.toNat_lt h
  show 1744832002 + d.val * 2097152 + a.val * 65536 + m.val * 64 + k.val * 16384 + h.toNat * 2048 < _
  omega

theorem vrsum : ∀ d a m ty, Statement (.vrsum d a m ty) := by
  intro d a m ty
  have := ty_lt ty
  show 1811939328 + d.val * 2097152 + a.val * 65536 + m.val * 64 + ty.code.1 * 256 + ty.code.2 * 32 < _
  omega

theorem vrmax : ∀ d a m ty, Statement (.vrmax d a m ty) := by
  intro d a m ty
  have := ty_lt ty
  show 1811939329 + d.val * 2097152 + a.val * 65536 + m.val * 64 + ty.code.1 * 256 + ty.code.2 * 32 < _
  omega

theorem vrmin : ∀ d a m ty, Statement (.vrmin d a m ty) := by
  intro d a m ty
  have := ty_lt ty
  show 1811939330 + d.val * 2097152 + a.val * 65536 + m.val * 64 + ty.code.1 * 256 + ty.code.2 * 32 < _
  omega

theorem vrand : ∀ d a m ty, Statement (.vrand d a m ty) := by
  intro d a m ty
  have := ty_lt ty
  show 1811939331 + d.val * 2097152 + a.val * 65536 + m.val * 64 + ty.code.1 * 256 + ty.code.2 * 32 < _
  omega

theorem vror : ∀ d a m ty, Statement (.vror d a m ty) := by
  intro d a m ty
  have := ty_lt ty
  show 1811939332 + d.val * 2097152 + a.val * 65536 + m.val * 64 + ty.code.1 * 256 + ty.code.2 * 32 < _
  omega

theorem vrxor : ∀ d a m ty, Statement (.vrxor d a m ty) := by
  intro d a m ty
  have := ty_lt ty
  show 1811939333 + d.val * 2097152 + a.val * 65536 + m.val * 64 + ty.code.1 * 256 + ty.code.2 * 32 < _
  omega

theorem vld : ∀ d a m ty, Statement (.vld d a m ty) := by
  intro d a m ty
  have := ty_lt ty
  show 1879048192 + d.val * 2097152 + a.val * 65536 + m.val * 64 + ty.code.1 * 256 + ty.code.2 * 32 < _
  omega

theorem vlds : ∀ d a b m ty, Statement (.vlds d a b m ty) := by
  intro d a b m ty
  have := ty_lt ty
  show 1879048193 + d.val * 2097152 + a.val * 65536 + b.val * 2048 + m.val * 64 + ty.code.1 * 256 + ty.code.2 * 32 < _
  omega

theorem vldx : ∀ d a b m ty, Statement (.vldx d a b m ty) := by
  intro d a b m ty
  have := ty_lt ty
  show 1879048194 + d.val * 2097152 + a.val * 65536 + b.val * 2048 + m.val * 64 + ty.code.1 * 256 + ty.code.2 * 32 < _
  omega

theorem vst : ∀ d a m ty, Statement (.vst d a m ty) := by
  intro d a m ty
  have := ty_lt ty
  show 1946157056 + d.val * 2097152 + a.val * 65536 + m.val * 64 + ty.code.1 * 256 + ty.code.2 * 32 < _
  omega

theorem vsts : ∀ d a b m ty, Statement (.vsts d a b m ty) := by
  intro d a b m ty
  have := ty_lt ty
  show 1946157057 + d.val * 2097152 + a.val * 65536 + b.val * 2048 + m.val * 64 + ty.code.1 * 256 + ty.code.2 * 32 < _
  omega

theorem vstx : ∀ d a b m ty, Statement (.vstx d a b m ty) := by
  intro d a b m ty
  have := ty_lt ty
  show 1946157058 + d.val * 2097152 + a.val * 65536 + b.val * 2048 + m.val * 64 + ty.code.1 * 256 + ty.code.2 * 32 < _
  omega

theorem vsplat : ∀ d a m ty, Statement (.vsplat d a m ty) := by
  intro d a m ty
  have := ty_lt ty
  show 2013265920 + d.val * 2097152 + a.val * 65536 + m.val * 64 + ty.code.1 * 256 + ty.code.2 * 32 < _
  omega

theorem vins : ∀ d a b ty, Statement (.vins d a b ty) := by
  intro d a b ty
  have := ty_lt ty
  show 2013265921 + d.val * 2097152 + a.val * 65536 + b.val * 2048 + ty.code.1 * 256 + ty.code.2 * 32 < _
  omega

theorem vext : ∀ d a b ty, Statement (.vext d a b ty) := by
  intro d a b ty
  have := ty_lt ty
  show 2013265922 + d.val * 2097152 + a.val * 65536 + b.val * 2048 + ty.code.1 * 256 + ty.code.2 * 32 < _
  omega

theorem mgetg : ∀ d a, Statement (.mgetg d a) := by
  intro d a
  show 2013265923 + d.val * 2097152 + a.val * 65536 < _
  omega

theorem msetg : ∀ d a, Statement (.msetg d a) := by
  intro d a
  show 2013265924 + d.val * 2097152 + a.val * 65536 < _
  omega

theorem sync : ∀ d a n, Statement (.sync d a n) := by
  intro d a n
  show 2147483648 + d.val * 2097152 + a.val * 65536 + n.val < _
  omega

theorem barw : ∀ a, Statement (.barw a) := by
  intro a
  show 2214592512 + a.val * 65536 < _
  omega

theorem barq : ∀ d a, Statement (.barq d a) := by
  intro d a
  show 2214592513 + d.val * 2097152 + a.val * 65536 < _
  omega

theorem barset : ∀ a, Statement (.barset a) := by
  intro a
  show 2214592514 + a.val * 65536 < _
  omega

theorem evname : ∀ d a b, Statement (.evname d a b) := by
  intro d a b
  show 2281701376 + d.val * 2097152 + a.val * 65536 + b.val * 2048 < _
  omega

theorem evinfo : ∀ d a, Statement (.evinfo d a) := by
  intro d a
  show 2281701377 + d.val * 2097152 + a.val * 65536 < _
  omega

theorem mma : ∀ acc a b fa fb, Statement (.mma acc a b fa fb) := by
  intro acc a b fa fb
  show 2415919104 + acc.val * 2097152 + a.val * 65536 + b.val * 2048 + fa.val * 16 + fb.val < _
  omega

theorem mgeo : ∀ a, Statement (.mgeo a) := by
  intro a
  show 2483027968 + a.val * 65536 < _
  omega

theorem mzero : ∀ acc, Statement (.mzero acc) := by
  intro acc
  show 2483027969 + acc.val * 2097152 < _
  omega

theorem msave : ∀ acc a, Statement (.msave acc a) := by
  intro acc a
  show 2483027970 + acc.val * 2097152 + a.val * 65536 < _
  omega

theorem mrest : ∀ acc a, Statement (.mrest acc a) := by
  intro acc a
  show 2483027971 + acc.val * 2097152 + a.val * 65536 < _
  omega

theorem dload : ∀ p a, Statement (.dload p a) := by
  intro p a
  show 2550136832 + p.val * 2097152 + a.val * 65536 < _
  omega

theorem dloadT : ∀ a b, Statement (.dloadT a b) := by
  intro a b
  show 2550136833 + a.val * 65536 + b.val * 2048 < _
  omega

theorem dbind : ∀ p a, Statement (.dbind p a) := by
  intro p a
  show 2550136834 + p.val * 2097152 + a.val * 65536 < _
  omega

theorem cpy : ∀ d a, Statement (.cpy d a) := by
  intro d a
  show 2684354560 + d.val * 2097152 + a.val * 65536 < _
  omega

theorem gath : ∀ d a, Statement (.gath d a) := by
  intro d a
  show 2684354561 + d.val * 2097152 + a.val * 65536 < _
  omega

theorem scat : ∀ d a, Statement (.scat d a) := by
  intro d a
  show 2684354562 + d.val * 2097152 + a.val * 65536 < _
  omega

theorem fill : ∀ d a, Statement (.fill d a) := by
  intro d a
  show 2684354563 + d.val * 2097152 + a.val * 65536 < _
  omega

theorem cpyEv : ∀ a, Statement (.cpyEv a) := by
  intro a
  show 2684355584 + a.val * 65536 < _
  omega

theorem gathEv : ∀ a, Statement (.gathEv a) := by
  intro a
  show 2684355585 + a.val * 65536 < _
  omega

theorem scatEv : ∀ a, Statement (.scatEv a) := by
  intro a
  show 2684355586 + a.val * 65536 < _
  omega

theorem fillEv : ∀ a, Statement (.fillEv a) := by
  intro a
  show 2684355587 + a.val * 65536 < _
  omega

theorem hld : ∀ d a sz off, Statement (.hld d a sz off) := by
  intro d a sz off
  have := sz_lt sz
  show 2818572288 + d.val * 2097152 + a.val * 65536 + sz.code * 8192 + off.toNat < _
  omega

theorem hst : ∀ d a sz off, Statement (.hst d a sz off) := by
  intro d a sz off
  have := sz_lt sz
  show 2818574336 + d.val * 2097152 + a.val * 65536 + sz.code * 8192 + off.toNat < _
  omega

theorem hldr : ∀ d a off, Statement (.hldr d a off) := by
  intro d a off
  show 2818625536 + d.val * 2097152 + a.val * 65536 + off.toNat < _
  omega

theorem hstr : ∀ d a off, Statement (.hstr d a off) := by
  intro d a off
  show 2818627584 + d.val * 2097152 + a.val * 65536 + off.toNat < _
  omega

theorem hnew : ∀ d a b, Statement (.hnew d a b) := by
  intro d a b
  show 2885681152 + d.val * 2097152 + a.val * 65536 + b.val * 2048 < _
  omega

theorem hpin : ∀ d a, Statement (.hpin d a) := by
  intro d a
  show 2885681153 + d.val * 2097152 + a.val * 65536 < _
  omega

theorem hunpin : ∀ a, Statement (.hunpin a) := by
  intro a
  show 2885681154 + a.val * 65536 < _
  omega

theorem hcmp : ∀ d a b, Statement (.hcmp d a b) := by
  intro d a b
  show 2885681155 + d.val * 2097152 + a.val * 65536 + b.val * 2048 < _
  omega

theorem hmov : ∀ d a, Statement (.hmov d a) := by
  intro d a
  show 2885681156 + d.val * 2097152 + a.val * 65536 < _
  omega

theorem htag : ∀ d a, Statement (.htag d a) := by
  intro d a
  show 2885681157 + d.val * 2097152 + a.val * 65536 < _
  omega

theorem hget : ∀ d a, Statement (.hget d a) := by
  intro d a
  show 2885681158 + d.val * 2097152 + a.val * 65536 < _
  omega

theorem spawn : ∀ a b, Statement (.spawn a b) := by
  intro a b
  show 3019898880 + a.val * 65536 + b.val * 2048 < _
  omega

theorem launch : ∀ a, Statement (.launch a) := by
  intro a
  show 3019898888 + a.val * 65536 < _
  omega

theorem exit : Statement (.exit) := by
  show 3019898896 < _
  omega

theorem rank : ∀ d n, Statement (.rank d n) := by
  intro d n
  show 3019898904 + d.val * 2097152 + n.val < _
  omega

theorem size : ∀ d n, Statement (.size d n) := by
  intro d n
  show 3019898912 + d.val * 2097152 + n.val < _
  omega

theorem tlbw : ∀ a, Statement (.tlbw a) := by
  intro a
  show 3087007744 + a.val * 65536 < _
  omega

theorem tlbi : ∀ a, Statement (.tlbi a) := by
  intro a
  show 3087007745 + a.val * 65536 < _
  omega

theorem tlbr : ∀ d a, Statement (.tlbr d a) := by
  intro d a
  show 3087007746 + d.val * 2097152 + a.val * 65536 < _
  omega

theorem seed : ∀ a, Statement (.seed a) := by
  intro a
  show 3087007747 + a.val * 65536 < _
  omega

theorem migr : ∀ a, Statement (.migr a) := by
  intro a
  show 3087007748 + a.val * 65536 < _
  omega

theorem drainNop : Statement (.drainNop) := by
  show 0 < _
  omega

theorem drainAdd : ∀ d a b, Statement (.drainAdd d a b) := by
  intro d a b
  show 67108864 + d.val * 8388608 + a.val * 1048576 + b.val * 131072 < _
  omega

theorem drainSub : ∀ d a b, Statement (.drainSub d a b) := by
  intro d a b
  show 134217728 + d.val * 8388608 + a.val * 1048576 + b.val * 131072 < _
  omega

theorem drainMul : ∀ d a b, Statement (.drainMul d a b) := by
  intro d a b
  show 201326592 + d.val * 8388608 + a.val * 1048576 + b.val * 131072 < _
  omega

theorem drainFma : ∀ d a b c, Statement (.drainFma d a b c) := by
  intro d a b c
  show 268435456 + d.val * 8388608 + a.val * 1048576 + b.val * 131072 + c.val * 16384 < _
  omega

theorem drainMax : ∀ d a b, Statement (.drainMax d a b) := by
  intro d a b
  show 335544320 + d.val * 8388608 + a.val * 1048576 + b.val * 131072 < _
  omega

theorem drainMin : ∀ d a b, Statement (.drainMin d a b) := by
  intro d a b
  show 402653184 + d.val * 8388608 + a.val * 1048576 + b.val * 131072 < _
  omega

theorem drainAbs : ∀ d a, Statement (.drainAbs d a) := by
  intro d a
  show 469762048 + d.val * 8388608 + a.val * 1048576 < _
  omega

theorem drainNeg : ∀ d a, Statement (.drainNeg d a) := by
  intro d a
  show 536870912 + d.val * 8388608 + a.val * 1048576 < _
  omega

theorem drainClamp : ∀ d a b c, Statement (.drainClamp d a b c) := by
  intro d a b c
  show 603979776 + d.val * 8388608 + a.val * 1048576 + b.val * 131072 + c.val * 16384 < _
  omega

theorem drainRcp : ∀ d a, Statement (.drainRcp d a) := by
  intro d a
  show 671088640 + d.val * 8388608 + a.val * 1048576 < _
  omega

theorem drainRsq : ∀ d a, Statement (.drainRsq d a) := by
  intro d a
  show 738197504 + d.val * 8388608 + a.val * 1048576 < _
  omega

theorem drainExp2 : ∀ d a, Statement (.drainExp2 d a) := by
  intro d a
  show 805306368 + d.val * 8388608 + a.val * 1048576 < _
  omega

theorem drainLog2 : ∀ d a, Statement (.drainLog2 d a) := by
  intro d a
  show 872415232 + d.val * 8388608 + a.val * 1048576 < _
  omega

theorem drainCmp : ∀ cc d a b, Statement (.drainCmp cc d a b) := by
  intro cc d a b
  have := vcond_lt cc
  show 939524096 + cc.code + d.val * 8388608 + a.val * 1048576 + b.val * 131072 < _
  omega

theorem drainSel : ∀ d a b c, Statement (.drainSel d a b c) := by
  intro d a b c
  show 1006632960 + d.val * 8388608 + a.val * 1048576 + b.val * 131072 + c.val * 16384 < _
  omega

theorem drainMov : ∀ d a, Statement (.drainMov d a) := by
  intro d a
  show 1073741824 + d.val * 8388608 + a.val * 1048576 < _
  omega

theorem drainLdi : ∀ d imm, Statement (.drainLdi d imm) := by
  intro d imm
  show 1140850688 + d.val * 8388608 + imm.toNat < _
  omega

theorem drainLdc : ∀ d off, Statement (.drainLdc d off) := by
  intro d off
  show 1207959552 + d.val * 8388608 + off.toNat * 4 < _
  omega

theorem drainLdr : ∀ d off, Statement (.drainLdr d off) := by
  intro d off
  show 1275068416 + d.val * 8388608 + off.toNat * 4 < _
  omega

theorem drainLds : ∀ d t, Statement (.drainLds d t) := by
  intro d t
  have := dty_lt t
  show 1342177280 + d.val * 8388608 + t.code < _
  omega

theorem drainRredSum : ∀ k a, Statement (.drainRredSum k a) := by
  intro k a
  show 1610612736 + k.val + a.val * 1048576 < _
  omega

theorem drainRredMax : ∀ k a, Statement (.drainRredMax k a) := by
  intro k a
  show 1677721600 + k.val + a.val * 1048576 < _
  omega

theorem drainRget : ∀ d k, Statement (.drainRget d k) := by
  intro d k
  show 1744830464 + d.val * 8388608 + k.val < _
  omega

theorem drainSt : ∀ a t, Statement (.drainSt a t) := by
  intro a t
  have := dty_lt t
  show 2147483648 + a.val * 1048576 + t.code < _
  omega

theorem drainStq : ∀ a kind, Statement (.drainStq a kind) := by
  intro a kind
  show 2214592512 + a.val * 1048576 + kind.val < _
  omega

theorem drainEnd : Statement (.drainEnd) := by
  show 4227858432 < _
  omega

theorem carveWrite : ∀ x0 x1, Statement (.carveWrite x0 x1) := fun _ _ => show 0 < 2 ^ 32 by decide

theorem vpoolWrite : ∀ x0 x1, Statement (.vpoolWrite x0 x1) := fun _ _ => show 0 < 2 ^ 32 by decide

theorem jrnlWrite : ∀ x0 x1, Statement (.jrnlWrite x0 x1) := fun _ _ => show 0 < 2 ^ 32 by decide

theorem fackSent : ∀ x0, Statement (.fackSent x0) := fun _ => show 0 < 2 ^ 32 by decide

theorem fackArrival : ∀ x0, Statement (.fackArrival x0) := fun _ => show 0 < 2 ^ 32 by decide

theorem syncOffersSent : ∀ x0 x1, Statement (.syncOffersSent x0 x1) := fun _ _ => show 0 < 2 ^ 32 by decide

theorem barrierArrivalLatched : ∀ x0 x1, Statement (.barrierArrivalLatched x0 x1) := fun _ _ => show 0 < 2 ^ 32 by decide

theorem barrierRelease : ∀ x0 x1, Statement (.barrierRelease x0 x1) := fun _ _ => show 0 < 2 ^ 32 by decide

theorem offerArrival : ∀ x0, Statement (.offerArrival x0) := fun _ => show 0 < 2 ^ 32 by decide

theorem overflowSlotReturn : ∀ x0 x1, Statement (.overflowSlotReturn x0 x1) := fun _ _ => show 0 < 2 ^ 32 by decide

theorem claimArrival : ∀ x0, Statement (.claimArrival x0) := fun _ => show 0 < 2 ^ 32 by decide

theorem claimGrant : ∀ x0, Statement (.claimGrant x0) := fun _ => show 0 < 2 ^ 32 by decide

theorem claimDenial : ∀ x0, Statement (.claimDenial x0) := fun _ => show 0 < 2 ^ 32 by decide

theorem commitArrival : ∀ x0, Statement (.commitArrival x0) := fun _ => show 0 < 2 ^ 32 by decide

theorem grantReleaseArrival : ∀ x0, Statement (.grantReleaseArrival x0) := fun _ => show 0 < 2 ^ 32 by decide

theorem withdrawalArrival : ∀ x0, Statement (.withdrawalArrival x0) := fun _ => show 0 < 2 ^ 32 by decide

theorem deliveryArrival : ∀ x0, Statement (.deliveryArrival x0) := fun _ => show 0 < 2 ^ 32 by decide

theorem deliveryAck : ∀ x0, Statement (.deliveryAck x0) := fun _ => show 0 < 2 ^ 32 by decide

theorem timerAlternativeDue : ∀ x0 x1 x2, Statement (.timerAlternativeDue x0 x1 x2) := fun _ _ _ => show 0 < 2 ^ 32 by decide

theorem quiescenceDetected : ∀ x0, Statement (.quiescenceDetected x0) := fun _ => show 0 < 2 ^ 32 by decide

theorem chainEntryArrival : ∀ x0, Statement (.chainEntryArrival x0) := fun _ => show 0 < 2 ^ 32 by decide

theorem bankOpTake : ∀ x0 x1, Statement (.bankOpTake x0 x1) := fun _ _ => show 0 < 2 ^ 32 by decide

theorem bankTransferComplete : ∀ x0 x1, Statement (.bankTransferComplete x0 x1) := fun _ _ => show 0 < 2 ^ 32 by decide

theorem mmaAdmission : ∀ x0, Statement (.mmaAdmission x0) := fun _ => show 0 < 2 ^ 32 by decide

theorem chunkAccumulate : ∀ x0, Statement (.chunkAccumulate x0) := fun _ => show 0 < 2 ^ 32 by decide

theorem drainGrant : ∀ x0, Statement (.drainGrant x0) := fun _ => show 0 < 2 ^ 32 by decide

theorem drainRowAdmit : ∀ x0, Statement (.drainRowAdmit x0) := fun _ => show 0 < 2 ^ 32 by decide

theorem drainRowCommit : ∀ x0, Statement (.drainRowCommit x0) := fun _ => show 0 < 2 ^ 32 by decide

theorem drainFaultReport : ∀ x0, Statement (.drainFaultReport x0) := fun _ => show 0 < 2 ^ 32 by decide

theorem drainStorePoison : ∀ x0 x1, Statement (.drainStorePoison x0 x1) := fun _ _ => show 0 < 2 ^ 32 by decide

theorem matrixOperationComplete : ∀ x0 x1, Statement (.matrixOperationComplete x0 x1) := fun _ _ => show 0 < 2 ^ 32 by decide

theorem dloadTCopyStart : ∀ x0 x1, Statement (.dloadTCopyStart x0 x1) := fun _ _ => show 0 < 2 ^ 32 by decide

theorem dloadTCopyComplete : ∀ x0 x1, Statement (.dloadTCopyComplete x0 x1) := fun _ _ => show 0 < 2 ^ 32 by decide

theorem copyRequestLeaves : ∀ x0 x1, Statement (.copyRequestLeaves x0 x1) := fun _ _ => show 0 < 2 ^ 32 by decide

theorem copyRequestAccept : ∀ x0, Statement (.copyRequestAccept x0) := fun _ => show 0 < 2 ^ 32 by decide

theorem copyStart : ∀ x0, Statement (.copyStart x0) := fun _ => show 0 < 2 ^ 32 by decide

theorem copyElement : ∀ x0 x1, Statement (.copyElement x0 x1) := fun _ _ => show 0 < 2 ^ 32 by decide

theorem copySettled : ∀ x0 x1, Statement (.copySettled x0 x1) := fun _ _ => show 0 < 2 ^ 32 by decide

theorem zeroExtentCompletion : ∀ x0 x1, Statement (.zeroExtentCompletion x0 x1) := fun _ _ => show 0 < 2 ^ 32 by decide

theorem tokenWrite : ∀ x0, Statement (.tokenWrite x0) := fun _ => show 0 < 2 ^ 32 by decide

theorem relocationRequestAccept : ∀ x0, Statement (.relocationRequestAccept x0) := fun _ => show 0 < 2 ^ 32 by decide

theorem epochBroadcastArrival : ∀ x0, Statement (.epochBroadcastArrival x0) := fun _ => show 0 < 2 ^ 32 by decide

theorem collieEpochAcksDone : ∀ x0, Statement (.collieEpochAcksDone x0) := fun _ => show 0 < 2 ^ 32 by decide

theorem collieCopyDone : ∀ x0, Statement (.collieCopyDone x0) := fun _ => show 0 < 2 ^ 32 by decide

theorem collieFault : ∀ x0, Statement (.collieFault x0) := fun _ => show 0 < 2 ^ 32 by decide

theorem heldStoreRetry : ∀ x0 x1, Statement (.heldStoreRetry x0 x1) := fun _ _ => show 0 < 2 ^ 32 by decide

theorem strictFrameAnswer : ∀ x0 x1, Statement (.strictFrameAnswer x0 x1) := fun _ _ => show 0 < 2 ^ 32 by decide

theorem frameStanding : ∀ x0 x1, Statement (.frameStanding x0 x1) := fun _ _ => show 0 < 2 ^ 32 by decide

theorem frameDispatch : ∀ x0, Statement (.frameDispatch x0) := fun _ => show 0 < 2 ^ 32 by decide

theorem stealRequest : ∀ x0 x1, Statement (.stealRequest x0 x1) := fun _ _ => show 0 < 2 ^ 32 by decide

theorem migrationSwitch : ∀ x0, Statement (.migrationSwitch x0) := fun _ => show 0 < 2 ^ 32 by decide

theorem migrationAbandon : ∀ x0, Statement (.migrationAbandon x0) := fun _ => show 0 < 2 ^ 32 by decide

theorem tlbiComplete : ∀ x0 x1, Statement (.tlbiComplete x0 x1) := fun _ _ => show 0 < 2 ^ 32 by decide

theorem seedChangeComplete : ∀ x0, Statement (.seedChangeComplete x0) := fun _ => show 0 < 2 ^ 32 by decide

theorem tlbFillReply : ∀ x0, Statement (.tlbFillReply x0) := fun _ => show 0 < 2 ^ 32 by decide

theorem hostWalkAnswer : ∀ x0 x1 x2 x3, Statement (.hostWalkAnswer x0 x1 x2 x3) := fun _ _ _ _ => show 0 < 2 ^ 32 by decide

theorem slotTurn : ∀ x0, Statement (.slotTurn x0) := fun _ => show 0 < 2 ^ 32 by decide

theorem ptimeSelfAdvance : ∀ x0 x1, Statement (.ptimeSelfAdvance x0 x1) := fun _ _ => show 0 < 2 ^ 32 by decide

theorem loadReply : ∀ x0 x1 x2, Statement (.loadReply x0 x1 x2) := fun _ _ _ => show 0 < 2 ^ 32 by decide

theorem leaseRenewal : ∀ x0 x1 x2, Statement (.leaseRenewal x0 x1 x2) := fun _ _ _ => show 0 < 2 ^ 32 by decide

theorem storeAcceptance : ∀ x0 x1, Statement (.storeAcceptance x0 x1) := fun _ _ => show 0 < 2 ^ 32 by decide

theorem storeRefusal : ∀ x0 x1, Statement (.storeRefusal x0 x1) := fun _ _ => show 0 < 2 ^ 32 by decide

theorem exclusivityRecall : ∀ x0, Statement (.exclusivityRecall x0) := fun _ => show 0 < 2 ^ 32 by decide

theorem stashRecall : ∀ x0 x1, Statement (.stashRecall x0 x1) := fun _ _ => show 0 < 2 ^ 32 by decide

theorem sliceAtomic : ∀ x0 x1, Statement (.sliceAtomic x0 x1) := fun _ _ => show 0 < 2 ^ 32 by decide

theorem homeEviction : ∀ x0, Statement (.homeEviction x0) := fun _ => show 0 < 2 ^ 32 by decide

theorem prefetchFillReturn : ∀ x0 x1, Statement (.prefetchFillReturn x0 x1) := fun _ _ => show 0 < 2 ^ 32 by decide

theorem inboundPortWrite : ∀ x0, Statement (.inboundPortWrite x0) := fun _ => show 0 < 2 ^ 32 by decide

theorem preemptionFreeze : ∀ x0 x1, Statement (.preemptionFreeze x0 x1) := fun _ _ => show 0 < 2 ^ 32 by decide

theorem preemptionAck : ∀ x0, Statement (.preemptionAck x0) := fun _ => show 0 < 2 ^ 32 by decide

theorem forwardingEntryArrival : ∀ x0, Statement (.forwardingEntryArrival x0) := fun _ => show 0 < 2 ^ 32 by decide

theorem stopcmdStop : ∀ x0, Statement (.stopcmdStop x0) := fun _ => show 0 < 2 ^ 32 by decide

theorem stopcmdResume : ∀ x0, Statement (.stopcmdResume x0) := fun _ => show 0 < 2 ^ 32 by decide

theorem stopcmdKill : ∀ x0, Statement (.stopcmdKill x0) := fun _ => show 0 < 2 ^ 32 by decide

theorem contextEnable : ∀ x0, Statement (.contextEnable x0) := fun _ => show 0 < 2 ^ 32 by decide

theorem contextDisable : ∀ x0, Statement (.contextDisable x0) := fun _ => show 0 < 2 ^ 32 by decide

theorem contextClosed : ∀ x0, Statement (.contextClosed x0) := fun _ => show 0 < 2 ^ 32 by decide

theorem contextDescriptorWrite : ∀ x0 x1 x2, Statement (.contextDescriptorWrite x0 x1 x2) := fun _ _ _ => show 0 < 2 ^ 32 by decide

theorem faultRingWrite : ∀ x0, Statement (.faultRingWrite x0) := fun _ => show 0 < 2 ^ 32 by decide

theorem hostFackResume : ∀ x0, Statement (.hostFackResume x0) := fun _ => show 0 < 2 ^ 32 by decide

theorem hostFackSkip : ∀ x0, Statement (.hostFackSkip x0) := fun _ => show 0 < 2 ^ 32 by decide

theorem hostFackKill : ∀ x0, Statement (.hostFackKill x0) := fun _ => show 0 < 2 ^ 32 by decide

theorem precmdPreempt : ∀ x0, Statement (.precmdPreempt x0) := fun _ => show 0 < 2 ^ 32 by decide

theorem precmdRetire : ∀ x0, Statement (.precmdRetire x0) := fun _ => show 0 < 2 ^ 32 by decide

theorem machineCheck : ∀ x0, Statement (.machineCheck x0) := fun _ => show 0 < 2 ^ 32 by decide

theorem queueEnable : ∀ x0 x1, Statement (.queueEnable x0 x1) := fun _ _ => show 0 < 2 ^ 32 by decide

theorem queueDisable : ∀ x0, Statement (.queueDisable x0) := fun _ => show 0 < 2 ^ 32 by decide

theorem queueTickWrite : ∀ x0 x1, Statement (.queueTickWrite x0 x1) := fun _ _ => show 0 < 2 ^ 32 by decide

theorem tailLineInvalidation : ∀ x0 x1, Statement (.tailLineInvalidation x0 x1) := fun _ _ => show 0 < 2 ^ 32 by decide

theorem generatorSeedWrite : ∀ x0, Statement (.generatorSeedWrite x0) := fun _ => show 0 < 2 ^ 32 by decide

theorem lotteryDraw : Statement .lotteryDraw := show 0 < 2 ^ 32 by decide

theorem launchAdmission : Statement .launchAdmission := show 0 < 2 ^ 32 by decide

theorem teamPlacement : ∀ x0 x1 x2, Statement (.teamPlacement x0 x1 x2) := fun _ _ _ => show 0 < 2 ^ 32 by decide

theorem teamForward : ∀ x0 x1 x2, Statement (.teamForward x0 x1 x2) := fun _ _ _ => show 0 < 2 ^ 32 by decide

theorem teamArrival : ∀ x0, Statement (.teamArrival x0) := fun _ => show 0 < 2 ^ 32 by decide

theorem placementRegisterWrite : ∀ x0, Statement (.placementRegisterWrite x0) := fun _ => show 0 < 2 ^ 32 by decide

theorem kernelSink : ∀ x0, Statement (.kernelSink x0) := fun _ => show 0 < 2 ^ 32 by decide

theorem kernelComplete : ∀ x0, Statement (.kernelComplete x0) := fun _ => show 0 < 2 ^ 32 by decide

theorem kernelAbort : ∀ x0 x1, Statement (.kernelAbort x0 x1) := fun _ _ => show 0 < 2 ^ 32 by decide

theorem linkTrainingSuccess : ∀ x0 x1, Statement (.linkTrainingSuccess x0 x1) := fun _ _ => show 0 < 2 ^ 32 by decide

theorem linkTrainingFailure : ∀ x0, Statement (.linkTrainingFailure x0) := fun _ => show 0 < 2 ^ 32 by decide

theorem flitCrcReplay : ∀ x0, Statement (.flitCrcReplay x0) := fun _ => show 0 < 2 ^ 32 by decide

theorem linkDown : ∀ x0, Statement (.linkDown x0) := fun _ => show 0 < 2 ^ 32 by decide

theorem linkRetrainCmd : ∀ x0, Statement (.linkRetrainCmd x0) := fun _ => show 0 < 2 ^ 32 by decide

theorem tableSetInstall : ∀ x0, Statement (.tableSetInstall x0) := fun _ => show 0 < 2 ^ 32 by decide

theorem messageForward : ∀ x0, Statement (.messageForward x0) := fun _ => show 0 < 2 ^ 32 by decide

theorem podRequestReceive : ∀ x0, Statement (.podRequestReceive x0) := fun _ => show 0 < 2 ^ 32 by decide

theorem cxlMemWindowWrite : ∀ x0, Statement (.cxlMemWindowWrite x0) := fun _ => show 0 < 2 ^ 32 by decide

theorem hostWindowWrite : ∀ x0 x1, Statement (.hostWindowWrite x0 x1) := fun _ _ => show 0 < 2 ^ 32 by decide

theorem hostWindowRead : ∀ x0 x1, Statement (.hostWindowRead x0 x1) := fun _ _ => show 0 < 2 ^ 32 by decide

theorem clockMeasurement : ∀ x0 x1 x2, Statement (.clockMeasurement x0 x1 x2) := fun _ _ _ => show 0 < 2 ^ 32 by decide

theorem dieReset : ∀ x0, Statement (.dieReset x0) := fun _ => show 0 < 2 ^ 32 by decide

theorem dieResetEnd : ∀ x0, Statement (.dieResetEnd x0) := fun _ => show 0 < 2 ^ 32 by decide

theorem dieTrainingDone : ∀ x0, Statement (.dieTrainingDone x0) := fun _ => show 0 < 2 ^ 32 by decide

theorem dieFull : ∀ x0, Statement (.dieFull x0) := fun _ => show 0 < 2 ^ 32 by decide

theorem powerCapThrottle : ∀ x0 x1, Statement (.powerCapThrottle x0 x1) := fun _ _ => show 0 < 2 ^ 32 by decide

theorem correctedError : ∀ x0, Statement (.correctedError x0) := fun _ => show 0 < 2 ^ 32 by decide

theorem firmwareLoad : ∀ x0, Statement (.firmwareLoad x0) := fun _ => show 0 < 2 ^ 32 by decide

theorem attestationReport : ∀ x0, Statement (.attestationReport x0) := fun _ => show 0 < 2 ^ 32 by decide

theorem trcctlWrite : ∀ x0, Statement (.trcctlWrite x0) := fun _ => show 0 < 2 ^ 32 by decide

theorem ringselWrite : ∀ x0, Statement (.ringselWrite x0) := fun _ => show 0 < 2 ^ 32 by decide

theorem configRegisterWrite : ∀ x0 x1, Statement (.configRegisterWrite x0 x1) := fun _ _ => show 0 < 2 ^ 32 by decide

theorem powerOn : Statement .powerOn := show 0 < 2 ^ 32 by decide

theorem spareRemap : ∀ x0, Statement (.spareRemap x0) := fun _ => show 0 < 2 ^ 32 by decide

theorem preemptionStreamFailure : ∀ x0 x1, Statement (.preemptionStreamFailure x0 x1) := fun _ _ => show 0 < 2 ^ 32 by decide

theorem firmwareReloadDone : Statement .firmwareReloadDone := show 0 < 2 ^ 32 by decide

theorem attestationReportDone : Statement .attestationReportDone := show 0 < 2 ^ 32 by decide

theorem hostRelocationDone : ∀ x0 x1, Statement (.hostRelocationDone x0 x1) := fun _ _ => show 0 < 2 ^ 32 by decide

theorem powerCapRelease : ∀ x0 x1, Statement (.powerCapRelease x0 x1) := fun _ _ => show 0 < 2 ^ 32 by decide

end Sys2Proof.Laws.Encoding
end

