-- ==== Sys2Proof/Tests/Slice0.lean ====
section
/-!
SUPPORT. The tests of this model: ill-formed terms that the checks refuse, words of the manual and of its tables that decode,
and for every statement with hypotheses a state that meets them. Expected values are the manual's or are worked out by hand.
-/

section

set_option Elab.async false

open Sys2Proof Sys2Proof.Machine Sys2Proof.Claims

/-! ### Helpers: small states -/

namespace Sys2Proof.Tests

/-- The next state, or the state itself where there is none. -/
def after (i : Instr) (s : State) : State :=
  match exec i s with
  | .next u => u
  | .fault _ => s
  | .refused _ => s

/-- General registers from a list of numbers and values. -/
def gRegs (l : List (Nat × Nat)) : Vector Word 32 :=
  Vector.ofFn fun i => BitVec.ofNat 64 (match l.find? fun e => e.1 == i.val with
    | some e => e.2
    | none => 0)

/-- Little-endian values at addresses: address, bytes, value. -/
def bytes (l : List (Nat × Nat × Nat)) : Memory := l.foldl (fun m e => mwrite m e.1 e.2.1 e.2.2) []

/-- A thread in rotation at 1 MiB with general registers. -/
def thread (g : List (Nat × Nat)) : Thread :=
  { st := .inRot, slot := 0, regs := { pc := 0x100000, g := gRegs g } }

/-- Every edge of the panel, UALink port 0 and the CXL port are UP. -/
def allUp : Tab Link := ((List.range 577) ++ [640]).map fun n => (n, { st := .up, lanes := 4 })

/-- Thread 0 of core 0 in hand, on a die at full service. -/
def st (th : Thread) (c : Core := {}) : State :=
  { cores := [(0, { c with threads := [(0, th)] })], dies := [(0, { st := .full, clk := 3 })], links := allUp }

/-- The same for a Setter core's thread. -/
def fw (th : Thread) (c : Core := {}) : State :=
  { cores := [(19584, { c with threads := [(0, { th with slot := 256 })], ctx := 64 })], dies := [(0, { st := .full, clk := 3 })],
    cur := ⟨19584, 0, 0⟩ }

/-- A page of the ORD class at 1 MiB, mapped to physical 1 MiB with all permissions. -/
def page : Tlb := placedTlb

/-- The line and offset of physical 1 MiB. -/
def line : Nat := (ordPlace 0x100000).1

/-- A message that has arrived, as a check. -/
theorem reaches_of {s : State} {k : Nat} {src dst : Endp} {b : Body}
    (h : ((s.arrived k).any fun m => m.src == src && m.dst == dst && m.body == b) = true) : reaches s k src dst b := by
  unfold reaches
  cases hm : s.arrived k with
  | none => simp [hm] at h
  | some m => simp [hm] at h; exact ⟨m, rfl, h.1.1, h.1.2, h.2⟩

end Sys2Proof.Tests

open Sys2Proof.Tests

/-! ### Words written out from the encoding tables -/

/-- The words of R68 and R70 for these opcodes, written from the opcode table's fields. -/
theorem test_decode_alu_registers :
    decodeWord 0x07AE9800 = some (.add 29 14 19) ∧
    decodeWord 0x07AE9801 = some (.sub 29 14 19) ∧
    decodeWord 0x07AE9802 = some (.and 29 14 19) ∧
    decodeWord 0x07AE9803 = some (.or 29 14 19) ∧
    decodeWord 0x07AE9804 = some (.xor 29 14 19) ∧
    decodeWord 0x07AE9805 = some (.andn 29 14 19) ∧
    decodeWord 0x07AE9808 = some (.sll 29 14 19) ∧
    decodeWord 0x07AE9809 = some (.srl 29 14 19) ∧
    decodeWord 0x07AE980A = some (.sra 29 14 19) ∧
    decodeWord 0x07AE9810 = some (.mul 29 14 19) ∧
    decodeWord 0x07AE9811 = some (.mulh 29 14 19) ∧
    decodeWord 0x07AE9812 = some (.mulhn 29 14 19) ∧
    decodeWord 0x07AE9814 = some (.div 29 14 19) ∧
    decodeWord 0x07AE9815 = some (.divn 29 14 19) ∧
    decodeWord 0x07AE9816 = some (.rem 29 14 19) ∧
    decodeWord 0x07AE9817 = some (.remn 29 14 19) ∧
    decodeWord 0x07AE9818 = some (.slt 29 14 19) ∧
    decodeWord 0x07AE9819 = some (.sltn 29 14 19) ∧
    decodeWord 0x07AE981C = some (.min 29 14 19) ∧
    decodeWord 0x07AE981D = some (.max 29 14 19) ∧
    decodeWord 0x07AE981E = some (.minn 29 14 19) ∧
    decodeWord 0x07AE981F = some (.maxn 29 14 19) ∧
    decodeWord 0x07AE0020 = some (.clz 29 14) ∧
    decodeWord 0x07AE0021 = some (.ctz 29 14) ∧
    decodeWord 0x07AE0022 = some (.popc 29 14) ∧
    decodeWord 0x07AE0028 = some (.extI8 29 14) ∧
    decodeWord 0x07AE0029 = some (.extN8 29 14) ∧
    decodeWord 0x07AE002A = some (.extI16 29 14) ∧
    decodeWord 0x07AE002B = some (.extN16 29 14) ∧
    decodeWord 0x07AE002C = some (.extI32 29 14) ∧
    decodeWord 0x07AE002D = some (.extN32 29 14) := by decide

/-- The words of R68 and R70 for these opcodes, written from the opcode table's fields. -/
theorem test_decode_immediates :
    decodeWord 0x0BAEFFFD = some (.addi 29 14 (-3)) ∧
    decodeWord 0x0FAEFFFD = some (.andi 29 14 (-3)) ∧
    decodeWord 0x13AEFFFD = some (.ori 29 14 (-3)) ∧
    decodeWord 0x17AEFFFD = some (.xori 29 14 (-3)) ∧
    decodeWord 0x1BAE0025 = some (.slli 29 14 37) ∧
    decodeWord 0x1BAE0065 = some (.srli 29 14 37) ∧
    decodeWord 0x1BAE00A5 = some (.srai 29 14 37) ∧
    decodeWord 0x1FAEFFFD = some (.slti 29 14 (-3)) ∧
    decodeWord 0x23AEFFFD = some (.sltni 29 14 (-3)) ∧
    decodeWord 0x27A0FFFD = some (.lui 29 (-3)) ∧
    decodeWord 0x2BA0FFFD = some (.addpc 29 (-3)) := by decide

/-- The words of R68 and R70 for these opcodes, written from the opcode table's fields. -/
theorem test_decode_control :
    decodeWord 0x2D0E9803 = some (.skipReg .ltn 14 19 3) ∧
    decodeWord 0x2D2EFFF7 = some (.skipImm .ltn 14 (-3) 3) ∧
    decodeWord 0x310EFFF9 = some (.br .ltn 14 (-7)) ∧
    decodeWord 0x37FFFFF9 = some (.j (-7)) ∧
    decodeWord 0x3BFFFFF9 = some (.call (-7)) ∧
    decodeWord 0x3C0E0000 = some (.jr 14) ∧
    decodeWord 0x3FAE0001 = some (.callr 29 14) := by decide

/-- The words of R68 and R70 for these opcodes, written from the opcode table's fields. -/
theorem test_decode_memory :
    decodeWord 0x43AE5FFD = some (.ld 29 14 .i16 (-3)) ∧
    decodeWord 0x47AE5FFD = some (.st 29 14 .i16 (-3)) ∧
    decodeWord 0x4BAE9860 = some (.atomSwap 29 14 19 .w64) ∧
    decodeWord 0x4BAE98E0 = some (.atomAdd 29 14 19 .w64) ∧
    decodeWord 0x4BAE9960 = some (.atomAnd 29 14 19 .w64) ∧
    decodeWord 0x4BAE99E0 = some (.atomOr 29 14 19 .w64) ∧
    decodeWord 0x4BAE9A60 = some (.atomXor 29 14 19 .w64) ∧
    decodeWord 0x4BAE9AF0 = some (.atomMax 29 14 19 .w64 true) ∧
    decodeWord 0x4BAE9B70 = some (.atomMin 29 14 19 .w64 true) ∧
    decodeWord 0x4BAE9BE0 = some (.atomCas 29 14 19 .w64) ∧
    decodeWord 0x4C0E0000 = some (.pinL 14) ∧
    decodeWord 0x4C0E0001 = some (.unpinL 14) ∧
    decodeWord 0x4C0E0002 = some (.flush 14) ∧
    decodeWord 0x4C0E0003 = some (.inval 14) ∧
    decodeWord 0x4C0E0004 = some (.pref 14) := by decide

/-- The words of R68 and R70 for these opcodes, written from the opcode table's fields. -/
theorem test_decode_system :
    decodeWord 0x53A0017F = some (.crr 29 0x17F) ∧
    decodeWord 0x500E117F = some (.crw 14 0x17F) ∧
    decodeWord 0x53AE217F = some (.crs 29 14 0x17F) ∧
    decodeWord 0x53AE317F = some (.crc 29 14 0x17F) ∧
    decodeWord 0x54000000 = some .nop ∧
    decodeWord 0x540001A5 = some (.trap 0xA5) ∧
    decodeWord 0x54000200 = some .eret ∧
    decodeWord 0x54000300 = some .halt ∧
    decodeWord 0x54000400 = some .yield ∧
    decodeWord 0x540005A5 = some (.brk 0xA5) ∧
    decodeWord 0x540E0600 = some (.fackResume 14) ∧
    decodeWord 0x540E0601 = some (.fackSkip 14) ∧
    decodeWord 0x540E0602 = some (.fackKill 14) := by decide

/-- The words of R68 and R70 for these opcodes, written from the opcode table's fields. -/
theorem test_decode_vector_arithmetic :
    decodeWord 0x5BAE9AA0 = some (.vadd 29 14 19 2 .n32) ∧
    decodeWord 0x5BAE9AA1 = some (.vsub 29 14 19 2 .n32) ∧
    decodeWord 0x5BAE9AA2 = some (.vmul 29 14 19 2 .n32) ∧
    decodeWord 0x5BAE9AA3 = some (.vmin 29 14 19 2 .n32) ∧
    decodeWord 0x5BAE9AA4 = some (.vmax 29 14 19 2 .n32) ∧
    decodeWord 0x5BAE9AA5 = some (.vclamp 29 14 19 2 .n32) ∧
    decodeWord 0x5BAE0186 = some (.vabs 29 14 2 .i16) ∧
    decodeWord 0x5BAE0487 = some (.vneg 29 14 2 .f16) ∧
    decodeWord 0x5BAE99A8 = some (.vand 29 14 19 2 .n16) ∧
    decodeWord 0x5BAE99A9 = some (.vor 29 14 19 2 .n16) ∧
    decodeWord 0x5BAE99AA = some (.vxor 29 14 19 2 .n16) ∧
    decodeWord 0x5BAE99AB = some (.vsll 29 14 19 2 .n16) ∧
    decodeWord 0x5BAE99AC = some (.vsrl 29 14 19 2 .n16) ∧
    decodeWord 0x5BAE9B8D = some (.vsra 29 14 19 2 .i64) ∧
    decodeWord 0x5BAE058E = some (.vrcp 29 14 2 .bf16) ∧
    decodeWord 0x5BAE058F = some (.vrsq 29 14 2 .bf16) ∧
    decodeWord 0x5BAE0590 = some (.vsqrt 29 14 2 .bf16) ∧
    decodeWord 0x5BAE0591 = some (.vexp2 29 14 2 .bf16) ∧
    decodeWord 0x5BAE0592 = some (.vlog2 29 14 2 .bf16) ∧
    decodeWord 0x5BAE9AB3 = some (.vdiv 29 14 19 2 .n32) ∧
    decodeWord 0x5BAE99B4 = some (.vadds 29 14 19 2 .n16) ∧
    decodeWord 0x5BAE99B5 = some (.vsubs 29 14 19 2 .n16) ∧
    decodeWord 0x5FAE9AA0 = some (.vfma 29 14 19 2 .n32) ∧
    decodeWord 0x5FAE9C81 = some (.vfms 29 14 19 2 .f16) ∧
    decodeWord 0x5FAE9AA2 = some (.vnfma 29 14 19 2 .n32) := by decide

/-- The words of R68 and R70 for these opcodes, written from the opcode table's fields. -/
theorem test_decode_vector_masks :
    decodeWord 0x606E9AA0 = some (.vcmpEq 3 14 19 2 .n32) ∧
    decodeWord 0x606E9AA1 = some (.vcmpNe 3 14 19 2 .n32) ∧
    decodeWord 0x606E9AA2 = some (.vcmpLt 3 14 19 2 .n32) ∧
    decodeWord 0x606E9AA3 = some (.vcmpGe 3 14 19 2 .n32) ∧
    decodeWord 0x606E9AA4 = some (.vcmpLe 3 14 19 2 .n32) ∧
    decodeWord 0x606E9AA5 = some (.vcmpGt 3 14 19 2 .n32) ∧
    decodeWord 0x63AE9FA8 = some (.vsel 29 14 19 2 .e5m2) ∧
    decodeWord 0x60620809 = some (.mand 3 2 1) ∧
    decodeWord 0x6062080A = some (.mor 3 2 1) ∧
    decodeWord 0x6062080B = some (.mxor 3 2 1) ∧
    decodeWord 0x6062000C = some (.mnot 3 2) ∧
    decodeWord 0x67AE9FA0 = some (.vperm 29 14 19 2 .e5m2) ∧
    decodeWord 0x67AE9AA1 = some (.vslup 29 14 19 2 .n32) ∧
    decodeWord 0x67AE9AA2 = some (.vsldn 29 14 19 2 .n32) ∧
    decodeWord 0x67AE9AA3 = some (.vzip 29 14 19 2 .n32) ∧
    decodeWord 0x67AE9AA4 = some (.vunzip 29 14 19 2 .n32) ∧
    decodeWord 0x67AE02A5 = some (.vrev 29 14 2 .n32) := by decide

/-- The words of R68 and R70 for these opcodes, written from the opcode table's fields. -/
theorem test_decode_vector_conversions :
    decodeWord 0x6BAE37A0 = some (.vcvt 29 14 2 .e5m2 .n16 false) ∧
    decodeWord 0x6BAE9E81 = some (.vpack4F32 29 14 19 2) ∧
    decodeWord 0x6BAE0581 = some (.vpack4Half 29 14 2 true) ∧
    decodeWord 0x6BAE8582 = some (.vunpack4Half 29 14 2 true 2) ∧
    decodeWord 0x6BAE8E82 = some (.vunpack4F32 29 14 2 2 true) ∧
    decodeWord 0x6FAE02A0 = some (.vrsum 29 14 2 .n32) ∧
    decodeWord 0x6FAE02A1 = some (.vrmax 29 14 2 .n32) ∧
    decodeWord 0x6FAE02A2 = some (.vrmin 29 14 2 .n32) ∧
    decodeWord 0x6FAE01A3 = some (.vrand 29 14 2 .n16) ∧
    decodeWord 0x6FAE01A4 = some (.vror 29 14 2 .n16) ∧
    decodeWord 0x6FAE01A5 = some (.vrxor 29 14 2 .n16) := by decide

/-- The words of R68 and R70 for these opcodes, written from the opcode table's fields. -/
theorem test_decode_vector_memory :
    decodeWord 0x73AE07A0 = some (.vld 29 14 2 .e5m2) ∧
    decodeWord 0x73AE9AA1 = some (.vlds 29 14 19 2 .n32) ∧
    decodeWord 0x73AE9AA2 = some (.vldx 29 14 19 2 .n32) ∧
    decodeWord 0x77AE02A0 = some (.vst 29 14 2 .n32) ∧
    decodeWord 0x77AE9AA1 = some (.vsts 29 14 19 2 .n32) ∧
    decodeWord 0x77AE9FA2 = some (.vstx 29 14 19 2 .e5m2) ∧
    decodeWord 0x7BAE02A0 = some (.vsplat 29 14 2 .n32) ∧
    decodeWord 0x7BAE9A21 = some (.vins 29 14 19 .n32) ∧
    decodeWord 0x7BAE9F22 = some (.vext 29 14 19 .e5m2) ∧
    decodeWord 0x7BA20003 = some (.mgetg 29 2) ∧
    decodeWord 0x786E0004 = some (.msetg 3 14) := by decide

/-- The words of R68 and R70 for these opcodes, written from the opcode table's fields. -/
theorem test_decode_events :
    decodeWord 0x83AE0004 = some (.sync 29 14 4) ∧
    decodeWord 0x840E0000 = some (.barw 14) ∧
    decodeWord 0x87AE0001 = some (.barq 29 14) ∧
    decodeWord 0x840E0002 = some (.barset 14) ∧
    decodeWord 0x8BAE9800 = some (.evname 29 14 19) ∧
    decodeWord 0x8BAE0001 = some (.evinfo 29 14) := by decide

/-- The words of R68 and R70 for these opcodes, written from the opcode table's fields. -/
theorem test_decode_matrix :
    decodeWord 0x902E9845 = some (.mma 1 14 19 4 5) ∧
    decodeWord 0x940E0000 = some (.mgeo 14) ∧
    decodeWord 0x94200001 = some (.mzero 1) ∧
    decodeWord 0x942E0002 = some (.msave 1 14) ∧
    decodeWord 0x942E0003 = some (.mrest 1 14) ∧
    decodeWord 0x996E0000 = some (.dload 11 14) ∧
    decodeWord 0x980E9801 = some (.dloadT 14 19) ∧
    decodeWord 0x996E0002 = some (.dbind 11 14) := by decide

/-- The words of R68 and R70 for these opcodes, written from the opcode table's fields. -/
theorem test_decode_copies_and_heap :
    decodeWord 0xA3AE0000 = some (.cpy 29 14) ∧
    decodeWord 0xA3AE0001 = some (.gath 29 14) ∧
    decodeWord 0xA3AE0002 = some (.scat 29 14) ∧
    decodeWord 0xA3AE0003 = some (.fill 29 14) ∧
    decodeWord 0xA00E0400 = some (.cpyEv 14) ∧
    decodeWord 0xA00E0401 = some (.gathEv 14) ∧
    decodeWord 0xA00E0402 = some (.scatEv 14) ∧
    decodeWord 0xA00E0403 = some (.fillEv 14) ∧
    decodeWord 0xABA64409 = some (.hld 29 6 .i16 0x409) ∧
    decodeWord 0xABA64C09 = some (.hst 29 6 .i16 0x409) ∧
    decodeWord 0xA8A6D409 = some (.hldr 5 6 0x409) ∧
    decodeWord 0xA8A6DC09 = some (.hstr 5 6 0x409) ∧
    decodeWord 0xACAE9800 = some (.hnew 5 14 19) ∧
    decodeWord 0xAFA60001 = some (.hpin 29 6) ∧
    decodeWord 0xAC060002 = some (.hunpin 6) ∧
    decodeWord 0xAFA61803 = some (.hcmp 29 6 3) ∧
    decodeWord 0xACA60004 = some (.hmov 5 6) ∧
    decodeWord 0xAFA60005 = some (.htag 29 6) ∧
    decodeWord 0xAFA60006 = some (.hget 29 6) := by decide

/-- The words of R68 and R70 for these opcodes, written from the opcode table's fields. -/
theorem test_decode_groups_and_pages :
    decodeWord 0xB40E9800 = some (.spawn 14 19) ∧
    decodeWord 0xB40E0008 = some (.launch 14) ∧
    decodeWord 0xB4000010 = some .exit ∧
    decodeWord 0xB7A0001C = some (.rank 29 4) ∧
    decodeWord 0xB7A00024 = some (.size 29 4) ∧
    decodeWord 0xB80E0000 = some (.tlbw 14) ∧
    decodeWord 0xB80E0001 = some (.tlbi 14) ∧
    decodeWord 0xBBAE0002 = some (.tlbr 29 14) ∧
    decodeWord 0xB80E0003 = some (.seed 14) ∧
    decodeWord 0xB80E0004 = some (.migr 14) := by decide

/-- The micro-op words of R79 and R216. -/
theorem test_decode_drain :
    decodeDrain 0x00000000 = some .drainNop ∧
    decodeDrain 0x06E60000 = some (.drainAdd 5 6 3) ∧
    decodeDrain 0x0AE60000 = some (.drainSub 5 6 3) ∧
    decodeDrain 0x0EE60000 = some (.drainMul 5 6 3) ∧
    decodeDrain 0x12E70000 = some (.drainFma 5 6 3 4) ∧
    decodeDrain 0x16E60000 = some (.drainMax 5 6 3) ∧
    decodeDrain 0x1AE60000 = some (.drainMin 5 6 3) ∧
    decodeDrain 0x1EE00000 = some (.drainAbs 5 6) ∧
    decodeDrain 0x22E00000 = some (.drainNeg 5 6) ∧
    decodeDrain 0x26E70000 = some (.drainClamp 5 6 3 4) ∧
    decodeDrain 0x2AE00000 = some (.drainRcp 5 6) ∧
    decodeDrain 0x2EE00000 = some (.drainRsq 5 6) ∧
    decodeDrain 0x32E00000 = some (.drainExp2 5 6) ∧
    decodeDrain 0x36E00000 = some (.drainLog2 5 6) ∧
    decodeDrain 0x3AE60004 = some (.drainCmp .le 5 6 3) ∧
    decodeDrain 0x3EE70000 = some (.drainSel 5 6 3 4) ∧
    decodeDrain 0x42E00000 = some (.drainMov 5 6) ∧
    decodeDrain 0x46804049 = some (.drainLdi 5 0x4049) ∧
    decodeDrain 0x4A801024 = some (.drainLdc 5 0x409) ∧
    decodeDrain 0x4E801024 = some (.drainLdr 5 0x409) ∧
    decodeDrain 0x52800003 = some (.drainLds 5 .e4m3) ∧
    decodeDrain 0x60600002 = some (.drainRredSum 2 6) ∧
    decodeDrain 0x64600002 = some (.drainRredMax 2 6) ∧
    decodeDrain 0x6A800002 = some (.drainRget 5 2) ∧
    decodeDrain 0x80600003 = some (.drainSt 6 .e4m3) ∧
    decodeDrain 0x84600002 = some (.drainStq 6 2) ∧
    decodeDrain 0xFC000000 = some .drainEnd := by decide

/-! ### The manual's own words -/

/-- The examples that the rules give beside their instructions, R79 to R311, and R77's table. -/
theorem test_manual_words_scalar_and_vector :
    decodeWord 0x04642800 = some (.add 3 4 5) ∧
    decodeWord 0x04642811 = some (.mulh 3 4 5) ∧
    decodeWord 0x18840083 = some (.srai 4 4 3) ∧
    decodeWord 0x1C64FFFF = some (.slti 3 4 0xffff) ∧
    decodeWord 0x28A0000C = some (.addpc 5 0x000c) ∧
    decodeWord 0x2C030001 = some (.skipReg .eq 3 0 1) ∧
    decodeWord 0x3FE90001 = some (.callr 31 9) ∧
    decodeWord 0x40433FFF = some (.ld 2 3 .n8 0x1fff) ∧
    decodeWord 0x44A68008 = some (.st 5 6 .i32 0x0008) ∧
    decodeWord 0x48A730C0 = some (.atomAdd 5 7 6 .w32) ∧
    decodeWord 0x48A732D0 = some (.atomMax 5 7 6 .w32 true) ∧
    decodeWord 0x48862BE0 = some (.atomCas 4 6 5 .w64) ∧
    decodeWord 0x4C060002 = some (.flush 6) ∧
    decodeWord 0x4C060004 = some (.pref 6) ∧
    decodeWord 0x50071020 = some (.crw 7 0x020) ∧
    decodeWord 0x50A00022 = some (.crr 5 0x022) ∧
    decodeWord 0x54040601 = some (.fackSkip 4) ∧
    decodeWord 0x54000105 = some (.trap 0x05) ∧
    decodeWord 0x58853280 = some (.vadd 4 5 6 2 .i32) ∧
    decodeWord 0x58221834 = some (.vadds 1 2 3 0 .n8) ∧
    decodeWord 0x58220611 = some (.vexp2 1 2 0 .f32) ∧
    decodeWord 0x5C221E40 = some (.vfma 1 2 3 1 .f32) ∧
    decodeWord 0x5C853502 = some (.vnfma 4 5 6 0 .bf16) ∧
    decodeWord 0x60221E02 = some (.vcmpLt 1 2 3 0 .f32) ∧
    decodeWord 0x60853648 = some (.vsel 4 5 6 1 .f32) ∧
    decodeWord 0x60221809 = some (.mand 1 2 3) ∧
    decodeWord 0x64853601 = some (.vslup 4 5 6 0 .f32) ∧
    decodeWord 0x64221800 = some (.vperm 1 2 3 0 .i8) ∧
    decodeWord 0x6843A600 = some (.vcvt 2 3 0 .f32 .bf16 false) ∧
    decodeWord 0x68A6C800 = some (.vcvt 5 6 0 .i8 .f32 true) ∧
    decodeWord 0x68E84E01 = some (.vpack4F32 7 8 9 0) ∧
    decodeWord 0x68624502 = some (.vunpack4Half 3 2 0 true 1) ∧
    decodeWord 0x6CA20600 = some (.vrsum 5 2 0 .f32) ∧
    decodeWord 0x6C640161 = some (.vrmax 3 4 1 .n16) ∧
    decodeWord 0x70660600 = some (.vld 3 6 0 .f32) ∧
    decodeWord 0x70221901 = some (.vlds 1 2 3 0 .i16) ∧
    decodeWord 0x748532C2 = some (.vstx 4 5 6 3 .i32) ∧
    decodeWord 0x78400600 = some (.vsplat 2 0 0 .f32) ∧
    decodeWord 0x78E53001 = some (.vins 7 5 6 .i8) ∧
    decodeWord 0x78853202 = some (.vext 4 5 6 .i32) ∧
    decodeWord 0x78450004 = some (.msetg 2 5) ∧
    decodeWord 0x80640002 = some (.sync 3 4 2) := by decide

/-- The same, of the later sections. -/
theorem test_manual_words_the_rest :
    decodeWord 0x88A63800 = some (.evname 5 6 7) ∧
    decodeWord 0x88850001 = some (.evinfo 4 5) ∧
    decodeWord 0x84050000 = some (.barw 5) ∧
    decodeWord 0x84650001 = some (.barq 3 5) ∧
    decodeWord 0x84060002 = some (.barset 6) ∧
    decodeWord 0x90242822 = some (.mma 1 4 5 2 2) ∧
    decodeWord 0x90021810 = some (.mma 0 2 3 1 0) ∧
    decodeWord 0x900030FF = some (.mma 0 0 6 15 15) ∧
    decodeWord 0x94070000 = some (.mgeo 7) ∧
    decodeWord 0x94200001 = some (.mzero 1) ∧
    decodeWord 0x94080002 = some (.msave 0 8) ∧
    decodeWord 0x94280003 = some (.mrest 1 8) ∧
    decodeWord 0x98650000 = some (.dload 3 5) ∧
    decodeWord 0x98680002 = some (.dbind 3 8) ∧
    decodeWord 0x98063801 = some (.dloadT 6 7) ∧
    decodeWord 0xA0A60000 = some (.cpy 5 6) ∧
    decodeWord 0xA0E80001 = some (.gath 7 8) ∧
    decodeWord 0xA12A0002 = some (.scat 9 10) ∧
    decodeWord 0xA0640003 = some (.fill 3 4) ∧
    decodeWord 0xA0060400 = some (.cpyEv 6) ∧
    decodeWord 0xA8A3C010 = some (.hld 5 3 .d64 0x010) ∧
    decodeWord 0xA8C28818 = some (.hst 6 2 .i32 0x018) ∧
    decodeWord 0xA820D000 = some (.hldr 1 0 0x000) ∧
    decodeWord 0xA881D010 = some (.hldr 4 1 0x010) ∧
    decodeWord 0xA881D810 = some (.hstr 4 1 0x010) ∧
    decodeWord 0xAC453000 = some (.hnew 2 5 6) ∧
    decodeWord 0xACE20001 = some (.hpin 7 2) ∧
    decodeWord 0xAC020002 = some (.hunpin 2) ∧
    decodeWord 0xACA11003 = some (.hcmp 5 1 2) ∧
    decodeWord 0xAC610004 = some (.hmov 3 1) ∧
    decodeWord 0xAD220005 = some (.htag 9 2) ∧
    decodeWord 0xAC810006 = some (.hget 4 1) ∧
    decodeWord 0xB4053000 = some (.spawn 5 6) ∧
    decodeWord 0x3C1F0000 = some (.jr 31) ∧
    decodeWord 0x54000000 = some (.nop) ∧
    decodeWord 0x40A68010 = some (.ld 5 6 .i32 16) ∧
    decodeWord 0x2C832002 = some (.skipReg .lt 3 4 2) ∧
    decodeWord 0x2DE30193 = some (.skipImm .gt 3 100 3) ∧
    decodeWord 0x3047FFFC = some (.br .ne 7 (-4)) ∧
    decodeWord 0x30870005 = some (.br .lt 7 5) ∧
    decodeWord 0x08A6FFFD = some (.addi 5 6 (-3)) := by decide

/-- Words that the manual calls illegal (R71). -/
theorem test_illegal_words :
    decodeWord 0 = none ∧ decodeWord 0xFFFFFFFF = none ∧ decodeWord 0x2C030000 = none ∧ decodeWord 0x80640000 = none ∧
      decodeWord 0x80640005 = none := by decide

/-- R77's drain micro-op. -/
theorem test_drain_word : decodeDrain 0x04840000 = some (.drainAdd 1 0 2) := by decide

/-! ### Ill-formed terms -/

theorem test_wf_refuses :
    ([.skipReg .eq 1 2 0, .skipImm .eq 1 2 0, .br .bs 1 2, .st 1 2 .n8 0, .hst 1 2 .n32 0, .crr 1 5, .crw 1 0x17, .crs 1 1 0xFFF,
      .crc 1 1 0x23, .sync 1 2 0, .sync 1 2 5, .mma 0 1 2 15 0, .mma 0 1 2 2 3, .vadd 1 2 3 0 .e4m3, .vcmpLt 1 2 3 0 .e5m2,
      .vrsum 1 2 0 .e4m3, .vadds 1 2 3 0 .f32, .vrand 1 2 0 .f16, .vsra 1 2 3 0 .n32, .vabs 1 2 0 .n8, .vrcp 1 2 0 .i32,
      .vcvt 1 2 0 .f32 .i32 true, .vunpack4Half 1 2 0 true 3, .vunpack4F32 1 2 0 3 true] : List Instr).all (fun i => !i.wf) = true ∧
    ([.skipReg .eq 1 2 1, .br .ne 1 2, .st 1 2 .i8 0, .crr 1 0x17F, .sync 1 2 4, .mma 0 1 2 4 5, .vcvt 1 2 0 .i32 .f32 true,
      .vunpack4Half 1 2 0 true 2, .vsra 1 2 3 0 .i32] : List Instr).all Instr.wf = true := by decide

/-! ### Scalar instructions -/

theorem test_alu : let s := st (thread [(4, 7), (5, 2 ^ 64 - 3)])
    plain s [4, 5] [3] = true ∧ (after (.add 3 4 5) s).gr 3 = 4 ∧ (after (.sub 3 4 5) s).gr 3 = 10 ∧
      (after (.mulhn 3 4 5) s).gr 3 = 6 ∧ (after (.div 3 4 5) s).gr 3 = BitVec.ofInt 64 (-2) ∧ (after (.slt 3 4 5) s).gr 3 = 0 := by
  decide +kernel

theorem test_alu_g0 : let s := st (thread [(4, 7)])
    plain s [4, 4] [0] = true ∧ after (.add 0 4 4) s = on s := by decide +kernel

theorem test_unary : let s := st (thread [(4, 0x80)])
    plain s [4] [3] = true ∧ (after (.extI8 3 4) s).gr 3 = BitVec.ofInt 64 (-128) ∧ (after (.clz 3 4) s).gr 3 = 56 ∧
      (after (.ctz 3 4) s).gr 3 = 7 ∧ (after (.popc 3 4) s).gr 3 = 1 ∧ (after (.clz 3 0) s).gr 3 = 64 := by decide +kernel

-- R95: `addpc g5, 12` at PC gives PC + 52; `lui g5, 0x1235` then `addi g5, g5, -30875` give 0x12348765
theorem test_immediates : let s := st (thread [(5, 0x12350000)])
    plain s [5] [5] = true ∧ (after (.addi 5 5 (-30875)) s).gr 5 = 0x12348765 ∧ (after (.lui 5 0x1235) s).gr 5 = 0x12350000 ∧
      (after (.addpc 5 12) s).gr 5 = 0x100034 ∧ (after (.andi 5 5 (-1)) s).gr 5 = 0x12350000 := by decide +kernel

theorem test_skip : let s := st (thread [(4, 2 ^ 64 - 1)])
    plain s [4, 0] [] = true ∧ condMeans .lt (s.gr 4) (s.gr 0) ∧ ¬ condMeans .ltn (s.gr 4) (s.gr 0) ∧
      (after (.skipReg .lt 4 0 3) s).me.regs.pc = 0x100010 ∧ (after (.skipReg .lt 4 0 3) s).me.ann = 3 ∧
      (after (.skipReg .ltn 4 0 3) s).me.regs.pc = 0x100004 := by
  refine ⟨by decide, by unfold condMeans; decide, by unfold condMeans; decide, by decide +kernel⟩

theorem test_branch : let s := st (thread [(4, 0)])
    plain s [4] [] = true ∧ condMeans .eq (s.gr 4) 0 ∧ ¬ condMeans .ne (s.gr 4) 0 ∧
      (after (.br .eq 4 (-1)) s).me.regs.pc = 0x100000 ∧ (after (.br .ne 4 (-1)) s).me.regs.pc = 0x100004 ∧
      plain s [] [31] = true ∧ (after (.call 1) s).gr 31 = 0x100004 ∧ (after (.call 1) s).me.regs.pc = 0x100008 := by
  refine ⟨by decide, by unfold condMeans; decide, by unfold condMeans; decide, by decide +kernel⟩

theorem test_jump : let s := st (thread [(4, 0x200000), (6, 2), (7, 2 ^ 56)])
    plain s [4] [4] = true ∧ (s.gr 4).toNat % 4 = 0 ∧ (after (.callr 4 4) s).me.regs.pc = 0x200000 ∧
      (after (.callr 4 4) s).gr 4 = 0x100004 ∧ (s.gr 6).toNat % 4 ≠ 0 ∧ (after (.jr 6) s).me.latch.trap = 2 ∧
      (after (.jr 7) s).me.noAddr = true := by decide +kernel

theorem test_load_direct : let s := st (thread [(4, 0x7FFF8)]) { direct := bytes [(0x7FFFF, 1, 0xF0)] }
    plain s [4] [3] = true ∧ inDirect s (s.gr 4 + (7 : BitVec 13).signExtend 64) 1 = true ∧
      (after (.ld 3 4 .i8 7) s).gr 3 = BitVec.ofInt 64 (-16) ∧ (s.gr 4 + (1 : BitVec 13).signExtend 64).toNat % 8 ≠ 0 ∧
      (after (.ld 3 4 .d64 1) s).me.latch.trap = 2 := by decide +kernel

theorem test_load_wait : let s := st (thread [(4, 0x100000)]) { ca := { tlb := [page] } }
    plain s [4] [3] = true ∧ onLine s ⟨true, false, fun c => c ≤ 5⟩ (s.gr 4 + (8 : BitVec 13).signExtend 64) 8 line 8 0x100008 ∧
      (after (.ld 3 4 .d64 8) s).me.st = .wait := by
  refine ⟨by decide, ⟨by decide, by decide, by decide, page, by decide +kernel⟩, by decide +kernel⟩

theorem test_store_direct : let s := st (thread [(4, 0x40), (5, 0x1122334455667788)])
    plain s [4, 5] [] = true ∧ Memory.wf s.myCore.direct = true ∧ inDirect s (s.gr 4 + (0 : BitVec 13).signExtend 64) 4 = true ∧
      mread (after (.st 5 4 .i32 0) s).myCore.direct 0x40 8 = 0x55667788 ∧
      (s.gr 4 + (2 : BitVec 13).signExtend 64).toNat % 4 ≠ 0 ∧ (after (.st 5 4 .i32 2) s).me.latch.trap = 2 := by
  decide +kernel

theorem test_store_posted : let s := st (thread [(4, 0x100000), (5, 9)]) { ca := { tlb := [page] } }
    plain s [4, 5] [] = true ∧ onLine s ⟨false, true, fun c => c ≤ 5⟩ (s.gr 4 + (0 : BitVec 13).signExtend 64) 8 line 0 0x100000 ∧
      (tget {} s.myCore.journal 0).busy = false ∧ (tget {} (after (.st 5 4 .d64 0) s).myCore.journal 0).busy = true := by
  refine ⟨by decide, ⟨by decide, by decide, by decide, page, by decide +kernel⟩, by decide +kernel⟩

/-- Sixteen busy journal entries. -/
def fullJournal : Tab JEntry := (List.range 16).map fun i => (i, { busy := true, thr := 1 })

theorem test_store_journal_full : let s := st (thread [(4, 0x100000), (5, 9)]) { ca := { tlb := [page] }, journal := fullJournal }
    (∀ j < 16, (tget {} s.myCore.journal j).busy = true) ∧ after (.st 5 4 .d64 0) s = held s .journal := by decide +kernel

theorem test_atomic : let s := st (thread [(4, 0x40), (5, 3), (6, 8)]) { direct := bytes [(0x40, 4, 8)] }
    plain s [4, 5, 6] [6] = true ∧ inDirect s (s.gr 4) 4 = true ∧
      mread (after (.atomCas 6 4 5 .w32) s).myCore.direct 0x40 4 = 3 ∧ mread (after (.atomAdd 6 4 5 .w32) s).myCore.direct 0x40 4 = 11 ∧
      (after (.atomMax 7 4 5 .w32 true) s).gr 7 = 8 ∧ (s.gr 5).toNat % 4 ≠ 0 ∧ (after (.atomSwap 7 5 5 .w32) s).me.latch.trap = 2 := by
  decide +kernel

theorem test_cache_operations : let s := st (thread [(4, 0x100000), (5, 0x40)]) { dirG := 8, ca := { tlb := [page] } }
    plain s [5] [] = true ∧ (s.gr 5).toNat < 2 ^ 19 ∧ after (.flush 5) s = on s ∧
      onLine s ⟨true, false, fun c => c ≤ 2⟩ (s.gr 4 - BitVec.ofNat 64 ((s.gr 4).toNat % 512)) 1 line 0 0x100000 ∧
      (s.myCore.ca.stash.find? fun y => y.line == line) = none ∧ s.l1Full 0 0x100000 = false ∧ s.l1Holds 0 line = false ∧
      (after (.pref 4) s).myCore.ca.pref.length = 1 := by
  refine ⟨by decide, by decide, by decide +kernel, ⟨by decide, by decide, by decide, page, by decide +kernel⟩, by decide +kernel⟩

-- a core with no first-level granules of its own has no set to fill (R38, R238); a dirty stash line is posted by `flush` (R107)
theorem test_cache_full : let s := st (thread [(4, 0x100000)]) { ca := { tlb := [page] } }
    let d : State := st (thread [(4, 0x100000)])
      { dirG := 8, stashG := 4, ca := { tlb := [page], stash := [{ line := line, ctx := 0, pa := 0x100000, wts := 1, rts := 2, dirty := 1 }],
                                        l1 := [{ line := line, pa := 0x100000, data := 7, wts := 1, rts := 2, secs := 15, pin := false, ctx := 0 }] } }
    s.l1Full 0 0x100000 = true ∧ s.l1Holds 0 line = false ∧ after (.pref 4) s = on s ∧ after (.pinL 4) s = on s ∧
      d.l1Holds 0 line = true ∧ d.myCore.freeEntry = some 0 ∧ (tget {} (after (.flush 4) d).myCore.journal 0).kind = .writeback line false ∧
      (after (.pinL 4) d).myCore.ca.l1.map (fun y => y.pin) = [true] := by decide +kernel

theorem test_control_registers : let s := st (thread [(4, 0x7FF)])
    plain s [4] [3] = true ∧ (0x010, (0 : Word)) ∈ crReads s ∧ (after (.crs 3 4 0x010) s).me.crs.chain = 0x3FF ∧
      (after (.crw 4 0x040) s) = on s ∧ (after (.crr 3 0x020) s).gr 3 = 16 := by
  decide +kernel

-- the fields of `carve` may sum to 16 and no more (R38); a W1C bit of `jrnl` clears (R250)
theorem test_carve_jrnl : let s := st (thread [(4, 0x908), (5, 0x808), (6, 2 ^ 48)]) { rfd := 3 }
    plain s [4] [] = true ∧ 16 < bits (s.gr 4) 4 0 + bits (s.gr 4) 12 8 ∧ (after (.crw 4 0x020) s).me.latch.trap = 1 ∧
      (bits (s.gr 5) 4 0 + bits (s.gr 5) 12 8 = 16) ∧ ((after (.carveWrite 0 0x808) s).core 0).dirG = 8 ∧
      (after (.crw 6 0x022) s).myCore.rfd = 2 ∧ ((after (.vpoolWrite 0 0x10001F) s).cluster 0).lend = 16 ∧
      after (.vpoolWrite 0 0x11001F) s = s := by decide +kernel

/-! ### Registers, chains, tokens -/

theorem test_tokens : let s := st { thread [(4, 1)] with pend := 1 <<< 5 }
    tokenPending s [4, 5, 3] ∧ after (.add 3 4 5) s = held s (.token 5) := by
  refine ⟨⟨5, by decide, by decide, by decide +kernel⟩, by decide +kernel⟩

-- a token that an engine has written publishes its RT at the thread's next access to its register (R167)
theorem test_token_access : let s := st { thread [(4, 1), (5, 2)] with toks := [(5, 9), (6, 3)] }
    ¬ tokenPending s [4, 5, 3] ∧ (s.me.toks.filter fun e => [4, 5, 3].any fun r : GReg => r.val == e.1) ≠ [] ∧
      (after (.add 3 4 5) s).me.crs.ptime = 9 ∧ (after (.add 3 4 5) s).me.toks = [(6, 3)] ∧ (after (.add 3 4 5) s).gr 3 = 3 := by
  refine ⟨by unfold tokenPending; decide +kernel, by decide +kernel⟩

/-- A route entry (R163): V, direction, peer core, peer route, peer thread. -/
def route (out core n thr : Nat) : Word := BitVec.ofNat 64 (2 ^ 63 + n * 2 ^ 20 + out * 2 ^ 19 + core * 16 + thr)

theorem test_chain_read :
    let c : Core := { routes := [(2, route 0 1 3 0)], inq := [(2, [⟨77, 9, 3⟩])] }
    let s := { st { thread [(4, 1)] with crs := { chain := 0x102 } } c with
      cores := [(0, { c with threads := [(0, { thread [(4, 1)] with crs := { chain := 0x102 } })] }), (1, { routes := [(3, route 1 0 2 0)] })] }
    noTokens s [28, 4, 3] ∧ s.me.crs.inRoute = some 2 ∧ s.routeOk 2 false = true ∧ s.myCore.inQ 2 = [⟨77, 9, 3⟩] ∧
      bits (tget 0 s.myCore.routes 2) 62 62 = 0 ∧ (after (.add 3 28 4) s).gr 3 = 78 ∧ (after (.add 3 28 4) s).me.crs.ptime = 9 ∧
      (after (.add 3 28 4) s).myCore.inQ 2 = [] := by
  refine ⟨by unfold noTokens; decide +kernel, by decide +kernel⟩

theorem test_chain_write :
    let th : Thread := { thread [(4, 1)] with crs := { chain := 0x220 } }
    let s : State := { st th with
      cores := [(0, { threads := [(0, th)], routes := [(2, route 1 1 3 0)] }), (1, { routes := [(3, route 0 0 2 0)] })] }
    noTokens s [4, 4, 29] ∧ s.me.crs.outRoute = some 2 ∧ s.routeOk 2 true = true ∧ (∀ e ∈ s.myCore.journal, e.2.busy = false) ∧
      tget 0 s.myCore.outRes 2 < 8 ∧ (after (.add 29 4 4) s).net.map Msg.body = [.chain 3 ⟨2, 0, 0⟩] := by
  refine ⟨by unfold noTokens; decide +kernel, by decide +kernel⟩

theorem test_chain_bad_route : let s := st { thread [] with crs := { chain := 0x322 } }
    s.routeOk 2 false = false ∧ s.routeOk 2 true = false ∧ s.me.crs.inRoute = some 2 ∧ s.me.crs.outRoute = some 2 ∧
      (after (.add 3 28 0) s).me.latch.trap = 8 ∧ (after (.add 29 0 0) s).me.latch.trap = 8 := by decide +kernel

/-- A row of two units in a page that no level holds waits for both answers, and then faults once. -/
theorem test_row_faults_once :
    let f (s : State) (va : Word) : EngAt := s.engPlace 0 (.collie 0 0) 0 0 0 0 0 0 needLd va 8
    let vas : List Word := [0x100000, 0x100008]
    let none' (s : State) : State := { s with misses := s.misses.map fun m => { m with none' := true, sent := false } }
    (match rowPlaces f vas (st (thread [])) with
      | .wait s => (match rowPlaces f vas (none' s) with
        | .fault u k a => k == 2 && a == 0x100000 && u.misses.isEmpty
        | _ => false)
      | _ => false) = true := by decide +kernel

/-! ### Exceptions and system instructions -/

theorem test_trap_latches : let s := st (thread [])
    isSetter 0 = false ∧ (s.thread 0 0).st = .inRot ∧ ((s.trapThread 0 0 5 (.align 3)).thread 0 0).st = .latched := by decide +kernel

/-- A kernel in slot 0 with a function mode. -/
def kernel (fmode : Word) (launch : BitVec 2048 := 0) : Kernel := { st := .running, ctx := 0, launch := launch, fmode := fmode }

-- FSVC 10, 01, and 00 with FEVENT = 5 in bytes 72-79 of the record (R232, R348)
theorem test_fault_records : let s (k : Kernel) : State := { st (thread []) with kernels := [(0, k)] }
    bits (kernel 4).fmode 2 1 = 2 ∧ (((s (kernel 4)).trapThread 0 0 5 .event).ctx 0).recs.length = 1 ∧
      bits (kernel 2).fmode 2 1 = 1 ∧ ((s (kernel 2)).trapThread 0 0 5 .event).net.length = 1 ∧
      bits (kernel 0).fmode 2 1 = 0 ∧ ((s (kernel 0 (5 <<< 576))).trapThread 0 0 5 .event).net.length = 1 ∧
      recField (kernel 0 (5 <<< 576)).launch 72 8 = 5 ∧
      (((s { kernel 0 with st := .complete }).trapThread 0 0 5 .event).ctx 0).recs.length = 1 := by decide +kernel

theorem test_setter_trap : let s := fw (thread [(4, 9)]) { direct := bytes [(0, 8, 0x1234)] }
    isSetter 19584 = true ∧ isSetter s.cur.core = true ∧ Memory.wf (s.core 19584).direct = true ∧
      (s.trapMe (.align 3)).me.regs.pc = 0x1234 ∧ (after .eret (s.trapMe (.align 3))).me.regs = s.me.regs ∧
      (after .eret (st (thread []))).me.latch.trap = 4 := by decide +kernel

theorem test_system : let s := st (thread [])
    isSetter s.cur.core = false ∧ s.me.st = .inRot ∧ (after (.trap 5) s).me.latch.trap = 15 ∧ after .nop s = on s ∧
      (after .yield s).me.ann = 1 := by decide +kernel

theorem test_halt : let s : State := { st (thread []) with kernels := [(0, kernel 4)] }
    s.me.cell.st ≠ .claimed ∧ s.kernel s.me.slot = some (kernel 4) ∧ (kernel 4).st ≠ .complete ∧ (kernel 4).st ≠ .aborted ∧
      (after .halt s).me.st = .free ∧ (∃ k, (after .halt s).kernel 0 = some k ∧ k.st = .aborted ∧ k.cause = 16) := by
  refine ⟨by decide, by decide +kernel, by decide, by decide, by decide +kernel, _, rfl, by decide +kernel⟩

-- THREAD 294911 is the last global thread number (R114)
theorem test_fack : let s : State := { st (thread [(4, 294911), (5, 294912)]) with kernels := [(0, kernel 0)] }
    plain s [4] [] = true ∧ bits (s.gr 4) 63 27 = 0 ∧ bits (s.gr 4) 18 0 ≤ 294911 ∧
      (isSetter s.cur.core = true ∨ ∃ k, s.kernel s.me.slot = some k ∧ bits k.fmode 2 1 = 0) ∧
      (after (.fackSkip 4) s).facks.length = 1 ∧ (after (.fackSkip 5) s).me.latch.trap = 4 := by
  refine ⟨by decide, by decide, by decide, .inr ⟨kernel 0, by decide +kernel⟩, by decide +kernel⟩

theorem test_acks_travel :
    let th : Thread := { thread [] with st := .latched, seq := 7, latch := { kind := .trap, word := 3, pc := 0x100000, trap := 3 } }
    let s : State :=
      { st th with
        kernels := [(0, kernel 0)], facks := [{ core := 0, thr := 1, ord := 0, act := 1, arg := 0x380000 }],
        net := [{ cls := .event, src := .core 0, dst := .core 0, pos := 0, site := 0, body := .fack 1 7 0 5 (some 0) }] }
    (s.core 0).settledBefore 1 0 = true ∧ (after (.fackSent 0) s).net.length = 2 ∧
      reaches s 0 (.core 0) (.core 0) (.fack 1 7 0 5 (some 0)) ∧ s.whereIs 0 = some (0, 0) ∧ s.serves (some 0) th = true ∧
      (after (.fackArrival 0) s).me.st = .inRot ∧ (after (.fackArrival 0) s).me.regs.pc = 0x100004 ∧
      (after (.fackArrival 0) s).me.crs.ptime = 5 := by
  refine ⟨by decide +kernel, by decide +kernel, ⟨_, rfl, by decide +kernel⟩, by decide +kernel⟩
/-! ### Vectors -/

/-- A vector register of 32-bit lanes. -/
def v32 (l : List Nat) : VWord := BitVec.ofNat 512 ((List.range 16).foldl (fun a i => a + l.getD i 0 * 2 ^ (32 * i)) 0)

/-- A thread with vector registers 1, 2, 3 and mask m1. -/
def vthread (a b d : VWord) (m : Word := 1) (g : List (Nat × Nat) := []) : Thread :=
  { thread g with
    regs := { (thread g).regs with
      v := (((Vector.replicate 32 0).set 1 a).set 2 b).set 3 d, m := (Vector.replicate 4 0).set 1 m } }

-- i32: 2^31 - 1 + 1 wraps to -2^31 and counts one wrap, in the active lane only (R41, R63, R116)
theorem test_vector_wrap : let s := st (vthread (v32 [2 ^ 31 - 1, 2 ^ 31 - 1]) (v32 [1, 1]) (v32 [5, 6]))
    VTy.i32.isInt = true ∧ lane ((after (.vadd 3 1 2 1 .i32) s).vr 3) 32 0 = 2 ^ 31 ∧
      lane ((after (.vadd 3 1 2 1 .i32) s).vr 3) 32 1 = 6 ∧ (after (.vadd 3 1 2 1 .i32) s).myCore.nctr[5] = 1 ∧
      lane ((after (.vadds 3 1 2 1 .i32) s).vr 3) 32 0 = 2 ^ 31 - 1 := by decide +kernel

theorem test_vector_divide : let s := st (vthread (v32 [2 ^ 31, 7]) (v32 [2 ^ 32 - 1, 0]) 0 3)
    VTy.i32.isInt = true ∧ lane ((after (.vdiv 3 1 2 1 .i32) s).vr 3) 32 0 = 2 ^ 31 ∧
      lane ((after (.vdiv 3 1 2 1 .i32) s).vr 3) 32 1 = 2 ^ 32 - 1 ∧ (after (.vdiv 3 1 2 1 .i32) s).myCore.nctr[5] = 1 ∧
      (after (.vdiv 3 1 2 1 .i32) s).myCore.nctr[6] = 1 := by decide +kernel

-- 1.5 + 2.25 = 3.75; 3 * 1.5 = 4.5 (f32)
theorem test_vector_float : let s := st (vthread (v32 [0x3FC00000]) (v32 [0x40100000]) (v32 [0x40400000]))
    (VTy.f32, Fmt.f32) ∈ floatTys ∧ lane ((after (.vadd 3 1 2 1 .f32) s).vr 3) 32 0 = 0x40700000 ∧
      lane ((after (.vmul 3 3 1 1 .f32) s).vr 3) 32 0 = 0x40900000 ∧
      lane ((after (.vfma 3 1 2 1 .f32) s).vr 3) 32 0 = 0x40CC0000 := by decide +kernel

-- 1 is exactly 1.0 in every float format (R43), and rounding it overflows nowhere
theorem test_round : ∀ f ∈ [Fmt.f32, .f16, .bf16, .e5m2, .e4m3], (f.round false false 1 0).2.ovf = 0 := by decide +kernel

theorem test_compare : let s := st (vthread (v32 [2 ^ 32 - 1, 3]) (v32 [1, 3]) 0 3)
    VTy.i32.isINF = true ∧ (after (.vcmpLt 2 1 2 1 .i32) s).mr 2 = 1 ∧ (after (.vcmpLt 2 1 2 1 .n32) s).mr 2 = 0 ∧
      (after (.vcmpEq 2 1 2 1 .i32) s).mr 2 = 2 ∧ (after (.vcmpEq 0 1 2 1 .i32) s).me.regs.m = s.me.regs.m := by decide +kernel

theorem test_select : let s := st (vthread (v32 [1, 2]) (v32 [3, 4]) 0 2)
    lane ((after (.vsel 3 1 2 1 .f32) s).vr 3) 32 0 = 3 ∧ lane ((after (.vsel 3 1 2 1 .f32) s).vr 3) 32 1 = 2 ∧
      (after (.mnot 2 0) s).mr 2 = 0 ∧ after (.mand 0 1 1) s = on s := by decide +kernel

theorem test_permutes : let s := st (vthread (v32 [10, 11, 12]) (v32 [20, 21]) (v32 [30, 31]) (2 ^ 16 - 1) [(4, 1), (5, 16)])
    plain s [4] [] = true ∧ lane ((after (.vslup 3 1 4 1 .i32) s).vr 3) 32 0 = 30 ∧ lane ((after (.vslup 3 1 4 1 .i32) s).vr 3) 32 1 = 10 ∧
      lane ((after (.vsldn 3 1 4 1 .i32) s).vr 3) 32 0 = 11 ∧ (after (.vsldn 3 1 5 1 .i32) s).vr 3 = s.vr 3 ∧
      lane ((after (.vzip 3 1 2 1 .i32) s).vr 3) 32 1 = 20 ∧ lane ((after (.vunzip 3 1 2 1 .i32) s).vr 3) 32 1 = 12 ∧
      lane ((after (.vrev 3 1 1 .i32) s).vr 3) 32 15 = 10 ∧ lane ((after (.vperm 3 1 2 1 .i32) s).vr 3) 32 0 = 0 := by decide +kernel

-- -1 as n32 from i32 wraps, not from an equal width; 3 as f32 is 0x40400000; 2.5 rounds to 2 and truncates to 2
theorem test_conversions : let s := st (vthread (v32 [3, 0x40200000]) 0 0 3)
    VTy.i32.isInt = true ∧ VTy.f32.fmt = some .f32 ∧ lane ((after (.vcvt 3 1 1 .f32 .i32 false) s).vr 3) 32 0 = 0x40400000 ∧
      lane ((after (.vcvt 3 1 1 .i32 .f32 false) s).vr 3) 32 1 = 2 ∧ lane ((after (.vcvt 3 1 1 .i32 .f32 true) s).vr 3) 32 1 = 2 ∧
      (after (.vcvt 3 1 1 .i32 .i32 false) s).vr 3 = v32 [3, 0x40200000] := by decide +kernel

theorem test_blocks : let s := st (vthread (v32 [0x3F800000]) 0 0)
    s.early s.cur.core = false ∧ ({ s with dies := [(0, { st := .early, clk := 1 })] } : State).early s.cur.core = true ∧
      (1 : Fin 4) ≠ 3 ∧ (after (.vunpack4F32 2 3 1 0 false) (after (.vpack4F32 3 1 2 1) s)).vr 2 = v32 [0x3F800000] := by decide +kernel

theorem test_reductions : let s := st (vthread (v32 [5, 2 ^ 32 - 3]) 0 0 3)
    plain s [] [4] = true ∧ VTy.i32.isInt = true ∧ (after (.vrsum 4 1 1 .i32) s).gr 4 = 2 ∧
      (after (.vrmin 4 1 1 .i32) s).gr 4 = BitVec.ofInt 64 (-3) ∧ (after (.vrmax 4 1 1 .n32) s).gr 4 = 2 ^ 32 - 3 ∧
      (after (.vrmax 4 1 1 .f32) (st (vthread (v32 [0xBF800000]) 0 0 1))).gr 4 = 0xBF800000 := by decide +kernel

/-! ### Values of the number formats -/

-- f16, by hand: 1 = 0x3C00, 0.5 = 0x3800, 2 = 0x4000, -1 = 0xBC00, infinity 0x7C00, 65504 = 0x7BFF, smallest 0x0001 (R43, R46-R48, R50)
theorem test_float_values :
    let f := Fmt.f16
    let nan := f.qnan
    (Fmt.f16, (65504 : Rat), (2 : Rat) ^ (5 : Int), (2 : Rat) ^ (-14 : Int)) ∈ limits ∧
      (∃ k q, f.value 0x3C00 = .fin false k q) ∧ f.value nan = .nan ∧ f.value 0x7C00 = .inf false ∧
      f.add 0x3C00 0x3800 = (0x3E00, {}) ∧ f.sub 0x3C00 0x4000 = (0xBC00, {}) ∧ f.mul 0x7BFF 0x4000 = (0x7C00, { ovf := 1 }) ∧
      f.div 0x3C00 0x4000 = (0x3800, {}) ∧ f.div 0x3C00 0 = (0x7C00, { dz := 1 }) ∧ f.div 0 0 = (nan, { inv := 1 }) ∧
      f.mul 0x0001 0x3800 = (0, { unf := 1 }) ∧ f.sub 0x7C00 0x7C00 = (nan, { inv := 1 }) ∧ f.mul 0x7C00 0x8000 = (nan, { inv := 1 }) ∧
      f.add nan 0x3C00 = (nan, { nan := 1 }) ∧ f.fma false true 0x3C00 0x4000 0x3C00 = (0x3C00, {}) ∧
      f.fma false false 0x7C00 0x3C00 0xFC00 = (nan, { inv := 1 }) ∧ f.sqrt 0xBC00 = (nan, { inv := 1 }) ∧ f.rcp 0x4000 = (0x3800, {}) ∧
      f.maxmin true 0x8000 0 = (0, {}) ∧ f.maxmin false 0 0x8000 = (0x8000, {}) ∧ f.maxmin true nan 0x3C00 = (0x3C00, { nan := 1 }) ∧
      (f.clamp 0x4000 0x3800 0x3C00).1 = 0x3C00 := by
  refine ⟨by simp [limits], ⟨_, _, rfl⟩, by decide +kernel⟩

-- f32 3.5 rounds to 4 and truncates to 3; 300 is outside i8; f32 1000 overflows e4m3, whose largest is 448 = 0x7E (R45, R47-R49)
theorem test_conversion_values :
    Fmt.f32.toInt ⟨8, true⟩ false 0x40600000 = (4, {}) ∧ Fmt.f32.toInt ⟨8, true⟩ true 0x40600000 = (3, {}) ∧
      Fmt.f32.toInt ⟨8, true⟩ false 0x43960000 = (127, { inv := 1 }) ∧ Fmt.f32.toInt ⟨8, true⟩ false 0xFF800000 = (0x80, { inv := 1 }) ∧
      Fmt.f32.toInt ⟨8, true⟩ false 0x7FC00000 = (0, { inv := 1, nan := 1 }) ∧ Fmt.f32.convert .e4m3 false 0x447A0000 = (0x7E, { ovf := 1 }) ∧
      Fmt.f32.convert .f16 false 0x3F800000 = (0x3C00, {}) ∧ Fmt.f32.convert .e5m2 false 0xFF800000 = (0xFC, {}) ∧
      Fmt.bf16.ofInt (-3) = (0xC040, {}) := by decide +kernel

-- a block of 1 and -6 under TYPE 1 (largest magnitude 6): scale exponent 32, codes 2 and 15; one NaN spoils a block (R53-R56)
theorem test_block_values :
    let one := FVal.fin false 1 0
    let b := (q4Pack 1 (one :: .fin true 6 0 :: List.replicate 30 (.fin false 0 0))).1
    b = (64 + 32) * 2 ^ 128 + 15 * 16 + 2 ∧ (match q4Value b 2 with | .fin _ m _ => m == 0 | _ => false) = true ∧
      (match q4Value b 1 with | .fin s m e => s && mag m e == 6 | _ => false) = true ∧
      (q4Pack 1 (.nan :: List.replicate 31 one)) = ((64 + 63) * 2 ^ 128, { nan := 1 }) ∧
      (q4Pack 0 (.inf true :: List.replicate 31 one)).2 = { q4 := 1 } := by decide +kernel

theorem test_vector_memory : let s := st (vthread 0 (v32 [8, 4]) (v32 [7, 9]) 3 [(4, 0x40), (5, 8), (6, 0x42)]) { direct := bytes [(0x44, 4, 3)] }
    plain s [4, 5] [] = true ∧ Memory.wf s.myCore.direct = true ∧ allDirect s 1 .i32 (unitAt s 4 .i32) ∧
      lane ((after (.vld 1 4 1 .i32) s).vr 1) 32 1 = 3 ∧ mread (after (.vsts 3 4 5 1 .i32) s).myCore.direct 0x40 16 = 7 + 3 * 2 ^ 32 + 9 * 2 ^ 64 ∧
      mread (after (.vstx 3 4 2 1 .i32) s).myCore.direct 0x44 8 = 9 + 7 * 2 ^ 32 ∧
      firstMisaligned s 1 .i32 (unitAt s 6 .i32) 0 ∧ (after (.vst 3 6 1 .i32) s).me.latch.addr = 0x42 := by
  refine ⟨by decide +kernel, by decide +kernel, by unfold allDirect; decide +kernel, by decide +kernel, by decide +kernel,
    by decide +kernel, by unfold firstMisaligned; decide +kernel, by decide +kernel⟩

theorem test_vector_moves : let s := st (vthread (v32 [2 ^ 32 - 2]) 0 0 1 [(4, 0x1_0000_0005), (5, 0), (6, 16)])
    plain s [4, 5] [] = true ∧ plain s [5] [7] = true ∧ (after (.vsplat 3 4 1 .i32) s).vr 3 = v32 [5] ∧
      (after (.vext 7 1 5 .i32) s).gr 7 = BitVec.ofInt 64 (-2) ∧ (after (.vext 7 1 6 .i32) s).gr 7 = 0 ∧
      (after (.vins 3 4 5 .i32) s).vr 3 = v32 [5] ∧ (after (.vins 3 4 6 .i32) s).vr 3 = 0 ∧
      (after (.mgetg 7 0) s).gr 7 = BitVec.allOnes 64 ∧ (after (.msetg 2 4) s).mr 2 = 0x1_0000_0005 := by decide +kernel

/-! ### Steps -/

/-- A thread about to fetch from 1 MiB, with a word there. -/
def fetching (w : Nat) : State :=
  { st (thread []) { ca := { tlb := [page] } } with
    focus := .issue 0 0, dram := mwrite [] (line * 512) 4 w }

theorem test_fetches (w : Nat) : fetches (fetching w) 0 0 := ⟨rfl, by simp [fetching, State.thread, State.core, st, tget, Core.thread, thread],
  by simp [fetching, State.thread, State.core, st, tget, Core.thread, thread]⟩

-- `add g3, g4, g5` (R94) and a word of zeros
theorem test_step_runs : let s := fetching 0x04642800
    wordAt s 0 0 0x04642800 ∧ decodeWord 0x04642800 = some (.add 3 4 5) ∧ wordAt (fetching 0) 0 0 0 ∧ decodeWord 0 = none := by
  refine ⟨⟨by decide +kernel, by decide +kernel, page, line, 0, 0x100000, by decide +kernel⟩, by decide +kernel,
    ⟨by decide +kernel, by decide +kernel, page, line, 0, 0x100000, by decide +kernel⟩, by decide +kernel⟩

theorem test_step_latched : let s : State := { st { thread [] with latch := { kind := .reissue, word := 0x04642800 } } with focus := .issue 0 0 }
    s.focus = .issue 0 0 ∧ (s.thread 0 0).latch.kind = .reissue ∧
      decodeWord (s.thread 0 0).latch.word = some (.add 3 4 5) := by decide +kernel

-- 2^19 is the first virtual address that is translated; below it nothing is fetched (R88, R98)
theorem test_step_fetch_fault :
    let s (pc : BitVec 56) : State := { st { thread [] with regs := { pc := pc } } with focus := .issue 0 0 }
    fetches (s 0x7FFFC) 0 0 ∧ ((s 0x7FFFC).thread 0 0).regs.pc.toNat < 2 ^ 19 ∧ fetches (s 0x80000) 0 0 ∧
      2 ^ 19 ≤ ((s 0x80000).thread 0 0).regs.pc.toNat ∧ (s 0x80000).tlb1 0 0x80000 = none := by
  refine ⟨⟨rfl, by decide +kernel⟩, by decide +kernel, ⟨rfl, by decide +kernel⟩,
    by decide +kernel⟩

/-- The drain unit of core 0 at the first micro-op, `mov d1, d0`, of its row. -/
def draining : State :=
  let o : Mop := { thr := 0, st := .draining, bank := 0, desc := 0, shape := 0, direct := true, geom := 0, fa := 2, fb := 2, prog := [0x40800000], tlen := 0, unit := true }
  { st (thread []) { mx := { ops := [o], drain := { rows := [{ m := 0 }] } } } with focus := .drain 0 }

theorem test_step_events : let s : State := { st (thread []) with agenda := [.slotTurn 0] }
    s.focus = .sched ∧ s.agenda = [.slotTurn 0] ∧ (Instr.slotTurn 0).isEvent = true ∧ draining.focus = .drain 0 ∧
      (draining.core 0).mx.drain.rows = [{ m := 0 }] ∧ decodeDrain 0x40800000 = some (.drainMov 1 0) := by decide +kernel

theorem test_reset_form : State.reset.memWf := ⟨rfl, rfl, rfl, fun _ h => nomatch h⟩

/-- The step answers a next state. -/
def goesOn (s : State) : Bool :=
  match step s with
  | .next _ => true
  | .fault _ => false
  | .refused _ => false

theorem test_form_kept : (fetching 0x04642800).memWf ∧ goesOn (fetching 0x04642800) = true := by
  refine ⟨⟨by decide +kernel, rfl, rfl, ?_⟩, by decide +kernel⟩
  intro e h
  simp only [fetching, st, List.mem_singleton] at h
  subst h
  decide +kernel
/-! ### Events -/

/-- A word of an offer block's CTL (R141): OP, COUNT, INDEX, SIZE. -/
def ctl (op count index size : Nat) : Word := BitVec.ofNat 64 (size * 2 ^ 54 + op * 2 ^ 44 + count * 2 ^ 20 + index)

/-- A kernel of one level of two threads (R348). -/
def oneLevel : Kernel := kernel 4 (BitVec.ofNat 2048 (2 ^ 160 + 2 * 2 ^ 768))

/-- The timer alternative of D cycles (R158). -/
def timer (d : Nat) : Alt := ⟨BitVec.ofNat 64 (5 * 2 ^ 60 + d), BitVec.ofNat 64 (2 ^ 63 + 2 ^ 20), 0, 0⟩

/-- A two-party alternative of event 5. -/
def five : Alt := ⟨5, ctl 0 2 0 0, 0, 0⟩

/-- An offer block at 0x200 with these two alternatives. -/
def blockMem : Memory :=
  bytes [(0x200, 8, 5), (0x208, 8, (ctl 0 2 0 0).toNat), (0x220, 8, (timer 9).name.toNat), (0x228, 8, (timer 9).ctl.toNat)]

def syncState (g4 : Nat) (m : Memory := blockMem) : State :=
  { st (thread [(4, g4)]) { direct := m } with kernels := [(0, oneLevel)] }

theorem test_sync_issue : let s := syncState 0x200
    plain s [4] [3] = true ∧ altsAt s 0x200 2 = [five, timer 9] ∧ (∀ x ∈ [five, timer 9], goodAlt (levels s) x) ∧
      (([five, timer 9].map Alt.name).filter fun x => bits x 63 60 != 5).Nodup ∧ [five, timer 9].flatMap usedBuffers = [] ∧
      (after (.sync 3 4 2) s).me.wait = .sync 3 [five, timer 9] false ∧ (after (.sync 3 4 2) s).me.cell.st = .opened ∧
      (after (.sync 3 4 2) s).me.st = .wait := by
  refine ⟨by decide +kernel, by decide +kernel, ?_, by decide +kernel⟩
  intro x h
  simp only [List.mem_cons, List.not_mem_nil, or_false] at h
  rcases h with rfl | rfl <;> (unfold goodAlt; decide +kernel)

-- a block not at a multiple of 32; one that ends past 512 KiB; OP 7; one name twice (R146)
theorem test_sync_refused :
    (syncState 0x210).me.st = .inRot ∧ (after (.sync 3 4 2) (syncState 0x210)).me.latch.trap = 2 ∧
      (after (.sync 3 4 2) (syncState 0x7FFE0)).me.latch.trap = 4 ∧
      (after (.sync 3 4 1) (syncState 0x200 (bytes [(0x200, 8, 5), (0x208, 8, (ctl 7 2 0 0).toNat)]))).me.latch.trap = 8 ∧
      (after (.sync 3 4 2) (syncState 0x200 (bytes [(0x200, 8, 5), (0x208, 8, (ctl 0 2 0 0).toNat), (0x220, 8, 5),
        (0x228, 8, (ctl 0 2 1 0).toNat)]))).me.latch.trap = 8 ∧
      (after (.sync 3 4 1) (syncState 0x200 (bytes [(0x200, 8, 5), (0x208, 8, (ctl 1 2 0 1).toNat), (0x210, 8, 8)]))).me.latch.trap = 2 ∧
      (after (.sync 3 4 1) (syncState 0x200 (bytes [(0x200, 8, 5), (0x208, 8, (ctl 1 2 0 1).toNat), (0x218, 8, 0x80000)]))).me.latch.trap = 4 := by
  decide +kernel

/-- A thread that waits in a `sync` of these alternatives, its cell in a state. -/
def waiting (alts : List Alt) (cell : Cell) (sent : Bool := true) : Thread :=
  { thread [] with st := .wait, wait := .sync 3 alts sent, cell := cell, latch := { word := 0x80640001 } }

theorem test_offers_leave :
    let th := waiting [five, timer 9] { st := .opened, seq := 1 } false
    let s : State := { st th with kernels := [(0, oneLevel)] }
    let bad : State := { st { th with traps := [{ kind := 7, cause := 1, addr := 4 }] } with kernels := [(0, oneLevel)] }
    (s.thread 0 0).wait = .sync 3 [five, timer 9] false ∧ (s.core 0).settled 0 = true ∧
      (after (.syncOffersSent 0 0) s).net.length = 1 ∧ (after (.syncOffersSent 0 0) s).me.wait = .sync 3 [five, timer 9] true ∧
      (after (.syncOffersSent 0 0) bad).me.st = .latched ∧ (after (.syncOffersSent 0 0) bad).me.latch.trap = 7 ∧
      (after (.syncOffersSent 0 0) bad).me.cell.st = .idle := by decide +kernel

def key : EvKey := ⟨5, 0, 0⟩

/-- An offer of global thread `g` with an index. -/
def offer (g i : Nat) : Offer := { key := key, index := i, ctl := ctl 0 2 i 0, rt := 3, who := .thread g 1 }

/-- A message that has reached its destination at site 0. -/
def msg (src dst : Endp) (b : Body) : Msg := { cls := .event, src := src, dst := dst, pos := 0, site := 0, body := b }

/-- Threads 0 and 1 of core 0 wait in the event, and the Bugle 3 is its home. -/
def homeState (b : Bugle) (m : Msg) : State :=
  let th (i : Nat) : Thread := waiting [⟨5, ctl 0 2 i 0, 0, 0⟩, timer 9] { st := .opened, seq := 1 }
  { cores := [(0, { threads := [(0, th 0), (1, th 1)] })], dies := [(0, { st := .full, clk := 3 })],
    kernels := [(0, oneLevel)], bugles := [(3, b)], net := [m] }

-- the first offer stands; the second one's arrival claims thread 0, the lowest (R147, R150)
theorem test_offers_arrive :
    let m := msg (.core 0) (.bugle 3) (.offer (offer 1 1))
    let s := homeState {} m
    let s' := homeState { evs := [⟨key, 0, .gathering⟩], offers := [offer 0 0] } m
    reaches s 0 (.core 0) (.bugle 3) (.offer (offer 1 1)) ∧ s.settledOffer 3 (offer 1 1) = true ∧ (s.bugle 3).of key = [] ∧
      ((after (.offerArrival 0) s).bugle 3).offers.length = 1 ∧ (after (.offerArrival 0) s).net = [] ∧
      (s'.bugle 3).of key = [offer 0 0] ∧ s'.settledOffer 3 (offer 1 1) = true ∧ 1 + 1 = bits (offer 1 1).ctl 39 20 ∧
      ((after (.offerArrival 0) s').bugle 3).evs.map HomeEv.st = [.claiming [] [0, 1]] ∧
      ((after (.offerArrival 0) s').net.map Msg.dst) = [.core 0] := by
  refine ⟨⟨_, rfl, by decide +kernel⟩, by decide +kernel⟩

theorem test_offers_disagree :
    let o : Offer := { offer 1 1 with ctl := ctl 0 3 1 0 }
    let s := homeState { evs := [⟨key, 0, .gathering⟩], offers := [offer 0 0] } (msg (.core 0) (.bugle 3) (.offer o))
    reaches s 0 (.core 0) (.bugle 3) (.offer o) ∧ (∃ x ∈ (s.bugle 3).of key, bits x.ctl 62 20 ≠ bits o.ctl 62 20) ∧
      s.settledOffer 3 o = true ∧ ((after (.offerArrival 0) s).bugle 3).of key = [] := by
  refine ⟨⟨_, rfl, by decide +kernel⟩, ⟨offer 0 0, by decide +kernel⟩, by decide +kernel⟩

theorem test_claims_answered :
    let b (r : List Nat) : Bugle := { evs := [⟨key, 7, .claiming [] (0 :: r)⟩], offers := [offer 0 0, offer 1 1] }
    let s r x := homeState (b r) (msg (.core 0) (.bugle 3) x)
    reaches (s [1] (.grant key 0)) 0 (.core 0) (.bugle 3) (.grant key 0) ∧ ((s [1] (.grant key 0)).bugle 3).ev key = some ⟨key, 7, .claiming [] [0, 1]⟩ ∧
      (after (.claimGrant 0) (s [1] (.grant key 0))).net.map Msg.body = [.claim ⟨key, 7, some 3, 0⟩ 1 1] ∧
      (after (.claimGrant 0) (s [] (.grant key 0))).net.map Msg.body = [.commit key 0 0 (ctl 0 2 0 0) [], .commit key 1 1 (ctl 0 2 1 0) []] ∧
      ((after (.claimGrant 0) (s [] (.grant key 0))).bugle 3).standing key = [] ∧
      (after (.claimDenial 0) (s [1] (.deny key 0 1))).net = [] ∧
      ((after (.claimDenial 0) (s [1] (.deny key 0 1))).bugle 3).evs.map HomeEv.st = [.gathering] ∧
      (after (.claimGrant 0) (s [1] (.grant key 5))).net.map Msg.body = [.release key 5] := by
  refine ⟨⟨_, rfl, by decide +kernel⟩, by decide +kernel⟩

theorem test_offers_go :
    let s b x := homeState b (msg (.core 0) (.bugle 3) x)
    let w := s { evs := [⟨key, 0, .gathering⟩], offers := [offer 0 0] } (.withdraw key 0 0 1)
    let a l := s { evs := [⟨key, 0, .occurring [offer 0 0, offer 1 1] [] [] l⟩], offers := [] } (.ack key 0)
    reaches w 0 (.core 0) (.bugle 3) (.withdraw key 0 0 1) ∧ (w.bugle 3).of key = [offer 0 0] ∧
      ((after (.withdrawalArrival 0) w).bugle 3).of key = [] ∧ reaches (a [0, 1]) 0 (.core 0) (.bugle 3) (.ack key 0) ∧
      ((after (.deliveryAck 0) (a [0, 1])).bugle 3).ev key = some ⟨key, 0, .occurring [offer 0 0, offer 1 1] [] [] [1]⟩ ∧
      ((after (.deliveryAck 0) (a [0])).bugle 3).ev key = none := by
  refine ⟨⟨_, rfl, by decide +kernel⟩, by decide +kernel, by decide +kernel, ⟨_, rfl, by decide +kernel⟩, by decide +kernel⟩

theorem test_overflow_return :
    let o : Offer := { offer 0 0 with spill := some 2 }
    let b : Bugle := { evs := [⟨key, 7, .gathering⟩], offers := [o] }
    let s := homeState b (msg (.core 0) (.bugle 3) (.ack key 0))
    (s.bugles.find? fun e => e.2.offers.any fun x => x.key.ctx == 0 && x.spill == some 2) = some (3, b) ∧
      (b.offers.find? fun x => x.key.ctx == 0 && x.spill == some 2) = some o ∧ b.held < 4096 := by decide +kernel

/-- Thread 0 of core 0 with a cell, and a message for it. -/
def cellState (c : Cell) (x : Body) : State :=
  { homeState { evs := [⟨key, 7, .occurring [offer 0 0, offer 1 1] [] [0, 1] [0, 1]⟩] } (msg (.bugle 3) (.core 0) x) with
    cores := [(0, { threads := [(0, waiting [⟨5, ctl 0 2 0 0, 0, 0⟩, timer 9] c)], cyc := 9 })] }

def claim3 : Claim := ⟨key, 7, some 3, 0⟩

theorem test_cell_claims :
    let s c := cellState c (.claim claim3 0 1)
    reaches (s { st := .opened, seq := 1 }) 0 (.bugle 3) (.core 0) (.claim claim3 0 1) ∧
      (s { st := .opened, seq := 1 }).partyAt key 0 = some (0, 0) ∧
      (after (.claimArrival 0) (s { st := .opened, seq := 1 })).me.cell = { st := .claimed, seq := 1, holder := some claim3 } ∧
      (after (.claimArrival 0) (s { st := .opened, seq := 1 })).net.map Msg.body = [.grant key 0] ∧
      (after (.claimArrival 0) (s { st := .claimed, seq := 1 })).me.cell.queue = [claim3] ∧
      (after (.claimArrival 0) (s { st := .opened, seq := 2 })).net.map Msg.body = [.deny key 0 1] ∧
      (after (.claimArrival 0) (s { st := .committed, seq := 1 })).net.map Msg.body = [.deny key 0 1] := by
  refine ⟨⟨_, rfl, by decide +kernel⟩, by decide +kernel⟩

theorem test_cell_commits :
    let s := cellState { st := .claimed, seq := 1, holder := some claim3, queue := [⟨⟨6, 0, 0⟩, 8, some 4, 0⟩] } (.commit key 0 0 (ctl 0 2 0 0) [])
    reaches s 0 (.bugle 3) (.core 0) (.commit key 0 0 (ctl 0 2 0 0) []) ∧ s.altOf 0 0 key = some (0, five) ∧
      (s.bugle 3).ev key = some ⟨key, 7, .occurring [offer 0 0, offer 1 1] [] [0, 1] [0, 1]⟩ ∧
      (after (.commitArrival ⟨0, []⟩) s).me.cell.st = .committed ∧ (after (.commitArrival ⟨0, []⟩) s).net.map Msg.body = [.deny ⟨6, 0, 0⟩ 0 1] ∧
      ((after (.commitArrival ⟨0, []⟩) s).bugle 3).ev key = some ⟨key, 7, .occurring [offer 0 0, offer 1 1] [] [1] [0, 1]⟩ := by
  refine ⟨⟨_, rfl, by decide +kernel⟩, by decide +kernel⟩

theorem test_cell_releases :
    let q : List Claim := [⟨⟨6, 0, 0⟩, 8, some 4, 0⟩, ⟨⟨7, 0, 0⟩, 6, some 4, 0⟩]
    let s l t := cellState { st := .claimed, seq := 1, holder := some claim3, queue := l, trap := t } (.release key 0)
    reaches (s [] none) 0 (.bugle 3) (.core 0) (.release key 0) ∧ (s [] none).partyAt key 0 = some (0, 0) ∧
      (after (.grantReleaseArrival 0) (s [] none)).me.cell = { st := .opened, seq := 1 } ∧
      (after (.grantReleaseArrival 0) (s q none)).net.map Msg.body = [.grant ⟨7, 0, 0⟩ 0] ∧
      (after (.grantReleaseArrival 0) (s q none)).me.cell.queue = [⟨⟨6, 0, 0⟩, 8, some 4, 0⟩] ∧
      (after (.grantReleaseArrival 0) (s [] (some (8, 0)))).me.latch.trap = 8 ∧
      (after (.grantReleaseArrival 0) (s [] (some (8, 0)))).me.cell.st = .idle := by
  refine ⟨⟨_, rfl, by decide +kernel⟩, by decide +kernel⟩

theorem test_delivered :
    let s := cellState { st := .committed, seq := 1, holder := some claim3 } (.delivery key 0 (ctl 1 2 0 1) 0xABCD 12 [])
    reaches s 0 (.bugle 3) (.core 0) (.delivery key 0 (ctl 1 2 0 1) 0xABCD 12 []) ∧ s.altOf 0 0 key = some (0, five) ∧
      s.me.popIn = none ∧ (after (.deliveryArrival ⟨0, []⟩) s).me.st = .inRot ∧ (after (.deliveryArrival ⟨0, []⟩) s).me.regs.pc = 0x100004 ∧
      (after (.deliveryArrival ⟨0, []⟩) s).me.crs.ptime = 12 ∧ (after (.deliveryArrival ⟨0, []⟩) s).me.cell = { seq := 1 } ∧
      mread (after (.deliveryArrival ⟨0, []⟩) s).myCore.direct 0 16 = 0xABCD ∧ (after (.deliveryArrival ⟨0, []⟩) s).net.map Msg.body = [.ack key 0] := by
  refine ⟨⟨_, rfl, by decide +kernel⟩, by decide +kernel⟩

-- D = 9 is due when nine cycles have passed, and not after eight (R158)
theorem test_timers :
    let s (c : Cell) := cellState c (.ack key 0)
    (s { st := .opened, seq := 1 }).me.wait = .sync 3 [five, timer 9] true ∧ [five, timer 9][1]? = some (timer 9) ∧
      bits (timer 9).ctl 63 63 = 1 ∧ bits (timer 9).name 55 0 ≤ 9 - 0 ∧ 9 - 1 < bits (timer 9).name 55 0 ∧
      after (.timerAlternativeDue 0 0 1) (s { st := .opened, seq := 1, cyc := 1 }) = s { st := .opened, seq := 1, cyc := 1 } ∧
      (after (.timerAlternativeDue 0 0 1) (s { st := .opened, seq := 1 })).me.st = .inRot ∧
      (after (.timerAlternativeDue 0 0 1) (s { st := .opened, seq := 1 })).gr 3 = 1 ∧
      (after (.timerAlternativeDue 0 0 1) (s { st := .claimed, seq := 1, holder := some claim3 })).me.cell.fired = [1] := by decide +kernel

theorem test_quiescence :
    let s := homeState {} (msg (.host) (.host) (.ack key 0))
    let t : State := { s with
      net := [], cores := [(0, { threads := [(0, waiting [five] { st := .opened, seq := 1 })], slot := some 0, calm := 2 ^ 20 })] }
    let r : State := { t with cores := [(0, { threads := [(0, thread [])], slot := some 0, calm := 2 ^ 20 })] }
    let n : State := { t with cores := t.cores.map fun e => (e.1, { e.2 with calm := 2 ^ 20 - 1 }) }
    t.quiescent 0 = true ∧ t.me.slot = 0 ∧ t.me.st = .wait ∧ (after (.quiescenceDetected 0) t).me.latch.trap = 10 ∧
      r.quiescent 0 = false ∧ n.quiescent 0 = false := by decide +kernel

theorem test_chain_arrives :
    let th : Thread := { thread [] with st := .wait, wait := .chainIn 2, latch := { kind := .preIssue, word := 3 } }
    let s : State := { st th with net := [msg (.core 1) (.core 0) (.chain 2 ⟨7, 8, 0⟩)] }
    reaches s 0 (.core 1) (.core 0) (.chain 2 ⟨7, 8, 0⟩) ∧ s.phys 0 = some 0 ∧
      ((after (.chainEntryArrival 0) s).core 0).inQ 2 = [⟨7, 8, 0⟩] ∧ (after (.chainEntryArrival 0) s).me.st = .inRot := by
  refine ⟨⟨_, rfl, by decide +kernel⟩, by decide +kernel⟩

theorem test_names : let s := st { thread [(4, 0x40FFFFFFFFFFFFFF), (5, 1), (6, 0x20)] with ev := ⟨2, 9, 11⟩ } { outRes := [(0, 3)] }
    plain s [4, 5] [3] = true ∧ (after (.evname 3 4 5) s).gr 3 = 0x4000000000000000 ∧ plain s [5] [3] = true ∧
      (after (.evinfo 3 5) s).gr 3 = 9 ∧ (after (.evinfo 3 6) s).gr 3 = 0x500 := by decide +kernel
/-! ### Barriers -/

/-- One level of two threads in the domain core, channel 2 bound to it. -/
def barKernel : Kernel :=
  { kernel 4 (BitVec.ofNat 2048 (2 ^ 160 + 2 * 2 ^ 768 + 2 ^ 800 + 128 * 2 ^ 1296)) with groups := [(0, 0)], teams := [(0, { die := 0, st := .placed, cores := [0] })] }

/-- The barrier name of level 0, channel 2. -/
def barName : Nat := 2 ^ 60 + 2

def barState (th : Thread) (l : Leaf) (j : Tab JEntry := []) : State :=
  { st th with
    cores := [(0, { threads := [(0, th)], leaves := [(2, l)], slot := some 0, journal := j })], kernels := [(0, barKernel)] }

theorem test_barrier_name : let s := barState (thread [(4, barName), (5, 2 ^ 60 + 3)]) { mask := 1 }
    plain s [4] [3] = true ∧ barrierName s (s.gr 4) 2 ∧ (∀ ch, ¬ barrierName s (s.gr 5) ch) := by
  refine ⟨by decide +kernel, ⟨by decide +kernel, by unfold compute; decide +kernel, by decide +kernel, by decide +kernel, ⟨barKernel, by decide +kernel⟩,
    by decide +kernel⟩, ?_⟩
  rintro ch ⟨h, -, -, -, ⟨k, hk, -, hb, -⟩, -⟩
  have hc : ch = 3 := by rw [h]; decide +kernel
  obtain rfl : barKernel = k := Option.some.inj hk
  subst hc
  exact absurd hb (by decide +kernel)

-- the only member arrives, and its leaf latches; EVENT for an unbound channel, and for `barq` after an arrival (R178)
theorem test_barrier_issue :
    let s (b : BarSt) := barState { thread [(4, barName), (5, 2 ^ 60 + 3)] with bars := (Vector.replicate 16 .none).set! 2 b } { mask := 1 }
    (s .none).me.bars[2]! = .none ∧ (s .none).myCore.settled 0 = true ∧ (s .none).me.traps = [] ∧
      (after (.barw 4) (s .none)).me.wait = .barw 2 true ∧ (tget {} (after (.barw 4) (s .none)).myCore.leaves 2).latched = true ∧
      after (.barw 4) (s .waiting) = waits (s .waiting) (.barw 2 true) ∧ (after (.barw 4) (s (.released 9))).me.crs.ptime = 9 ∧
      (after (.barw 4) (s (.released 9))).me.regs.pc = 0x100004 ∧ (after (.barw 5) (s .none)).me.latch.trap = 8 ∧
      (after (.barq 3 4) (s .none)).me.bars[2]! = .arrived ∧ (after (.barq 3 4) (s .arrived)).me.latch.trap = 8 := by decide +kernel

-- with a store of the thread still open the arrival waits (R258)
theorem test_barrier_waits_for_stores :
    let s := barState (thread [(4, barName)]) { mask := 1 } [(0, { busy := true, thr := 0, ord := 0 })]
    let s : State := { s with cores := s.cores.map fun e => (e.1, { e.2 with jord := 1 }) }
    s.myCore.settled s.cur.thr = false ∧ after (.barw 4) s = waits s (.barw 2 false) ∧ after (.barq 3 4) s = waits s (.release 3 2) := by
  decide +kernel

theorem test_barset : let s (l : Leaf) := barState (thread [(4, 0x12), (5, 2), (6, 3)]) l
    plain (s {}) [4] [] = true ∧ (s {}).kernel (s {}).me.slot = some barKernel ∧ 128 ≤ recField barKernel.launch 162 1 ∧
      (tget {} (after (.barset 4) (s {})).myCore.leaves 2).mask = 1 ∧
      (tget {} (after (.barset 4) (s { mask := 2, arrived := 2, latched := true })).myCore.leaves 2).joining = 1 ∧
      (tget {} (after (.barset 5) (s { mask := 1 })).myCore.leaves 2).mask = 0 ∧ (after (.barset 6) (s {})).me.latch.trap = 8 := by
  decide +kernel

theorem test_barrier_steps :
    let w (x : Wait) (tr : List ATrap) := barState { thread [] with st := .wait, wait := x, traps := tr } { mask := 1 }
    let r : State := barState { thread [] with st := .wait, wait := .barw 2 true, bars := (Vector.replicate 16 .none).set! 2 .waiting }
      { mask := 1, arrived := 1, latched := true, rt := 9, came := true }
    ((w (.barw 2 false) []).core 0).settled 0 = true ∧ (after (.barrierArrivalLatched 0 0) (w (.barw 2 false) [])).me.wait = .barw 2 true ∧
      (after (.barrierArrivalLatched 0 0) (w (.release 3 2) [])).me.regs.pc = 0x100004 ∧
      (after (.barrierArrivalLatched 0 0) (w (.barw 2 false) [{ kind := 7, cause := 1, addr := 4 }])).me.latch.trap = 7 ∧
      r.phys 0 = some 0 ∧ r.liveKernel 0 = some barKernel ∧ r.barCores barKernel 2 (barKernel.barInst 2 0) = [0] ∧
      (after (.barrierRelease 2 0) r).me.st = .inRot ∧ (after (.barrierRelease 2 0) r).me.crs.ptime = 9 ∧
      (after (.barrierRelease 2 0) r).me.regs.pc = 0x100004 ∧ (tget {} (after (.barrierRelease 2 0) r).myCore.leaves 2).arrived = 0 ∧
      (after (.barrierRelease 2 0) r).kernel 0 = some (barKernel.nextPhase 2 (barKernel.barInst 2 0)) := by decide +kernel

/-! ### The matrix side -/

/-- A descriptor: bases at 0x40 and 0x80, K = 32, a direct tile of 1 × 1 (R187). -/
def descNat (mctl : Nat) (k : Nat := 32) : Nat := 0x40 + 0x80 * 2 ^ 64 + k * 2 ^ 288 + mctl * 2 ^ 344 + 2 ^ 368 + 2 ^ 376

def mmaState (mctl : Nat) (g : List (Nat × Nat) := [(6, 0x200)]) (k : Nat := 32) : State :=
  { st (thread g) { direct := mwrite [] 0x200 64 (descNat mctl k) } with kernels := [(0, oneLevel)] }

theorem test_mma : let s := mmaState 0
    plain s [0, 6] [] = true ∧ s.me.latch.kind ≠ .reissue ∧ (s.gr 6).toNat % 64 = 0 ∧
      goodMma (s.early s.cur.core) 0 2 2 (levels s) true (blockAt s 0x200) 0 ∧ ¬ 128 ≤ fld (blockAt s 0x200) 42 1 ∧
      goodBases 2 2 (blockAt s 0x200) ∧ (after (.mma 0 0 6 2 2) s).me.wait = .matrix ∧
      (after (.mma 0 0 6 2 2) s).myCore.mx.ops.length = 1 ∧ (after (.mma 0 0 6 2 2) s).me.crs.mprog = mprogWord 0 0 1 0 := by
  refine ⟨by decide +kernel, by decide +kernel, by decide +kernel, by unfold goodMma; and_intros <;> first | decide +kernel | exact fun h => absurd h (by decide +kernel),
    by decide +kernel, by unfold goodBases; decide +kernel, by decide +kernel⟩

-- the descriptor names the other accumulator; K = 33; an unlisted pair; a drain with no program bound (R199)
theorem test_mma_refused :
    (after (.mma 0 0 6 2 2) (mmaState 4)).me.latch.trap = 11 ∧ (after (.mma 0 0 6 2 2) (mmaState 0 [(6, 0x200)] 33)).me.latch.trap = 11 ∧
      (after (.mma 0 0 6 2 3) (mmaState 0)).me.latch.trap = 11 ∧ (after (.mma 0 0 6 2 2) (mmaState 0 [(6, 0x208)])).me.latch.trap = 2 ∧
      (after (.mma 0 0 6 2 2) (mmaState (2 ^ 344 * 0))).me.latch.cause = 0 ∧
      ((after (.mma 0 0 6 2 2) (mmaState 4)).me.latch.cause, (after (.mma 0 0 6 2 2) (mmaState 0 [(6, 0x200)] 33)).me.latch.cause,
        (after (.mma 0 0 6 2 3) (mmaState 0)).me.latch.cause) = (2, 3, 4) := by decide +kernel

-- a shape record of level 0 with MROWS 2, MCOLS 3, MBATCH 1 (R188, R202)
theorem test_mgeo :
    let s := { st { thread [(4, 0x200), (5, 0x208)] with flat := 0 } { direct := bytes [(0x20A, 2, 2), (0x20C, 2, 3), (0x20E, 2, 1)] } with kernels := [(0, oneLevel)] }
    plain s [4] [] = true ∧ (s.gr 4).toNat % 64 = 0 ∧ goodShape (levels s) (blockAt s 0x200) ∧ (after (.mgeo 4) s).me.crs.geom = 0 ∧
      (after (.mgeo 4) s).me.regs.pc = 0x100004 ∧ (after (.mgeo 5) s).me.latch.trap = 2 := by
  refine ⟨by decide +kernel, by decide +kernel, by unfold goodShape; decide +kernel, by decide +kernel⟩

theorem test_banks :
    let c : Core := { mx := { acc0 := 5, acc1 := 7 } }
    let s := st (thread [(4, 0x40)]) c
    let w (op : Nat) (run : Bool) : State :=
      st { thread [] with st := .wait, wait := .matrix } { c with mx := { c.mx with banks := [⟨0, 0, op, 0x40, 0, run, if run then List.range 511 else []⟩] } }
    freeBank s.myCore.mx 0 ∧ (after (.mzero 0) s).myCore.mx.acc0 = 0 ∧ (after (.mzero 0) s).myCore.mx.acc1 = 7 ∧
      plain s [4] [] = true ∧ (after (.msave 0 4) s).myCore.mx.banks = [⟨0, 0, 1, 0x40, 0, true, []⟩] ∧
      matrixWait (w 0 false) 0 0 ∧ (after (.bankOpTake 0 0) (w 0 false)).myCore.mx.acc0 = 0 ∧
      (after (.bankOpTake 0 0) (w 0 false)).me.regs.pc = 0x100004 ∧ (after (.bankOpTake 0 0) (w 1 false)).myCore.mx.banks = [⟨0, 0, 1, 0x40, 0, true, []⟩] ∧
      (after (.bankTransferComplete ⟨0, []⟩ 0) (w 1 true)).me.regs.pc = 0x100004 ∧ (after (.bankTransferComplete ⟨0, []⟩ 0) (w 2 true)).me.st = .inRot ∧
      (after (.bankTransferComplete ⟨0, [511]⟩ 0) (w 2 true)).me.st = .wait := by
  intro c s w
  and_intros <;> decide +kernel

-- a program of one END word; a table of 128 bytes bound; a copy of 8 bytes to offset 4 (R208-R210)
theorem test_drain_slots :
    let c : Core := { direct := bytes [(0x100, 4, 0xFC000000), (0x200, 8, 0x1122334455667788)] }
    let s := st (thread [(4, 0x100), (5, 128), (6, 0x200), (7, 0x80004), (8, 0x102), (9, 6148)]) c
    plain s [4] [] = true ∧ mread s.myCore.direct 0x100 4 / 2 ^ 26 = 63 ∧ (after (.dload 3 4) s).myCore.mx.slots = [(3, { prog := some [0xFC000000] })] ∧
      (after (.dload 3 6) s).me.latch.cause = 16 ∧ (after (.dload 3 8) s).me.latch.trap = 2 ∧ (after (.dbind 3 5) s).me.latch.cause = 17 ∧
      ((after (.dbind 3 5) (after (.dload 3 4) s)).myCore.mx.slots) = [(3, { prog := some [0xFC000000], tlen := some 128 })] ∧
      (after (.dbind 3 9) (after (.dload 3 4) s)).me.latch.cause = 18 ∧ plain s [6, 7] [] = true ∧
      (after (.dloadT 6 7) s).myCore.mx.tabs = [⟨0, 0x200, 8, 4, 0, false, []⟩] ∧ (after (.dloadT 6 9) s).me.latch.cause = 19 := by decide +kernel

theorem test_table_copies :
    let s (run : Bool) : State := st { thread [] with st := .wait, wait := .matrix } { direct := bytes [(0x200, 8, 0x1122334455667788)], mx := { tabs := [⟨0, 0x200, 8, 4, 0, run, []⟩] } }
    ((s false).core 0).mx.tabs.find? (fun y => y.thr == 0 && !y.run) = some ⟨0, 0x200, 8, 4, 0, false, []⟩ ∧
      (after (.dloadTCopyStart 0 0) (s false)).myCore.mx.tabs = [⟨0, 0x200, 8, 4, 0, true, []⟩] ∧ matrixWait (s true) 0 0 ∧
      (after (.dloadTCopyComplete ⟨0, []⟩ 0) (s true)).myCore.mx.table.toNat / 256 ^ 4 % 256 ^ 8 = 0x1122334455667788 ∧
      (after (.dloadTCopyComplete ⟨0, []⟩ 0) (s true)).me.regs.pc = 0x100004 := by
  refine ⟨by decide +kernel, by decide +kernel, ⟨by decide, by decide +kernel⟩, by decide +kernel⟩

/-- An operation of one row and one column whose operands lie in direct storage: row 0 of A all 1.0, column 0 of B all 2.0 (bf16). -/
def opDesc : BitVec 512 := BitVec.ofNat 512 (0x400 + 0x800 * 2 ^ 64 + 64 * 2 ^ 192 + 2 * 2 ^ 224 + 32 * 2 ^ 288 + 2 ^ 368 + 2 ^ 376)
def op (s : MopSt) : Mop := { thr := 0, st := s, bank := 0, desc := opDesc, shape := 0, direct := true, geom := 0, fa := 2, fb := 2, prog := [], tlen := 0 }
def ones (a v : Nat) : List (Nat × Nat × Nat) := (List.range 32).map fun i => (a + 2 * i, 2, v)
def opState (o : Mop) : State :=
  st { thread [] with st := .wait, wait := .matrix } { direct := bytes (ones 0x400 0x3F80 ++ ones 0x800 0x4000), mx := { ops := [o], acc0 := 9, acc1 := 4 } }

theorem test_operation_admission : let s := opState (op .queued)
    (s.core 0).mx.ops.find? (s.core 0).mx.admissible = some (op .queued) ∧
      (after (.mmaAdmission 0) s).myCore.mx.ops.map Mop.st = [.accumulating] ∧ (after (.mmaAdmission 0) s).myCore.mx.acc0 = 0 ∧
      (after (.mmaAdmission 0) s).me.crs.mprog = mprogWord 1 0 2 0 := by decide +kernel

-- 32 products of 1.0 and 2.0 added to an accumulator of zero: 64.0 (R58)
theorem test_chunk : let s := after (.mmaAdmission 0) (opState (op .queued))
    let o := (s.myCore.mx.ops[0]?).getD (op .queued)
    let y := (o.reads 0).foldl (fun y r => y.read 0 o.thr o.ord [] r.1 (locKey r.1 r.2) r.2) ({ s := s, got := o.got } : Piece)
    y.trap.isNone = true ∧ y.left = false ∧ (op .queued).rows = [0] ∧ (op .queued).cols = [0] ∧
      bankAt ((after (.chunkAccumulate ⟨0, []⟩) s).myCore.mx.acc0) 0 0 = 0x42800000 ∧
      bankAt ((after (.chunkAccumulate ⟨0, []⟩) s).myCore.mx.acc0) 0 1 = 0 ∧
      (after (.chunkAccumulate ⟨0, []⟩) s).myCore.mx.ops.map Mop.st = [.complete] := by decide +kernel

-- a location that the step leaves to a later one is not read yet (R195): the chunk is not added, what was read is kept
theorem test_chunk_part : let s := after (.mmaAdmission 0) (opState (op .queued))
    let k := ((((op .queued).reads 0).map fun r => locKey r.1 r.2)[3]?).getD 0
    (after (.chunkAccumulate ⟨0, [k]⟩) s).myCore.mx.ops.map Mop.kdone = [0] ∧
      ((after (.chunkAccumulate ⟨0, [k]⟩) s).myCore.mx.ops.map fun o => o.got.isEmpty) = [false] ∧
      bankAt ((after (.chunkAccumulate ⟨0, []⟩) (after (.chunkAccumulate ⟨0, [k]⟩) s)).myCore.mx.acc0) 0 0 = 0x42800000 := by decide +kernel

theorem test_operation_complete : let s := opState (op .complete)
    matrixWait s 0 0 ∧ (op .complete).discard = false ∧ (after (.matrixOperationComplete 0 0) s).me.regs.pc = 0x100004 ∧
      (after (.matrixOperationComplete 0 0) s).myCore.mx.ops = [] ∧ (after (.matrixOperationComplete 0 0) s).myCore.mx.acc0 = 9 := by
  refine ⟨⟨by decide, by decide +kernel⟩, by decide +kernel⟩

theorem test_drain_grant : let o : Mop := { op .draining with drn := some 3 }
    o.drn.isSome = true ∧ (opState o).myCore.mx.tableBusy o = false ∧ (after (.drainGrant 0) (opState o)).myCore.mx.ops.map Mop.unit = [true] ∧
      (after (.drainGrant 0) (opState o)).me.crs.mprog = mprogWord 1 0 3 0 := by decide +kernel

/-! ### The drain unit -/

/-- The operation above with outputs from 0x100 on and source elements from 0x200 on, served by the drain unit. -/
def drainOp : Mop :=
  { op .draining with unit := true, desc := opDesc + BitVec.ofNat 512 (0x100 * 2 ^ 128 + 0x40 * 2 ^ 256 + 0x200 * 2 ^ 384 + 0x40 * 2 ^ 448) }

/-- Lane 0 of `d0` holds 1.5, of `d1` written at position 0 holds -2.0, of scratch 1 3.0; the row stands at position 6. -/
def drainRow : DRow :=
  { m := 0, pos := 6, d0 := 0x3FC00000, wr := [⟨0, 1, 0xC0000000⟩], rs := [(0, 1, 0x40400000)] }

def drainState (rows : List DRow := [drainRow]) (buf : List DRow := []) (dbg : Bool := false) : State :=
  { st { thread [] with st := .wait, wait := .matrix }
      { direct := bytes [(0x200, 2, 0x4000)], mx := { ops := [{ drainOp with dbg := dbg }], drain := { rows := rows, buf := buf }, table := 0x40A00000 } } with
    focus := .drain 0 }

/-- The first row of the pipe. -/
def row0 (u : State) : Option DRow := u.myCore.mx.drain.rows[0]?

/-- Lane 0 of the latest register write of the row. -/
def lane0 (u : State) : Option (Nat × Nat × Nat) :=
  (row0 u).bind fun r => r.wr.getLast?.map fun w => (w.pos, w.reg, w.vals.toNat % 2 ^ 32)

theorem test_drain_arithmetic :
    inPipe drainState drainOp drainRow [0, 1, 2] [1] ∧ drainOp.cols = [0] ∧ drainOp.rows = [0] ∧
      (drain1.map fun row => lane0 (after (row.1 3 1) drainState)) =
        [0x40000000, 0x40000000, 0xBF000000, 0x7FC00000, 0x3E800000, 0x7FC00000, 0xC0000000].map (fun v => some (6, 3, v)) ∧
      (drain2.map fun row => lane0 (after (row.1 3 0 1) drainState)) =
        [0xBF000000, 0x40600000, 0xC0400000, 0x3FC00000, 0xC0000000].map (fun v => some (6, 3, v)) ∧
      (drain3.map fun row => lane0 (after (row.1 3 0 1 2) drainState)) = [0xC0400000, 0x00000000, 0xC0000000].map (fun v => some (6, 3, v)) ∧
      lane0 (after (.drainCmp .lt 3 1 0) drainState) = some (6, 3, 0x3F800000) := by
  refine ⟨⟨⟨by decide +kernel, by decide +kernel⟩, by decide +kernel⟩, by decide +kernel⟩

theorem test_drain_moves :
    lane0 (after (.drainLdi 3 0x4110) drainState) = some (6, 3, 0x41100000) ∧ lane0 (after (.drainLdc 3 0) drainState) = some (6, 3, 0x40A00000) ∧
      lane0 (after (.drainLdr 3 0) drainState) = some (6, 3, 0x40A00000) ∧ lane0 (after (.drainRget 3 1) drainState) = some (6, 3, 0x40400000) ∧
      lane0 (after (.drainLds 3 .bf16) drainState) = some (6, 3, 0x40000000) ∧
      (let y := [(0, (0x200 : Word))].foldl (ldsLane 0 drainOp 2 []) ({ s := drainState, got := [] } : Piece)
       y.trap.isNone = true ∧ y.left = false ∧ locElem y.got 0 2 0x200 = 0x4000) ∧
      row0 (after .drainNop drainState) = some { drainRow with pos := 7, ran := true } ∧
      (after .drainEnd drainState).myCore.mx.drain.rows = [] ∧ (after .drainEnd drainState).myCore.mx.drain.buf = [drainRow] := by
  decide +kernel

-- inactive lanes count as -0.0 and as minus infinity (R220)
theorem test_drain_reductions :
    ((row0 (after (.drainRredSum 2 0) drainState)).bind fun r => r.rs.getLast?) = some (6, 2, 0x3FC00000) ∧
      ((row0 (after (.drainRredMax 2 1) drainState)).bind fun r => r.rs.getLast?) = some (6, 2, 0xC0000000) := by decide +kernel

-- in debug mode a read two positions after its write takes DRAIN HAZARD (R214); at three it does not
theorem test_drain_hazard : let s (n : Nat) : State := drainState [{ drainRow with pos := n }] [] true
    (s 2).myCore.mx.unitOp = some { drainOp with dbg := true } ∧
      ((row0 (after (.drainAdd 3 0 1) (s 2))).bind fun r => r.fault) = some ⟨0, 2, 0, 12, 0, 0⟩ ∧
      ((row0 (after (.drainAdd 3 0 1) (s 3))).bind fun r => r.fault) = none := by decide +kernel

theorem test_drain_stores :
    let u (i : Instr) : State := after i drainState
    let bad (va : Word) : DStore := ⟨6, 0, va, 4, 0⟩
    placeable drainState ⟨6, 0, 0x100, 2, 0x3FC0⟩ ∧ ¬ placeable drainState (bad 0x102) ∧ ¬ placeable drainState (bad 0x100000000000000) ∧
      (row0 (u (.drainSt 0 .bf16))).map DRow.out = some [⟨6, 0, 0x100, 2, 0x3FC0⟩] ∧
      (row0 (u (.drainSt 1 .i8))).map DRow.out = some [⟨6, 0, 0x100, 1, 0xFE⟩] ∧
      ((row0 (u (.drainStq 0 0))).map fun r => (r.out.map fun d => (d.va, d.w)).take 2) = some [(0x100, 1), (0x101, 1)] ∧
      ((row0 (u (.drainStq 0 0))).map fun r => r.out.length) = some 17 := by
  refine ⟨by unfold placeable; decide +kernel, by unfold placeable; decide +kernel, by unfold placeable; decide +kernel, by decide +kernel⟩

-- a store to an address that is no multiple of its width stops the row there (R225)
theorem test_drain_store_fault :
    let o : Mop := { drainOp with desc := drainOp.desc + BitVec.ofNat 512 (2 ^ 128) }
    let s : State := drainState.modCore 0 fun c => { c with mx := { c.mx with ops := [o] } }
    ((row0 (after (.drainSt 0 .bf16) s)).bind DRow.fault).map (fun f => (f.kind, f.pos, f.addr)) = some (2, 6, 0x101) := by decide +kernel

def outRow : DRow := { drainRow with out := [⟨6, 0, 0x100, 2, 0x3FC0⟩] }

-- a cycle begins and row 0 enters; the row that has run waits; a full store buffer stalls the pipe (R212, R215, R224)
theorem test_drain_admits :
    let full : State := drainState [] [drainRow, drainRow, drainRow, drainRow]
    let ranRow : DRow := { drainRow with ran := true }
    drainOp.rowFrom 0 = 0 ∧ (drainState.core 0).moveTo = none ∧ (drainState.core 0).mx.ops.find? (fun y => y.unit) = some drainOp ∧
      (row0 (after (.drainRowAdmit ⟨0, true, []⟩) (drainState []))).map (fun r => (r.m, r.pos)) = some (0, 0) ∧
      (after (.drainRowAdmit ⟨0, true, []⟩) (drainState [])).focus = .drain 0 ∧ after (.drainRowAdmit ⟨0, true, []⟩) full = full ∧
      (row0 (after (.drainRowAdmit ⟨0, false, []⟩) (drainState [ranRow]))).map DRow.ran = some false ∧
      (after (.drainRowAdmit ⟨0, true, [5]⟩) drainState).myCore.mx.drain.leave = [5] := by decide +kernel

theorem test_drain_commits :
    let s := drainState [] [outRow]
    let y := placeStores s 0 0 drainOp outRow.out
    y.trap.isNone = true ∧ y.left = false ∧ mread (after (.drainRowCommit 0) s).myCore.direct 0x100 2 = 0x3FC0 ∧
      (after (.drainRowCommit 0) s).myCore.mx.drain.buf = [] ∧ ((after (.drainRowCommit 0) s).myCore.mx.ops.map Mop.next) = [32] := by
  decide +kernel

theorem test_drain_fault_reported :
    let faulty : DRow := { drainRow with fault := some ⟨0, 6, 0, 2, 0, 0x101⟩ }
    let s := drainState [faulty] []
    let u := after (.drainFaultReport 0) s
    (s.core 0).mx.drain.rows.find? (fun r => r.m == drainOp.next && r.fault.isSome) = some faulty ∧ matrixWait s 0 0 ∧
      u.me.latch.trap = 2 ∧ u.me.latch.addr = 0x101 ∧ u.myCore.mx.ops.map Mop.st = [.parked] ∧ u.myCore.mx.drain.rows = [] := by
  refine ⟨by decide +kernel, ⟨by decide, by decide +kernel⟩, by decide +kernel⟩

theorem test_drain_store_poison :
    let o : Mop := { drainOp with stores := [⟨0, 0x40000000100, 2, 5, .line 7 0 0x100⟩, ⟨0, 0x40000000102, 2, 5, .line 7 2 0x100⟩] }
    let s : State := { drainState [] with cores := [(0, { threads := [(0, { thread [] with st := .wait, wait := .matrix })], mx := { ops := [o] } })], poison := [7] }
    (after (.drainStorePoison 0 0) s).me.traps.map (fun a => (a.kind, a.addr)) = [(13, 0x40000000100)] ∧
      (after (.drainStorePoison 0 0) s).myCore.mx.ops.map Mop.stores = [[]] := by decide +kernel

/-! ### Copies -/

/-- A descriptor at 0x200: 16 bytes from 0x400 to 0x500 of direct storage, with an AUX word (R267). -/
def copyMem (aux : Nat := 0) (e0 : Nat := 16) (name : Nat := 0) : Memory :=
  bytes [(0x200, 8, 0x400), (0x208, 8, 0x500), (0x210, 4, e0), (0x214, 4, 1), (0x218, 4, 1), (0x21C, 4, 1), (0x238, 8, aux),
    (0x240, 8, name), (0x248, 8, if name = 0 then 0 else (ctl 0 2 0 0).toNat), (0x400, 8, 0x1111), (0x408, 8, 0x2222)]

def copyState (m : Memory) (j : Tab JEntry := []) : State :=
  { st (thread [(4, 0x200), (5, 0x210), (6, 0xFFC0)]) { direct := m, slot := some 0, journal := j } with kernels := [(0, oneLevel)] }

def copyDesc (m : Memory) : BitVec 1024 := BitVec.ofNat 1024 (mread m 0x200 128)

theorem test_copy_issue : let s := copyState copyMem
    let e : State := copyState (copyMem 0 16 (3 * 2 ^ 60 + 5))
    plain s [4] [3] = true ∧ plain s [4] [0] = true ∧ (s.gr 4).toNat % 64 = 0 ∧ (s.gr 5).toNat % 64 ≠ 0 ∧
      goodCopy (levels s) 0 false 3 (copyDesc copyMem) ∧ goodCopy (levels e) 0 true 0 (copyDesc (copyMem 0 16 (3 * 2 ^ 60 + 5))) ∧
      ¬ goodCopy (levels s) 0 false 3 (copyDesc (copyMem 1)) ∧ firstFree s.myCore 0 ∧
      (tget {} (after (.cpy 3 4) s).myCore.journal 0).busy = true ∧ (after (.cpy 3 4) s).me.pend = 8 ∧
      (tget {} (after (.cpyEv 4) e).myCore.journal 0).busy = true ∧ (after (.cpyEv 4) e).me.pend = 0 ∧
      (after (.cpy 3 5) s).me.latch.trap = 2 ∧ (after (.cpy 3 6) s).me.latch.trap = 0 := by
  intro s e
  and_intros <;> first
    | decide +kernel
    | exact fun h => absurd (h.1 rfl) (by decide +kernel)
    | exact fun h => absurd h (by decide)
    | exact fun _ => ⟨by decide +kernel, by unfold goodAlt; decide +kernel, by decide +kernel⟩

-- the causes of R278; a full journal; each indexed form with ITYPE 0 and a row stride; a token register 28
theorem test_copy_refused :
    let d (i : Instr) (m : Memory) : Nat × Nat := ((after i (copyState m)).me.latch.trap, (after i (copyState m)).me.latch.cause)
    d (.cpy 3 4) (copyMem 1) = (4, 32) ∧ d (.cpy 28 4) copyMem = (4, 34) ∧ d (.cpy 3 4) (copyMem 0 12) = (2, 35) ∧
      d (.cpyEv 4) (copyMem 0 16 5) = (8, 36) ∧ d (.cpyEv 4) (copyMem 0 16 (3 * 2 ^ 60 + 5)) = (0, 0) ∧ d (.gath 3 4) copyMem = (0, 0) ∧
      d (.scat 3 4) (copyMem 2) = (2, 35) ∧ d (.fill 3 4) (copyMem 9) = (0, 0) ∧
      (∀ j < 16, (tget {} (copyState copyMem fullJournal).myCore.journal j).busy = true) ∧
      (after (.cpy 3 4) (copyState copyMem fullJournal)).me.wait = .journal := by decide +kernel

/-- A copy request of the descriptor above. -/
def copyReq (form : Nat) (e0 : Nat := 16) (ev : Bool := false) : CopyReq :=
  { form := form, ev := ev, desc := copyDesc (copyMem (if form = 0 then 0 else 9) e0), daddr := 0x200, pc := 0x100000, d := 3, gtn := 0, ctx := 0, slot := 0 }

/-- Its journal entry, in the thread that has issued it at `ptime` 7. -/
def requestState (k : JKind) (older : Bool := false) : State :=
  { st { thread [] with pend := 8, crs := { ptime := 7 } }
      { jord := 2, journal := [(0, { busy := true, thr := 0, ord := 1, p := 7, kind := k })] ++
          if older then [(1, { busy := true, thr := 0, ord := 0 })] else [] } with kernels := [(0, oneLevel)] }

theorem test_requests_leave :
    let launch : LaunchReq := { launch := 0, gtn := 0, ctx := 0, slot := 0, kid := 0 }
    let s (k : JKind) := requestState k
    ((s (.copy (copyReq 0))).core 0).settledBefore 0 1 = true ∧ ((requestState (.copy (copyReq 0)) true).core 0).settledBefore 0 1 = false ∧
      notUnderWay (s (.copy (copyReq 0))) 0 0 ∧ (copyReq 0).e0 ≠ 0 ∧ (copyReq 0).total ≠ 0 ∧
      leavingRt (s (.copy (copyReq 0))) 0 (tget {} ((s (.copy (copyReq 0))).core 0).journal 0) = 7 ∧
      (after (.copyRequestLeaves 0 0) (requestState (.copy (copyReq 0)) true)).net.length = 0 ∧
      (after (.copyRequestLeaves 0 0) (s (.launch launch))).launches = [{ launch with rt := 7 }] ∧
      ((after (.copyRequestLeaves 0 0) (s (.launch launch))).core 0).journal.map (fun e => e.2.busy) = [false] := by
  refine ⟨by decide +kernel, by decide +kernel, ?_, by decide +kernel⟩
  intro m hm
  simp [requestState, st] at hm

/-- One message that has arrived. -/
def mail (src dst : Endp) (b : Body) : List Msg := [{ cls := .request, src := src, dst := dst, pos := 0, site := 0, body := b }]

theorem test_retriever :
    let r := copyReq 0
    let s (n : Nat) : State := { requestState (.copy r) with net := mail (.core 0) (.retr 0) (.copyReq r 0 0), retrs := [(0, ⟨List.replicate n r, []⟩)] }
    let run (n : Nat) : State := { requestState .store with retrs := [(0, ⟨[r], List.replicate n { req := r }⟩)] }
    reaches (s 0) 0 (.core 0) (.retr 0) (.copyReq r 0 0) ∧ reaches (s 64) 0 (.core 0) (.retr 0) (.copyReq r 0 0) ∧
      ((after (.copyRequestAccept 0) (s 0)).retr 0).queue = [r] ∧ (after (.copyRequestAccept 0) (s 0)).net = [] ∧
      (tget {} ((after (.copyRequestAccept 0) (s 0)).core 0).journal 0).busy = false ∧ (after (.copyRequestAccept 0) (s 64)).net.length = 1 ∧
      ((run 3).retr 0).queue ≠ [] ∧ ((run 3).retr 0).active.length < 4 ∧ 4 ≤ ((run 4).retr 0).active.length := by
  exact ⟨reaches_of (by decide +kernel), reaches_of (by decide +kernel), by decide +kernel⟩

def running (form : Nat) : State :=
  { st (thread []) { direct := copyMem, slot := some 0 } with kernels := [(0, oneLevel)], retrs := [(0, ⟨[], [{ req := copyReq form }]⟩)] }

-- 16 bytes: two units read and two writes sent to the core's port (R251, R268)
theorem test_copy_element : let s := running 0
    let src := (copyReq 0).units ((copyReq 0).rows 0 0).2
    let dst := (copyReq 0).units ((copyReq 0).rows 0 0).1
    (s.retr 0).active[0]? = some { req := copyReq 0 } ∧ (copyReq 0).total = 1 ∧ s.reseeding 0 = false ∧ src = [0x400, 0x408] ∧ dst = [0x500, 0x508] ∧
      (match s.readRow 0 0 (copyReq 0) 8 0 src [] [] with
        | .ok s₂ got left => tget 0 got 0 == 0x1111 && tget 0 got 1 == 0x2222 && !left && s₂.retr 0 == s.retr 0 &&
          match rowPlaces (fun s va => s.copyPlace 0 0 (copyReq 0) needSt va 8) dst s₂ with
          | .ok pls => pls == [.direct 0x500, .direct 0x508]
          | _ => false
        | _ => false) = true ∧
      (after (.copyElement 0 ⟨0, []⟩) s).net.map (fun m => match m.body with | .port off w data _ _ _ _ => (off, w, data) | _ => (0, 0, 0)) =
        [(0x500, 8, 0x1111), (0x508, 8, 0x2222)] ∧
      ((after (.copyElement 0 ⟨0, []⟩) s).retr 0).active.map (fun y => (y.next, y.settling, y.open'.length)) = [(1, true, 2)] ∧
      (after (.copyElement 0 ⟨0, []⟩) (running 3)).net.map (fun m => match m.body with | .port off w data _ _ _ _ => (off, w, data) | _ => (0, 0, 0)) =
        [(0x500, 8, 9), (0x508, 8, 9)] := by decide +kernel

-- one unit of the row read now and the other left to a later step (R255, R275)
theorem test_copy_element_in_parts : let s := running 0
    let src := (copyReq 0).units ((copyReq 0).rows 0 0).2
    (match s.readRow 0 0 (copyReq 0) 8 0 src [1] [] with
      | .ok s₂ got left => got == [(0, 0x1111)] && left && s₂.retr 0 == s.retr 0
      | _ => false) = true ∧
      ((after (.copyElement 0 ⟨0, [1]⟩) s).retr 0).active.map (fun y => (y.next, y.settling, y.got)) = [(0, false, [(0, 0x1111)])] := by
  decide +kernel

-- `gath` reads its index first; an index that is at no address stops the copy at step 0 (R274)
theorem test_copy_index_fault :
    let m : Memory := bytes [(0x208, 8, 0x500), (0x210, 4, 16), (0x214, 4, 1), (0x218, 4, 1), (0x21C, 4, 1), (0x238, 8, 2 ^ 56)]
    let r  : CopyReq := { copyReq 1 with desc := BitVec.ofNat 1024 (mread m 0x200 128) }
    let s : State := { running 0 with retrs := [(0, ⟨[], [{ req := r }]⟩)] }
    (match s.readRow 0 0 r 4 indexUnit [2 ^ 56] [] [] with
      | .fault s₁ k a => k == 1 && a == 2 ^ 56 && s₁.retr 0 == s.retr 0
      | _ => false) = true ∧
      ((after (.copyElement 0 ⟨0, []⟩) s).retr 0).active.map CopyRun.fault = [some (0, 0, 1, 2 ^ 56)] := by decide +kernel

theorem test_copy_ends :
    let s (f : Option (Nat × Nat × Nat × Word)) (ev : Bool) : State :=
      { running 0 with retrs := [(0, ⟨[], [{ req := copyReq 0 16 ev, next := 1, wts := 9, fault := f, settling := true }]⟩)] }
    ((s none false).retr 0).active[0]? = some { req := copyReq 0, next := 1, wts := 9, settling := true } ∧
      (after (.copySettled 0 0) (s none false)).net.map Msg.body = [.token 0 3 1 9 0 110 0] ∧
      (after (.copySettled 0 0) (s (some (0, 2, 5, 0)) false)).net.map Msg.body = [.token 0 3 0xC100000000000000 9 0 110 0] ∧
      (after (.copySettled 0 0) (s none true)).net.map (fun m => match m.body with | .offer o => (o.data, o.rt) | _ => (0, 0)) = [(1 + 2 ^ 64, 9)] ∧
      (((after (.copySettled 0 0) (s (some (0, 2, 5, 0)) false)).ctx 0).recs.length = 1) := by decide +kernel

theorem test_zero_extent : let s (ev : Bool) := requestState (.copy (copyReq 0 0 ev))
    (copyReq 0 0).e0 = 0 ∧ ((s false).core 0).settledBefore 0 1 = true ∧ (after (.zeroExtentCompletion 0 0) (s false)).me.pend = 0 ∧
      (after (.zeroExtentCompletion 0 0) (s false)).me.regs.g[3] = 0 ∧ (after (.zeroExtentCompletion 0 0) (s false)).me.crs.ptime = 7 ∧
      (after (.zeroExtentCompletion 0 0) (s true)).net.map (fun m => match m.body with | .offer o => (o.data, o.rt) | _ => (1, 1)) = [(0, 7)] := by
  decide +kernel

theorem test_token_write :
    let s (d : Nat) (w : Wait) : State :=
      { st { thread [] with pend := 8, st := if w = .none then .inRot else .wait, wait := w } with net := mail (.retr 0) (.core 0) (.token 0 d 77 9 0 110 0) }
    ((s 3 .none).arrived 0).map Msg.body = some (.token 0 3 77 9 0 110 0) ∧ (s 3 .none).partyAt ⟨0, 0, 0⟩ 0 = some (0, 0) ∧
      (after (.tokenWrite 0) (s 0 .none)).net = [] ∧ (after (.tokenWrite 0) (s 3 .none)).me.regs.g[3] = 77 ∧
      (after (.tokenWrite 0) (s 3 (.token 3))).me.st = .inRot ∧ (after (.tokenWrite 0) (s 3 (.token 3))).me.pend = 0 ∧
      (after (.tokenWrite 0) (s 3 (.token 3))).me.toks = [(3, 9)] ∧ (after (.tokenWrite 0) (s 3 (.token 4))).me.wait = .token 4 := by decide +kernel

/-! ### Lines, stores at their receivers, replies -/

/-- A unit of 8 bytes at offset 8 of the line. -/
def unit8 (data : Nat := 0) (lane : Nat := 0) : Elem := ⟨lane, 0x100008, 8, data, .line line 8 0x100008⟩

/-- A thread in the load wait. -/
def loading (r : Req) : Thread :=
  { thread [] with st := .wait, wait := .load r, crs := { ptime := 10, lease := 5 }, latch := { word := 0x1234, pc := 0x100000 } }

def homeAt (h : HomeLine) : Tab Stack := [(stackOf line, { homes := [(line, h)] })]

def lineState (th : Thread) (h : HomeLine) (sl : Option SliceLine := none) (c : Core := {}) : State :=
  { st th c with stks := homeAt h, dies := [(0, { st := .full, clk := 3, slices := (sl.toList.map fun x => (line, x)) })], dram := mwrite [] (line * 512 + 8) 8 77 }

-- a load at ptime 10 with lease length 5 of a line last written at 20 needs 25 (R243)
theorem test_lease_renewal : let s := lineState (loading { kind := .ld 3 .d64, todo := [unit8] }) ⟨20, 22, none⟩
    dieOf 0 = 0 ∧ wantsLease s 0 line 25 ∧ (s.home line).excl = none ∧ line ∉ s.poison ∧
      (after (.leaseRenewal 0 line 25) s).home line = ⟨20, 25, none⟩ ∧
      ((after (.leaseRenewal 0 line 25) s).slice 0 line).map (fun x => (x.wts, x.rts, x.excl)) = some (20, 25, false) ∧
      (after (.leaseRenewal 0 line 26) s).home line = ⟨20, 22, none⟩ := by
  refine ⟨by decide, ⟨_, 0, _, _, .head _, .head _, rfl, rfl, ⟨unit8, .head _, rfl⟩, by decide +kernel⟩, by decide +kernel⟩

theorem test_lines_given_up :
    let e (data : Nat := 5) : JEntry := { busy := true, thr := 0, p := 30, todo := [unit8 data] }
    let other : State :=
      { lineState (thread []) ⟨20, 22, some 1⟩ with
        cores := [(0, { threads := [(0, thread [])], journal := [(0, e)] })],
        dies := [(1, { slices := [(line, ⟨true, 40, 41, none, 0, 0, 0⟩)] })] }
    let stash : State :=
      { lineState (thread []) ⟨20, 22, some 0⟩ (some ⟨true, 20, 22, some 1, 0, 0, 0⟩) with
        cores := [(0, { threads := [(0, thread [])], journal := [(0, e)] }), (1, { ca := { stash := [⟨line, 0x100000, 50, 51, 1, 0⟩] } })] }
    let evict : State := lineState (thread []) ⟨20, 22, none⟩
    (other.home line).excl = some 1 ∧ (other.core 0).writesLine 0 line (fun q => dieOf q != 1) = true ∧ (0, other.core 0) ∈ other.cores ∧ other.slice 1 line = some ⟨true, 40, 41, none, 0, 0, 0⟩ ∧
      (after (.exclusivityRecall line) other).home line = ⟨40, 41, none⟩ ∧ (evict.home line).excl = none ∧
      (stash.core 0).writesLine 0 line (fun y => dieOf y == dieOf 1 && y != 1) = true ∧ (0, stash.core 0) ∈ stash.cores ∧
      after (.exclusivityRecall line) evict = evict ∧ (stash.core 1).stashLine line = some ⟨line, 0x100000, 50, 51, 1, 0⟩ ∧ stash.slice (dieOf 1) line = some ⟨true, 20, 22, some 1, 0, 0, 0⟩ ∧
      (after (.stashRecall 1 line) stash).slice 0 line = some ⟨true, 50, 51, none, 0, 0, 0⟩ ∧
      ((after (.stashRecall 1 line) stash).core 1).ca.stash = [] ∧
      (evict.stack (stackOf line)).homes.find? (fun e => e.1 == line) = some (line, ⟨20, 22, none⟩) ∧
      (after (.homeEviction line) evict).home line = ⟨22, 22, none⟩ := by decide +kernel

theorem test_fill_returns :
    let x : Prefetch := ⟨line, 0x100000, 30, false, 0, 0, 0x100000, none⟩
    let sl : SliceLine := ⟨false, 20, 35, none, 9, 0, 0⟩
    let s (p : List Nat) : State := { lineState (thread []) ⟨20, 35, none⟩ (some sl) { dirG := 8, ca := { pref := [x] } } with poison := p }
    ((s []).core 0).ca.pref[0]? = some x ∧ line ∉ (s []).poison ∧ line ∈ (s [line]).poison ∧ (s []).slice (dieOf 0) line = some sl ∧
      (∀ y ∈ ((s []).core 0).ca.l1, y.line ≠ line) ∧
      (after (.prefetchFillReturn 0 0) (s [])).myCore.ca.l1.map (fun y => (y.wts, y.rts, y.data)) = [(20, 35, 9)] ∧
      (after (.prefetchFillReturn 0 0) (s [])).myCore.ca.pref = [] ∧ (after (.prefetchFillReturn 0 0) (s [line])).myCore.ca.l1 = [] := by
  decide +kernel

/-- A posted store of 8 bytes, `p` 30, at a unit. -/
def posted (x : Elem) : Tab JEntry := [(0, { busy := true, thr := 0, ord := 0, p := 30, todo := [x] })]

theorem test_store_accepted :
    let s := lineState (thread []) ⟨20, 22, some 0⟩ (some ⟨true, 20, 42, none, 0, 0, 0⟩) { journal := posted (unit8 5), jord := 1 }
    let u := after (.storeAcceptance 0 ⟨0, []⟩) s
    oneLeft s 0 0 (unit8 5) ∧ line ∉ s.poison ∧ s.reseeding 0 = false ∧ s.locked 0 0x100008 = false ∧ (s.core 0).stashG = 0 ∧
      s.slice (dieOf 0) line = some ⟨true, 20, 42, none, 0, 0, 0⟩ ∧ (s.home line).excl = some (dieOf 0) ∧ (s.thread 0 0).wait ≠ .heldPosted 0 ∧
      u.dram = mwrite [] (line * 512 + 8) 8 5 ∧ (tget {} u.myCore.journal 0).busy = false ∧ u.me.crs.ptime = 43 ∧ u.me.rel = 43 ∧
      u.slice 0 line = some ⟨true, 43, 43, none, 0, 0, 0⟩ ∧
      tget 0 s.recalls (line * 128 + 72) = 0 ∧ tget 0 s.recalls (line * 128 + dieOf 0) = 0 := by
  refine ⟨by unfold oneLeft; decide +kernel, by decide +kernel⟩

/-- The example of R402: HOPS 10, WAIT 0 and HOPS 14, WAIT 3 in one accumulator. -/
theorem test_delay_added : ((({} : Core).addDelay 14 10 0).addDelay 14 14 3).dacc = [(14, 0x0000030018000002)] := by decide +kernel

/-- The example of R383: a load of stack 14's line by a core of die 13, and routes within and between clusters (R391). -/
theorem test_hops : let s : State := {}
    sliceHops 3536 + s.homeTrip 13 (14 * 48 * 4194304) = 10 ∧ s.chainHops 0 1 = 0 ∧ s.chainHops 0 16 = 2 ∧
      ({ s with lmap := [(1, some 16)] } : State).chainHops 0 1 = 1 ∧
      ({ s with lmap := [(0, some 272)] } : State).chainHops 272 1 = 6 := by decide +kernel

theorem test_store_refused :
    let s (x : Elem) (p : List Nat) : State := { st (thread []) { journal := posted x, jord := 1 } with poison := p }
    let host : Elem := { unit8 5 with place := .host 64 }
    oneLeft (s (unit8 5) [line]) 0 0 (unit8 5) ∧ oneLeft (s host []) 0 0 host ∧ (s host []).me.st ≠ .free ∧ (s host []).me.wait ≠ .heldPosted 0 ∧
      (after (.storeRefusal 0 0) (s (unit8 5) [line])).me.traps = [⟨7, 4, 0x100008, 3, 5, 0⟩] ∧
      (after (.storeRefusal 0 0) (s host [])).me.traps = [⟨7, 3, 0x100008, 3, 5, 0⟩] ∧
      (after (.storeRefusal 0 0) (s host [])).myCore.rfd = 1 ∧ (tget {} (after (.storeRefusal 0 0) (s host [])).myCore.journal 0).busy = false ∧
      (tget {} (after (.storeRefusal 0 0) (s (unit8 5) [])).myCore.journal 0).busy = true := by
  refine ⟨by unfold oneLeft; decide +kernel, by unfold oneLeft; decide +kernel, by decide +kernel⟩

-- `atom.add` of 5 to 77; `atom.cas` with another comparand writes nothing (R104, R245)
theorem test_slice_atomic :
    let r (op : Fin 8) : Req := { kind := .atom op 3 5 9 .w64 false, need := 2, todo := [unit8] }
    let s (op : Fin 8) (p : List Nat) : State :=
      { lineState (loading (r op)) ⟨20, 22, some 0⟩ (some ⟨true, 20, 42, none, 0, 0, 0⟩) with poison := p }
    let u (op : Fin 8) := after (.sliceAtomic 0 0) (s op [])
    ((s 1 []).thread 0 0).wait = .load (r 1) ∧ ((s 1 []).core 0).olderStore 0 0 unit8 = false ∧ (s 1 []).locked 0 0x100008 = false ∧
      (s 1 []).slice (dieOf 0) line = some ⟨true, 20, 42, none, 0, 0, 0⟩ ∧ atomNew 1 .w64 false 77 5 9 = some 82 ∧ atomNew 7 .w64 false 77 5 9 = none ∧
      (u 1).me.regs.g[3] = 77 ∧ (u 1).me.st = .inRot ∧ (u 1).dram = mwrite [] (line * 512 + 8) 8 82 ∧ (u 1).me.crs.ptime = 43 ∧
      (u 1).slice 0 line = some ⟨true, 43, 43, none, 0, 0, 0⟩ ∧ (u 7).me.regs.g[3] = 77 ∧ (u 7).dram = (s 7 []).dram ∧ (u 7).me.crs.ptime = 20 ∧
      compute 0 ∧ (after (.sliceAtomic 0 0) (s 1 [line])).me.latch.trap = 13 := by unfold compute; decide +kernel

theorem test_port_writes :
    let e : JEntry := { busy := true, thr := 0, p := 30, flight := [⟨0, 0x100008, 4, 5, .lwin 1 0x7FFFE⟩] }
    let w (off : Nat) (src : BitVec 32) : State :=
      { st (thread []) { journal := [(0, e)], jord := 1 } with net := mail (.core 0) (.core 0) (.port off 4 5 src 0 0 0) }
    let s (off : Nat) := w off 16
    reaches (s 0x100) 0 (.core 0) (.core 0) (.port 0x100 4 5 16 0 0 0) ∧ (s 0).phys 0 = some 0 ∧
      mread (after (.inboundPortWrite 0) (s 0x100)).myCore.direct 0x100 4 = 5 ∧ (after (.inboundPortWrite 0) (s 0x100)).myCore.racyN = 1 ∧
      (after (.inboundPortWrite 0) (w 0x100 3)).myCore.racyN = 0 ∧ mread (after (.inboundPortWrite 0) (w 0x100 3)).myCore.direct 0x100 4 = 5 ∧
      (after (.inboundPortWrite 0) (s 0x100)).myCore.racy.map Racy.addr = [0x100100] ∧
      (after (.inboundPortWrite 0) (s 0x7FFFE)).me.traps = [⟨7, 2, 0x100008, 2, 5, 0⟩] ∧
      (after (.inboundPortWrite 0) (s 0x7FFFE)).myCore.rfd = 1 := by
  refine ⟨reaches_of (by decide +kernel), by decide +kernel⟩

theorem test_load_replies :
    let s (r : Req) : State := lineState (loading r) ⟨20, 22, none⟩ (some ⟨false, 20, 25, none, BitVec.ofNat 4096 (77 <<< 64), 0, 0⟩)
    let ld : Req := { kind := .ld 3 .d64, todo := [unit8] }
    let vld : Req := { kind := .vld 3 1 .f32, todo := [{ unit8 with w := 4 }, { unit8 with lane := 1, w := 4 }], got := [(2, 6)] }
    let now (skip : List Nat) (x : Elem) : Bool := (groupAt vld.todo 0).contains x && !skip.contains x.lane
    let y (skip : List Nat) := vld.todo.foldl (Units.read 0 0 (now skip)) ({ s := (s vld).landed [] } : Units)
    (match ((s ld).landed []).readUnit 0 0 false unit8 with
      | .data s₁ v _ => v == 77 && (s₁.thread 0 0).st == .wait && (s₁.thread 0 0).popIn == none
      | _ => false) = true ∧
      (after (.loadReply 0 ⟨0, []⟩ []) (s ld)).me.regs.g[3] = 77 ∧ (after (.loadReply 0 ⟨0, []⟩ []) (s ld)).me.crs.ptime = 20 ∧
      (after (.loadReply 0 ⟨0, []⟩ []) (s ld)).me.regs.pc = 0x100004 ∧ (y []).trap.isNone = true ∧ (y []).got = [(0, 77), (1, 77)] ∧
      (y []).out = [] ∧ ((y []).s.thread 0 0).st = .wait ∧ (y [1]).trap.isNone = true ∧ (y [1]).got = [(0, 77)] ∧
      (y [1]).out = [{ unit8 with lane := 1, w := 4 }] ∧ (y [0, 1]).got = [] ∧
      (match (after (.loadReply 0 ⟨0, [1]⟩ []) (s vld)).me.wait with | .load r' => (r'.todo.map Elem.lane, r'.got) | _ => ([], [])) = ([1], [(2, 6), (0, 77)]) ∧
      lane (after (.loadReply 0 ⟨0, []⟩ []) (s vld)).me.regs.v[3] 32 0 = 77 ∧ lane (after (.loadReply 0 ⟨0, []⟩ []) (s vld)).me.regs.v[3] 32 2 = 6 ∧
      lane (after (.loadReply 0 ⟨0, []⟩ []) (s vld)).me.regs.v[3] 32 3 = 0 ∧
      (after (.loadReply 0 ⟨0, []⟩ []) { s ld with poison := [line] }).me.latch.trap = 13 ∧
      (after (.loadReply 0 ⟨0, []⟩ []) { s ld with dies := [(0, { st := .full, clk := 3 })] }).me.wait = .load ld := by decide +kernel

-- a reply that waits for its lease: nothing yet (R243); `tlbr` of an empty bank answers 0 (R312)
theorem test_tlbr_reply :
    let r : Req := { kind := .tlbr 3, todo := [⟨0, 0x100000, 8, 0, .direct 0⟩] }
    let s := st (loading r)
    (s.thread 0 0).wait = .load r ∧ (after (.loadReply 0 ⟨0, []⟩ []) s).me.st = .inRot ∧ (after (.loadReply 0 ⟨0, []⟩ []) s).me.regs.g[3] = s.bankWord 0 0x100000 := by
  decide +kernel

/-! ### Turns -/

theorem test_slot_turns :
    let s (a b : Thread) (c : Core := {}) : State :=
      { cores := [(0, { c with threads := [(0, a), (8, b)] })], dies := [(0, { st := .full, clk := 3 })] }
    let ready := thread []
    let free : Thread := {}
    ((s ready free).die 0).clk ≠ 0 ∧ turnOf (s ready free) 0 = some 0 ∧ turnOf (s ready ready) 0 = some 0 ∧ turnOf (s free free) 0 = none ∧
      turnOf (s ready ready { last := 0 }) 0 = some 8 ∧ (s ready free).atBreakpoint 0 0 = false ∧
      (after (.slotTurn 0) (s ready free)).focus = .issue 0 0 ∧ ((after (.slotTurn 0) (s ready free)).core 0).ptr = 1 ∧
      (after (.slotTurn 0) (s ready ready { last := 0 })).focus = .issue 0 8 ∧ ((after (.slotTurn 0) (s ready ready { last := 0 })).core 0).last = 1 ∧
      (after (.slotTurn 0) (s { ready with ann := 2 } free)).me.ann = 1 ∧ (after (.slotTurn 0) (s { ready with ann := 2 } free)).focus = .sched ∧
      (after (.slotTurn 0) (s { ready with traps := [⟨7, 3, 64, 3, 5, 0⟩] } free)).me.latch.trap = 7 ∧
      (after (.slotTurn 0) { s ready free with dies := [] }).focus = .sched := by decide +kernel

theorem test_self_advance :
    let s (n : Nat) : State := st { thread [] with inCyc := n, crs := { ptime := 8 } }
    (s 64).me.inCyc ≥ 2 ^ (bits (s 64).me.crs.lease 20 16 + 6) ∧ (s 63).me.inCyc < 2 ^ (bits (s 63).me.crs.lease 20 16 + 6) ∧
      (after (.ptimeSelfAdvance 0 0) (s 64)).me.crs.ptime = 9 ∧ (after (.ptimeSelfAdvance 0 0) (s 64)).me.inCyc = 0 ∧
      (after (.ptimeSelfAdvance 0 0) (s 63)).me.crs.ptime = 8 := by decide +kernel

/-! ### Managed objects -/

/-- A page of 64 KiB of a class, mapped to the same physical address with all permissions. -/
def pageAt (cls va : Nat) : Tlb := ⟨BitVec.ofNat 64 (2 ^ 63 + va / 65536), BitVec.ofNat 64 (cls * 2 ^ 61 + 7 * 2 ^ 57 + va / 65536), false⟩

/-- DRAM address of a byte of a page that is mapped so. -/
def da (a : Nat) : Nat := (ordPlace a).1 * 512 + (ordPlace a).2

/-- Region entry (R285): V, EPOCH 1, TGT 3, a forwarding table of 2 slots at 0x300800, base, limit, cursor. -/
def region (base lim cur : Nat) : BitVec 512 :=
  BitVec.ofNat 512 (2 ^ 63 + 2 ^ 58 + 3 * 2 ^ 50 + 2 ^ 45 + 0x300800 * 2 ^ 64 + base * 2 ^ 128 + lim * 2 ^ 192 + cur * 2 ^ 256)

def region2 : BitVec 512 := region 0x200000 0x201000 0
def region3 : BitVec 512 := region 0x208000 0x209000 0x208040

/-- The object at 0x200100 by a reference of an EPOCH; and its new copy in region 3 at 0x208040. -/
def ref (epoch : Nat) : Word := mkRef epoch 2 0x200100
def newRef : Word := mkRef 1 3 0x208040

/-- Regions 2 and 3 of a heap whose table stands at 0x300000; an object of 48 bytes at 0x200100; a slot's bytes. -/
def heapState (th : Thread) (slot : Nat := 0) (fm : Word := 4) (c : Core := {}) (more : List (Nat × Nat × Nat) := []) : State :=
  let pages := [pageAt 2 0x200000, pageAt 0 0x300000]
  { st th { c with slot := some 0, ca := { tlb := pages, heap := [(2, (region2, 0)), (3, (region3, 0))] } } with
    kernels := [(0, { oneLevel with heap := 0x300000, fmode := fm })], stks := [(0, { tlb := pages })],
    dram := bytes ([(da 0x200100, 4, 48), (da 0x300800, 16, slot), (da 0x3000C0, 64, region2.toNat), (da 0x300100, 64, region3.toNat)] ++ more) }

/-- A thread whose `h4` holds a reference. -/
def holder (v : Word) (g : List (Nat × Nat) := []) : Thread :=
  { thread g with regs := { (thread g).regs with h := (Vector.replicate 8 0).set 4 v } }

def lookIs {α : Type} (x : Look α) (f : State → α → Bool) : Bool :=
  match x with
  | .ok s v => f s v
  | _ => false

def lookTraps {α : Type} (x : Look α) (t : Trap) : Bool :=
  match x with
  | .trap _ u => u == t
  | _ => false

-- slot states EMPTY, MOVING, MOVED to another object, MOVED in place, reserved (R287, R288)
theorem test_read_barrier :
    let moving := 2 ^ 62 + 0x200100
    let moved := 2 ^ 63 + 0x200100 + newRef.toNat * 2 ^ 64
    let inPlace := 2 ^ 63 + 0x200100 + (ref 0).toNat * 2 ^ 64
    let s (x : Nat) := heapState (thread []) x
    (s 0).myCore.ca.heap.find? (fun x => x.1 == bits (ref 1) 55 48) = some (2, (region2, 0)) ∧ objAt (ref 1) = 0x200100 ∧
      slotAddr region2 0x200100 0 = 0x300800 ∧ [0, moving, moved, 2 ^ 62 * 3].map slotState = [0, 1, 2, 3] ∧
      slotFor moving = 0x200100 ∧ slotFor moved = 0x200100 ∧ slotRef moved = newRef ∧
      lookIs ((owing (s moved) 0).hload false 0x300800 16) (fun _ x => x == moved) = true ∧
      lookTraps ((s 0).barrier 0) (.access 0) = true ∧ lookIs ((s 0).barrier (ref 1)) (fun t r => t == s 0 && r == (ref 1, .plain)) = true ∧
      lookIs ((s 0).barrier (ref 0)) (fun _ r => r == (ref 1, .healed)) = true ∧ lookIs ((s moving).barrier (ref 0)) (fun _ r => r == (ref 0, .moving)) = true ∧
      lookIs ((s moved).barrier (ref 0)) (fun _ r => r == (newRef, .healed)) = true ∧
      lookIs ((s inPlace).barrier (ref 0)) (fun _ r => r == (ref 1, .healed)) = true ∧
      lookTraps ((s (3 * 2 ^ 62)).barrier (ref 0)) (.access 0x300800) = true := by decide +kernel

theorem test_field_loads :
    let s := heapState (holder (ref 1))
    let root := heapState (holder (ref 1)) 0 4 {} [(da 0x300000, 8, 0x308000), (da 0x300008, 4, 64)]
    plain s [] [3] = true ∧
      lookIs (s.heapBase 4 16 4 false) (fun s₁ b => b.ea == 0x200110 && b.ref == ref 1 && b.bar == .plain && lookIs (s₁.heapPlace 4 b.ea 4) fun _ _ => true) = true ∧
      lookTraps (s.heapBase 4 48 4 false) (.access 0x200130) = true ∧ lookTraps (s.heapBase 4 2 4 false) (.align 2) = true ∧
      lookIs (root.heapBase 0 16 8 false) (fun s₁ b => b.ref == 0 && lookTraps (s₁.heapPlace 6 b.ea 8) (.class' b.ea) == false) = true ∧
      ((after (.hld 3 4 .i32 16) s).me.st, (after (.hld 3 4 .i32 48) s).me.latch.trap) = (.wait, 4) ∧
      (after (.hldr 3 4 16) s).me.st = .wait := by decide +kernel

theorem test_finish_hldr :
    let u : Elem := ⟨0, 0x200110, 8, 0, .line (ordPlace 0x200110).1 (ordPlace 0x200110).2 0x200110⟩
    let th : Thread := { holder (ref 1) with st := .wait, wait := .load { kind := .hldr 3 4 false, need := 4, todo := [u] } }
    let s := heapState th
    let h3 (v : Word) : Option Word := (s.finishHldr 0 0 3 false u v).map fun w => (w.thread 0 0).regs.h[3]
    (s.thread 0 0).st = .wait ∧ (s.thread 0 0).popIn = none ∧ h3 0 = some 0 ∧ h3 (ref 1) = some (ref 1) ∧ h3 (ref 0) = some (ref 1) ∧
      lookIs ((s.take 0 0).barrier (ref 1)) (fun s₁ r => r == (ref 1, .plain) && (s₁.thread 0 0).st == .wait && s₁.cur == (s.take 0 0).cur) = true ∧
      ((s.finishHldr 0 0 3 false u (ref 0)).map fun w => (tget {} (w.core 0).journal 0).kind) = some (.heal (ref 0) (ref 1)) := by decide +kernel

theorem test_field_stores :
    let s (x : Nat := 0) (v : Word := ref 1) := heapState (holder v [(5, 0x1122334455667788)]) x
    let u : Elem := ⟨0, 0x200110, 4, 0, .line (ordPlace 0x200110).1 (ordPlace 0x200110).2 0x200110⟩
    plain s [5] [] = true ∧
      lookIs (s.heapBase 4 16 4 true) (fun s₁ b => b.bar == .plain && b.ref == ref 1 && s₁.cur == s.cur && s₁.me.regs == s.me.regs &&
        lookIs (s₁.heapPlace 5 b.ea 4) fun s₂ y => y == u && s₂.cur == s.cur) = true ∧ u.isLwin = false ∧ firstFree s.myCore 0 ∧
      bits (BitVec.ofNat 64 region2.toNat : Word) 62 62 = 0 ∧
      (tget {} (after (.hst 5 4 .i32 16) s).myCore.journal 0).todo = [{ u with data := 0x55667788 }] ∧
      (tget {} (after (.hstr 4 4 16) s).myCore.journal 0).todo = [{ u with w := 8, data := (ref 1).toNat }] ∧
      (after (.hst 5 4 .i32 16) (s (2 ^ 62 + 0x200100) (ref 0))).me.wait = .held 4 ∧
      (after (.hstr 4 4 16) (s (2 ^ 62 + 0x200100) (ref 0))).me.wait = .held 4 ∧
      (after (.hst 5 4 .i32 8) s).me.latch.trap = 4 := by
  refine ⟨by decide +kernel, by decide +kernel, by decide +kernel, by unfold firstFree; decide +kernel, by decide +kernel⟩

/-- A thread's allocation buffer at 0x100: cursor, limit, region (R301). -/
def buffer (cur lim : Nat) : Memory := bytes [(0x100, 8, cur), (0x108, 8, lim), (0x110, 1, 2)]

theorem test_hnew :
    let s (cur lim : Nat) (size : Nat := 32) := heapState (thread [(4, size), (5, 0x100), (6, 0x110), (7, 0x7FFF0)]) 0 4 { direct := buffer cur lim }
    let ok := s 0x200200 0x201000
    (∀ i < 4, onLine ok (needOf 5) (BitVec.ofNat 64 (0x200200 + 8 * i)) 8 (ordPlace 0x200200).1 ((ordPlace 0x200200).2 + 8 * i) (0x200200 + 8 * i)) ∧
      firstFree ok.myCore 0 ∧ plain ok [4, 5] [] = true ∧ (ok.gr 5).toNat % 32 = 0 ∧ (ok.gr 6).toNat % 32 ≠ 0 ∧
      mread ok.myCore.direct 0x111 15 = 0 ∧ ok.myCore.ca.heap.find? (fun x => x.1 == mread ok.myCore.direct 0x110 1) = some (2, (region2, 0)) ∧
      (after (.hnew 3 4 5) ok).hr 3 = mkRef 1 2 0x200200 ∧ mread (after (.hnew 3 4 5) ok).myCore.direct 0x100 8 = 0x200220 ∧
      (tget {} (after (.hnew 3 4 5) ok).myCore.journal 0).todo.map Elem.data = [32, 0, 0, 0] ∧ (after (.hnew 3 4 5) ok).me.regs.pc = 0x100004 ∧
      (after (.hnew 3 4 5) (s 0x200200 0x200210)).hr 3 = 0 ∧ (after (.hnew 3 4 6) ok).me.latch.trap = 2 ∧
      (after (.hnew 3 4 5) (s 0x200200 0x201000 24)).me.latch.trap = 4 := by
  refine ⟨fun i hi => ?_, by unfold firstFree; decide +kernel, by decide +kernel⟩
  unfold onLine
  refine ⟨?_, ?_, ?_, pageAt 2 0x200000, ?_⟩ <;> interval_cases i <;> decide +kernel

theorem test_pins :
    let s (x : Nat := 0) (v : Word := ref 1) := heapState (holder v) x
    passes s (s.hr 4) (owing s 0) ∧ onLine s (needOf 8) 0x200108 4 (ordPlace 0x200108).1 (ordPlace 0x200108).2 0x200108 ∧ firstFree s.myCore 0 ∧
      plain s [] [3] = true ∧ lookIs (s.barrier (s.hr 4)) (fun s₁ r => s₁ == owing s 0 && s₁.me.regs == s.me.regs && r == (ref 1, .plain)) = true ∧
      lookIs (s.heapPlace 8 0x200108 4) (fun s₂ u => s₂ == s && !u.isLwin) = true ∧
      (after (.hpin 3 4) s).me.st = .wait ∧ (tget {} (after (.hunpin 4) s).myCore.journal 0).kind = .unpin ∧
      (after (.hunpin 4) (s (2 ^ 62 + 0x200100) (ref 0))).me.wait = .pin 0 4 0 true := by
  refine ⟨⟨by decide +kernel, region2, 0, ⟨2, by decide +kernel⟩, by decide +kernel, by decide +kernel, rfl⟩, ?_, by unfold firstFree; decide +kernel, by decide +kernel⟩
  unfold onLine
  exact ⟨by decide, by decide, by decide, pageAt 2 0x200000, by decide +kernel⟩

-- PIN incremented: no slot stands for the object, and its slot is MOVING (R295)
theorem test_finish_hpin :
    let s (x : Nat) := heapState { holder (ref 1) with st := .wait, wait := .load { kind := .hpin 3 4, need := 8, todo := [] } } x
    let look (x : Nat) := probe true region2 0x200100 2 0 (owing ((s x).take 0 0) 0)
    let t (x : Nat) : State := (s x).take 0 0
    (t 0).myCore.ca.heap.find? (fun x => x.1 == bits ((t 0).hr 4) 55 48) = some (2, (region2, 0)) ∧
      bits (BitVec.ofNat 64 region2.toNat : Word) 49 45 = 1 ∧
      lookIs (look 0) (fun s₁ y => y == none && s₁.cur == (t 0).cur && (s₁.thread 0 0).st == .wait && (s₁.thread 0 0).popIn == none) = true ∧
      lookIs (look (2 ^ 62 + 0x200100)) (fun s₁ y => y == some (2 ^ 62 + 0x200100) && s₁.cur == (t 0).cur && (s₁.thread 0 0).st == .wait) = true ∧
      (((s 0).finishHpin 0 0 3 4 0x200100).map fun w => ((w.thread 0 0).st, (w.thread 0 0).regs.g[3])) = some (.inRot, 0x200100) ∧
      (((s (2 ^ 62 + 0x200100)).finishHpin 0 0 3 4 0x200100).map fun w => (w.thread 0 0).wait) = some (.pin 3 4 0x200100 false) := by
  decide +kernel

theorem test_references :
    let s := heapState { holder (ref 1) with regs := { (holder (ref 1)).regs with h := ((Vector.replicate 8 0).set 4 (ref 1)).set 5 newRef } }
    passes s (s.hr 4) (owing s 0) ∧ passes (owing s 0) (s.hr 5) (owing (owing s 0) 0) ∧ firstFree s.myCore 0 ∧
      (after (.hmov 3 4) s).hr 3 = ref 1 ∧ (after (.hget 3 4) s).gr 3 = ref 1 ∧ (after (.hcmp 3 4 5) s).gr 3 = 0 ∧ (after (.hcmp 3 4 4) s).gr 3 = 1 ∧
      (after (.hcmp 3 1 2) s).gr 3 = 1 ∧ plain s [] [3] = true ∧ lookIs (s.barrier (s.hr 5)) (fun s₁ r => s₁ == owing s 0 && r == (newRef, .plain)) = true ∧
      (after (.htag 3 1) s).me.latch.trap = 4 ∧ (after (.htag 3 4) s).me.pend = 8 ∧
      (match (tget {} (after (.htag 3 4) s).myCore.journal 0).kind with | .htag r => r.ref == ref 1 | _ => false) = true := by
  exact ⟨⟨by decide +kernel, region2, 0, ⟨2, by decide +kernel⟩, by decide +kernel, by decide +kernel, rfl⟩,
    ⟨by decide +kernel, region3, 0, ⟨3, by decide +kernel⟩, by decide +kernel, by decide +kernel, rfl⟩,
    by unfold firstFree; decide +kernel, by decide +kernel⟩

/-! ### Relocation -/

def relReq : RelReq := { ref := ref 1, d := 3, gtn := 0, ctx := 0, slot := 0, pc := 0x100000 }

/-- A Collie with this queue and request in work. -/
def collie (q : List RelReq) (cur : Option (RelReq × RelSt × Nat)) (s : State) : State :=
  { s with stks := [(0, { s.stack 0 with collie := { queue := q, cur := cur } })] }

def relMail (s : State) : State := { s with net := mail (.core 0) (.collie 0) (.relReq relReq 0 0) }

-- the request goes to the Collie of the stack that holds the object (R291)
theorem test_htag_leaves :
    let s := heapState (thread []) 0 4 { jord := 2, journal := [(0, { busy := true, thr := 0, ord := 1, p := 7, kind := .htag relReq })] }
    (s.core 0).settledBefore 0 1 = true ∧ s.tlb1 0 0x200100 = some (pageAt 2 0x200000) ∧
      (pageAt 2 0x200000).place (bits (ref 1) 47 4 * 16) = .line (ordPlace 0x200100).1 (ordPlace 0x200100).2 0x200100 ∧ s.net = [] ∧
      (after (.copyRequestLeaves 0 0) s).net.map Msg.dst = [.collie (stackOf (ordPlace 0x200100).1)] := by decide +kernel

theorem test_relocation_accept :
    let s := relMail (heapState (thread []))
    let full := collie (List.replicate 64 relReq) none s
    let busy := collie [] (some (relReq, .host 7, 0)) s
    let one := collie [relReq] none (heapState (thread []))
    reaches s 0 (.core 0) (.collie 0) (.relReq relReq 0 0) ∧ (full.stack 0).collie.queue.length = 64 ∧
      (after (.relocationRequestAccept 0) full).net.length = 1 ∧ ((after (.relocationRequestAccept 0) busy).stack 0).collie.queue = [relReq] ∧
      (busy.stack 0).collie.cur ≠ none ∧ (one.stack 0).collie.cur = none ∧ (one.stack 0).collie.queue = [relReq] ∧
      (match (one.setCollie 0 { (one.stack 0).collie with queue := [] }).relBegin 0 relReq with
        | .go _ => true
        | _ => false) = true := by
  refine ⟨reaches_of (by decide +kernel), by decide +kernel⟩

-- steps 1 to 3: the slot is claimed, EPOCH passes from 1 to 2, and the core that runs the context is told (R291)
theorem test_relocation_begin :
    let s := collie [] none (heapState (thread []))
    let bad : State := { collie [relReq] none (heapState (thread [])) with poison := [(ordPlace 0x3000C0).1] }
    (match s.relBegin 0 relReq with
      | .go s₁ => (s₁.stack 0).collie.cur == some (relReq, .acks [0] 2, 0x300800) && mread s₁.dram (da 0x300800) 8 == 2 ^ 62 + 0x200100 &&
          mread s₁.dram (da 0x3000C0) 8 / 2 ^ 58 % 16 == 2 && s₁.net.length == 1
      | _ => false) = true ∧
      (match (bad.setCollie 0 { (bad.stack 0).collie with queue := [] }).relBegin 0 relReq with
      | .fault s₁ k _ none => k == 4 && !s₁.hostReloc relReq
      | _ => false) = true := by decide +kernel

theorem test_epoch_broadcast :
    let s (j : Tab JEntry) (c : Nat := 0) : State :=
      { collie [] (some (relReq, .acks [0] 2, 0x300800)) (heapState (thread []) 0 4 { journal := j }) with net := mail (.collie 0) (.core 0) (.epoch c 2 (region2 + 2 ^ 58) 0 5) }
    let open' : Tab JEntry := [(0, { busy := true, thr := 0, kind := .ref, todo := [⟨0, 0x200110, 8, 0, .direct 0⟩] })]
    reaches (s []) 0 (.collie 0) (.core 0) (.epoch 0 2 (region2 + 2 ^ 58) 0 5) ∧ ((s []).core 0).regionSettled 0x200000 0x201000 = true ∧
      ((s open').core 0).regionSettled 0x200000 0x201000 = false ∧ (after (.epochBroadcastArrival 0) (s open')).net.length = 1 ∧
      (after (.epochBroadcastArrival 0) (s [])).myCore.ca.heap = [(2, (region2 + 2 ^ 58, 5)), (3, (region3, 0))] ∧
      ((after (.epochBroadcastArrival 0) (s [])).stack 0).collie.cur = some (relReq, .acks [] 2, 0x300800) ∧
      ((after (.epochBroadcastArrival 0) (s [] 5)).stack 0).collie.cur = some (relReq, .acks [] 2, 0x300800) ∧
      (after (.epochBroadcastArrival 0) (s [] 5)).myCore.ca.heap = [(2, (region2, 0)), (3, (region3, 0))] := by
  refine ⟨reaches_of (by decide +kernel), by decide +kernel⟩

-- steps 4 to 6: 48 bytes copied to the cursor of region 3, at once or with a unit left to a later read; a pinned object is skipped
theorem test_relocation_copy :
    let s (pin : Nat) := collie [] (some (relReq, .acks [] 2, 0x300800)) (heapState (thread []) (2 ^ 62 + 0x200100) 4 {} [(da 0x200110, 8, 0xABCD), (da 0x200108, 4, pin)])
    let cur (s : State) := (s.stack 0).collie.cur
    (match (s 0).relTake 0 relReq 0x300800 2 with
      | .go s₁ => cur s₁ == some (relReq, .taking 2 newRef 48 [], 0x300800) && mread s₁.dram (da 0x300120) 8 == 0x208070 &&
          match s₁.relCopy 0 relReq 0x300800 2 newRef 48 [] [] with
          | .go s₂ => cur s₂ == some (relReq, .copying 2 newRef, 0x300800) && mread s₂.dram (da 0x208040) 4 == 48 &&
              mread s₂.dram (da 0x208050) 8 == 0xABCD
          | _ => false
      | _ => false) = true ∧
      cur (after (.collieEpochAcksDone ⟨0, []⟩) (s 0)) = some (relReq, .copying 2 newRef, 0x300800) ∧
      (match cur (after (.collieEpochAcksDone ⟨0, [2]⟩) (s 0)) with
        | some (_, .taking 2 _ 48 got, _) => got.map Prod.fst == [0, 1, 3, 4, 5]
        | _ => false) = true ∧
      cur (after (.collieEpochAcksDone ⟨0, []⟩) (after (.collieEpochAcksDone ⟨0, [2]⟩) (s 0))) = some (relReq, .copying 2 newRef, 0x300800) ∧
      cur (after (.collieEpochAcksDone ⟨0, []⟩) (s 1)) = none := by decide +kernel

theorem test_relocation_ends :
    let s (p : List Nat) (fm : Word := 4) : State :=
      { collie [] (some (relReq, .copying 2 newRef, 0x300800)) (heapState (thread []) (2 ^ 62 + 0x200100) fm) with poison := p }
    let host := collie [] (some (relReq, .host 7, 0)) (heapState (thread []))
    let tok (u : State) : List Word := u.net.map fun m => match m.body with | .token _ _ v _ _ _ _ => v | _ => 0
    let st (u : State) := (u.stack 0).collie.cur
    (match (s []).colWrite 0 relReq 0x300800 16 (2 ^ 63 + 0x200100 + newRef.toNat * 2 ^ 64) with | .ok s₁ _ => !s₁.hostReloc relReq | _ => false) = true ∧
      (match (s [] 0x14).colWrite 0 relReq 0x300800 16 (2 ^ 63 + 0x200100 + newRef.toNat * 2 ^ 64) with | .ok s₁ _ => s₁.hostReloc relReq | _ => false) = true ∧
      tok (after (.collieCopyDone 0) (s [])) = [newRef] ∧ st (after (.collieCopyDone 0) (s [])) = none ∧
      st (after (.collieCopyDone 0) (s [] 0x14)) = some (relReq, .host newRef, 0) ∧
      mread (after (.collieCopyDone 0) (s [])).dram (da 0x300800) 16 = 2 ^ 63 + 0x200100 + newRef.toNat * 2 ^ 64 ∧
      (match (s [(ordPlace 0x300800).1]).colWrite 0 relReq 0x300800 16 (2 ^ 63 + 0x200100 + newRef.toNat * 2 ^ 64) with
        | .fault s₁ k _ => k == 4 && !s₁.hostReloc relReq
        | _ => false) = true ∧
      tok (after (.collieFault 0) (s [(ordPlace 0x300800).1])) = [BitVec.ofNat 64 (2 ^ 63 + 4 * 2 ^ 56) + (ref 1) % 2 ^ 56] ∧
      tok (after (.hostRelocationDone 0 7) host) = [7] ∧ st (after (.hostRelocationDone 0 7) host) = none ∧
      after (.hostRelocationDone 0 8) host = host := by decide +kernel

theorem test_held_store_retry :
    let th (w : Wait) : Thread := { holder (ref 0) [(5, 9)] with st := .wait, wait := w, latch := { word := BitVec.ofNat 32 (encodeNat (.hst 5 4 .i32 16)) } }
    let moved := 2 ^ 63 + 0x200100 + newRef.toNat * 2 ^ 64
    let s (w : Wait) := heapState (th w) moved 4 {} [(da 0x208040, 4, 48)]
    let still (w : Wait) := collie [] (some (relReq, .host 7, 0)) (s w)
    let u := after (.heldStoreRetry 0 0) (s (.held 4))
    firstFree ((s (.held 4)).core 0) 0 ∧ (s (.held 4)).relocating 0 0x200100 = false ∧
      (still (.held 4)).relocating ((still (.held 4)).core 0).ctx (objAt ((still (.held 4)).thread 0 0).regs.h[4]) = true ∧
      decodeWord (th (.held 4)).latch.word = some (.hst 5 4 .i32 16) ∧
      (match hstBody 5 4 .i32 16 (.held 4) ((s (.held 4)).take 0 0) with | .done _ => true | _ => false) = true ∧
      (after (.heldStoreRetry 0 0) (still (.held 4))).me.wait = .held 4 ∧ u.me.wait = .heldPosted 0 ∧ u.me.regs.h[4] = newRef ∧
      (tget {} u.myCore.journal 0).todo.map Elem.va = [0x208050] ∧
      (match hunpinBody 4 (.pin 0 4 0 true) ((s (.pin 0 4 0 true)).take 0 0) with | .done _ => true | _ => false) = true ∧
      (match hpinBody 3 4 0x208040 (.pin 3 4 0x208040 false) ((s (.pin 3 4 0x208040 false)).take 0 0) with | .done _ => true | _ => false) = true := by
  exact ⟨by unfold firstFree; decide +kernel, by decide +kernel⟩

/-- A Collie reaches bytes of a mapped page, as a check. -/
theorem at_collie {s : State} {n va w : Nat} {r : RelReq} (h : s.poison.contains (ordPlace va).1 = false)
    (h' : (s.home (ordPlace va).1).excl = none ∧ s.locked r.ctx (BitVec.ofNat 64 va) = false)
    (h'' : ([needLd, needAtom, needSt].all fun nd => match s.colPlace n r nd w (BitVec.ofNat 64 va) with
      | .ok pl => pl == .line (ordPlace va).1 (ordPlace va).2 va
      | _ => false) = true) : atCollie s n r va w (da va) := by
  refine ⟨_, _, va, rfl, by simpa using h, h'.1, h'.2, fun nd hn => ?_⟩
  have := List.all_eq_true.1 h'' nd hn
  split at this
  · next e => rw [e, eq_of_beq this]
  · exact absurd this Bool.false_ne_true

-- the places that the steps of a relocation read and write (R285, R287, R291): header, entries of regions 2 and 3, slot, object, copy
theorem test_collie_reaches :
    let s := collie [relReq] none (heapState (thread []))
    (s.relTable relReq, objAt relReq.ref, bits relReq.ref 55 48) = (0x300000, 0x200100, 2) ∧
      slotAddr (BitVec.ofNat 512 (mread s.dram (da 0x3000C0) 64)) 0x200100 0 = 0x300800 ∧ s.hostReloc relReq = false ∧
      s.strayRefs relReq.ctx = false ∧ atCollie s 0 relReq 0x200100 16 (da 0x200100) ∧ atCollie s 0 relReq 0x200108 4 (da 0x200108) ∧
      atCollie s 0 relReq 0x200100 4 (da 0x200100) ∧ atCollie s 0 relReq 0x3000C0 64 (da 0x3000C0) ∧ atCollie s 0 relReq 0x3000C0 8 (da 0x3000C0) ∧
      atCollie s 0 relReq 0x300100 64 (da 0x300100) ∧ atCollie s 0 relReq 0x300120 8 (da 0x300120) ∧
      atCollie s 0 relReq 0x300800 16 (da 0x300800) ∧ atCollie s 0 relReq 0x300800 8 (da 0x300800) ∧
      ∀ i < 6, atCollie s 0 relReq (0x200100 + 8 * i) 8 (da (0x200100 + 8 * i)) ∧ atCollie s 0 relReq (0x208040 + 8 * i) 8 (da (0x208040 + 8 * i)) := by
  refine ⟨by decide +kernel, by decide +kernel, by decide +kernel, by decide +kernel, ?_⟩
  and_intros
  on_goal 10 => intro i hi; interval_cases i <;> constructor
  all_goals exact at_collie (by decide +kernel) (by decide +kernel) (by decide +kernel)

-- a pinned or already MOVED object is skipped with its code; PIN's line poisoned, a slot's page not mapped (R291, R294)
theorem test_relocation_steps :
    let tok (u : State) : List Word := u.net.filterMap fun m => match m.body with | .token _ _ v _ _ _ _ => some v | _ => none
    let start (slot fx : Nat) := after (.relocationRequestAccept (2 ^ 20)) (collie [relReq] none (heapState (thread []) slot 4 {} [(da 0x200106, 1, fx)]))
    let inPlace := 2 ^ 63 + 0x200100 + (mkRef 2 2 0x200100).toNat * 2 ^ 64
    let take (pin lim : Nat) (p : List Nat := []) : State :=
      let s := heapState (thread []) (2 ^ 62 + 0x200100) 4 {} [(da 0x200108, 4, pin), (da 0x300118, 8, lim)]
      collie [] (some (relReq, .acks [] 2, 0x300800)) { s with poison := p }
    let gone (st : RelSt) : State :=
      { heapState (thread []) with
          stks := [(0, { tlb := [], collie := { cur := some (relReq, st, 0x300800) } })],
          misses := [{ who := .collie 0 0, ctx := 0, va := 0x300800, acc := 4, cluster := 0, none' := true }] }
    let headless : State :=
      { heapState (thread []) with
          stks := [(0, { tlb := [pageAt 0 0x300000], collie := { queue := [relReq] } })],
          misses := [{ who := .collie 0 0, ctx := 0, va := 0x200100, acc := 1, cluster := 0, none' := true }] }
    let slotIs (u : State) := mread u.dram (da 0x300800) 16
    tok (start 0 1) = [skipWord relReq 2] ∧ tok (start (2 ^ 62 + 0x200100) 0) = [skipWord relReq 3] ∧
      (start 0 0).net.map (fun m => (m.src, m.dst)) = [(.collie 0, .core 0)] ∧ mread (start 0 0).dram (da 0x3000C0) 8 / 2 ^ 58 % 16 = 2 ∧
      tok (after (.collieEpochAcksDone ⟨0, []⟩) (take 1 0x209000)) = [skipWord relReq 1] ∧
      slotIs (after (.collieEpochAcksDone ⟨0, []⟩) (take 1 0x209000)) = inPlace ∧
      tok (after (.collieEpochAcksDone ⟨0, []⟩) (take 0 0x208060)) = [skipWord relReq 4] ∧
      mread (after (.collieEpochAcksDone ⟨0, [0, 1, 2, 3, 4, 5]⟩) (take 0 0x209000)).dram (da 0x300120) 8 = 0x208070 ∧
      tok (after (.collieFault 0) (take 0 0x209000 [(ordPlace 0x200108).1])) = [faultWord relReq 4] ∧
      slotIs (after (.collieFault 0) (take 0 0x209000 [(ordPlace 0x200108).1])) = inPlace ∧
      ((after (.collieFault 0) (gone (.copying 2 newRef))).stack 0).collie.cur = some (relReq, .inPlace 2 (faultWord relReq 2), 0x300800) ∧
      tok (after (.collieFault 0) headless) = [faultWord relReq 2] ∧
      tok (after (.collieCopyDone 0) (collie [] (some (relReq, .inPlace 2 (faultWord relReq 2), 0x300800)) (heapState (thread [])))) = [faultWord relReq 2] := by
  decide +kernel

-- an entry that the core does not hold is read at its first use, and kept (R286)
theorem test_region_first_use :
    let s := heapState (thread [])
    let none' : State := { s with cores := s.cores.map fun e => (e.1, { e.2 with ca := { e.2.ca with heap := [] } }) }
    none'.heapTable = some 0x300000 ∧ lookIs ((owing none' (none'.epochTime 0 2)).hload false 0x3000C0 64) (fun _ x => x == region2.toNat) = true ∧
      lookIs (none'.region 2) (fun u e => e == region2 && (u.core 0).ca.heap.map Prod.fst == [2]) = true := by decide +kernel

-- a healed field value is written back by an entry of its own; with no entry free it waits; a pin follows a moved object (R289, R295)
theorem test_heals :
    let u : Elem := ⟨0, 0x200110, 8, 0, .line (ordPlace 0x200110).1 (ordPlace 0x200110).2 0x200110⟩
    let th : Thread := { holder (ref 1) with st := .wait, wait := .load { kind := .hldr 3 4 false, need := 4, todo := [u] } }
    let s := heapState th
    let full : State := { s with cores := s.cores.map fun e => (e.1, { e.2 with journal := fullJournal }) }
    let moved := 2 ^ 63 + 0x200100 + newRef.toNat * 2 ^ 64
    let pin := heapState { holder (ref 1) with st := .wait, wait := .load { kind := .hpin 3 4, need := 8, todo := [] } } moved
    lookIs ((s.take 0 0).barrier (ref 0)) (fun s₁ r => r == (ref 1, .healed) && (s₁.thread 0 0).st == .wait && (s₁.thread 0 0).popIn == none &&
        s₁.cur == (s.take 0 0).cur) = true ∧ ref 1 ≠ ref 0 ∧ u.isLwin = false ∧ firstFree (s.core 0) 0 ∧
      (full.finishHldr 0 0 3 false u (ref 0)).isNone = true ∧
      ((s.finishHldr 0 0 3 false u (ref 0)).map fun w => (tget {} (w.core 0).journal 0).todo) = some [u] ∧
      slotState moved ≠ 1 ∧ ¬ (bits (slotRef moved) 55 48 = bits (ref 1) 55 48 ∧ objAt (slotRef moved) = 0x200100) ∧
      ((pin.finishHpin 0 0 3 4 0x200100).map fun w => match (w.thread 0 0).wait with
        | .load r => r.todo.map Elem.va
        | _ => []) = some [0x208048] := by
  refine ⟨by decide +kernel, by decide +kernel, by decide +kernel, by unfold firstFree; decide +kernel, by decide +kernel⟩

/-! ### Ranks and tasks -/

/-- Two levels of 2 and 4 threads in one core (R348). -/
def twoLevels : Kernel := kernel 4 (BitVec.ofNat 2048 (2 * 2 ^ 160 + 2 * 2 ^ 768 + 4 * 2 ^ 832 + 2 ^ 864))

theorem test_ranks : let s : State := { st { thread [] with flat := 5 } with kernels := [(0, twoLevels)] }
    plain s [] [3] = true ∧ compute s.cur.core ∧ s.kernel s.me.slot = some twoLevels ∧ ((after (.rank 3 0) s).gr 3, (after (.rank 3 1) s).gr 3) = (1, 2) ∧
      ((after (.size 3 0) s).gr 3, (after (.size 3 1) s).gr 3, (after (.size 3 2) s).gr 3) = (2, 4, 1) ∧ (after (.rank 3 2) s).gr 3 = 0 ∧
      ¬ compute 19584 ∧ plain (fw (thread [])) [] [3] = true ∧ (after (.size 3 0) (fw (thread []))).gr 3 = 16 := by unfold compute; decide +kernel

/-- A spawn block at 0x200: continuation, join pair, AFF, four registers (R367). -/
def spawnMem (cpc aff jn jc : Nat) : Memory :=
  bytes [(0x200, 8, cpc), (0x208, 8, jn), (0x210, 8, jc), (0x218, 8, aff), (0x220, 8, 11), (0x238, 8, 14)]

/-- An event of class 4 at level 0 with a CTL of one party out of two. -/
def joinName : Nat := 4 * 2 ^ 60 + 7
def joinCtl : Nat := (ctl 0 2 1 0).toNat

def spawnState (m : Memory) (c : Core := {}) (tgt : Nat := 0x300000) : State :=
  { st { thread [(4, 0x200), (5, tgt), (6, 0x220), (7, 0x7FFE0)] with jn := 3, jc := 4 } { c with direct := m, slot := some 0 } with kernels := [(0, oneLevel)] }

def frame (aff : Word := 127) (pend : Option (Nat × Nat × Nat) := none) : Frame :=
  { cpc := 0x400000, jn := 1, jc := 2, aff := aff, g := [11, 12, 13, 14], rt := 9, pend := pend }

theorem test_spawn :
    let s := spawnState (spawnMem 0x400000 127 joinName joinCtl)
    let strict := spawnState (spawnMem 0x400000 (2 ^ 63 + 1) 0 0)
    let t (s : State) (b : GReg := 4) : Nat × Nat := ((after (.spawn b 5) s).me.latch.trap, (after (.spawn b 5) s).me.latch.cause)
    plain s [4, 5] [] = true ∧ goodAff 127 ∧ goodAff (2 ^ 63 + 1) ∧ ¬ goodAff 128 ∧ goodJoin s (BitVec.ofNat 64 joinName) (BitVec.ofNat 64 joinCtl) ∧
      goodJoin strict 0 0 ∧ ¬ goodJoin s 0 1 ∧ s.logDie 0 = 0 ∧ (s.myCore.settled 0 = true) ∧ noStack s 0 ∧
      (after (.spawn 4 5) s).me.regs.pc = 0x300000 ∧ (after (.spawn 4 5) s).me.jn = BitVec.ofNat 64 joinName ∧
      (after (.spawn 4 5) s).myCore.deque = [⟨0x400000, 3, 4, 127, [11, 0, 0, 14], 0, none⟩] ∧
      t s 6 = (2, 0) ∧ t s 7 = (2, 0) ∧ t (spawnState [] {} 0x300002) = (2, 0) ∧ t (spawnState (spawnMem 0x400002 127 0 0)) = (2, 0) ∧
      t (spawnState (spawnMem 0x400000 128 0 0)) = (4, 82) ∧ t (spawnState (spawnMem 0x400000 127 0 1)) = (8, 0) ∧
      t (spawnState (spawnMem 0x400000 127 0 0) { deque := List.replicate 64 (frame) }) = (4, 80) ∧ (after (.spawn 4 5) strict).me.st = .wait := by
  refine ⟨by decide +kernel, by unfold goodAff; decide +kernel, by unfold goodAff; decide +kernel, by unfold goodAff; decide +kernel, ?_,
    Or.inl ⟨rfl, rfl⟩, ?_, by decide +kernel, by decide +kernel, ?_, by decide +kernel⟩
  · refine Or.inr ?_
    and_intros <;> decide +kernel
  · rintro (⟨_, h⟩ | ⟨h, _⟩) <;> exact absurd h (by decide +kernel)
  · intro slot k h hk
    obtain rfl : 0 = slot := Option.some.inj h
    obtain rfl : oneLevel = k := Option.some.inj hk
    decide +kernel

/-- A spill ring: the kernel's stack base is 0x410000, so that core 0's 64 KiB stand at 0x400000. -/
def stackKernel : Kernel := kernel 4 (BitVec.ofNat 2048 (2 ^ 160 + 2 * 2 ^ 768 + 0x410000 * 2 ^ 448))

theorem test_spawn_spills :
    let s : State := { spawnState (spawnMem 0x400000 127 0 0) { deque := List.replicate 63 (frame) ++ [frame 5] } with
      kernels := [(0, stackKernel)], stks := [(0, { tlb := [pageAt 0 0x400000] })] }
    s.myCore.deque = List.replicate 63 (frame) ++ [frame 5] ∧ s.stkb 0 ≠ 0 ∧ s.myCore.spill.length < 1024 ∧
      (match s.ringWrite 0 [(0, (frame 5).bytes)] with | .ok _ _ => true | _ => false) = true ∧ (after (.spawn 4 5) s).me.regs.pc = 0x300000 ∧
      (after (.spawn 4 5) s).myCore.deque.length = 64 ∧ (after (.spawn 4 5) s).myCore.spill = [(9, none)] ∧
      mread (after (.spawn 4 5) s).dram (da 0x400018) 8 = 5 ∧
      (match ({ s with stks := [] } : State).ringWrite 0 [(0, (frame 5).bytes)] with | .wait _ => true | _ => false) = true ∧
      (after (.spawn 4 5) { s with stks := [] }).me.regs.pc = 0x300000 ∧ (after (.spawn 4 5) { s with stks := [] }).myCore.deque.length = 65 := by
  decide +kernel

theorem test_exit :
    let s (j : Tab JEntry) : State :=
      { st { thread [] with jn := BitVec.ofNat 64 joinName, jc := BitVec.ofNat 64 joinCtl, seq := 9 } { journal := j, jord := 1 } with kernels := [(0, oneLevel)] }
    let open' : Tab JEntry := [(0, { busy := true, thr := 0, todo := [unit8] })]
    (s []).me.cell.st ≠ .claimed ∧ (s open').myCore.settled 0 = false ∧ (after .exit (s [])).me.st = .free ∧ (after .exit (s [])).me.seq = 9 ∧
      (after .exit (s [])).myCore.joins = [] ∧
      (after .exit (s [])).net.map (fun m => match m.body with | .offer o => (m.src, o.key, o.index) | _ => (m.src, ⟨0, 0, 0⟩, 0)) =
        [(.kennel 0, ⟨BitVec.ofNat 64 joinName, 0, 0⟩, 1)] ∧
      (after .exit (s open')).myCore.joins.map Join.key = [⟨BitVec.ofNat 64 joinName, 0, 0⟩] ∧ (after .exit (s open')).net.length = 0 := by
  decide +kernel

/-- The kernel with its one team placed on core 256, which lies on die 1. -/
def farKernel : Kernel := { oneLevel with groups := [(0, 256)], teams := [(0, { die := 1, st := .placed, cores := [256] })] }

theorem test_strict_answer :
    let th : Thread := { thread [] with st := .wait, wait := .load { kind := .strict (frame (2 ^ 63 + 1)) 5 6 0x300000 } }
    let s (k : Kernel) (q : List Frame) : State :=
      { st th with cores := [(0, { threads := [(0, th)] }), (272, { deque := q })], kernels := [(0, k)] }
    compute 0 ∧ ((s farKernel []).thread 0 0).slot = 0 ∧ (s farKernel []).phys 256 = some 272 ∧ 256 / 256 = (frame (2 ^ 63 + 1)).die ∧
      (∀ e ∈ oneLevel.teams, e.2.st = .placed → e.2.die ≠ 1) ∧ (after (.strictFrameAnswer 0 0) (s oneLevel [])).me.latch.cause = 81 ∧
      (∀ e ∈ farKernel.groups, e.2 / 256 = 1 → 256 ≤ e.2) ∧
      ((after (.strictFrameAnswer 0 0) (s farKernel [])).core 272).deque = [frame (2 ^ 63 + 1)] ∧
      (after (.strictFrameAnswer 0 0) (s farKernel [])).me.regs.pc = 0x300000 ∧ (after (.strictFrameAnswer 0 0) (s farKernel [])).me.jn = 5 ∧
      (after (.strictFrameAnswer 0 0) (s farKernel (List.replicate 64 (frame)))).me.latch.cause = 80 := by unfold compute; decide +kernel

theorem test_frames :
    let c (q : List Frame) (j : Tab JEntry := []) : Core := { slot := some 0, deque := q, journal := j }
    let s (c : Core) : State := { cores := [(0, c)], kernels := [(0, oneLevel)] }
    let waitsFor := frame 127 (some (0, 0, 1))
    let open' : Tab JEntry := [(0, { busy := true, thr := 0, ord := 0 })]
    ((s (c [waitsFor])).core 0).deque[0]? = some waitsFor ∧ ((after (.frameStanding 0 0) (s (c [waitsFor]))).core 0).deque = [frame] ∧
      ((after (.frameStanding 0 0) (s (c [waitsFor] open'))).core 0).deque = [waitsFor] ∧
      worksFor (s (c [waitsFor, frame])) 0 0 oneLevel ∧ firstFreeThread (s (c [])) 0 0 ∧
      ((after (.frameDispatch 0) (s (c [waitsFor, frame]))).core 0).deque = [waitsFor] ∧
      ((after (.frameDispatch 0) (s (c [waitsFor, frame]))).thread 0 0).regs.pc = 0x400000 ∧
      ((after (.frameDispatch 0) (s (c [waitsFor, frame]))).thread 0 0).regs.g[4] = 14 ∧
      ((after (.frameDispatch 0) (s (c [waitsFor, frame]))).thread 0 0).crs.ptime = 9 ∧
      (after (.frameDispatch 0) (s (c []))).cores = (s (c [])).cores := by
  refine ⟨by decide +kernel, by decide +kernel, by decide +kernel, by unfold worksFor; decide +kernel, by unfold firstFreeThread; decide +kernel, by decide +kernel⟩

theorem test_steal :
    let s (q : List Frame) : State := { cores := [(0, { slot := some 0 }), (1, { slot := some 0, deque := q })], kernels := [(0, oneLevel)] }
    worksFor (s [frame 0]) 0 0 oneLevel ∧ firstFreeThread (s [frame 0]) 0 0 ∧ (s [frame 0]).logDie 1 = (s [frame 0]).logDie 0 ∧
      ((1, (s [frame 0]).core 1) ∈ (s [frame 0]).cores) ∧ bits (frame 0).aff 6 0 = (s [frame 0]).logDie 0 ∧
      ((after (.stealRequest 0 1) (s [frame, frame 0])).core 1).deque = [frame] ∧
      ((after (.stealRequest 0 1) (s [frame, frame 0])).thread 0 0).regs.pc = 0x400000 ∧
      ((after (.stealRequest 1 0) (s [frame 0])).core 1).deque = [frame 0] := by
  refine ⟨by unfold worksFor; decide +kernel, by unfold firstFreeThread; decide +kernel, by decide +kernel⟩

/-! ### Pages -/

/-- One Setter core with one thread has no other thread that waits. -/
theorem sole_waiter {s : State} {c : Core} {th : Thread} (h : s.cores = [(19584, c)]) (h' : c.threads = [(0, th)]) : soleWaiter s 19584 0 := by
  intro q c₁ j t r hq _ hj _ _
  rw [h, List.mem_singleton, Prod.mk.injEq] at hq
  rw [hq.2, h', List.mem_singleton, Prod.mk.injEq] at hj
  exact ⟨hq.1, hj.1⟩

theorem test_page_privilege : let s := st (thread [])
    compute s.cur.core ∧ plain s [4] [3] = true ∧ plain s [4] [] = true ∧ (after (.tlbw 4) s).me.latch.trap = 4 ∧ (after (.tlbr 3 4) s).me.latch.trap = 4 := by
  unfold compute; decide +kernel

/-- Virtual page 0x20 of context 0 at frame 0x30, ORD, read and write (R308). -/
def good0 : Word := BitVec.ofNat 64 (2 ^ 63 + 0x20)
def good1 : Word := BitVec.ofNat 64 (6 * 2 ^ 57 + 0x30)

def tlbwMem (w0 w1 w2 w3 : Nat) : Memory := bytes [(0x200, 8, w0), (0x208, 8, w1), (0x210, 8, w2), (0x218, 8, w3)]

def pageState (m : Memory) (ms : List Miss := []) (bank : List Tlb := []) : State :=
  { fw (thread [(4, 0x200), (5, 0x210), (6, 0x7FFF0)]) { direct := m } with misses := ms, stks := [(0, { tlb := bank })] }

/-- A thread's miss in that page, sent with tag 7. -/
def miss7 : Miss := { who := .thread 0 0, ctx := 0, va := 0x200010, acc := 1, cluster := 0, tag := 7, sent := true }

theorem test_page_write :
    let s := pageState (tlbwMem good0.toNat good1.toNat 0 0)
    let cause (s : State) : Nat := ((after (.tlbw 4) s).myCore.direct.map fun _ => (0 : Nat)).length * 0 + mread (after (.tlbw 4) s).myCore.direct (256 + 23) 1
    let loading0 : Thread := { thread [] with st := .wait, wait := .load { kind := .ld 3 .d64, miss := true } }
    let none' : State := { pageState (tlbwMem 0 0 7 1) [miss7] with
      cores := [(0, { threads := [(0, loading0)] }), (19584, { direct := tlbwMem 0 0 7 1, threads := [(0, { thread [(4, 0x200)] with slot := 256 })], ctx := 64 })] }
    let late : Miss := { miss7 with rt := 5, recRt := 3 }
    let none₂ : State := { none' with misses := [late] }
    let fill := pageState (tlbwMem good0.toNat good1.toNat 7 0) [miss7]
    isSetter s.cur.core = true ∧ plain s [4] [] = true ∧ goodLayout good0 good1 ∧ goodFrame s good0 good1 ∧ ¬ pageHeld s good0 ∧
      ¬ goodFrame s good0 (good1 + 2 ^ 57 + 5 * 2 ^ 61) ∧ ¬ goodLayout (good0 + 2 ^ 40) good1 ∧
      ((after (.tlbw 4) s).stack 0).tlb.map Tlb.w0 = [good0] ∧ (after (.tlbw 4) s).me.regs.pc = 0x100004 ∧
      cause (pageState (tlbwMem (good0.toNat + 2 ^ 40) good1.toNat 0 0)) = 48 ∧
      cause (pageState (tlbwMem good0.toNat (6 * 2 ^ 61) 0 0)) = 49 ∧
      cause (pageState (tlbwMem good0.toNat good1.toNat 0 0) [] [⟨good0, good1, true⟩]) = 50 ∧
      cause (pageState (tlbwMem good0.toNat 0 0 1)) = 49 ∧
      (fill.misses.filter fun m => m.sent && m.tag == 7) = [miss7] ∧ (after (.tlbw 4) fill).misses = [{ miss7 with sent := false }] ∧
      ((after (.tlbw 4) none').thread 0 0).latch.trap = 3 ∧ (after (.tlbw 4) none').misses = [] ∧
      (after (.tlbw 4) none').me.regs.pc = 0x100004 ∧ late.rt.toNat > late.recRt.toNat ∧
      ((after (.tlbw 4) none₂).thread 0 0).latch.trap = 3 ∧ (after (.tlbw 4) none₂).misses = [] := by
  refine ⟨by decide +kernel, by decide +kernel, by dsimp only [goodLayout]; decide +kernel, ?_, ?_, ?_, by dsimp only [goodLayout]; decide +kernel, by decide +kernel⟩
  · exact ⟨by decide +kernel, by decide +kernel, by decide +kernel, fun h => absurd h (by decide +kernel), fun h => absurd h (by decide +kernel),
      fun h => absurd h (by decide +kernel)⟩
  · rintro ⟨k, st, e, h, h', _⟩
    obtain ⟨rfl, rfl⟩ : k = 0 ∧ st = {} := by simpa [pageState, fw] using h
    exact absurd h' (List.not_mem_nil)
  · rintro ⟨_, _, _, _, h, _⟩
    exact absurd (h (by decide +kernel)) (by decide +kernel)

/-- A migration block at 0x200 (R317): address, CTL, old frame, new frame. -/
def migMem (va ctl old new : Nat) : Memory := bytes [(0x200, 8, va), (0x208, 8, ctl), (0x210, 8, old), (0x218, 8, new)]

theorem test_page_requests :
    let s (x : Nat) (m : Memory := []) : State := { fw (thread [(4, x), (5, 0x210)]) { direct := m } with stks := [(0, {})] }
    let cause (i : Instr) (s : State) : Nat := mread (after i s).myCore.direct (256 + 23) 1
    let mig := s 0x200 (migMem 0x200000 0 0x30 0x40)
    soleWaiter (s 9) 19584 0 ∧ soleWaiter mig 19584 0 ∧ goodMig (mread mig.myCore.direct 0x200 64) ∧
      ¬ goodMig (mread (migMem 1 0 0x30 0x40) 0x200 64) ∧ plain (s 0) [4] [] = true ∧ cause (.tlbi 4) (s (3 * 2 ^ 56)) = 51 ∧ cause (.tlbi 4) (s 1) = 51 ∧ cause (.seed 4) (s (2 ^ 43)) = 52 ∧
      cause (.tlbr 3 4) (s (2 ^ 56)) = 51 ∧ (after (.tlbi 4) (s (2 ^ 56))).me.st = .wait ∧ (after (.tlbr 3 4) (s 0)).me.st = .wait ∧
      (s 9).reseeding 0 = false ∧ ((after (.seed 4) (s 9)).ctx 0).seedNew = some 9 ∧ (after (.seed 4) (s 9)).me.st = .wait ∧
      cause (.migr 4) (s 0x200 (migMem 1 0 0x30 0x40)) = 52 ∧ (∀ e ∈ mig.stks, (e.2.tlb.filter Tlb.pin).length < 16) ∧
      (after (.migr 4) mig).migs.map (fun m => (m.va, m.old, m.new, m.blk)) = [(0x200000, 0x30, 0x40, 0x200)] := by
  exact ⟨sole_waiter rfl rfl, sole_waiter rfl rfl, by dsimp only [goodMig]; decide +kernel, by dsimp only [goodMig]; decide +kernel,
    by decide +kernel⟩

-- a bank with 16 pinned entries: CODE 3; a scrub of frame 0x30: its bytes and its poison go (R318, R319)
theorem test_scrub :
    let full : List Tlb := (List.range 16).map fun i => ⟨BitVec.ofNat 64 (2 ^ 63 + 0x1000 + i), 0, true⟩
    let m : State := { fw (thread [(4, 0x200)]) { direct := migMem 0x200000 0 0x30 0x40 } with stks := [(0, { tlb := full })] }
    let l := (ordPlace 0x300000).1
    let s : State := { fw (thread [(4, 0x200)]) { direct := migMem 0 (2 ^ 56) 0x30 0 } with dram := bytes [(l * 512, 8, 7), (0, 1, 5)], poison := [l, 1] }
    (∃ e ∈ m.stks, 16 ≤ (e.2.tlb.filter Tlb.pin).length) ∧ (∀ e ∈ s.cores, e.2.ca.tlb = []) ∧ (∀ e ∈ s.stks, e.2.tlb = []) ∧
      mread (after (.migr 4) m).myCore.direct 0x220 8 = 2 ^ 63 + 3 * 2 ^ 56 ∧ (after (.migr 4) m).me.regs.pc = 0x100004 ∧
      (after (.migr 4) s).dram = [(0, 5)] ∧ (after (.migr 4) s).poison = [1] ∧ (after (.migr 4) s).me.regs.pc = 0x100004 := by
  refine ⟨⟨_, .head _, by decide +kernel⟩, by decide +kernel⟩

theorem test_page_answers :
    let hostMiss : Miss := { miss7 with host := true }
    let s : State := { st (thread []) with misses := [hostMiss] }
    (∃ m ∈ s.misses, m.sent = true ∧ m.host = true ∧ m.tag = 7) ∧ ((after (.hostWalkAnswer 7 false good0 good1) s).stack 0).tlb.map Tlb.w1 = [good1] ∧
      (after (.hostWalkAnswer 7 false good0 good1) s).misses = [{ hostMiss with sent := false }] ∧
      (after (.hostWalkAnswer 8 false good0 good1) s).misses = [hostMiss] := by
  refine ⟨⟨_, .head _, by decide +kernel⟩, by decide +kernel⟩

theorem test_tlbi_complete :
    let th (got : List (Nat × Nat)) : Thread := { thread [] with st := .wait, wait := .load { kind := .tlbi (BitVec.ofNat 64 0x200000) 0 [], got := got } }
    let other : Tlb := pageAt 0 0x300000
    let s (got : List (Nat × Nat)) (j : Tab JEntry := []) : State :=
      { fw (th got) { journal := j, jord := 1 } with stks := [(0, { tlb := [pageAt 0 0x200000, other] })], clusters := [(0, { tlb := [pageAt 0 0x200000] })] }
    let open' : Tab JEntry := [(0, { busy := true, thr := 0, ord := 0 })]
    let p := 19584
    ((s []).core p).settled 0 = true ∧ ((s [] open').core p).settled 0 = false ∧ (after (.tlbiComplete p 0) (s [] open')).stks = (s [] open').stks ∧
      spokenOf (BitVec.ofNat 64 0x200000) (pageAt 0 0x200000) ∧ ¬ spokenOf (BitVec.ofNat 64 0x200000) other ∧
      ((after (.tlbiComplete p 0) (s [])).stack 0).tlb = [other] ∧ ((after (.tlbiComplete p 0) (s [])).cluster 0).tlb = [] ∧
      ((s [(0, 0)]).translated fun _ _ => true) = false ∧ (after (.tlbiComplete p 0) (s [(0, 0)])).me.regs.pc = 0x100004 := by
  refine ⟨by decide +kernel, by decide +kernel, by decide +kernel, by unfold spokenOf; decide +kernel, by unfold spokenOf; decide +kernel, by decide +kernel⟩

theorem test_fill :
    let th : Thread := { thread [] with st := .wait, wait := .load { kind := .fetch, need := 9, miss := true } }
    let m : Miss := { miss7 with sent := false, va := 0x200000 }
    let s (bank : List Tlb) : State := { st th with misses := [m], stks := [(0, { tlb := bank })] }
    let lookTh : Thread := { thread [] with st := .wait, wait := .load { kind := .lookup .begun, need := 4, miss := true } }
    let look : State := { st lookTh with misses := [m], stks := [(0, { tlb := [pageAt 0 0x200000] })] }
    (s []).misses[0]? = some m ∧ (s [pageAt 0 0x200000]).tlb23 0 0 0x200000 = some (pageAt 0 0x200000) ∧ (s []).tlb23 0 0 0x200000 = none ∧
      (after (.tlbFillReply 0) (s [pageAt 0 0x200000])).me.st = .inRot ∧ (after (.tlbFillReply 0) (s [pageAt 0 0x200000])).misses = [] ∧
      (after (.tlbFillReply 0) (s [pageAt 0 0x200000])).myCore.ca.tlb = [pageAt 0 0x200000] ∧
      (after (.tlbFillReply 0) (s [])).misses.map (fun x => (x.who, x.sent)) = [(.thread 0 0, true)] ∧
      (after (.tlbFillReply 0) look).me.wait = .load { kind := .lookup .begun, need := 4 } ∧ (after (.tlbFillReply 0) look).me.st = .wait := by decide +kernel

theorem test_seed_change :
    let th : Thread := { thread [] with st := .wait, wait := .load { kind := .seed 9 0 } }
    let s : State := { fw th with ctxs := [(0, { seedNew := some 9 })] }
    (s.ctx 0).seedNew = some 9 ∧ soleWaiter s 19584 0 ∧ (s.thread 19584 0).wait = .load { kind := .seed 9 0 } ∧
      ((after (.seedChangeComplete 0) s).ctx 0).seedNew = none ∧ tget 0 ((after (.seedChangeComplete 0) s).ctx 0).desc 1 = 9 ∧
      (after (.seedChangeComplete 0) s).me.regs.pc = 0x100004 ∧ ((after (.seedChangeComplete 1) s).ctx 0).seedNew = some 9 := by
  refine ⟨by decide +kernel, sole_waiter rfl rfl, by decide +kernel⟩

/-- A migration of the page at 0x200000 from frame 0x30 to 0x40, whose bytes and poison go with it. -/
def migration : Mig := { ctx := 0, va := 0x200000, sz := 0, cls := 0, near := 0, old := 0x30, new := 0x40, core := 19584, thr := 0, blk := 0x200, held := [] }

set_option maxRecDepth 4000 in
theorem test_migration :
    let th : Thread := { thread [] with st := .wait, wait := .load { kind := .migr 0x200 0 } }
    let l := (ordPlace 0x300000).1
    let s (p : List Nat) : State :=
      { fw th with migs := [migration], dram := bytes [(l * 512, 8, 7)], poison := p, stks := [(0, { tlb := [⟨good0, good1 + 2 ^ 60, true⟩] })] }
    (s []).migs[0]? = some migration ∧ soleWaiter (s []) 19584 0 ∧
      ((frameLines 0 0 0x30 0 ++ frameLines 0 0 0x40 0).map Prod.fst).Nodup ∧ (after (.migrationSwitch 0) (s [])).migs = [] ∧
      ((after (.migrationAbandon 0) (s [])).stack 0).tlb.map (fun e => (e.pin, e.locked, bits e.w1 35 0)) = [(true, false, 0x30)] ∧
      mread (after (.migrationAbandon 0) (s [])).myCore.direct 0x220 8 = 2 ^ 63 + 2 ^ 56 ∧ (after (.migrationAbandon 0) (s [])).me.regs.pc = 0x100004 := by
  refine ⟨by decide +kernel, sole_waiter rfl rfl, by decide +kernel⟩

/-! ### Kernels -/

/-- No offer in the machine carries a fault record. -/
theorem no_faults {s : State} (h : (s.bugles.all fun b => b.2.offers.all fun o => o.fault.isNone) = true)
    (he : (s.bugles.all fun b => b.2.evs.all fun e => match e.st with | .occurring ps _ _ _ => ps.all fun o => o.fault.isNone | _ => true) = true)
    (h' : (s.net.all fun m => match m.body with | .offer o => o.fault.isNone | _ => true) = true) :
    (∀ slot k, faultsReceived s slot k) ∧ ∀ c, noRecords s c := by
  have hb : ∀ b ∈ s.bugles, ∀ o ∈ b.2.offers, o.fault = none := by simpa using h
  have hm : ∀ m ∈ s.net, ∀ o, m.body = .offer o → o.fault = none := by
    intro m hm o ho
    have := List.all_eq_true.1 h' m hm
    simpa [ho] using this
  have hp : ∀ b ∈ s.bugles, ∀ e ∈ b.2.evs, ∀ ps x y z, e.st = .occurring ps x y z → ∀ o ∈ ps, o.fault = none := by
    intro b hb e he' ps x y z hx o ho
    have := List.all_eq_true.1 (List.all_eq_true.1 he b hb) e he'
    rw [hx] at this
    simpa using List.all_eq_true.1 this o ho
  exact ⟨fun _ _ => ⟨fun b h o ho => by simp [hb b h o ho], fun m h o ho => by simp [hm m h o ho]⟩,
    fun _ => ⟨fun b h o ho => by simp [hb b h o ho], fun b h e he ps x y z hx o ho => by simp [hp b h e he ps x y z hx o ho],
      fun m h o ho => by simp [hm m h o ho]⟩⟩

/-- A launch record of one level of two threads in the domain core (R348), with more fields. -/
def record (more : Nat := 0) : BitVec 2048 := BitVec.ofNat 2048 (2 ^ 160 + 2 * 2 ^ 768 + 2 ^ 800 + more)

/-- A RESIDENT context whose function modes are FMODE. -/
def ctxOf (fm : Nat) : Tab Ctx := [(0, { st := .resident, desc := [(0, BitVec.ofNat 64 (fm * 2 ^ 32))] })]

def launchState (r : BitVec 2048) (j : Tab JEntry := []) : State :=
  { st (thread [(4, 0x200), (5, 0x280), (6, 0x7FF80)]) { direct := bytes [(0x200, 256, r.toNat)], journal := j } with
    kernels := [(0, oneLevel)], ctxs := ctxOf 4 }

theorem test_launch :
    let s := launchState (record)
    let check (s : State) (r : BitVec 2048) := s.checkRecord (s.kernelFrom 0 r) false State.launchPlace 0 0
    let t (s : State) : Nat × Nat := ((after (.launch 4) s).me.latch.trap, (after (.launch 4) s).me.latch.cause)
    plain s [4] [] = true ∧ BitVec.ofNat 2048 (mread s.myCore.direct 0x200 256) = record ∧
      (match check s (record) with | .ok s₁ sh rs => s₁ == s && sh == 0 && rs == [] | _ => false) = true ∧
      (match check s (record (3 * 2 ^ 772)) with | .cause s₁ n => s₁ == s && n == 2 + 1 | _ => false) = true ∧
      firstFree s.myCore 0 ∧ (tget {} (after (.launch 4) s).myCore.journal 0).busy = true ∧ (after (.launch 4) s).me.regs.pc = 0x100004 ∧
      t (launchState (record (2 ^ 1600))) = (4, 65) ∧ t (launchState (record (3 * 2 ^ 772))) = (4, 67) ∧
      t (launchState (record (5 * 2 ^ 1408))) = (4, 74) ∧ (after (.launch 5) s).me.latch.trap = 2 ∧
      (after (.launch 4) (launchState (record) fullJournal)).me.wait = .journal := by
  intro s check t
  and_intros <;> decide +kernel

/-- A `launch` request of this record by a thread of context 0; host placement, so that the Kennel assigns no die. -/
theorem test_launch_admission :
    let r : LaunchReq := { launch := record, gtn := 0, ctx := 0, slot := 7, kid := 3, rt := 5 }
    let s (fw : Option (BitVec 512)) (c : CtxSt) : State :=
      { st (thread []) with launches := [r], ctxs := [(0, { st := c, desc := [(0, BitVec.ofNat 64 (36 * 2 ^ 32))] })], panel := { fwdig := fw } }
    let bad : State := { s (some 0) .resident with ctxs := ctxOf 38 }
    ((s (some 0) .resident).ctx 0).st = .resident ∧ (s (some 0) .resident).kernel 0 = none ∧ ((s (some 0) .resident).die 0).st = .full ∧
      (after .launchAdmission (s (some 0) .resident)).launches = [] ∧
      ((after .launchAdmission (s (some 0) .resident)).kernel 0).map (fun k => (k.launch, k.parent, k.st)) = some (record, some (7, 3, 0), .placing) ∧
      (after .launchAdmission (s none .resident)).launches = [r] ∧ (after .launchAdmission (s (some 0) .closing)).launches = [r] ∧
      ((s (some 0) .resident).kernelFrom 0 record).fieldCause false = 0 ∧ (bad.kernelFrom 0 record).fieldCause false = 6 ∧
      (after .launchAdmission bad).launches = [] ∧ (after .launchAdmission bad).kernel 0 = none := by
  decide +kernel

/-- The kernel PLACING, its team waiting on die 0. -/
def placing : Kernel :=
  { st := .placing, ctx := 0, launch := record (0x400000 + 9 * 2 ^ 416 + 0x500000 * 2 ^ 448 + 64 * 2 ^ 512), fmode := 4, at' := 77, teams := [(0, { die := 0 })] }

theorem test_team_placement :
    let s (k : Kernel) : State := { dies := [(0, { st := .full, clk := 3 })], kernels := [(0, k)], ctxs := ctxOf 4 }
    let u := after (.teamPlacement 0 0 [3]) (s placing)
    (s placing).kernel 0 = some placing ∧ alive placing ∧ placing.teams.find? (fun e => e.1 == 0) = some (0, { die := 0 }) ∧
      (s placing).placementOk placing 0 0 0 [3] = true ∧
      (match (s placing).imageRead placing 0 0 3 with | .ok s₁ im => s₁ == s placing && im == [] && s₁.phys 3 == some 3 | _ => false) = true ∧
      (placing.teamGroups 0).zip [3] = [(0, 3)] ∧ (u.kernel 0).map (fun k => (k.st, k.groups)) = some (.running, [(0, 3)]) ∧ (u.core 3).slot = some 0 ∧
      (u.thread 3 1).st = .inRot ∧ (u.thread 3 1).regs.pc = 0x400000 ∧ (u.thread 3 1).regs.g[30] = 0x500080 ∧ (u.thread 3 1).crs.ptime = 77 ∧
      (u.thread 3 2).st = .free ∧ (u.thread 3 1).crs.lease = 9 ∧
      (s placing).placementOk placing 0 0 0 [256] = false ∧ (after (.teamPlacement 0 0 [256]) (s placing)).kernel 0 = some placing := by
  unfold alive; decide +kernel

-- a team of the domain die; core 0 is another kernel's, so that die 0 has no instance for it, and die 1 advertises one (R360)
theorem test_team_forward :
    let k : Kernel := { st := .placing, ctx := 0, launch := record (2 * 2 ^ 800), fmode := 4, teams := [(0, { die := 0, since := 4 })] }
    let s (d1 : DieSt) : State :=
      { dies := [(0, { st := .full, clk := 3 }), (1, { st := d1, clk := 3 })], kernels := [(0, k)], cores := [(0, { slot := some 5 })] }
    let me := (4, 0, 0)
    (s .full).kernel 0 = some k ∧ me ∈ (s .full).stuckTeams 0 ∧ (∀ y ∈ (s .full).stuckTeams 0, olderTeam y me = false) ∧
      (s .full).eligible k 0 1 = true ∧ (s .full).advertises k 1 = true ∧
      (after (.teamForward 0 0 1) (s .full)).net.map (fun m => (m.src, m.dst, m.body)) = [(.kennel 0, .kennel 1, .team 0 0)] ∧
      ((after (.teamForward 0 0 1) (s .full)).kernel 0).map (fun k => k.teams.map fun e => (e.2.die, e.2.st)) = some [(1, .travelling)] ∧
      (s .reset).eligible k 0 1 = false ∧ (after (.teamForward 0 0 1) (s .reset)).net.length = 0 := by decide +kernel

theorem test_team_arrival :
    let k (x : Team) : Kernel := { placing with teams := [(0, x)] }
    let s (x : Team) (d : DieSt) : State :=
      { dies := [(1, { st := d, clk := 3 })], kernels := [(0, k x)], net := mail (.kennel 0) (.kennel 1) (.team 0 0), tick := 6 }
    let x : Team := { die := 1, st := .travelling }
    reaches (s x .full) 0 (.kennel 0) (.kennel 1) (.team 0 0) ∧ teamIs (s x .full) 0 0 x ∧
      ((after (.teamArrival 0) (s x .full)).kernel 0).map Kernel.teams = some [(0, { die := 1, since := 6, st := .waiting })] ∧
      (after (.teamArrival 0) (s x .full)).net = [] ∧ (after (.teamArrival 0) (s x .training)).net.length = 1 ∧
      ((after (.teamArrival 0) (s { die := 2 } .full)).kernel 0).map Kernel.teams = some [(0, { die := 2 })] := by
  refine ⟨reaches_of (by decide +kernel), ⟨_, rfl, by unfold alive; decide +kernel, by decide +kernel⟩, by decide +kernel⟩

theorem test_placement_register :
    let s (d1 : DieSt) : State :=
      { dies := [(0, { st := .full, clk := 3 }), (1, { st := d1, clk := 3 })], kernels := [(0, placing)], tick := 6, ctxs := ctxOf 4 }
    (s .full).kernel 0 = some placing ∧ alive placing ∧ (s .full).eligible placing.bound 0 1 = true ∧ (s .reset).eligible placing.bound 0 1 = false ∧
      ((after (.placementRegisterWrite 1) (s .full)).kernel 0).map Kernel.teams = some [(0, { die := 1, since := 6, named := true })] ∧
      (after (.placementRegisterWrite 0x8000000000000081) (s .full)).panel.place = 1 ∧
      ((after (.placementRegisterWrite 1) (s .reset)).ctx 0).recs.map (fun r => bits r.w1 63 59) = [20] := by unfold alive; decide +kernel

theorem test_kernel_ends :
    let q : Queue := { desc := [(0, BitVec.ofNat 64 (2 ^ 31 + 4 * 2 ^ 20 + 5 * 2 ^ 10)), (4, 0x1000), (5, 0x2000)], st := .empty, compl := 3 }
    let s (k : Kernel) (c : Core := { slot := some 0 }) : State := { kernels := [(0, k), (1, oneLevel)], queues := [(2, q)], cores := [(0, c)], links := allUp }
    let running := { oneLevel with queue := some (2, 9) }
    let sinking := { running with st := .sinking }
    let child : Kernel := { oneLevel with st := .sinking, done := some (key, ctl 0 2 1 0), parent := some (1, 0, 4096) }
    let u := after (.kernelComplete 0) (s sinking)
    let plainEnd : Kernel := { oneLevel with st := .sinking, id := 6 }
    let far : Msg := { cls := .event, src := .core 0, dst := .bugle 3, pos := 0, site := 0, body := .offer { offer 0 0 with data := 5, fault := some (0, 0, 6) } }
    let late : State := { s plainEnd with net := [far] }
    faultsReceived (s child) 0 child ∧ faultsReceived (s plainEnd) 0 plainEnd ∧ (s running).kernel 0 = some running ∧ (∀ p ∈ (s running).coresOf 0, ((s running).core p).idle = true) ∧ (s running).requestsOpen 0 = false ∧
      ((after (.kernelSink 0) (s running)).kernel 0).map Kernel.st = some .sinking ∧
      ((after (.kernelSink 0) (s running { slot := some 0, threads := [(0, thread [])] })).kernel 0).map Kernel.st = some .running ∧
      (s sinking).writesDone 0 = true ∧ u.kernel 0 = none ∧ (u.queue 2).compl = 4 ∧ u.panel.msix = [5] ∧ (u.core 0).slot = none ∧
      (hostWord u 0x1060, hostWord u 0x1068, hostWord u 0x2000) = (9, 0, 4) ∧
      hostWord (after (.kernelComplete 0) (s { sinking with st := .aborted, cause := 19 })) 0x1068 = 2 ^ 62 + 19 * 2 ^ 56 ∧
      (s child).kernel 1 = some oneLevel ∧ (after (.kernelComplete 0) (s child)).net.map Msg.src = [.kennel 1] ∧
      (after (.kernelComplete 0) (s { child with parent := some (3, 0, 4096) })).net.length = 0 ∧
      ((after (.kernelComplete 0) (s running)).kernel 0).isSome = true ∧ late.bugles = [] ∧ late.writesDone 0 = true ∧
      (after (.kernelComplete 0) late).net = [] ∧ ((after (.kernelComplete 0) late).ctx 0).recs.map (fun r => r.w0) = [5] ∧
      (∀ p ∈ (s running).coresOf 0, ((s running).core p).deque = [] ∧ ((s running).core p).spill = [] ∧ ((s running).core p).moveTo = none) := by
  exact ⟨(no_faults rfl rfl rfl).1 _ _, (no_faults rfl rfl rfl).1 _ _, by decide +kernel⟩

theorem test_kernel_abort :
    let k : Kernel := { placing with st := .admitted, teams := [(0, { die := 72 })] }
    let s (k : Kernel) : State := { kernels := [(0, k)], cores := [(0, { slot := some 0, deque := [frame] })] }
    let u := after (.kernelAbort 0 18) (s k)
    faultsReceived (s k) 0 k ∧ (s k).kernel 0 = some k ∧ (∃ e ∈ k.teams, e.2.die = 72) ∧ (u.kernel 0).map (fun k => (k.st, k.cause)) = some (.aborted, 18) ∧
      (u.core 0).deque = [] ∧ (after (.kernelAbort 0 18) (s oneLevel)).kernel 0 = some oneLevel ∧ (after (.kernelAbort 0 17) (s k)).kernel 0 = some k := by
  refine ⟨(no_faults rfl rfl rfl).1 _ _, by decide +kernel, ⟨_, .head _, rfl⟩, by decide +kernel⟩

/-! ### Queues -/

/-- A descriptor (R339): 16 records, vector 5, context 0, TICK. -/
def queueWord (tick : Nat) : Word := BitVec.ofNat 64 (tick * 2 ^ 32 + 2 ^ 31 + 4 * 2 ^ 20 + 5 * 2 ^ 10)
def queueDesc : List Word := [queueWord 7, 0x1000, 0x2000, 0x2008, 0x3000, 0x2010]

/-- The queue with record HEAD copied. -/
def readyQueue (r : BitVec 2048) : Queue :=
  { desc := (List.range 6).map fun i => (i, queueDesc.getD i 0), st := .empty, head := 4, tail := 5, copy := some r }

theorem test_queue_writes :
    let s : State := { queues := [(2, readyQueue (record))], host := bytes [(0x2000, 8, 1)] }
    let fresh : State := { host := bytes [(0x2000, 8, 1), (0x1000, 8, 3)] }
    bits (qword (s.queue 2) 0) 31 31 = 1 ∧ bits ((after (.queueEnable 2 [queueWord 9]) s).queue 2 |>.desc.headD (0, 0)).2 47 32 = 9 ∧
      ((after (.queueDisable 2) s).queue 2).st = .off ∧ ((after (.queueDisable 2) s).queue 2).copy = none ∧
      ¬ bits (qword (fresh.queue 2) 0) 31 31 = 1 ∧ goodQueue (fun i => queueDesc.getD i 0) ∧ (∀ e ∈ fresh.queues, bits (qword e.2 0) 29 24 ≠ 0) ∧
      ¬ goodQueue (fun i => ([queueWord 7, 0x1001] : List Word).getD i 0) ∧ hostWord fresh 0x2000 = 1 ∧
      (after (.queueEnable 2 [queueWord 7, 0x1001]) fresh).queues = [] ∧
      bits (qword ((after (.queueTickWrite 2 11) s).queue 2) 0) 47 32 = 11 ∧ (after (.generatorSeedWrite 0) s).panel.x = 1 := by
  unfold goodQueue; decide +kernel

theorem test_tail_write :
    let s : State := { queues := [(2, readyQueue (record))] }
    qon (s.queue 2) ∧ (qword (s.queue 2) 2).toNat = 0x2000 ∧ qsize (s.queue 2) = 16 ∧
      mread (after (.tailLineInvalidation 0x100 [7, 8]) s).host 0x100 2 = 0x0807 := by unfold qon; decide +kernel

-- x = 1: the generator gives 270369, and the one queue that is READY is drawn (R345)
theorem test_lottery :
    let s (fw : Option (BitVec 512)) : State :=
      { queues := [(2, readyQueue (record))], ctxs := ctxOf 4, dies := [(0, { st := .full, clk := 3 })], panel := { x := 1, fwdig := fw }, links := allUp }
    let u := after .lotteryDraw (s (some 3))
    (s (some 3)).ready 2 = true ∧ (s (some 3)).hostUp = true ∧ ((s (some 3)).kernelFrom 0 record).fieldCause true = 0 ∧
      (recField record 40 8, recField record 80 8, recField record 88 4) = (0, 0, 0) ∧ u.panel.adm = none ∧ (u.queue 2).head = 5 ∧
      (u.queue 2).copy = none ∧ hostWord u 0x2008 = 5 ∧ u.panel.x = 270369 ∧
      (u.kernel 0).map (fun k => (k.launch, k.queue, k.st)) = some (record, some (2, 4), .placing) ∧ (s none).ready 2 = false ∧
      (after .lotteryDraw (s none)).kernels = [] := by decide +kernel

theorem test_admission_unit :
    let bad : BitVec 2048 := record (2 ^ 1600)
    let s (r : BitVec 2048) : State :=
      { queues := [(2, readyQueue (record))], ctxs := ctxOf 36, dies := [(0, { st := .full, clk := 3 })], panel := { fwdig := some 0, adm := some (2, 4, 0, r) },
        links := allUp }
    let check (s : State) (r : BitVec 2048) := s.checkRecord (s.kernelFrom 0 r) true
      (fun s va => s.engPlace (bankOf 0) (.kennel (2 ^ 41 + 2)) 0 0 0 256 0 0 needLd va 8) 0 s.wtsBound
    (match check (s bad) bad with | .cause s₁ x => s₁ == s bad && x == 1 | _ => false) = true ∧
      (match check (s (record)) (record) with | .ok s₁ _ _ => s₁ == s (record) | _ => false) = true ∧ (s (record)).kernel 0 = none ∧
      (after .lotteryDraw (s bad)).panel.adm = none ∧ hostWord (after .lotteryDraw (s bad)) 0x3008 = 2 * 2 ^ 62 + 2 ^ 56 ∧
      (after .lotteryDraw (s (record))).panel.adm = none ∧
      ((after .lotteryDraw (s (record))).kernel 0).map (fun k => (k.queue, k.st)) = some (some (2, 4), .placing) := by decide +kernel

/-! ### Contexts -/

theorem test_context_life :
    let desc : Tab Word := [(0, 4 * 2 ^ 32), (6, 0x8000)]
    let s (st : CtxSt) (recs : List FRec := []) : State := { ctxs := [(0, { st := st, desc := desc, recs := recs })], stks := [(0, { tlb := [pageAt 0 0x200000] })] }
    let bad : State := { ctxs := [(0, { desc := [(0, 2 ^ 40)] })] }
    let rec' : Msg := { cls := .event, src := .core 0, dst := .bugle 3, pos := 0, site := 0, body := .offer { offer 0 0 with fault := some (0, 0, 6) } }
    let flying : State := { s .closing with net := [rec'] }
    noRecords (s .closing) 0 ∧ ¬ noRecords flying 0 ∧ ((after (.contextClosed 0) flying).ctx 0).st = .closing ∧
      (∀ n < 16, goodWord n (tget 0 desc n)) ∧ ¬ goodWord 0 (2 ^ 40) ∧ ((after (.contextEnable 0) (s .absent)).ctx 0).st = .resident ∧
      bits (tget 0 ((after (.contextEnable 0) (s .absent)).ctx 0).desc 0) 63 63 = 1 ∧ ((after (.contextEnable 0) bad).ctx 0).st = .absent ∧
      ((after (.contextDisable 0) (s .resident)).ctx 0).st = .closing ∧ (s .closing).ctxEngines 0 = false ∧
      ((after (.contextClosed 0) (s .closing)).ctx 0).st = .absent ∧ ((after (.contextClosed 0) (s .closing)).stack 0).tlb = [] ∧
      ((after (.contextClosed 0) (s .closing [⟨1, 2, 3, 4⟩])).ctx 0).st = .closing := by
  refine ⟨(no_faults rfl rfl rfl).2 _, fun h => h.2.2 _ (.head _) _ rfl rfl, by decide +kernel, by unfold goodWord; decide +kernel,
    by unfold goodWord; decide +kernel, by decide +kernel⟩

theorem test_context_descriptor :
    let s (st : CtxSt) : State := { ctxs := [(0, { st := st })] }
    let w (st : CtxSt) (off : Nat) (v : Word) : Word := tget 0 ((after (.contextDescriptorWrite 0 off v) (s st)).ctx 0).desc (off / 8)
    goodWord 1 9 ∧ ¬ goodWord 1 (2 ^ 43) ∧ w .absent 8 9 = 9 ∧ w .resident 8 9 = 0 ∧ w .closing 8 9 = 9 ∧ w .absent 8 (2 ^ 43) = 0 ∧ w .resident 16 5 = 5 ∧
      w .resident 0 (2 ^ 63 + 3) = 3 ∧ w .resident 128 3 = 0 ∧ w .resident 17 3 = 0 := by unfold goodWord; decide +kernel

theorem test_fault_ring :
    let r : FRec := ⟨1, 2, 3, 4⟩
    let s (taken : Nat) : State := { ctxs := [(0, { recs := [r], recN := 257, desc := [(6, 0x8000)] })], host := bytes [(0x8000 + 8200, 8, taken)], links := allUp }
    let u := after (.faultRingWrite 0) (s 2)
    ((s 2).ctx 0).recs = [r] ∧ hostWord (s 2) (0x8000 + 8200) + 256 > 257 ∧ hostWord (s 1) (0x8000 + 8200) + 256 ≤ 257 ∧ (u.ctx 0).recs = [] ∧ u.panel.msix = [1] ∧
      (hostWord u 0x8020, hostWord u 0x8028, hostWord u (0x8000 + 8192)) = (1, 2, 258) ∧ ((after (.faultRingWrite 0) (s 1)).ctx 0).recs = [r] := by
  decide +kernel

theorem test_host_acks :
    let v (act : Nat) : Word := BitVec.ofNat 64 (act * 2 ^ 28 + 7 * 2 ^ 19 + 33)
    let s := st (thread [])
    (bits (v 1) 63 30, bits (v 1) 27 27, bits (v 1) 29 28) = (0, 0, 1) ∧
      (after (.hostFackSkip (v 1)) s).net.map (fun m => (m.src, m.dst, m.body)) = [(.host, .core 2, .fack 1 7 33 0 (some (256, 0)))] ∧
      (after (.hostFackSkip (v 0)) s).net.length = 0 ∧ (after (.hostFackKill (v 2)) s).net.length = 1 ∧ (after (.hostFackResume (v 0 + 2 ^ 27)) s).net.length = 0 := by
  decide +kernel

/-! ### Debugger, moves, machine checks -/

theorem test_debug_commands :
    let s (th : Thread) : State := { st th with kernels := [(0, oneLevel)] }
    let stopped : Thread := { thread [] with st := .stopped, prior := .wait, seq := 5 }
    let w (x : Wait) : State := s { thread [] with st := .wait, wait := x }
    (s (thread [])).whereIs 0 = some (0, 0) ∧ (after (.stopcmdStop 0) (s (thread []))).me.stopReq = some 2 ∧
      (after (.stopcmdStop 0) (w .journal)).me.st = .stopped ∧ (after (.stopcmdStop 0) (w .journal)).panel.stopcnt = 1 ∧
      (after (.stopcmdStop 0) (w .matrix)).me.stopReq = some 2 ∧ (after (.stopcmdResume 0) (s stopped)).me.st = .wait ∧
      (after (.stopcmdResume 0) (s stopped)).me.passBp = false ∧ (after (.stopcmdStop 0) (w .journal)).me.passBp = true ∧
      (after (.stopcmdStop 0) (w (.load { kind := .lookup (.held 3) }))).me.st = .stopped ∧
      (after (.stopcmdStop 0) (w (.load { kind := .lookup .begun }))).me.st = .wait ∧ (after (.stopcmdKill 0) (s stopped)).me.st = .free ∧
      (after (.stopcmdKill 0) (s stopped)).me.seq = 5 ∧ (after (.stopcmdKill 0) (s (thread []))).me.st = .inRot ∧
      bits (after (.stopcmdKill 0) (s stopped)).panel.stopcmd 63 62 = 2 ∧
      (after (.stopcmdStop 0) { s (thread []) with cores := [(0, { threads := [(0, thread [])], moveTo := some 16 })] }).me.stopReq = none ∧
      (after (.stopcmdStop 0) { s (thread []) with cores := [(0, { threads := [(0, thread [])], moveTo := some 16 })] }).panel.held = [(0, 0)] ∧
      ({ st (thread []) with lmap := [(0, none)] } : State).whereIs 0 = none := by decide +kernel

/-- Core 0 with a thread in rotation; spare core 16 of its cluster. -/
def moveState (m : Option Nat) (x : TState := .inRot) (slot : Option Nat := some 0) : State :=
  { st (thread []) with
    cores := [(0, { threads := [(0, { thread [] with st := x, seq := 5 })], direct := bytes [(8, 1, 3)], slot := slot, moveTo := m })],
    kernels := [(0, oneLevel)], ctxs := ctxOf 4 }

theorem test_cores_move :
    let s := moveState none
    let m := moveState (some 16) .frozen
    let u := after (.preemptionAck 0) m
    let copyWrite : Msg := { cls := .request, src := .retr 0, dst := .core 0, pos := 0, site := 0, body := .port 0x100 8 7 0 60000 0 0 }
    let held : State := { m with net := [copyWrite] }
    let open' : Tab JEntry := [(0, { busy := true, thr := 0, todo := [unit8] })]
    let posts' : State := { m with cores := m.cores.map fun e => (e.1, { e.2 with journal := open' }) }
    copyWrite.isCopyPort = true ∧ copyWrite.phys = 0 ∧ ((after (.preemptionAck 0) held).core 0).moveTo = some 16 ∧
      (tget {} ((after (.preemptionAck 0) posts').core 16).journal 0).site = some 0 ∧
      compute 0 ∧ (s.core 0).idle = false ∧ s.canReceive 16 = true ∧ s.logical 0 = some 0 ∧ s.cmdFor 0 = none ∧ s.canReceive 0 = false ∧
      ((after (.preemptionFreeze 0 16) s).core 0).moveTo = some 16 ∧ ((after (.preemptionFreeze 0 16) s).thread 0 0).st = .frozen ∧
      ((after (.preemptionFreeze 0 0) s).core 0).moveTo = none ∧
      (m.core 0).moveTo = some 16 ∧ m.logical 16 ≠ some 0 ∧ m.panel.prewait = [] ∧ (m.die (dieOf 16)).st = .full ∧
      u.phys 0 = some 16 ∧ (u.core 16).direct = [(8, 3)] ∧ (u.core 16).slot = some 0 ∧ (u.thread 16 0).st = .inRot ∧ (u.thread 0 0).st = .free ∧
      (u.thread 0 0).seq = 5 ∧ (u.core 0).retired = false ∧ u.logical 0 = none ∧
      m.canReceive 33 = true ∧ ((after (.preemptionStreamFailure 0 (some 33)) m).core 0).moveTo = some 33 := by unfold compute; decide +kernel

-- no die serves, so that no core can receive (R333)
theorem test_no_core_receives :
    let s : State := { moveState (some 16) .frozen with dies := [] }
    (∀ d < 19584, d ≠ 16 → s.canReceive d = false) ∧ faultsReceived s 0 oneLevel ∧ s.busy = false ∧ s.kernel 0 = some oneLevel ∧ alive oneLevel ∧ bits oneLevel.fmode 2 1 ≠ 1 ∧
      (∀ d, ({ moveState none with dies := [] } : State).anyFree d = false) ∧ (moveState none).anyFree 0 = true := by
  have h (m : Option Nat) (x : TState) (d : Nat) : ({ moveState m x with dies := [] } : State).canReceive d = false := by
    simp [State.canReceive, State.die, tget]
  refine ⟨fun d _ _ => h _ _ d, (no_faults rfl rfl rfl).1 _ _, by decide +kernel, by decide +kernel, by unfold alive; decide +kernel, by decide +kernel, fun d => ?_, ?_⟩
  · simp [State.anyFree, h]
  · exact List.any_eq_true.2 ⟨16, by simp [setterBase], by decide +kernel⟩

theorem test_forwarding :
    let m (at' : Nat) : Msg := { cls := .event, src := .retr 0, dst := .core 0, pos := 0, site := 0, phys := at', body := .token 0 3 77 9 0 110 0 }
    let s (at' : Nat) : State := { st (thread []) with lmap := [(0, some 16), (16, some 0)], net := [m at'] }
    (s 0).net[0]? = some (m 0) ∧ (s 0).phys 0 = some 16 ∧ ((s 0).core 0).moveTo = none ∧
      (after (.forwardingEntryArrival 0) (s 0)).net = [m 16] ∧ (after (.forwardingEntryArrival 0) (s 16)).net = [m 16] ∧
      (s 0).arrived 0 = none ∧ ((s 16).arrived 0).isSome = true := by decide +kernel

theorem test_move_commands :
    let v (op : Nat) : Word := BitVec.ofNat 64 (op * 2 ^ 62 + 127 * 2 ^ 16)
    let s : State := { moveState none with cores := [] }
    goodCmd 1 (v 1) ∧ goodCmd 2 (v 2) ∧ ¬ goodCmd 1 (v 2) ∧ s.phys 0 = some 0 ∧ (s.core 0).idle = true ∧ ((moveState none).core 0).idle = false ∧
      prestatIs (after (.precmdPreempt (v 1)) s) 0 0 0 ∧ (after (.precmdPreempt (v 1)) s).panel.msix = [0] ∧
      (after (.precmdRetire (v 2)) s).phys 0 = none ∧ ((after (.precmdRetire (v 2)) s).core 0).retired = true ∧
      (after (.precmdRetire (v 1)) s).panel.prestat = 0 ∧
      (after (.precmdRetire (v 2)) { s with panel := { prestat := 2 ^ 63 } }).panel.prewait = [v 2] ∧
      prestatIs (after (.precmdPreempt (v 1)) { s with lmap := [(0, none)] }) 0 0 0 := by unfold goodCmd prestatIs; decide +kernel

theorem test_machine_checks :
    let s := moveState none
    let d : State := { moveState none with cores := [(0, { slot := some 0, deque := [frame] })] }
    let e : EvKey := ⟨BitVec.ofNat 64 joinName, 0, 0⟩
    let b : State := { moveState none with bugles := [(3, ⟨[{ key := e, age := 0 }], [{ offer 0 0 with key := e }]⟩)] }
    faultsReceived s 0 oneLevel ∧ faultsReceived d 0 oneLevel ∧ faultsReceived b 0 oneLevel ∧ (s.core 0).moveTo = none ∧ (s.thread 0 0).cell.st ≠ .claimed ∧
      compute 0 ∧ (s.core 0).slot = some 0 ∧ s.kernel 0 = some oneLevel ∧ alive oneLevel ∧ bits oneLevel.fmode 2 1 ≠ 1 ∧
      ((after (.machineCheck (.coreState 0)) s).thread 0 0).st = .free ∧
      ((after (.machineCheck (.coreState 0)) s).kernel 0).map (fun k => (k.st, k.cause)) = some (.aborted, 17) ∧
      ((after (.machineCheck (.coreState 0)) s).ctx 0).recs.map (fun r => bits r.w1 63 59) = [18] ∧
      ((after (.machineCheck (.dequeEntry 0 0)) d).kernel 0).map (fun k => (k.st, k.cause)) = some (.aborted, 20) ∧
      ((after (.machineCheck (.dequeEntry 0 0)) s).kernel 0) = some oneLevel ∧ (b.bugle 3).evs[0]? = some { key := e, age := 0 } ∧
      (b.bugle 3).of e = [{ offer 0 0 with key := e }] ∧ (offer 0 0).who = .thread 0 1 ∧ b.whereIs 0 = some (0, 0) ∧ bits e.name 63 60 = 4 ∧
      ((after (.machineCheck (.joinCount 3 0)) b).kernel 0).map (fun k => (k.st, k.cause)) = some (.aborted, 20) ∧
      ((after (.machineCheck (.bugleStore 3 0)) b).bugle 3).of e = [] := by
  exact ⟨(no_faults rfl rfl rfl).1 _ _, (no_faults rfl rfl rfl).1 _ _, (no_faults rfl rfl rfl).1 _ _, by unfold compute alive; decide +kernel⟩

/-! ### Links -/

/-- Edge 0, die 0's eastern one, and its far end 6 in a state. -/
def edge (x : LinkSt) (tries : Nat := 0) : State :=
  { st (thread []) with links := [(0, ⟨x, 0, 32, 7, tries⟩), (6, ⟨x, 0, 32, 0, tries⟩)] }

theorem test_links_train :
    let t := edge .training
    let u := after (.linkTrainingSuccess 0 32) t
    let lit (s : State) (n : Nat) : LinkSt × Nat := ((s.link n).st, (s.link n).lanes)
    otherEnd 0 = some 6 ∧ t.endDark 0 = false ∧ (lit u 0, lit u 6, (u.link 0).rply, u.panel.msix) = ((.up, 32), (.up, 32), 0, [0, 0]) ∧
      lit (after (.linkTrainingSuccess 0 33) t) 0 = (.training, 32) ∧ lit (after (.linkTrainingFailure 0) t) 6 = (.down, 0) ∧
      lit (after (.linkTrainingSuccess 0 16) { t with dies := [] }) 0 = (.training, 32) ∧
      ((after (.flitCrcReplay 0) (edge .up)).link 0).rply = 8 ∧ ((after (.flitCrcReplay 0) (edge .up 16)).link 0).rply = 7 ∧
      lit (after (.linkRetrainCmd 0) (edge .up)) 6 = (.training, 0) ∧ lit (after (.linkRetrainCmd 0) (edge .absent)) 6 = (.absent, 32) ∧
      lit (after (.linkDown 0) (edge .up 16)) 6 = (.down, 0) ∧ lit (after (.linkDown 0) (edge .up 15)) 6 = (.up, 32) ∧
      (edge .up 16).net = [] := by decide +kernel

/-- A message at a site for another site. -/
def onTheWay (pos site : Nat) (deficit : Tab Nat) (x : LinkSt := .up) : State :=
  { edge x with net := [{ msg (.bugle 0) (.core 0) (.grant key 0) with pos := pos, site := site }], deficit := deficit }

theorem test_routing :
    let s := onTheWay 0 13 [(ringKey 0 0 .event 0, 64)]
    let m : Msg := { msg (.bugle 0) (.core 0) (.grant key 0) with pos := 0, site := 13 }
    let turn : State := { s with deficit := [(ringKey 0 0 .event 0, 64), (ringKey 0 0 .event 127, 0)] }
    let fresh := onTheWay 0 13 []
    let two : State := { s with net := [m, { m with cls := .request, held := true }], deficit := [(slotKey 0 0, 15)] }
    [hopBy [] 0 13 0, hopBy [] 1 13 0, hopBy [] 14 13 1, hopBy [] 25 13 0, hopBy [] 13 13 0] = [(0, 0), (1, 0), (2, 1), (3, 0), (4, 0)] ∧
      s.net[0]? = some m ∧ neighbour 0 0 = some 1 ∧ neighbour 0 2 = none ∧
      (turn.share m 0 0).2 = true ∧ turn.net = [m] ∧ tget 128 turn.deficit (ringKey 0 0 .event 127) = m.memb ∧
      64 * m.body.flits ≤ tget 0 turn.deficit (ringKey 0 0 .event m.memb) ∧ (fresh.share m 0 0).2 = false ∧
      portWaits two 0 0 .event ∧ MCls.request ≠ .event ∧ 16 ≤ tget 0 two.deficit (slotKey 0 0) + m.body.flits ∧
      m.held = false ∧ m.pos = two.siteOf m.src ∧ (∃ x ∈ two.net, x.held = true) ∧ (after (.messageForward 0) two).net = two.net ∧
      (after (.messageForward 0) (onTheWay 0 13 [] .down)).net = [m] ∧
      (after (.messageForward 0) (onTheWay 13 13 [])).net = (onTheWay 13 13 []).net := by unfold portWaits; decide +kernel

-- no edge is UP, so that any table set is legal: there is no pair of live sites (R378)
theorem test_table_set_install :
    let s : State := {}
    let fly : State := { onTheWay 0 13 [] .training with net := (onTheWay 0 13 []).net.map fun m => { m with hops := 1 } }
    let u := after (.tableSetInstall [(0, 4)]) fly
    s.drained = true ∧ s.heldOk [(0, 4)] = true ∧ s.setOk [(0, 4)] = true ∧ (after (.tableSetInstall [(0, 4)]) s).routes = [(0, 4)] ∧
      fly.drained = false ∧ fly.setOk [(0, 4)] = true ∧ (u.routes, u.panel.quiet) = ([], true) ∧ s.setOk [(1, 12)] = true ∧
      s.setOk [(1, 4)] = false := by decide +kernel

/-! ### Pod and host -/

/-- Pod window 3 over 64 KiB at pod address 2 MiB, to 1 MiB of context 0 with key 9; port 0 is UP. -/
def podState (ctl : Nat := 0xF0000000) : State :=
  { st (thread []) with
    ctxs := [(0, { st := .resident, desc := [(0, 9)] })],
    stks := [(0, { tlb := [page] })],
    dram := bytes [(line * 512 + 8, 8, 77)],
    panel := { conf := [(0x2060, 0x200000), (0x2068, 0x10000), (0x2070, 0x100000), (0x2078, BitVec.ofNat 64 ctl)] } }

/-- A request at pod address 2 MiB + 8. -/
def podReq (op : PodOp) (k : BitVec 32 := 9) (a : Nat := 0x200008) : PodReq := ⟨0, 1, 5, k, a, op⟩

theorem test_pod_served :
    let s := podState
    let ans (s : State) (r : PodReq) : Nat × Nat := (after (.podRequestReceive r) s).panel.answer
    let at8 (s : State) (r : PodReq) : Nat := mread (after (.podRequestReceive r) s).dram (line * 512 + 8) 8
    let add : PodOp := .atomic 1 .w64 false 3 0
    let poisoned : State := { s with poison := [line] }
    let cut : State := { s with links := [(576, { st := .up, lanes := 4 })] }
    coveredBy s 0x200008 3 ∧ bits (podAt s 3 3) 27 22 = 0 ∧
      ans s (podReq (.read 8)) = (0, 77) ∧ (ans s (podReq (.write [5])), at8 s (podReq (.write [5]))) = ((0, 0), 5) ∧
      (ans s (podReq add), at8 s (podReq add)) = ((0, 77), 80) ∧
      ans s (podReq (.read 8) 8) = (1, 0) ∧ ans s (podReq (.read 8) 9 0x20FFFF8) = (5, 0) ∧ ans s (podReq (.read 57) 9) = (0, 0) ∧
      ans (podState 0xA0000000) (podReq (.read 8)) = (5, 0) ∧ ans (podState 0xC0000000) (podReq (.write [5])) = (5, 0) ∧
      ans (podState 0xE0000000) (podReq (.event (.grant 5 0))) = (5, 0) ∧
      (after (.podRequestReceive (podReq (.event (.grant 5 0)))) s).net.map (fun m => (m.src, m.ctx)) = [(.pod 1, 0)] ∧
      ans poisoned (podReq (.read 8)) = (4, 0) ∧ s.reseeding 0 = false ∧ s.locked 0 0x100008 = false ∧
      (after (.podRequestReceive (podReq (.read 8))) { s with stks := [] }).misses.length = 1 ∧
      s.reachable (s.siteOf (.pod 0)) (.line line 8 0x100008) = true ∧ cut.reachable (cut.siteOf (.pod 0)) (.line line 8 0x100008) = false ∧
      ans cut (podReq (.read 8)) = ans s (podReq (.read 57)) := by
  unfold coveredBy; decide +kernel

/-- The host's window is open on chunk 0; line 0 has been read at 40. -/
def hostState (p : Bool) : State :=
  { links := allUp, panel := { cxl := 2 ^ 63 }, poison := if p then [(ordPlace 8).1] else [], dram := bytes [(da 8, 8, 77)],
    stks := [(stackOf (ordPlace 8).1, { homes := [((ordPlace 8).1, ⟨30, 40, none⟩)] })] }

theorem test_host_window :
    let s := hostState false
    let u := after (.hostWindowWrite 8 [5]) s
    bits s.panel.cxl 63 63 = 1 ∧ s.hostReach (ordPlace 8).1 = true ∧ (hostState false).migs = [] ∧
      ({ s with links := [] } : State).hostReach (ordPlace 8).1 = false ∧ s.frameLocked (ordPlace 8).1 = false ∧ (s.home (ordPlace 8).1).excl = none ∧
      (u.panel.answer, mread u.dram (da 8) 8, (u.home (ordPlace 8).1).wts, u.panel.hostWts) = ((0, 0), 5, 41, 41) ∧
      (after (.hostWindowRead 8 8) s).panel.answer = (0, 77) ∧ (after (.hostWindowRead 8 8) (hostState true)).panel.answer = (4, 0) ∧
      (after (.hostWindowWrite 8 [5]) (hostState true)).panel.answer = (4, 0) ∧ mread (after (.hostWindowWrite 8 [5]) (hostState true)).dram (da 8) 8 = 77 ∧
      (after (.hostWindowRead 508 8) s).panel.answer = (0, 0) ∧
      (after (.cxlMemWindowWrite (2 ^ 63 + 2 ^ 20 + 107)) s).panel.cxl = 2 ^ 63 + 107 ∧ (after (.cxlMemWindowWrite 108) s).panel.cxl = 2 ^ 63 := by
  decide +kernel

/-! ### Dies and service -/

/-- Die 0 in a state, with its two edges in a state. -/
def dieState (x : DieSt) (l : LinkSt) : State := { dies := [(0, { st := x, ce := 6 })], links := [(0, ⟨l, 0, 0, 0, 0⟩), (1, ⟨l, 0, 0, 0, 0⟩)] }

theorem test_dies_go :
    let reset := after (.dieResetEnd 0) (dieState .reset .down)
    let done (l : LinkSt) : State := after (.dieTrainingDone 0) (dieState .training l)
    let full (c : Nat) : State := { dies := [(0, { st := .full, clk := c })] }
    edgesOf 0 = [0, 1] ∧ ((reset.die 0).st, (reset.link 0).st, (reset.link 1).st) = (.training, .training, .training) ∧
      ((done .up).die 0).st = .early ∧ ((done .up).die 0).clk = 1 ∧ ((done .training).die 0).st = .training ∧
      ((after (.powerCapThrottle 0 true) (full 3)).die 0).clk = 1 ∧ ((after (.powerCapThrottle 0 false) (full 1)).die 0).clk = 1 ∧
      ((after (.powerCapRelease 0 true) (full 2)).die 0).clk = 3 ∧ ((after (.powerCapRelease 0 false) (full 1)).die 0).clk = 2 ∧
      ((after (.clockMeasurement 0 5 6) (full 3)).die 0).zero = 0 ∧ ((after (.clockMeasurement 0 5 6) (full 3)).die 0).rate = 6 ∧
      ((after (.correctedError 0) (dieState .early .up)).die 0).ce = 7 ∧ ((after (.correctedError 0) (dieState .reset .up)).die 0).ce = 6 := by
  decide +kernel

theorem test_umator_starts :
    let s : State := { dieState .training .up with panel := { fwdig := some 1, fwaddr := 0x4000 } }
    let u := after (.dieTrainingDone 0) s
    (∃ n ∈ edgesOf 0, (s.link n).st = .up) ∧ (u.thread 19584 15).st = .inRot ∧ (u.die 0).st = .early := by decide +kernel

-- a die that fails leaves its logical cores dead
theorem test_die_fails :
    let s := dieState .training .down
    (s.die 0).st = .training ∧ (∀ n ∈ edgesOf 0, (s.link n).st ≠ .up ∧ (s.link n).st ≠ .training) ∧
      s.phys 5 = some 5 ∧ dieOf 5 = 0 ∧ s.phys 256 = some 272 ∧ dieOf 272 = 1 := by decide +kernel

/-- Die 0 with a thread, an exclusive line and an event; kernel 0 runs. -/
def busyDie : State :=
  { moveState none with
    dies := [(0, { st := .full, clk := 3, ce := 6, slices := [(line, ⟨true, 30, 40, none, 0, 0, 0⟩)] })],
    bugles := [(3, ⟨[{ key := key, age := 0 }], [offer 0 0]⟩)] }

theorem test_die_resets :
    let s := busyDie
    let u := after (.dieReset 0) s
    s.busy = false ∧ ((u.die 0).st, (u.die 0).clk, (u.die 0).ce, (u.die 0).slices) = (.reset, 0, 0, []) ∧ u.poison = [line] ∧
      (u.core 0) = {} ∧ u.bugle 3 = {} ∧ (u.link 0).st = .training ∧ (u.kernel 0).map (fun k => (k.st, k.cause)) = some (.aborted, 17) ∧
      (u.ctx 0).recs.map (fun r => bits r.w1 63 59) = [18] ∧ (∀ b ∈ s.bugles, ∀ o ∈ b.2.offers, o.spill = none) ∧ compute 0 ∧
      (0, s.core 0) ∈ s.cores ∧ s.kernel 0 = some oneLevel ∧ alive oneLevel ∧ (after (.dieReset 0) (dieState .failed .down)) = dieState .failed .down := by
  unfold compute alive; decide +kernel

theorem test_die_full_waits :
    (edge .training).panelTrained = false ∧ (dieState .early .up).panelTrained = false ∧
      after (.dieFull 0) (dieState .early .training) = dieState .early .training := by decide +kernel

theorem test_firmware_and_report :
    let s : State := {}
    let l : State := { panel := { fwload := some 0x4000 } }
    let v : Word := 2 ^ 62 + 0x4000
    (after (.firmwareLoad v) s).panel.fwload = some 0x4000 ∧ (after (.firmwareLoad 0) s).panel.fwload = none ∧
      (after (.firmwareLoad 0) l).panel.fwload = some 0x4000 ∧ (after .firmwareReloadDone s) = s ∧ l.panel.fwload = some 0x4000 ∧
      (after (.attestationReport 9) s).panel.atBusy = true ∧ tget 0 (after (.attestationReport 9) s).panel.nonce 3 = 9 := by decide +kernel

theorem test_report_done :
    let s : State := { panel := { atBusy := true, nonce := [(3, 9)], fwdig := some 5 }, dies := [(0, { st := .full, clk := 3 })] }
    let r := (after .attestationReportDone s).panel
    (r.atBusy, r.atCount) = (false, 1) ∧ (r.report.drop 24).take 2 = [9, 0] ∧ (r.report.drop 32).take 2 = [5, 0] ∧ (r.report.drop 103).head? = some 0x6C := by
  decide +kernel

theorem test_service_registers :
    let s : State := { ctxs := [] }
    let p (off : Nat) (v : Word) : Panel := (after (.configRegisterWrite off v) s).panel
    (after (.trcctlWrite (BitVec.allOnes 64)) s).panel.trcctl = 0xC0000000000007FF ∧ (after (.ringselWrite 18431) s).panel.ringsel = 18431 ∧
      (after (.ringselWrite 18432) s).panel.ringsel = 0 ∧ (p 0x700 5).dbg = 5 ∧ (p 0x704 5).dbg = 0 ∧ (p 0xB08 5).trcbase = 5 ∧
      tget 0 (p 0x838 (2 ^ 63 + 2 ^ 62 + 5)).bps 7 = 2 ^ 63 + 5 ∧ tget 0 (p 0x590 5).nonce 2 = 5 ∧ (p 0x598 5) = {} ∧
      podAt (after (.configRegisterWrite 0x27F8 (BitVec.allOnes 64)) s) 63 3 = 0xFFC00000 ∧
      podAt (after (.configRegisterWrite 0x2000 7) s) 0 0 = 7 := by decide +kernel

theorem test_spare_remap :
    let s : State := { lmap := [(3, none)] }
    s.phys 3 = none ∧ s.logical 16 = none ∧ (s.core 16).retired = false ∧ (s.core 16).idle = true ∧
      (after (.spareRemap 3) s).phys 3 = some 16 ∧ (after (.spareRemap 5) { s with cores := [(5, { slot := some 0 })] }).phys 5 = some 5 ∧
      (after (.spareRemap 5) {}).phys 5 = some 16 ∧
      (after (.spareRemap 3) { s with dies := [(0, { st := .failed })] }).phys 3 = none := by decide +kernel

theorem test_power_on :
    linkExists 0 = true ∧ linkExists 2 = false ∧ linkExists 640 = true := by decide +kernel

/-! ### Further forms -/

-- core-scope classes: counters, delay accumulators, the legal carve, the pool's lender (R36, R38, R62, R402)
theorem test_core_registers :
    let s := st (thread [(4, 0x808), (5, 0x10001F), (6, 9), (7, 0x1000000000)]) { rfd := 3 }
    plain s [4] [3] = true ∧ (after (.crw 6 0x037) s).myCore.nctr[7] = 9 ∧ tget 0 (after (.crw 6 0x17F) s).myCore.dacc 127 = 9 ∧
      (after (.crs 3 6 0x110) s).gr 3 = 0 ∧ tget 0 (after (.crs 3 6 0x110) s).myCore.dacc 16 = 9 ∧
      (after (.crw 4 0x020) s).myCore.dirG = 8 ∧ (after (.crw 4 0x020) s).me.regs.pc = 0x100004 ∧
      ((after (.crw 5 0x021) s).cluster 0).lend = 16 ∧ (after (.crc 3 7 0x020) s).gr 3 = 16 ∧ (after (.crw 5 0x021) s).me.regs.pc = 0x100004 := by
  decide +kernel

-- two timers of one delay: the lower index goes first (R148, R158)
theorem test_timer_order :
    let th : Thread := { waiting [timer 9, timer 9] { st := .opened, seq := 1 } with wait := .sync 3 [timer 9, timer 9] true }
    let s : State := { cellState {} (.ack key 0) with cores := [(0, { threads := [(0, th)], cyc := 9 })] }
    s.me.wait = .sync 3 [timer 9, timer 9] true ∧ s.me.cell.fired = [] ∧ after (.timerAlternativeDue 0 0 1) s = s ∧
      (after (.timerAlternativeDue 0 0 0) s).me.st = .inRot ∧ (after (.timerAlternativeDue 0 0 0) s).gr 3 = 0 := by decide +kernel

-- an element of f32 1 by 32 products 1·1 of bf16 (0x3F80) is 33 = 0x42040000; i8 −1·2 (R57-R60)
theorem test_accumulation :
    let one := List.replicate 32 0x3F80
    floatPair 2 2 ∧ ¬ floatPair 2 3 ∧ accumulate 2 2 0x3F800000 one one = (0x42040000, {}) ∧
      (accumulate 2 2 0x7FC00000 one one).2 = { nan := 1 } ∧ (accumulate 2 2 0 (0x7F80 :: one.drop 1) one) = (0x7F800000, {}) ∧
      (accumulate 2 2 0 (0x7F80 :: one.drop 1) (0 :: one.drop 1)).2 = { inv := 1 } ∧
      accumulate 4 4 100 (List.replicate 32 255) (List.replicate 32 2) = (36, {}) ∧
      (accumulate 5 5 0x7FFFFFFF (List.replicate 32 1) (List.replicate 32 1)).2 = { wrap := 1 } := by
  refine ⟨by simp [floatPair], by simp [floatPair], by decide +kernel⟩

-- a Setter core's threads go to a FREE core of its die (log 72); a command that finds its core idle ends (R333, R336)
theorem test_moves_start :
    let s : State := { fw (thread []) with links := allUp }
    let u := after (.preemptionFreeze 19584 16) s
    let idle : State := { s with panel := { prestat := 2 ^ 63, precmd := 5 } }
    s.cmdIdle = false ∧ isSetter 19584 = true ∧ dieOf 16 = dieOf 19584 ∧ s.canReceive 16 = true ∧ (s.core 19584).idle = false ∧
      (u.core 19584).moveTo = some 16 ∧ (u.thread 19584 0).st = .frozen ∧ idle.cmdIdle = true ∧
      prestatIs (after (.preemptionFreeze 0 16) idle) 0 0 5 ∧ (after (.preemptionFreeze 0 16) idle).panel.msix = [0] := by
  unfold prestatIs; decide +kernel

-- a chain entry follows a moved core and counts the crossing (R335, R391)
theorem test_chain_follows :
    let e : ChainEntry := ⟨7, 8, 2⟩
    let m : Msg := { cls := .request, src := .core 1, dst := .core 0, pos := 0, site := 0, phys := 0, body := .chain 2 e }
    let s : State := { st (thread []) with lmap := [(0, some 16), (16, some 0)], net := [m] }
    s.net[0]? = some m ∧ m.phys ≠ 16 ∧ (s.core m.phys).moveTo = none ∧
      (after (.forwardingEntryArrival 0) s).net = [{ m with phys := 16, body := .chain 2 { e with hops := 2 + spareHop 16 } }] := by decide +kernel

-- poison of a line; a join that only an engine's offer stands for aborts that kernel alone (R368, R400)
theorem test_machine_check_parts :
    let s := moveState none
    let e : EvKey := ⟨BitVec.ofNat 64 joinName, 0, 0⟩
    let o : Offer := { offer 0 0 with key := e, who := .engine, kern := some 0 }
    let b : State := { s with bugles := [(3, ⟨[{ key := e, age := 0 }], [o]⟩)], kernels := [(0, oneLevel), (1, oneLevel)] }
    let u := after (.machineCheck (.joinCount 3 0)) b
    (after (.machineCheck (.line 9)) s).poison = [9] ∧ faultsReceived b 0 oneLevel ∧ (b.bugle 3).of e = [o] ∧ e.ctx = 0 ∧
      (u.kernel 0).map (fun k => (k.st, k.cause)) = some (.aborted, 20) ∧ (u.kernel 1).map Kernel.st = some .running ∧
      (u.bugle 3).of e = [] ∧ (u.ctx 0).recs.map (fun r => bits r.w1 63 59) = [18] := by
  exact ⟨by decide +kernel, (no_faults rfl rfl rfl).1 _ _, by decide +kernel⟩

-- 16 replays have failed on edge 0, over which a message of context 0 has yet to pass (R375); the control word (R374)
theorem test_link_loss :
    let m : Msg := { msg (.bugle 0) (.core 0) (.grant key 0) with pos := 0, site := 13 }
    let s : State := { edge .up 16 with net := [m], kernels := [(0, oneLevel)] }
    16 ≤ (s.link 0).tries ∧ 4 * m.pos + (hopBy s.routes m.pos m.site m.lvl).1 = 0 ∧ s.kernel 0 = some oneLevel ∧ oneLevel.ctx = m.ctx ∧
      alive oneLevel ∧ (s.link 0).word = BitVec.ofNat 64 (2 * 2 ^ 61 + 32 * 2 ^ 32 + 7) ∧
      ((after (.linkRetrainCmd 0) (edge .training)).link 0).cmd = true := by
  unfold alive; decide +kernel

/-- One UALink port UP is every event's port (R388). -/
theorem pod_port_one {s : State} {n : Nat} (memb name : Nat) (h : ((List.range 64).filter fun n => (s.link (576 + n)).st == .up) = [n]) :
    s.podPort memb name = n := by
  simp [State.podPort, h, Nat.mod_one]

theorem test_leaves_panel :
    let m : Msg := { msg (.bugle 0) (.pod 3) (.grant key 0) with pos := 0, site := 0 }
    let s : State := { st (thread []) with net := [m], deficit := [(ringKey 144 5 .event 127, 0), (ringKey 144 5 .event 0, 640)] }
    let dark : State := { s with links := [] }
    s.podPort 3 ((m.body.event.map fun k => k.name.toNat).getD 0) = 0 ∧ tget 128 s.deficit (ringKey 144 5 m.cls 127) = m.memb ∧
      64 * m.flits 144 ≤ tget 0 s.deficit (ringKey 144 5 m.cls m.memb) ∧ m.body.podLeft = none ∧ m.ctx < 64 ∧ (∀ o, m.body ≠ .offer o) ∧
      (∀ n < 64, (dark.link (576 + n)).st ≠ .up) ∧ (after (.messageForward 0) dark).net = [m] := by
  intro m s dark
  refine ⟨pod_port_one _ _ (by decide +kernel), by decide +kernel, by decide +kernel, by decide +kernel, by decide +kernel, ?_, by decide +kernel⟩
  rintro o ⟨⟩

-- a dead number of a die that is reset: its own core serves it again (R334, R336, log 72)
theorem test_number_revives :
    let s : State := { busyDie with lmap := [(5, none)] }
    s.phys 5 = none ∧ s.logical (homeCore 5) = none ∧ (∀ m, m / 16 = 5 / 16 → m ≠ 5 → s.phys m ≠ none) ∧
      (after (.dieReset 0) s).phys 5 = some (homeCore 5) := by
  refine ⟨by decide +kernel, by decide +kernel, ?_, by decide +kernel⟩
  intro m h h'
  have hm : m < 16 := by omega
  revert h'
  interval_cases m <;> decide +kernel

-- the host finds no page (R313): PAGE for the thread that waits
theorem test_host_finds_none :
    let th : Thread := { thread [] with st := .wait, wait := .load { kind := .ld 3 .d64, miss := true } }
    let m : Miss := { miss7 with host := true }
    let s : State := { st th with misses := [m] }
    (s.misses.filter fun m => m.sent && m.tag == 7) = [m] ∧ compute 0 ∧ (after (.hostWalkAnswer 7 true 0 0) s).me.latch.trap = 3 ∧
      (after (.hostWalkAnswer 7 true 0 0) s).misses = [] ∧ (after (.hostWalkAnswer 7 true 1 0) s).misses = [m] := by
  unfold compute; decide +kernel

-- the digest of no bytes begins 46 b9 dd 2b (FIPS 202, SHAKE256; R398, R399)
theorem test_shake : (shake256 []).toNat % 2 ^ 32 = 0x2bddb946 := by decide +kernel

-- causes of R351: OFF_RES, levels, capacity, alignment, barrier, service, shape block, route block, routes
theorem test_record_checks :
    let s := launchState (record)
    let place (bad : Nat) (_ : State) (va : Word) : EngAt := if va.toNat = bad then .fault s 3 else .ok (.line line 8 0x100008)
    let c (more : Nat) (bad : Nat := 0) : Nat := match s.checkRecord (s.kernelFrom 0 (record more)) false (place bad) 0 0 with
      | .cause _ n => n
      | _ => 0
    [c 0, c (2 ^ 1600), c (9 * 2 ^ 160), c (16 * 2 ^ 768), c 2, c (0x81 * 2 ^ 1280), c (2 ^ 576), c (64 * 2 ^ 320) 64,
      c (8 * 2 ^ 640 + 2 ^ 704) 8] = [0, 1, 2, 3, 4, 5, 6, 8, 8] := by decide +kernel

/-! ### A trained panel -/

/-- Every edge of the panel is UP; die 0 is EARLY. -/
def trained : State :=
  { dies := [(0, { st := .early, clk := 1 })], links := (List.range 576).map fun n => (n, ⟨.up, 0, 32, 0, 0⟩) }

theorem tget_const {α : Type} (d v : α) (l : List Nat) (n : Nat) : tget d (l.map fun n => (n, v)) n = if n ∈ l then v else d := by
  induction l with
  | nil => rfl
  | cons k l ih =>
    by_cases h : n = k
    · simp [tget, h]
    · simp [tget, h, ih, Ne.symm h]

theorem trained_link (n : Nat) : (trained.link n).st = if n < 576 then .up else .absent := by
  simp only [State.link, trained, tget_const, List.mem_range]
  split <;> rfl

/-- Dimension order over edges that are UP ends at the destination (R377, R378): each step brings it one nearer, and a westward step
stands before every other. -/
theorem trained_path (b : Nat) (hb : b < 144) : ∀ (fuel a : Nat) (turned : Bool), a < 144 →
    (a % 12 - b % 12) + (b % 12 - a % 12) + (a / 12 - b / 12) + (b / 12 - a / 12) < fuel → (turned = true → a % 12 ≤ b % 12) →
    trained.pathOk [] b fuel a 0 turned = true
  | 0, _, _, _, h, _ => absurd h (Nat.not_lt_zero _)
  | fuel + 1, a, turned, ha, h, ht => by
    have up (d : Nat) (hd : d < 4) : (trained.link (4 * a + d)).st = .up := by rw [trained_link, if_pos (by omega)]
    unfold State.pathOk
    by_cases w : b % 12 < a % 12
    · have := trained_path b hb fuel (a - 1) false (by omega) (by omega) (by simp)
      have t : turned = false := by cases turned <;> simp_all; omega
      simp [hopBy, tget, neighbour, w, up, t, this, Nat.zero_lt_of_lt w]
    · by_cases e : a % 12 < b % 12
      · have := trained_path b hb fuel (a + 1) true (by omega) (by omega) (by omega)
        have x : a % 12 + 1 < 12 := by omega
        have u0 : (trained.link (4 * a)).st = .up := up 0 (by omega)
        simp [hopBy, tget, neighbour, w, e, u0, x, this]
      · by_cases n : a / 12 < b / 12
        · have := trained_path b hb fuel (a + 12) true (by omega) (by omega) (by omega)
          have x : a / 12 + 1 < 12 := by omega
          simp [hopBy, tget, neighbour, w, e, n, up, x, this]
        · by_cases k : b / 12 < a / 12
          · have := trained_path b hb fuel (a - 12) true (by omega) (by omega) (by omega)
            have x : 0 < a / 12 := by omega
            simp [hopBy, tget, neighbour, w, e, n, k, up, x, this]
          · have : a = b := by omega
            simp [hopBy, tget, this]

theorem test_trained_panel : trained.panelTrained = true ∧ trained.setOk [] = true ∧ (trained.die 0).st = .early ∧
    trained.drained = true := by
  have ok : trained.setOk [] = true := by
    simp only [State.setOk, List.all_nil, Bool.true_and, List.all_eq_true, List.mem_filter, List.mem_range]
    rintro a ⟨ha, -⟩ b ⟨hb, -⟩
    exact trained_path b hb 600 a false ha (by omega) (by simp)
  refine ⟨?_, ok, by decide +kernel⟩
  simp only [State.panelTrained, Bool.and_eq_true, List.all_eq_true, List.mem_range, bne_iff_ne]
  exact ⟨⟨fun n h => by rw [trained_link]; split <;> simp, by decide +kernel⟩, ok⟩

end
end

section

/-!
Taking a trap on a compute core (R31, R328): the state once the thread is latched, and what delivering its record adds to it.
-/

open Sys2Proof Sys2Proof.Claims

namespace Sys2Proof.Machine

/-! ### Giving back a reserved entry (R165) -/

/-- Of a core, only the reservations of its out-queues change. -/
theorem State.unreserve_core (s : State) (p t q : Nat) : ∃ x, (s.unreserve p t).core q = { s.core q with outRes := x } := by
  unfold State.unreserve
  split
  · exact ⟨_, rfl⟩
  · by_cases e : q = p
    · subst e; exact ⟨_, State.modCore_core_same _ _ _⟩
    · exact ⟨_, State.modCore_core_ne _ _ _ _ e⟩

@[simp] theorem State.unreserve_thread (s : State) (p t q k : Nat) : (s.unreserve p t).thread q k = s.thread q k := by
  obtain ⟨x, h⟩ := s.unreserve_core p t q
  rw [State.thread, h]; rfl

@[simp] theorem State.unreserve_core_direct (s : State) (p t q : Nat) : ((s.unreserve p t).core q).direct = (s.core q).direct := by
  obtain ⟨x, h⟩ := s.unreserve_core p t q
  rw [h]

@[simp] theorem State.unreserve_core_ctx (s : State) (p t q : Nat) : ((s.unreserve p t).core q).ctx = (s.core q).ctx := by
  obtain ⟨x, h⟩ := s.unreserve_core p t q
  rw [h]

/-- Outside the cores nothing changes. -/
theorem State.unreserve_eq (s : State) (p t : Nat) : s.unreserve p t = { s with cores := (s.unreserve p t).cores } := by
  unfold State.unreserve
  split <;> rfl

/-! ### The latched thread (R31, R114) -/

/-- A thread that a trap latches: as it was before the instruction, but for its retry latch and its sequence number. -/
def Thread.latched (th : Thread) (w : BitVec 32) (tr : Trap) : Thread :=
  { th.unpay.enter .latched with
    wait := .none, seq := th.seq + 1, popIn := none, resOut := none,
    latch := ⟨.trap, w, th.regs.pc, tr.kind, tr.cause, tr.addr, false, tr.drainPoison⟩ }

/-- In rotation it is LATCHED at once. -/
theorem Thread.latched_inRot (th : Thread) (w : BitVec 32) (tr : Trap) (h : th.st = .inRot) :
    th.latched w tr = { th.unpay with
      st := .latched, wait := .none, seq := th.seq + 1, popIn := none, resOut := none,
      latch := ⟨.trap, w, th.regs.pc, tr.kind, tr.cause, tr.addr, false, tr.drainPoison⟩ } := by
  simp only [Thread.latched, Thread.enter, Thread.unpay, h]

/-- The state in which a compute core's trap delivers its record. -/
def State.latch (s : State) (p t : Nat) (w : BitVec 32) (tr : Trap) : State :=
  ((s.unreserve p t).modThread p t Thread.unpay).setThread p t ((s.thread p t).latched w tr)

@[simp] theorem State.latch_thread_same (s : State) (p t : Nat) (w : BitVec 32) (tr : Trap) :
    (s.latch p t w tr).thread p t = (s.thread p t).latched w tr := by simp [State.latch]

theorem State.latch_thread_ne (s : State) (p t : Nat) (w : BitVec 32) (tr : Trap) (q k : Nat) (h : (q, k) ≠ (p, t)) :
    (s.latch p t w tr).thread q k = s.thread q k := by
  simp [State.latch, State.modThread, State.setThread_thread_ne _ _ _ _ _ _ h]

@[simp] theorem State.latch_core_direct (s : State) (p t : Nat) (w : BitVec 32) (tr : Trap) (q : Nat) :
    ((s.latch p t w tr).core q).direct = (s.core q).direct := by simp [State.latch, State.modThread]

@[simp] theorem State.latch_core_ctx (s : State) (p t : Nat) (w : BitVec 32) (tr : Trap) (q : Nat) :
    ((s.latch p t w tr).core q).ctx = (s.core q).ctx := by simp [State.latch, State.modThread]

/-- Outside the cores nothing changes. -/
theorem State.latch_eq (s : State) (p t : Nat) (w : BitVec 32) (tr : Trap) :
    s.latch p t w tr = { s with cores := (s.latch p t w tr).cores } := by
  unfold State.latch
  rw [s.unreserve_eq p t]
  rfl

/-- A compute core's trap: the thread latched, then its record delivered. -/
theorem State.trapThread_latch (s : State) (p t : Nat) (w : BitVec 32) (tr : Trap) (h : isSetter p = false) :
    s.trapThread p t w tr =
      (s.latch p t w tr).deliver p t (s.thread p t).slot (s.core p).ctx
        (faultRecord ((s.thread p t).seq + 1) (s.gtn p t) (s.thread p t).regs.pc w tr) := by
  have gtn : ((s.unreserve p t).modThread p t Thread.unpay).gtn p t = s.gtn p t := by
    rw [s.unreserve_eq p t]; rfl
  have ctx : (((s.unreserve p t).modThread p t Thread.unpay).core p).ctx = (s.core p).ctx := by simp [State.modThread]
  simp only [State.trapThread, h, Bool.false_eq_true, if_false, gtn, ctx, State.modThread_thread_same, State.unreserve_thread,
    State.setThread_core_ctx]
  rfl

/-! ### Delivering a record (R232, R328) -/

/-- A delivered record changes no thread and no core. -/
theorem State.deliver_core (s : State) (p t slot c : Nat) (r : FRec) (q : Nat) : (s.deliver p t slot c r).core q = s.core q := by
  rw [State.core, (s.deliver_frame p t slot c r).1]; rfl

/-- Mode 2 is the host ring. -/
theorem State.deliver_host (s : State) (p t slot c : Nat) (r : FRec) (k : Kernel) (hk : s.kernel slot = some k)
    (m : bits k.fmode 2 1 = 2) : s.deliver p t slot c r = s.toHost c r := by
  simp only [State.deliver, hk, m]

/-- Mode 1 is Umator. -/
theorem State.deliver_umator (s : State) (p t slot c : Nat) (r : FRec) (k : Kernel) (hk : s.kernel slot = some k)
    (m : bits k.fmode 2 1 = 1) :
    s.deliver p t slot c r = s.toUmator (clusterOf p) 0x3000000000000001 r.data (s.thread p t).rt (some (c, 256, 0)) := by
  simp only [State.deliver, hk, m]

/-- Mode 0 is the kernel's fault event, while the kernel is alive and names one. -/
theorem State.deliver_event (s : State) (p t slot c : Nat) (r : FRec) (k : Kernel) (hk : s.kernel slot = some k)
    (m : bits k.fmode 2 1 = 0) (hc : k.st ≠ .complete) (ha : k.st ≠ .aborted) (ev : BitVec.ofNat 64 (k.field 72 8) ≠ 0) :
    ∃ src dst o, s.deliver p t slot c r = s.send .event src dst c (.offer o) ∧
      o.key.name = BitVec.ofNat 64 (k.field 72 8) ∧ o.data = r.data := by
  have live : s.liveKernel slot = some k := by simp [State.liveKernel, hk, hc, ha]
  simp only [State.deliver, hk, m, live, if_neg ev]
  exact ⟨_, _, _, rfl, rfl, rfl⟩

/-- Mode 0 is the host ring once the kernel has ended. -/
theorem State.deliver_ended (s : State) (p t slot c : Nat) (r : FRec) (k : Kernel) (hk : s.kernel slot = some k)
    (m : bits k.fmode 2 1 = 0) (e : k.st = .complete ∨ k.st = .aborted) : s.deliver p t slot c r = s.toHost c r := by
  have dead : s.liveKernel slot = none := by simp [State.liveKernel, hk, e]
  simp [State.deliver, hk, m, dead]

/-- The host ring's context gains the record. -/
theorem State.toHost_recs (s : State) (c : Nat) (r : FRec) : ((s.toHost c r).ctx c).recs = (s.ctx c).recs ++ [r] := by
  simp [State.toHost]

/-! ### The statements -/

/-- A trap in rotation latches the thread and leaves the rest of the machine, its record apart. -/
theorem trapLatches : Claims.TrapLatches := by
  intro s p t w tr hp hin th u
  have hu : u = (s.latch p t w tr).deliver p t th.slot (s.core p).ctx _ := s.trapThread_latch p t w tr hp
  have thread (q k : Nat) : u.thread q k = (s.latch p t w tr).thread q k := by rw [hu, State.thread, State.deliver_core]; rfl
  have same : u.thread p t = th.latched w tr := by rw [thread, State.latch_thread_same]
  obtain ⟨-, dram, host, pod, -⟩ := (s.latch p t w tr).deliver_frame p t th.slot (s.core p).ctx
    (faultRecord (th.seq + 1) (s.gtn p t) th.regs.pc w tr)
  rw [← hu, s.latch_eq p t w tr] at dram host pod
  rw [same, Thread.latched_inRot th w tr hin]
  refine ⟨rfl, rfl, rfl, rfl, rfl, rfl, dram, host, pod, fun q => ?_, fun q k h => ?_⟩
  · rw [hu, State.deliver_core, State.latch_core_direct]
  · rw [thread, State.latch_thread_ne _ _ _ _ _ _ _ h]

/-- The kernel's service field chooses where the record goes. -/
theorem faultRecords : Claims.FaultRecords := by
  intro s p t w tr k hp hk th c u r ev data
  let v := s.latch p t w tr
  have hu : u = v.deliver p t th.slot c r := s.trapThread_latch p t w tr hp
  have out : v = { s with cores := v.cores } := s.latch_eq p t w tr
  have kern : v.kernel th.slot = some k := by rw [out]; exact hk
  have net : v.net = s.net := by rw [out]
  have ctxs : v.ctxs = s.ctxs := by rw [out]
  have recs : ((v.toHost c r).ctx c).recs = (s.ctx c).recs ++ [r] := by rw [State.toHost_recs, State.ctx, ctxs]; rfl
  refine ⟨fun m => ?_, fun m => ?_, fun m hc ha he => ?_, fun m he => ?_⟩
  case _ =>
    rw [hu, v.deliver_host p t _ c r k kern m]
    exact ⟨recs, net⟩
  case _ =>
    rw [hu, v.deliver_umator p t _ c r k kern m]
    exact ⟨_, _, by rw [← net]; rfl, rfl, rfl, rfl, ctxs⟩
  case _ =>
    obtain ⟨src, dst, o, sent, name, d⟩ := v.deliver_event p t _ c r k kern m hc ha he
    rw [hu, sent]
    exact ⟨_, o, by rw [← net]; rfl, rfl, name, d, ctxs⟩
  case _ =>
    rw [hu, v.deliver_ended p t _ c r k kern m he]
    exact recs

/-- Settles O11: the latched state is the thread's own update, and delivering the record touches no core. -/
theorem exceptions : Obligations.Exceptions := ⟨trapLatches, faultRecords⟩

end Sys2Proof.Machine
end

section

/-!
A Setter core starts an image (R398): a thread that leaves touches no thread of another core, and a core that starts holds 16 fresh
threads.
-/

open Sys2Proof Sys2Proof.Claims

namespace Sys2Proof.Machine

/-! ### Folds in which each element settles its own -/

/-- What every step of a fold keeps holds at its end. -/
theorem foldl_keeps {σ α : Type} (f : σ → α → σ) (P : σ → Prop) (keep : ∀ s a, P s → P (f s a)) (l : List α) :
    ∀ s, P s → P (l.foldl f s) := by
  induction l with
  | nil => exact fun _ h => h
  | cons a l ih => exact fun s h => ih _ (keep s a h)

/-- What the step of an element establishes, and every step keeps, holds for all the elements of a fold. -/
theorem foldl_settles {σ α : Type} (f : σ → α → σ) (P : α → σ → Prop) (own : ∀ s a, P a (f s a))
    (keep : ∀ s a b, P a s → P a (f s b)) (l : List α) : ∀ s, ∀ a ∈ l, P a (l.foldl f s) := by
  induction l with
  | nil => exact fun _ _ h => nomatch h
  | cons b l ih =>
    intro s a h
    obtain rfl | h := List.mem_cons.mp h
    · exact foldl_keeps f (P a) (fun s b => keep s a b) l _ (own s a)
    · exact ih _ a h

/-! ### What stays of other cores' threads -/

/-- From `s` to `u` the panel's registers and the threads of all cores outside `S` stay. -/
def KeepsOutside (S : Nat → Prop) (s u : State) : Prop :=
  u.panel = s.panel ∧ ∀ q, ¬ S q → ∀ t, u.thread q t = s.thread q t

theorem KeepsOutside.refl (S : Nat → Prop) (s : State) : KeepsOutside S s s := ⟨rfl, fun _ _ _ => rfl⟩

theorem KeepsOutside.trans {S : Nat → Prop} {s u v : State} (h : KeepsOutside S s u) (k : KeepsOutside S u v) :
    KeepsOutside S s v :=
  ⟨k.1.trans h.1, fun q hq t => (k.2 q hq t).trans (h.2 q hq t)⟩

theorem KeepsOutside.mono {S T : Nat → Prop} {s u : State} (h : KeepsOutside S s u) (sub : ∀ q, S q → T q) : KeepsOutside T s u :=
  ⟨h.1, fun q hq => h.2 q fun e => hq (sub q e)⟩

theorem KeepsOutside.foldl {α : Type} {S : Nat → Prop} (f : State → α → State) (l : List α)
    (step : ∀ s, ∀ a ∈ l, KeepsOutside S s (f s a)) (s : State) : KeepsOutside S s (l.foldl f s) := by
  induction l generalizing s with
  | nil => exact .refl S s
  | cons a l ih =>
    exact (step s a List.mem_cons_self).trans (ih (fun s b h => step s b (List.mem_cons_of_mem _ h)) _)

/-- Neither the panel nor a core is touched. -/
theorem KeepsOutside.of_cores (S : Nat → Prop) {s u : State} (panel : u.panel = s.panel) (cores : u.cores = s.cores) :
    KeepsOutside S s u :=
  ⟨panel, fun q _ t => by rw [State.thread, State.core, cores]; rfl⟩

theorem keepsOutside_modCore (s : State) (p : Nat) (f : Core → Core) : KeepsOutside (· = p) s (s.modCore p f) :=
  ⟨rfl, fun q h t => by rw [State.thread, State.modCore_core_ne _ _ _ _ h]; rfl⟩

theorem keepsOutside_modThread (s : State) (p t : Nat) (f : Thread → Thread) : KeepsOutside (· = p) s (s.modThread p t f) :=
  keepsOutside_modCore s p fun c => c.setThread t (f (c.thread t))

theorem keepsOutside_misses (S : Nat → Prop) (s : State) (l : List Miss) : KeepsOutside S s { s with misses := l } :=
  .of_cores S rfl rfl

/-- Every core changes, but not in its threads. -/
theorem keepsOutside_mapCores (S : Nat → Prop) (f : Core → Core) (threads : ∀ c, (f c).threads = c.threads) {s u : State}
    (panel : u.panel = s.panel) (cores : u.cores = s.cores.map fun e => (e.1, f e.2)) : KeepsOutside S s u := by
  have same (l : Tab Core) (q : Nat) : (tget {} (l.map fun e => (e.1, f e.2)) q).threads = (tget {} l q).threads := by
    induction l with
    | nil => rfl
    | cons e l ih =>
      simp only [List.map_cons, tget]
      split
      · exact threads e.2
      · exact ih
  exact ⟨panel, fun q _ t => by simp only [State.thread, Core.thread, State.core, cores, same]⟩

/-! ### A thread leaves (R24, R157) -/

theorem keepsOutside_withdraw (S : Nat → Prop) (s : State) (p t : Nat) (keep : Option Nat) :
    KeepsOutside S s (s.withdraw p t keep) := by
  unfold State.withdraw
  dsimp only
  split
  · refine .foldl _ _ (fun s k _ => ?_) s
    split
    · exact .refl S s
    · split
      · exact .refl S s
      · exact .of_cores S rfl rfl
  · exact .refl S s

theorem keepsOutside_teamsDone (S : Nat → Prop) (s : State) (slot : Nat) : KeepsOutside S s (s.teamsDone slot) := by
  unfold State.teamsDone
  split
  · exact .refl S s
  · exact .of_cores S rfl rfl

theorem keepsOutside_unreserve (S : Nat → Prop) (s : State) (p t : Nat) : KeepsOutside S s (s.unreserve p t) :=
  ⟨by unfold State.unreserve; split <;> rfl, fun q _ k => s.unreserve_thread p t q k⟩

theorem keepsOutside_untoken (S : Nat → Prop) (s : State) (p gtn : Nat) : KeepsOutside S s (s.untoken p gtn) :=
  keepsOutside_mapCores S (fun c => { c with journal := c.journal.map fun j => (j.1, { j.2 with kind := j.2.kind.untoken p gtn }) })
    (fun _ => rfl) rfl rfl

theorem keepsOutside_modFrames (S : Nat → Prop) (s : State)
    (f : Word × Option (Nat × Nat × Nat) → Word × Option (Nat × Nat × Nat)) : KeepsOutside S s (s.modFrames f) :=
  keepsOutside_mapCores S (fun c => { c with
    deque := c.deque.map fun x => { x with rt := (f (x.rt, x.pend)).1, pend := (f (x.rt, x.pend)).2 }
    spill := c.spill.map f }) (fun _ => rfl) rfl rfl

theorem keepsOutside_freeNow (s : State) (p t : Nat) : KeepsOutside (· = p) s (s.freeNow p t) := by
  unfold State.freeNow
  dsimp only
  refine .trans ?_ (keepsOutside_modCore _ p _)
  refine .trans ?_ (keepsOutside_misses _ _ _)
  refine .trans ?_ (keepsOutside_modFrames _ _ _)
  refine .trans ?_ (keepsOutside_untoken _ _ p _)
  exact .trans (keepsOutside_unreserve _ s p t) (.of_cores _ rfl rfl)

/-- A thread that leaves touches no thread of another core. -/
theorem keepsOutside_leave (s : State) (p t : Nat) : KeepsOutside (· = p) s (s.leave p t) := by
  unfold State.leave
  dsimp only
  split
  · exact .trans (keepsOutside_withdraw _ s p t _) (keepsOutside_modThread _ p t _)
  · exact ((keepsOutside_withdraw _ s p t _).trans (keepsOutside_freeNow _ p t)).trans (keepsOutside_teamsDone _ _ _)

/-! ### Setter cores start an image (R311, R398) -/

/-- A thread stands at its start in the image at `a`. -/
def State.startsAt (s : State) (a p t : Nat) : Prop :=
  (s.thread p t).st = .inRot ∧
    (s.thread p t).regs.pc = BitVec.ofNat 56 ((Config.firmwareEntry (a * 16 + t)).toNat / 4 * 4)

/-- Some threads of a core are replaced by fresh ones of the image at `a`. -/
def Core.fresh (c : Core) (a : Nat) (l : List Nat) : Core := l.foldl (fun c t => c.setThread t (firmwareThread a t (c.thread t))) c

theorem Core.fresh_thread (c : Core) (a : Nat) (l : List Nat) :
    ∀ t ∈ l, ∃ old, (c.fresh a l).thread t = firmwareThread a t old := by
  refine foldl_settles _ (fun t c => ∃ old, c.thread t = firmwareThread a t old)
    (fun c t => ⟨_, Core.setThread_thread_same _ _ _⟩) (fun c t u h => ?_) l c
  by_cases e : t = u
  · subst e; exact ⟨_, Core.setThread_thread_same _ _ _⟩
  · rwa [Core.setThread_thread_ne _ _ _ _ e]

@[simp] theorem Core.withCtx_thread (c : Core) (n t : Nat) : ({ c with ctx := n } : Core).thread t = c.thread t := rfl

/-- One Setter core starts an image: its threads leave, and 16 fresh ones stand in their place. -/
def State.startCore (s : State) (a p : Nat) : State :=
  let ts := ((s.core p).threads.filter fun e => e.2.st != .free).map Prod.fst
  (ts.foldl (fun s t => s.leave p t) s).modCore p fun c => { c.fresh a (List.range 16) with ctx := 64 }

theorem State.startUmator_eq (s : State) (d a : Nat) :
    s.startUmator d a = (List.range 16).foldl (fun s i => s.startCore a (19584 + 16 * d + i)) s := rfl

theorem keepsOutside_startCore (s : State) (a p : Nat) : KeepsOutside (· = p) s (s.startCore a p) :=
  (KeepsOutside.foldl (fun s t => s.leave p t) _ (fun s t _ => keepsOutside_leave s p t) s).trans (keepsOutside_modCore _ p _)

theorem State.startCore_startsAt (s : State) (a p : Nat) (t : Nat) (ht : t < 16) : (s.startCore a p).startsAt a p t := by
  unfold State.startCore State.startsAt
  simp only [State.thread, State.modCore_core_same, Core.withCtx_thread]
  obtain ⟨old, h⟩ := Core.fresh_thread _ a _ t (List.mem_range.mpr ht)
  rw [h]
  exact ⟨rfl, rfl⟩

/-- A start elsewhere leaves a thread where it stands. -/
theorem KeepsOutside.startsAt {S : Nat → Prop} {s u : State} (h : KeepsOutside S s u) {a p t : Nat} (hp : ¬ S p)
    (at' : s.startsAt a p t) : u.startsAt a p t := by
  unfold State.startsAt at *; rwa [h.2 p hp t]

theorem keepsOutside_startUmator (s : State) (d a : Nat) :
    KeepsOutside (fun q => ∃ i < 16, q = 19584 + 16 * d + i) s (s.startUmator d a) :=
  .foldl _ _ (fun s i hi => (keepsOutside_startCore s a _).mono fun _ e => ⟨i, List.mem_range.mp hi, e⟩) s

/-- Every thread of a die's Setter cores stands at its start. -/
theorem State.startUmator_startsAt (s : State) (d a : Nat) :
    ∀ i < 16, ∀ t < 16, (s.startUmator d a).startsAt a (19584 + 16 * d + i) t := by
  intro i hi
  rw [s.startUmator_eq]
  refine foldl_settles _ (fun i s => ∀ t < 16, s.startsAt a (19584 + 16 * d + i) t)
    (fun s i t ht => s.startCore_startsAt a _ t ht) (fun s i j h t ht => ?_) _ s i (List.mem_range.mpr hi)
  by_cases e : i = j
  · subst e; exact s.startCore_startsAt a _ t ht
  · exact (keepsOutside_startCore s a _).startsAt (by omega) (h t ht)

/-- Every thread of the Setter cores of some dies stands at its start. -/
theorem State.startDies_startsAt (s : State) (l : List Nat) (a : Nat) :
    ∀ d ∈ l, ∀ i < 16, ∀ t < 16, (l.foldl (fun s d => s.startUmator d a) s).startsAt a (19584 + 16 * d + i) t := by
  refine foldl_settles _ (fun d s => ∀ i < 16, ∀ t < 16, s.startsAt a (19584 + 16 * d + i) t)
    (fun s d => s.startUmator_startsAt d a) (fun s d e h i hi t ht => ?_) l s
  by_cases same : d = e
  · subst same; exact s.startUmator_startsAt d a i hi t ht
  · exact (keepsOutside_startUmator s e a).startsAt (by omega) (h i hi t ht)

theorem State.startDies_panel (s : State) (l : List Nat) (a : Nat) :
    (l.foldl (fun s d => s.startUmator d a) s).panel = s.panel :=
  (KeepsOutside.foldl (S := fun _ => True) _ l (fun s d _ => (keepsOutside_startUmator s d a).mono fun _ _ => trivial) s).1

end Sys2Proof.Machine
end

section

/-!
Firmware loads and attestation reports (R398, R399): what each row does, and where the parts of a report lie in its bytes.
-/

open Sys2Proof Sys2Proof.Claims

namespace Sys2Proof.Machine

/-! ### Bytes, little-endian -/

@[simp] theorem leBytes_length (n v : Nat) : (leBytes n v).length = n := by
  induction n generalizing v with
  | zero => rfl
  | succ n ih => simp [leBytes, ih]

theorem leNat_leBytes (n v : Nat) (h : v < 256 ^ n) : leNat (leBytes n v) = v := by
  induction n generalizing v with
  | zero => simp at h; simp [leBytes, leNat, h]
  | succ n ih =>
    have high : leNat (leBytes n (v / 256)) = v / 256 := ih _ (by rw [pow_succ] at h; omega)
    simp only [leBytes, leNat, List.foldr_cons, BitVec.toNat_ofNat] at high ⊢
    rw [high]
    omega

/-- A machine word of whole bytes is read back. -/
theorem leNat_leBytes_toNat {w : Nat} (n : Nat) (x : BitVec w) (h : w = 8 * n) : leNat (leBytes n x.toNat) = x.toNat := by
  subst h
  exact leNat_leBytes n _ (Nat.pow_mul 2 8 n ▸ x.isLt)

/-! ### Parts of a byte string -/

/-- Bytes that lie within the middle of three strings. -/
theorem part_of_middle {α : Type} (xs ys zs : List α) (n m k : Nat) (hx : xs.length = n) (h : m + k ≤ ys.length) :
    ((xs ++ (ys ++ zs)).drop (n + m)).take k = (ys.drop m).take k := by
  subst hx
  rw [List.drop_length_add_append, List.drop_append_of_le_length (by omega), List.take_append_of_le_length (by simp; omega)]

/-- The middle of three strings. -/
theorem middle_part {α : Type} (xs ys zs : List α) (n k : Nat) (hx : xs.length = n) (hy : ys.length = k) :
    ((xs ++ (ys ++ zs)).drop n).take k = ys := by
  subst hx hy
  rw [List.drop_left, List.take_left]

/-- Strings of one length laid out one after another: the `i`th of them. -/
theorem flatMap_part {α β : Type} (f : α → List β) (k : Nat) (hf : ∀ a, (f a).length = k) (l : List α) :
    ∀ i (h : i < l.length), ((l.flatMap f).drop (k * i)).take k = f l[i] := by
  induction l with
  | nil => exact fun _ h => nomatch h
  | cons a l ih =>
    intro i h
    rw [List.flatMap_cons]
    cases i with
    | zero => rw [Nat.mul_zero, List.drop_zero, ← hf a, List.take_left]; rfl
    | succ i =>
      rw [show k * (i + 1) = (f a).length + k * i by rw [hf, Nat.mul_succ, Nat.add_comm], List.drop_length_add_append]
      exact ih i (by simpa using h)

/-- The words of a table laid out in its order. -/
def wordBytes (f : Nat → Word) (n : Nat) : List Byte := (List.range n).flatMap fun i => leBytes 8 (f i).toNat

@[simp] theorem wordBytes_length (f : Nat → Word) (n : Nat) : (wordBytes f n).length = 8 * n := by
  simp [wordBytes, List.length_flatMap, Nat.mul_comm]

theorem leNat_wordBytes (f : Nat → Word) (n i : Nat) (h : i < n) : leNat (((wordBytes f n).drop (8 * i)).take 8) = (f i).toNat := by
  rw [wordBytes, flatMap_part _ 8 (fun _ => leBytes_length _ _) _ i (by simpa using h), List.getElem_range]
  exact leNat_leBytes_toNat 8 _ rfl

/-! ### Attestation (R399) -/

/-- The part of a report that is signed: nonce, digest of the running image, die registers. -/
def State.reportBody (s : State) : List Byte :=
  wordBytes (tget 0 s.panel.nonce) 4 ++ leBytes 64 (s.panel.fwdig.getD 0).toNat ++ wordBytes (fun d => (s.die d).word) 72

/-- What stands after it: its digest, the signature, zeros. -/
def reportTail (body : List Byte) : List Byte :=
  leBytes 64 (shake256 body).toNat ++ leBytes 1280 (Config.falconSign (shake256 body)).toNat ++ List.replicate 32 0

theorem State.reportBody_length (s : State) : s.reportBody.length = 672 := by simp [State.reportBody]

theorem execAttestationReportDone_idle (s : State) (h : s.panel.atBusy = false) : execAttestationReportDone s = .next s := by
  simp only [execAttestationReportDone, h, Bool.not_false, if_true]

theorem execAttestationReportDone_busy (s : State) (h : s.panel.atBusy = true) :
    execAttestationReportDone s = .next { s with panel := { s.panel with
      report := s.reportBody ++ reportTail s.reportBody, atBusy := false, atCount := s.panel.atCount + 1 } } := by
  simp only [execAttestationReportDone, h, Bool.not_true, Bool.false_eq_true, if_false, List.append_assoc, State.reportBody,
    reportTail, wordBytes]

/-- The nonce stands first. -/
theorem State.reportBody_nonce (s : State) (zs : List Byte) (i : Nat) (h : i < 4) :
    leNat (((s.reportBody ++ zs).drop (8 * i)).take 8) = (tget 0 s.panel.nonce i).toNat := by
  rw [State.reportBody, List.append_assoc, List.append_assoc,
    ← List.nil_append (wordBytes (tget 0 s.panel.nonce) 4 ++ _), ← Nat.zero_add (8 * i),
    part_of_middle _ _ _ 0 _ _ rfl (by rw [wordBytes_length]; omega), leNat_wordBytes _ _ _ h]

/-- The digest of the running image stands at byte 32. -/
theorem State.reportBody_digest (s : State) (zs : List Byte) :
    leNat (((s.reportBody ++ zs).drop 32).take 64) = (s.panel.fwdig.getD 0).toNat := by
  rw [State.reportBody, List.append_assoc, List.append_assoc,
    middle_part _ _ _ 32 64 (wordBytes_length _ _) (leBytes_length _ _), leNat_leBytes_toNat 64 _ rfl]

/-- The die registers stand from byte 96 on. -/
theorem State.reportBody_die (s : State) (zs : List Byte) (d : Nat) (h : d < 72) :
    leNat (((s.reportBody ++ zs).drop (96 + 8 * d)).take 8) = (s.die d).word.toNat := by
  rw [State.reportBody, List.append_assoc (_ ++ _),
    part_of_middle _ _ _ 96 _ _ (by rw [List.length_append, wordBytes_length, leBytes_length])
      (by rw [wordBytes_length]; omega), leNat_wordBytes _ _ _ h]

/-- The digest of a report's body stands after it. -/
theorem reportTail_digest (body : List Byte) (h : body.length = 672) :
    leNat (((body ++ reportTail body).drop 672).take 64) = (shake256 body).toNat := by
  rw [reportTail, List.append_assoc, middle_part _ _ _ 672 64 h (leBytes_length _ _), leNat_leBytes_toNat 64 _ rfl]

/-- The signature stands after the digest. -/
theorem reportTail_signature (body : List Byte) (h : body.length = 672) :
    leNat (((body ++ reportTail body).drop 736).take 1280) = (Config.falconSign (shake256 body)).toNat := by
  rw [reportTail, List.append_assoc, ← List.append_assoc body,
    middle_part _ _ _ 736 1280 (by rw [List.length_append, h, leBytes_length]) (leBytes_length _ _), leNat_leBytes_toNat 1280 _ rfl]

theorem reportTail_length (body : List Byte) : (reportTail body).length = 1376 := by simp [reportTail]

/-! ### Firmware (R398) -/

theorem execFirmwareLoad_running (s : State) (v : Word) (a : Nat) (h : s.panel.fwload = some a) : execFirmwareLoad v s = .next s := by
  simp only [execFirmwareLoad, h, Option.isSome_some, if_true]

theorem execFirmwareLoad_taken (s : State) (v : Word) (h : s.panel.fwload = none) :
    execFirmwareLoad v s = .next { s with panel := { s.panel with
      fwctl := v, fwload := if bits v 63 62 = 1 then some (bits v 47 0) else none } } := by
  by_cases c : bits v 63 62 = 1 <;> simp [execFirmwareLoad, h, c]

theorem execFirmwareReloadDone_idle (s : State) (h : s.panel.fwload = none) : execFirmwareReloadDone s = .next s := by
  simp only [execFirmwareReloadDone, h]

theorem execFirmwareReloadDone_bad (s : State) (a : Nat) (h : s.panel.fwload = some a) (bad : s.imageOk a = false) :
    execFirmwareReloadDone s = .next { s with panel := { s.panel with fwload := none, fwstat := 2 } } := by
  simp only [execFirmwareReloadDone, h, bad, Bool.false_eq_true, if_false]

/-- Some Setter core's thread has its cell claimed. -/
theorem State.umatorClaimed_iff (s : State) :
    s.umatorClaimed = true ↔
      ∃ p c t th, (p, c) ∈ s.cores ∧ isSetter p = true ∧ (t, th) ∈ c.threads ∧ th.cell.st = .claimed := by
  simp only [State.umatorClaimed, List.any_eq_true, Bool.and_eq_true, beq_iff_eq, Prod.exists]
  exact ⟨fun ⟨p, c, hp, set, t, th, ht, st⟩ => ⟨p, c, t, th, hp, set, ht, st⟩,
    fun ⟨p, c, t, th, hp, set, ht, st⟩ => ⟨p, c, hp, set, t, th, ht, st⟩⟩

theorem execFirmwareReloadDone_claimed (s : State) (a : Nat) (h : s.panel.fwload = some a) (ok : s.imageOk a = true)
    (c : s.umatorClaimed = true) : execFirmwareReloadDone s = .next s := by
  simp only [execFirmwareReloadDone, h, ok, c, if_true]

/-- The panel's registers as a good image takes over. -/
def State.imageTaken (s : State) (a : Nat) : State :=
  { s with panel := { s.panel with
    fwload := none, fwstat := 1, fwdig := some (BitVec.ofNat 512 (leNat (s.deviceBytes (a + 16) 64))), fwaddr := a } }

/-- The dies that have Setter cores in service. -/
def State.servingDies (s : State) : List Nat := (List.range 72).filter fun d => (s.die d).st == .early || (s.die d).st == .full

theorem State.mem_servingDies (s : State) (d : Nat) (h : d < 72) (st : (s.die d).st = .early ∨ (s.die d).st = .full) :
    d ∈ s.servingDies := by
  simpa [State.servingDies, h] using st

theorem execFirmwareReloadDone_good (s : State) (a : Nat) (h : s.panel.fwload = some a) (ok : s.imageOk a = true)
    (c : s.umatorClaimed = false) :
    execFirmwareReloadDone s = .next (s.servingDies.foldl (fun s d => s.startUmator d a) (s.imageTaken a)) := by
  simp only [execFirmwareReloadDone, h, ok, c, if_true, Bool.false_eq_true, if_false]
  rfl

/-! ### The statement -/

/-- Each row by the equation of the state it meets. -/
theorem firmwareAndReport : Claims.FirmwareAndReport := by
  intro s
  refine ⟨fun v => ⟨fun a h => execFirmwareLoad_running s v a h, fun h => ⟨_, execFirmwareLoad_taken s v h, rfl, rfl, ?_, ?_⟩⟩,
    execFirmwareReloadDone_idle s, fun a h => ⟨fun bad => ?_, fun ok claimed => ?_, fun ok quiet => ?_⟩,
    fun v => ⟨_, rfl, tget_tset_same _ _ _ _, rfl, rfl, rfl⟩, execAttestationReportDone_idle s, fun busy => ?_⟩
  case _ => exact fun c => if_pos c
  case _ => exact fun c => if_neg c
  case _ => exact ⟨_, execFirmwareReloadDone_bad s a h bad, rfl, rfl, rfl, rfl⟩
  case _ => exact execFirmwareReloadDone_claimed s a h ok (s.umatorClaimed_iff.mpr claimed)
  case _ =>
    have none : s.umatorClaimed = false := by
      rw [← Bool.not_eq_true, s.umatorClaimed_iff]
      exact fun ⟨p, c, t, th, hp, set, ht, st⟩ => quiet p c t th hp set ht st
    have panel := (s.imageTaken a).startDies_panel s.servingDies a
    refine ⟨_, execFirmwareReloadDone_good s a h ok none, by rw [panel]; rfl, by rw [panel]; rfl, by rw [panel]; rfl,
      by rw [panel]; rfl, fun d hd st => ?_⟩
    exact (s.imageTaken a).startDies_startsAt s.servingDies a d (s.mem_servingDies d hd st)
  case _ =>
    have len := s.reportBody_length
    have body : (s.reportBody ++ reportTail s.reportBody).take 672 = s.reportBody := by rw [← len, List.take_left]
    refine ⟨_, execAttestationReportDone_busy s busy, rfl, rfl, ?_, s.reportBody_nonce _, s.reportBody_digest _, s.reportBody_die _,
      ?_, ?_⟩
    · rw [List.length_append, len, reportTail_length]
    · rw [body, reportTail_digest _ len]
    · rw [body, reportTail_signature _ len]

end Sys2Proof.Machine
end

section

/-!
The registers of debug and service and the remapping of spares (R7, R387, R399, R403-R405): what each write leaves.
-/

open Sys2Proof Sys2Proof.Claims

namespace Sys2Proof.Machine

/-! ### Tracing (R405) -/

/-- The setting that a write of TRCCTL leaves. -/
def trcctlOf (v : Word) : Word := BitVec.ofNat 64 (bits v 63 62 * 2 ^ 62 + bits v 10 0)

theorem trcctlOf_fields (v : Word) :
    bits (trcctlOf v) 63 62 = bits v 63 62 ∧ bits (trcctlOf v) 10 0 = bits v 10 0 ∧ bits (trcctlOf v) 61 11 = 0 := by
  have := v.isLt
  simp only [bits, trcctlOf, BitVec.toNat_ofNat]
  omega

theorem execTrcctlWrite_same (s : State) (v : Word) (h : trcctlOf v = s.panel.trcctl) : execTrcctlWrite v s = .next s :=
  congrArg _ (if_pos h)

theorem execTrcctlWrite_new (s : State) (v : Word) (h : trcctlOf v ≠ s.panel.trcctl) :
    execTrcctlWrite v s = .next { s with
      panel := { s.panel with trcctl := trcctlOf v }, dies := s.dies.map fun e => (e.1, { e.2 with traceOn := false }) } :=
  congrArg _ (if_neg h)

theorem trcctlWrite_leaves (s : State) (v : Word) : ∃ u, exec (.trcctlWrite v) s = .next u ∧ u.panel.trcctl = trcctlOf v ∧
    (u.panel.trcctl ≠ s.panel.trcctl → ∀ d x, (d, x) ∈ u.dies → x.traceOn = false) := by
  by_cases h : trcctlOf v = s.panel.trcctl
  · exact ⟨s, execTrcctlWrite_same s v h, h.symm, fun n => absurd rfl n⟩
  · refine ⟨_, execTrcctlWrite_new s v h, rfl, fun _ d x hx => ?_⟩
    obtain ⟨e, -, he⟩ := List.mem_map.mp hx
    obtain ⟨-, rfl⟩ := Prod.mk.inj he
    rfl

/-! ### The window on a ring of racy stores (R251, R405) -/

theorem State.ringCore_of_phys (s : State) (p : Nat) (h : s.phys s.panel.ringsel.toNat = some p) : s.ringCore = s.core p := by
  simp only [State.ringCore, h, Option.map_some, Option.getD_some]

/-- The records that are present stand at different places of the window. -/
theorem ring_place (len n i : Nat) (hi : i < len) (hlen : len ≤ min 1024 n) :
    (List.range len).find? (fun j => (n - 1 - j) % 1024 == (n - 1 - i) % 1024) = some i := by
  rw [List.find?_range_eq_some]
  refine ⟨beq_self_eq_true _, List.mem_range.mpr hi, fun j hj => ?_⟩
  simp only [Bool.not_eq_true', beq_eq_false_iff_ne]
  omega

/-- The window shows a record that is present. -/
theorem State.ringWindow_of_present (s : State) (i : Nat) (r : Racy) (hr : s.ringCore.racy[i]? = some r)
    (hlen : s.ringCore.racy.length ≤ min 1024 s.ringCore.racyN) :
    s.ringWindow ((s.ringCore.racyN - 1 - i) % 1024) = r.time.toNat + r.src.toNat * 2 ^ 64 + r.addr.toNat * 2 ^ 96 := by
  obtain ⟨hi, -⟩ := List.getElem?_eq_some_iff.mp hr
  simp only [State.ringWindow, ring_place _ _ i hi hlen, hr]

theorem execRingselWrite_ignored (s : State) (v : Word) (h : 18431 < v.toNat) : execRingselWrite v s = .next s :=
  congrArg _ (if_pos h)

theorem execRingselWrite_taken (s : State) (v : Word) (h : v.toNat ≤ 18431) :
    execRingselWrite v s = .next { s with panel := { s.panel with ringsel := v } } :=
  congrArg _ (if_neg (Nat.not_lt.mpr h))

/-! ### Configuration registers (R15, R387, R399, R403-R405) -/

section

variable (s : State) (off : Nat) (v : Word)

theorem execConfigRegisterWrite_unaligned (h : off % 8 ≠ 0) : execConfigRegisterWrite off v s = .next s :=
  congrArg _ (if_pos h)

theorem execConfigRegisterWrite_bp (i : Nat) (h : i < 8) :
    execConfigRegisterWrite (0x800 + 8 * i) v s =
      .next { s with panel := { s.panel with bps := tset s.panel.bps i (setBits v 62 62 0) } } := by
  have at' : (0x800 + 8 * i - 0x800) / 8 = i := by omega
  simp only [execConfigRegisterWrite, at', Bool.and_eq_true, decide_eq_true_eq]
  rw [if_neg (by omega), if_neg (by omega), if_neg (by omega), if_pos (by omega)]

theorem execConfigRegisterWrite_nonce (i : Nat) (h : i < 3) :
    execConfigRegisterWrite (0x580 + 8 * i) v s =
      .next { s with panel := { s.panel with nonce := tset s.panel.nonce i v } } := by
  have at' : (0x580 + 8 * i - 0x580) / 8 = i := by omega
  simp only [execConfigRegisterWrite, at', Bool.and_eq_true, decide_eq_true_eq]
  rw [if_neg (by omega), if_neg (by omega), if_neg (by omega), if_neg (by omega), if_pos (by omega)]

/-- What a word of a pod window takes of a write: of word 3 the valid bit and the member (log 52). -/
def podWord (i : Nat) (v : Word) : Word := if i = 3 then BitVec.ofNat 64 (bits v 31 22 * 2 ^ 22) else v

theorem execConfigRegisterWrite_window (w i : Nat) (hw : w < 64) (hi : i < 4) :
    execConfigRegisterWrite (0x2000 + 32 * w + 8 * i) v s =
      .next { s with panel := { s.panel with conf := tset s.panel.conf (0x2000 + 32 * w + 8 * i) (podWord i v) } } := by
  have word : ((0x2000 + 32 * w + 8 * i) % 32 = 24) = (i = 3) := propext (by omega)
  simp only [execConfigRegisterWrite, word, Bool.and_eq_true, decide_eq_true_eq]
  rw [if_neg (by omega), if_neg (by omega), if_neg (by omega), if_neg (by omega), if_neg (by omega), if_pos (by omega)]
  rfl

end

/-- A window's word takes its write, and no other word of a window changes. -/
theorem podWindow_write (s : State) (v : Word) (w i : Nat) (hw : w < 64) (hi : i < 4) :
    ∃ u, exec (.configRegisterWrite (0x2000 + 32 * w + 8 * i) v) s = .next u ∧ podAt u w i = podWord i v ∧
      ∀ w' i', w' < 64 → i' < 4 → (w', i') ≠ (w, i) → podAt u w' i' = podAt s w' i' := by
  refine ⟨_, execConfigRegisterWrite_window s v w i hw hi, tget_tset_same _ _ _ _, fun w' i' _ hi' ne => ?_⟩
  refine tget_tset_ne _ _ _ _ _ fun e => ne ?_
  rw [Prod.mk.injEq]
  omega

/-! ### Spares (R7, R8) -/

/-- Nothing runs on a core, no kernel holds it, and it is no side of a move. -/
def State.outOfUse (s : State) (p : Nat) : Prop :=
  (s.core p).idle = true ∧ (s.core p).slot = none ∧ (s.core p).moveTo = none ∧ ∀ e ∈ s.cores, e.2.moveTo ≠ some p

/-- The spare of a logical core's cluster can take its number. -/
def State.spareReady (s : State) (l : Nat) : Prop :=
  l < 18432 ∧ s.logical (l / 16 * 17 + 16) = none ∧ (s.core (l / 16 * 17 + 16)).retired = false ∧
    (s.die (dieOf (l / 16 * 17 + 16))).st ≠ .failed ∧ s.outOfUse (l / 16 * 17 + 16) ∧
    ∀ p, s.phys l = some p → s.outOfUse p ∧ p ≠ l / 16 * 17 + 16

/-- `outOfUse`, as the row decides it. -/
def State.unused (s : State) (p : Nat) : Bool :=
  (s.core p).idle && (s.core p).slot.isNone && (s.core p).moveTo.isNone && s.cores.all fun e => e.2.moveTo != some p

theorem State.unused_iff (s : State) (p : Nat) : s.unused p = true ↔ s.outOfUse p := by
  simp only [State.unused, State.outOfUse, Bool.and_eq_true, Option.isNone_iff_eq_none, List.all_eq_true, bne_iff_ne, ne_eq, and_assoc]

/-- `spareReady`, as the row decides it. -/
def State.spareCheck (s : State) (l : Nat) : Bool :=
  l < 18432 && (s.logical (l / 16 * 17 + 16)).isNone && !(s.core (l / 16 * 17 + 16)).retired &&
    (s.die (dieOf (l / 16 * 17 + 16))).st != .failed && s.unused (l / 16 * 17 + 16) &&
    match s.phys l with
    | some p => s.unused p && p != l / 16 * 17 + 16
    | none => true

theorem State.spareCheck_iff (s : State) (l : Nat) : s.spareCheck l = true ↔ s.spareReady l := by
  have old (o : Option Nat) : (match o with
      | some p => s.unused p && p != l / 16 * 17 + 16
      | none => true) = true ↔ ∀ p, o = some p → s.outOfUse p ∧ p ≠ l / 16 * 17 + 16 := by
    cases o <;> simp [s.unused_iff]
  unfold State.spareCheck
  rw [Bool.and_eq_true, old]
  simp only [State.spareReady, Bool.and_eq_true, decide_eq_true_eq, Option.isNone_iff_eq_none, Bool.not_eq_true', bne_iff_ne, ne_eq,
    s.unused_iff, and_assoc]

theorem execSpareRemap_eq (s : State) (l : Nat) :
    execSpareRemap l s = .next (if s.spareCheck l then { s with lmap := tset s.lmap l (some (l / 16 * 17 + 16)) } else s) := rfl

theorem execSpareRemap_ready (s : State) (l : Nat) (h : s.spareReady l) :
    execSpareRemap l s = .next { s with lmap := tset s.lmap l (some (l / 16 * 17 + 16)) } := by
  rw [execSpareRemap_eq, if_pos (s.spareCheck_iff l |>.mpr h)]

theorem execSpareRemap_refused (s : State) (l : Nat) (h : ¬ s.spareReady l) : execSpareRemap l s = .next s := by
  rw [execSpareRemap_eq, if_neg (mt (s.spareCheck_iff l).mp h)]

/-- A remap of a number that panel cores may have takes effect, for that number alone. -/
theorem State.remapped_phys (s : State) (l q : Nat) (h : l < 18432) :
    ({ s with lmap := tset s.lmap l (some q) } : State).phys l = some q ∧
      ∀ m, m ≠ l → ({ s with lmap := tset s.lmap l (some q) } : State).phys m = s.phys m := by
  refine ⟨?_, fun m ne => ?_⟩
  · simp only [State.phys, if_neg (Nat.not_le.mpr h), tget_tset_same]
  · simp only [State.phys, tget_tset_ne _ _ _ _ _ ne]

/-! ### The statement -/

/-- Each write by its own equation. -/
theorem serviceRegisters : Claims.ServiceRegisters := by
  intro off v s
  refine ⟨?_, fun p hp => ?_, execRingselWrite_ignored s v, fun h => ⟨_, execRingselWrite_taken s v h, rfl, rfl⟩,
    execConfigRegisterWrite_unaligned s off v, fun h => ?_, fun h => ?_, fun i hi h => ?_, fun i hi h => ?_, fun w hw i hi h => ?_,
    fun l => ?_⟩
  case _ =>
    obtain ⟨u, hu, set, off⟩ := trcctlWrite_leaves s v
    obtain ⟨mode, sel, zero⟩ := trcctlOf_fields v
    exact ⟨u, hu, set ▸ mode, set ▸ sel, set ▸ zero, off⟩
  case _ =>
    rw [← s.ringCore_of_phys p hp]
    exact ⟨rfl, fun i r => s.ringWindow_of_present i r⟩
  case _ => subst h; exact ⟨_, rfl, rfl⟩
  case _ => subst h; exact ⟨_, rfl, rfl⟩
  case _ => subst h; exact ⟨_, execConfigRegisterWrite_bp s v i hi, tget_tset_same _ _ _ _⟩
  case _ => subst h; exact ⟨_, execConfigRegisterWrite_nonce s v i hi, tget_tset_same _ _ _ _⟩
  case _ =>
    subst h
    obtain ⟨u, hu, word, others⟩ := podWindow_write s v w i hw hi
    exact ⟨u, hu, fun n => word.trans (if_neg n), fun e => e ▸ word.trans (if_pos e), others⟩
  case _ =>
    refine ⟨fun bad => execSpareRemap_refused s l fun ⟨hl, number, kept, die, spare, old⟩ => ?_,
      fun hl number kept die spare old => ?_⟩
    · obtain h | h | h | h | h | ⟨p, hp, h⟩ := bad
      · exact absurd hl (Nat.not_lt.mpr h)
      · exact h number
      · exact Bool.noConfusion (kept.symm.trans h)
      · exact die h
      · exact h spare
      · exact h (old p hp).1
    · obtain ⟨here, elsewhere⟩ := s.remapped_phys l (l / 16 * 17 + 16) hl
      exact ⟨_, execSpareRemap_ready s l ⟨hl, number, kept, die, spare, old⟩, here, elsewhere, rfl⟩

/-- Settles O59: one equation for each row in each state that it tells apart, and the parts of a report by their places. -/
theorem service : Obligations.Service := ⟨firmwareAndReport, serviceRegisters⟩

end Sys2Proof.Machine
end

section

/-!
Every step keeps the canonical form of every memory (R14, R17, R34, R234). First what the form says of a state's parts and of
each kind of answer that carries states; then, in the order of the model and under its headings, that what each function
answers is of the form when its state is. The lemma about `State.f` is `State.memWf.f`, so the proof about a chain of updates
names the updates in their order.
-/

-- one theorem after another: some hundred proofs begun at once would each hold a thread
set_option Elab.async false

open Sys2Proof Sys2Proof.Claims

namespace Sys2Proof.Machine

/-! ### The form of a state's parts -/

section
variable {s u : State} (w : s.memWf)
  {fo : Focus} {cu : Cur} {ti : Nat} {ag : List Instr} {lm : Tab (Option Nat)} {cl : Tab Cluster} {di : Tab Die} {st : Tab Stack} {re : Tab Retr}
  {bu : Tab Bugle} {rc : Tab Nat} {po : List Nat} {ne : List Msg} {ev : Tab Nat} {mi : List Miss} {fa : List PendFack} {mg : List Mig} {ct : Tab Ctx}
  {qu : Tab Queue} {ke : Tab Kernel} {la : List LaunchReq} {li : Tab Link} {ro : Tab Nat} {de : Tab Nat} {pa : Panel}
include w

theorem State.memWf.dram : Memory.wf s.dram = true := w.1
theorem State.memWf.host : Memory.wf s.host = true := w.2.1
theorem State.memWf.pod : Memory.wf s.pod = true := w.2.2.1
theorem State.memWf.cores : ∀ e ∈ s.cores, Memory.wf e.2.direct = true := w.2.2.2
theorem State.memWf.direct {p : Nat} : Memory.wf (s.core p).direct = true := s.core_wf p w

/-- A state with the same memories and cores, whatever its other fields hold. -/
theorem State.memWf.same : (State.mk fo cu ti ag s.cores lm cl di st re bu s.dram s.host s.pod rc po ne ev mi fa mg ct qu ke la li ro de pa).memWf := w

/-- A choice between two states. -/
theorem State.memWf.ite {c : Prop} [Decidable c] (w' : u.memWf) : (if c then s else u).memWf := by split <;> assumption

/-- What every step of a fold keeps, the fold keeps. -/
theorem State.memWf.foldl {α : Type} {f : State → α → State} {l : List α} (h : ∀ {u : State} {a : α}, u.memWf → (f u a).memWf) :
    (l.foldl f s).memWf := foldl_keeps f State.memWf (fun _ _ w => h w) l s w

/-- One of the memories takes bytes. -/
theorem State.memWf.dramIn {m : Memory} (hm : Memory.wf m = true) :
    (State.mk fo cu ti ag s.cores lm cl di st re bu m s.host s.pod rc po ne ev mi fa mg ct qu ke la li ro de pa).memWf := ⟨hm, w.host, w.pod, w.cores⟩
theorem State.memWf.hostIn {m : Memory} (hm : Memory.wf m = true) :
    (State.mk fo cu ti ag s.cores lm cl di st re bu s.dram m s.pod rc po ne ev mi fa mg ct qu ke la li ro de pa).memWf := ⟨w.dram, hm, w.pod, w.cores⟩
theorem State.memWf.podIn {m : Memory} (hm : Memory.wf m = true) :
    (State.mk fo cu ti ag s.cores lm cl di st re bu s.dram s.host m rc po ne ev mi fa mg ct qu ke la li ro de pa).memWf := ⟨w.dram, w.host, hm, w.cores⟩

theorem State.memWf.setCore {p : Nat} {c : Core} (hc : Memory.wf c.direct = true) : (s.setCore p c).memWf := s.setCore_memWf p c w hc
/-- A core that keeps the direct storage of one of the machine's. -/
theorem State.memWf.setCoreOf {p q : Nat} {c : Core} (hc : c.direct = (s.core q).direct := by exact rfl) : (s.setCore p c).memWf :=
  w.setCore (hc ▸ w.direct)
theorem State.memWf.modCore {p : Nat} {f : Core → Core} (hf : ∀ c, (f c).direct = c.direct := by intro c; rfl) : (s.modCore p f).memWf :=
  s.modCore_memWf p f w (hf _)
/-- A core whose direct storage is written. -/
theorem State.memWf.modCoreWf {p : Nat} {f : Core → Core} (hf : ∀ c, Memory.wf c.direct = true → Memory.wf (f c).direct = true) :
    (s.modCore p f).memWf := w.setCore (hf _ w.direct)
/-- Every core changes, but not in its direct storage. -/
theorem State.memWf.mapCores {f : Nat × Core → Nat × Core} (hf : ∀ e, (f e).2.direct = e.2.direct := by intro e; rfl) :
    (State.mk fo cu ti ag (s.cores.map f) lm cl di st re bu s.dram s.host s.pod rc po ne ev mi fa mg ct qu ke la li ro de pa).memWf := by
  refine ⟨w.dram, w.host, w.pod, fun e he => ?_⟩
  obtain ⟨x, hx, rfl⟩ := List.mem_map.mp he
  exact hf x ▸ w.cores x hx

theorem State.memWf.setThread {p t : Nat} {x : Thread} : (s.setThread p t x).memWf := s.setThread_memWf p t x w
theorem State.memWf.modThread {p t : Nat} {f : Thread → Thread} : (s.modThread p t f).memWf := s.modThread_memWf p t f w
theorem State.memWf.setMe {x : Thread} : (s.setMe x).memWf := s.setThread_memWf _ _ x w
theorem State.memWf.modMe {f : Thread → Thread} : (s.modMe f).memWf := s.modMe_memWf f w
theorem State.memWf.dwrite {p a n v : Nat} : (s.dwrite p a n v).memWf := s.dwrite_memWf p a n v w

end

/-- Counting events in a core keeps its direct storage. -/
theorem Core.bump_direct (c : Core) (r : Fin 8) (n : Nat) : (c.bump r n).direct = c.direct := rfl

theorem Core.count_direct (c : Core) (k : Cnt) : (c.count k).direct = c.direct := by
  simp only [Core.count, Core.bump_direct]

/-! ### The form of an answer -/

/-- Every state that an answer carries is of the form; an answer that carries none is. -/
def optWf : Option State → Prop
  | some s => s.memWf
  | none => True

def fstWf {α : Type} (x : State × α) : Prop := x.1.memWf

def optFstWf {α : Type} : Option (State × α) → Prop
  | some x => x.1.memWf
  | none => True

def outWf : Out → Prop
  | .next s => s.memWf
  | _ => True

def Ends.memWf : Ends → Prop
  | .done s | .jump s _ | .wait s _ | .trapKeep s _ | .gone s => s.memWf
  | .again _ | .trap _ => True

def Fetched.memWf : Fetched → Prop
  | .run s _ | .ended s => s.memWf

def Served.memWf : Served → Prop
  | .data s _ _ => s.memWf
  | _ => True

def Unit'.memWf : Unit' → Prop
  | .data s _ _ => s.memWf
  | _ => True

def Units.memWf (x : Units) : Prop := x.s.memWf

def EngR.memWf : EngR → Prop
  | .data s _ _ | .miss s | .trap s _ => s.memWf

def EngAt.memWf : EngAt → Prop
  | .ok _ => True
  | .miss s | .fault s _ => s.memWf

def Piece.memWf (x : Piece) : Prop := x.s.memWf

def Row.memWf : Row → Prop
  | .ok _ => True
  | .wait s | .fault s _ _ => s.memWf

def RowData.memWf : RowData → Prop
  | .ok s _ _ | .wait s | .fault s _ _ => s.memWf

def Look.memWf {α : Type} : Look α → Prop
  | .ok s _ | .wait s _ _ _ | .trap s _ => s.memWf

def Ring.memWf {α : Type} : Ring α → Prop
  | .ok s _ | .wait s | .fault s => s.memWf

def ColR.memWf {α : Type} : ColR α → Prop
  | .ok s _ | .wait s | .fault s _ _ => s.memWf

def RelOut.memWf : RelOut → Prop
  | .wait s | .go s | .fault s _ _ _ => s.memWf

def StoreAt.memWf : StoreAt → Prop
  | .ok _ => True
  | .miss s | .trap s _ => s.memWf

def Placed.memWf (x : Placed) : Prop := x.s.memWf

def Micro.memWf : Micro → Prop
  | .next s _ | .fault s _ _ _ _ _ | .miss s _ | .last s _ => s.memWf

def Checked.memWf : Checked → Prop
  | .ok s _ _ | .cause s _ | .wait s => s.memWf

def Words.memWf : Words → Prop
  | .ok s _ | .wait s | .fault s _ _ => s.memWf

/-- What an answer of the form says of a state that it carries. -/
theorem answerWf {T : Type} {P : T → Prop} {x y : T} {u : State} (k : P x) (h : x = y) (e : P y → u.memWf := by exact fun k => k) : u.memWf :=
  e (h ▸ k)

/-- A choice between two answers of the form. -/
theorem ifWf {T : Type} {P : T → Prop} {c : Prop} [Decidable c] {x y : T} (kx : P x) (ky : P y) : P (if c then x else y) := by
  split <;> assumption

theorem optWf.getD {o : Option State} {s : State} (k : optWf o) (w : s.memWf) : (o.getD s).memWf := by
  cases o with
  | none => exact w
  | some _ => exact k

theorem optWf.map {o : Option State} {f : State → State} (k : optWf o) (h : ∀ {u : State}, u.memWf → (f u).memWf) : optWf (o.map f) := by
  cases o with
  | none => trivial
  | some _ => exact h k

theorem optWf.bind {o : Option State} {f : State → Option State} (k : optWf o) (h : ∀ {u : State}, u.memWf → optWf (f u)) :
    optWf (o.bind f) := by
  cases o with
  | none => trivial
  | some _ => exact h k

theorem optFstWf.map {α β : Type} {o : Option (State × α)} {f : State × α → State × β} (k : optFstWf o)
    (h : ∀ {x : State × α}, x.1.memWf → (f x).1.memWf) : optFstWf (o.map f) := by
  cases o with
  | none => trivial
  | some _ => exact h k

theorem optFstWf.mapTo {α : Type} {o : Option (State × α)} {f : State × α → State} (k : optFstWf o)
    (h : ∀ {x : State × α}, x.1.memWf → (f x).memWf) : optWf (o.map f) := by
  cases o with
  | none => trivial
  | some _ => exact h k

theorem optWf_map {α : Type} {o : Option α} {f : α → State} (h : ∀ a, (f a).memWf) : optWf (o.map f) := by
  cases o with
  | none => trivial
  | some a => exact h a

theorem optWf_bind {α : Type} {o : Option α} {f : α → Option State} (h : ∀ a, optWf (f a)) : optWf (o.bind f) := by
  cases o with
  | none => trivial
  | some a => exact h a

theorem Units.memWf.s {x : Units} (k : x.memWf) : x.s.memWf := k
theorem Piece.memWf.s {x : Piece} (k : x.memWf) : x.s.memWf := k
theorem Placed.memWf.s {x : Placed} (k : x.memWf) : x.s.memWf := k

theorem fstWf.fst {α : Type} {x : State × α} (k : fstWf x) : x.1.memWf := k

/-! ### Cores and threads -/

theorem State.memWf.take {p t : Nat} {s : State} (w : s.memWf) : (s.take p t).memWf := .same w
theorem State.memWf.setCluster {k : Nat} {c : Cluster} {s : State} (w : s.memWf) : (s.setCluster k c).memWf := .same w
theorem State.memWf.setDie {d : Nat} {x : Die} {s : State} (w : s.memWf) : (s.setDie d x).memWf := .same w
theorem State.memWf.setStack {k : Nat} {x : Stack} {s : State} (w : s.memWf) : (s.setStack k x).memWf := .same w
theorem State.memWf.setRetr {r : Nat} {x : Retr} {s : State} (w : s.memWf) : (s.setRetr r x).memWf := .same w
theorem State.memWf.setBugle {h : Nat} {x : Bugle} {s : State} (w : s.memWf) : (s.setBugle h x).memWf := .same w
theorem State.memWf.setCtx {c : Nat} {x : Ctx} {s : State} (w : s.memWf) : (s.setCtx c x).memWf := .same w
theorem State.memWf.setQueue {q : Nat} {x : Queue} {s : State} (w : s.memWf) : (s.setQueue q x).memWf := .same w
theorem State.memWf.setKernel {k : Nat} {x : Kernel} {s : State} (w : s.memWf) : (s.setKernel k x).memWf := .same w
theorem State.memWf.setLink {n : Nat} {x : Link} {s : State} (w : s.memWf) : (s.setLink n x).memWf := .same w
theorem State.memWf.podSend {ctx memb unit addr bytes : Nat} {s : State} (w : s.memWf) : (s.podSend ctx memb unit addr bytes).memWf := .same w

/-! ### Core-scope pieces -/

theorem State.memWf.delayBy {p i hops : Nat} {s : State} (w : s.memWf) : (s.delayBy p i hops).memWf := w.modCore
theorem State.memWf.delay {p i : Nat} {s : State} (w : s.memWf) : (s.delay p i).memWf := w.delayBy
theorem State.memWf.noteRecall {l d hops : Nat} {s : State} (w : s.memWf) : (s.noteRecall l d hops).memWf := .same w
theorem State.memWf.takeRecall {l d : Nat} {s : State} (w : s.memWf) : (s.takeRecall l d).2.memWf := w

theorem State.memWf.delayLine {p q l sl : Nat} {far : Option Nat} {more : Nat} {s : State} (w : s.memWf) : (s.delayLine p q l sl far more).memWf := by
  unfold State.delayLine
  split <;> exact w.delayBy

/-! ### Messages (R376-R380) -/

theorem State.memWf.send {cls : MCls} {src dst : Endp} {ctx : Nat} {body : Body} {s : State} (w : s.memWf) : (s.send cls src dst ctx body).memWf :=
  .same w

theorem State.memWf.drop {k : Nat} {s : State} (w : s.memWf) : (s.drop k).memWf := .same w

/-! ### Registers and chain channels (R34, R163-R165, R167) -/

theorem State.memWf.push {p t route : Nat} {v : Word} {s : State} (w : s.memWf) : (s.push p t route v).memWf := w.send.ite w.setCoreOf

theorem State.memWf.gw {r : GReg} {v : Word} {s : State} (w : s.memWf) : (s.gw r v).memWf := by
  unfold State.gw
  dsimp only
  refine ifWf w <| ifWf w ?_
  split
  · exact w.push.ite w.setMe
  · exact w.setMe

theorem State.memWf.hw {r : HReg} {v : Word} {s : State} (w : s.memWf) : (s.hw r v).memWf := w.ite w.modMe
theorem State.memWf.mw {r : MReg} {v : Word} {s : State} (w : s.memWf) : (s.mw r v).memWf := w.ite w.modMe
theorem State.memWf.vw {r : VReg} {v : VWord} {s : State} (w : s.memWf) : (s.vw r v).memWf := w.modMe

/-! ### Waits (R22, R27, R28) -/

theorem State.memWf.wake {p : Nat} {P : Wait → Bool} {s : State} (w : s.memWf) : (s.wake p P).memWf := w.modCore

theorem State.memWf.pop {p t route : Nat} {s : State} (w : s.memWf) : (s.pop p t route).memWf := by
  unfold State.pop
  dsimp only
  split
  · exact w
  · split
    · exact w.setCoreOf.delayBy.modThread
    · exact w.setCoreOf.delayBy.modThread.modCore.wake

/-! ### Exceptions (R19, R31, R113, R114, R328-R331) -/

theorem State.memWf.toHost {c : Nat} {r : FRec} {s : State} (w : s.memWf) : (s.toHost c r).memWf := w.setCtx

theorem State.memWf.toUmator {cluster : Nat} {name : Word} {data : Nat} {rt : Word} {fault : Option (Nat × Nat × Nat)} {s : State} (w : s.memWf) :
    (s.toUmator cluster name data rt fault).memWf :=
  w.send

theorem State.memWf.deliver {p t slot ctx : Nat} {r : FRec} {s : State} (w : s.memWf) : (s.deliver p t slot ctx r).memWf := by
  unfold State.deliver
  dsimp only
  split
  · exact w.toHost.ite w.send
  · exact w.toUmator
  · exact w.toHost

theorem State.memWf.unreserve {p t : Nat} {s : State} (w : s.memWf) : (s.unreserve p t).memWf := by
  unfold State.unreserve
  split
  · exact w
  · exact w.modCore

theorem State.memWf.trapThread {p t : Nat} {word : BitVec 32} {tr : Trap} {s : State} (w : s.memWf) : (s.trapThread p t word tr).memWf :=
  w.unreserve.modThread.dwrite.modThread.ite w.unreserve.modThread.setThread.deliver

theorem State.memWf.fetchTrap {p t : Nat} {tr : Trap} {s : State} (w : s.memWf) : (s.fetchTrap p t tr).memWf := w.trapThread.modThread
theorem State.memWf.trapMe {tr : Trap} {s : State} (w : s.memWf) : (s.trapMe tr).memWf := w.trapThread

/-! ### Returning from an exception, leaving a core (R24, R31, R113, R157, R175) -/

theorem State.memWf.returnTrap {p t : Nat} {s : State} (w : s.memWf) : (s.returnTrap p t).memWf := w.modThread

theorem State.memWf.withdraw {p t : Nat} {keep : Option Nat} {s : State} (w : s.memWf) : (s.withdraw p t keep).memWf := by
  unfold State.withdraw
  dsimp only
  split
  · refine w.foldl fun v => ?_
    split
    · exact v
    · exact v.ite v.send
  · exact w

theorem State.memWf.teamsDone {slot : Nat} {s : State} (w : s.memWf) : (s.teamsDone slot).memWf := by
  unfold State.teamsDone
  dsimp only
  split
  · exact w
  · exact w.setKernel

theorem State.memWf.orphanFacks {p t : Nat} {s : State} (w : s.memWf) : (s.orphanFacks p t).memWf := .same w
theorem State.memWf.untoken {p gtn : Nat} {s : State} (w : s.memWf) : (s.untoken p gtn).memWf := .mapCores w

theorem State.memWf.modFrames {f : Word × Option (Nat × Nat × Nat) → Word × Option (Nat × Nat × Nat)} {s : State} (w : s.memWf) :
    (s.modFrames f).memWf :=
  .mapCores w

/-- A choice between two cores keeps what both keep of the direct storage. -/
theorem Core.direct_ite {c : Prop} [Decidable c] {x y : Core} : (if c then x else y).direct = if c then x.direct else y.direct := by
  split <;> rfl

theorem State.memWf.freeNow {p t : Nat} {s : State} (w : s.memWf) : (s.freeNow p t).memWf :=
  (w.unreserve.orphanFacks.untoken.modFrames.same).modCore fun c => by
    dsimp only
    split <;> rfl

theorem State.memWf.leave {p t : Nat} {s : State} (w : s.memWf) : (s.leave p t).memWf := w.withdraw.modThread.ite w.withdraw.freeNow.teamsDone

theorem State.memWf.ackThread {p t act : Nat} {rt : Word} {s : State} (w : s.memWf) : (s.ackThread p t act rt).memWf := by
  unfold State.ackThread
  dsimp only
  split
  · exact w.modCore
  · exact w.modThread.ite w.modCore
  · exact w.leave

/-! ### One instruction's issue (R27, R28, R165, R167) -/

theorem State.memWf.finish {popIn : Option Nat} {pc : BitVec 56} {s : State} (w : s.memWf) : (s.finish popIn pc).memWf := by
  unfold State.finish
  dsimp only
  refine .modMe ?_
  split
  · exact w.pop
  · exact w

theorem State.memWf.preIssue {w : Wait} {s : State} (v : s.memWf) : (s.preIssue w).memWf := v.modMe
theorem State.memWf.postIssue {w : Wait} {popIn resOut : Option Nat} {s : State} (v : s.memWf) : (s.postIssue w popIn resOut).memWf := v.modMe

theorem State.memWf.reserve {r : Option Nat} {s : State} (w : s.memWf) : (s.reserve r).memWf := by
  unfold State.reserve
  split
  · exact w.modCore
  · exact w

theorem State.memWf.useTokens {rs : List GReg} {s : State} (w : s.memWf) : (s.useTokens rs).memWf := w.modMe.ite w

theorem State.memWf.issue {rd wr : List GReg} {f : State → Ends} {s : State} (w : s.memWf) (hf : ∀ {u : State}, u.memWf → (f u).memWf) :
    (s.issue rd wr f).memWf := by
  unfold State.issue
  dsimp only
  split
  · exact w.trapMe
  · exact w.preIssue
  · split
    next h1 => exact (answerWf (hf w.reserve.useTokens) h1).finish
    next h1 => exact (answerWf (hf w.reserve.useTokens) h1).finish
    next h1 => exact (answerWf (hf w.reserve.useTokens) h1).postIssue
    · exact w.preIssue
    · exact w.trapMe
    next h1 => exact (answerWf (hf w.reserve.useTokens) h1).modMe.trapMe
    next h1 => exact answerWf (hf w.reserve.useTokens) h1

theorem State.memWf.complete {p t : Nat} {s : State} (w : s.memWf) : (s.complete p t).memWf := by
  unfold State.complete
  dsimp only
  refine .modThread ?_
  split
  · exact w.pop
  · exact w

/-! ### Homes, slices, stashes -/

theorem State.memWf.putHome {l : Nat} {h : HomeLine} {s : State} (w : s.memWf) : (s.putHome l h).memWf := w.setStack
theorem State.memWf.setSlice {d l : Nat} {x : SliceLine} {s : State} (w : s.memWf) : (s.setSlice d l x).memWf := w.setDie
theorem State.memWf.dropSlice {d l : Nat} {s : State} (w : s.memWf) : (s.dropSlice d l).memWf := w.setDie

theorem State.memWf.stashGives {p l : Nat} {s : State} (w : s.memWf) : (s.stashGives p l).memWf := by
  unfold State.stashGives
  dsimp only
  split
  · exact w
  · split
    · exact w.modCore
    · exact w.modCore.setSlice

theorem State.memWf.dieGives {l : Nat} {s : State} (w : s.memWf) : (s.dieGives l).memWf := by
  unfold State.dieGives
  dsimp only
  split
  · exact w
  · split
    · exact w.putHome
    · split
      · refine .putHome ?_
        split
        · exact w.stashGives
        · exact w
      · refine .putHome (.setSlice ?_)
        split
        · exact w.stashGives
        · exact w

/-! ### Capacities (R4, R9, R246) -/

theorem State.memWf.sliceRoom {d no : Nat} {s : State} (w : s.memWf) : (s.sliceRoom d no).memWf := by
  unfold State.sliceRoom
  dsimp only
  refine ifWf w ?_
  split
  · exact (w.dieGives.ite w).dropSlice
  · exact w

theorem State.memWf.newSlice {d l : Nat} {x : SliceLine} {s : State} (w : s.memWf) : (s.newSlice d l x).memWf := (w.ite w.sliceRoom).setSlice

theorem State.memWf.homeEvict {line : Nat} {s : State} (w : s.memWf) : (s.homeEvict line).memWf := by
  unfold State.homeEvict
  dsimp only
  split
  · exact w.ite w.setStack
  · exact w

theorem State.memWf.homeRoom {l : Nat} {s : State} (w : s.memWf) : (s.homeRoom l).memWf := by
  unfold State.homeRoom
  dsimp only
  refine ifWf w ?_
  split
  · exact w.dieGives.homeEvict
  · exact w

theorem State.memWf.setHome {l : Nat} {h : HomeLine} {s : State} (w : s.memWf) : (s.setHome l h).memWf := w.homeRoom.putHome

/-! ### First-level cache and pool (R237, R238, R240) -/

theorem State.memWf.poolAlloc {k : Nat} {x : L1Line} {s : State} (w : s.memWf) : optWf (s.poolAlloc k x) := by
  unfold State.poolAlloc
  dsimp only
  refine ifWf trivial <| ifWf w.setCluster ?_
  split
  · exact w.setCluster
  · trivial

theorem State.memWf.l1Alloc {p : Nat} {x : L1Line} {s : State} (w : s.memWf) : optWf (s.l1Alloc p x) := by
  unfold State.l1Alloc
  dsimp only
  refine ifWf trivial <| ifWf (ifWf w.poolAlloc trivial) <| ifWf w.setCoreOf ?_
  split
  · exact ifWf w.poolAlloc trivial
  · exact ifWf (w.setCoreOf.poolAlloc.getD w.setCoreOf) w.setCoreOf

theorem State.memWf.l1Drop {p l : Nat} {s : State} (w : s.memWf) : (s.l1Drop p l).memWf := w.modCore.setCluster.ite w.modCore

theorem State.memWf.l1Fill {p l pa off n : Nat} {wts rts : Word} {data : LineData} {demand pin : Bool} {s : State} (w : s.memWf) :
    (s.l1Fill p l pa off n wts rts data demand pin).memWf := by
  unfold State.l1Fill
  dsimp only
  split
  · exact w.setCluster
  · split
    next h => exact answerWf w.l1Alloc h
    · exact w.modCore.ite w

/-! ### Serving a read (R236, R242, R243, R252) -/

theorem State.memWf.readLine {p t l pa off n : Nat} {fresh past : Bool} {s : State} (w : s.memWf) : (s.readLine p t l pa off n fresh past).memWf := by
  unfold State.readLine
  dsimp only
  refine ifWf trivial ?_
  split
  · exact w.modThread
  · split
    · exact w.modCore.modThread
    · split
      · exact w.modThread
      · split
        · trivial
        · split
          · split
            · trivial
            · exact w.modCore.l1Fill.modThread
          · exact ifWf w.setSlice.l1Fill.modThread (ifWf trivial w.l1Fill.modThread)

/-! ### Accepting a write (R239, R244, R245) -/

theorem State.memWf.takeLine {d l pa c : Nat} {s : State} (w : s.memWf) : optWf (s.takeLine d l pa c) := by
  unfold State.takeLine
  dsimp only
  split
  · exact ifWf w trivial
  · exact ifWf trivial w.newSlice.setHome

theorem State.memWf.acceptSlice {d l pa c : Nat} {p : Word} {s : State} (w : s.memWf) : optFstWf (s.acceptSlice d l pa c p) := by
  unfold State.acceptSlice
  dsimp only
  split
  · trivial
  next h =>
    split
    · trivial
    · exact ifWf trivial ((answerWf w.takeLine h).setSlice)

theorem State.memWf.stashRoom {p pa : Nat} {s : State} (w : s.memWf) : (s.stashRoom p pa).memWf := by
  unfold State.stashRoom
  dsimp only
  refine ifWf w ?_
  split
  · exact w.stashGives
  · exact w

theorem State.memWf.accept {p l pa off n : Nat} {pt : Word} {s : State} (w : s.memWf) : optFstWf (s.accept p l pa off n pt) := by
  unfold State.accept
  dsimp only
  refine ifWf w.acceptSlice ?_
  split
  · exact w.modCore
  · split
    · trivial
    next h1 =>
      split
      · trivial
      · exact ifWf trivial ((answerWf w.takeLine h1).stashRoom.setSlice.modCore)

theorem State.memWf.writeLine {l off n v : Nat} {s : State} (w : s.memWf) : (s.writeLine l off n v).memWf := .dramIn w (mwrite_wf _ _ _ _ w.dram)
theorem State.memWf.homeWrite {l off n v : Nat} {p : Word} {s : State} (w : s.memWf) : fstWf (s.homeWrite l off n v p) := w.dieGives.setHome.writeLine

/-! ### Dropping lines -/

theorem State.memWf.flushLines {P : Nat → Nat → Bool} {s : State} (w : s.memWf) : (s.flushLines P).memWf := .mapCores (w.foldl fun v => v.dieGives)

/-! ### Misses (R310, R311) -/

theorem State.memWf.modMissOffer {tag : Word} {f : Offer → Option Offer} {s : State} (w : s.memWf) : (s.modMissOffer tag f).memWf := .same w

theorem State.memWf.joinMiss {m m' : Miss} {s : State} (w : s.memWf) : (s.joinMiss m m').memWf := by
  unfold State.joinMiss
  exact ifWf w w

theorem State.memWf.addMiss {who : MissWho} {ctx cluster slot : Nat} {va : Word} {acc : BitVec 3} {whoWord : Nat} {rt : Word} {s : State}
    (w : s.memWf) :
    (s.addMiss who ctx cluster slot va acc whoWord rt).memWf := by
  unfold State.addMiss
  dsimp only
  refine ifWf w <| ifWf (.same w) ?_
  split
  · exact w.joinMiss
  · exact ifWf (.same w) (.toUmator (.same w))

theorem State.memWf.threadMiss {p t : Nat} {va : Word} {acc : BitVec 3} {s : State} (w : s.memWf) : (s.threadMiss p t va acc).memWf := w.addMiss

/-! ### The journal (R248-R250) -/

theorem State.memWf.sendPort {src : Endp} {ctx l off w data : Nat} {rec' : BitVec 32} {core entry lane : Nat} {s : State} (v : s.memWf) :
    (s.sendPort src ctx l off w data rec' core entry lane).memWf :=
  v.send

theorem State.memWf.sendUnits {p t i : Nat} {els : List Elem} {s : State} (w : s.memWf) : (s.sendUnits p t i els).memWf := by
  unfold State.sendUnits
  dsimp only
  split
  · refine ifWf w.sendPort ?_
    refine w.foldl fun v => ?_
    split
    · exact v.sendPort
    · exact v
  · exact w

theorem State.memWf.post {p t : Nat} {kind : JKind} {els : List Elem} {s : State} (w : s.memWf) : optWf (s.post p t kind els) := by
  unfold State.post
  dsimp only
  split
  · trivial
  · show State.memWf _
    split
    · exact w.setCoreOf.sendUnits
    · refine w.setCoreOf.sendUnits.foldl fun v => ?_
      split
      · exact v.l1Drop
      · exact v

theorem State.memWf.release {p i : Nat} {s : State} (w : s.memWf) : (s.release p i).memWf := w.modCore.wake

/-! ### What a receiver tells the core (R248-R251) -/

theorem State.memWf.offerJoin {p : Nat} {j : Join} {rt : Word} {s : State} (w : s.memWf) : (s.offerJoin p j rt).memWf := w.send
theorem State.memWf.flushJoins {p : Nat} {s : State} (w : s.memWf) : (s.flushJoins p).memWf := w.foldl fun v => v.setCoreOf.offerJoin.ite v
theorem State.memWf.flushPushes {p : Nat} {s : State} (w : s.memWf) : (s.flushPushes p).memWf := w.flushJoins.foldl fun v => v.setCoreOf.send.ite v

theorem State.memWf.settleEntry {p i : Nat} {s : State} (w : s.memWf) : (s.settleEntry p i).memWf := by
  unfold State.settleEntry
  dsimp only
  refine ifWf w ?_
  refine .flushPushes (.release ?_)
  refine ifWf ?_ ?_
  · refine .complete ?_
    split
    · exact w.modCore
    · exact w.modCore.ite w.modCore.modThread
  · split
    · exact w.modCore
    · exact w.modCore.ite w.modCore.modThread

theorem State.memWf.setRun {r : Nat} {x : CopyRun} {s : State} (w : s.memWf) : (s.setRun r x).memWf := w.setRetr

theorem State.memWf.copyStop {r : Nat} {x : CopyRun} {e step trap : Nat} {a : Word} {s : State} (w : s.memWf) :
    (s.copyStop r x e step trap a).memWf :=
  w

theorem State.memWf.portWrite {p off w data : Nat} {src : BitVec 32} {own : Bool} {s : State} (v : s.memWf) :
    optWf (s.portWrite p off w data src own) := by
  unfold State.portWrite
  dsimp only
  exact ifWf (v.dwrite.ite v.dwrite.modCore) trivial

theorem State.memWf.portSettled {core entry lane w : Nat} {ok : Bool} {s : State} (v : s.memWf) : (s.portSettled core entry lane w ok).memWf := by
  unfold State.portSettled
  dsimp only
  refine ifWf v.modCore.settleEntry ?_
  split
  · exact v
  · exact v.setRun.ite v.copyStop

theorem State.memWf.portArrives {k : Nat} {s : State} (w : s.memWf) : (s.portArrives k).memWf := by
  unfold State.portArrives
  split
  · split
    · exact w
    · split
      next h2 => exact ((answerWf w.drop.portWrite h2).delayBy.ite (answerWf w.drop.portWrite h2)).portSettled
      · exact w.drop.portSettled
  · exact w

/-! ### A thread's own port writes and its direct range (R103, R251, R262) -/

theorem State.memWf.land {p t a n : Nat} {s : State} (w : s.memWf) : (s.land p t a n).memWf := by
  unfold State.land
  dsimp only
  split
  · exact w
  · refine w.foldl fun v => ?_
    split
    · exact v.portArrives
    · exact v

/-! ### A thread's own stores in flight (R103) -/

theorem State.memWf.markSeen {p t space a n : Nat} {s : State} (w : s.memWf) : (s.markSeen p t space a n).memWf := w.modCore.ite w

/-! ### Serving one unit (R93, R236) -/

theorem State.memWf.readUnit {p t : Nat} {past : Bool} {e : Elem} {s : State} (w : s.memWf) : (s.readUnit p t past e).memWf := by
  unfold State.readUnit
  dsimp only
  refine ifWf trivial ?_
  split
  · exact w.land
  · refine ifWf w.markSeen <| ifWf trivial ?_
    split
    · trivial
    · trivial
    next h1 =>
      show State.memWf _
      split
      · split
        · exact (answerWf w.readLine h1).markSeen.delayLine
        · exact (answerWf w.readLine h1).markSeen
      · exact (answerWf w.readLine h1).markSeen
  · split
    · trivial
    · exact ifWf trivial (ifWf w.delayBy trivial)
  · refine ifWf trivial ?_
    split
    · exact ifWf trivial w.podSend.delay
    · trivial
    · trivial
  · exact ifWf trivial (ifWf trivial (ifWf trivial w.delay))

/-! ### Beginning an access -/

theorem State.memWf.startLoad {k : ReqKind} {need : Nat} {els : List Elem} {now : State → List (Nat × Nat) → Ends} {s : State}
    (w : s.memWf) (hnow : ∀ {u : State} {a1 : List (Nat × Nat)}, u.memWf → (now u a1).memWf) :
    (s.startLoad k need els now).memWf := by
  unfold State.startLoad
  dsimp only
  split
  · trivial
  · exact w.threadMiss
  · exact ifWf (hnow (w.foldl fun v => v.land)) w

theorem State.memWf.storeDirect {p t : Nat} {els : List Elem} {s : State} (w : s.memWf) : (s.storeDirect p t els).memWf := by
  unfold State.storeDirect
  refine w.foldl fun v => ?_
  split
  · exact v.land.dwrite
  · exact v

theorem State.memWf.storeNow {p t : Nat} {els : List Elem} {s : State} (w : s.memWf) : optWf (s.storeNow p t els) := by
  unfold State.storeNow
  dsimp only
  exact ifWf w.storeDirect (ifWf trivial (ifWf w.storeDirect w.storeDirect.post))

theorem State.memWf.startStore {need : Nat} {els : List Elem} {s : State} (w : s.memWf) : (s.startStore need els).memWf := by
  unfold State.startStore
  dsimp only
  split
  · trivial
  · exact w.threadMiss
  · split
    next h1 => exact answerWf w.storeNow h1
    · trivial

/-! ### Cache operations (R107, R108, R406) -/

theorem State.memWf.prefetch {p t l pa : Nat} {va : Word} {pin : Bool} {s : State} (w : s.memWf) : (s.prefetch p t l pa va pin).memWf := w.modCore
theorem State.memWf.unpinFills {p l : Nat} {s : State} (w : s.memWf) : (s.unpinFills p l).memWf := w.modCore
theorem State.memWf.setPin {p l : Nat} {pin : Bool} {s : State} (w : s.memWf) : (s.setPin p l pin).memWf := w.modCore.setCluster.ite w.modCore

theorem State.memWf.cacheOp {p t fn : Nat} {va : Word} {pl : Place} {s : State} (w : s.memWf) : optWf (s.cacheOp p t fn va pl) := by
  unfold State.cacheOp
  dsimp only
  split
  · split
    · exact ifWf w.setPin (ifWf w w.prefetch)
    · exact w.setPin.unpinFills
    · exact w.ite w.prefetch
    · split
      · exact w.l1Drop.unpinFills.ite w
      · exact ifWf ((w.l1Drop.unpinFills.ite w).stashGives.ite (w.l1Drop.unpinFills.ite w)) ((w.l1Drop.unpinFills.ite w).post)
  · exact w

theorem State.memWf.startCache {fn : Nat} {a : Word} {s : State} (w : s.memWf) : (s.startCache fn a).memWf := by
  unfold State.startCache
  dsimp only
  split
  · exact w
  · exact ifWf w trivial
  · split
    · exact ifWf w trivial
    · exact w.threadMiss
    · split
      next h2 => exact answerWf w.cacheOp h2
      · trivial

/-! ### Raw accesses -/

theorem State.memWf.rawWrite {ctx va n v : Nat} {s : State} (w : s.memWf) : optWf (s.rawWrite ctx va n v) := optWf_map fun _ => w.homeWrite.fst

/-! ### Renewals, and reads of the matrix side as loads of the issuing thread (R193, R195, R243) -/

theorem State.memWf.renew {d l pa ctx : Nat} {need : Word} {s : State} (w : s.memWf) : (s.renew d l pa ctx need).memWf := w.setHome.newSlice

theorem Served.memWf.delayed {p l pa : Nat} {far : Option Nat} {more : Nat} {x : Served} (w : x.memWf) : (x.delayed p l pa far more).memWf := by
  unfold Served.delayed
  split
  next => exact State.memWf.delayLine w
  · exact w

theorem State.memWf.loadNow {p t l pa off n : Nat} {past : Bool} {s : State} (w : s.memWf) : (s.loadNow p t l pa off n past).memWf := by
  unfold State.loadNow
  split
  · trivial
  · split
    · split
      · trivial
      · exact ifWf w.dieGives.renew.readLine w.dieGives.renew.readLine.delayed
    · exact ifWf w.readLine w.readLine.delayed

theorem State.memWf.engMiss {p t ord : Nat} {va : Word} {acc : BitVec 3} {s : State} (w : s.memWf) : (s.engMiss p t ord va acc).memWf := by
  unfold State.engMiss
  dsimp only
  exact ifWf (.same w) w.addMiss

theorem State.memWf.engRead {p t ord : Nat} {past : Bool} {va : Word} {s : State} (w : s.memWf) : (s.engRead p t ord past va).memWf := by
  unfold State.engRead
  dsimp only
  split
  · exact w
  · exact ifWf w.land w
  · split
    · exact w.engMiss
    · split
      · exact w
      · exact w
      · refine ifWf w <| ifWf w.markSeen <| ifWf w ?_
        split
        · exact w
        · exact w
        next h3 => exact (answerWf w.loadNow h3).markSeen
      · exact w

theorem Piece.memWf.read {p t ord : Nat} {leave : List Nat} {k key : Nat} {va : Word} {x : Piece} (w : x.memWf) :
    (Piece.read p t ord leave x k key va).memWf := by
  unfold Piece.read
  dsimp only
  refine ifWf w <| ifWf w.s ?_
  split
  next h => exact answerWf w.s.engRead h
  next h => exact answerWf w.s.engRead h
  next h => exact ifWf w (answerWf w.s.engRead h)

/-! ### Control registers (R15, R73, R109) -/

theorem State.memWf.resettle {new : State} {k : Nat} {poolChanged : Bool} {old : State} (w : old.memWf) (wnew : new.memWf) :
    (old.resettle new k poolChanged).memWf :=
  (wnew.foldl fun v => v.modCore).setCluster.ite (wnew.foldl fun v => v.modCore)

theorem State.memWf.carveWrite {p : Nat} {v : Word} {s : State} (w : s.memWf) : optWf (s.carveWrite p v) := by
  have hf := w.foldl (f := fun u (x : StashLine) => u.stashGives p x.line) (l := (s.core p).ca.stash) fun v => v.stashGives
  unfold State.carveWrite
  dsimp only
  split
  · trivial
  · split
    · exact w
    · show State.memWf _
      have hd : ∀ {a b c : Nat}, Memory.wf (if a < b then mzeroFrom ((((s.core p).ca.stash.foldl (fun u x => u.stashGives p x.line) s).core
          p).direct) c (b * 32768)
          else (((s.core p).ca.stash.foldl (fun u x => u.stashGives p x.line) s).core p).direct) = true := by
        intro a b c
        split
        · exact mzeroFrom_wf _ _ _ hf.direct
        · exact hf.direct
      split
      · exact hf.setCore hd
      · exact hf.resettle (hf.setCore hd)

theorem State.memWf.vpoolWrite {k : Nat} {v : Word} {s : State} (w : s.memWf) : optWf (s.vpoolWrite k v) := by
  unfold State.vpoolWrite
  dsimp only
  exact ifWf trivial (ifWf w (w.resettle w.setCluster))

theorem State.memWf.crSet {n : Nat} {v : Word} {s : State} (w : s.memWf) : optWf (s.crSet n v) := by
  unfold State.crSet
  dsimp only
  split
  · exact w.modMe
  · exact w.modMe
  · exact w.modMe
  · exact w.modMe
  · exact w.modMe
  · exact w.modMe
  · exact w.carveWrite
  · exact w.vpoolWrite
  · exact w.modCore
  · split
    · exact w.modCore
    · exact ifWf w.modCore w

/-! ### DEFINITION. Integer register and immediate operations, skips, branches and jumps (R94-R99) -/

theorem State.memWf.alu2 {d a b : GReg} {f : Word → Word → Word} {s : State} (w : s.memWf) : outWf (alu2 d a b f s) := w.issue fun v => v.gw
theorem State.memWf.alu1 {d a : GReg} {f : Word → Word} {s : State} (w : s.memWf) : outWf (alu1 d a f s) := w.issue fun v => v.gw
theorem State.memWf.execAndn {d a b : GReg} {s : State} (w : s.memWf) : outWf (execAndn d a b s) := w.alu2
theorem State.memWf.execSll {d a b : GReg} {s : State} (w : s.memWf) : outWf (execSll d a b s) := w.alu2
theorem State.memWf.execSrl {d a b : GReg} {s : State} (w : s.memWf) : outWf (execSrl d a b s) := w.alu2
theorem State.memWf.execSra {d a b : GReg} {s : State} (w : s.memWf) : outWf (execSra d a b s) := w.alu2
theorem State.memWf.execMulh {d a b : GReg} {s : State} (w : s.memWf) : outWf (execMulh d a b s) := w.alu2
theorem State.memWf.execMulhn {d a b : GReg} {s : State} (w : s.memWf) : outWf (execMulhn d a b s) := w.alu2
theorem State.memWf.execDiv {d a b : GReg} {s : State} (w : s.memWf) : outWf (execDiv d a b s) := w.alu2
theorem State.memWf.execDivn {d a b : GReg} {s : State} (w : s.memWf) : outWf (execDivn d a b s) := w.alu2
theorem State.memWf.execRem {d a b : GReg} {s : State} (w : s.memWf) : outWf (execRem d a b s) := w.alu2
theorem State.memWf.execRemn {d a b : GReg} {s : State} (w : s.memWf) : outWf (execRemn d a b s) := w.alu2
theorem State.memWf.execSlt {d a b : GReg} {s : State} (w : s.memWf) : outWf (execSlt d a b s) := w.alu2
theorem State.memWf.execSltn {d a b : GReg} {s : State} (w : s.memWf) : outWf (execSltn d a b s) := w.alu2
theorem State.memWf.execMin {d a b : GReg} {s : State} (w : s.memWf) : outWf (execMin d a b s) := w.alu2
theorem State.memWf.execMax {d a b : GReg} {s : State} (w : s.memWf) : outWf (execMax d a b s) := w.alu2
theorem State.memWf.execMinn {d a b : GReg} {s : State} (w : s.memWf) : outWf (execMinn d a b s) := w.alu2
theorem State.memWf.execMaxn {d a b : GReg} {s : State} (w : s.memWf) : outWf (execMaxn d a b s) := w.alu2
theorem State.memWf.execClz {d a : GReg} {s : State} (w : s.memWf) : outWf (execClz d a s) := w.alu1
theorem State.memWf.execCtz {d a : GReg} {s : State} (w : s.memWf) : outWf (execCtz d a s) := w.alu1
theorem State.memWf.execPopc {d a : GReg} {s : State} (w : s.memWf) : outWf (execPopc d a s) := w.alu1
theorem State.memWf.execExtI8 {d a : GReg} {s : State} (w : s.memWf) : outWf (execExtI8 d a s) := w.alu1
theorem State.memWf.execExtN8 {d a : GReg} {s : State} (w : s.memWf) : outWf (execExtN8 d a s) := w.alu1
theorem State.memWf.execExtI16 {d a : GReg} {s : State} (w : s.memWf) : outWf (execExtI16 d a s) := w.alu1
theorem State.memWf.execExtN16 {d a : GReg} {s : State} (w : s.memWf) : outWf (execExtN16 d a s) := w.alu1
theorem State.memWf.execExtI32 {d a : GReg} {s : State} (w : s.memWf) : outWf (execExtI32 d a s) := w.alu1
theorem State.memWf.execExtN32 {d a : GReg} {s : State} (w : s.memWf) : outWf (execExtN32 d a s) := w.alu1
theorem State.memWf.execAddi {d a : GReg} {imm : BitVec 16} {s : State} (w : s.memWf) : outWf (execAddi d a imm s) := w.alu1
theorem State.memWf.execAndi {d a : GReg} {imm : BitVec 16} {s : State} (w : s.memWf) : outWf (execAndi d a imm s) := w.alu1
theorem State.memWf.execOri {d a : GReg} {imm : BitVec 16} {s : State} (w : s.memWf) : outWf (execOri d a imm s) := w.alu1
theorem State.memWf.execXori {d a : GReg} {imm : BitVec 16} {s : State} (w : s.memWf) : outWf (execXori d a imm s) := w.alu1
theorem State.memWf.execSlti {d a : GReg} {imm : BitVec 16} {s : State} (w : s.memWf) : outWf (execSlti d a imm s) := w.alu1
theorem State.memWf.execSltni {d a : GReg} {imm : BitVec 16} {s : State} (w : s.memWf) : outWf (execSltni d a imm s) := w.alu1
theorem State.memWf.execSlli {d a : GReg} {sh : Fin 64} {s : State} (w : s.memWf) : outWf (execSlli d a sh s) := w.alu1
theorem State.memWf.execSrli {d a : GReg} {sh : Fin 64} {s : State} (w : s.memWf) : outWf (execSrli d a sh s) := w.alu1
theorem State.memWf.execSrai {d a : GReg} {sh : Fin 64} {s : State} (w : s.memWf) : outWf (execSrai d a sh s) := w.alu1

theorem State.memWf.skipOn {c : Cond} {x y : Word} {n : Fin 4} {s : State} (w : s.memWf) : (skipOn c x y n s).memWf := by
  unfold Sys2Proof.Machine.skipOn
  exact ifWf w.modMe w

theorem State.memWf.jumpTo {t : Word} {s : State} (w : s.memWf) : (jumpTo s t).memWf := w.modMe

/-! ### Offer blocks (R137, R141-R143, R146, R158) -/

theorem State.memWf.execSync {d a : GReg} {n : Fin 8} {s : State} (w : s.memWf) : outWf (execSync d a n s) := by
  unfold Sys2Proof.Machine.execSync
  dsimp only
  show State.memWf _
  refine w.issue fun v => ?_
  refine ifWf trivial <| ifWf trivial ?_
  split
  · trivial
  · split
    · trivial
    · refine ifWf trivial ?_
      split
      · exact v.modMe.gw
      · exact v.modMe

/-! ### Messages between homes and cells -/

theorem State.memWf.toParty {h : Nat} {key : EvKey} {gtn : Nat} {b : Body} {s : State} (w : s.memWf) : (s.toParty h key gtn b).memWf := w.send
theorem State.memWf.toHome {h : Nat} {key : EvKey} {gtn : Nat} {b : Body} {s : State} (w : s.memWf) : (s.toHome h key gtn b).memWf := w.send

/-! ### The overflow area (R159, R160) -/

theorem State.memWf.putSlot {h age : Nat} {v : Bool} {o : Offer} {s : State} (w : s.memWf) : optWf (s.putSlot h age v o) := by
  unfold State.putSlot
  dsimp only
  split
  · exact w
  · split
    · exact ifWf w trivial
    next h2 =>
      split
      · exact ifWf (answerWf w.rawWrite h2) trivial
      next h3 => exact answerWf (answerWf w.rawWrite h2).rawWrite h3

theorem State.memWf.ovfWait {h ctx : Nat} {s : State} (w : s.memWf) : (s.ovfWait h ctx).memWf := by
  unfold State.ovfWait
  dsimp only
  split
  · exact w.addMiss
  · exact w

theorem State.memWf.orOvf {h ctx : Nat} {r : Option State} {s : State} (w : s.memWf) (wr : optWf r) : (s.orOvf h ctx r).memWf := by
  cases r with
  | none => exact w.ovfWait
  | some u => exact State.memWf.same (s := u) wr

theorem State.memWf.putSlots {h age : Nat} {v : Bool} {os : List Offer} {s : State} (w : s.memWf) : optWf (State.putSlots h age v os s) := by
  induction os generalizing s with
  | nil => exact w
  | cons o os ih => exact w.putSlot.bind fun w => ih w

/-! ### The event at its home (R147, R150-R152) -/

theorem State.memWf.putEv {h : Nat} {e : HomeEv} {s : State} (w : s.memWf) : (s.putEv h e).memWf := w.setBugle

theorem State.memWf.releaseAll {h : Nat} {key : EvKey} {gs : List Nat} {s : State} (w : s.memWf) : (s.releaseAll h key gs).memWf :=
  w.foldl fun v => v.toParty

theorem State.memWf.giveUp {h : Nat} {e : HomeEv} {s : State} (w : s.memWf) : (s.giveUp h e).memWf := by
  unfold State.giveUp
  split
  · exact w.releaseAll.putEv
  · exact w

theorem State.memWf.sendClaim {h : Nat} {e : HomeEv} {g : Nat} {s : State} (w : s.memWf) : (s.sendClaim h e g).memWf := w.toParty
theorem State.memWf.promoteAt {h : Nat} {e : HomeEv} {s : State} (w : s.memWf) : optWf (s.promoteAt h e) := w.setBugle.putSlots

theorem State.memWf.occur {h : Nat} {e : HomeEv} {s : State} (w : s.memWf) : optWf (s.occur h e) := by
  unfold State.occur
  dsimp only
  split
  · trivial
  next h1 =>
    show State.memWf _
    refine (answerWf w.setBugle.putSlots h1).putEv.foldl fun v => ?_
    split
    · exact v.toParty
    · exact v

theorem State.memWf.nextRound {h : Nat} {e : HomeEv} {s : State} (w : s.memWf) : optWf (s.nextRound h e) := by
  unfold State.nextRound
  dsimp only
  split
  · exact w.setBugle
  · exact w.putEv.promoteAt

theorem State.memWf.claimFrom {n h : Nat} {key : EvKey} {s : State} (w : s.memWf) : optWf (State.claimFrom n s h key) := by
  induction n generalizing s with
  | zero => exact w
  | succ n ih =>
    unfold State.claimFrom
    split
    · exact w
    · split
      · split
        · exact (w.occur.bind fun w => w.nextRound).bind fun w => ih w
        · exact w.putEv.sendClaim
      · exact w

theorem State.memWf.tryClaim {h : Nat} {key : EvKey} {s : State} (w : s.memWf) : optWf (s.tryClaim h key) := w.claimFrom
theorem State.memWf.endOccur {h : Nat} {e : HomeEv} {s : State} (w : s.memWf) : optWf (s.endOccur h e) := w.nextRound.bind fun v => v.tryClaim

theorem State.memWf.removeOffer {h : Nat} {o : Offer} {s : State} (w : s.memWf) : optWf (s.removeOffer h o) := by
  unfold State.removeOffer
  dsimp only
  split
  · exact w
  · split
    · trivial
    next h2 =>
      refine ifWf ?_ ?_
      · split
        · exact answerWf (w.ite w.giveUp).setBugle.putSlot h2
        · exact (answerWf (w.ite w.giveUp).setBugle.putSlot h2).setBugle
      · split
        · exact answerWf (w.ite w.giveUp).setBugle.putSlot h2
        · exact (answerWf (w.ite w.giveUp).setBugle.putSlot h2).promoteAt.bind fun v => v.tryClaim

/-! ### The choice cell (R148, R151, R157, R158) -/

theorem State.memWf.denyQueue {p t : Nat} {s : State} (w : s.memWf) : (s.denyQueue p t).memWf := by
  unfold State.denyQueue
  dsimp only
  refine (w.foldl fun v => ?_).modThread
  split
  · exact v.toHome
  · exact v

theorem State.memWf.idleCell {p t : Nat} {s : State} (w : s.memWf) : (s.idleCell p t).memWf := w.modThread
theorem State.memWf.failSync {p t : Nat} {tr : Trap} {s : State} (w : s.memWf) : (s.failSync p t tr).memWf := w.withdraw.denyQueue.idleCell.trapThread

theorem State.memWf.syncTrap {p t : Nat} {seq : BitVec 8} {kind : Nat} {s : State} (w : s.memWf) : (s.syncTrap p t seq kind).memWf := by
  unfold State.syncTrap
  dsimp only
  refine ifWf ?_ w
  split
  · exact w.failSync
  · exact w.setThread
  · exact w

theorem State.memWf.trapOffers {h kind : Nat} {os : List Offer} {s : State} (w : s.memWf) : (s.trapOffers h kind os).memWf := by
  unfold State.trapOffers
  refine w.foldl fun v => ?_
  split
  · split
    · exact v.syncTrap
    · exact v.toParty.ite v
  · exact v

theorem State.memWf.finishSync {p t k : Nat} {name rt : Word} {s : State} (w : s.memWf) : (s.finishSync p t k name rt).memWf := by
  unfold State.finishSync
  dsimp only
  split
  · exact w.modThread.take.gw.complete
  · exact w

theorem State.memWf.commitCell {p t k : Nat} {s : State} (w : s.memWf) : (s.commitCell p t k).memWf := w.withdraw.denyQueue.modThread

theorem State.memWf.timerCommit {p t k : Nat} {s : State} (w : s.memWf) : (s.timerCommit p t k).memWf := by
  unfold State.timerCommit
  dsimp only
  split
  · exact w.commitCell.finishSync
  · exact w

theorem State.memWf.grantCell {p t : Nat} {c : Claim} {s : State} (w : s.memWf) : (s.grantCell p t c).memWf := by
  unfold State.grantCell
  dsimp only
  split
  · exact w.timerCommit
  · exact w.modThread.toHome

theorem State.memWf.claimCell {p t : Nat} {c : Claim} {seq : BitVec 8} {s : State} (w : s.memWf) : (s.claimCell p t c seq).memWf := by
  unfold State.claimCell
  dsimp only
  refine ifWf ?_ ?_
  · split
    · exact w.grantCell
    · exact w.setThread
    · split
      · exact w.toHome
      · exact w
  · split
    · exact w.toHome
    · exact w

theorem State.memWf.releaseCell {p t : Nat} {s : State} (w : s.memWf) : (s.releaseCell p t).memWf := by
  unfold State.releaseCell
  dsimp only
  refine ifWf w.modThread.denyQueue.idleCell.leave ?_
  split
  · exact w.modThread.failSync
  · split
    · exact w.modThread
    · exact w.modThread.modThread.grantCell

/-! ### The machine's event steps -/

theorem State.memWf.execSyncOffersSent {core thr : Nat} {s : State} (w : s.memWf) : outWf (execSyncOffersSent core thr s) := by
  unfold Sys2Proof.Machine.execSyncOffersSent
  dsimp only
  show State.memWf _
  split
  · refine ifWf ?_ w
    split
    · exact w.setThread.idleCell.trapThread
    · exact w.setThread.foldl fun v => v.ite v.send
  · exact w

/-- An offer goes into the descriptor, its event is kept, and the home tries to claim. -/
theorem State.memWf.storeOffer {h : Nat} {b : Bugle} {e : HomeEv} {age : Nat} {o : Offer} {key : EvKey} {s : State} (w : s.memWf) :
    optWf ((((s.setBugle h b).putEv h e).putSlot h age true o).bind fun s => s.tryClaim h key) :=
  w.setBugle.putEv.putSlot.bind fun w => w.tryClaim

theorem State.memWf.takeOffer {h : Nat} {o : Offer} {s : State} (w : s.memWf) : optWf (s.takeOffer h o) := by
  unfold State.takeOffer
  refine ifWf ?_ ?_
  · refine optWf.map (State.memWf.putSlots (.setBugle ?_)) fun w => w.trapOffers
    split
    · split
      · exact w
      · exact w.giveUp.setBugle
    · exact w
  · dsimp only
    split
    · trivial
    next u h =>
      have w : u.memWf := by
        split at h
        next => exact answerWf w.removeOffer h
        next => exact answerWf (P := optWf) (x := some s) w h
      refine ifWf w.storeOffer ?_
      split
      · exact w.storeOffer.map fun w => w.toHost.ite w
      · exact ifWf w.trapOffers trivial

theorem State.memWf.execOfferArrival {k : Nat} {s : State} (w : s.memWf) : outWf (execOfferArrival k s) := by
  unfold Sys2Proof.Machine.execOfferArrival
  show State.memWf _
  split
  · exact (w.orOvf (w.drop.takeOffer)).ite w
  · exact w

theorem State.memWf.execOverflowSlotReturn {ctx slot : Nat} {s : State} (w : s.memWf) : outWf (execOverflowSlotReturn ctx slot s) := by
  unfold Sys2Proof.Machine.execOverflowSlotReturn
  dsimp only
  show State.memWf _
  split
  · split
    · exact (w.orOvf (w.setBugle.putSlot)).ite w
    · exact w
  · exact w

theorem State.memWf.execClaimArrival {k : Nat} {s : State} (w : s.memWf) : outWf (execClaimArrival k s) := by
  unfold Sys2Proof.Machine.execClaimArrival
  dsimp only
  show State.memWf _
  split
  · split
    · exact w.drop.claimCell
    · exact w
  · exact w

theorem State.memWf.execClaimGrant {k : Nat} {s : State} (w : s.memWf) : outWf (execClaimGrant k s) := by
  unfold Sys2Proof.Machine.execClaimGrant
  dsimp only
  show State.memWf _
  split
  · split
    · split
      · refine ifWf ?_ w.drop.toParty
        split
        · exact w.orOvf (w.drop.occur)
        · exact w.drop.putEv.sendClaim
      · exact w.drop.toParty
    · exact w.drop.toParty
  · exact w

theorem State.memWf.execClaimDenial {k : Nat} {s : State} (w : s.memWf) : outWf (execClaimDenial k s) := by
  unfold Sys2Proof.Machine.execClaimDenial
  dsimp only
  show State.memWf _
  split
  · split
    · split
      · exact w.drop.giveUp.ite w.drop
      · exact w.drop
    · exact w.drop
  · exact w

theorem State.memWf.deliverAll {h : Nat} {key : EvKey} {s : State} (w : s.memWf) : (s.deliverAll h key).memWf := by
  unfold State.deliverAll
  dsimp only
  split
  · split
    · refine w.foldl fun v => ?_
      split
      · exact v.toParty
      · exact v
    · exact w
  · exact w

theorem State.memWf.homeData {h : Nat} {key : EvKey} {gtn index data : Nat} {s : State} (w : s.memWf) : (s.homeData h key gtn index data).memWf := by
  unfold State.homeData
  dsimp only
  split
  · split
    · exact w.putEv.deliverAll
    · exact w
  · exact w

theorem State.memWf.rebody {k : Nat} {b : Body} {s : State} (w : s.memWf) : (s.rebody k b).memWf := by
  unfold State.rebody
  split
  · exact .same w
  · exact w

theorem State.memWf.execCommitArrival {x0 : Portion} {s : State} (w : s.memWf) : outWf (execCommitArrival x0 s) := by
  unfold Sys2Proof.Machine.execCommitArrival
  dsimp only
  show State.memWf _
  split
  · split
    · refine ifWf w.rebody ?_
      split
      · exact (w.drop.commitCell.modThread.modThread.leave.ite w.drop.commitCell).homeData
      · exact (w.drop.commitCell.modThread.modThread.leave.ite w.drop.commitCell).toHome
      · exact w.drop.commitCell.modThread.modThread.leave.ite w.drop.commitCell
    · exact w
  · exact w

theorem State.memWf.execGrantReleaseArrival {k : Nat} {s : State} (w : s.memWf) : outWf (execGrantReleaseArrival k s) := by
  unfold Sys2Proof.Machine.execGrantReleaseArrival
  dsimp only
  show State.memWf _
  split
  · split
    · split
      · exact w.drop.releaseCell.ite w.drop
      · exact w.drop
    · exact w
  · exact w

theorem State.memWf.execWithdrawalArrival {k : Nat} {s : State} (w : s.memWf) : outWf (execWithdrawalArrival k s) := by
  unfold Sys2Proof.Machine.execWithdrawalArrival
  show State.memWf _
  split
  · split
    · exact w.orOvf (w.drop.removeOffer)
    · exact w.drop
  · exact w

theorem State.memWf.execDeliveryArrival {x0 : Portion} {s : State} (w : s.memWf) : outWf (execDeliveryArrival x0 s) := by
  unfold Sys2Proof.Machine.execDeliveryArrival
  dsimp only
  show State.memWf _
  split
  · split
    · split
      · exact ((w.foldl fun v => v.dwrite).rebody.ite (w.foldl fun v => v.dwrite).drop.toHome.delayBy.finishSync).ite w.drop.toHome
      · exact w.drop.toHome
    · exact w
  · exact w

theorem State.memWf.execDeliveryAck {k : Nat} {s : State} (w : s.memWf) : outWf (execDeliveryAck k s) := by
  unfold Sys2Proof.Machine.execDeliveryAck
  dsimp only
  show State.memWf _
  split
  · split
    · split
      · split
        · exact w.orOvf (w.drop.endOccur)
        · exact w.drop.putEv
      · exact w.drop
    · exact w.drop
  · exact w

theorem State.memWf.execTimerAlternativeDue {core thr alt : Nat} {s : State} (w : s.memWf) : outWf (execTimerAlternativeDue core thr alt s) := by
  unfold Sys2Proof.Machine.execTimerAlternativeDue
  dsimp only
  show State.memWf _
  split
  · split
    · exact w.setThread.claimCell.ite w
    · exact w
  · exact w

/-! ### Quiescence (R161) -/

theorem State.memWf.quiesceThread {p t : Nat} {s : State} (w : s.memWf) : (s.quiesceThread p t).memWf := by
  unfold State.quiesceThread
  dsimp only
  split
  · exact w.syncTrap
  · exact w.setThread.trapThread
  · exact w.trapThread
  · exact w.trapThread
  · exact w.trapThread
  · exact w

/-! ### Names and information (R169, R170) -/

theorem State.memWf.execChainEntryArrival {k : Nat} {s : State} (w : s.memWf) : outWf (execChainEntryArrival k s) := by
  unfold Sys2Proof.Machine.execChainEntryArrival
  dsimp only
  show State.memWf _
  split
  · split
    · exact w.drop.modCore.wake
    · exact w
  · exact w

/-! ### DEFINITION. The barrier tree (R171-R180, R369) -/

theorem State.memWf.arrive {p t ch : Nat} {st : BarSt} {s : State} (w : s.memWf) : (s.arrive p t ch st).memWf := w.modCore
theorem State.memWf.takeJournal {a : ATrap} {s : State} (w : s.memWf) : (takeJournal s a).memWf := w.modMe

theorem State.memWf.execBarw {a : GReg} {s : State} (w : s.memWf) : outWf (execBarw a s) := by
  unfold Sys2Proof.Machine.execBarw
  dsimp only
  show State.memWf _
  refine w.issue fun v => ?_
  split
  · trivial
  · split
    · refine ifWf ?_ v
      split
      · exact v.takeJournal
      · exact v.arrive
    · exact v.modMe
    · exact v.modMe

theorem State.memWf.execBarq {d a : GReg} {s : State} (w : s.memWf) : outWf (execBarq d a s) := by
  unfold Sys2Proof.Machine.execBarq
  dsimp only
  show State.memWf _
  refine w.issue fun v => ?_
  split
  · trivial
  · split
    · refine ifWf ?_ v
      split
      · exact v.takeJournal
      · exact v.arrive.gw
    · trivial

theorem State.memWf.execBarrierArrivalLatched {core thr : Nat} {s : State} (w : s.memWf) : outWf (execBarrierArrivalLatched core thr s) := by
  unfold Sys2Proof.Machine.execBarrierArrivalLatched
  dsimp only
  show State.memWf _
  split
  · refine ifWf ?_ w
    split
    · exact w.setThread.trapThread
    · exact w.arrive.modThread
  · refine ifWf ?_ w
    split
    · exact w.setThread.trapThread
    · exact w.arrive.take.gw.complete
  · exact w

/-! ### Release (R173, R176, R180, R369) -/

theorem State.memWf.popWaiting {p ch : Nat} {s : State} (w : s.memWf) : (s.popWaiting p ch).memWf := by
  unfold State.popWaiting
  refine w.foldl fun v => ?_
  split
  · exact v.pop.ite v
  · exact v

theorem State.memWf.execBarrierRelease {ch seg : Nat} {s : State} (w : s.memWf) : outWf (execBarrierRelease ch seg s) := by
  unfold Sys2Proof.Machine.execBarrierRelease
  dsimp only
  show State.memWf _
  split
  · exact w
  · split
    · exact w
    · exact (w.setKernel.foldl fun v => v.popWaiting.modCore.delay).ite w

/-! ### Migration locks (R92, R318) -/

theorem State.memWf.hold {ctx : Nat} {va : Word} {h : HeldWrite} {s : State} (w : s.memWf) : (s.hold ctx va h).memWf := .same w

/-! ### What a receiver tells the core (R244, R248-R250) -/

theorem State.memWf.tellThread {p t : Nat} {wts : Word} {s : State} (w : s.memWf) : (s.tellThread p t wts).memWf := by
  unfold State.tellThread
  dsimp only
  exact ifWf w.modThread (.modFrames w.modCore)

/-! ### Lines at their owner -/

theorem State.memWf.dirty {p l off n : Nat} {s : State} (w : s.memWf) : (s.dirty p l off n).memWf := by
  unfold State.dirty
  split
  · exact w.modCore
  · exact w

theorem State.memWf.delayAccept {s' : State} {p q l pa : Nat} {s : State} (w : s.memWf) (ws' : s'.memWf) : (s.delayAccept s' p q l pa).memWf :=
  ws'.takeRecall.takeRecall.delayLine

theorem State.memWf.acceptLine {p : Nat} {site : Option Nat} {l pa off n : Nat} {pt : Word} {s : State} (w : s.memWf) :
    optFstWf (s.acceptLine p site l pa off n pt) := by
  unfold State.acceptLine
  split
  · exact w.acceptSlice.map fun v => w.delayAccept v
  · exact w.accept.map fun v => (w.delayAccept v).ite v

theorem State.memWf.acceptGroup {p : Nat} {site : Option Nat} {pt : Word} {g : List Elem} {s : State} (w : s.memWf) :
    optFstWf (s.acceptGroup p site pt g) := by
  unfold State.acceptGroup
  split
  · trivial
  · split
    · split
      · trivial
      next h =>
        refine State.memWf.foldl (answerWf w.acceptLine h) fun w => ?_
        split
        · exact ifWf w.writeLine w.writeLine.dirty
        · exact w
    · refine ifWf trivial (w.delay.foldl fun w => ?_)
      split
      · exact w.podIn (mwrite_wf _ _ _ _ w.pod)
      · exact w
    · refine ifWf trivial (w.delay.foldl fun w => ?_)
      split
      · exact w.hostIn (mwrite_wf _ _ _ _ w.host)
      · exact w
    · trivial

theorem State.memWf.freeLine {d l : Nat} {keep : Option Nat} {s : State} (w : s.memWf) : (s.freeLine d l keep).memWf := by
  unfold State.freeLine
  dsimp only
  split
  · split
    · exact (w.ite w.dieGives).ite (w.ite w.dieGives).stashGives
    · exact w.ite w.dieGives
  · exact w.ite w.dieGives

theorem State.memWf.atomicAt {p q l off pa w : Nat} {pt len : Word} {f : Nat → Option Nat} {s : State} (v : s.memWf) :
    optFstWf (s.atomicAt p q l off pa w pt len f) := by
  unfold State.atomicAt
  dsimp only
  split
  · exact v.acceptSlice.map fun x => x.writeLine
  · split
    · trivial
    next h1 =>
      split
      · trivial
      · exact ifWf trivial ((answerWf v.takeLine h1).setSlice)

/-! ### Debug mode: raw writes to an old copy (R296) -/

theorem State.memWf.rawBreak {p t slot : Nat} {g : List Elem} {s : State} (w : s.memWf) : (s.rawBreak p t slot g).memWf := by
  unfold State.rawBreak
  refine ifWf w ?_
  split
  · exact w.modThread
  · exact w

/-! ### A journal entry's acceptance (R248) -/

/-- What an entry leaves of its elements, what the thread is told, and the entry's end. -/
theorem State.memWf.acceptDone {p t e : Nat} {f : Core → Core} {wts : Word} {s : State} (w : s.memWf)
    (hf : ∀ c, (f c).direct = c.direct := by intro c; rfl) : (((s.modCore p f).tellThread p t wts).settleEntry p e).memWf :=
  (w.modCore hf).tellThread.settleEntry

theorem State.memWf.acceptEntry {p i : Nat} {g : List Elem} {s : State} (w : s.memWf) : optWf (s.acceptEntry p i g) := by
  unfold State.acceptEntry
  dsimp only
  generalize ((s.core p).entry i).kind = kind
  cases kind with
  | ref => exact w.acceptGroup.mapTo fun w => .acceptDone w
  | store => exact w.acceptGroup.mapTo fun w => .acceptDone (ifWf (.rawBreak w) w)
  | writeback l give =>
    have clean := w.modCore (p := p) (f := fun c => match c.stashLine l with
      | some x => c.setStash { x with dirty := 0 }
      | none => c) fun c => by split <;> rfl
    exact .acceptDone (ifWf (.stashGives clean) clean)
  | heal old new =>
    dsimp only
    split
    · exact w.atomicAt.mapTo fun v => .acceptDone (.delayAccept w v)
    · trivial
  | unpin =>
    dsimp only
    split
    · exact w.atomicAt.mapTo fun v => .acceptDone (.delayAccept w v)
    · trivial
  | _ => trivial

theorem State.memWf.journalAccept {p i k : Nat} {skip : List Nat} {s : State} (w : s.memWf) : (s.journalAccept p i k skip).memWf := by
  unfold State.journalAccept
  dsimp only
  split
  · exact w
  · refine ifWf w ?_
    split
    · exact w.hold.ite (w.ite (w.acceptEntry.getD w))
    · exact w.acceptEntry.getD w

/-! ### Drain stores (R223, R224, R229, R230) -/

theorem State.memWf.drainAccept {p j k : Nat} {skip : List Nat} {s : State} (w : s.memWf) : (s.drainAccept p j k skip).memWf := by
  unfold State.drainAccept
  dsimp only
  split
  · exact w
  · split
    · exact w
    · refine ifWf w <| ifWf (w.foldl fun v => v.hold) <| ifWf w ?_
      split
      · exact w
      next h2 => exact (answerWf w.acceptGroup h2).modCore.tellThread.rawBreak

/-! ### Copy writes (R269, R274) -/

theorem State.memWf.engWrite {ctx : Nat} {e : Elem} {p : Word} {s : State} (w : s.memWf) : fstWf (s.engWrite ctx e p) := by
  unfold State.engWrite
  split
  · exact w.homeWrite
  · exact w.podIn (mwrite_wf _ _ _ _ w.pod)
  · exact w.hostIn (mwrite_wf _ _ _ _ w.host)
  · exact w

theorem State.memWf.copyAccept {r j k : Nat} {s : State} (w : s.memWf) : (s.copyAccept r j k).memWf := by
  unfold State.copyAccept
  dsimp only
  split
  · exact w
  · split
    · exact w
    · refine ifWf w <| ifWf w.hold <| ifWf w ?_
      refine .setRun ?_
      split
      · exact w.engWrite.fst.ite w.engWrite.fst.rawBreak
      · exact w.engWrite.fst

/-! ### The steps -/

theorem State.memWf.execStoreAcceptance {x0 : Nat} {x1 : Portion} {s : State} (w : s.memWf) : outWf (execStoreAcceptance x0 x1 s) := by
  unfold Sys2Proof.Machine.execStoreAcceptance
  split
  exact w.journalAccept.ite (w.drainAccept.ite w.copyAccept)

theorem State.memWf.execStoreRefusal {core entry : Nat} {s : State} (w : s.memWf) : outWf (execStoreRefusal core entry s) := by
  unfold Sys2Proof.Machine.execStoreRefusal
  dsimp only
  show State.memWf _
  split
  · split
    · exact w
    · exact w.ite (w.hold.ite w.setCoreOf.settleEntry)
  · refine ifWf w ?_
    split
    · exact w
    · split
      · exact w
      · exact w.ite w.copyStop

/-! ### Recalls, renewals, evictions, fills (R239, R243, R244, R246, R406) -/

theorem State.memWf.execExclusivityRecall {line : Nat} {s : State} (w : s.memWf) : outWf (execExclusivityRecall line s) := by
  unfold Sys2Proof.Machine.execExclusivityRecall
  show State.memWf _
  split
  · exact (w.dieGives.noteRecall.ite w).ite w
  · exact w

theorem State.memWf.execLeaseRenewal {die line need : Nat} {s : State} (w : s.memWf) : outWf (execLeaseRenewal die line need s) := by
  unfold Sys2Proof.Machine.execLeaseRenewal
  dsimp only
  show State.memWf _
  split
  · exact w
  · refine ifWf (.mapCores w.renew.takeRecall fun e => ?_) w
    split <;> rfl

theorem State.memWf.fillFrom {d l : Nat} {need : Word} {s : State} (w : s.memWf) : optFstWf (s.fillFrom d l need) := by
  unfold State.fillFrom
  split
  · trivial
  · split
    · cases Core.stashLine _ _ with
      | none => trivial
      | some x => exact w.modCore
    · dsimp only
      split
      · exact w.setSlice
      · split
        · trivial
        · exact w

theorem State.memWf.execPrefetchFillReturn {core j : Nat} {s : State} (w : s.memWf) : outWf (execPrefetchFillReturn core j s) := by
  unfold Sys2Proof.Machine.execPrefetchFillReturn
  dsimp only
  show State.memWf _
  split
  · exact w
  · refine ifWf w.setCoreOf <| ifWf w ?_
    split
    · exact w
    next h1 => exact (answerWf w.setCoreOf.fillFrom h1).delayLine.l1Fill

/-! ### Banks and the table of operations (R184, R185, R203) -/

theorem State.memWf.setMx {p : Nat} {f : Matrix → Matrix} {s : State} (w : s.memWf) : (s.setMx p f).memWf := w.modCore
theorem State.memWf.putMprog {p : Nat} {o : Mop} {act phase : Nat} {s : State} (w : s.memWf) : (s.putMprog p o act phase).memWf := w.ite w.modThread
theorem State.memWf.putDprog {p : Nat} {o : Mop} {act : Nat} {s : State} (w : s.memWf) : (s.putDprog p o act).memWf := w.ite w.modThread

theorem State.memWf.park {p : Nat} {o : Mop} {tr : Trap} {s : State} (w : s.memWf) : (s.park p o tr).memWf := by
  unfold State.park
  dsimp only
  exact ifWf (.setMx (.same w)) (.trapThread (.putMprog (.setMx (.same w))))

/-! ### mma (R199, R200) -/

theorem State.memWf.execMma {acc : Acc} {a b : GReg} {fa fb : Fin 16} {s : State} (w : s.memWf) : outWf (execMma acc a b fa fb s) := by
  refine w.issue fun w => ?_
  dsimp only
  refine ifWf w <| ifWf trivial <| ifWf trivial <| ifWf trivial <| ifWf trivial <| ifWf trivial <| ifWf trivial ?_
  split
  · trivial
  · exact w.setMx.putMprog

/-! ### Bank instructions (R203) -/

theorem State.memWf.bankOp {op : Nat} {acc : Acc} {addr : Nat} {s : State} (w : s.memWf) : (s.bankOp op acc addr).memWf := w.setMx

theorem State.memWf.bankMove {op : Nat} {acc : Acc} {a : GReg} {s : State} (w : s.memWf) : outWf (bankMove op acc a s) :=
  w.issue fun v => ifWf trivial (ifWf trivial v.bankOp)

theorem State.memWf.endMatrix {p t : Nat} {s : State} (w : s.memWf) : (s.endMatrix p t).memWf := w.complete.ite w

theorem State.memWf.execBankOpTake {core : Nat} {bank : Acc} {s : State} (w : s.memWf) : outWf (execBankOpTake core bank s) := by
  unfold Sys2Proof.Machine.execBankOpTake
  dsimp only
  show State.memWf _
  split
  · exact w.ite (w.setMx.endMatrix.ite w.setMx)
  · exact w

theorem State.memWf.bankMoveAt {core : Nat} {b : BankOp} {i : Nat} {s : State} (w : s.memWf) : (State.bankMoveAt core b s i).memWf :=
  w.land.dwrite.ite w.land.setMx

theorem State.memWf.execBankTransferComplete {x0 : Portion} {x1 : Acc} {s : State} (w : s.memWf) : outWf (execBankTransferComplete x0 x1 s) := by
  unfold Sys2Proof.Machine.execBankTransferComplete
  dsimp only
  show State.memWf _
  split
  · exact (w.foldl fun v => v.bankMoveAt).setMx.endMatrix.ite (w.foldl fun v => v.bankMoveAt).setMx
  · exact w

/-! ### Admission and chunks (R185, R194, R196) -/

theorem State.memWf.execMmaAdmission {core : Nat} {s : State} (w : s.memWf) : outWf (execMmaAdmission core s) := by
  unfold Sys2Proof.Machine.execMmaAdmission
  dsimp only
  show State.memWf _
  split
  · exact w
  · split
    · exact w
    · exact w.setMx.putMprog

theorem State.memWf.afterChunks {p : Nat} {o : Mop} {s : State} (w : s.memWf) : (s.afterChunks p o).memWf :=
  w.setMx.ite (w.setMx.putMprog.putDprog.ite w.setMx)

theorem Piece.memWf.foldl {α : Type} {f : Piece → α → Piece} {l : List α} {x : Piece} (w : x.memWf)
    (h : ∀ {x : Piece} {a : α}, x.memWf → (f x a).memWf) : (l.foldl f x).memWf := foldl_keeps f Piece.memWf (fun _ _ w => h w) l x w

/-- The reads of a run of operands, from a state on. -/
theorem State.memWf.reads {α : Type} {f : Piece → α → Piece} {l : List α} {got : Tab Nat} {s : State} (w : s.memWf)
    (h : ∀ {x : Piece} {a : α}, x.memWf → (f x a).memWf) : (l.foldl f { s := s, got := got }).s.memWf :=
  (Piece.memWf.foldl (x := { s := s, got := got }) w h).s

theorem State.memWf.execChunkAccumulate {x : Portion} {s : State} (w : s.memWf) : outWf (execChunkAccumulate x s) := by
  unfold Sys2Proof.Machine.execChunkAccumulate
  show State.memWf _
  split
  · exact w
  · refine ifWf w ?_
    dsimp only
    split
    · exact ifWf (.park (w.reads fun w => w.read)) w
    · exact ifWf (.setMx (w.reads fun w => w.read))
        (.afterChunks (.putMprog (.modCore (.setMx (w.reads fun w => w.read)) fun c => c.count_direct _)))

theorem State.memWf.execMatrixOperationComplete {core thr : Nat} {s : State} (w : s.memWf) : outWf (execMatrixOperationComplete core thr s) := by
  unfold Sys2Proof.Machine.execMatrixOperationComplete
  dsimp only
  show State.memWf _
  split
  · exact w.ite (w.setMx.ite ((w.setMx.putMprog.putDprog.ite w.setMx.putMprog).complete.ite w))
  · exact w

/-! ### The instructions (R278, R279) -/

theorem State.memWf.copyIssue {form : Nat} {ev : Bool} {d a : GReg} {s : State} (w : s.memWf) : outWf (copyIssue form ev d a s) := by
  unfold Sys2Proof.Machine.copyIssue
  dsimp only
  show State.memWf _
  refine w.issue fun v => ?_
  refine ifWf trivial <| ifWf trivial ?_
  split
  · trivial
  · split
    · trivial
    next h1 => exact (answerWf v.land.post h1).ite (answerWf v.land.post h1).modMe

/-! ### Where a request goes (R259, R270, R271) -/

theorem State.memWf.sendReloc {p i : Nat} {r : RelReq} {s : State} (w : s.memWf) : (s.sendReloc p i r).memWf := by
  unfold State.sendReloc
  dsimp only
  split
  · exact .send (.same w)
  · exact ifWf (.send (.same w)) w.addMiss

theorem State.memWf.execCopyRequestLeaves {core entry : Nat} {s : State} (w : s.memWf) : outWf (execCopyRequestLeaves core entry s) := by
  unfold Sys2Proof.Machine.execCopyRequestLeaves
  dsimp only
  show State.memWf _
  split
  · exact ifWf (.same w.release) w
  · exact w.send.ite w
  · exact w.sendReloc.ite w
  · exact w

theorem State.memWf.execCopyRequestAccept {k : Nat} {s : State} (w : s.memWf) : outWf (execCopyRequestAccept k s) := by
  unfold Sys2Proof.Machine.execCopyRequestAccept
  dsimp only
  show State.memWf _
  split
  · exact w.drop.setRetr.release.ite w
  · exact w

theorem State.memWf.execCopyStart {ret : Nat} {s : State} (w : s.memWf) : outWf (execCopyStart ret s) := by
  unfold Sys2Proof.Machine.execCopyStart
  dsimp only
  show State.memWf _
  split
  · exact w.setRetr.ite w
  · exact w

/-! ### Elements (R268, R269, R274, R275) -/

theorem State.memWf.engPlace {stack : Nat} {who : MissWho} {whoWord ctx gtn slot limit : Nat} {rt : Word} {n : AccNeed} {va : Word}
    {w : Nat} {s : State} (v : s.memWf) :
    (s.engPlace stack who whoWord ctx gtn slot limit rt n va w).memWf := by
  unfold State.engPlace
  dsimp only
  split
  · exact v
  · exact ifWf trivial v
  · split
    · split
      · trivial
      · exact v
    · exact ifWf (.same v) v.addMiss

theorem EngAt.memWf.reached {s : State} {site : Nat} {x : EngAt} (w : x.memWf) (ws : s.memWf) : (x.reached s site).memWf := by
  unfold EngAt.reached
  split
  · exact ifWf trivial ws
  · exact w

theorem State.memWf.copyPlace {ret id : Nat} {r : CopyReq} {n : AccNeed} {va : Word} {w : Nat} {s : State} (v : s.memWf) :
    (s.copyPlace ret id r n va w).memWf := by
  unfold State.copyPlace
  split
  · exact ifWf trivial v
  · exact v.engPlace

theorem State.memWf.rowPlaces {f : State → Word → EngAt} (hf : ∀ {u : State} {va : Word}, u.memWf → (f u va).memWf) {vas : List Word} {s : State}
    (w : s.memWf) : (rowPlaces f vas s).memWf := by
  induction vas generalizing s with
  | nil => trivial
  | cons va vas ih =>
    unfold Sys2Proof.Machine.rowPlaces
    split
    next h =>
      have w := answerWf (hf w) h
      split
      next h => exact answerWf (ih w) h
      · exact w
    next h =>
      have w' := answerWf (hf w) h
      split
      next h => split <;> exact answerWf (ih w) h
      next h => exact answerWf (ih w) h
      · exact w'
    · split
      · trivial
      · exact ih w

theorem State.memWf.engLoad {ctx core : Nat} {p : Word} {pl : Place} {w : Nat} {s : State} (v : s.memWf) : fstWf (s.engLoad ctx core p pl w) := by
  unfold State.engLoad
  dsimp only
  split
  · exact v
  · exact ifWf v v.dieGives.setHome
  · split
    · exact ifWf v v
    · exact v
  · exact ifWf v.podSend v
  · exact ifWf v (ifWf v v)

theorem State.memWf.readPlaces {ctx core : Nat} {p : Word} {n : Nat} {skip : List Nat} {left : Bool} {l : List (Nat × Word × Place)} {s : State}
    {got : Tab Nat} (w : s.memWf) : (readPlaces ctx core p n skip left l s got).memWf := by
  induction l generalizing s got with
  | nil => exact w
  | cons x l ih =>
    unfold Sys2Proof.Machine.readPlaces
    split
    · exact ih w
    · split
      next h => exact ih (answerWf w.engLoad h)
      next h =>
        have w := answerWf w.engLoad h
        split
        next h => split <;> exact answerWf (ih w) h
        · split
          · exact ih w
          · exact w

theorem State.memWf.readRow {ret id : Nat} {r : CopyReq} {n first : Nat} {vas : List Word} {skip : List Nat} {got : Tab Nat} {s : State}
    (w : s.memWf) : (s.readRow ret id r n first vas skip got).memWf := by
  unfold State.readRow
  split
  next h => exact answerWf (w.rowPlaces fun w => w.copyPlace) h
  next h => exact answerWf (w.rowPlaces fun w => w.copyPlace) h
  · exact w.readPlaces

theorem State.memWf.issueWrites {ret : Nat} {x : CopyRun} {e : Nat} {els : List Elem} {s : State} (w : s.memWf) : (s.issueWrites ret x e els).memWf := by
  unfold State.issueWrites
  dsimp only
  refine w.setRun.foldl fun v => ?_
  split
  · refine ifWf ?_ v.sendPort
    split
    next h1 => exact (answerWf v.portWrite h1).portSettled
    · exact v.portSettled
  · exact v.sendPort
  · exact v

theorem RowData.memWf.ok {got : Tab Nat} {left : Bool} {s : State} (w : s.memWf) : (RowData.ok s got left).memWf := w

theorem State.memWf.execCopyElement {ret : Nat} {x : Portion} {s : State} (w : s.memWf) : outWf (execCopyElement ret x s) := by
  unfold Sys2Proof.Machine.execCopyElement
  show State.memWf _
  split
  · exact w
  · refine ifWf w ?_
    dsimp only
    split
    next h => exact answerWf (ifWf w.readRow (RowData.memWf.ok w)) h
    next h => exact .copyStop (answerWf (ifWf w.readRow (RowData.memWf.ok w)) h)
    next u _ _ h =>
      have wu : u.memWf := answerWf (ifWf w.readRow (RowData.memWf.ok w)) h
      split
      next h => exact .setRun (answerWf (ifWf (RowData.memWf.ok wu) wu.readRow) h)
      next h => exact .copyStop (answerWf (ifWf (RowData.memWf.ok wu) wu.readRow) h)
      next h => exact .setRun (answerWf (ifWf (RowData.memWf.ok wu) wu.readRow) h)
      next v _ h =>
        have wv : v.memWf := answerWf (ifWf (RowData.memWf.ok wu) wu.readRow) h
        split
        next h => exact .setRun (answerWf (wv.rowPlaces fun w => w.copyPlace) h)
        next h => exact .copyStop (answerWf (wv.rowPlaces fun w => w.copyPlace) h)
        · exact wv.issueWrites

/-! ### Completion (R167, R272, R276, R277) -/

theorem State.memWf.copyOffer {src : Endp} {r : CopyReq} {status : Word} {rows : Nat} {rt : Word} {s : State} (w : s.memWf) :
    (s.copyOffer src r status rows rt).memWf :=
  w.send

theorem State.memWf.writeToken {p t d : Nat} {val rt : Word} {s : State} (w : s.memWf) : (s.writeToken p t d val rt).memWf := w.modThread

theorem State.memWf.execCopySettled {ret j : Nat} {s : State} (w : s.memWf) : outWf (execCopySettled ret j s) := by
  unfold Sys2Proof.Machine.execCopySettled
  dsimp only
  show State.memWf _
  split
  · exact w
  · refine ifWf ?_ w
    refine ifWf ?_ ?_
    · refine .copyOffer ?_
      split
      · exact w.setRetr
      · split
        · exact w.setRetr.deliver
        · exact w.setRetr.toHost
    · refine ifWf ?_ ?_
      · split
        · exact w.setRetr
        · split
          · exact w.setRetr.deliver
          · exact w.setRetr.toHost
      · refine .send ?_
        split
        · exact w.setRetr
        · split
          · exact w.setRetr.deliver
          · exact w.setRetr.toHost

theorem State.memWf.execZeroExtentCompletion {core entry : Nat} {s : State} (w : s.memWf) : outWf (execZeroExtentCompletion core entry s) := by
  unfold Sys2Proof.Machine.execZeroExtentCompletion
  dsimp only
  show State.memWf _
  split
  · exact (w.release.copyOffer.ite (w.release.ite w.release.writeToken)).ite w
  · exact w

theorem State.memWf.execTokenWrite {k : Nat} {s : State} (w : s.memWf) : outWf (execTokenWrite k s) := by
  unfold Sys2Proof.Machine.execTokenWrite
  dsimp only
  show State.memWf _
  split
  · split
    · exact w.drop.ite w.drop.delayBy.writeToken
    · exact w
  · exact w

/-! ### Loads that an instruction makes at its issue (R287, R288) -/

theorem Look.memWf.bind {α β : Type} {x : Look α} {f : State → α → Look β} (w : x.memWf) (hf : ∀ {u : State} {a : α}, u.memWf → (f u a).memWf) :
    (x.bind f).memWf := by
  cases x with
  | ok s a => exact hf w
  | wait s u n m => exact w
  | trap s t => exact w

theorem Look.memWf.ends {α : Type} {x : Look α} {st : Stage} {f : State → α → Ends} (w : x.memWf)
    (hf : ∀ {u : State} {a : α}, u.memWf → (f u a).memWf) : (x.ends st f).memWf := by
  cases x with
  | ok s a => exact hf w
  | wait s u n m => exact State.memWf.ite (State.memWf.threadMiss w) w
  | trap s t => exact w

theorem State.memWf.addZero {l pa off w : Nat} {s : State} (v : s.memWf) : optFstWf (s.addZero l pa off w) :=
  v.l1Drop.freeLine.atomicAt.map fun x => x.modMe

theorem State.memWf.hload {add0 : Bool} {va w : Nat} {s : State} (v : s.memWf) : (s.hload add0 va w).memWf := by
  unfold State.hload
  dsimp only
  split
  · exact v
  · exact v
  · refine ifWf v <| ifWf v.markSeen <| ifWf v <| ifWf v ?_
    refine ifWf ?_ ?_
    · refine ifWf v ?_
      split
      · exact v
      next h1 => exact answerWf v.addZero h1
    · split
      · exact v
      · exact v
      next h1 => exact (answerWf v.loadNow h1).markSeen
  · split
    next h1 => exact answerWf v.readUnit h1
    · exact v
    · exact v

theorem State.memWf.region {r : Nat} {s : State} (w : s.memWf) : (s.region r).memWf := by
  unfold State.region
  dsimp only
  split
  · exact w.modMe
  · split
    · exact w
    · exact w.modMe.hload.bind fun v => v.modCore

theorem State.memWf.readSlot {atom : Bool} {va : Nat} {s : State} (w : s.memWf) : (s.readSlot atom va).memWf :=
  ifWf (w.hload.bind fun w => w.hload.bind fun w => w) w.hload

theorem State.memWf.probe {atom : Bool} {e : BitVec 512} {a n h : Nat} {s : State} (w : s.memWf) : (probe atom e a n h s).memWf := by
  induction n generalizing h s with
  | zero => exact w
  | succ n ih =>
    refine w.readSlot.bind fun w => ?_
    split
    · exact w
    · split
      · exact w
      · split
        · exact w
        · exact ih w

theorem State.memWf.barrier {v : Word} {s : State} (w : s.memWf) : (s.barrier v).memWf := by
  unfold State.barrier
  dsimp only
  refine ifWf w ?_
  refine w.region.bind fun x => ?_
  refine ifWf x <| ifWf x ?_
  refine x.probe.bind fun y => ?_
  split
  · exact y
  · exact ifWf y (ifWf y y)

theorem State.memWf.heal {a : HReg} {x : Word × Bar} {s : State} (w : s.memWf) : (s.heal a x).memWf := w.hw.ite w

/-! ### Heap accesses (R297) -/

theorem State.memWf.heapBase {a : HReg} {off : BitVec 11} {w : Nat} {store : Bool} {s : State} (v : s.memWf) : (s.heapBase a off w store).memWf := by
  unfold State.heapBase
  dsimp only
  refine ifWf v ?_
  refine ifWf ?_ (v.barrier.bind fun x => x.heal.hload.bind fun y => ifWf y y)
  split
  · exact v
  · exact v.hload.bind fun x => ifWf x x

theorem State.memWf.heapPlace {need : Nat} {ea : Word} {w : Nat} {s : State} (v : s.memWf) : (s.heapPlace need ea w).memWf := by
  unfold State.heapPlace
  refine ifWf v ?_
  split <;> exact v

theorem State.memWf.postUnit {kind : JKind} {u : Elem} {s : State} (w : s.memWf) : (s.postUnit kind u).memWf := by
  unfold State.postUnit
  split
  next h => exact answerWf w.post h
  · trivial

theorem State.memWf.hldBody {d : GReg} {a : HReg} {sz : Sz} {off : BitVec 11} {s : State} (w : s.memWf) : (hldBody d a sz off s).memWf :=
  w.heapBase.ends fun v => v.heapPlace.ends fun x => x

theorem State.memWf.hstBody {d : GReg} {a : HReg} {sz : Sz} {off : BitVec 11} {st : Stage} {s : State} (w : s.memWf) :
    (hstBody d a sz off st s).memWf :=
  w.heapBase.ends fun v => v.heapPlace.ends fun x => ifWf x x.postUnit

theorem State.memWf.hldrBody {d a : HReg} {off : BitVec 11} {s : State} (w : s.memWf) : (hldrBody d a off s).memWf :=
  w.heapBase.ends fun v => v.heapPlace.ends fun x => x

theorem State.memWf.hstrBody {d a : HReg} {off : BitVec 11} {st : Stage} {s : State} (w : s.memWf) : (hstrBody d a off st s).memWf := by
  refine w.heapBase.ends fun w => Look.memWf.ends ?_ fun w => w.heapPlace.ends fun w => ?_
  · split
    · exact w
    · exact w.region.bind fun w => w
  · split
    · exact w
    · split
      · split
        · trivial
        · refine Look.memWf.ends ?_ fun w => w
          split <;> exact w
      · exact w.postUnit

/-! ### Heap operations (R301-R304) -/

theorem State.memWf.placeUnits {l : List (Word × Nat)} {i : Nat} {s : State} (w : s.memWf) : (placeUnits l i s).memWf := by
  induction l generalizing i s with
  | nil => exact w
  | cons x l ih => exact w.heapPlace.bind fun w => (ih w).bind fun w => w

theorem State.memWf.hnewBody {d : HReg} {a b : GReg} {s : State} (w : s.memWf) : (hnewBody d a b s).memWf := by
  unfold Sys2Proof.Machine.hnewBody
  extract_lets x y c u rd size cur lim reg
  have wu : u.memWf := ifWf w w.land
  clear_value u rd size cur lim reg
  refine ifWf trivial <| ifWf trivial <| ifWf trivial <| wu.region.ends fun w => ?_
  refine ifWf trivial <| ifWf (.hw w) <| ifWf trivial <| w.placeUnits.ends fun w => ?_
  split
  · trivial
  next h => exact .hw (.dwrite (answerWf w.post h))

theorem State.memWf.startPin {d : GReg} {a : HReg} {obj : Nat} {st : Stage} {s : State} (w : s.memWf) : (s.startPin d a obj st).memWf :=
  w.heapPlace.ends fun v => v

theorem State.memWf.hpinBody {d : GReg} {a : HReg} {pinned : Nat} {st : Stage} {s : State} (w : s.memWf) : (hpinBody d a pinned st s).memWf :=
  w.barrier.ends fun v => ifWf v.heal (ifWf v.heal.gw v.heal.startPin)

theorem State.memWf.hunpinBody {a : HReg} {st : Stage} {s : State} (w : s.memWf) : (hunpinBody a st s).memWf :=
  w.barrier.ends fun v => ifWf v.heal (v.heal.heapPlace.ends fun y => y.postUnit)

theorem State.memWf.barrierOrNull {v : Word} {s : State} (w : s.memWf) : (s.barrierOrNull v).memWf := by
  unfold State.barrierOrNull
  exact ifWf w w.barrier

theorem State.memWf.hcmpBody {d : GReg} {a b : HReg} {s : State} (w : s.memWf) : (hcmpBody d a b s).memWf :=
  Look.memWf.ends (w.barrierOrNull.bind fun w => w.heal.barrierOrNull.bind fun w => .heal w) fun w => .gw w

theorem State.memWf.execHtag {d : GReg} {a : HReg} {s : State} (w : s.memWf) : outWf (execHtag d a s) := by
  unfold Sys2Proof.Machine.execHtag
  dsimp only
  show State.memWf _
  refine w.issue fun v => ?_
  refine ifWf trivial ?_
  split
  · trivial
  next h => exact (answerWf v.post h).ite (answerWf v.post h).modMe

/-! ### What a reply lets these instructions do (R295, R299, R300, R302) -/

theorem State.memWf.unpinNow {p t : Nat} {s : State} (w : s.memWf) : (s.unpinNow p t).memWf := by
  unfold State.unpinNow
  split
  · exact w.homeWrite.fst
  · exact w

theorem State.memWf.resume {p t : Nat} {e : Ends} {s : State} (w : s.memWf) (we : e.memWf) : optWf (s.resume p t e) := by
  cases e with
  | done u => exact State.memWf.complete (s := u) we
  | jump u pc => exact (State.memWf.complete (s := u) we).modThread
  | wait u x => exact State.memWf.modThread (s := u) we
  | again x => trivial
  | trap tr => exact w.unpinNow.trapMe
  | trapKeep u tr => exact (State.memWf.unpinNow (s := u) we).trapMe
  | gone u => exact we

theorem State.memWf.finishHldr {p t : Nat} {d : HReg} {keep : Bool} {u : Elem} {v : Word} {s : State} (w : s.memWf) :
    optWf (s.finishHldr p t d keep u v) := by
  unfold State.finishHldr
  refine w.take.resume (Look.memWf.ends (ifWf ?_ (ifWf ?_ ?_)) fun w => ifWf (State.memWf.postUnit (.hw w)) (State.memWf.hw w))
  · exact w.take
  · exact w.take
  · exact w.take.barrier

theorem State.memWf.finishHpin {p t : Nat} {d : GReg} {a : HReg} {obj : Nat} {s : State} (w : s.memWf) : optWf (s.finishHpin p t d a obj) := by
  unfold State.finishHpin
  dsimp only
  refine w.take.resume ?_
  refine (w.take.region.bind fun v => v.probe).ends fun v => ?_
  split
  · exact v.gw
  · exact ifWf v (ifWf v.gw v.hw.startPin)

theorem State.memWf.finishHlog {p t : Nat} {v : Word} {target : Elem} {at' : Nat} {s : State} (w : s.memWf) : optWf (s.finishHlog p t v target at') := by
  unfold State.finishHlog
  dsimp only
  split
  · exact w.take.trapMe
  · refine w.take.resume ?_
    refine w.take.hload.ends fun x => ?_
    refine ifWf trivial ?_
    split
    · trivial
    · exact x.threadMiss
    · exact x

/-! ### Retries, and going on after a lookup (R26, R292, R295) -/

theorem State.memWf.heapBody {i : Instr} {f : State → Ends} (h : heapBody i = some f) {s : State} (w : s.memWf) : (f s).memWf := by
  unfold Sys2Proof.Machine.heapBody at h
  split at h
  · cases h; exact w.hldBody
  · cases h; exact w.hstBody
  · cases h; exact w.hldrBody
  · cases h; exact w.hstrBody
  · cases h; exact w.hnewBody
  · cases h; exact w.hpinBody
  · cases h; exact w.hunpinBody
  · cases h; exact w.hcmpBody
  · cases h

/-- An `hst` or `hstr` that had to wait goes on as the form says, and its store is posted in entry `i`. -/
theorem State.memWf.goesHeld {p t : Nat} {o : Option Nat} {e : Ends} {s : State} (w : s.memWf) (we : e.memWf) :
    optWf (match (generalizing := false) e, o with
      | .done x, some i => some (x.modThread p t fun th => { th with wait := .heldPosted i })
      | e, _ => s.resume p t e) := by
  split
  · exact State.memWf.modThread we
  · exact w.resume we

theorem State.memWf.retryHeld {p t : Nat} {a : HReg} {s : State} (w : s.memWf) : optWf (s.retryHeld p t a) := by
  unfold State.retryHeld
  dsimp only
  split
  · exact ifWf (w.take.goesHeld w.take.hstBody) trivial
  · exact ifWf (w.take.goesHeld w.take.hstrBody) trivial
  · trivial

theorem State.memWf.retryPin {p t : Nat} {d : GReg} {a : HReg} {pinned : Nat} {un : Bool} {s : State} (w : s.memWf) :
    optWf (s.retryPin p t d a pinned un) := w.take.resume (ifWf w.take.hunpinBody w.take.hpinBody)

theorem State.memWf.heapGoesOn {p t : Nat} {st : Stage} {s : State} (w : s.memWf) : optWf (s.heapGoesOn p t st) := by
  cases st with
  | launch _ => trivial
  | begun =>
    unfold State.heapGoesOn
    cases h : (decodeWord (s.take p t).cur.word).bind Sys2Proof.Machine.heapBody with
    | none => trivial
    | some f =>
      obtain ⟨i, -, hi⟩ := Option.bind_eq_some_iff.mp h
      exact w.take.resume (w.take.heapBody hi)
  | field d keep u v => exact w.finishHldr
  | pinned d a obj => exact w.finishHpin
  | logged v target entry => exact w.finishHlog
  | held a => exact w.retryHeld
  | pin d a pinned un => exact w.retryPin

theorem State.memWf.execHeldStoreRetry {core thr : Nat} {s : State} (w : s.memWf) : outWf (execHeldStoreRetry core thr s) := by
  unfold Sys2Proof.Machine.execHeldStoreRetry
  dsimp only
  show State.memWf _
  split
  · exact (w.retryHeld.getD w).ite w
  · exact (w.retryPin.getD w).ite w
  · exact w

/-! ### Collies (R291, R293, R294) -/

theorem State.memWf.setCollie {k : Nat} {c : Collie} {s : State} (w : s.memWf) : (s.setCollie k c).memWf := w.setStack

theorem ColR.memWf.bind {α β : Type} {x : ColR α} {f : State → α → ColR β} (w : x.memWf) (hf : ∀ {u : State} {a : α}, u.memWf → (f u a).memWf) :
    (x.bind f).memWf := by
  cases x with
  | ok s a => exact hf w
  | wait s => exact w
  | fault s k a => exact w

theorem State.memWf.colPlace {k : Nat} {r : RelReq} {n : AccNeed} {w : Nat} {va : Word} {s : State} (v : s.memWf) : (s.colPlace k r n w va).memWf :=
  v.engPlace.reached v

theorem State.memWf.colRead {k : Nat} {r : RelReq} {va w : Nat} {s : State} (v : s.memWf) : (s.colRead k r va w).memWf := by
  unfold State.colRead
  dsimp only
  split
  next h => exact answerWf v.colPlace h
  next h => exact answerWf v.colPlace h
  · split
    next h1 => exact answerWf v.engLoad h1
    next h1 => exact answerWf v.engLoad h1

theorem State.memWf.colWrite {k : Nat} {r : RelReq} {va w v : Nat} {s : State} (x : s.memWf) : (s.colWrite k r va w v).memWf := by
  unfold State.colWrite
  dsimp only
  split
  next h => exact answerWf x.colPlace h
  next h => exact answerWf x.colPlace h
  · exact ifWf x (ifWf x x.engWrite.fst.setCollie)
  · exact x

theorem State.memWf.colEntry {k : Nat} {r : RelReq} {tab reg : Nat} {s : State} (w : s.memWf) : (s.colEntry k r tab reg).memWf :=
  w.colRead.bind fun v => v

theorem State.memWf.colProbe {k : Nat} {r : RelReq} {e : BitVec 512} {a n h : Nat} {s : State} (w : s.memWf) : (colProbe k r e a n h s).memWf := by
  induction n generalizing h s with
  | zero => exact w
  | succ n ih => exact w.colRead.bind fun w => ifWf w (ifWf w (ifWf w (ih w)))

theorem State.memWf.forgetCollie {k : Nat} {s : State} (w : s.memWf) : (s.forgetCollie k).memWf := .same w

theorem State.memWf.finishReloc {k : Nat} {r : RelReq} {status : Word} {s : State} (w : s.memWf) : (s.finishReloc k r status).memWf :=
  w.setCollie.forgetCollie.ite w.setCollie.forgetCollie.send

theorem State.memWf.endReloc {k : Nat} {r : RelReq} {status : Word} {s : State} (w : s.memWf) : (s.endReloc k r status).memWf :=
  w.setCollie.ite w.finishReloc

theorem State.memWf.noteOld {k : Nat} {r : RelReq} {slot : Nat} {s : State} (w : s.memWf) : (s.noteOld k r slot).memWf := by
  unfold State.noteOld
  dsimp only
  split
  · exact .same w
  · exact w

theorem State.memWf.relMove {k : Nat} {r : RelReq} {st : RelSt} {slot : Nat} {s : State} (w : s.memWf) : (s.relMove k r st slot).memWf := w.setCollie
theorem State.memWf.keepMisses {s' : State} {s : State} (w : s.memWf) (ws' : s'.memWf) : (s.keepMisses s').memWf := .same w

theorem State.memWf.inPlace {k : Nat} {r : RelReq} {slot epoch : Nat} {status : Word} {s : State} (w : s.memWf) :
    (s.inPlace k r slot epoch status).memWf := by
  unfold State.inPlace
  dsimp only
  split
  next h => exact (answerWf w.colWrite h).endReloc
  next h => exact (w.keepMisses (answerWf w.colWrite h)).relMove
  next h => exact (answerWf w.colWrite h).endReloc

theorem State.memWf.relFound {k reg h tab a : Nat} {r : RelReq} {s : State} (w : s.memWf) : ColR.memWf
    (if h / 2 ^ 48 % 2 = 1 then .ok s Search.imm
      else (s.colEntry k r tab reg).bind fun s e => (Sys2Proof.Machine.colProbe k r e a (2 ^ entFlog e) 0 s).bind fun s x => .ok s (match x with
        | .inl true => Search.present
        | .inl false => .full
        | .inr slot => .free slot e)) :=
  ifWf w (w.colEntry.bind fun w => w.colProbe.bind fun w => w)

theorem State.memWf.relBegin {k : Nat} {r : RelReq} {s : State} (w : s.memWf) : (s.relBegin k r).memWf := by
  unfold State.relBegin
  dsimp only
  split
  next h => exact answerWf (w.colRead.bind fun w => w.relFound) h
  next h => exact answerWf (w.colRead.bind fun w => w.relFound) h
  next h => exact (answerWf (w.colRead.bind fun w => w.relFound) h).endReloc
  next h => exact (answerWf (w.colRead.bind fun w => w.relFound) h).endReloc
  next h => exact (answerWf (w.colRead.bind fun w => w.relFound) h).endReloc
  next u _ _ h =>
    have w' : u.memWf := answerWf (w.colRead.bind fun w => w.relFound) h
    have w := w'
    split
    next h => exact answerWf w.colWrite h
    next h => exact answerWf w.colWrite h
    next h =>
      have w := answerWf w.colWrite h
      split
      next h => exact State.memWf.keepMisses w' (answerWf w.colWrite h)
      next h => exact answerWf w.colWrite h
      next h => exact .foldl (.same (.relMove (.noteOld (answerWf w.colWrite h)))) fun w => w.send

theorem State.memWf.colAdd0 {k : Nat} {r : RelReq} {va w : Nat} {s : State} (v : s.memWf) : (s.colAdd0 k r va w).memWf :=
  v.colRead.bind fun x => x.colWrite.bind fun y => y

theorem State.memWf.relHead {k a b : Nat} {r : RelReq} {s : State} (w : s.memWf) :
    ((s.colAdd0 k r a 4).bind fun s pin => (s.colRead k r b 4).bind fun s size => ColR.ok s (pin, size)).memWf :=
  w.colAdd0.bind fun w => w.colRead.bind fun w => w

theorem State.memWf.relEntries {k tab reg : Nat} {r : RelReq} {s : State} (w : s.memWf) :
    ((s.colEntry k r tab reg).bind fun s e => (s.colEntry k r tab (entTgt e)).bind fun s t => ColR.ok s (entTgt e, t)).memWf :=
  w.colEntry.bind fun w => w.colEntry.bind fun w => w

theorem State.memWf.relTake {k : Nat} {r : RelReq} {slot ep : Nat} {s : State} (w : s.memWf) : (s.relTake k r slot ep).memWf := by
  unfold State.relTake
  dsimp only
  split
  next h => exact w.keepMisses (answerWf w.relHead h)
  next h => exact answerWf w.relHead h
  next s1 _ _ h =>
    have w1 : s1.memWf := answerWf w.relHead h
    refine ifWf (State.memWf.inPlace w1) ?_
    split
    next h => exact w.keepMisses (answerWf w1.relEntries h)
    next h => exact answerWf w1.relEntries h
    next s2 _ _ h =>
      have w2 : s2.memWf := answerWf w1.relEntries h
      refine ifWf (State.memWf.inPlace w2) ?_
      split
      next h => exact w.keepMisses (answerWf w2.colWrite h)
      next h => exact answerWf w2.colWrite h
      next h => exact State.memWf.relMove (answerWf w2.colWrite h)

theorem State.memWf.relCopy {k : Nat} {r : RelReq} {slot ep : Nat} {new : Word} {size : Nat} {got : Tab Nat} {skip : List Nat} {s : State}
    (w : s.memWf) :
    (s.relCopy k r slot ep new size got skip).memWf := by
  unfold State.relCopy
  dsimp only
  split
  next h => exact answerWf (w.rowPlaces fun v => v.colPlace) h
  next h => exact answerWf (w.rowPlaces fun v => v.colPlace) h
  · split
    next h1 => exact answerWf w.readPlaces h1
    next h1 => exact answerWf w.readPlaces h1
    next h1 => exact (answerWf w.readPlaces h1).relMove
    next h1 =>
      split
      next h2 => exact (answerWf ((answerWf w.readPlaces h1).rowPlaces fun v => v.colPlace) h2).relMove
      next h2 => exact answerWf ((answerWf w.readPlaces h1).rowPlaces fun v => v.colPlace) h2
      · split
        · exact answerWf w.readPlaces h1
        · exact ifWf ((answerWf w.readPlaces h1).relMove) (((answerWf w.readPlaces h1).foldl fun v => v.engWrite.fst.setCollie).relMove)

theorem State.memWf.relStart {k : Nat} {s : State} (w : s.memWf) : (s.relStart k).memWf := by
  unfold State.relStart
  dsimp only
  split
  · split
    next h2 => exact answerWf w.setCollie.relBegin h2
    next h2 => exact (answerWf w.setCollie.relBegin h2).setCollie
    · exact w
  · exact w

theorem State.memWf.execRelocationRequestAccept {k : Nat} {s : State} (w : s.memWf) : outWf (execRelocationRequestAccept k s) := by
  unfold Sys2Proof.Machine.execRelocationRequestAccept
  dsimp only
  show State.memWf _
  split
  · exact w.relStart
  · split
    · exact w.drop.setCollie.release.relStart.ite w
    · exact w

theorem State.memWf.execEpochBroadcastArrival {k : Nat} {s : State} (w : s.memWf) : outWf (execEpochBroadcastArrival k s) := by
  unfold Sys2Proof.Machine.execEpochBroadcastArrival
  show State.memWf _
  split
  · split
    · exact w
    · refine ifWf w ?_
      dsimp only
      split
      · exact .setCollie (ifWf (w.drop.setCore w.direct) w.drop)
      · exact ifWf (w.drop.setCore w.direct) w.drop
  · exact w

theorem State.memWf.relFault {r : RelReq} {rank : Nat} {a : Word} {s : State} (w : s.memWf) : (s.relFault r rank a).memWf := by
  unfold State.relFault
  dsimp only
  refine ifWf w ?_
  split
  · exact w.deliver
  · exact w.toHost

theorem State.memWf.relWork {k : Nat} {skip : List Nat} {s : State} {r : RelReq} {o : RelOut} (w : s.memWf) (h : s.relWork k skip = some (r, o)) :
    o.memWf := by
  unfold State.relWork at h
  split at h
  · split at h
    · cases h; exact w.relTake
    · cases h
  · cases h; exact w.relCopy
  · cases h

theorem State.memWf.relMoved {k : Nat} {r : RelReq} {slot : Nat} {new : Word} {s : State} (w : s.memWf) : (s.relMoved k r slot new).memWf :=
  w.colWrite

theorem State.memWf.execCollieEpochAcksDone {x : Portion} {s : State} (w : s.memWf) : outWf (execCollieEpochAcksDone x s) := by
  unfold Sys2Proof.Machine.execCollieEpochAcksDone
  show State.memWf _
  split
  next s1 h =>
    have w1 : s1.memWf := w.relWork h
    split
    · split
      next h => exact w1.relWork h
      next h => exact w1.relWork h
      · exact w1
    · exact w1
  next h => exact w.relWork h
  · exact w

theorem State.memWf.execCollieCopyDone {stack : Nat} {s : State} (w : s.memWf) : outWf (execCollieCopyDone stack s) := by
  unfold Sys2Proof.Machine.execCollieCopyDone
  show State.memWf _
  split
  · split
    next h1 => exact (answerWf w.relMoved h1).endReloc
    next h1 => exact answerWf w.relMoved h1
    · exact w
  · exact w.inPlace
  · exact w

theorem State.memWf.execCollieFault {stack : Nat} {s : State} (w : s.memWf) : outWf (execCollieFault stack s) := by
  have stop {u : State} {r : RelReq} {x : Nat} {a : Word} {slot : Option (Nat × Nat)} {st : Word} (w : u.memWf) :
      (match slot with
        | some (sl, ep) => ((u.forgetCollie stack).relFault r x a).inPlace stack r sl ep st
        | none => ((u.forgetCollie stack).relFault r x a).endReloc stack r st).memWf := by
    split
    · exact w.forgetCollie.relFault.inPlace
    · exact w.forgetCollie.relFault.endReloc
  unfold Sys2Proof.Machine.execCollieFault
  dsimp only
  show State.memWf _
  split
  · split
    next h => exact (answerWf w.relMoved h).forgetCollie.relFault.inPlace
    · exact w
  · split
    · split
      next h => exact stop (answerWf w.setCollie.relBegin h)
      · exact w
    · exact w
  · split
    next h => exact stop (w.relWork h)
    · exact w

theorem State.memWf.execHostRelocationDone {stack : Nat} {status : Word} {s : State} (w : s.memWf) : outWf (execHostRelocationDone stack status s) := by
  unfold Sys2Proof.Machine.execHostRelocationDone
  dsimp only
  show State.memWf _
  split
  · exact w.setCollie.finishReloc.ite w
  · exact w

/-! ### The word to issue (R28, R98) -/

theorem State.memWf.fetch {p t : Nat} {s : State} (w : s.memWf) : (s.fetch p t).memWf := by
  unfold State.fetch
  dsimp only
  refine ifWf (.same w) <| ifWf (.fetchTrap (.same w)) ?_
  split
  · split
    · exact .postIssue (.threadMiss (.same w))
    · exact ifWf (.same w) (.fetchTrap (.same w))
  · exact .fetchTrap (.same w)

/-! ### Debug stops and traces (R32, R404, R405) -/

theorem State.memWf.msi {v : Nat} {s : State} (w : s.memWf) : (s.msi v).memWf := .same w

theorem State.memWf.stop {p t cause : Nat} {s : State} (w : s.memWf) : (s.stop p t cause).memWf := by
  unfold State.stop
  exact .msi (.same w.modThread)

theorem State.memWf.traceCycle {p v : Nat} {s : State} (w : s.memWf) : (s.traceCycle p v).memWf := w.setDie.ite w

theorem State.memWf.traceIssue {p t : Nat} {s : State} (w : s.memWf) : (s.traceIssue p t).memWf := by
  unfold State.traceIssue
  dsimp only
  exact ifWf w.traceCycle (ifWf (ifWf (.same w.modThread) (.hostIn w.modThread (mwrite_wf _ _ _ _ w.host))) w)

theorem State.memWf.fetchIssue {p t : Nat} {s : State} (w : s.memWf) : (s.fetchIssue p t).memWf := by
  unfold State.fetchIssue
  split
  next h => exact (answerWf w.fetch h).traceIssue
  next h => exact answerWf w.fetch h

/-! ### A turn (R20, R25, R30, R332) -/

theorem State.memWf.takeTurn {p t : Nat} {s : State} (w : s.memWf) : (s.takeTurn p t).memWf := by
  unfold State.takeTurn
  dsimp only
  split
  · exact w.stop
  · split
    · split
      next h2 => exact (answerWf w.modThread.fetch h2).trapThread
      · exact w.modThread.fetchTrap
    · exact ifWf w.stop (.same w)

theorem State.memWf.passTime {p : Nat} {s : State} (w : s.memWf) : (s.passTime p).memWf := w.modCore.setDie

theorem State.memWf.turn {p : Nat} {s : State} (w : s.memWf) : (s.turn p).memWf := by
  unfold State.turn
  dsimp only
  split
  · exact w.modCore.passTime.traceCycle
  · exact (w.modCore.passTime.traceCycle.modCore.setThread.takeTurn.ite w.modCore.passTime.traceCycle.modCore.setThread).ite
        w.modCore.passTime.traceCycle.modCore.takeTurn

/-! ### What comes next -/

theorem State.memWf.nextEvent {s : State} (w : s.memWf) : fstWf (s.nextEvent) := by
  unfold State.nextEvent
  split <;> exact .same w

theorem State.memWf.atDrain {p : Nat} {s : State} (w : s.memWf) : (s.atDrain p).memWf := .same w
theorem State.memWf.atIssue {s : State} (w : s.memWf) : (s.atIssue).memWf := .same w

/-! ### Atomics (R104, R105) -/

theorem State.memWf.atomic {op : Fin 8} {d a b : GReg} {wd : AWidth} {nat : Bool} {s : State} (w : s.memWf) : outWf (atomic op d a b wd nat s) := by
  unfold Sys2Proof.Machine.atomic
  dsimp only
  show State.memWf _
  refine w.issue fun v => ?_
  refine ifWf trivial ?_
  refine v.startLoad fun x => ?_
  show State.memWf _
  refine .gw ?_
  split
  · exact x.dwrite
  · exact x

/-! ### Control registers (R73, R109, R110) -/

theorem State.memWf.crWrite {crn : BitVec 12} {v : Word} {s : State} (w : s.memWf) : (crWrite crn v s).memWf := by
  unfold Sys2Proof.Machine.crWrite
  split
  next h => exact answerWf w.crSet h
  · trivial

/-! ### Aborting a kernel (R355) -/

theorem State.memWf.recordsToHost {ctx slot kid : Nat} {s : State} (w : s.memWf) : (s.recordsToHost ctx slot kid).memWf := by
  unfold State.recordsToHost
  dsimp only
  refine .foldl (.same (.foldl (.same w) fun w => ?_)) fun w => w.toHost
  exact w.removeOffer.getD w.setBugle

theorem State.memWf.abortKernel {slot cause thr : Nat} {pc : BitVec 56} {s : State} (w : s.memWf) : (s.abortKernel slot cause thr pc).memWf := by
  unfold State.abortKernel
  split
  · exact w
  · refine State.memWf.mapCores (State.memWf.recordsToHost (w.setKernel.foldl fun w => w.leave)) (hf := fun e => ?_)
    dsimp only
    split <;> rfl

theorem State.memWf.machineRecord {ctx : Nat} {fmode : Word} {count die : Nat} {s : State} (w : s.memWf) :
    (s.machineRecord ctx fmode count die).memWf :=
  w.toUmator.ite w.toHost

theorem State.memWf.poisonFrame {slot die : Nat} {s : State} (w : s.memWf) : (s.poisonFrame slot die).memWf := by
  unfold State.poisonFrame
  split
  · exact w
  · exact w.abortKernel.machineRecord

/-! ### Acknowledgements (R114, R233, R329) -/

theorem State.memWf.fack {act : Nat} {a : GReg} {s : State} (w : s.memWf) : outWf (fack act a s) :=
  w.issue fun v => ifWf trivial (ifWf trivial (.same v))

theorem State.memWf.execFackSent {k : Nat} {s : State} (w : s.memWf) : outWf (execFackSent k s) := by
  unfold Sys2Proof.Machine.execFackSent
  dsimp only
  show State.memWf _
  split
  · exact w
  · exact ifWf (.send (.same w)) w

theorem State.memWf.execFackArrival {k : Nat} {s : State} (w : s.memWf) : outWf (execFackArrival k s) := by
  unfold Sys2Proof.Machine.execFackArrival
  dsimp only
  show State.memWf _
  split
  · split
    · exact w.drop
    · exact (w.ite w.drop.ackThread).ite w.drop
  · exact w

theorem State.memWf.hostFack {act : Nat} {val : Word} {s : State} (w : s.memWf) : outWf (hostFack act val s) := by
  unfold Sys2Proof.Machine.hostFack
  dsimp only
  show State.memWf _
  split
  · exact w
  · exact .send (.same w)

/-! ### DEFINITION. Pages (R307-R322) -/

theorem State.memWf.privileged {a : GReg} {wr : List GReg} {f : State → Ends} {s : State} (w : s.memWf) (hf : ∀ {u : State}, u.memWf → (f u).memWf) :
    outWf (privileged a wr f s) :=
  (w.issue fun v => hf v).ite w.trapMe

/-! ### Entries (R307-R309, R313, R322) -/

theorem State.memWf.bankPut {k : Nat} {e : Tlb} {s : State} (w : s.memWf) : (s.bankPut k e).memWf := w.setStack
theorem State.memWf.clusterPut {k : Nat} {e : Tlb} {s : State} (w : s.memWf) : (s.clusterPut k e).memWf := w.setCluster

theorem State.memWf.noPage {m : Miss} {s : State} (w : s.memWf) : (s.noPage m).memWf := by
  unfold State.noPage
  dsimp only
  split
  · split
    · refine ifWf (.same w) ?_
      split
      · exact .complete (.same w)
      · exact ifWf (.trapMe (.take (.same w))) (.trapMe (.unpinNow (.take (.same w))))
      · exact .fetchTrap (.take (.same w))
      · exact .trapMe (.take (.same w))
      · exact .trapMe (.take (.same w))
    · exact .same w
  · exact .same w

theorem State.memWf.answerMiss {tag w0 w1 : Word} {none' : Bool} {die : Option Nat} {s : State} (w : s.memWf) :
    (s.answerMiss tag w0 w1 none' die).memWf := by
  unfold State.answerMiss
  dsimp only
  refine ifWf (.same (w.foldl fun w => w.noPage)) (.same ?_)
  split
  · split
    · exact w.bankPut
    · exact w
  · exact w.foldl fun w => ifWf w.bankPut.clusterPut w.bankPut

/-! ### Removing entries (R314, R315) -/

theorem State.memWf.dropTlb {P : Tlb → Bool} {s : State} (w : s.memWf) : (s.dropTlb P).memWf := .mapCores w

theorem State.memWf.execTlbiComplete {core thr : Nat} {s : State} (w : s.memWf) : outWf (execTlbiComplete core thr s) := by
  unfold Sys2Proof.Machine.execTlbiComplete
  dsimp only
  show State.memWf _
  split
  · split
    · exact ifWf w <| ifWf (.modThread (.same w.dropTlb)) (w.ite w.complete)
    · exact w
  · exact w

/-! ### Migration and scrub (R316-R319) -/

theorem State.memWf.migEnd {core thr blk status : Nat} {s : State} (w : s.memWf) : (s.migEnd core thr blk status).memWf := by
  unfold State.migEnd
  split
  · split
    · exact w.dwrite.complete.ite w
    · exact w
  · exact w

theorem State.memWf.mapTlb {ctx va size : Nat} {f : Tlb → Tlb} {s : State} (w : s.memWf) : (s.mapTlb ctx va size f).memWf := .mapCores w

theorem State.memWf.recallMisses {ctx va size : Nat} {s : State} (w : s.memWf) : (s.recallMisses ctx va size).memWf :=
  .same (.foldl (.same w) fun v => v.foldl fun x => x.removeOffer.getD x)

theorem State.memWf.migLock {core thr blk b : Nat} {s : State} (w : s.memWf) : (s.migLock core thr blk b).memWf := by
  unfold State.migLock
  exact ifWf w.migEnd (.same (.foldl (.recallMisses (.mapTlb w)) fun w => w.setStack))

theorem State.memWf.scrub {core thr blk b : Nat} {s : State} (w : s.memWf) : (s.scrub core thr blk b).memWf := by
  unfold State.scrub
  dsimp only
  split
  · exact w.migEnd
  · exact ((w.flushLines.foldl fun w => w.setHome.dramIn (mzeroFrom_wf _ _ _ w.setHome.dram)).same).migEnd

theorem State.memWf.migBegin {core thr : Nat} {s : State} (w : s.memWf) : (s.migBegin core thr).memWf := by
  unfold State.migBegin
  dsimp only
  split
  · split
    · exact w.ite (w.scrub.ite (w.ite w.migLock))
    · exact w
  · exact w

theorem State.memWf.seedBegin {core thr : Nat} {s : State} (w : s.memWf) : (s.seedBegin core thr).memWf := by
  unfold State.seedBegin
  dsimp only
  split
  · split
    · exact w.ite w.setCtx
    · exact w
  · exact w

theorem State.memWf.pageResume {s : State} (w : s.memWf) : (s.pageResume).memWf := w.foldl fun v => v.migBegin.seedBegin

theorem State.memWf.execSeedChangeComplete {ctx : Nat} {s : State} (w : s.memWf) : outWf (execSeedChangeComplete ctx s) := by
  unfold Sys2Proof.Machine.execSeedChangeComplete
  dsimp only
  show State.memWf _
  split
  · exact w
  · refine .pageResume ?_
    split
    · exact w.flushLines.setCtx.complete
    · exact w.flushLines.setCtx

/-! ### The checks of admission (R351) -/

theorem State.memWf.readWords {f : State → Word → EngAt} {ctx core : Nat} {p : Word} {ws : List Word} {s : State} (w : s.memWf) (hf : ∀
    {u : State} {a1 : Word}, u.memWf → (f u a1).memWf) :
    (s.readWords f ctx core p ws).memWf := by
  unfold State.readWords
  split
  next h => exact answerWf (w.rowPlaces fun v => hf v) h
  next h => exact answerWf (w.rowPlaces fun v => hf v) h
  · split
    next h1 => exact answerWf w.readPlaces h1
    next h1 => exact answerWf w.readPlaces h1
    next h1 => exact answerWf w.readPlaces h1

theorem State.memWf.checkRecord {k : Kernel} {queued : Bool} {at' : State → Word → EngAt} {core : Nat} {p : Word} {s : State}
    (w : s.memWf) (hat' : ∀ {u : State} {a1 : Word}, u.memWf → (at' u a1).memWf) :
    (s.checkRecord k queued at' core p).memWf := by
  unfold State.checkRecord
  dsimp only
  refine ifWf w ?_
  split
  next h => exact answerWf (w.readWords fun v => hat' v) h
  next h => exact answerWf (w.readWords fun v => hat' v) h
  next h =>
    refine ifWf (answerWf (w.readWords fun v => hat' v) h) ?_
    split
    next h1 => exact answerWf ((answerWf (w.readWords fun v => hat' v) h).readWords fun v => hat' v) h1
    next h1 => exact answerWf ((answerWf (w.readWords fun v => hat' v) h).readWords fun v => hat' v) h1
    next h1 => exact ifWf (answerWf ((answerWf (w.readWords fun v => hat' v) h).readWords fun v => hat' v) h1) (answerWf ((answerWf (w.readWords
        fun v => hat' v) h).readWords fun v => hat' v) h1)

/-! ### Admission (R347, R354, R359) -/

theorem State.memWf.announce {ctx team : Nat} {s : State} (w : s.memWf) : (s.announce ctx team).memWf := w.toHost

theorem State.memWf.enlist {slot : Nat} {k : Kernel} {s : State} (w : s.memWf) : (s.enlist slot k).memWf :=
  (w.setKernel.foldl fun v => v.announce).ite w.setKernel

theorem State.memWf.execLaunchAdmission {s : State} (w : s.memWf) : outWf (execLaunchAdmission s) := by
  unfold Sys2Proof.Machine.execLaunchAdmission
  dsimp only
  show State.memWf _
  split
  · exact ifWf w <| ifWf (.same w) (.enlist (.same w))
  · exact w

/-! ### Placement (R39, R163, R182, R352-R354, R408) -/

theorem State.memWf.coreReset {p : Nat} {s : State} (w : s.memWf) : (s.coreReset p).memWf := by
  have carve := (w.carveWrite (p := p) (v := 16)).getD w
  unfold State.coreReset
  dsimp only
  exact .modCoreWf (.same (ifWf (carve.vpoolWrite.getD carve) carve)) fun _ _ => rfl

/-- Writes one after another keep the form of a memory. -/
theorem Memory.wf_writes {l : List Nat} {a v : Nat → Nat} {n : Nat} {m : Memory} (w : Memory.wf m = true) :
    Memory.wf (l.foldl (fun m i => mwrite m (a i) n (v i)) m) = true :=
  foldl_keeps _ (fun m => Memory.wf m = true) (fun _ _ w => mwrite_wf _ _ _ _ w) l m w

theorem Kernel.storage_wf (k : Kernel) (image : List Nat) : Memory.wf (k.storage image) = true :=
  ifWf (P := fun m => Memory.wf m = true) (Memory.wf_writes rfl) (mwrite_wf _ _ _ _ (Memory.wf_writes rfl))

theorem State.memWf.placeGroup {k : Kernel} {slot g p : Nat} {image : List Nat} {s : State} (w : s.memWf) : (s.placeGroup k slot g p image).memWf :=
  w.coreReset.modCoreWf fun _ _ => k.storage_wf image

theorem State.memWf.writeRoutes {k : Kernel} {g l p : Nat} {s : State} (w : s.memWf) : (s.writeRoutes k g l p).memWf := w.modCore

theorem State.memWf.completeRoutes {k : Kernel} {l p : Nat} {s : State} (w : s.memWf) : (s.completeRoutes k l p).memWf :=
  w.foldl fun v => v.modCore.wake.ite v

theorem State.memWf.imageRead {k : Kernel} {slot team l : Nat} {s : State} (w : s.memWf) : (s.imageRead k slot team l).memWf := by
  unfold State.imageRead
  dsimp only
  refine ifWf w ?_
  split
  next h => exact answerWf (w.readWords fun v => v.engPlace.reached v) h
  · exact w.readWords fun v => v.engPlace.reached v

theorem State.memWf.placeTeam {k : Kernel} {slot team : Nat} {cores image : List Nat} {s : State} (w : s.memWf) :
    (s.placeTeam k slot team cores image).memWf := by
  unfold State.placeTeam
  dsimp only
  refine ((w.setKernel.foldl fun v => v.placeGroup).foldl fun v => v.writeRoutes).foldl fun v => ?_
  split
  · exact v.completeRoutes
  · exact v

theorem State.memWf.execTeamPlacement {slot team : Nat} {cores : List Nat} {s : State} (w : s.memWf) : outWf (execTeamPlacement slot team cores s) := by
  unfold Sys2Proof.Machine.execTeamPlacement
  show State.memWf _
  split
  · exact w
  · split
    · exact w
    · refine ifWf ?_ w
      split
      next h2 => exact answerWf w.imageRead h2
      next h2 => exact (answerWf w.imageRead h2).abortKernel
      next h2 => exact (answerWf w.imageRead h2).placeTeam

theorem State.memWf.execTeamForward {slot team die : Nat} {s : State} (w : s.memWf) : outWf (execTeamForward slot team die s) := by
  unfold Sys2Proof.Machine.execTeamForward
  dsimp only
  show State.memWf _
  split
  · exact w
  · split
    · exact w
    · exact w.setKernel.send.ite w

theorem State.memWf.execTeamArrival {k : Nat} {s : State} (w : s.memWf) : outWf (execTeamArrival k s) := by
  unfold Sys2Proof.Machine.execTeamArrival
  dsimp only
  show State.memWf _
  split
  · refine ifWf w ?_
    split
    · exact w.drop
    · split
      · exact w.drop.setKernel.ite w.drop
      · exact w.drop
  · exact w

theorem State.memWf.execPlacementRegisterWrite {val : Word} {s : State} (w : s.memWf) : outWf (execPlacementRegisterWrite val s) := by
  unfold Sys2Proof.Machine.execPlacementRegisterWrite
  dsimp only
  show State.memWf _
  split
  · exact w
  · split
    · exact w
    · exact ifWf w <| ifWf (.same w.setKernel) w.announce

/-! ### Sink, completion, abort (R346, R347, R354, R355, R357) -/

theorem State.memWf.execKernelSink {slot : Nat} {s : State} (w : s.memWf) : outWf (execKernelSink slot s) := by
  unfold Sys2Proof.Machine.execKernelSink
  show State.memWf _
  split
  · exact w.setKernel.ite w
  · exact w

theorem State.memWf.hostWrite {a n v : Nat} {s : State} (w : s.memWf) : (s.hostWrite a n v).memWf := .hostIn w (mwrite_wf _ _ _ _ w.host)
theorem State.memWf.msix {v : Nat} {s : State} (w : s.memWf) : (s.msix v).memWf := .same w

theorem State.memWf.completion {q n : Nat} {stat : Word} {pc : Nat} {s : State} (w : s.memWf) : (s.completion q n stat pc).memWf :=
  w.hostWrite.hostWrite.setQueue.msix

theorem State.memWf.doneOffer {k : Kernel} {stat : Word} {s : State} (w : s.memWf) : (s.doneOffer k stat).memWf := by
  unfold State.doneOffer
  split
  · split
    · exact w.send.ite w
    · exact w
  · exact w

theorem State.memWf.execKernelComplete {slot : Nat} {s : State} (w : s.memWf) : outWf (execKernelComplete slot s) := by
  unfold Sys2Proof.Machine.execKernelComplete
  show State.memWf _
  split
  · refine ifWf (.mapCores (.recordsToHost ?_) fun e => ?_) w
    · split
      · exact w.completion
      · exact w.doneOffer
    · dsimp only
      split <;> rfl
  · exact w

theorem State.memWf.execKernelAbort {slot cause : Nat} {s : State} (w : s.memWf) : outWf (execKernelAbort slot cause s) := by
  unfold Sys2Proof.Machine.execKernelAbort
  dsimp only
  show State.memWf _
  split
  · exact w.abortKernel.ite w
  · exact w

/-! ### Instructions (R356, R357) -/

theorem State.memWf.launchPlace {va : Word} {s : State} (w : s.memWf) : (s.launchPlace va).memWf := by
  unfold State.launchPlace
  split
  · split
    · split
      next pl _ => exact EngAt.memWf.reached (x := .ok pl) trivial w
      · exact w
    · exact w.threadMiss
  · exact w

theorem State.memWf.launchRecord {rec' : BitVec 2048} {s : State} (w : s.memWf) : (launchRecord rec' s).memWf := by
  unfold Sys2Proof.Machine.launchRecord
  dsimp only
  split
  · trivial
  next h => exact answerWf (w.checkRecord fun v => v.launchPlace) h
  next h =>
    refine ifWf trivial ?_
    split
    next h1 => exact answerWf (answerWf (w.checkRecord fun v => v.launchPlace) h).post h1
    · trivial

theorem State.memWf.launchBody {a : GReg} {s : State} (w : s.memWf) : (launchBody a s).memWf := by
  unfold Sys2Proof.Machine.launchBody
  dsimp only
  exact ifWf trivial (ifWf trivial w.land.launchRecord)

/-! ### Lanes (R115-R118) -/

theorem State.memWf.counted {k : Cnt} {s : State} (w : s.memWf) : (s.counted k).memWf := w.modCore fun c => c.count_direct k

theorem State.memWf.vlanes {d a b : VReg} {m : MReg} {ty : VTy} {op : Option LaneF} {s : State} (w : s.memWf) : outWf (vlanes d a b m ty op s) := by
  unfold Sys2Proof.Machine.vlanes
  dsimp only
  show State.memWf _
  refine w.issue fun v => ?_
  split
  · trivial
  · exact v.vw.counted

/-! ### Compare, select, mask logic (R123-R125) -/

theorem State.memWf.vcompare {c : VCond} {d : MReg} {a b : VReg} {m : MReg} {ty : VTy} {s : State} (w : s.memWf) : outWf (vcompare c d a b m ty s) :=
  w.issue fun v => ifWf trivial v.mw

theorem State.memWf.vsimple {f : State → State} {s : State} (w : s.memWf) (hf : ∀ {u : State}, u.memWf → (f u).memWf) : outWf (vsimple f s) :=
  w.issue fun v => hf v

/-! ### Permutes (R126) -/

theorem State.memWf.permute {d : VReg} {m : MReg} {ty : VTy} {f : Nat → Option Nat} {s : State} (w : s.memWf) : (permute d m ty f s).memWf := w.vw

/-! ### Conversions and q4 blocks (R127-R129) -/

theorem State.memWf.pack4 {d : VReg} {m : MReg} {f : Fmt} {xs : State → Nat → Nat} {s : State} (w : s.memWf) : (pack4 d m f xs s).memWf :=
  w.vw.counted

theorem State.memWf.q4simple {f : State → State} {s : State} (w : s.memWf) (hf : ∀ {u : State}, u.memWf → (f u).memWf) : outWf (q4simple f s) :=
  w.issue fun v => ifWf trivial (hf v)

/-! ### Reductions (R130) -/

theorem State.memWf.reduce {d : GReg} {a : VReg} {m : MReg} {ty : VTy} {op : Option ((Nat → Nat → Nat × Cnt) × Nat)} {extra : State → Cnt}
    {s : State} (w : s.memWf) :
    outWf (reduce d a m ty op extra s) := by
  unfold Sys2Proof.Machine.reduce
  dsimp only
  show State.memWf _
  refine w.issue fun v => ?_
  split
  · trivial
  · exact v.gw.counted

/-! ### Vector memory (R131-R135) -/

theorem State.memWf.vecLoad {d : VReg} {m : MReg} {ty : VTy} {rd : List GReg} {ea : State → Nat → Word} {s : State} (w : s.memWf) :
    outWf (vecLoad d m ty rd ea s) :=
  w.issue fun v => v.startLoad fun x => x.vw

theorem State.memWf.vecStore {d : VReg} {m : MReg} {ty : VTy} {rd : List GReg} {ea : State → Nat → Word} {s : State} (w : s.memWf) :
    outWf (vecStore d m ty rd ea s) :=
  w.issue fun v => v.startStore

/-! ### Loads -/

theorem State.memWf.landed {ext : List (Nat × Byte)} {s : State} (w : s.memWf) : (s.landed ext).memWf :=
  w.foldl fun w => (w.hostIn (mset_wf _ _ _ w.host)).ite (w.podIn (mset_wf _ _ _ w.pod))

theorem Units.memWf.read {p t : Nat} {now : Elem → Bool} {u : Elem} {x : Units} (w : x.memWf) : (Units.read p t now x u).memWf := by
  unfold Units.read
  refine ifWf w <| ifWf w.s ?_
  split
  next h => exact answerWf w.s.readUnit h
  · exact w.s
  · exact ifWf w.s w.s

theorem State.memWf.finishLoad {p t : Nat} {r : Req} {s : State} (w : s.memWf) : (s.finishLoad p t r).memWf := by
  unfold State.finishLoad
  dsimp only
  split
  · exact w.take.gw.complete
  · exact w.take.vw.complete
  · exact w.take

theorem Units.memWf.foldl {p t : Nat} {now : Elem → Bool} {l : List Elem} {x : Units} (w : x.memWf) : (l.foldl (Units.read p t now) x).memWf :=
  foldl_keeps _ Units.memWf (fun _ _ w => Units.memWf.read w) l x w

theorem State.memWf.serveLoad {p t : Nat} {r : Req} {skip : List Nat} {s : State} (w : s.memWf) : optWf (s.serveLoad p t r skip) := by
  unfold State.serveLoad
  split
  · trivial
  · dsimp only
    split
    · exact w.take.trapMe
    · split
      · trivial
      · have wx {x : Units} (k : x.memWf) := k.s
        split
        · exact (Units.memWf.foldl (x := { s := s, past := r.past }) w).s.modThread
        · split
          · exact (Units.memWf.foldl (x := { s := s, past := r.past }) w).s.modThread.finishHldr
          · exact (Units.memWf.foldl (x := { s := s, past := r.past }) w).s.modThread.finishLoad

theorem State.memWf.remoteAtomic {p t : Nat} {r : Req} {u : Elem} {s : State} (w : s.memWf) : (s.remoteAtomic p t r u).memWf := by
  unfold State.remoteAtomic
  dsimp only
  split
  · refine ifWf w ?_
    split
    · refine ifWf w.take.trapMe ?_
      refine .complete (.gw (.delay ?_))
      split
      · exact .podIn w.take.podSend (mwrite_wf _ _ _ _ w.take.podSend.pod)
      · exact w.take.podSend
    · exact w.take.trapMe
    · exact w.take.trapMe
  · exact w

/-! ### Atomics at the slice (R245) -/

theorem State.memWf.atomicStep {core thr : Nat} {s : State} (w : s.memWf) : optWf (s.atomicStep core thr) := by
  unfold State.atomicStep
  dsimp only
  split
  · split
    · split
      · refine ifWf trivial <| ifWf w.take.trapMe ?_
        split
        · trivial
        · refine ifWf trivial ?_
          split
          · trivial
          next h4 =>
            split
            · exact ((w.delayAccept (answerWf w.l1Drop.atomicAt h4)).modThread.take.rawBreak.ite (w.delayAccept (answerWf w.l1Drop.atomicAt
                  h4)).modThread.take).gw.complete
            · exact (w.delayAccept (answerWf w.l1Drop.atomicAt h4)).modThread.take.finishHlog
            · exact (w.delayAccept (answerWf w.l1Drop.atomicAt h4)).modThread.take.post.map fun v => v.complete
            · exact (w.delayAccept (answerWf w.l1Drop.atomicAt h4)).modThread.take.modThread.finishHpin
            · trivial
      · trivial
    · trivial
  · trivial

theorem State.memWf.execSliceAtomic {core thr : Nat} {s : State} (w : s.memWf) : outWf (execSliceAtomic core thr s) := by
  unfold Sys2Proof.Machine.execSliceAtomic
  dsimp only
  show State.memWf _
  split
  · exact w
  · exact w.ite (w.hold.ite (w.atomicStep.getD w))

/-! ### Translation fills (R90-R92, R310, R313) -/

theorem State.memWf.postWaiting {p t : Nat} {r : Req} {s : State} (w : s.memWf) : optWf (s.postWaiting p t r) := by
  unfold State.postWaiting
  dsimp only
  split
  · exact w.take.storeNow.map fun v => v.complete
  · split
    · exact w.take.cacheOp.map fun v => v.complete
    · trivial
  · trivial

theorem State.memWf.retryThread {p t : Nat} {s : State} (w : s.memWf) : (s.retryThread p t).memWf := by
  unfold State.retryThread
  dsimp only
  split
  · refine ifWf w ?_
    split
    · exact w.take.modThread
    · exact w.take.modThread
    · split
      · exact w.take.threadMiss
      · split
        · exact w.take.complete
        · exact w.take.trapMe
        · exact w.take.trapMe
      · exact w.take.postWaiting.getD w.take.modThread
  · exact w

/-- The entry of a fill goes into the core's own file. -/
theorem State.memWf.fillCore {p ctx hops va cl : Nat} {near : Bool} {s : State} (w : s.memWf) :
    optWf (match s.tlb23 cl ctx va with
      | none => none
      | some e =>
        let s' := if near then s else s.clusterPut cl { e with pin := false }
        let c := s'.core p
        some ((if c.ctx = ctx then
          s'.setCore p { c with ca := { c.ca with tlb := tlbPut s' 64 64 { e with pin := false } c.ca.tlb } }
        else s').delayBy p 112 hops)) := by
  split
  · trivial
  next e _ =>
    have wc : (if near then s else s.clusterPut cl { e with pin := false }).memWf := ifWf w w.clusterPut
    exact State.memWf.delayBy (ifWf (.setCoreOf wc) wc)

theorem State.memWf.execTlbFillReply {k : Nat} {s : State} (w : s.memWf) : outWf (execTlbFillReply k s) := by
  unfold Sys2Proof.Machine.execTlbFillReply
  dsimp only
  show State.memWf _
  split
  · exact w
  · refine ifWf w ?_
    split
    · split
      next h => exact .retryThread (answerWf (State.memWf.fillCore (.same w)) h)
      · exact .addMiss (.same w)
    · exact optWf.getD (State.memWf.fillCore (.same w)) (.addMiss (.same w))
    · exact ifWf (.same w) (.addMiss (.same w))

/-! ### The end of a migration (R318) -/

theorem State.memWf.retargetAll {m : Mig} {frame : Nat} {s : State} (w : s.memWf) : (s.retargetAll m frame).memWf := .mapCores w

theorem State.memWf.applyJournal {p i l : Nat} {s : State} (w : s.memWf) : (State.applyJournal p i l s).memWf := by
  unfold State.applyJournal
  dsimp only
  split
  · exact w.freeLine.journalAccept
  · exact w

theorem State.memWf.applyDrain {p ord l row : Nat} {s : State} (w : s.memWf) : (State.applyDrain p ord l row s).memWf := by
  unfold State.applyDrain
  dsimp only
  split
  · exact w
  · split
    · exact w.freeLine.drainAccept
    · exact w

theorem State.memWf.applyCopy {r id e unit l : Nat} {s : State} (w : s.memWf) : (State.applyCopy r id e unit l s).memWf := by
  unfold State.applyCopy
  split
  · exact w
  · split
    · exact w
    · exact w.copyAccept

theorem State.memWf.applyHeld {h : HeldWrite} {s : State} (w : s.memWf) : (s.applyHeld h).memWf := by
  unfold State.applyHeld
  split
  · exact w.freeLine.atomicStep.getD w
  · exact w.applyCopy.ite (w.applyJournal.ite w.applyDrain)

theorem State.memWf.execMigrationSwitch {k : Nat} {s : State} (w : s.memWf) : outWf (execMigrationSwitch k s) := by
  unfold Sys2Proof.Machine.execMigrationSwitch
  dsimp only
  show State.memWf _
  split
  · exact w
  · exact .pageResume (.migEnd (.foldl (.same ((w.foldl fun v => v.dieGives).foldl fun v => .setHome (.dramIn v (mwrite_wf _ _ _ _
        v.dram))).flushLines.dropTlb.mapTlb.retargetAll) fun v => v.applyHeld))

theorem State.memWf.execMigrationAbandon {k : Nat} {s : State} (w : s.memWf) : outWf (execMigrationAbandon k s) := by
  unfold Sys2Proof.Machine.execMigrationAbandon
  dsimp only
  show State.memWf _
  split
  · exact w
  · exact .pageResume (.migEnd (.foldl (.same w.mapTlb) fun v => v.applyHeld))

/-! ### Frames and the spill ring (R362, R364) -/

theorem Ring.memWf.bind {α β : Type} {x : Ring α} {f : State → α → Ring β} (w : x.memWf) (hf : ∀ {u : State} {a : α}, u.memWf → (f u a).memWf) :
    (x.bind f).memWf := by
  cases x with
  | ok s a => exact hf w
  | wait s => exact w
  | fault s => exact w

theorem State.memWf.ringLook {p : Nat} {n : AccNeed} {va : Word} {s : State} (w : s.memWf) : (s.ringLook p n va).memWf := by
  unfold State.ringLook
  dsimp only
  split
  · exact w
  · split
    · trivial
    · exact w
  · split
    · split
      next pl _ =>
        split
        · exact w
        · exact EngAt.memWf.reached (x := .ok pl) trivial w
      · exact w
    · split
      · exact w
      · exact w.addMiss

theorem State.memWf.ringPut {p : Nat} {e : Elem} {s : State} (w : s.memWf) : optWf (s.ringPut p e) := by
  unfold State.ringPut
  split
  · exact w.portWrite
  · split
    · exact w.portWrite
    · trivial
  · exact ifWf w.engWrite.fst trivial
  · exact ifWf trivial w.engWrite.fst
  · exact ifWf trivial w.engWrite.fst

theorem optWf.foldlBind {α : Type} {f : State → α → Option State} {l : List α} {o : Option State} (k : optWf o)
    (h : ∀ {u : State} {a : α}, u.memWf → optWf (f u a)) : optWf (l.foldl (fun o a => o.bind fun s => f s a) o) :=
  foldl_keeps _ optWf (fun _ _ k => k.bind h) l o k

theorem State.memWf.ringWrite {p : Nat} {fs : List (Nat × Nat)} {s : State} (w : s.memWf) : (s.ringWrite p fs).memWf := by
  unfold State.ringWrite
  dsimp only
  split
  next h => exact answerWf (w.rowPlaces fun w => w.ringLook) h
  next h => exact answerWf (w.rowPlaces fun w => w.ringLook) h
  · split
    next h => exact answerWf (optWf.foldlBind (o := some s) w fun w => w.ringPut) h
    · exact w

theorem State.memWf.ringRead {p : Nat} {ns : List Nat} {s : State} (w : s.memWf) : (s.ringRead p ns).memWf := by
  unfold State.ringRead
  dsimp only
  split
  next h => exact answerWf (w.rowPlaces fun v => v.ringLook) h
  next h => exact answerWf (w.rowPlaces fun v => v.ringLook) h
  · split
    next h1 => exact answerWf w.readPlaces h1
    next h1 => exact answerWf w.readPlaces h1
    next h1 => exact answerWf w.readPlaces h1

theorem State.memWf.spillOne {p : Nat} {s : State} (w : s.memWf) : (s.spillOne p).memWf := by
  unfold State.spillOne
  dsimp only
  split
  · exact w
  · exact w.ringWrite.bind fun v => v.modCore

theorem State.memWf.spillMore {p : Nat} {s : State} (w : s.memWf) : (s.spillMore p).memWf :=
  foldl_keeps _ Ring.memWf (fun _ _ k => k.bind fun w => w.spillOne) _ (.ok s ()) w

theorem State.memWf.pushNear {p : Nat} {f : Frame} {s : State} (w : s.memWf) : (s.pushNear p f).memWf := w.modCore.spillMore

theorem State.memWf.pushFar {p : Nat} {f : Frame} {s : State} (w : s.memWf) : (s.pushFar p f).memWf := by
  unfold State.pushFar
  dsimp only
  exact ifWf w.setCoreOf (w.ringWrite.bind fun v => v.modCore)

theorem State.memWf.ringTake {p i : Nat} {near : Bool} {s : State} (w : s.memWf) : (s.ringTake p i near).memWf :=
  w.ringRead.bind fun v => v.ringWrite.bind fun x => x.modCore

theorem State.memWf.takeNear {p : Nat} {s : State} (w : s.memWf) : (s.takeNear p).memWf := by
  unfold State.takeNear
  dsimp only
  split
  · exact w.setCoreOf
  · split
    · exact w.ringTake.bind fun v => v
    · exact w

theorem State.memWf.ringFind {p : Nat} {P : Frame → Bool} {l : List Nat} {s : State} (w : s.memWf) : (s.ringFind p P l).memWf := by
  induction l generalizing s with
  | nil => exact w
  | cons i l ih =>
    refine w.ringRead.bind fun w => ?_
    split
    · exact w
    · exact ih w

theorem State.memWf.takeFar {p : Nat} {P : Frame → Bool} {s : State} (w : s.memWf) : (s.takeFar p P).memWf := by
  unfold State.takeFar
  dsimp only
  refine w.ringFind.bind fun v => ?_
  split
  · exact v.ringTake.bind fun x => x
  · split
    · exact v.setCoreOf
    · exact v

theorem State.memWf.ringStep {α : Type} {p : Nat} {x : Ring α} {f : State → α → State} {s : State} (w : s.memWf) (wx : x.memWf)
    (hf : ∀ {u : State} {a : α}, u.memWf → (f u a).memWf) : (s.ringStep p x f).memWf := by
  unfold State.ringStep
  split
  · exact hf wx
  · exact wx
  next u =>
    have wu : u.memWf := wx
    split
    · exact wu.poisonFrame
    · exact wu

/-! ### spawn and exit (R356, R363, R367) -/

theorem State.memWf.spawnBody {a b : GReg} {s : State} (w : s.memWf) : (spawnBody a b s).memWf := by
  unfold Sys2Proof.Machine.spawnBody
  extract_lets blk tgt p t c me inside u c' g
  have wu : u.memWf := ifWf w.land w
  clear_value u inside c' g
  refine ifWf trivial <| ifWf trivial <| ifWf trivial <| ifWf trivial <| ifWf trivial <| ifWf trivial <| ifWf trivial <| ifWf wu ?_
  split
  next h => exact answerWf (State.memWf.pushNear (.modMe wu)) h
  next h => exact answerWf (State.memWf.pushNear (.modMe wu)) h
  next h => exact .poisonFrame (answerWf (State.memWf.pushNear (.modMe wu)) h)

theorem State.memWf.execStrictFrameAnswer {core thr : Nat} {s : State} (w : s.memWf) : outWf (execStrictFrameAnswer core thr s) := by
  unfold Sys2Proof.Machine.execStrictFrameAnswer
  dsimp only
  show State.memWf _
  split
  · split
    · split
      · exact w.trapThread.ite w
      · refine ifWf w.trapThread ?_
        split
        · exact w.trapThread
        · exact w.ite (w.trapThread.ite (w.ringStep (w.pushFar) fun v => v.complete.modThread))
    · exact w
  · exact w

theorem State.memWf.execFrameStanding {core j : Nat} {s : State} (w : s.memWf) : outWf (execFrameStanding core j s) := by
  unfold Sys2Proof.Machine.execFrameStanding
  refine w.ringStep w.spillMore fun w => ifWf ?_ ?_ <;>
  · split
    · split
      · exact w.setCoreOf
      · exact w
    · exact w

/-! ### Dispatch and steals (R365, R366) -/

theorem State.memWf.startTask {k : Kernel} {slot p t : Nat} {f : Frame} {s : State} (w : s.memWf) : (s.startTask k slot p t f).memWf :=
  w.modCore.setThread

theorem State.memWf.execFrameDispatch {core : Nat} {s : State} (w : s.memWf) : outWf (execFrameDispatch core s) := by
  unfold Sys2Proof.Machine.execFrameDispatch
  show State.memWf _
  split
  · exact w
  · refine ifWf (w.ringStep w.takeNear fun {u f} w => ?_) ?_
    · cases f with
      | none => exact w
      | some f => exact w.setThread
    · split
      · exact w
      · refine w.ringStep w.takeNear fun {u f} w => ?_
        cases f with
        | none => exact w
        | some f => exact w.startTask

theorem State.memWf.execStealRequest {core victim : Nat} {s : State} (w : s.memWf) : outWf (execStealRequest core victim s) := by
  unfold Sys2Proof.Machine.execStealRequest
  show State.memWf _
  split
  · refine ifWf (w.ringStep w.takeFar fun {u f} w => ?_) w
    cases f with
    | none => exact w
    | some f => exact w.startTask
  · exact w

/-! ### Descriptors (R323-R325) -/

theorem State.memWf.execContextClosed {ctx : Nat} {s : State} (w : s.memWf) : outWf (execContextClosed ctx s) := by
  unfold Sys2Proof.Machine.execContextClosed
  dsimp only
  show State.memWf _
  split <;> exact ifWf (.dropTlb (.same w.setCtx)) w

theorem State.memWf.execFaultRingWrite {ctx : Nat} {s : State} (w : s.memWf) : outWf (execFaultRingWrite ctx s) := by
  unfold Sys2Proof.Machine.execFaultRingWrite
  dsimp only
  show State.memWf _
  split
  · exact w
  · exact w.ite w.hostWrite.hostWrite.setCtx.msi

/-! ### Debugger commands (R32, R404) -/

theorem State.memWf.setStopcmd {op gtn : Nat} {s : State} (w : s.memWf) : (s.setStopcmd op gtn).memWf := .same w

theorem State.memWf.debugThread {op p t : Nat} {s : State} (w : s.memWf) : (s.debugThread op p t).memWf := by
  unfold State.debugThread
  dsimp only
  split
  · split
    · exact w.setThread
    · exact ifWf w.stop w.setThread
    · exact w
  · exact ifWf w.setThread w
  · exact ifWf w.leave w

theorem State.memWf.stopCommand {op gtn : Nat} {s : State} (w : s.memWf) : (s.stopCommand op gtn).memWf := by
  unfold State.stopCommand
  dsimp only
  split
  · exact w.setStopcmd
  · exact ifWf (.same w.setStopcmd) w.setStopcmd.debugThread

theorem State.memWf.releaseHeld {p : Nat} {s : State} (w : s.memWf) : (s.releaseHeld p).memWf := by
  unfold State.releaseHeld
  dsimp only
  refine .foldl (.same w) fun v => ?_
  split
  · exact v.debugThread
  · exact v

/-! ### Pre-emption (R33, R333-R336) -/

theorem State.memWf.stashEmpty {p : Nat} {s : State} (w : s.memWf) : (s.stashEmpty p).memWf := w.foldl fun v => v.stashGives
theorem State.memWf.freeze {p q : Nat} {ret cmd : Bool} {s : State} (w : s.memWf) : (s.freeze p q ret cmd).memWf := w.stashEmpty.modCore
theorem State.memWf.renumber {p q : Nat} {s : State} (w : s.memWf) : (s.renumber p q).memWf := .same w.modFrames
theorem State.memWf.reholdDrain {p : Nat} {s : State} (w : s.memWf) : (s.reholdDrain p).memWf := .same w
theorem State.memWf.cmdDone {failed : Bool} {s : State} (w : s.memWf) : (s.cmdDone failed).memWf := .msi (.same w)

theorem State.memWf.lostCore {p : Nat} {s : State} (w : s.memWf) : (s.lostCore p).memWf := by
  unfold State.lostCore
  dsimp only
  refine .releaseHeld ?_
  refine ifWf ?_ ?_
  · split
    · exact (w.modCore.foldl fun v => v.leave).abortKernel
    · exact w.modCore.foldl fun v => v.leave
  · refine .machineRecord ?_
    split
    · exact (w.modCore.foldl fun v => v.leave).abortKernel
    · exact w.modCore.foldl fun v => v.leave

theorem State.memWf.leafStands {p l : Nat} {s : State} (w : s.memWf) : (s.leafStands p l).memWf := by
  unfold State.leafStands
  split
  · exact w
  · split
    · exact w
    · exact w.setKernel

theorem State.memWf.retire {p l : Nat} {s : State} (w : s.memWf) : (s.retire p l).memWf := .same w.leafStands.modCore

theorem State.memWf.startCmd {v : Word} {s : State} (w : s.memWf) : fstWf (s.startCmd v) := by
  unfold State.startCmd
  dsimp only
  split
  · exact .cmdDone (.same w)
  · refine ifWf (.same w) ?_
    refine ifWf ?_ (ifWf (.same w) (.cmdDone (.lostCore (.same w))))
    show State.memWf _
    refine .cmdDone ?_
    exact ifWf (.retire (.same w)) (.same w)

theorem State.memWf.nextCmds {l : List Word} {s : State} (w : s.memWf) : (State.nextCmds l s).memWf := by
  induction l generalizing s with
  | nil => exact w
  | cons v l ih =>
    unfold State.nextCmds
    split
    next h => exact (answerWf w.startCmd h).same
    next h => exact ih (answerWf w.startCmd h)

theorem State.memWf.recheckCmd {s : State} (w : s.memWf) : (s.recheckCmd).memWf := w.nextCmds

theorem State.memWf.endMove {l : Nat} {cmd failed : Bool} {s : State} (w : s.memWf) : (s.endMove l cmd failed).memWf :=
  (w.cmdDone.nextCmds.ite w.recheckCmd).ite w

theorem State.memWf.execPreemptionFreeze {core dst : Nat} {s : State} (w : s.memWf) : outWf (execPreemptionFreeze core dst s) := by
  unfold Sys2Proof.Machine.execPreemptionFreeze
  dsimp only
  show State.memWf _
  split
  · exact w.recheckCmd
  · refine ifWf w <| ifWf (w.freeze.ite (w.ite w.lostCore)) ?_
    split
    · exact w
    · split
      · exact w.freeze.ite (w.ite w.recheckCmd)
      · exact w.freeze.ite (w.ite w.lostCore.retire)

theorem State.memWf.execPreemptionAck {core : Nat} {s : State} (w : s.memWf) : outWf (execPreemptionAck core s) := by
  have wu : (if (s.core core).moveTo.isSome then s.stashEmpty core else s).memWf := ifWf w.stashEmpty w
  unfold Sys2Proof.Machine.execPreemptionAck
  revert wu
  generalize (if (s.core core).moveTo.isSome then s.stashEmpty core else s) = u
  intro wu
  dsimp only
  show State.memWf _
  split
  · refine ifWf (.same (.setCore (.modCore wu.reholdDrain) ?_)) wu
    exact wu.direct
  · refine ifWf wu (.endMove (.releaseHeld (.renumber (.same (.setCore (.setCore wu.reholdDrain ?_) ?_)))))
    · exact wu.direct
    · rfl
  · exact wu

theorem State.memWf.execPreemptionStreamFailure {core : Nat} {dst : Option Nat} {s : State} (w : s.memWf) :
    outWf (execPreemptionStreamFailure core dst s) := by
  unfold Sys2Proof.Machine.execPreemptionStreamFailure
  dsimp only
  show State.memWf _
  split
  · split
    · exact w.modCore.ite w
    · exact w.ite w.lostCore
  · split
    · exact w.modCore.ite w
    · exact w.ite w.lostCore.endMove
  · exact w

theorem State.memWf.execForwardingEntryArrival {k : Nat} {s : State} (w : s.memWf) : outWf (execForwardingEntryArrival k s) := by
  unfold Sys2Proof.Machine.execForwardingEntryArrival
  show State.memWf _
  split
  · split
    · split
      · exact ifWf (.same w) w
      · exact w
    · exact w
  · exact w

theorem State.memWf.command {v : Word} {s : State} (w : s.memWf) : (s.command v).memWf := by
  unfold State.command
  dsimp only
  exact ifWf (.same w) w.nextCmds

/-! ### Machine checks (R338, R364, R368) -/

theorem State.memWf.eventLost {h idx cause : Nat} {s : State} (w : s.memWf) : (s.eventLost h idx cause).memWf := by
  unfold State.eventLost
  dsimp only
  split
  · exact w
  · exact w.ite (w.giveUp.setBugle.foldl fun v => v.abortKernel).machineRecord

theorem State.memWf.execMachineCheck {err : MachErr} {s : State} (w : s.memWf) : outWf (execMachineCheck err s) := by
  unfold Sys2Proof.Machine.execMachineCheck
  dsimp only
  show State.memWf _
  split
  · refine ifWf w ?_
    refine .machineRecord ?_
    split
    · exact (w.foldl fun v => v.leave).abortKernel
    · exact w.foldl fun v => v.leave
  · exact w.eventLost
  · refine ifWf ?_ w
    split
    · exact w.poisonFrame
    · exact w
  · split
    · exact w.eventLost.ite w
    · exact w
  · exact ifWf w (.same w)

/-! ### Drain control instructions (R208-R210) -/

theorem State.memWf.execDload {p : PSlot} {a : GReg} {s : State} (w : s.memWf) : outWf (execDload p a s) := by
  unfold Sys2Proof.Machine.execDload
  dsimp only
  show State.memWf _
  refine w.issue fun v => ?_
  refine ifWf trivial ?_
  split
  · trivial
  · trivial
  · exact ifWf v.setMx trivial

theorem State.memWf.execDbind {p : PSlot} {a : GReg} {s : State} (w : s.memWf) : outWf (execDbind p a s) := by
  unfold Sys2Proof.Machine.execDbind
  dsimp only
  show State.memWf _
  refine w.issue fun v => ?_
  split
  · trivial
  · exact ifWf trivial v.setMx

theorem State.memWf.execDloadTCopyStart {core thr : Nat} {s : State} (w : s.memWf) : outWf (execDloadTCopyStart core thr s) := by
  unfold Sys2Proof.Machine.execDloadTCopyStart
  dsimp only
  show State.memWf _
  split
  · exact w.ite w.setMx
  · exact w

theorem State.memWf.execDloadTCopyComplete {x0 : Portion} {x1 : Nat} {s : State} (w : s.memWf) : outWf (execDloadTCopyComplete x0 x1 s) := by
  unfold Sys2Proof.Machine.execDloadTCopyComplete
  dsimp only
  show State.memWf _
  split
  · exact w.land.setMx.setMx.endMatrix.ite w.land.setMx.setMx
  · exact w

/-! ### The row in the pipe (R211-R214) -/

theorem State.memWf.setRow {p : Nat} {r : DRow} {s : State} (w : s.memWf) : (s.setRow p r).memWf := w.setMx
theorem State.memWf.toBuffer {p : Nat} {r : DRow} {s : State} (w : s.memWf) : (s.toBuffer p r).memWf := w.setMx
theorem State.memWf.drainOn {p : Nat} {s : State} (w : s.memWf) : (s.drainOn p).memWf := .same w

theorem State.memWf.micro {xs : List DReg} {ks : List RsReg} {f : State → Mop → DRow → Micro} {s : State} (w : s.memWf) (hf : ∀
    {u : State} {a1 : Mop} {a2 : DRow}, u.memWf → (f u a1 a2).memWf) :
    outWf (micro xs ks f s) := by
  unfold Sys2Proof.Machine.micro
  dsimp only
  show State.memWf _
  split
  · refine ifWf w.setRow.drainOn ?_
    split
    next h2 => exact (answerWf (hf w) h2).setRow.drainOn
    next h2 => exact (answerWf (hf w) h2).setRow.drainOn
    next h2 => exact .same (answerWf (hf w) h2).setRow
    next h2 => exact (answerWf (hf w) h2).toBuffer.drainOn
  · exact .same w

theorem State.memWf.put {r : DRow} {o : Mop} {d : DReg} {f : Nat → Nat × Cnt} {s : State} (w : s.memWf) : (r.put o d f s).memWf := w.counted

/-! ### Arithmetic micro-ops (R218) -/

theorem State.memWf.dmap1 {d a : DReg} {f : Nat → Nat × Cnt} {s : State} (w : s.memWf) : outWf (dmap1 d a f s) := w.micro fun v => v.put
theorem State.memWf.dmap2 {d a b : DReg} {f : Nat → Nat → Nat × Cnt} {s : State} (w : s.memWf) : outWf (dmap2 d a b f s) := w.micro fun v => v.put

theorem State.memWf.dmap3 {d a b c : DReg} {f : Nat → Nat → Nat → Nat × Cnt} {s : State} (w : s.memWf) : outWf (dmap3 d a b c f s) :=
  w.micro fun v => v.put

theorem State.memWf.execDrainNop {s : State} (w : s.memWf) : outWf (execDrainNop s) := w.micro fun v => v
theorem State.memWf.execDrainCmp {cc : VCond} {d a b : DReg} {s : State} (w : s.memWf) : outWf (execDrainCmp cc d a b s) := w.dmap2
theorem State.memWf.execDrainSel {d a b c : DReg} {s : State} (w : s.memWf) : outWf (execDrainSel d a b c s) := w.dmap3
theorem State.memWf.execDrainLdi {d : DReg} {imm : BitVec 16} {s : State} (w : s.memWf) : outWf (execDrainLdi d imm s) := w.micro fun v => v.put
theorem State.memWf.execDrainRget {d : DReg} {k : RsReg} {s : State} (w : s.memWf) : outWf (execDrainRget d k s) := w.micro fun v => v.put

/-! ### Tables and source elements (R219) -/

theorem State.memWf.execDrainLdc {d : DReg} {off : BitVec 11} {s : State} (w : s.memWf) : outWf (execDrainLdc d off s) := w.micro fun v => v.put
theorem State.memWf.execDrainLdr {d : DReg} {off : BitVec 11} {s : State} (w : s.memWf) : outWf (execDrainLdr d off s) := w.micro fun v => v.put

theorem Piece.memWf.ldsLane {p : Nat} {o : Mop} {es : Nat} {leave : List Nat} {lane : Nat × Word} {x : Piece} (w : x.memWf) :
    (ldsLane p o es leave x lane).memWf := by
  unfold Sys2Proof.Machine.ldsLane
  refine ifWf w ?_
  split
  · exact ifWf w w.s
  · exact w.read

theorem State.memWf.execDrainLds {d : DReg} {t : DTy} {s : State} (w : s.memWf) : outWf (execDrainLds d t s) := by
  refine w.micro fun w => ?_
  dsimp only
  split
  · exact w.reads fun w => w.ldsLane
  · exact ifWf (w.reads fun w => w.ldsLane) (.put (w.reads fun w => w.ldsLane))

/-! ### Reductions (R220) -/

theorem State.memWf.rred {k : RsReg} {a : DReg} {f : Nat → Nat → Nat × Cnt} {e : Nat} {s : State} (w : s.memWf) : outWf (rred k a f e s) :=
  w.micro fun v => v.counted

/-! ### Stores (R221-R223) -/

theorem State.memWf.drainPlace {p : Nat} {o : Mop} {va : Word} {w : Nat} {s : State} (v : s.memWf) : (s.drainPlace p o va w).memWf := by
  unfold State.drainPlace
  split
  · exact v
  · split
    · trivial
    · exact v
    · split
      next h2 => exact answerWf v.engMiss h2
      next h2 => exact answerWf v.engMiss h2
      next h2 => exact answerWf v.engMiss h2

theorem Placed.memWf.store {p m : Nat} {o : Mop} {d : DStore} {x : Placed} (w : x.memWf) : (Placed.store p m o x d).memWf := by
  unfold Placed.store
  refine ifWf w ?_
  split
  · exact w.s
  next h => exact answerWf w.s.drainPlace h
  next h => exact ifWf w (answerWf w.s.drainPlace h)

theorem State.memWf.placeStores {p m : Nat} {o : Mop} {ds : List DStore} {s : State} (w : s.memWf) : (placeStores s p m o ds).memWf :=
  foldl_keeps _ Placed.memWf (fun _ _ w => Placed.memWf.store w) ds { s := s } w

theorem State.memWf.store {r : DRow} {o : Mop} {ds : List DStore} {k : Cnt} {s : State} (w : s.memWf) : (r.store o ds k s).memWf := by
  unfold DRow.store
  dsimp only
  split
  · exact w.ite w.placeStores.s
  · exact (w.ite w.placeStores.s).counted

theorem State.memWf.execDrainSt {a : DReg} {t : DTy} {s : State} (w : s.memWf) : outWf (execDrainSt a t s) := w.micro fun v => v.store
theorem State.memWf.execDrainStq {a : DReg} {kind : Fin 4} {s : State} (w : s.memWf) : outWf (execDrainStq a kind s) := w.micro fun v => v.store
theorem State.memWf.execDrainEnd {s : State} (w : s.memWf) : outWf (execDrainEnd s) := w.micro fun v => v

/-! ### Rows, commit and faults (R185, R212, R224-R229) -/

theorem State.memWf.execDrainGrant {core : Nat} {s : State} (w : s.memWf) : outWf (execDrainGrant core s) := by
  unfold Sys2Proof.Machine.execDrainGrant
  dsimp only
  show State.memWf _
  split
  · exact w.ite w.setMx.putMprog.putDprog
  · exact w

theorem State.memWf.execDrainRowAdmit {x0 : Admission} {s : State} (w : s.memWf) : outWf (execDrainRowAdmit x0 s) := by
  unfold Sys2Proof.Machine.execDrainRowAdmit
  dsimp only
  show State.memWf _
  split
  · exact w
  · exact ifWf w <| ifWf (.same w.setMx) w.setMx.drainOn

theorem State.memWf.execDrainRowCommit {core : Nat} {s : State} (w : s.memWf) : outWf (execDrainRowCommit core s) := by
  unfold Sys2Proof.Machine.execDrainRowCommit
  dsimp only
  show State.memWf _
  split
  · refine ifWf w ?_
    split
    · exact w.placeStores.s.setMx
    · refine ifWf w.placeStores.s ?_
      refine (w.placeStores.s.storeDirect.foldl fun v => ?_).setMx.putDprog
      split
      · exact v.l1Drop
      · exact v
  · exact w

theorem State.memWf.execDrainFaultReport {core : Nat} {s : State} (w : s.memWf) : outWf (execDrainFaultReport core s) := by
  unfold Sys2Proof.Machine.execDrainFaultReport
  dsimp only
  show State.memWf _
  split
  · exact w
  · split
    · exact w
    · refine ifWf w <| ifWf w.placeStores.s ?_
      split
      · exact w
      · exact w.placeStores.s.setMx.park

theorem State.memWf.execDrainStorePoison {core k : Nat} {s : State} (w : s.memWf) : outWf (execDrainStorePoison core k s) := by
  unfold Sys2Proof.Machine.execDrainStorePoison
  dsimp only
  show State.memWf _
  split
  · split
    · exact w.setMx.ite w.setMx.modThread
    · exact w
  · exact w

/-! ### Reading the tail and the next record (R341, R343, R344) -/

theorem State.memWf.queueError {n err : Nat} {s : State} (w : s.memWf) : (s.queueError n err).memWf := w.setQueue.msix
theorem State.memWf.readRecord {n : Nat} {s : State} (w : s.memWf) : (s.readRecord n).memWf := w.ite (w.queueError.ite w.setQueue)

theorem State.memWf.readTail {n : Nat} {s : State} (w : s.memWf) : (s.readTail n).memWf :=
  w.ite (w.queueError.ite (w.queueError.ite (w.queueError.ite w.setQueue.readRecord)))

/-! ### Host writes (R339, R341, R343, R345) -/

theorem State.memWf.queueOff {q : Nat} {s : State} (w : s.memWf) : (s.queueOff q).memWf := w.setQueue.ite w

theorem State.memWf.queueWrite {q : Nat} {ws : List (Nat × Word)} {s : State} (w : s.memWf) : (s.queueWrite q ws).memWf :=
  w.ite ((w.queueOff.ite w.setQueue).ite (w.ite (w.setQueue.ite w.setQueue.readTail)))

theorem Memory.wf.putBytes {m : Memory} {l : List Nat} {a : Nat} {b : Nat → Byte} (w : Memory.wf m = true) :
    Memory.wf (l.foldl (fun m i => mset m (a + i) (b i)) m) = true :=
  foldl_keeps _ (fun m => Memory.wf m = true) (fun _ _ w => mset_wf _ _ _ w) l m w

theorem State.memWf.execTailLineInvalidation {addr : Nat} {bytes : List Byte} {s : State} (w : s.memWf) :
    outWf (execTailLineInvalidation addr bytes s) :=
  (w.hostIn (Memory.wf.putBytes w.host)).foldl fun w => w.readTail

/-! ### The draw (R345) -/

theorem State.memWf.draw {s : State} (w : s.memWf) : (s.draw).memWf := by
  unfold State.draw
  dsimp only
  split
  · exact w
  · split
    · exact w
    · exact .readRecord (.hostWrite (.setQueue (.same w)))

theorem State.memWf.tryAdmit {s : State} (w : s.memWf) : (s.tryAdmit).memWf := by
  unfold State.tryAdmit
  dsimp only
  split
  · exact w
  · exact w
  · split
    next h2 => exact answerWf (w.checkRecord fun v => v.engPlace.reached v) h2
    next h2 => exact ifWf (.completion (.same (answerWf (w.checkRecord fun v => v.engPlace.reached v) h2))) (answerWf (w.checkRecord fun v =>
        v.engPlace.reached v) h2)
    next h2 =>
      split
      · exact answerWf (w.checkRecord fun v => v.engPlace.reached v) h2
      · exact .enlist (.same (answerWf (w.checkRecord fun v => v.engPlace.reached v) h2))

/-! ### Links (R372-R375) -/

theorem State.memWf.setLinkSt {n lanes : Nat} {st : LinkSt} {s : State} (w : s.memWf) : (s.setLinkSt n lanes st).memWf := w.setLink.ite w.setLink.msi

theorem State.memWf.linkTo {n lanes : Nat} {st : LinkSt} {s : State} (w : s.memWf) : (s.linkTo n lanes st).memWf := by
  unfold State.linkTo
  dsimp only
  split
  · exact w.setLinkSt.setLinkSt
  · exact w.setLinkSt

/-! ### Routing (R376-R379) -/

theorem State.memWf.execTableSetInstall {set : List (Nat × Nat)} {s : State} (w : s.memWf) : outWf (execTableSetInstall set s) := by
  unfold Sys2Proof.Machine.execTableSetInstall
  dsimp only
  show State.memWf _
  split
  · exact w
  · exact ifWf (.same w) (.same w)

/-! ### Sharing an output port (R382) -/

theorem State.memWf.share {m : Msg} {site port : Nat} {s : State} (w : s.memWf) : fstWf (s.share m site port) := by
  unfold State.share
  dsimp only
  exact ifWf w (ifWf (.same w) (ifWf w (.same w)))

/-! ### Turns of the classes at an output port (R381) -/

theorem State.memWf.slotsUsed {m : Msg} {site port : Nat} {s : State} (w : s.memWf) : (s.slotsUsed m site port).memWf := .same w

/-! ### Forwarding (R376, R377, R380, R383) -/

theorem State.memWf.portTurn {m : Msg} {site port : Nat} {f : State → State} {s : State} (w : s.memWf) (hf : ∀ {u : State}, u.memWf → (f u).memWf) :
    (s.portTurn m site port f).memWf :=
  w.ite ((hf w.share.fst.slotsUsed).ite w.share.fst)

theorem State.memWf.leavePanel {k : Nat} {m : Msg} {s : State} (w : s.memWf) : (s.leavePanel k m).memWf := by
  unfold State.leavePanel
  dsimp only
  split
  · exact w
  · refine ifWf w ?_
    refine w.portTurn fun v => ?_
    split
    · exact .same v.podSend
    · refine ifWf v.podSend.drop ?_
      split
      · split
        · split
          · exact v.podSend.ite v.podSend.drop.syncTrap
          · exact v.podSend.drop
        · exact v.podSend.drop
      · exact v.podSend.drop

theorem State.memWf.execMessageForward {k : Nat} {s : State} (w : s.memWf) : outWf (execMessageForward k s) := by
  unfold Sys2Proof.Machine.execMessageForward
  dsimp only
  show State.memWf _
  split
  · exact w
  · refine ifWf w.leavePanel ?_
    split
    · exact w
    · exact w.ite (w.portTurn fun v => .setLink (.same v))

/-! ### What is lost (R375, R400) -/

theorem State.memWf.wreckEvent {h : Nat} {key : EvKey} {s : State} (w : s.memWf) : (s.wreckEvent h key).memWf :=
  (w.setBugle.putSlots.getD w.setBugle).foldl fun v => v.releaseCell

theorem State.memWf.settleLost {m : Msg} {s : State} (w : s.memWf) : (s.settleLost m).memWf := by
  unfold State.settleLost
  dsimp only
  split
  · exact w.portSettled
  · exact w.release
  · exact w.release
  · split
    · exact w.setCollie
    · exact w
  · split
    · exact w
    · split
      · exact w.wreckEvent
      · exact w.wreckEvent
      · exact w

theorem State.memWf.contextLost {ctx count die : Nat} {addr : Word} {s : State} (w : s.memWf) : (s.contextLost ctx count die addr).memWf :=
  (w.foldl fun v => v.abortKernel).toUmator.ite (w.foldl fun v => v.abortKernel).toHost

theorem State.memWf.loseCore {s₀ : State} {link p : Nat} {s : State} (w : s.memWf) (ws₀ : s₀.memWf) : (s.loseCore s₀ link p).memWf := by
  unfold State.loseCore
  dsimp only
  refine ifWf ((w.foldl fun v => v.ite v.modCore.settleEntry).modCore) ?_
  refine (w.foldl fun v => v.ite v.modCore.settleEntry).modCore.foldl fun v => ?_
  split
  · split
    · exact v.ite v.take.trapMe
    · exact v
  · exact v

theorem State.memWf.loseCopies {s₀ : State} {link : Nat} {s : State} (w : s.memWf) (ws₀ : s₀.memWf) : (s.loseCopies s₀ link).memWf := by
  unfold State.loseCopies
  dsimp only
  refine w.foldl fun v => ?_
  refine v.foldl fun x => ?_
  refine ifWf x <| ifWf x.setRun ?_
  refine x.foldl fun y => ?_
  split
  · exact y.copyStop
  · exact y

theorem State.memWf.execLinkDown {link : Nat} {s : State} (w : s.memWf) : outWf (execLinkDown link s) := by
  unfold Sys2Proof.Machine.execLinkDown
  dsimp only
  show State.memWf _
  split
  · exact w
  · exact .foldl (.foldl (.loseCopies (.foldl (.same w.linkTo) fun v => v.loseCore w) w) fun v => v.contextLost) fun v => v.settleLost

/-! ### Pod requests (R140, R386-R388) -/

theorem State.memWf.answered {cause data : Nat} {s : State} (w : s.memWf) : (s.answered cause data).memWf := .same w

/-- What a read of the pod's request answers. -/
theorem State.memWf.readAnswered {x : State × (Nat ⊕ Nat)} (w : fstWf x) : (match x with
    | (s', .inl v) => s'.answered 0 v
    | (s', .inr 4) => s'.answered 4 0
    | (s', .inr _) => s'.answered 5 0).memWf := by
  split <;> exact State.memWf.answered w

theorem State.memWf.podServe {ctx : Nat} {va : Word} {src : BitVec 32} {pl : Place} {op : PodOp} {s : State} (w : s.memWf) :
    optWf (s.podServe ctx va src pl op) := by
  unfold State.podServe
  refine ifWf trivial ?_
  split
  · exact State.memWf.readAnswered w.engLoad
  · dsimp only
    split
    · exact ifWf w.answered (.answered w.homeWrite.fst)
    · split
      · exact w.answered
      · exact ifWf (.answered (.modCore w.dwrite)) w.answered
    · exact w.answered
    · exact State.memWf.answered w.engWrite.fst
  · split
    next h => exact State.memWf.answered (answerWf w.engLoad h)
    next h => exact State.memWf.answered (answerWf w.engLoad h)
    next u _ h =>
      have wu : u.memWf := answerWf w.engLoad h
      refine State.memWf.answered ?_
      split
      · exact wu.engWrite.fst
      · exact wu
  · exact w

theorem State.memWf.podEvent {ctx memb src : Nat} {e : PodEv} {s : State} (w : s.memWf) : (s.podEvent ctx memb src e).memWf := by
  unfold State.podEvent
  dsimp only
  split
  · exact w.send
  · exact w.send
  · exact w.send
  · exact w.send
  · exact w.send
  · exact w.homeData
  · exact w.send
  · exact w.send
  · exact w.send
  · exact w.send
  · split
    · exact w.syncTrap.ite w
    · exact w

theorem State.memWf.execPodRequestReceive {req : PodReq} {s : State} (w : s.memWf) : outWf (execPodRequestReceive req s) := by
  unfold Sys2Proof.Machine.execPodRequestReceive
  dsimp only
  show State.memWf _
  split
  · exact w
  · split
    · exact w.answered
    · refine ifWf w.answered <| ifWf w.answered ?_
      split
      · exact w.answered.podEvent
      · split
        next h1 => exact answerWf w.engPlace h1
        next h1 => exact (answerWf w.engPlace h1).answered
        · exact w.podServe.getD w

/-! ### The host's window (R390) -/

theorem State.memWf.execCxlMemWindowWrite {val : Word} {s : State} (w : s.memWf) : outWf (execCxlMemWindowWrite val s) := by
  unfold Sys2Proof.Machine.execCxlMemWindowWrite
  dsimp only
  show State.memWf _
  split
  · exact w
  · exact .same w

theorem State.memWf.execHostWindowWrite {off : Nat} {bytes : List Byte} {s : State} (w : s.memWf) : outWf (execHostWindowWrite off bytes s) := by
  unfold Sys2Proof.Machine.execHostWindowWrite
  dsimp only
  show State.memWf _
  split
  · exact w
  · exact ifWf w <| ifWf w.answered (.same w.homeWrite.fst)

theorem State.memWf.execHostWindowRead {off n : Nat} {s : State} (w : s.memWf) : outWf (execHostWindowRead off n s) := by
  unfold Sys2Proof.Machine.execHostWindowRead
  dsimp only
  show State.memWf _
  split
  · exact w
  · exact w.ite (w.answered.ite w.dieGives.answered)

/-! ### DEFINITION. LOAD_REPLY: what a reply does for each request in the load wait (R26, R27, R90-R93, R243) -/

theorem State.memWf.goesOn {p t : Nat} {stage : Stage} {s : State} (w : s.memWf) : optWf (s.goesOn p t stage) := by
  unfold State.goesOn
  dsimp only
  split
  · exact w.take.resume (w.take.launchRecord)
  · exact w.heapGoesOn

theorem State.memWf.farAtomic {p t : Nat} {r : Req} {u : Elem} {s : State} (w : s.memWf) : optWf (s.farAtomic p t r u) := by
  unfold State.farAtomic
  split
  · trivial
  · trivial
  · exact ifWf trivial w.remoteAtomic

theorem State.memWf.reply {p t : Nat} {r : Req} {skip : List Nat} {s : State} (w : s.memWf) : optWf (s.reply p t r skip) := by
  have serve {c : Prop} [Decidable c] : optWf (if c then none else s.serveLoad p t r skip) := by
    split
    · trivial
    · exact w.serveLoad
  unfold State.reply
  dsimp only
  split
  · exact w.take.gw.complete
  iterate 7 trivial
  · exact w.migBegin
  · exact w.goesOn
  · exact w.postWaiting
  · exact w.postWaiting
  · cases r.todo.head? with
    | none => trivial
    | some u => exact w.farAtomic
  iterate 3 exact serve

theorem State.memWf.execLoadReply {x0 : Nat} {x1 : Portion} {x2 : List (Nat × Byte)} {s : State} (w : s.memWf) : outWf (execLoadReply x0 x1 x2 s) := by
  unfold Sys2Proof.Machine.execLoadReply
  split
  · show State.memWf _
    split
    · exact w.ite (w.landed.reply.getD w)
    · exact w

/-! ### Power and die states (R384, R385, R395-R397, R401) -/

theorem State.memWf.trainEdges {d : Nat} {s : State} (w : s.memWf) : (s.trainEdges d).memWf := w.foldl fun v => v.ite v.linkTo

theorem State.memWf.execPowerOn {s : State} (w : s.memWf) : outWf (execPowerOn s) :=
  State.memWf.foldl (s := { State.reset with tick := s.tick, agenda := s.agenda, host := s.host, pod := s.pod })
    ⟨State.reset_memWf.dram, w.host, w.pod, State.reset_memWf.cores⟩ fun w => w.ite w.linkTo

/-- The threads of a core change, its direct storage does not. -/
theorem Core.foldl_setThread_direct {f : Nat → Thread → Thread} {l : List Nat} {c : Core} :
    (l.foldl (fun c t => c.setThread t (f t (c.thread t))) c).direct = c.direct := by
  induction l generalizing c with
  | nil => rfl
  | cons t l ih => exact ih

theorem State.memWf.startUmator {d a : Nat} {s : State} (w : s.memWf) : (s.startUmator d a).memWf :=
  w.foldl fun w => (w.foldl fun w => w.leave).modCore fun _ => Core.foldl_setThread_direct (f := firmwareThread a)

theorem State.memWf.execDieTrainingDone {die : Nat} {s : State} (w : s.memWf) : outWf (execDieTrainingDone die s) := by
  unfold Sys2Proof.Machine.execDieTrainingDone
  dsimp only
  show State.memWf _
  split
  · exact w
  · exact ifWf (w.setDie.startUmator.ite w.setDie) <| ifWf w (.same w.setDie)

/-! ### A die reset (R252, R320, R384, R400) -/

theorem State.memWf.poisonDie {d : Nat} {s : State} (w : s.memWf) : (s.poisonDie d).memWf := w.foldl fun v => .same v.setHome

theorem State.memWf.revive {l : Nat} {s : State} (w : s.memWf) : (s.revive l).memWf := by
  unfold State.revive
  dsimp only
  exact ifWf w (.same w)

theorem State.memWf.wipeDie {d : Nat} {s : State} (w : s.memWf) : (s.wipeDie d).memWf := by
  refine ⟨w.dram, w.host, w.pod, fun e he => ?_⟩
  obtain ⟨x, hx, rfl⟩ := List.mem_map.mp he
  split
  · rfl
  · exact w.cores x hx

theorem State.memWf.execDieReset {die : Nat} {s : State} (w : s.memWf) : outWf (execDieReset die s) := by
  unfold Sys2Proof.Machine.execDieReset
  dsimp only
  show State.memWf _
  split
  · exact w
  · refine .msi ?_
    split
    · refine (((((w.poisonDie.foldl fun v => ?_).foldl fun v => ?_).foldl fun v => v.wreckEvent).wipeDie.foldl fun v => v.revive).foldl fun v =>
          v.linkTo).endMove
      · split <;> exact v.contextLost
      · split
        · exact v
        · exact v.toUmator.ite v.toHost
    · refine ((((w.poisonDie.foldl fun v => ?_).foldl fun v => ?_).foldl fun v => v.wreckEvent).wipeDie.foldl fun v => v.revive).foldl fun v =>
          v.linkTo
      · split <;> exact v.contextLost
      · split
        · exact v
        · exact v.toUmator.ite v.toHost

/-! ### Firmware (R398) -/

theorem State.memWf.execFirmwareLoad {val : Word} {s : State} (w : s.memWf) : outWf (execFirmwareLoad val s) := by
  unfold Sys2Proof.Machine.execFirmwareLoad
  dsimp only
  show State.memWf _
  split
  · exact w
  · exact .same w

theorem State.memWf.execFirmwareReloadDone {s : State} (w : s.memWf) : outWf (execFirmwareReloadDone s) := by
  unfold Sys2Proof.Machine.execFirmwareReloadDone
  dsimp only
  show State.memWf _
  split
  · exact w
  · refine ifWf ?_ (.same w)
    exact ifWf w (.foldl (.same w) fun v => v.startUmator)

/-! ### Attestation (R399) -/

theorem State.memWf.execAttestationReportDone {s : State} (w : s.memWf) : outWf (execAttestationReportDone s) := by
  unfold Sys2Proof.Machine.execAttestationReportDone
  dsimp only
  show State.memWf _
  split
  · exact w
  · exact .same w

/-! ### Debug registers and the rest (R7, R15, R387, R403-R405) -/

theorem State.memWf.execTrcctlWrite {val : Word} {s : State} (w : s.memWf) : outWf (execTrcctlWrite val s) := by
  unfold Sys2Proof.Machine.execTrcctlWrite
  dsimp only
  show State.memWf _
  split
  · exact w
  · exact .same w

theorem State.memWf.execRingselWrite {val : Word} {s : State} (w : s.memWf) : outWf (execRingselWrite val s) := by
  unfold Sys2Proof.Machine.execRingselWrite
  dsimp only
  show State.memWf _
  split
  · exact w
  · exact .same w

theorem State.memWf.execConfigRegisterWrite {off : Nat} {val : Word} {s : State} (w : s.memWf) : outWf (execConfigRegisterWrite off val s) := by
  unfold Sys2Proof.Machine.execConfigRegisterWrite
  dsimp only
  show State.memWf _
  split
  · exact w
  · exact ifWf (.same w) <| ifWf (.same w) <| ifWf (.same w) <| ifWf (.same w) <| ifWf (.same w) (w.queueWrite.ite w)

theorem State.memWf.execSpareRemap {lcore : Nat} {s : State} (w : s.memWf) : outWf (execSpareRemap lcore s) := by
  unfold Sys2Proof.Machine.execSpareRemap
  dsimp only
  show State.memWf _
  split <;> exact ifWf (.same w) w

/-! ### Every instruction -/

theorem exec_memWf {i : Instr} {s : State} (w : s.memWf) : outWf (exec i s) := by
  cases i with
  | add | sub | and | or | xor | mul => exact w.alu2
  | andn => exact w.execAndn
  | sll => exact w.execSll
  | srl => exact w.execSrl
  | sra => exact w.execSra
  | mulh => exact w.execMulh
  | mulhn => exact w.execMulhn
  | div => exact w.execDiv
  | divn => exact w.execDivn
  | rem => exact w.execRem
  | remn => exact w.execRemn
  | slt => exact w.execSlt
  | sltn => exact w.execSltn
  | min => exact w.execMin
  | max => exact w.execMax
  | minn => exact w.execMinn
  | maxn => exact w.execMaxn
  | clz => exact w.execClz
  | ctz => exact w.execCtz
  | popc => exact w.execPopc
  | extI8 => exact w.execExtI8
  | extN8 => exact w.execExtN8
  | extI16 => exact w.execExtI16
  | extN16 => exact w.execExtN16
  | extI32 => exact w.execExtI32
  | extN32 => exact w.execExtN32
  | addi => exact w.execAddi
  | andi => exact w.execAndi
  | ori => exact w.execOri
  | xori => exact w.execXori
  | slli => exact w.execSlli
  | srli => exact w.execSrli
  | srai => exact w.execSrai
  | slti => exact w.execSlti
  | sltni => exact w.execSltni
  | lui | addpc | call | crr | vext | mgetg | evname | evinfo | hget | rank | size => exact w.issue fun v => v.gw
  | skipReg | skipImm => exact w.issue fun v => v.skipOn
  | br => exact w.issue fun v => ifWf v v
  | j | nop => exact w.issue fun v => v
  | jr => exact w.issue fun v => ifWf trivial v.jumpTo
  | callr => exact w.issue fun v => ifWf trivial v.gw.jumpTo
  | ld => exact w.issue fun v => ifWf trivial (v.startLoad fun x => x.gw)
  | st => exact w.issue fun v => ifWf trivial v.startStore
  | atomSwap | atomAdd | atomAnd | atomOr | atomXor | atomMax | atomMin | atomCas => exact w.atomic
  | pinL | unpinL | flush | inval | pref => exact w.issue fun v => v.startCache
  | crw => exact w.issue fun v => v.crWrite
  | crs | crc => exact w.issue fun v => v.gw.crWrite
  | trap => exact w.issue fun v => trivial
  | eret => exact w.issue fun v => ifWf v.returnTrap.modMe trivial
  | halt => exact w.issue fun v => v.leave.ite v.leave.abortKernel
  | yield => exact w.issue fun v => v.modMe
  | brk => exact w.issue fun v => ifWf v.stop trivial
  | fackResume | fackSkip | fackKill => exact w.fack
  | vadd | vsub | vmul | vmin | vmax | vclamp | vabs | vneg | vand | vor | vxor | vsll | vsrl | vsra | vrcp | vrsq | vsqrt | vexp2 | vlog2
    | vdiv | vadds | vsubs | vfma | vfms | vnfma => exact w.vlanes
  | vcmpEq | vcmpNe | vcmpLt | vcmpGe | vcmpLe | vcmpGt => exact w.vcompare
  | vsel => exact w.vsimple fun v => v.vw
  | mand | mor | mxor | mnot => exact w.vsimple fun v => v.mw
  | vperm | vzip | vunzip | vrev => exact w.vsimple fun v => v.permute
  | vslup | vsldn => exact w.issue fun v => v.permute
  | vcvt | vunpack4Half | vunpack4F32 => exact w.issue fun v => ifWf trivial v.vw.counted
  | vpack4F32 | vpack4Half => exact w.q4simple fun v => v.pack4
  | vrsum | vrmax | vrmin | vrand | vror | vrxor => exact w.reduce
  | vld | vlds | vldx => exact w.vecLoad
  | vst | vsts | vstx => exact w.vecStore
  | vsplat => exact w.issue fun v => v.vw
  | vins => exact w.issue fun v => v.vw.ite v
  | msetg => exact w.issue fun v => v.mw
  | sync => exact w.execSync
  | barw => exact w.execBarw
  | barq => exact w.execBarq
  | barset => exact w.issue fun v => ifWf trivial v.modCore
  | mma => exact w.execMma
  | mgeo => exact w.issue fun v => ifWf trivial (ifWf trivial (ifWf trivial v.modMe))
  | mzero => exact w.issue fun v => ifWf v.setMx v.bankOp
  | msave | mrest => exact w.bankMove
  | dload => exact w.execDload
  | dloadT => exact w.issue fun v => ifWf trivial (ifWf trivial (ifWf trivial v.setMx))
  | dbind => exact w.execDbind
  | cpy | gath | scat | fill | cpyEv | gathEv | scatEv | fillEv => exact w.copyIssue
  | hld => exact w.issue fun v => v.hldBody
  | hst => exact w.issue fun v => v.hstBody
  | hldr => exact w.issue fun v => v.hldrBody
  | hstr => exact w.issue fun v => v.hstrBody
  | hnew => exact w.issue fun v => v.hnewBody
  | hpin => exact w.issue fun v => v.hpinBody
  | hunpin => exact w.issue fun v => v.hunpinBody
  | hcmp => exact w.issue fun v => v.hcmpBody
  | hmov => exact w.issue fun v => v.hw
  | htag => exact w.execHtag
  | spawn => exact w.issue fun v => v.spawnBody
  | launch => exact w.issue fun v => v.launchBody
  | exit => exact w.issue fun v => (v.ite v.modCore).leave.flushJoins
  | tlbw => exact w.privileged fun v => ifWf trivial (ifWf trivial (ifWf trivial (ifWf trivial (ifWf trivial v.answerMiss))))
  | tlbi | tlbr => exact w.privileged fun v => ifWf trivial v
  | seed => exact w.privileged fun v => ifWf trivial v.postIssue.seedBegin
  | migr => exact w.privileged fun v => ifWf trivial (ifWf trivial (ifWf trivial v.postIssue.migBegin))
  | drainNop => exact w.execDrainNop
  | drainAdd | drainSub | drainMul | drainMax | drainMin => exact w.dmap2
  | drainFma | drainClamp => exact w.dmap3
  | drainAbs | drainNeg | drainRcp | drainRsq | drainExp2 | drainLog2 | drainMov => exact w.dmap1
  | drainCmp => exact w.execDrainCmp
  | drainSel => exact w.execDrainSel
  | drainLdi => exact w.execDrainLdi
  | drainLdc => exact w.execDrainLdc
  | drainLdr => exact w.execDrainLdr
  | drainLds => exact w.execDrainLds
  | drainRredSum | drainRredMax => exact w.rred
  | drainRget => exact w.execDrainRget
  | drainSt => exact w.execDrainSt
  | drainStq => exact w.execDrainStq
  | drainEnd => exact w.execDrainEnd
  | carveWrite => exact w.carveWrite.getD w
  | vpoolWrite => exact w.vpoolWrite.getD w
  | jrnlWrite => exact w.modCore
  | fackSent => exact w.execFackSent
  | fackArrival => exact w.execFackArrival
  | syncOffersSent => exact w.execSyncOffersSent
  | barrierArrivalLatched => exact w.execBarrierArrivalLatched
  | barrierRelease => exact w.execBarrierRelease
  | offerArrival => exact w.execOfferArrival
  | overflowSlotReturn => exact w.execOverflowSlotReturn
  | claimArrival => exact w.execClaimArrival
  | claimGrant => exact w.execClaimGrant
  | claimDenial => exact w.execClaimDenial
  | commitArrival => exact w.execCommitArrival
  | grantReleaseArrival => exact w.execGrantReleaseArrival
  | withdrawalArrival => exact w.execWithdrawalArrival
  | deliveryArrival => exact w.execDeliveryArrival
  | deliveryAck => exact w.execDeliveryAck
  | timerAlternativeDue => exact w.execTimerAlternativeDue
  | quiescenceDetected => exact (w.foldl fun v => v.quiesceThread).ite w
  | chainEntryArrival => exact w.execChainEntryArrival
  | bankOpTake => exact w.execBankOpTake
  | bankTransferComplete => exact w.execBankTransferComplete
  | mmaAdmission => exact w.execMmaAdmission
  | chunkAccumulate => exact w.execChunkAccumulate
  | drainGrant => exact w.execDrainGrant
  | drainRowAdmit => exact w.execDrainRowAdmit
  | drainRowCommit => exact w.execDrainRowCommit
  | drainFaultReport => exact w.execDrainFaultReport
  | drainStorePoison => exact w.execDrainStorePoison
  | matrixOperationComplete => exact w.execMatrixOperationComplete
  | dloadTCopyStart => exact w.execDloadTCopyStart
  | dloadTCopyComplete => exact w.execDloadTCopyComplete
  | copyRequestLeaves => exact w.execCopyRequestLeaves
  | copyRequestAccept => exact w.execCopyRequestAccept
  | copyStart => exact w.execCopyStart
  | copyElement => exact w.execCopyElement
  | copySettled => exact w.execCopySettled
  | zeroExtentCompletion => exact w.execZeroExtentCompletion
  | tokenWrite => exact w.execTokenWrite
  | relocationRequestAccept => exact w.execRelocationRequestAccept
  | epochBroadcastArrival => exact w.execEpochBroadcastArrival
  | collieEpochAcksDone => exact w.execCollieEpochAcksDone
  | collieCopyDone => exact w.execCollieCopyDone
  | collieFault => exact w.execCollieFault
  | heldStoreRetry => exact w.execHeldStoreRetry
  | strictFrameAnswer => exact w.execStrictFrameAnswer
  | frameStanding => exact w.execFrameStanding
  | frameDispatch => exact w.execFrameDispatch
  | stealRequest => exact w.execStealRequest
  | migrationSwitch => exact w.execMigrationSwitch
  | migrationAbandon => exact w.execMigrationAbandon
  | tlbiComplete => exact w.execTlbiComplete
  | seedChangeComplete => exact w.execSeedChangeComplete
  | tlbFillReply => exact w.execTlbFillReply
  | hostWalkAnswer => exact w.ite w.answerMiss
  | slotTurn => exact w.ite w.turn
  | ptimeSelfAdvance => exact w.setThread.ite w
  | loadReply => exact w.execLoadReply
  | leaseRenewal => exact w.execLeaseRenewal
  | storeAcceptance => exact w.execStoreAcceptance
  | storeRefusal => exact w.execStoreRefusal
  | exclusivityRecall => exact w.execExclusivityRecall
  | stashRecall => exact (w.stashGives.noteRecall.ite w).ite w
  | sliceAtomic => exact w.execSliceAtomic
  | homeEviction => exact w.homeEvict
  | prefetchFillReturn => exact w.execPrefetchFillReturn
  | inboundPortWrite => exact w.portArrives.ite w
  | preemptionFreeze => exact w.execPreemptionFreeze
  | preemptionAck => exact w.execPreemptionAck
  | forwardingEntryArrival => exact w.execForwardingEntryArrival
  | stopcmdStop | stopcmdResume | stopcmdKill => exact w.stopCommand
  | contextEnable | contextDisable => exact w.setCtx.ite w
  | contextClosed => exact w.execContextClosed
  | contextDescriptorWrite => exact w.ite (w.ite w.setCtx)
  | faultRingWrite => exact w.execFaultRingWrite
  | hostFackResume | hostFackSkip | hostFackKill => exact w.hostFack
  | precmdPreempt | precmdRetire => exact w.ite w.command
  | machineCheck => exact w.execMachineCheck
  | queueEnable => exact w.queueWrite
  | queueDisable => exact w.queueOff
  | queueTickWrite => exact w.ite w.setQueue
  | tailLineInvalidation => exact w.execTailLineInvalidation
  | generatorSeedWrite | attestationReport => exact .same w
  | lotteryDraw => exact w.tryAdmit.ite (w.ite w.draw.tryAdmit)
  | launchAdmission => exact w.execLaunchAdmission
  | teamPlacement => exact w.execTeamPlacement
  | teamForward => exact w.execTeamForward
  | teamArrival => exact w.execTeamArrival
  | placementRegisterWrite => exact w.execPlacementRegisterWrite
  | kernelSink => exact w.execKernelSink
  | kernelComplete => exact w.execKernelComplete
  | kernelAbort => exact w.execKernelAbort
  | linkTrainingSuccess => exact ((w.linkTo.foldl fun v => v.readTail).ite w.linkTo).ite w
  | linkTrainingFailure => exact w.linkTo.ite w
  | flitCrcReplay => exact w.setLink.ite w
  | linkDown => exact w.execLinkDown
  | linkRetrainCmd => exact w.ite (w.setLink.linkTo.ite w.setLink)
  | tableSetInstall => exact w.execTableSetInstall
  | messageForward => exact w.execMessageForward
  | podRequestReceive => exact w.execPodRequestReceive
  | cxlMemWindowWrite => exact w.execCxlMemWindowWrite
  | hostWindowWrite => exact w.execHostWindowWrite
  | hostWindowRead => exact w.execHostWindowRead
  | clockMeasurement | correctedError => exact w.ite w.setDie
  | dieReset => exact w.execDieReset
  | dieResetEnd => exact w.setDie.trainEdges.ite w
  | dieTrainingDone => exact w.execDieTrainingDone
  | dieFull | powerCapThrottle | powerCapRelease => exact w.setDie.ite w
  | firmwareLoad => exact w.execFirmwareLoad
  | trcctlWrite => exact w.execTrcctlWrite
  | ringselWrite => exact w.execRingselWrite
  | configRegisterWrite => exact w.execConfigRegisterWrite
  | powerOn => exact w.execPowerOn
  | spareRemap => exact w.execSpareRemap
  | preemptionStreamFailure => exact w.execPreemptionStreamFailure
  | firmwareReloadDone => exact w.execFirmwareReloadDone
  | attestationReportDone => exact w.execAttestationReportDone
  | hostRelocationDone => exact w.execHostRelocationDone

/-! ### A step -/

theorem stepIssue_memWf {p t : Nat} {s : State} (w : s.memWf) : outWf (stepIssue s p t) := by
  have wf : (s.atIssue.fetchIssue p t).memWf := State.memWf.fetchIssue (.same w)
  unfold stepIssue
  split
  next h => exact answerWf (P := Fetched.memWf) wf h
  next h =>
    have wr := answerWf (P := Fetched.memWf) wf h
    split
    · exact exec_memWf wr
    · exact wr.trapMe

theorem stepDrain_memWf {p : Nat} {s : State} (w : s.memWf) : outWf (stepDrain s p) := by
  unfold stepDrain
  split
  · exact w.atIssue
  · split
    · exact exec_memWf w.atDrain
    · exact w.atIssue

theorem step_memWf {s : State} (w : s.memWf) : outWf (step s) := by
  unfold step
  split
  · exact stepIssue_memWf w
  · exact stepDrain_memWf w
  · exact ifWf (exec_memWf w.nextEvent.fst) w.nextEvent.fst

/-- Settles O29: what every function of the model answers keeps the canonical form, up to `step`. -/
theorem memoryFormKept : Obligations.MemoryFormKept := by
  unfold Obligations.MemoryFormKept
  intro s t w h
  exact answerWf (step_memWf w) h

end Sys2Proof.Machine
end

section

/-!
What reset leaves (R6, R22, R37, R163, R240, R323, R341, R395): every table is empty, so each entry reads as its default.
-/

open Sys2Proof Sys2Proof.Claims

namespace Sys2Proof.Machine

theorem reset_nctr (i : Fin 8) : ({} : Core).nctr[i.val] = 0 := by
  fin_cases i <;> rfl

/-- After reset the logical numbers are the identity of the compute cores (log entry 3). -/
theorem reset_phys {l : Nat} (h : l < 18432) : State.reset.phys l = some (l / 16 * 17 + l % 16) := if_neg (Nat.not_le.mpr h)

/-- A journal that is empty has its 16 entries free. -/
theorem reset_jrnlWord : ({} : Core).jrnlWord = 16 := by decide

/-- No route is valid. -/
theorem bits_zero_valid : bits (0 : Word) 63 63 = 0 := by decide

theorem claims_resetState : Claims.ResetState :=
  ⟨fun _ => ⟨rfl, rfl, rfl⟩, fun _ => ⟨rfl, rfl, reset_jrnlWord, reset_nctr, fun _ => rfl, fun _ => bits_zero_valid⟩, fun _ _ => ⟨rfl, rfl, rfl⟩,
    fun _ => ⟨rfl, rfl⟩, fun _ => ⟨rfl, rfl⟩, fun _ => rfl, fun _ => reset_phys, rfl, rfl⟩

/-- Settles O28: tables that are empty read as their defaults, and empty memories are in canonical form. -/
theorem resetState : Obligations.ResetState := by
  unfold Obligations.ResetState
  exact ⟨claims_resetState, State.reset_memWf⟩

end Sys2Proof.Machine
end

section

/-!
Steps that run no fetched instruction (R28, R31, R71, R90, R92, R98, R211): the word in hand, what the fetch answers, and what a trap leaves
of the thread it latches.
-/

open Sys2Proof Sys2Proof.Claims

namespace Sys2Proof.Machine

/-! ### The thread that a trap latches (R31) -/

@[simp] theorem State.trapThread_thread_same (s : State) (p t : Nat) (w : BitVec 32) (tr : Trap) (h : isSetter p = false) :
    (s.trapThread p t w tr).thread p t = (s.thread p t).latched w tr := by
  rw [s.trapThread_latch p t w tr h, State.thread, State.deliver_core]
  exact s.latch_thread_same p t w tr

theorem State.trapThread_thread_ne (s : State) (p t : Nat) (w : BitVec 32) (tr : Trap) (h : isSetter p = false) (q k : Nat)
    (hne : (q, k) ≠ (p, t)) : (s.trapThread p t w tr).thread q k = s.thread q k := by
  rw [s.trapThread_latch p t w tr h, State.thread, State.deliver_core]
  exact s.latch_thread_ne p t w tr q k hne

/-! ### The instruction in hand (R405) -/

/-- An instruction of thread `(p, t)` begins: its word is in hand. -/
def State.grasp (s : State) (p t : Nat) (w : BitVec 32) : State :=
  { s with focus := .sched, tick := s.tick + 1, cur := ⟨p, t, w⟩ }

theorem State.traceIssue_off (s : State) (p t : Nat) (h : bits s.panel.trcctl 63 63 = 0) : s.traceIssue p t = s := by
  simp [State.traceIssue, State.tracing, h]

/-- Where TRCCTL traces nothing the issue leaves no record. -/
theorem inHand_eq_traceIssue (s : State) (p t : Nat) (w : BitVec 32) : inHand s p t w = (s.grasp p t w).traceIssue p t := by
  unfold inHand
  split
  · exact (State.traceIssue_off (s.grasp p t w) p t ‹_›).symm
  · rfl

/-! ### What the fetch answers (R28, R98) -/

section
variable {s : State} {p t : Nat}

/-- A latch to issue again gives its word. -/
theorem State.fetch_latched (h : (s.thread p t).latch.kind = .preIssue ∨ (s.thread p t).latch.kind = .reissue) :
    s.fetch p t = .run { s with cur := ⟨p, t, (s.thread p t).latch.word⟩ } (s.thread p t).latch.word := by
  simp only [State.fetch, Bool.or_eq_true, decide_eq_true_eq, if_pos h]

/-- The program counter in an address of 64 bits. -/
theorem pc_toNat (pc : BitVec 56) : (pc.setWidth 64).toNat = pc.toNat := by
  rw [BitVec.toNat_setWidth, Nat.mod_eq_of_lt]
  exact lt_trans pc.isLt (by norm_num)

theorem eaKind_pc_direct {pc : BitVec 56} (h : pc.toNat < 2 ^ 19) : eaKind (pc.setWidth 64) = .direct := by
  simp only [eaKind, pc_toNat, if_pos h]

theorem eaKind_pc_virt {pc : BitVec 56} (h : 2 ^ 19 ≤ pc.toNat) : eaKind (pc.setWidth 64) = .virt := by
  simp only [eaKind, pc_toNat, if_neg (Nat.not_lt.mpr h), if_pos pc.isLt]

variable (lp : (s.thread p t).latch.kind ≠ .preIssue) (lr : (s.thread p t).latch.kind ≠ .reissue)
include lp lr

/-- An address of which no word is fetched. -/
theorem State.fetch_bad (h : (s.thread p t).regs.pc.toNat < 2 ^ 19 ∨ (s.thread p t).noAddr = true ∨
      ∃ e, s.tlb1 p (s.thread p t).regs.pc.toNat = some e ∧ e.canX = false) :
    s.fetch p t = .ended (({ s with cur := ⟨p, t, 0⟩ } : State).fetchTrap p t (.access ((s.thread p t).regs.pc.setWidth 64))) := by
  simp only [State.fetch, lp, lr, decide_false, Bool.or_self, Bool.false_eq_true, if_false, pc_toNat]
  split
  · rfl
  next hn =>
    by_cases hpc : (s.thread p t).regs.pc.toNat < 2 ^ 19
    · simp only [eaKind_pc_direct hpc]
    · obtain ⟨e, he, hx⟩ := (h.resolve_left hpc).resolve_left hn
      simp only [eaKind_pc_virt (Nat.not_lt.mp hpc), he, hx, Bool.false_eq_true, if_false]

variable (hn : (s.thread p t).noAddr = false) (hpc : 2 ^ 19 ≤ (s.thread p t).regs.pc.toNat)
include hn hpc

/-- A page that the core's first level does not translate. -/
theorem State.fetch_miss (h : s.tlb1 p (s.thread p t).regs.pc.toNat = none) :
    s.fetch p t = .ended ((({ s with cur := ⟨p, t, 0⟩ } : State).threadMiss p t ((s.thread p t).regs.pc.setWidth 64) 4).postIssue
      (.load { kind := .fetch, todo := [⟨0, (s.thread p t).regs.pc.setWidth 64, 4, 0, .direct 0⟩], miss := true }) none none) := by
  simp only [State.fetch, lp, lr, hn, decide_false, Bool.or_self, Bool.false_eq_true, if_false, pc_toNat, eaKind_pc_virt hpc, h]

/-- A word in a page with execute permission. -/
theorem State.fetch_run {e : Tlb} (he : s.tlb1 p (s.thread p t).regs.pc.toNat = some e) (hx : e.canX = true) :
    s.fetch p t = .run { s with cur := ⟨p, t, s.fetchBytes (e.place (s.thread p t).regs.pc.toNat)⟩ }
      (s.fetchBytes (e.place (s.thread p t).regs.pc.toNat)) := by
  simp only [State.fetch, lp, lr, hn, decide_false, Bool.or_self, Bool.false_eq_true, if_false, pc_toNat, eaKind_pc_virt hpc, he, hx, if_true]

end

/-! ### A step at issue -/

/-- What a word gives that the fetch has run: its instruction, or ILLEGAL. -/
theorem step_run {s u : State} {p t : Nat} {w : BitVec 32} (hf : s.focus = .issue p t) (h : s.atIssue.fetch p t = .run u w)
    (hu : u = s.grasp p t w) :
    (∀ i, decodeWord w = some i → step s = exec i (inHand s p t w)) ∧
      (decodeWord w = none → step s = .next ((inHand s p t w).trapMe .illegal)) := by
  have issue : s.atIssue.fetchIssue p t = .run (inHand s p t w) w := by
    rw [State.fetchIssue, h, hu, inHand_eq_traceIssue]
  constructor
  · intro i hi
    simp only [step, hf, stepIssue, issue, hi]
  · intro hi
    simp only [step, hf, stepIssue, issue, hi]

/-- A fetch that runs no word is the step. -/
theorem step_ended {s u : State} {p t : Nat} (hf : s.focus = .issue p t) (h : s.atIssue.fetch p t = .ended u) : step s = .next u := by
  simp only [step, hf, stepIssue, State.fetchIssue, h]

/-- The word at the program counter of a thread to fetch. -/
theorem fetch_word {s : State} {p t : Nat} {w : BitVec 32} (f : fetches s p t) (hw : wordAt s p t w) :
    s.atIssue.fetch p t = .run (s.grasp p t w) w := by
  obtain ⟨-, lp, lr⟩ := f
  obtain ⟨hn, hpc, e, l, off, pa, he, hx, hpl, rfl⟩ := hw
  have lies : s.atIssue.fetchBytes (e.place (s.thread p t).regs.pc.toNat) = BitVec.ofNat 32 (mread s.dram (l * 512 + off) 4) := by
    rw [hpl]; rfl
  have run := State.fetch_run (s := s.atIssue) lp lr hn hpc he hx
  rw [show (s.atIssue.thread p t).regs.pc = (s.thread p t).regs.pc from rfl, lies] at run
  exact run

theorem stepIllegalWord : StepIllegalWord := fun _ _ _ _ f hw hd => (step_run f.1 (fetch_word f hw) rfl).2 hd

theorem stepLatchedWord : StepLatchedWord := fun s _ _ hf hl =>
  step_run hf (State.fetch_latched (s := s.atIssue) hl) rfl

/-! ### A fetch that fails -/

theorem State.joinMiss_frame (s : State) (m m' : Miss) : (s.joinMiss m m').cores = s.cores ∧ (s.joinMiss m m').cur = s.cur := by
  unfold State.joinMiss
  split <;> exact ⟨rfl, rfl⟩

/-- A miss that is recorded touches no core and no instruction in hand. -/
theorem State.addMiss_frame (s : State) (who : MissWho) (ctx cluster slot : Nat) (va : Word) (acc : BitVec 3) (word : Nat) (rt : Word) :
    (s.addMiss who ctx cluster slot va acc word rt).cores = s.cores ∧ (s.addMiss who ctx cluster slot va acc word rt).cur = s.cur := by
  unfold State.addMiss
  dsimp only
  split
  · exact ⟨rfl, rfl⟩
  · split
    · exact ⟨rfl, rfl⟩
    · split
      · exact s.joinMiss_frame _ _
      · split <;> exact ⟨rfl, rfl⟩

/-- A thread whose page is not translated waits, its registers kept. -/
theorem State.missWait_thread (s : State) {p t : Nat} {w : BitVec 32} (hand : s.cur = ⟨p, t, w⟩) (va : Word) (acc : BitVec 3) (x : Wait) :
    ((s.threadMiss p t va acc).postIssue x none none).thread p t =
      { s.thread p t with st := .wait, wait := x, latch := ⟨.empty, w, (s.thread p t).regs.pc, 0, 0, 0, false, false⟩, popIn := none, resOut := none } := by
  obtain ⟨cores, cur⟩ := s.addMiss_frame (.thread p t) (s.core p).ctx (clusterOf p) (s.thread p t).slot va acc (s.gtn p t) (s.thread p t).rt
  have cur : (s.threadMiss p t va acc).cur = ⟨p, t, w⟩ := cur.trans hand
  have me : (s.threadMiss p t va acc).me = s.thread p t := by
    rw [State.me, cur, State.thread, State.core, State.threadMiss, cores]; rfl
  rw [State.postIssue, State.modMe, State.setMe, me, cur]
  exact State.setThread_thread_same _ _ _ _

theorem stepFetchFault : StepFetchFault := by
  intro s p t f pc
  obtain ⟨hf, lp, lr⟩ := f
  constructor
  · intro h
    refine ⟨_, step_ended hf (State.fetch_bad (s := s.atIssue) lp lr h), fun hp hin => ?_⟩
    have latched : ((({ s.atIssue with cur := ⟨p, t, 0⟩ } : State).trapThread p t 0 (.access (pc.setWidth 64))).thread p t) =
        (s.thread p t).latched 0 (.access (pc.setWidth 64)) := State.trapThread_thread_same _ p t 0 _ hp
    rw [State.fetchTrap, State.modThread_thread_same]
    rw [show (s.atIssue.thread p t).regs.pc = pc from rfl, latched, Thread.latched_inRot _ _ _ hin]
    exact ⟨rfl, rfl, rfl, rfl, rfl⟩
  · intro hn hpc hm
    have waits := State.missWait_thread { s.atIssue with cur := ⟨p, t, 0⟩ } rfl (pc.setWidth 64) 4
      (.load { kind := .fetch, todo := [⟨0, pc.setWidth 64, 4, 0, .direct 0⟩], miss := true })
    refine ⟨_, { kind := .fetch, todo := [⟨0, pc.setWidth 64, 4, 0, .direct 0⟩], miss := true },
      step_ended hf (State.fetch_miss (s := s.atIssue) lp lr hn hpc hm),
      (congrArg Thread.st waits :), (congrArg Thread.wait waits :), rfl, (congrArg Thread.regs waits :)⟩

/-! ### Events and micro-ops -/

theorem stepEvents : StepEvents := by
  intro s
  constructor
  · intro hf i rest ha hi
    simp only [step, hf, State.nextEvent, ha, hi, if_true]
  · intro p r o hf hr ho w i hw hi
    have word : s.drainWord p = some w.toNat := by
      simp only [State.drainWord, Drain.turn, hr, ho, hw, Option.map_some]
    have at' : s.atDrain p = { s with cur := ⟨p, 0, 0⟩, tick := s.tick + 1 } := by
      simp only [State.atDrain, ← hf]
    simp only [step, hf, stepDrain, word, hi, at']

theorem everyStepGoesOn : EveryStepGoesOn := by
  intro i s
  cases i <;> exact ⟨_, rfl⟩

/-- Settles O26: what the fetch answers decides the step; a machine event runs with the agenda shortened; every arm of `exec` goes on. -/
theorem stepOther : Obligations.StepOther := by
  unfold Obligations.StepOther
  exact ⟨stepIllegalWord, stepLatchedWord, stepFetchFault, stepEvents, everyStepGoesOn⟩

end Sys2Proof.Machine
end

section

/-!
Slot turns (R20, R25, R26, R30, R31) and the time that a thread's `ptime` advances itself by (R247): what a turn's cycles change, which thread
it takes, and what taking a thread leaves of the core and of its other threads.
-/

open Sys2Proof Sys2Proof.Claims

namespace Sys2Proof.Machine

/-! ### The cycles of a turn (R20) -/

theorem tget_map {α : Type} (d : α) (f : α → α) (hd : f d = d) (l : Tab α) (n : Nat) :
    tget d (l.map fun e => (e.1, f e.2)) n = f (tget d l n) := by
  induction l with
  | nil => exact hd.symm
  | cons e l ih =>
    simp only [List.map_cons, tget]
    split
    · rfl
    · exact ih

/-- A turn's cycles pass: the pointer moves on and time with it, before a thread is taken. -/
def State.timed (s : State) (p : Nat) : State :=
  ((s.modCore p fun c => { c with ptr := ((s.core p).ptr + 1) % 8 }).passTime p).traceCycle p 0

theorem State.traceCycle_frame (s : State) (p v : Nat) :
    (s.traceCycle p v).cores = s.cores ∧ (s.traceCycle p v).focus = s.focus ∧ (s.traceCycle p v).panel = s.panel := by
  unfold State.traceCycle
  split <;> exact ⟨rfl, rfl, rfl⟩

theorem State.timed_focus (s : State) (p : Nat) : (s.timed p).focus = s.focus := (State.traceCycle_frame _ p 0).2.1

theorem State.timed_panel (s : State) (p : Nat) : (s.timed p).panel = s.panel := (State.traceCycle_frame _ p 0).2.2

/-- The core after a turn's cycles, and each of its threads: only a thread's cycles in rotation are counted. -/
theorem State.timed_core (s : State) (p : Nat) :
    ((s.timed p).core p).ptr = ((s.core p).ptr + 1) % 8 ∧ (s.core p).cyc < ((s.timed p).core p).cyc ∧
      ((s.timed p).core p).last = (s.core p).last ∧ ((s.timed p).core p).ctx = (s.core p).ctx ∧
      ∀ k, ∃ x, (s.timed p).thread p k = { s.thread p k with inCyc := x } := by
  have cores : (s.timed p).core p = ((s.modCore p fun c => { c with ptr := ((s.core p).ptr + 1) % 8 }).passTime p).core p := by
    rw [State.core, State.timed, (State.traceCycle_frame _ p 0).1]; rfl
  simp only [State.thread, Core.thread, cores, State.passTime, State.setDie_core, State.modCore_core_same]
  refine ⟨trivial, by omega, trivial, trivial, fun k => ?_⟩
  rw [tget_map (f := fun th : Thread => if bits th.crs.lease 20 16 ≤ 24 && th.inRot then { th with inCyc := th.inCyc + _ } else th)]
  · split
    · exact ⟨_, rfl⟩
    · exact ⟨_, rfl⟩
  · rfl

/-! ### Whose turn it is (R25) -/

/-- The member that a turn at slot `sl` serves is recorded as the last one served. -/
def servedLast (last : BitVec 8) (sl t : Nat) : BitVec 8 :=
  if t < 8 then last &&& ~~~ ((1 : BitVec 8) <<< sl) else last ||| ((1 : BitVec 8) <<< sl)

theorem servedLast_getLsbD (last : BitVec 8) (sl t : Nat) (h : sl < 8) : (servedLast last sl t).getLsbD sl = decide (8 ≤ t) := by
  unfold servedLast
  split
  · rename_i lt; simp [h, Nat.not_le.mpr lt]
  · rename_i ge; simp [h, Nat.le_of_not_lt ge]

/-- Thread `t` has the turn: its cycles have passed and it is the last one served. -/
def State.served (s : State) (p t : Nat) : State :=
  (s.timed p).modCore p fun c => { c with last := servedLast c.last (s.core p).ptr t }

/-- One turn of an annulled thread passes. -/
def Thread.countDown (th : Thread) : Thread := { th with ann := th.ann - 1 }

/-- The other member of a thread's pair. -/
def pairOf (t : Nat) : Nat := if t < 8 then t + 8 else t - 8

theorem pairOf_ne (t : Nat) : pairOf t ≠ t := by
  unfold pairOf
  split <;> omega

/-- An annulled thread counts down and leaves the turn to the other member of its pair. -/
def State.pass (s : State) (p t : Nat) : State :=
  let v := s.modThread p t Thread.countDown
  if (v.thread p (pairOf t)).inRot && (v.thread p (pairOf t)).ann = 0 then v.takeTurn p (pairOf t) else v

/-- A thread has the turn: it takes it, or passes where it is annulled. -/
def State.serve (s : State) (p t : Nat) : State :=
  if 0 < (s.thread p t).ann then s.pass p t else s.takeTurn p t

theorem Thread.inRot_eq (th : Thread) : th.inRot = decide (th.st = .inRot) := by
  unfold Thread.inRot
  cases th.st <;> rfl

theorem State.turn_eq (s : State) (p : Nat) :
    s.turn p = match turnOf s p with
      | none => s.timed p
      | some t => (s.served p t).serve p t := by
  have chosen : (if ((s.core p).thread (s.core p).ptr).inRot && ((s.core p).thread ((s.core p).ptr + 8)).inRot then
        some (if (s.core p).last.getLsbD (s.core p).ptr then (s.core p).ptr else (s.core p).ptr + 8)
      else if ((s.core p).thread (s.core p).ptr).inRot then some (s.core p).ptr
      else if ((s.core p).thread ((s.core p).ptr + 8)).inRot then some ((s.core p).ptr + 8) else none) = turnOf s p := by
    simp only [turnOf, Thread.inRot_eq, Bool.and_eq_true, decide_eq_true_eq]
    rfl
  unfold State.turn
  dsimp only
  rw [chosen]
  cases turnOf s p with
  | none => rfl
  | some t => rfl

/-- The thread whose turn it is runs in rotation. -/
theorem turnOf_inRot {s : State} {p t : Nat} (h : turnOf s p = some t) : (s.thread p t).st = .inRot := by
  unfold turnOf at h
  dsimp only at h
  split at h
  · obtain ⟨a, b⟩ := ‹_ ∧ _›
    obtain rfl := Option.some.inj h
    split
    · exact a
    · exact b
  · split at h
    · obtain rfl := Option.some.inj h; assumption
    · split at h
      · obtain rfl := Option.some.inj h; assumption
      · cases h

section
variable (s : State) (p t : Nat)

theorem State.served_core : ((s.served p t).core p).ptr = ((s.core p).ptr + 1) % 8 ∧ (s.core p).cyc < ((s.served p t).core p).cyc ∧
    ((s.served p t).core p).last = servedLast (s.core p).last (s.core p).ptr t ∧ ((s.served p t).core p).ctx = (s.core p).ctx := by
  obtain ⟨ptr, cyc, last, ctx, -⟩ := s.timed_core p
  simp only [State.served, State.modCore_core_same]
  exact ⟨ptr, cyc, congrArg (servedLast · _ t) last, ctx⟩

theorem State.served_thread (k : Nat) : ∃ x, (s.served p t).thread p k = { s.thread p k with inCyc := x } := by
  obtain ⟨-, -, -, -, threads⟩ := s.timed_core p
  obtain ⟨x, h⟩ := threads k
  refine ⟨x, ?_⟩
  rw [← h, State.served, State.thread, State.modCore_core_same]; rfl

theorem State.served_focus : (s.served p t).focus = s.focus := s.timed_focus p

theorem State.served_atBreakpoint : (s.served p t).atBreakpoint p t = s.atBreakpoint p t := by
  obtain ⟨x, h⟩ := s.served_thread p t t
  have panel : (s.served p t).panel = s.panel := s.timed_panel p
  simp only [State.atBreakpoint, h, panel, (s.served_core p t).2.2.2]

end

/-! ### Taking a thread (R26, R31) -/

/-- From `s` to `u` the turn pointer, the cycles and the last ones served of core `p` stay, and all its threads but thread `t`. -/
structure TurnKeeps (p t : Nat) (s u : State) : Prop where
  ptr : (u.core p).ptr = (s.core p).ptr
  cyc : (u.core p).cyc = (s.core p).cyc
  last : (u.core p).last = (s.core p).last
  others : ∀ k, k ≠ t → u.thread p k = s.thread p k

section
variable {p t : Nat} {s u v : State}

theorem TurnKeeps.refl (p t : Nat) (s : State) : TurnKeeps p t s s := ⟨rfl, rfl, rfl, fun _ _ => rfl⟩

theorem TurnKeeps.trans (h : TurnKeeps p t s u) (k : TurnKeeps p t u v) : TurnKeeps p t s v :=
  ⟨k.ptr.trans h.ptr, k.cyc.trans h.cyc, k.last.trans h.last, fun i hi => (k.others i hi).trans (h.others i hi)⟩

theorem TurnKeeps.of_cores (h : u.cores = s.cores) : TurnKeeps p t s u := by
  have same (q : Nat) : u.core q = s.core q := by rw [State.core, h]; rfl
  exact ⟨by rw [same], by rw [same], by rw [same], fun k _ => by rw [State.thread, same]; rfl⟩

theorem turnKeeps_cur (s : State) (p t : Nat) (x : Cur) : TurnKeeps p t s { s with cur := x } := .of_cores rfl

theorem turnKeeps_setThread (s : State) (p t : Nat) (x : Thread) : TurnKeeps p t s (s.setThread p t x) := by
  refine ⟨?_, ?_, ?_, fun k h => ?_⟩
  · rw [State.setThread, State.setCore_core_same]; rfl
  · rw [State.setThread, State.setCore_core_same]; rfl
  · rw [State.setThread, State.setCore_core_same]; rfl
  · rw [State.setThread, State.thread, State.setCore_core_same, Core.setThread_thread_ne _ _ _ _ h]; rfl

theorem turnKeeps_modThread (s : State) (p t : Nat) (f : Thread → Thread) : TurnKeeps p t s (s.modThread p t f) :=
  turnKeeps_setThread s p t _

theorem turnKeeps_unreserve (s : State) (p t : Nat) : TurnKeeps p t s (s.unreserve p t) := by
  obtain ⟨x, h⟩ := s.unreserve_core p t p
  exact ⟨by rw [h], by rw [h], by rw [h], fun k _ => s.unreserve_thread p t p k⟩

theorem turnKeeps_dwrite (s : State) (p t a n v : Nat) : TurnKeeps p t s (s.dwrite p a n v) := by
  refine ⟨?_, ?_, ?_, fun k _ => ?_⟩
  all_goals simp only [State.thread, State.dwrite, State.modCore_core_same]
  rfl

theorem turnKeeps_deliver (s : State) (p t k slot ctx : Nat) (r : FRec) : TurnKeeps p t s (s.deliver p k slot ctx r) :=
  .of_cores (s.deliver_frame p k slot ctx r).1

/-- A trap touches only the thread it latches, or that its Setter core resets. -/
theorem turnKeeps_trapThread (s : State) (p t : Nat) (w : BitVec 32) (tr : Trap) : TurnKeeps p t s (s.trapThread p t w tr) := by
  unfold State.trapThread
  dsimp only
  refine ((turnKeeps_unreserve s p t).trans (turnKeeps_modThread _ p t Thread.unpay)).trans ?_
  split
  · exact (turnKeeps_dwrite _ p t _ _ _).trans (turnKeeps_modThread _ p t _)
  · exact (turnKeeps_setThread _ p t _).trans (turnKeeps_deliver _ p t t _ _ _)

theorem turnKeeps_fetchTrap (s : State) (p t : Nat) (tr : Trap) : TurnKeeps p t s (s.fetchTrap p t tr) :=
  (turnKeeps_trapThread s p t 0 tr).trans (turnKeeps_modThread _ p t _)

/-- A thread that a debugger stops (R404). -/
def Thread.halt (th : Thread) : Thread :=
  { th with st := .stopped, prior := th.st, stopReq := none, passBp := th.st == .inRot || th.wait.preIssue }

theorem State.stop_cores (s : State) (p t cause : Nat) : (s.stop p t cause).cores = (s.modThread p t Thread.halt).cores := rfl

theorem turnKeeps_stop (s : State) (p t cause : Nat) : TurnKeeps p t s (s.stop p t cause) :=
  (turnKeeps_modThread s p t Thread.halt).trans (.of_cores (s.stop_cores p t cause))

/-- A fetch that answers a word has changed nothing but what is in hand. -/
theorem State.fetch_run_eq {s u : State} {p t : Nat} {w : BitVec 32} (h : s.fetch p t = .run u w) : u = { s with cur := ⟨p, t, w⟩ } := by
  unfold State.fetch at h
  dsimp only at h
  split at h
  · cases h; rfl
  · split at h
    · cases h
    · split at h
      · split at h
        · cases h
        · split at h
          · cases h; rfl
          · cases h
      · cases h

/-- A thread that takes a pending trap latches it: the word it fetched, or none, stands in the latch. -/
theorem State.takeTurn_trap (s : State) (p t : Nat) {a : ATrap} {rest : List ATrap} (hs : (s.thread p t).stopReq = none)
    (ht : (s.thread p t).traps = a :: rest) :
    (∃ w, s.takeTurn p t = ({ s.modThread p t (fun th => { th with traps := rest }) with cur := ⟨p, t, w⟩ } : State).trapThread p t w a.trap) ∨
    s.takeTurn p t = (s.modThread p t fun th => { th with traps := rest }).fetchTrap p t a.trap := by
  unfold State.takeTurn
  simp only [hs, ht]
  split
  · rename_i u w h
    exact .inl ⟨w, by rw [State.fetch_run_eq h]⟩
  · exact .inr rfl

theorem turnKeeps_takeTurn (s : State) (p t : Nat) : TurnKeeps p t s (s.takeTurn p t) := by
  cases hs : (s.thread p t).stopReq with
  | some cause =>
    rw [State.takeTurn]; simp only [hs]
    exact turnKeeps_stop s p t cause
  | none =>
    cases ht : (s.thread p t).traps with
    | nil =>
      rw [State.takeTurn]; simp only [hs, ht]
      split
      · exact turnKeeps_stop s p t 1
      · exact .of_cores rfl
    | cons a rest =>
      have pop := turnKeeps_modThread s p t fun th => { th with traps := rest }
      have hop := s.takeTurn_trap p t hs ht
      generalize s.modThread p t (fun th => { th with traps := rest }) = popped at pop hop
      obtain ⟨w, h⟩ | h := hop
      · rw [h]
        exact (pop.trans (turnKeeps_cur popped p t _)).trans (turnKeeps_trapThread _ p t w _)
      · rw [h]
        exact pop.trans (turnKeeps_fetchTrap popped p t _)

theorem State.takeTurn_issue (s : State) (p t : Nat) (hs : (s.thread p t).stopReq = none) (ht : (s.thread p t).traps = [])
    (hb : s.atBreakpoint p t = false) : s.takeTurn p t = { s with focus := .issue p t } := by
  simp [State.takeTurn, hs, ht, hb]

theorem ATrap.trap_kind (a : ATrap) : a.trap.kind = a.kind := by
  unfold ATrap.trap
  split
  · exact Eq.symm ‹_›
  · split
    · exact Eq.symm ‹_›
    · rfl

/-- What a trap leaves of a thread in rotation that it latches. -/
theorem State.trapThread_inRot (s : State) (p t : Nat) (w : BitVec 32) (tr : Trap) (hin : (s.thread p t).st = .inRot) (hp : compute p) :
    ((s.trapThread p t w tr).thread p t).st = .latched ∧ ((s.trapThread p t w tr).thread p t).latch.trap = tr.kind ∧
      ((s.trapThread p t w tr).thread p t).regs = (s.thread p t).regs ∧ ((s.trapThread p t w tr).thread p t).traps = (s.thread p t).traps := by
  rw [State.trapThread_thread_same s p t w tr hp, Thread.latched_inRot _ _ _ hin]
  exact ⟨rfl, rfl, rfl, rfl⟩

theorem State.fetchTrap_inRot (s : State) (p t : Nat) (tr : Trap) (hin : (s.thread p t).st = .inRot) (hp : compute p) :
    ((s.fetchTrap p t tr).thread p t).st = .latched ∧ ((s.fetchTrap p t tr).thread p t).latch.trap = tr.kind ∧
      ((s.fetchTrap p t tr).thread p t).regs = (s.thread p t).regs ∧ ((s.fetchTrap p t tr).thread p t).traps = (s.thread p t).traps := by
  have latched := s.trapThread_inRot p t 0 tr hin hp
  rw [State.fetchTrap, State.modThread_thread_same]
  generalize (s.trapThread p t 0 tr).thread p t = th at latched
  exact latched

/-- A thread in rotation that takes its oldest pending trap. -/
theorem State.takeTurn_latches (s : State) (p t : Nat) {a : ATrap} {rest : List ATrap} (hs : (s.thread p t).stopReq = none)
    (ht : (s.thread p t).traps = a :: rest) (hin : (s.thread p t).st = .inRot) (hp : compute p) :
    ((s.takeTurn p t).thread p t).st = .latched ∧ ((s.takeTurn p t).thread p t).latch.trap = a.kind ∧
      ((s.takeTurn p t).thread p t).regs = (s.thread p t).regs ∧ ((s.takeTurn p t).thread p t).traps = rest := by
  have pop : (s.modThread p t fun th => { th with traps := rest }).thread p t = { s.thread p t with traps := rest } :=
    State.modThread_thread_same _ _ _ _
  have hin' : ((s.modThread p t fun th => { th with traps := rest }).thread p t).st = .inRot := by rw [pop]; exact hin
  have regs' : ((s.modThread p t fun th => { th with traps := rest }).thread p t).regs = (s.thread p t).regs := by rw [pop]
  have traps' : ((s.modThread p t fun th => { th with traps := rest }).thread p t).traps = rest := by rw [pop]
  have hop := s.takeTurn_trap p t hs ht
  generalize s.modThread p t (fun th => { th with traps := rest }) = popped at hop hin' regs' traps'
  obtain ⟨w, h⟩ | h := hop
  · obtain ⟨st, trap, regs, traps⟩ := State.trapThread_inRot ({ popped with cur := ⟨p, t, w⟩ } : State) p t w a.trap hin' hp
    rw [h]
    exact ⟨st, trap.trans a.trap_kind, regs.trans regs', traps.trans traps'⟩
  · obtain ⟨st, trap, regs, traps⟩ := popped.fetchTrap_inRot p t a.trap hin' hp
    rw [h]
    exact ⟨st, trap.trans a.trap_kind, regs.trans regs', traps.trans traps'⟩

end

/-! ### The statements -/

section
variable (s : State) (p t : Nat)

/-- Whichever member of the pair acts, the pointer, the cycles and the last one served stand. -/
theorem State.serve_core : ((s.serve p t).core p).ptr = (s.core p).ptr ∧ ((s.serve p t).core p).cyc = (s.core p).cyc ∧
    ((s.serve p t).core p).last = (s.core p).last := by
  have ofKeeps {k : Nat} {u v : State} (h : TurnKeeps p k u v) :
      (v.core p).ptr = (u.core p).ptr ∧ (v.core p).cyc = (u.core p).cyc ∧ (v.core p).last = (u.core p).last := ⟨h.ptr, h.cyc, h.last⟩
  unfold State.serve
  split
  · obtain ⟨ptr, cyc, last⟩ := ofKeeps (turnKeeps_modThread s p t Thread.countDown)
    unfold State.pass
    dsimp only
    split
    · obtain ⟨ptr', cyc', last'⟩ := ofKeeps (turnKeeps_takeTurn (s.modThread p t Thread.countDown) p (pairOf t))
      exact ⟨ptr'.trans ptr, cyc'.trans cyc, last'.trans last⟩
    · exact ⟨ptr, cyc, last⟩
  · exact ofKeeps (turnKeeps_takeTurn s p t)

theorem State.pass_ann : ((s.pass p t).thread p t).ann = (s.thread p t).ann - 1 := by
  have counted : ((s.modThread p t Thread.countDown).thread p t).ann = (s.thread p t).ann - 1 := by
    rw [State.modThread_thread_same]; rfl
  unfold State.pass
  dsimp only
  split
  · rw [(turnKeeps_takeTurn _ p _).others t (pairOf_ne t).symm, counted]
  · exact counted

/-- Where the other member is not in rotation the turn is nobody's. -/
theorem State.pass_focus (h : (s.thread p (pairOf t)).st ≠ .inRot) : (s.pass p t).focus = s.focus := by
  unfold State.pass
  dsimp only
  rw [(turnKeeps_modThread s p t _).others _ (pairOf_ne t), if_neg]
  · rfl
  · simp [Thread.inRot_eq, h]

end

theorem exec_slotTurn_off {s : State} {p : Nat} (h : (s.die (dieOf p)).clk = 0 ∨ (s.core p).moveTo ≠ none) :
    exec (.slotTurn p) s = .next s := by
  refine congrArg Host.Outcome.next (if_pos ?_)
  rcases h with h | h
  · simp [h]
  · simp [Option.isSome_iff_ne_none.mpr h]

theorem exec_slotTurn_on {s : State} {p : Nat} (hclk : (s.die (dieOf p)).clk ≠ 0) (hmove : (s.core p).moveTo = none)
    (hload : isSetter p = true → s.panel.fwload = none) : exec (.slotTurn p) s = .next (s.turn p) := by
  refine congrArg Host.Outcome.next (if_neg ?_)
  cases hp : isSetter p with
  | false => simp [hclk, hmove]
  | true => simp [hclk, hmove, hload hp]

theorem slotTurns : SlotTurns := by
  intro p s hptr
  refine ⟨exec_slotTurn_off, fun hclk hmove hload => ⟨s.turn p, exec_slotTurn_on hclk hmove hload, ?_⟩⟩
  rw [State.turn_eq]
  cases ht : turnOf s p with
  | none =>
    obtain ⟨ptr, cyc, last, -⟩ := s.timed_core p
    exact ⟨ptr, cyc, fun _ => ⟨s.timed_focus p, last⟩, fun t h => nomatch h⟩
  | some t =>
    obtain ⟨ptr, cyc, last, -⟩ := s.served_core p t
    obtain ⟨ptr', cyc', last'⟩ := (s.served p t).serve_core p t
    refine ⟨ptr'.trans ptr, cyc'.symm ▸ cyc, fun h => (nomatch h), fun k hk => ?_⟩
    obtain rfl := Option.some.inj hk
    have hin := turnOf_inRot ht
    obtain ⟨x, th⟩ := s.served_thread p t t
    refine ⟨?_, fun hann hstop => ?_, fun hann => ?_⟩
    · change (((s.served p t).serve p t).core p).last.getLsbD _ = _
      rw [last', last]; exact servedLast_getLsbD _ _ t hptr
    · have ann : ¬ 0 < ((s.served p t).thread p t).ann := by rw [th]; exact Nat.not_lt.mpr hann.le
      have stop : ((s.served p t).thread p t).stopReq = none := by rw [th]; exact hstop
      have rot : ((s.served p t).thread p t).st = .inRot := by rw [th]; exact hin
      simp only [State.serve, if_neg ann]
      constructor
      · intro htr hb
        rw [State.takeTurn_issue _ p t stop (by rw [th]; exact htr) (by rw [s.served_atBreakpoint]; exact hb)]
        exact ⟨rfl, (congrArg Thread.regs th :), rot⟩
      · intro a rest htr hp
        obtain ⟨st, trap, regs, traps⟩ := State.takeTurn_latches _ p t stop (by rw [th]; exact htr) rot hp
        exact ⟨st, trap, regs.trans (congrArg Thread.regs th :), traps⟩
    · have ann : 0 < ((s.served p t).thread p t).ann := by rw [th]; exact hann
      simp only [State.serve, if_pos ann]
      refine ⟨((s.served p t).pass_ann p t).trans (congrArg (Thread.ann · - 1) th :), fun free => ?_⟩
      obtain ⟨y, other⟩ := s.served_thread p t (pairOf t)
      exact ((s.served p t).pass_focus p t (by rw [other]; exact free)).trans (s.served_focus p t)

theorem selfAdvance : SelfAdvance := by
  intro p t s
  dsimp only
  constructor
  · intro h
    refine congrArg Host.Outcome.next (if_neg ?_)
    simp only [Bool.and_eq_true, decide_eq_true_eq]
    omega
  · intro h1 h2
    refine ⟨_, congrArg Host.Outcome.next (if_pos ?_), State.setThread_thread_same _ _ _ _⟩
    simp only [h1, h2, decide_true, Bool.and_self]

/-- Settles O43: a turn lets its cycles pass, chooses by R25, and what it takes touches no other thread of the core. -/
theorem turns : Obligations.Turns := by
  unfold Obligations.Turns
  exact ⟨slotTurns, selfAdvance⟩

end Sys2Proof.Machine
end

section

/-!
Registers that are wired, tokens and chain channels (R27, R28, R34, R163-R167, R258): the operations of R94 with their values, what delays
an issue, and what an issue does with the tokens and the chain queues that its registers stand for.
-/

open Sys2Proof Sys2Proof.Claims

namespace Sys2Proof.Machine

/-! ### The register operations of two operands (R94) -/

theorem ofNat_wrapBits (t : IFmt) (h : t.w = 64) (v : Int) : BitVec.ofNat 64 (t.wrapBits v) = BitVec.ofInt 64 v := by
  apply BitVec.eq_of_toNat_eq
  simp only [IFmt.wrapBits, h, BitVec.toNat_ofNat, BitVec.toNat_ofInt]
  omega

theorem i64_value (x : Word) : i64.value x.toNat = x.toInt := by
  have := x.isLt
  rw [BitVec.toInt_eq_toNat_cond, IFmt.value, Nat.mod_eq_of_lt (show x.toNat < 2 ^ i64.w from this)]
  by_cases h : 2 ^ 63 ≤ x.toNat
  · exact (if_pos (decide_eq_true h)).trans (if_neg (by omega)).symm
  · exact (if_neg fun e => h (of_decide_eq_true e)).trans (if_pos (by omega)).symm

theorem n64_value (x : Word) : n64.value x.toNat = x.toNat := by
  have := x.isLt
  simp only [IFmt.value, n64, Bool.false_and, Bool.false_eq_true, if_false]
  omega

theorem toInt_eq_zero (x : Word) : x.toInt = 0 ↔ x = 0 := by
  rw [← BitVec.toInt_inj]; rfl

/-- The signed quotient: the one that does not fit wraps to its dividend. -/
theorem ofNat_i64_div (x y : Word) :
    BitVec.ofNat 64 (i64.div x.toNat y.toNat).1 = if y = 0 then BitVec.allOnes 64 else BitVec.ofInt 64 (x.toInt.tdiv y.toInt) := by
  simp only [IFmt.div, i64_value, toInt_eq_zero]
  split
  · decide
  · split
    · rename_i h
      simp only [Bool.and_eq_true, beq_iff_eq] at h
      obtain ⟨⟨-, hx⟩, hy⟩ := h
      rw [ofNat_wrapBits i64 rfl, hx, hy]
      decide
    · exact ofNat_wrapBits i64 rfl _

theorem ofNat_n64_div (x y : Word) :
    BitVec.ofNat 64 (n64.div x.toNat y.toNat).1 = if y = 0 then BitVec.allOnes 64 else BitVec.ofNat 64 (x.toNat / y.toNat) := by
  have zero : (y.toNat : Int) = 0 ↔ y = 0 := by rw [Int.natCast_eq_zero, ← BitVec.toNat_inj]; rfl
  simp only [IFmt.div, n64_value, zero]
  split
  · decide
  · rw [if_neg (by simp [n64]), ofNat_wrapBits n64 rfl, ← Int.ofNat_tdiv]
    exact BitVec.ofInt_natCast _ _

theorem ofNat_i64_rem (x y : Word) :
    BitVec.ofNat 64 (i64.rem x.toNat y.toNat) = if y = 0 then x else BitVec.ofInt 64 (x.toInt.tmod y.toInt) := by
  simp only [IFmt.rem, i64_value, toInt_eq_zero]
  split
  · rw [ofNat_wrapBits i64 rfl, BitVec.ofInt_toInt]
  · exact ofNat_wrapBits i64 rfl _

theorem ofNat_n64_rem (x y : Word) :
    BitVec.ofNat 64 (n64.rem x.toNat y.toNat) = if y = 0 then x else BitVec.ofNat 64 (x.toNat % y.toNat) := by
  have zero : (y.toNat : Int) = 0 ↔ y = 0 := by rw [Int.natCast_eq_zero, ← BitVec.toNat_inj]; rfl
  simp only [IFmt.rem, n64_value, zero]
  split
  · rw [ofNat_wrapBits n64 rfl, BitVec.ofInt_natCast, BitVec.ofNat_toNat, BitVec.setWidth_eq]
  · rw [ofNat_wrapBits n64 rfl, ← Int.ofNat_tmod, BitVec.ofInt_natCast]

theorem shiftLeft_shamt (x y : Word) : x <<< shamt y = BitVec.ofNat 64 (x.toNat * 2 ^ (y.toNat % 64)) := by
  apply BitVec.eq_of_toNat_eq
  rw [BitVec.toNat_shiftLeft, Nat.shiftLeft_eq, BitVec.toNat_ofNat, shamt]

theorem ushiftRight_shamt (x y : Word) : x >>> shamt y = BitVec.ofNat 64 (x.toNat / 2 ^ (y.toNat % 64)) := by
  rw [← Nat.shiftRight_eq_div_pow, ← shamt, ← BitVec.toNat_ushiftRight, BitVec.ofNat_toNat, BitVec.setWidth_eq]

theorem sshiftRight_shamt (x y : Word) : x.sshiftRight (shamt y) = BitVec.ofInt 64 (x.toInt / 2 ^ (y.toNat % 64)) := by
  rw [← shamt, BitVec.sshiftRight]
  congr 1
  rw [Int.shiftRight_eq_div_pow]; norm_cast

theorem ite_slt (x y a b : Word) : (if x.slt y then a else b) = if x.toInt < y.toInt then a else b := by
  simp only [BitVec.slt, decide_eq_true_eq]

theorem ite_ult (x y a b : Word) : (if x.ult y then a else b) = if x.toNat < y.toNat then a else b := by
  simp only [BitVec.ult, decide_eq_true_eq]

theorem slt_min (x y : Word) : (if x.slt y then x else y) = if x.toInt ≤ y.toInt then x else y := by
  rw [ite_slt]
  split
  · rw [if_pos (by omega)]
  · split
    · exact (BitVec.eq_of_toInt_eq (by omega)).symm
    · rfl

theorem slt_max (x y : Word) : (if x.slt y then y else x) = if x.toInt ≤ y.toInt then y else x := by
  rw [ite_slt]
  split
  · rw [if_pos (by omega)]
  · split
    · exact (BitVec.eq_of_toInt_eq (by omega))
    · rfl

theorem ult_min (x y : Word) : (if x.ult y then x else y) = if x.toNat ≤ y.toNat then x else y := by
  rw [ite_ult]
  split
  · rw [if_pos (by omega)]
  · split
    · exact (BitVec.eq_of_toNat_eq (by omega)).symm
    · rfl

theorem ult_max (x y : Word) : (if x.ult y then y else x) = if x.toNat ≤ y.toNat then y else x := by
  rw [ite_ult]
  split
  · rw [if_pos (by omega)]
  · split
    · exact (BitVec.eq_of_toNat_eq (by omega))
    · rfl

theorem add_ofNat (x y : Word) : x + y = BitVec.ofNat 64 (x.toNat + y.toNat) := by
  rw [BitVec.ofNat_add, BitVec.ofNat_toNat, BitVec.ofNat_toNat, BitVec.setWidth_eq, BitVec.setWidth_eq]

theorem sub_ofInt (x y : Word) : x - y = BitVec.ofInt 64 (x.toInt - y.toInt) := by
  apply BitVec.eq_of_toInt_eq
  rw [BitVec.toInt_sub, BitVec.toInt_ofInt]

theorem mul_ofInt (x y : Word) : x * y = BitVec.ofInt 64 (x.toInt * y.toInt) := by
  rw [BitVec.ofInt_mul, BitVec.ofInt_toInt, BitVec.ofInt_toInt]

/-- An instruction form runs an operation of two register operands. -/
def runsAlu2 (row : (GReg → GReg → GReg → Instr) × (Word → Word → Word)) : Prop :=
  ∀ d a b s, exec (row.1 d a b) s = alu2 d a b row.2 s

theorem runsAlu2_of_eq {i : GReg → GReg → GReg → Instr} {f g : Word → Word → Word} (h : ∀ d a b s, exec (i d a b) s = alu2 d a b f s)
    (e : ∀ x y, f x y = g x y) : runsAlu2 (i, g) :=
  (funext fun x => funext (e x) : f = g) ▸ h

/-- Each row of the table of R94 gives the value of its operation. -/
theorem alu2s_run : ∀ row ∈ alu2s, runsAlu2 row := by
  unfold alu2s
  simp only [List.forall_mem_cons, List.not_mem_nil, false_imp_iff, implies_true, and_true]
  exact ⟨
    runsAlu2_of_eq (i := .add) (f := fun x y => x + y) (fun _ _ _ _ => rfl) add_ofNat,
    runsAlu2_of_eq (i := .sub) (f := fun x y => x - y) (fun _ _ _ _ => rfl) sub_ofInt,
    runsAlu2_of_eq (i := .and) (f := fun x y => x &&& y) (fun _ _ _ _ => rfl) fun _ _ => rfl,
    runsAlu2_of_eq (i := .or) (f := fun x y => x ||| y) (fun _ _ _ _ => rfl) fun _ _ => rfl,
    runsAlu2_of_eq (i := .xor) (f := fun x y => x ^^^ y) (fun _ _ _ _ => rfl) fun _ _ => rfl,
    runsAlu2_of_eq (i := .andn) (f := fun x y => x &&& ~~~ y) (fun _ _ _ _ => rfl) fun _ _ => rfl,
    runsAlu2_of_eq (i := .sll) (f := fun x y => x <<< shamt y) (fun _ _ _ _ => rfl) shiftLeft_shamt,
    runsAlu2_of_eq (i := .srl) (f := fun x y => x >>> shamt y) (fun _ _ _ _ => rfl) ushiftRight_shamt,
    runsAlu2_of_eq (i := .sra) (f := fun x y => x.sshiftRight (shamt y)) (fun _ _ _ _ => rfl) sshiftRight_shamt,
    runsAlu2_of_eq (i := .mul) (f := fun x y => x * y) (fun _ _ _ _ => rfl) mul_ofInt,
    runsAlu2_of_eq (i := .mulh) (f := fun x y => BitVec.ofInt 64 (x.toInt * y.toInt / 2 ^ 64)) (fun _ _ _ _ => rfl) fun _ _ => rfl,
    runsAlu2_of_eq (i := .mulhn) (f := fun x y => BitVec.ofNat 64 (x.toNat * y.toNat / 2 ^ 64)) (fun _ _ _ _ => rfl) fun _ _ => rfl,
    runsAlu2_of_eq (i := .div) (f := fun x y => BitVec.ofNat 64 (i64.div x.toNat y.toNat).1) (fun _ _ _ _ => rfl) ofNat_i64_div,
    runsAlu2_of_eq (i := .divn) (f := fun x y => BitVec.ofNat 64 (n64.div x.toNat y.toNat).1) (fun _ _ _ _ => rfl) ofNat_n64_div,
    runsAlu2_of_eq (i := .rem) (f := fun x y => BitVec.ofNat 64 (i64.rem x.toNat y.toNat)) (fun _ _ _ _ => rfl) ofNat_i64_rem,
    runsAlu2_of_eq (i := .remn) (f := fun x y => BitVec.ofNat 64 (n64.rem x.toNat y.toNat)) (fun _ _ _ _ => rfl) ofNat_n64_rem,
    runsAlu2_of_eq (i := .slt) (f := fun x y => boolW (x.slt y)) (fun _ _ _ _ => rfl) fun x y => ite_slt x y 1 0,
    runsAlu2_of_eq (i := .sltn) (f := fun x y => boolW (x.ult y)) (fun _ _ _ _ => rfl) fun x y => ite_ult x y 1 0,
    runsAlu2_of_eq (i := .min) (f := fun x y => if x.slt y then x else y) (fun _ _ _ _ => rfl) slt_min,
    runsAlu2_of_eq (i := .max) (f := fun x y => if x.slt y then y else x) (fun _ _ _ _ => rfl) slt_max,
    runsAlu2_of_eq (i := .minn) (f := fun x y => if x.ult y then x else y) (fun _ _ _ _ => rfl) ult_min,
    runsAlu2_of_eq (i := .maxn) (f := fun x y => if x.ult y then y else x) (fun _ _ _ _ => rfl) ult_max⟩

/-! ### Times (R17) -/

theorem maxW_toNat (a b : Word) : (maxW a b).toNat = max a.toNat b.toNat := by
  unfold maxW
  split <;> omega

theorem maxW_maxW_comm (a b c : Word) : maxW a (maxW b c) = maxW (maxW a c) b := by
  apply BitVec.eq_of_toNat_eq
  simp only [maxW_toNat]
  omega

/-! ### Registers as operands and results (R34, R165) -/

theorem putG_me (s : State) (d : GReg) (v : Word) :
    (putG s d v).me = { s.me with regs := { s.me.regs with g := (putG s d v).me.regs.g } } := by
  unfold putG
  split
  · rfl
  · rw [State.modMe_me]

/-- What a write leaves in the general registers depends on them, on the in-route and on the value alone. -/
theorem putG_g_congr {s u : State} (g : u.me.regs.g = s.me.regs.g) (chain : u.me.crs.inRoute = s.me.crs.inRoute) (d : GReg) (v : Word) :
    (putG u d v).me.regs.g = (putG s d v).me.regs.g := by
  unfold putG
  rw [chain]
  split
  · exact g
  · rw [State.modMe_me, State.modMe_me, g]

theorem putG_cur (s : State) (d : GReg) (v : Word) : (putG s d v).cur = s.cur := by
  unfold putG
  split <;> rfl

theorem putG_myCore_inQ (s : State) (d : GReg) (v : Word) (q : Nat) : (putG s d v).myCore.inQ q = s.myCore.inQ q := by
  unfold putG
  split
  · rfl
  · simp only [State.myCore, Core.inQ, State.modMe_cur, State.modMe_core_inq]

/-- A result that is not pushed to a chain is written. -/
theorem State.gw_eq_putG (s : State) (d : GReg) (v : Word) (h : d = 29 → s.me.crs.outRoute = none) : s.gw d v = putG s d v := by
  unfold putG
  by_cases h0 : d = 0
  · rw [if_pos (.inl h0), h0, State.gw_zero]
  · by_cases h28 : d = 28 ∧ s.me.crs.inRoute ≠ none
    · rw [if_pos (.inr h28), h28.1, s.gw_chain v h28.2]
    · rw [if_neg (by tauto), s.gw_plain d v h0 (fun e => by tauto) h]
      rfl

/-- What an operand reads depends on the general registers, the chain control and the in-route's queue alone. -/
theorem State.gr_congr {s u : State} (g : u.me.regs.g = s.me.regs.g) (chain : u.me.crs.chain = s.me.crs.chain)
    (inQ : ∀ q, u.myCore.inQ q = s.myCore.inQ q) (r : GReg) : u.gr r = s.gr r := by
  unfold State.gr
  simp only [Crs.inRoute, Crs.outRoute, chain, g, inQ]
  rfl

/-- The head of the in-route's queue. -/
theorem State.gr_chain (s : State) {q : Nat} {e : ChainEntry} {rest : List ChainEntry} (h : s.me.crs.inRoute = some q)
    (hq : s.myCore.inQ q = e :: rest) : s.gr 28 = e.val := by
  simp [State.gr, h, hq]

/-! ### What delays an issue (R27, R165, R167) -/

/-- No register of some has its token pending. -/
theorem find_pending_none {s : State} {rs : List GReg} (h : ∀ r ∈ rs, r ≠ 0 → s.me.pend.getLsbD r.val = false) :
    (rs.find? fun r : GReg => r != 0 && s.me.pend.getLsbD r.val) = none := by
  rw [List.find?_eq_none]
  intro r hr
  by_cases h0 : r = 0
  · simp [h0]
  · rw [h r hr h0]; simp

/-- The wait of an in-route that `g28` is read through, or the trap of a bad one. -/
theorem State.before_chainIn (s : State) (rd wr : List GReg) {q : Nat} (tokens : ∀ r ∈ rd ++ wr, r ≠ 0 → s.me.pend.getLsbD r.val = false)
    (hr : (28 : GReg) ∈ rd) (hq : s.me.crs.inRoute = some q)
    (pushes : (29 : GReg) ∈ wr → s.me.crs.outRoute = none) :
    s.before rd wr =
      if s.routeOk q false = false then some (.inl .event)
      else if bits (tget 0 s.myCore.routes q) 62 62 = 1 ∨ s.myCore.inQ q = [] then some (.inr (.chainIn q)) else none := by
  unfold State.before
  simp only [find_pending_none tokens, hq, List.contains_iff_mem.mpr hr, if_true, Bool.not_eq_true', Bool.or_eq_true, decide_eq_true_eq,
    List.isEmpty_iff]
  by_cases h29 : wr.contains 29 = true
  · rw [pushes (List.contains_iff_mem.mp h29), ite_self]
    split <;> exact Eq.symm ‹_›
  · rw [if_neg h29]
    split <;> exact Eq.symm ‹_›

/-- The wait of an out-route that `g29` is written through, or the trap of a bad one. -/
theorem State.before_chainOut (s : State) (rd wr : List GReg) {q : Nat} (tokens : ∀ r ∈ rd ++ wr, r ≠ 0 → s.me.pend.getLsbD r.val = false)
    (hr : (29 : GReg) ∈ wr) (hq : s.me.crs.outRoute = some q) (pops : (28 : GReg) ∈ rd → s.me.crs.inRoute = none) :
    s.before rd wr =
      if s.routeOk q true = false then some (.inl .event)
      else if bits (tget 0 s.myCore.routes q) 62 62 = 1 ∨ 8 ≤ tget 0 s.myCore.outRes q then some (.inr (.chainOut q)) else none := by
  unfold State.before
  simp only [find_pending_none tokens, hq, List.contains_iff_mem.mpr hr, if_true, Bool.not_eq_true', Bool.or_eq_true, decide_eq_true_eq]
  by_cases h28 : (28 : GReg) ∈ rd
  · rw [if_pos (List.contains_iff_mem.mpr h28), pops h28]
  · rw [if_neg (fun e => h28 (List.contains_iff_mem.mp e))]

theorem noTokens_pend {s : State} {rs : List GReg} (h : noTokens s rs) : ∀ r ∈ rs, r ≠ 0 → s.me.pend.getLsbD r.val = false :=
  fun r hr => (h r hr).1

theorem noTokens_toks {s : State} {rs : List GReg} (h : noTokens s rs) : s.me.toks.any (named rs) = false := by
  rw [List.any_eq_false]
  intro e he hn
  obtain ⟨r, hr, eq⟩ := List.any_eq_true.mp hn
  exact (h r hr).2 e he (beq_iff_eq.mp eq).symm

/-- An issue that nothing delays runs its body, its reservation made and its tokens used. -/
theorem State.issue_done (s : State) (rd wr : List GReg) (f : State → State) (h : s.before rd wr = none) :
    s.issue rd wr (fun s => .done (f s)) =
      (f ((s.reserve (if wr.contains 29 then s.me.crs.outRoute else none)).useTokens (rd ++ wr))).finish
        (if rd.contains 28 then s.me.crs.inRoute else none) (s.me.regs.pc + 4) := by
  unfold State.issue
  rw [h]

/-! ### The head of a chain is taken (R165) -/

theorem Thread.rejoin_frame (th : Thread) : th.rejoin.regs = th.regs ∧ th.rejoin.crs = th.crs ∧ th.rejoin.due = th.due := by
  unfold Thread.rejoin Thread.enter
  split
  · exact ⟨rfl, rfl, rfl⟩
  · dsimp only
    split <;> exact ⟨rfl, rfl, rfl⟩
  · exact ⟨rfl, rfl, rfl⟩

theorem Core.wake_thread (c : Core) (P : Wait → Bool) (h : P .none = false) (t : Nat) :
    (c.wake P).thread t = if P (c.thread t).wait then (c.thread t).rejoin else c.thread t := by
  unfold Core.wake Core.thread
  exact tget_map {} (fun th : Thread => if P th.wait then th.rejoin else th) (if_neg (by simp [h])) _ t

theorem State.wake_thread_frame (s : State) (q : Nat) (P : Wait → Bool) (h : P .none = false) (p t : Nat) :
    ((s.wake q P).thread p t).regs = (s.thread p t).regs ∧ ((s.wake q P).thread p t).crs = (s.thread p t).crs ∧
      ((s.wake q P).thread p t).due = (s.thread p t).due := by
  by_cases e : p = q
  · subst e
    rw [State.wake, State.thread, State.modCore_core_same, Core.wake_thread _ _ h]
    split
    · exact Thread.rejoin_frame _
    · exact ⟨rfl, rfl, rfl⟩
  · rw [State.wake, State.thread, State.modCore_core_ne _ _ _ _ e]
    exact ⟨rfl, rfl, rfl⟩

theorem State.wake_core_inQ (s : State) (q : Nat) (P : Wait → Bool) (p r : Nat) : ((s.wake q P).core p).inQ r = (s.core p).inQ r := by
  by_cases e : p = q
  · subst e
    rw [State.wake, State.modCore_core_same]; rfl
  · rw [State.wake, State.modCore_core_ne _ _ _ _ e]

/-- A reservation of route `r` of core `q` is given back. -/
def State.credit (s : State) (q r : Nat) : State :=
  (s.modCore q fun d => { d with outRes := tset d.outRes r (tget 0 d.outRes r - 1) }).wake q (· == .chainOut r)

/-- The head of in-route `q` goes to the thread, and the queue keeps the rest. -/
def State.takeHead (s : State) (p t q : Nat) (e : ChainEntry) (rest : List ChainEntry) : State :=
  ((s.setCore p { s.core p with inq := tset (s.core p).inq q rest }).delayBy p 104 e.hops).modThread p t fun th => th.raise e.rt

theorem State.pop_eq (s : State) (p t q : Nat) {e : ChainEntry} {rest : List ChainEntry} (h : (s.core p).inQ q = e :: rest) :
    s.pop p t q = s.takeHead p t q e rest ∨ ∃ k r, s.pop p t q = (s.takeHead p t q e rest).credit k r := by
  unfold State.pop
  simp only [h]
  split
  · exact .inl rfl
  · exact .inr ⟨_, _, rfl⟩

theorem State.credit_frame (s : State) (k r p t : Nat) :
    (s.credit k r).cur = s.cur ∧ (∀ q, ((s.credit k r).core p).inQ q = (s.core p).inQ q) ∧
      ((s.credit k r).thread p t).regs = (s.thread p t).regs ∧ ((s.credit k r).thread p t).crs = (s.thread p t).crs ∧
      ((s.credit k r).thread p t).due = (s.thread p t).due := by
  let lent : State := s.modCore k fun d => { d with outRes := tset d.outRes r (tget 0 d.outRes r - 1) }
  have core : (∀ q, (lent.core p).inQ q = (s.core p).inQ q) ∧ lent.thread p t = s.thread p t := by
    by_cases e : p = k
    · subst e
      rw [State.thread, State.modCore_core_same]
      exact ⟨fun _ => rfl, rfl⟩
    · rw [State.thread, State.modCore_core_ne _ _ _ _ e]
      exact ⟨fun _ => rfl, rfl⟩
  obtain ⟨inQ, thread⟩ := core
  obtain ⟨regs, crs, due⟩ := lent.wake_thread_frame k (· == .chainOut r) rfl p t
  rw [thread] at regs crs due
  exact ⟨rfl, fun q => (lent.wake_core_inQ k _ p q).trans (inQ q), regs, crs, due⟩

theorem State.takeHead_frame (s : State) (p t q : Nat) (e : ChainEntry) (rest : List ChainEntry) :
    (s.takeHead p t q e rest).cur = s.cur ∧ ((s.takeHead p t q e rest).core p).inQ q = rest ∧
      (s.takeHead p t q e rest).thread p t = (s.thread p t).raise e.rt := by
  unfold State.takeHead
  refine ⟨rfl, ?_, ?_⟩
  · simp only [Core.inQ, State.modThread, State.setThread_core_inq, State.delayBy, State.modCore_core_same, State.setCore_core_same,
      Core.addDelay, tget_tset_same]
  · rw [State.modThread_thread_same, State.thread, State.delayBy, State.modCore_core_same, State.setCore_core_same]
    rfl

/-- The entry goes to the thread: its time raises `ptime`, and the queue is left with the rest. -/
theorem State.pop_frame (s : State) (p t q : Nat) {e : ChainEntry} {rest : List ChainEntry} (h : (s.core p).inQ q = e :: rest) :
    (s.pop p t q).cur = s.cur ∧ ((s.pop p t q).core p).inQ q = rest ∧ ((s.pop p t q).thread p t).regs = (s.thread p t).regs ∧
      ((s.pop p t q).thread p t).crs.ptime = maxW (s.thread p t).crs.ptime e.rt ∧ ((s.pop p t q).thread p t).due = (s.thread p t).due := by
  obtain ⟨cur, inQ, thread⟩ := s.takeHead_frame p t q e rest
  obtain eq | ⟨k, r, eq⟩ := s.pop_eq p t q h
  · rw [eq, thread]
    exact ⟨cur, inQ, rfl, rfl, rfl⟩
  · obtain ⟨cur', inQ', regs, crs, due⟩ := (s.takeHead p t q e rest).credit_frame k r p t
    rw [thread] at regs crs due
    rw [eq]
    exact ⟨cur'.trans cur, (inQ' q).trans inQ, regs, congrArg Crs.ptime crs, due⟩

/-! ### The statements -/

theorem hardwiredRegisters : HardwiredRegisters := by
  intro s v
  refine ⟨s.gr_zero, s.gw_zero v, s.mr_zero, s.mw_zero v, s.hr_zero, s.hw_zero v, fun r h0 h28 h29 => ⟨?_, ?_⟩⟩
  · simp [State.gr, h0, h28, h29]
  · rw [s.gw_plain r v h0 (fun e => absurd e h28) (fun e => absurd e h29), State.modMe_me]
    rfl

/-- An issue that names a register whose token is pending is held. -/
theorem State.issue_held (s : State) (rd wr : List GReg) (f : State → Ends) (h : tokenPending s (rd ++ wr)) :
    ∃ r ∈ rd ++ wr, r ≠ 0 ∧ s.me.pend.getLsbD r.val = true ∧ s.issue rd wr f = held s (.token r.val) := by
  obtain ⟨r, hr, h0, hp⟩ := h
  obtain ⟨q, hq, q0, qp, wait⟩ := s.before_token rd wr r hr h0 hp
  exact ⟨q, hq, q0, qp, s.issue_token rd wr f _ wait⟩

theorem tokenWait : TokenWait := by
  constructor
  · intro row hrow d a b s h
    obtain ⟨r, hr, h0, hp, eq⟩ := s.issue_held [a, b] [d] (fun s => .done (s.gw d (row.2 (s.gr a) (s.gr b)))) h
    exact ⟨r, hr, h0, hp, (alu2s_run row hrow d a b s).trans (congrArg Host.Outcome.next eq)⟩
  · intro d a sz imm s h
    constructor
    · obtain ⟨r, hr, h0, hp, eq⟩ := s.issue_held [a] [d] _ h
      exact ⟨r, hr, h0, hp, congrArg Host.Outcome.next eq⟩
    · obtain ⟨r, hr, h0, hp, eq⟩ := s.issue_held [a, d] [] _ h
      exact ⟨r, hr, h0, hp, congrArg Host.Outcome.next eq⟩

theorem contains_route {l : List GReg} {r : GReg} {x : Option Nat} (h : r ∈ l → x = none) : (if l.contains r then x else none) = none := by
  by_cases m : r ∈ l
  · rw [h m, ite_self]
  · rw [if_neg fun e => m (List.contains_iff_mem.mp e)]

/-- An operation of R94 that nothing delays: it writes its value and finishes. -/
theorem exec_alu2 {row : (GReg → GReg → GReg → Instr) × (Word → Word → Word)} (hrow : row ∈ alu2s) (d a b : GReg) (s : State)
    (h : s.before [a, b] [d] = none) :
    exec (row.1 d a b) s =
      let u := (s.reserve (if [d].contains 29 then s.me.crs.outRoute else none)).useTokens [a, b, d]
      .next ((u.gw d (row.2 (u.gr a) (u.gr b))).finish (if [a, b].contains 28 then s.me.crs.inRoute else none) (s.me.regs.pc + 4)) :=
  (alu2s_run row hrow d a b s).trans
    (congrArg Host.Outcome.next (s.issue_done [a, b] [d] (fun s => s.gw d (row.2 (s.gr a) (s.gr b))) h))

/-- Using tokens changes no register of a thread, no control register and no queue. -/
theorem State.useTokens_frame (s : State) (rs : List GReg) :
    (s.useTokens rs).cur = s.cur ∧ (s.useTokens rs).me.regs = s.me.regs ∧ (s.useTokens rs).me.crs = s.me.crs ∧
      ∀ q, (s.useTokens rs).myCore.inQ q = s.myCore.inQ q := by
  unfold State.useTokens
  split
  · rw [State.modMe_me]
    refine ⟨rfl, rfl, rfl, fun q => ?_⟩
    simp only [State.myCore, Core.inQ, State.modMe_cur, State.modMe_core_inq]
  · exact ⟨rfl, rfl, rfl, fun _ => rfl⟩

/-- The operation whose result goes to no chain. -/
theorem exec_alu2_writes {row : (GReg → GReg → GReg → Instr) × (Word → Word → Word)} (hrow : row ∈ alu2s) (d a b : GReg) (s : State)
    (h : s.before [a, b] [d] = none) (pushes : d = 29 → s.me.crs.outRoute = none) :
    exec (row.1 d a b) s = .next ((putG (s.useTokens [a, b, d]) d (row.2 (s.gr a) (s.gr b))).finish
      (if [a, b].contains 28 then s.me.crs.inRoute else none) (s.me.regs.pc + 4)) := by
  obtain ⟨-, regs, crs, inQ⟩ := s.useTokens_frame [a, b, d]
  have gr (r : GReg) : (s.useTokens [a, b, d]).gr r = s.gr r := State.gr_congr (by rw [regs]) (by rw [crs]) inQ r
  rw [exec_alu2 hrow d a b s h, contains_route fun h => pushes (List.mem_singleton.mp h).symm]
  simp only [State.reserve, gr, State.gw_eq_putG _ d _ (fun e => crs ▸ pushes e)]

/-- The thread in hand once an instruction that has read no chain is complete. -/
theorem State.finish_none_me (s : State) (pc : BitVec 56) :
    (s.finish none pc).me = { s.me.pay with latch := {}, regs := { s.me.regs with pc := pc } } := by
  rw [State.finish_none, State.modMe_me]

/-- What the thread in hand has once an instruction that has read a chain is complete. -/
theorem State.finish_some (s : State) (pc : BitVec 56) {q : Nat} {e : ChainEntry} {rest : List ChainEntry}
    (h : s.myCore.inQ q = e :: rest) :
    (s.finish (some q) pc).me.regs = { s.me.regs with pc := pc } ∧
      (s.finish (some q) pc).me.crs.ptime = maxW (maxW s.me.crs.ptime e.rt) s.me.due ∧ (s.finish (some q) pc).myCore.inQ q = rest := by
  obtain ⟨cur, inQ, regs, ptime, due⟩ := s.pop_frame s.cur.core s.cur.thr q h
  unfold State.finish
  dsimp only
  generalize s.pop s.cur.core s.cur.thr q = u at cur inQ regs ptime due
  have me : u.me = u.thread s.cur.core s.cur.thr := by rw [State.me, cur]
  rw [← me] at regs ptime due
  rw [State.modMe_me]
  refine ⟨?_, ?_, ?_⟩
  · change { u.me.regs with pc := pc } = _
    rw [regs]; rfl
  · change maxW u.me.crs.ptime u.me.due = _
    rw [ptime, due]; rfl
  · simpa only [State.myCore, Core.inQ, State.modMe_cur, cur, State.modMe_core_inq] using inQ

theorem tokenAccess : TokenAccess := by
  intro row hrow d a b s rs mine hp hm pops pushes
  have pend (r : GReg) (hr : r ∈ rs) (h0 : r ≠ 0) : s.me.pend.getLsbD r.val = false :=
    Bool.eq_false_iff.mpr fun e => hp ⟨r, hr, h0, e⟩
  have pushes' : (29 : GReg) ∈ [d] → s.me.crs.outRoute = none := fun h => pushes (List.mem_singleton.mp h).symm
  have any : s.me.toks.any (named rs) = true := by
    obtain ⟨e, he⟩ := List.exists_mem_of_ne_nil _ hm
    obtain ⟨hin, hn⟩ := List.mem_filter.mp he
    exact List.any_eq_true.mpr ⟨e, hin, hn⟩
  have used : (s.useTokens rs).me = s.me.useTokens rs := by rw [State.useTokens, if_pos any, State.modMe_me]
  have run := exec_alu2_writes hrow d a b s (s.before_none [a, b] [d] pend pops pushes') pushes
  rw [contains_route pops] at run
  refine ⟨_, run, ?_⟩
  rw [State.finish_none_me, putG_me, putG_g_congr (s := s) (by rw [used]; rfl) (by rw [used]; rfl), used]
  exact ⟨rfl, rfl, rfl, maxW_maxW_comm _ _ _⟩

theorem chainRead : ChainRead := by
  intro row hrow d b s q tokens hq pushes
  have pushes' : (29 : GReg) ∈ [d] → s.me.crs.outRoute = none := fun h => pushes (List.mem_singleton.mp h).symm
  have before := s.before_chainIn [28, b] [d] (noTokens_pend tokens) List.mem_cons_self hq pushes'
  have run := alu2s_run row hrow d 28 b s
  refine ⟨fun bad => ?_, fun ok => ⟨fun wait => ?_, fun e rest free head => ?_⟩⟩
  · rw [run]
    exact congrArg Host.Outcome.next (s.issue_trap _ _ _ _ (before.trans (if_pos bad)))
  · rw [run]
    exact congrArg Host.Outcome.next (s.issue_token _ _ _ _ (before.trans ((if_neg (by simp [ok])).trans (if_pos wait))))
  · have none : s.before [28, b] [d] = none := before.trans ((if_neg (by simp [ok])).trans (if_neg (not_or.mpr ⟨by rw [free]; decide, by simp [head]⟩)))
    have done := exec_alu2_writes hrow d 28 b s none pushes
    rw [s.useTokens_none [28, b, d] (noTokens_toks tokens), if_pos (by simp), hq] at done
    refine ⟨_, done, ?_⟩
    have head' : (putG s d (row.2 (s.gr 28) (s.gr b))).myCore.inQ q = e :: rest := (putG_myCore_inQ _ _ _ _).trans head
    obtain ⟨regs, ptime, inQ⟩ := State.finish_some _ (s.me.regs.pc + 4) head'
    have value : s.gr b = if b = 28 then e.val else s.gr b := by
      split
      · rw [‹b = 28›, s.gr_chain hq head]
      · rfl
    rw [regs, ptime, inQ, ← value, ← s.gr_chain hq head]
    refine ⟨rfl, rfl, ?_, rfl⟩
    rw [putG_me]

/-! ### A result goes to a chain (R165, R258) -/

/-- With no store open, and none waiting for its turn, a result of the thread in hand leaves at once. -/
theorem State.gw_push (s : State) (v : Word) {q : Nat} (hq : s.me.crs.outRoute = some q)
    (settled : ∀ e ∈ s.myCore.journal, e.2.busy = false) (free : s.myCore.outWait = []) :
    ∃ m, (s.gw 29 v).cores = s.cores ∧ (s.gw 29 v).cur = s.cur ∧ (s.gw 29 v).net = s.net ++ [m] ∧
      m.dst = .core (bits (tget 0 s.myCore.routes q) 18 4) ∧
      m.body = .chain (bits (tget 0 s.myCore.routes q) 23 20) ⟨v, s.me.rt, s.chainHops s.cur.core (bits (tget 0 s.myCore.routes q) 18 4)⟩ := by
  have leaves : ((s.core s.cur.core).settled s.cur.thr && !((s.core s.cur.core).outWait.any fun x => x.1 == q)) = true := by
    have all : (s.core s.cur.core).settled s.cur.thr = true := List.all_eq_true.mpr fun e he => by simp [settled e he]
    rw [all, show (s.core s.cur.core).outWait = [] from free]; rfl
  have push : s.gw 29 v = s.push s.cur.core s.cur.thr q v := by simp [State.gw, hq]
  rw [push.trans (if_pos leaves)]
  exact ⟨_, rfl, rfl, rfl, rfl, rfl⟩

theorem chainWrite : ChainWrite := by
  intro row hrow a b s q tokens hq pops
  have before := s.before_chainOut [a, b] [29] (noTokens_pend tokens) List.mem_cons_self hq pops
  have run := alu2s_run row hrow 29 a b s
  refine ⟨fun bad => ?_, fun ok => ⟨fun wait => ?_, fun free room settled idle => ?_⟩⟩
  · rw [run]
    exact congrArg Host.Outcome.next (s.issue_trap _ _ _ _ (before.trans (if_pos bad)))
  · rw [run]
    exact congrArg Host.Outcome.next (s.issue_token _ _ _ _ (before.trans ((if_neg (by simp [ok])).trans (if_pos wait))))
  · have none : s.before [a, b] [29] = none :=
      before.trans ((if_neg (by simp [ok])).trans (if_neg (not_or.mpr ⟨by rw [free]; decide, Nat.not_le.mpr room⟩)))
    let u : State := s.reserve (some q)
    have core : u.myCore = { s.myCore with outRes := tset s.myCore.outRes q (tget 0 s.myCore.outRes q + 1) } :=
      State.modCore_core_same _ _ _
    have me : u.me = s.me := by
      change u.myCore.thread s.cur.thr = s.myCore.thread s.cur.thr
      rw [core]; rfl
    have gr (r : GReg) : u.gr r = s.gr r := State.gr_congr (by rw [me]) (by rw [me]) (fun _ => by rw [core]; rfl) r
    have done := exec_alu2 hrow 29 a b s none
    rw [if_pos (by simp), hq, contains_route pops, u.useTokens_none [a, b, 29] (by rw [me]; exact (noTokens_toks tokens))] at done
    simp only [gr] at done
    have idle' : u.myCore.outWait = [] := by rw [core]; exact idle
    have settled' : ∀ e ∈ u.myCore.journal, e.2.busy = false := by rw [core]; exact settled
    obtain ⟨m, cores, cur, net, dst, body⟩ := u.gw_push (row.2 (s.gr a) (s.gr b)) (by rw [me]; exact hq) settled' idle'
    have me' : (u.gw 29 (row.2 (s.gr a) (s.gr b))).me = s.me := by
      rw [← me, State.me, State.thread, State.core, cores, cur]; rfl
    have core' : (u.gw 29 (row.2 (s.gr a) (s.gr b))).myCore = u.myCore := by
      rw [State.myCore, State.core, cores, cur]; rfl
    have routes : u.myCore.routes = s.myCore.routes := by rw [core]
    refine ⟨_, done, ?_, ?_, ?_, m, net, ?_, ?_⟩
    · rw [State.finish_none_me]
    · rw [State.finish_none_me, me']
    · rw [State.finish_none, State.myCore, State.modMe_core_outRes]
      change tget 0 (u.gw 29 (row.2 (s.gr a) (s.gr b))).myCore.outRes q = _
      rw [core', core]
      exact tget_tset_same _ _ _ _
    · rw [dst, routes]
    · rw [body, routes, me]; rfl

/-- Settles O10: what delays an issue is decided before it, and a completed one has used its tokens and its chain heads. -/
theorem hardwiredAndChains : Obligations.HardwiredAndChains := by
  unfold Obligations.HardwiredAndChains
  exact ⟨hardwiredRegisters, tokenWait, tokenAccess, chainRead, chainWrite⟩

end Sys2Proof.Machine
end

section

/-!
Machine checks and pre-emption with a fault record undelivered (R328, R338, R333): a kernel that is aborted while its fault event occurs, and
a party has not been sent its acknowledgement, has that record brought to the host ring too. Both statements say of the context's ring that
it gains one record, kind 18, from hypotheses that look at the records under way and at those that wait at a home, and not at those of an event
that occurs.
-/

open Sys2Proof Sys2Proof.Claims

namespace Sys2Proof.Machine

/-! ### A state with a fault record undelivered -/

/-- The fault event of context 0. -/
def faultKey : EvKey := ⟨5, 0, 0⟩

/-- An engine's offer of a fault record of kernel 0, slot 0. -/
def faultOffer : Offer := { key := faultKey, index := 0, ctl := recordCtl, rt := 0, who := .engine, fault := some (0, 0, 0) }

/-- Kernel 0, running in context 0 with its fault records going to its fault event. -/
def faultKernel : Kernel := { st := .running, ctx := 0, launch := 0 }

/-- Core 0 runs a thread of the kernel, moving or not; the kernel's fault event occurs, its party thread 1 still unacknowledged. -/
def undeliveredState (moveTo : Option Nat) : State :=
  { cores := [(0, { threads := [(0, { st := .inRot })], slot := some 0, moveTo := moveTo })]
    kernels := [(0, faultKernel)]
    bugles := [(3, { evs := [{ key := faultKey, age := 0, st := .occurring [faultOffer] [] [] [1] }] })] }

theorem undelivered_faultsReceived (m : Option Nat) : faultsReceived (undeliveredState m) 0 faultKernel := by
  constructor
  · intro b hb
    obtain rfl := List.mem_singleton.mp hb
    exact fun o ho => nomatch ho
  · exact fun m hm => nomatch hm

theorem undelivered_thread (m : Option Nat) (t : Nat) : ((undeliveredState m).thread 0 t).cell.st ≠ .claimed := by
  rw [show (undeliveredState m).thread 0 t = if 0 = t then { st := .inRot } else {} from rfl]
  split <;> decide

/-- A ring that gains two records has not gained one. -/
theorem not_ringTold_of_two {s u : State} {c kind : Nat} (h : (u.ctx c).recs.length = (s.ctx c).recs.length + 2) : ¬ ringTold s u c kind := by
  rintro ⟨r, eq, -⟩
  rw [eq, List.length_append] at h
  simp at h

/-! ### The machine check of a core -/

theorem machineCheck_twoRecords :
    ∃ u, exec (.machineCheck (.coreState 0)) (undeliveredState none) = .next u ∧ (u.ctx 0).recs.length = 2 :=
  ⟨_, rfl, by decide +kernel⟩

/-- Refutes O54: core 0 of `undeliveredState none` has a machine check, and its context's ring gains the undelivered fault record besides the
record of kind 18. -/
theorem not_debugAndChecks : ¬ Obligations.DebugAndChecks := by
  unfold Obligations.DebugAndChecks
  rintro ⟨-, cores, -⟩
  obtain ⟨-, check⟩ := cores 0 0 faultKernel (undeliveredState none)
  obtain ⟨v, run, -, -, told⟩ := check rfl rfl rfl rfl rfl ⟨by decide, by decide⟩ (by decide) (undelivered_faultsReceived none)
    (undelivered_thread none)
  obtain ⟨u, run', two⟩ := machineCheck_twoRecords
  obtain rfl : u = v := Host.Outcome.next.inj (run'.symm.trans run)
  exact not_ringTold_of_two two told

/-! ### The failure of a core's move -/

/-- No die serves, so no core receives. -/
theorem undelivered_canReceive (m : Option Nat) (d : Nat) : (undeliveredState m).canReceive d = false := by
  have st : ((undeliveredState m).die (dieOf d)).st = .reset := rfl
  simp [State.canReceive, st]

/-- A move that fails while no core can receive: the core is lost. -/
theorem exec_streamFailure_lost {s : State} {p q l : Nat} (hm : (s.core p).moveTo = some q) (hl : s.logical p = some l)
    (h : ∀ d, s.canReceive d = false) :
    exec (.preemptionStreamFailure p none) s = .next ((s.lostCore p).endMove l (s.core p).moveCmd true) := by
  change Host.Outcome.next _ = _
  simp only [hm, hl, h, Bool.and_false]
  exact congrArg Host.Outcome.next (if_neg (by simp))

theorem streamFailure_twoRecords :
    ∃ u, exec (.preemptionStreamFailure 0 none) (undeliveredState (some 1)) = .next u ∧ (u.ctx 0).recs.length = 2 :=
  ⟨_, exec_streamFailure_lost (q := 1) (l := 0) rfl (by decide +kernel) (undelivered_canReceive _), by decide +kernel⟩

/-- Refutes O55: core 0 of `undeliveredState (some 1)` moves, the move fails and no core is FREE, and its context's ring gains the undelivered
fault record besides the record of kind 18. -/
theorem not_coreMoves : ¬ Obligations.CoreMoves := by
  unfold Obligations.CoreMoves
  rintro ⟨⟨-, -, -, -, lost, -⟩, -⟩
  obtain ⟨v, run, -, -, told⟩ := lost 0 1 0 faultKernel (undeliveredState (some 1)) rfl rfl (by decide +kernel) (by decide +kernel)
    (fun d _ _ => undelivered_canReceive _ d) rfl rfl ⟨by decide, by decide⟩ (by decide) (undelivered_faultsReceived _)
    (undelivered_thread _)
  obtain ⟨u, run', two⟩ := streamFailure_twoRecords
  obtain rfl : u = v := Host.Outcome.next.inj (run'.symm.trans run)
  exact not_ringTold_of_two two told

end Sys2Proof.Machine
end

section

/-!
Roundings (R43-R48). The encodings of one sign are numbered upward from its zero: `Fmt.gridMag f c` is the magnitude of number `c` by R44 as if
the exponent range were unbounded (R46), and `Fmt.limit f` is the first number that is not finite. A rounding takes a number of that grid,
and overflow and underflow are read off the number taken (`Fmt.round_eq_answer`).
-/

open Sys2Proof Sys2Proof.Claims

namespace Sys2Proof.Machine

/-! ### Magnitudes `m * 2 ^ e` -/

@[simp] theorem mag_zero (e : Int) : mag 0 e = 0 := by simp [mag]

theorem mag_nonneg (m : Nat) (e : Int) : 0 ≤ mag m e := by unfold mag; positivity

theorem mag_le {m n : Nat} {e : Int} : mag m e ≤ mag n e ↔ m ≤ n := by
  unfold mag; rw [mul_le_mul_iff_left₀ (by positivity), Nat.cast_le]

theorem mag_lt {m n : Nat} {e : Int} : mag m e < mag n e ↔ m < n := not_iff_not.mp (by rw [not_lt, not_lt, mag_le])

theorem mag_inj {m n : Nat} {e : Int} : mag m e = mag n e ↔ m = n := by simp only [le_antisymm_iff, mag_le]

theorem mag_eq_zero {m : Nat} {e : Int} : mag m e = 0 ↔ m = 0 := by rw [← mag_zero e, mag_inj]

theorem mag_succ_sub (m : Nat) (e : Int) : mag (m + 1) e - mag m e = 2 ^ e := by unfold mag; push_cast; ring

theorem mag_pow_mul (m k : Nat) (e : Int) : mag (m * 2 ^ k) e = mag m (e + k) := by
  simp only [mag, Nat.cast_mul, Nat.cast_pow, Nat.cast_ofNat, zpow_add₀ (two_ne_zero (α := ℚ)), zpow_natCast]; ring

theorem mag_pow (k : Nat) (e : Int) : mag (2 ^ k) e = 2 ^ (e + k) := by
  simpa [mag] using mag_pow_mul 1 k e

theorem two_zpow_le_mag {m : Nat} (h : m ≠ 0) (e : Int) : (2 : ℚ) ^ ((Nat.log2 m : Int) + e) ≤ mag m e := by
  rw [add_comm, ← mag_pow, mag_le]; exact Nat.log2_self_le h

theorem mag_lt_two_zpow (m : Nat) (e : Int) : mag m e < (2 : ℚ) ^ ((Nat.log2 m : Int) + e + 1) := by
  rw [show (Nat.log2 m : Int) + e + 1 = e + ((Nat.log2 m + 1 : Nat) : Int) by push_cast; ring, ← mag_pow, mag_lt]
  exact Nat.lt_log2_self

theorem mul_two_pow_even (n : Nat) {k : Nat} (h : 0 < k) : n * 2 ^ k % 2 = 0 := by
  obtain ⟨j, rfl⟩ := Nat.exists_eq_succ_of_ne_zero h.ne'
  rw [pow_succ, ← mul_assoc, Nat.mul_mod_left]

/-! ### The choice between two neighbours, and a rounding to a grid (R46) -/

/-- Of the neighbours `a`, numbered `n`, and `b`, numbered `n + 1`, about `v`, `c` numbers the one a rounding takes. -/
def Chooses (rtz : Bool) (a v b : ℚ) (n c : Nat) : Prop :=
  a ≤ v ∧ v < b ∧ ((c = n ∧ (rtz = false → v - a ≤ b - v ∧ (v - a = b - v → n % 2 = 0))) ∨
    (c = n + 1 ∧ rtz = false ∧ b - v ≤ v - a ∧ (b - v = v - a → n % 2 = 1)))

/-- `c` numbers the value of the ascending grid `g` that a rounding of `v` takes. -/
def Rounds (g : Nat → ℚ) (rtz : Bool) (v : ℚ) (c : Nat) : Prop :=
  ∀ c', if rtz then g c ≤ v ∧ (g c' ≤ v → g c' ≤ g c)
    else |g c - v| ≤ |g c' - v| ∧ (|g c - v| = |g c' - v| → c' ≠ c → c % 2 = 0)

theorem nearer_upper_iff {a b v : ℚ} (h : a < b) : |b - v| ≤ |a - v| ↔ a + (b - a) / 2 ≤ v := by
  rw [← sq_le_sq]
  constructor <;> intro <;> nlinarith

theorem nearer_lower_iff {a b v : ℚ} (h : a < b) : |a - v| ≤ |b - v| ↔ v ≤ a + (b - a) / 2 := by
  rw [← sq_le_sq]
  constructor <;> intro <;> nlinarith

theorem Chooses.add_even {rtz : Bool} {a v b : ℚ} {n c t : Nat} (h : Chooses rtz a v b n c) (ht : t % 2 = 0) :
    Chooses rtz a v b (t + n) (t + c) := by
  obtain ⟨ha, hb, ⟨hc, h⟩ | ⟨hc, hr, h, tie⟩⟩ := h
  · exact ⟨ha, hb, .inl ⟨by omega, fun hr => ⟨(h hr).1, fun e => by have := (h hr).2 e; omega⟩⟩⟩
  · exact ⟨ha, hb, .inr ⟨by omega, hr, h, fun e => by have := tie e; omega⟩⟩

section
variable {g : Nat → ℚ} {v : ℚ} {rtz : Bool} {c : Nat}

theorem Rounds.towardZero (h : Rounds g true v c) (c' : Nat) : g c ≤ v ∧ (g c' ≤ v → g c' ≤ g c) := by simpa using h c'

theorem Rounds.nearest (h : Rounds g false v c) (c' : Nat) :
    |g c - v| ≤ |g c' - v| ∧ (|g c - v| = |g c' - v| → c' ≠ c → c % 2 = 0) := by simpa using h c'

/-- The neighbour chosen is the rounding among all values of the grid. -/
theorem Chooses.rounds {n : Nat} (hg : StrictMono g) (h : Chooses rtz (g n) v (g (n + 1)) n c) : Rounds g rtz v c := by
  obtain ⟨ha, hb, pick⟩ := h
  intro c'
  have sides : (c' ≤ n ∧ g c' ≤ g n ∧ (g c' = g n → c' = n)) ∨ (n + 1 ≤ c' ∧ g (n + 1) ≤ g c' ∧ (g c' = g (n + 1) → c' = n + 1)) := by
    rcases Nat.lt_or_ge n c' with hc | hc
    · exact .inr ⟨hc, hg.monotone hc, fun e => hg.injective e⟩
    · exact .inl ⟨hc, hg.monotone hc, fun e => hg.injective e⟩
  cases rtz with
  | true =>
    obtain rfl : c = n := by simpa using pick
    simp only [if_true]
    refine ⟨ha, fun hv => ?_⟩
    rcases sides with ⟨-, h, -⟩ | ⟨-, h, -⟩
    · exact h
    · linarith
  | false =>
    simp only [Bool.false_eq_true, if_false, forall_const, true_and] at pick ⊢
    have below : |g n - v| = v - g n := by rw [abs_sub_comm, abs_of_nonneg (by linarith)]
    have above : |g (n + 1) - v| = g (n + 1) - v := abs_of_nonneg (by linarith)
    rcases sides with ⟨-, h, eq⟩ | ⟨-, h, eq⟩
    · have dist : |g c' - v| = v - g c' := by rw [abs_sub_comm, abs_of_nonneg (by linarith)]
      rcases pick with ⟨rfl, near, tie⟩ | ⟨rfl, near, tie⟩
      · rw [below, dist]
        exact ⟨by linarith, fun e ne => absurd (eq (by linarith)) ne⟩
      · rw [above, dist]
        exact ⟨by linarith, fun e _ => by have := tie (by linarith); omega⟩
    · have dist : |g c' - v| = g c' - v := abs_of_nonneg (by linarith)
      rcases pick with ⟨rfl, near, tie⟩ | ⟨rfl, near, tie⟩
      · rw [below, dist]
        exact ⟨by linarith, fun e _ => tie (by linarith)⟩
      · rw [above, dist]
        exact ⟨by linarith, fun e ne => absurd (eq (by linarith)) ne⟩

/-- A value that stands in the grid is its own rounding. -/
theorem Rounds.self (hg : StrictMono g) (n : Nat) : Rounds g rtz (g n) n :=
  Chooses.rounds hg (n := n) ⟨le_rfl, hg n.lt_succ_self, .inl ⟨rfl, fun _ => by
    have := hg n.lt_succ_self
    exact ⟨by linarith, fun e => by linarith⟩⟩⟩

/-- A rounding to nearest goes above number `l` from the midpoint on, and from the midpoint itself only when `l` is odd. -/
theorem Rounds.midpoint_le (hg : StrictMono g) (h : Rounds g false v c) {l : Nat} (hl : l < c) :
    g l + (g (l + 1) - g l) / 2 ≤ v ∧ (g l + (g (l + 1) - g l) / 2 = v → l % 2 = 1) := by
  have next : g (l + 1) ≤ g c := hg.monotone hl
  obtain ⟨near, tie⟩ := h.nearest l
  have past := (nearer_upper_iff (hg hl)).mp near
  refine ⟨by linarith, fun e => ?_⟩
  obtain rfl : c = l + 1 := hg.injective (by linarith)
  have := tie (near.antisymm ((nearer_lower_iff (hg hl)).mpr e.ge)) (by omega)
  omega

/-- A rounding to nearest stays at or below number `l` up to the midpoint, and at the midpoint itself only when `l` is even. -/
theorem Rounds.le_midpoint (hg : StrictMono g) (h : Rounds g false v c) {l : Nat} (hl : c ≤ l) :
    v ≤ g l + (g (l + 1) - g l) / 2 ∧ (v = g l + (g (l + 1) - g l) / 2 → l % 2 = 0) := by
  have prev : g c ≤ g l := hg.monotone hl
  have step := hg (Nat.lt_succ_of_le hl)
  obtain ⟨near, tie⟩ := h.nearest (l + 1)
  have short := (nearer_lower_iff step).mp near
  refine ⟨by linarith, fun e => ?_⟩
  obtain rfl : c = l := hg.injective (by linarith)
  exact tie (near.antisymm ((nearer_upper_iff step).mpr e.ge)) (by omega)

/-- Which magnitudes a rounding takes past number `l` (R47): toward zero those that reach number `l + 1`; to nearest those past the midpoint,
and the midpoint itself when `l` is odd. -/
theorem Rounds.lt_iff (hg : StrictMono g) (h : Rounds g rtz v c) (l : Nat) :
    l < c ↔ if rtz then g (l + 1) ≤ v else if l % 2 = 1 then g l + (g (l + 1) - g l) / 2 ≤ v else g l + (g (l + 1) - g l) / 2 < v := by
  cases rtz with
  | true =>
    exact ⟨fun hl => (hg.monotone hl).trans (h.towardZero 0).1, fun hv => hg.le_iff_le.mp ((h.towardZero (l + 1)).2 hv)⟩
  | false =>
    simp only [Bool.false_eq_true, if_false]
    rcases Nat.lt_or_ge l c with hl | hl
    · obtain ⟨le, tie⟩ := h.midpoint_le hg hl
      refine iff_of_true hl ?_
      split
      · exact le
      next even => exact lt_of_le_of_ne le fun e => even (tie e)
    · obtain ⟨le, tie⟩ := h.le_midpoint hg hl
      refine iff_of_false (not_lt.mpr hl) ?_
      split
      next odd => exact not_le.mpr (lt_of_le_of_ne le fun e => by have := tie e; omega)
      · exact not_lt.mpr le

end

/-! ### The count of multiples that `roundQ` takes -/

theorem roundQ_of_le {q e : Int} (h : q ≤ e) (rtz : Bool) (m : Nat) : roundQ rtz m e q = (m * 2 ^ (e - q).toNat, true) := if_pos h

/-- `m` divided by `2 ^ n`: whether the quotient is taken one greater. -/
def roundsUp (rtz : Bool) (m n : Nat) : Bool :=
  !rtz && (m % 2 ^ n * 2 > 2 ^ n || (m % 2 ^ n * 2 == 2 ^ n && m / 2 ^ n % 2 == 1))

theorem roundQ_of_lt (rtz : Bool) (m : Nat) (e : Int) {n : Nat} (h : 0 < n) :
    roundQ rtz m e (e + n) = (if roundsUp rtz m n then m / 2 ^ n + 1 else m / 2 ^ n, m % 2 ^ n == 0) := by
  unfold roundQ
  rw [if_neg (by omega), show (e + n - e).toNat = n by omega]
  rfl

/-- A magnitude as the multiples of `2 ^ (e + n)` below it and the remainder. -/
theorem mag_eq_div_add_mod (m n : Nat) (e : Int) : mag m e = mag (m / 2 ^ n) (e + n) + mag (m % 2 ^ n) e := by
  rw [← mag_pow_mul]
  conv_lhs => rw [← Nat.div_add_mod' m (2 ^ n)]
  simp only [mag, Nat.cast_add, add_mul]

theorem roundQ_chooses (rtz : Bool) (m : Nat) (e q : Int) :
    ∃ n, Chooses rtz (mag n q) (mag m e) (mag (n + 1) q) n (roundQ rtz m e q).1 := by
  rcases le_or_gt q e with h | h
  · obtain ⟨d, rfl⟩ := Int.le.dest h
    have same : mag (m * 2 ^ d) q = mag m (q + d) := mag_pow_mul m d q
    have step := mag_succ_sub (m * 2 ^ d) q
    have pos : (0 : ℚ) < 2 ^ q := by positivity
    refine ⟨m * 2 ^ d, same.le, by linarith, .inl ⟨by simp [roundQ_of_le h], fun _ => ⟨by linarith, fun e => by linarith⟩⟩⟩
  · obtain ⟨n, rfl⟩ := Int.le.dest h.le
    have hn : 0 < n := by omega
    have split := mag_eq_div_add_mod m n e
    have step : mag (m / 2 ^ n + 1) (e + n) - mag (m / 2 ^ n) (e + n) = mag (2 ^ n) e := by rw [mag_succ_sub, mag_pow]
    have rem : mag (m % 2 ^ n) e < mag (2 ^ n) e := mag_lt.mpr (Nat.mod_lt _ (by positivity))
    have rem0 := mag_nonneg (m % 2 ^ n) e
    have twice : mag (m % 2 ^ n * 2) e = mag (m % 2 ^ n) e + mag (m % 2 ^ n) e := by simp only [mag]; push_cast; ring
    refine ⟨m / 2 ^ n, by linarith, by linarith, ?_⟩
    rw [roundQ_of_lt rtz m e hn]
    cases up : roundsUp rtz m n with
    | false =>
      refine .inl ⟨rfl, fun hr => ?_⟩
      obtain ⟨le, tie⟩ : m % 2 ^ n * 2 ≤ 2 ^ n ∧ (m % 2 ^ n * 2 = 2 ^ n → m / 2 ^ n % 2 = 0) := by
        simpa [roundsUp, hr] using up
      have := mag_le (e := e).mpr le
      exact ⟨by linarith, fun eq => tie (mag_inj.mp (by linarith : mag (m % 2 ^ n * 2) e = mag (2 ^ n) e))⟩
    | true =>
      obtain ⟨hr, far⟩ : rtz = false ∧ (2 ^ n < m % 2 ^ n * 2 ∨ m % 2 ^ n * 2 = 2 ^ n ∧ m / 2 ^ n % 2 = 1) := by
        simpa [roundsUp] using up
      have le : 2 ^ n ≤ m % 2 ^ n * 2 := by omega
      have := mag_le (e := e).mpr le
      refine .inr ⟨rfl, hr, by linarith, fun eq => ?_⟩
      have := mag_inj.mp (by linarith : mag (m % 2 ^ n * 2) e = mag (2 ^ n) e)
      omega

theorem roundQ_exact (rtz : Bool) (m : Nat) (e q : Int) : (roundQ rtz m e q).2 = true ↔ mag (roundQ rtz m e q).1 q = mag m e := by
  rcases le_or_gt q e with h | h
  · obtain ⟨d, rfl⟩ := Int.le.dest h
    simpa [roundQ_of_le h] using mag_pow_mul m d q
  · obtain ⟨n, rfl⟩ := Int.le.dest h.le
    have hn : 0 < n := by omega
    rw [roundQ_of_lt rtz m e hn, ← mag_pow_mul, mag_inj, beq_iff_eq]
    have div := Nat.div_add_mod' m (2 ^ n)
    have rem := Nat.mod_lt m (Nat.two_pow_pos n)
    cases up : roundsUp rtz m n with
    | false => simp only [Bool.false_eq_true, if_false]; omega
    | true =>
      have pos : m % 2 ^ n ≠ 0 := fun zero => by
        have := Nat.two_pow_pos n
        simp [roundsUp, zero] at up
        omega
      simp only [if_true, add_mul, one_mul]
      omega

/-! ### The encodings of one sign as a grid (R43, R44) -/

/-- What the proofs below use of the five formats of R43. -/
def Fmt.Proper (f : Fmt) : Prop := 0 < f.eb ∧ 0 < f.fb

/-- The first number that is not finite: infinity, or the NaN of a format without one. -/
def Fmt.limit (f : Fmt) : Nat := if f.hasInf then (2 ^ f.eb - 1) * 2 ^ f.fb else 2 ^ (f.eb + f.fb) - 1

/-- The exponent of the smallest subnormal (R45). -/
def Fmt.qmin (f : Fmt) : Int := 1 - (f.bias : Int) - f.fb

/-- How many octaves above the lowest the encoding numbered `c` lies. -/
def Fmt.octave (f : Fmt) (c : Nat) : Nat := c / 2 ^ f.fb - 1

/-- The significand of the encoding numbered `c`. -/
def Fmt.significand (f : Fmt) (c : Nat) : Nat := c - f.octave c * 2 ^ f.fb

/-- The magnitude of the encoding numbered `c`, as if the exponent range were unbounded (R44, R46). -/
def Fmt.gridMag (f : Fmt) (c : Nat) : ℚ := mag (f.significand c) (f.qmin + f.octave c)

section
variable {f : Fmt}

theorem Fmt.octave_of_lt {c : Nat} (h : c < 2 ^ f.fb) : f.octave c = 0 := by simp [Fmt.octave, Nat.div_eq_of_lt h]

theorem Fmt.octave_normal {d k : Nat} (lo : 2 ^ f.fb ≤ k) (hi : k < 2 ^ (f.fb + 1)) : f.octave (d * 2 ^ f.fb + k) = d := by
  have : (d * 2 ^ f.fb + k) / 2 ^ f.fb = d + 1 := Nat.div_eq_of_lt_le (by rw [add_mul]; omega) (by rw [pow_succ] at hi; simp only [add_mul]; omega)
  simp [Fmt.octave, this]

/-- The multiples of the step of octave `d` are numbered in turn, from the smallest normal significand on, or from zero in the lowest octave;
the last one stands for the first of the next octave. -/
theorem Fmt.gridMag_octave {d k : Nat} (lo : d = 0 ∨ 2 ^ f.fb ≤ k) (hi : k ≤ 2 ^ (f.fb + 1)) :
    f.gridMag (d * 2 ^ f.fb + k) = mag k (f.qmin + d) := by
  rcases Nat.lt_or_ge k (2 ^ f.fb) with sub | norm
  · obtain rfl : d = 0 := lo.resolve_right (by omega)
    simp [Fmt.gridMag, Fmt.significand, Fmt.octave_of_lt sub]
  rcases hi.lt_or_eq with hi | rfl
  · simp [Fmt.gridMag, Fmt.significand, Fmt.octave_normal norm hi]
  · have next : d * 2 ^ f.fb + 2 ^ (f.fb + 1) = (d + 1) * 2 ^ f.fb + 2 ^ f.fb := by ring
    have : f.octave (d * 2 ^ f.fb + 2 ^ (f.fb + 1)) = d + 1 := by
      rw [next, Fmt.octave_normal le_rfl (Nat.pow_lt_pow_succ one_lt_two)]
    rw [Fmt.gridMag, Fmt.significand, this, next, Nat.add_sub_cancel_left, mag_pow, mag_pow]
    congr 1; push_cast; ring

@[simp] theorem Fmt.gridMag_zero (f : Fmt) : f.gridMag 0 = 0 := by
  simpa using Fmt.gridMag_octave (f := f) (d := 0) (k := 0) (.inl rfl) (Nat.zero_le _)

theorem Fmt.eq_octave_add_significand (f : Fmt) (c : Nat) :
    c = f.octave c * 2 ^ f.fb + f.significand c ∧ (f.octave c = 0 ∨ 2 ^ f.fb ≤ f.significand c) ∧ f.significand c < 2 ^ (f.fb + 1) := by
  have div := Nat.div_add_mod' c (2 ^ f.fb)
  have rem := Nat.mod_lt c (Nat.two_pow_pos f.fb)
  unfold Fmt.significand Fmt.octave
  rw [pow_succ]
  rcases Nat.eq_zero_or_pos (c / 2 ^ f.fb) with h | h
  · rw [h] at div ⊢; omega
  · obtain ⟨d, hd⟩ := Nat.exists_eq_add_of_lt h
    rw [hd] at div ⊢
    simp only [Nat.zero_add, Nat.add_sub_cancel, add_mul] at div ⊢
    omega

theorem Fmt.gridMag_succ (f : Fmt) (c : Nat) : f.gridMag (c + 1) = f.gridMag c + 2 ^ (f.qmin + f.octave c) := by
  obtain ⟨split, lo, hi⟩ := f.eq_octave_add_significand c
  have := Fmt.gridMag_octave (f := f) (k := f.significand c + 1) (lo.imp_right (by omega)) hi
  rw [← add_assoc, ← split] at this
  rw [this, Fmt.gridMag, ← mag_succ_sub (f.significand c)]
  ring

theorem Fmt.gridMag_strictMono (f : Fmt) : StrictMono f.gridMag :=
  strictMono_nat_of_lt_succ fun c => by rw [f.gridMag_succ]; exact lt_add_of_pos_right _ (by positivity)

/-! ### What `Fmt.round` answers, by the number that the rounding takes (R46-R48) -/

/-- The answer for the magnitude `v` when the rounding takes number `c` (R47, R48). -/
def Fmt.answer (f : Fmt) (rtz s : Bool) (v : ℚ) (c : Nat) : Nat × Cnt :=
  if f.limit ≤ c then (if rtz then f.maxBits s else f.infBits s, { Cnt.zero with ovf := 1 })
  else (f.signBit s + c, if v ≠ 0 ∧ v < 2 ^ (1 - f.bias : Int) ∧ f.gridMag c ≠ v then { Cnt.zero with unf := 1 } else Cnt.zero)

theorem Fmt.Proper.pow_le_limit (hf : f.Proper) : 2 ^ f.fb ≤ f.limit := by
  obtain ⟨heb, hfb⟩ := hf
  have one : 1 < 2 ^ f.eb := Nat.one_lt_two_pow heb.ne'
  unfold Fmt.limit
  split
  · exact Nat.le_mul_of_pos_left _ (by omega)
  · exact Nat.le_sub_one_of_lt (Nat.pow_lt_pow_right one_lt_two (by omega))

/-- The octave in which `Fmt.round` rounds: the lowest one, or the one that holds the magnitude. -/
theorem Fmt.round_octave (f : Fmt) {m : Nat} (hm : m ≠ 0) (e : Int) :
    ∃ d : Nat, max ((Nat.log2 m : Int) + e - f.fb) f.qmin = f.qmin + d ∧ mag m e < mag (2 ^ (f.fb + 1)) (f.qmin + d) ∧
      (d = 0 ∨ mag (2 ^ f.fb) (f.qmin + d) ≤ mag m e) := by
  obtain ⟨d, hd⟩ := Int.le.dest (le_max_right ((Nat.log2 m : Int) + e - f.fb) f.qmin)
  refine ⟨d, hd.symm, ?_, ?_⟩
  · rw [mag_pow]
    exact (mag_lt_two_zpow m e).trans_le (zpow_le_zpow_right₀ one_le_two (by push_cast; omega))
  · rcases d.eq_zero_or_pos with h | h
    · exact .inl h
    · rw [mag_pow]
      exact .inr ((zpow_le_zpow_right₀ one_le_two (by omega)).trans (two_zpow_le_mag hm e))

/-- A magnitude is below the smallest normal exactly when its leading bit is. -/
theorem lt_minNormal_iff {m : Nat} (hm : m ≠ 0) (e b : Int) : mag m e < 2 ^ b ↔ (Nat.log2 m : Int) + e < b := by
  refine ⟨fun h => (zpow_lt_zpow_iff_right₀ one_lt_two).mp ((two_zpow_le_mag hm e).trans_lt h), fun h => ?_⟩
  exact (mag_lt_two_zpow m e).trans_le (zpow_le_zpow_right₀ one_le_two (by omega))

/-- `Fmt.round` with the carry out of the significand undone: the field of the exponent and the fraction are one number. -/
theorem Fmt.round_eq_number (hf : f.Proper) (rtz s : Bool) {m d k : Nat} {e : Int} {exact : Bool} (hm : m ≠ 0)
    (hq : max ((Nat.log2 m : Int) + e - f.fb) f.qmin = f.qmin + d) (hk : roundQ rtz m e (f.qmin + d) = (k, exact))
    (lo : d = 0 ∨ 2 ^ f.fb ≤ k) (tiny : k < 2 ^ f.fb → (Nat.log2 m : Int) + e < 1 - (f.bias : Int)) :
    f.round rtz s m e = if f.limit ≤ d * 2 ^ f.fb + k then (if rtz then f.maxBits s else f.infBits s, { Cnt.zero with ovf := 1 })
      else (f.signBit s + (d * 2 ^ f.fb + k),
        if !exact && (Nat.log2 m : Int) + e < 1 - (f.bias : Int) then { Cnt.zero with unf := 1 } else Cnt.zero) := by
  have pow : 2 ^ (f.fb + 1) = 2 ^ f.fb * 2 := pow_succ 2 f.fb
  have pos := Nat.two_pow_pos f.fb
  have lim := hf.pow_le_limit
  unfold Fmt.round
  rw [if_neg hm]
  simp only [show (1 - (f.bias : Int) - f.fb) = f.qmin from rfl, hq, hk]
  by_cases carry : k = 2 ^ (f.fb + 1)
  · have E : (f.qmin + d + 1 + f.fb + f.bias).toNat = d + 2 := by unfold Fmt.qmin; omega
    have bits : (d + 2) * 2 ^ f.fb + (2 ^ f.fb - 2 ^ f.fb) = d * 2 ^ f.fb + k := by rw [carry, pow]; simp [add_mul, mul_comm]
    simp only [if_pos carry, lt_irrefl, if_false, E, bits, ge_iff_le]
    rfl
  · rw [if_neg carry]
    by_cases sub : k < 2 ^ f.fb
    · obtain rfl : d = 0 := lo.resolve_right (by omega)
      have small : ¬ f.limit ≤ 0 * 2 ^ f.fb + k := by omega
      rw [if_neg small]
      simp only [if_pos sub, tiny sub, decide_true, Bool.and_true, zero_mul, zero_add]
      cases exact <;> rfl
    · have E : (f.qmin + d + f.fb + f.bias).toNat = d + 1 := by unfold Fmt.qmin; omega
      have bits : (d + 1) * 2 ^ f.fb + (k - 2 ^ f.fb) = d * 2 ^ f.fb + k := by rw [add_mul]; omega
      simp only [if_neg sub, E, bits, ge_iff_le]
      rfl

/-- Zero rounds to the zero of its sign. -/
theorem Fmt.round_zero (hf : f.Proper) (rtz s : Bool) (e : Int) : f.round rtz s 0 e = f.answer rtz s (mag 0 e) 0 := by
  have lim := hf.pow_le_limit
  have pos := Nat.two_pow_pos f.fb
  have finite : ¬ f.limit ≤ 0 := by omega
  simp [Fmt.round, Fmt.answer, finite]

/-- A rounding of `m * 2 ^ e` takes a number of the grid, and the answer is the one for that number. -/
theorem Fmt.round_eq_answer (hf : f.Proper) (rtz s : Bool) (m : Nat) (e : Int) :
    ∃ c, Rounds f.gridMag rtz (mag m e) c ∧ f.round rtz s m e = f.answer rtz s (mag m e) c := by
  rcases eq_or_ne m 0 with rfl | hm
  · refine ⟨0, ?_, Fmt.round_zero hf rtz s e⟩
    simpa using Rounds.self (rtz := rtz) f.gridMag_strictMono 0
  obtain ⟨d, hq, below, above⟩ := f.round_octave hm e
  obtain ⟨n, pick⟩ := roundQ_chooses rtz m e (f.qmin + d)
  have exact := roundQ_exact rtz m e (f.qmin + d)
  rcases hk : roundQ rtz m e (f.qmin + d) with ⟨k, x⟩
  simp only [hk] at pick exact
  obtain ⟨le, lt, near⟩ := id pick
  have hi : n < 2 ^ (f.fb + 1) := mag_lt.mp (le.trans_lt below)
  have lo : d = 0 ∨ 2 ^ f.fb ≤ n := above.imp_right fun h => Nat.le_of_lt_succ (mag_lt.mp (h.trans_lt lt))
  have nk : n ≤ k ∧ k ≤ n + 1 := by omega
  have gk : f.gridMag (d * 2 ^ f.fb + k) = mag k (f.qmin + d) := Fmt.gridMag_octave (lo.imp_right (by omega)) (by omega)
  refine ⟨d * 2 ^ f.fb + k, Chooses.rounds (n := d * 2 ^ f.fb + n) f.gridMag_strictMono ?_, ?_⟩
  · rw [Fmt.gridMag_octave lo hi.le, add_assoc, Fmt.gridMag_octave (lo.imp_right (by omega)) hi]
    exact pick.add_even (mul_two_pow_even d hf.2)
  · have tiny : k < 2 ^ f.fb → (Nat.log2 m : Int) + e < 1 - (f.bias : Int) := fun sub => by
      obtain rfl : d = 0 := lo.resolve_right (by omega)
      have small : mag (n + 1) (f.qmin + (0 : Nat)) ≤ mag (2 ^ f.fb) (f.qmin + (0 : Nat)) := mag_le.mpr (by omega)
      rw [mag_pow] at small
      exact (lt_minNormal_iff hm e _).mp ((lt.trans_le small).trans_eq (by congr 1; unfold Fmt.qmin; push_cast; ring))
    rw [Fmt.round_eq_number hf rtz s hm hq hk (lo.imp_right (by omega)) tiny, Fmt.answer, gk]
    simp only [lt_minNormal_iff hm, ne_eq, mag_eq_zero, hm, ← exact, not_false_iff, true_and, Bool.and_eq_true, Bool.not_eq_true',
      Bool.not_eq_true, decide_eq_true_eq, and_comm]

/-! ### The finite encodings (R43, R44) -/

theorem Fmt.limit_lt (f : Fmt) : f.limit < 2 ^ (f.eb + f.fb) := by
  have eb := Nat.two_pow_pos f.eb
  have fb := Nat.two_pow_pos f.fb
  unfold Fmt.limit
  split
  · rw [pow_add]; exact (Nat.mul_lt_mul_right fb).mpr (by omega)
  · exact Nat.sub_one_lt (by positivity)

theorem Fmt.maxBits_eq (f : Fmt) (s : Bool) : f.maxBits s = f.signBit s + (f.limit - 1) := by
  unfold Fmt.maxBits Fmt.limit
  split <;> rfl

theorem Fmt.infBits_eq (f : Fmt) (s : Bool) : f.infBits s = f.signBit s + if f.hasInf then f.limit else f.limit - 1 := by
  unfold Fmt.infBits Fmt.limit
  cases f.hasInf <;> rfl

theorem Fmt.signBit_eq (f : Fmt) (s : Bool) : f.signBit s = 2 ^ (f.eb + f.fb) * s.toNat := by cases s <;> simp [Fmt.signBit]

/-- The fields of the encoding of a sign, an exponent field and a fraction. -/
theorem Fmt.fields_encoding (s : Bool) {E F : Nat} (hE : E < 2 ^ f.eb) (hF : F < 2 ^ f.fb) :
    ((f.signBit s + (E * 2 ^ f.fb + F)) / 2 ^ (f.eb + f.fb) % 2 == 1) = s ∧
      (f.signBit s + (E * 2 ^ f.fb + F)) / 2 ^ f.fb % 2 ^ f.eb = E ∧ (f.signBit s + (E * 2 ^ f.fb + F)) % 2 ^ f.fb = F := by
  have pos := Nat.two_pow_pos f.fb
  have all : f.signBit s + (E * 2 ^ f.fb + F) = 2 ^ f.fb * (2 ^ f.eb * s.toNat + E) + F := by rw [f.signBit_eq]; ring
  have high : (f.signBit s + (E * 2 ^ f.fb + F)) / 2 ^ f.fb = 2 ^ f.eb * s.toNat + E := by
    rw [all, Nat.mul_add_div pos, Nat.div_eq_of_lt hF, Nat.add_zero]
  refine ⟨?_, ?_, ?_⟩
  · rw [add_comm f.eb, pow_add, ← Nat.div_div_eq_div_mul, high, Nat.mul_add_div (by positivity), Nat.div_eq_of_lt hE]
    cases s <;> rfl
  · rw [high, Nat.mul_add_mod, Nat.mod_eq_of_lt hE]
  · rw [all, Nat.mul_add_mod, Nat.mod_eq_of_lt hF]

/-- Where the finite numbers end, in terms of the fields (R44). -/
theorem Fmt.limit_le_iff {E F : Nat} (hE : E < 2 ^ f.eb) (hF : F < 2 ^ f.fb) :
    f.limit ≤ E * 2 ^ f.fb + F ↔ E = 2 ^ f.eb - 1 ∧ (f.hasInf ∨ F = 2 ^ f.fb - 1) := by
  obtain ⟨t, ht⟩ := Nat.exists_eq_add_of_lt hE
  have room : E * 2 ^ f.fb + t * 2 ^ f.fb + 2 ^ f.fb = 2 ^ f.eb * 2 ^ f.fb := by rw [ht]; ring
  have top : (2 ^ f.eb - 1) * 2 ^ f.fb = E * 2 ^ f.fb + t * 2 ^ f.fb := by rw [ht, Nat.add_sub_cancel, add_mul]
  unfold Fmt.limit
  rw [pow_add, top]
  rcases t.eq_zero_or_pos with rfl | pos
  · cases f.hasInf <;> simp <;> omega
  · have := Nat.le_mul_of_pos_left (2 ^ f.fb) pos
    cases f.hasInf <;> simp <;> omega

/-- Significand and exponent of a finite encoding (R44). -/
theorem Fmt.significand_encoding (s : Bool) {E F : Nat} (hF : F < 2 ^ f.fb) :
    FVal.fin s (f.significand (E * 2 ^ f.fb + F)) (f.qmin + f.octave (E * 2 ^ f.fb + F)) =
      if E = 0 then .fin s F (1 - (f.bias : Int) - f.fb) else .fin s (2 ^ f.fb + F) ((E : Int) - f.bias - f.fb) := by
  rcases E with _ | d
  · simp [Fmt.significand, Fmt.octave_of_lt hF, Fmt.qmin]
  · have number : (d + 1) * 2 ^ f.fb + F = d * 2 ^ f.fb + (2 ^ f.fb + F) := by ring
    have octave : f.octave (d * 2 ^ f.fb + (2 ^ f.fb + F)) = d := Fmt.octave_normal (Nat.le_add_right ..) (by rw [pow_succ]; omega)
    rw [if_neg d.succ_ne_zero, Fmt.significand, number, octave, Nat.add_sub_cancel_left]
    congr 1
    unfold Fmt.qmin; push_cast; ring

/-- What an encoding stands for, by its sign and its number (R44). -/
theorem Fmt.value_signBit_add (f : Fmt) (s : Bool) {c : Nat} (h : c < 2 ^ (f.eb + f.fb)) :
    f.value (f.signBit s + c) = if c < f.limit then .fin s (f.significand c) (f.qmin + f.octave c)
      else if f.hasInf ∧ c = f.limit then .inf s else .nan := by
  obtain ⟨E, F, hF, rfl⟩ : ∃ E F, F < 2 ^ f.fb ∧ c = E * 2 ^ f.fb + F :=
    ⟨c / 2 ^ f.fb, c % 2 ^ f.fb, Nat.mod_lt _ (Nat.two_pow_pos _), (Nat.div_add_mod' _ _).symm⟩
  have hE : E < 2 ^ f.eb := lt_of_mul_lt_mul_right' (lt_of_le_of_lt (Nat.le_add_right _ F) (h.trans_eq (pow_add ..)))
  obtain ⟨sign, exponent, fraction⟩ := Fmt.fields_encoding (f := f) s hE hF
  have lim := Fmt.limit_le_iff hE hF
  simp only [Fmt.value, sign, exponent, fraction]
  by_cases finite : E * 2 ^ f.fb + F < f.limit
  · have fields := mt lim.mpr (not_le.mpr finite)
    rw [if_pos finite, if_neg (fun h => fields ⟨h.1, .inl h.2⟩), if_neg (fun h => fields ⟨h.1, .inr h.2⟩), Fmt.significand_encoding s hF]
  · obtain ⟨rfl, last⟩ := lim.mp (not_lt.mp finite)
    rw [if_neg finite]
    by_cases inf : f.hasInf
    · simp [inf, Fmt.limit]
    · simp [inf, last.resolve_left inf]

/-- The encodings of a finite value of a sign are the numbers below the limit. -/
theorem Fmt.isFin_signBit_add (f : Fmt) {s t : Bool} {c : Nat} (h : c < 2 ^ (f.eb + f.fb)) (v : ℚ) :
    isFin f (f.signBit s + c) t v ↔ c < f.limit ∧ s = t ∧ f.gridMag c = v := by
  unfold isFin
  rw [f.value_signBit_add s h]
  split
  next finite => simp [finite, Fmt.gridMag, and_assoc]
  next finite =>
    refine iff_of_false ?_ (fun h => finite h.1)
    rintro ⟨k, q, h, -⟩
    split at h <;> cases h

theorem Fmt.isFin_number (f : Fmt) (s : Bool) {c : Nat} (h : c < f.limit) : isFin f (f.signBit s + c) s (f.gridMag c) :=
  (f.isFin_signBit_add (h.trans f.limit_lt) _).mpr ⟨h, rfl, rfl⟩

/-- Every encoding is a sign and a number. -/
theorem Fmt.eq_signBit_add (f : Fmt) {x : Nat} (h : x < 2 ^ f.width) : ∃ s, ∃ c < 2 ^ (f.eb + f.fb), x = f.signBit s + c := by
  have half : x / 2 ^ (f.eb + f.fb) < 2 := Nat.div_lt_of_lt_mul (by rwa [← pow_succ, ← Nat.add_comm 1, ← add_assoc])
  refine ⟨x / 2 ^ (f.eb + f.fb) == 1, x % 2 ^ (f.eb + f.fb), Nat.mod_lt _ (by positivity), ?_⟩
  have sign : (x / 2 ^ (f.eb + f.fb) == 1).toNat = x / 2 ^ (f.eb + f.fb) := by
    generalize x / 2 ^ (f.eb + f.fb) = b at half
    interval_cases b <;> rfl
  rw [f.signBit_eq, sign, Nat.div_add_mod]

theorem Fmt.number_of_isFin (f : Fmt) {x : Nat} {s : Bool} {v : ℚ} (hx : x < 2 ^ f.width) (h : isFin f x s v) :
    ∃ c, x = f.signBit s + c ∧ f.gridMag c = v := by
  obtain ⟨t, c, hc, rfl⟩ := f.eq_signBit_add hx
  obtain ⟨-, rfl, value⟩ := (f.isFin_signBit_add hc v).mp h
  exact ⟨c, rfl, value⟩

theorem Fmt.value_infBits (f : Fmt) (s : Bool) (h : f.hasInf) : f.value (f.infBits s) = .inf s := by
  rw [f.infBits_eq, if_pos h, f.value_signBit_add s f.limit_lt, if_neg (lt_irrefl _), if_pos ⟨h, rfl⟩]

theorem Fmt.infBits_eq_maxBits (f : Fmt) (s : Bool) (h : f.hasInf = false) : f.infBits s = f.maxBits s := by
  simp [f.infBits_eq, f.maxBits_eq, h]

theorem Fmt.Proper.limit_pos (hf : f.Proper) : 0 < f.limit := (Nat.two_pow_pos _).trans_le hf.pow_le_limit

theorem Fmt.isFin_maxBits (hf : f.Proper) (s : Bool) : isFin f (f.maxBits s) s (f.gridMag (f.limit - 1)) := by
  rw [f.maxBits_eq]
  exact f.isFin_number s (Nat.sub_one_lt hf.limit_pos.ne')

theorem Fmt.signBit_even (hf : f.Proper) (s : Bool) : f.signBit s % 2 = 0 := by
  rw [f.signBit_eq, mul_comm]
  exact mul_two_pow_even _ (Nat.add_pos_left hf.1 f.fb)

/-- The largest finite encoding is odd exactly in the formats with infinities. -/
theorem Fmt.maxNumber_odd (hf : f.Proper) : (f.limit - 1) % 2 = 1 ↔ f.hasInf = true := by
  have pos := hf.limit_pos
  cases inf : f.hasInf with
  | true =>
    have even : f.limit % 2 = 0 := by simpa [Fmt.limit, inf] using mul_two_pow_even (2 ^ f.eb - 1) hf.2
    exact iff_of_true (by omega) rfl
  | false =>
    have last : f.limit = 2 ^ (f.eb + f.fb) - 1 := by simp [Fmt.limit, inf]
    have even : 2 ^ (f.eb + f.fb) % 2 = 0 := by simpa using mul_two_pow_even 1 (Nat.add_pos_left hf.1 f.fb)
    exact iff_of_false (by omega) Bool.false_ne_true

end

/-! ### The answer is the rounding that the claims describe (R45-R48) -/

/-- The limits of R45 in a row of the table are those of the row's format. -/
def LimitsOf (row : Fmt × ℚ × ℚ × ℚ) : Prop :=
  row.1.Proper ∧ row.2.1 = row.1.gridMag (row.1.limit - 1) ∧ row.2.1 + row.2.2.1 = row.1.gridMag row.1.limit ∧
    row.2.2.2 = 2 ^ (1 - row.1.bias : Int)

theorem limitsOf_of_mem_limits : ∀ row ∈ limits, LimitsOf row := by
  simp only [limits, List.forall_mem_cons, List.not_mem_nil, false_imp_iff, implies_true, and_true]
  refine ⟨?_, ?_, ?_, ?_, ?_⟩ <;>
    norm_num [LimitsOf, Fmt.Proper, Fmt.gridMag, Fmt.significand, Fmt.octave, Fmt.qmin, Fmt.limit, mag, Fmt.f32, Fmt.f16, Fmt.bf16,
      Fmt.e5m2, Fmt.e4m3]

theorem Cnt.at_zero (k : Nat) : Cnt.at Cnt.zero k = 0 := by
  unfold Cnt.at; split <;> rfl

theorem Cnt.at_unf (k : Nat) : Cnt.at { Cnt.zero with unf := 1 } k = if k = 2 then 1 else 0 := by
  unfold Cnt.at; split <;> simp_all [Cnt.zero]

section
variable {row : Fmt × ℚ × ℚ × ℚ} {rtz : Bool} {v : ℚ} {c : Nat}

/-- The magnitudes that overflow (R47) are those whose rounding is no finite number. -/
theorem LimitsOf.limit_le_iff (h : LimitsOf row) (hc : Rounds row.1.gridMag rtz v c) :
    row.1.limit ≤ c ↔ if rtz then row.2.1 + row.2.2.1 ≤ v
      else if row.1.hasInf then row.2.1 + row.2.2.1 / 2 ≤ v else row.2.1 + row.2.2.1 / 2 < v := by
  obtain ⟨hf, largest, next, -⟩ := h
  have step : row.2.2.1 = row.1.gridMag row.1.limit - row.1.gridMag (row.1.limit - 1) := by linarith
  have iff := hc.lt_iff row.1.gridMag_strictMono (row.1.limit - 1)
  rw [Nat.sub_add_cancel hf.limit_pos, ← step, ← largest, ← next] at iff
  simp only [Fmt.maxNumber_odd hf] at iff
  rw [← iff]
  have := hf.limit_pos
  omega

theorem LimitsOf.overflow (h : LimitsOf row) (sg : Bool) (hc : row.1.limit ≤ c) :
    (row.1.answer rtz sg v c).2 = { ovf := 1 } ∧
      if rtz ∨ row.1.hasInf = false then isFin row.1 (row.1.answer rtz sg v c).1 sg row.2.1
      else row.1.value (row.1.answer rtz sg v c).1 = .inf sg := by
  obtain ⟨hf, largest, -, -⟩ := h
  have max := Fmt.isFin_maxBits hf sg
  rw [← largest] at max
  rw [Fmt.answer, if_pos hc]
  refine ⟨rfl, ?_⟩
  cases rtz with
  | true => simpa using max
  | false =>
    cases inf : row.1.hasInf with
    | true => simpa using row.1.value_infBits sg inf
    | false => simpa [row.1.infBits_eq_maxBits sg inf] using max

theorem LimitsOf.finite (h : LimitsOf row) (sg : Bool) (rounds : Rounds row.1.gridMag rtz v c) (hc : c < row.1.limit) :
    ∃ w, isFin row.1 (row.1.answer rtz sg v c).1 sg w ∧
      (∀ x u, x < 2 ^ row.1.width → isFin row.1 x sg u →
        if rtz then w ≤ v ∧ (u ≤ v → u ≤ w)
        else |w - v| ≤ |u - v| ∧ (|w - v| = |u - v| → x ≠ (row.1.answer rtz sg v c).1 → (row.1.answer rtz sg v c).1 % 2 = 0)) ∧
      ∀ k, Cnt.at (row.1.answer rtz sg v c).2 k = if k = 2 ∧ v ≠ 0 ∧ v < row.2.2.2 ∧ w ≠ v then 1 else 0 := by
  obtain ⟨hf, -, -, normal⟩ := h
  rw [Fmt.answer, if_neg (not_le.mpr hc), normal]
  refine ⟨row.1.gridMag c, row.1.isFin_number sg hc, fun x u hx hu => ?_, fun k => ?_⟩
  · obtain ⟨c', rfl, rfl⟩ := row.1.number_of_isFin hx hu
    cases rtz with
    | true => simpa using rounds.towardZero c'
    | false =>
      obtain ⟨near, tie⟩ := rounds.nearest c'
      simp only [Bool.false_eq_true, if_false]
      refine ⟨near, fun same ne => ?_⟩
      have even := tie same fun e => ne (by rw [e])
      have := Fmt.signBit_even hf sg
      omega
  · by_cases tiny : v ≠ 0 ∧ v < 2 ^ (1 - row.1.bias : Int) ∧ row.1.gridMag c ≠ v
    · rw [if_pos tiny, Cnt.at_unf]
      simp only [eq_true tiny, and_true]
    · rw [if_neg tiny, Cnt.at_zero, if_neg fun h => tiny h.2]

theorem LimitsOf.answer_rounded (h : LimitsOf row) (sg : Bool) (hc : Rounds row.1.gridMag rtz v c) :
    rounded row rtz sg v (row.1.answer rtz sg v c) := by
  unfold rounded
  simp only [← h.limit_le_iff hc]
  exact ⟨h.overflow sg, fun fin => h.finite sg hc (not_le.mp fin)⟩

end

theorem claims_roundingLimits : Claims.RoundingLimits := by
  intro row hrow rtz sg m e
  have h := limitsOf_of_mem_limits row hrow
  obtain ⟨c, rounds, answer⟩ := Fmt.round_eq_answer h.1 rtz sg m e
  rw [answer]
  exact h.answer_rounded sg rounds

theorem exists_limits : ∀ f ∈ [Fmt.f32, .f16, .bf16, .e5m2, .e4m3], ∃ row ∈ limits, row.1 = f := by simp [limits]

/-- A rounding to nearest that counts no overflow exceeds no limit, so it is a nearest value. -/
theorem claims_roundToNearest : Claims.RoundToNearest := by
  intro f hf sg m e noOverflow
  obtain ⟨row, hrow, rfl⟩ := exists_limits f hf
  obtain ⟨overflow, finite⟩ := claims_roundingLimits row hrow false sg m e
  obtain ⟨w, ⟨k, q, value, rfl⟩, nearest, -⟩ := finite fun exceeds => by simp [(overflow exceeds).1] at noOverflow
  refine ⟨k, q, value, fun x k' q' hx hx' => ?_⟩
  simpa using nearest x (mag k' q') hx ⟨k', q', hx', rfl⟩

/-- Settles O17: the number that a rounding takes is a nearest one (or the largest that is not greater) of the grid of encodings, and what
overflows and underflows is read off that number. -/
theorem roundToNearest : Obligations.RoundToNearest := by
  unfold Obligations.RoundToNearest
  exact ⟨claims_roundToNearest, claims_roundingLimits⟩

end Sys2Proof.Machine
end
section
/-!
The round trip between instructions and words (R65-R80). Encoding: for each layout of operands, the fields of a word that is the sum of its
parts, and with them that decoding an instruction's word gives it back. Decoding: a word is the sum of its fields, so what is read from it
has this word as its encoding.
-/

open Sys2Proof

namespace Sys2Proof

/-! ### Codes and their names -/

theorem Cond.ofCode?_eq_some {x : Nat} {c : Cond} : Cond.ofCode? x = some c ↔ x = c.code := by
  constructor
  · intro h
    unfold Cond.ofCode? at h
    split at h <;> cases h <;> rfl
  · rintro rfl
    cases c <;> rfl

theorem VCond.ofCode?_eq_some {x : Nat} {c : VCond} : VCond.ofCode? x = some c ↔ x = c.code := by
  constructor
  · intro h
    unfold VCond.ofCode? at h
    split at h <;> cases h <;> rfl
  · rintro rfl
    cases c <;> rfl

theorem Sz.ofCode?_eq_some {x : Nat} {z : Sz} : Sz.ofCode? x = some z ↔ x = z.code := by
  constructor
  · intro h
    unfold Sz.ofCode? at h
    split at h <;> cases h <;> rfl
  · rintro rfl
    cases z <;> rfl

theorem AWidth.ofCode?_eq_some {x : Nat} {z : AWidth} : AWidth.ofCode? x = some z ↔ x = z.code := by
  constructor
  · intro h
    unfold AWidth.ofCode? at h
    split at h <;> cases h <;> rfl
  · rintro rfl
    cases z <;> rfl

theorem DTy.ofCode?_eq_some {x : Nat} {t : DTy} : DTy.ofCode? x = some t ↔ x = t.code := by
  constructor
  · intro h
    unfold DTy.ofCode? at h
    split at h <;> cases h <;> rfl
  · rintro rfl
    cases t <;> rfl

theorem VTy.ofCode?_eq_some {x y : Nat} {t : VTy} : VTy.ofCode? x y = some t ↔ x = t.code.1 ∧ y = t.code.2 := by
  constructor
  · intro h
    unfold VTy.ofCode? at h
    split at h <;> cases h <;> exact ⟨rfl, rfl⟩
  · rintro ⟨rfl, rfl⟩
    cases t <;> rfl

theorem bit_eq {x : Nat} {b : Bool} : (x % 2 == 1) = b ↔ x % 2 = b.toNat := by
  cases b <;> simp

/-! ### The fields of an instruction's word -/

/-- Field d of R68, as the number of a register. -/
abbrev fieldD {n : Nat} [NeZero n] (w : Nat) : Fin n := .ofNat n (w / 2097152)
/-- Field a of R68. -/
abbrev fieldA {n : Nat} [NeZero n] (w : Nat) : Fin n := .ofNat n (w / 65536)
/-- Field b of R68. -/
abbrev fieldB {n : Nat} [NeZero n] (w : Nat) : Fin n := .ofNat n (w / 2048)
/-- The mask register of the Vec format. -/
abbrev fieldM (w : Nat) : MReg := .ofNat 4 (w / 64)

section
variable {C w : Nat}

theorem fields_of_dab {d a b : Fin 32}
    (hs : (C + d.val * 2097152 + a.val * 65536 + b.val * 2048) % 2 ^ 32 = w) (hC : C < 2 ^ 32 ∧ C % 67108864 < 2048) :
    fld w 26 6 = C / 67108864 ∧ fld w 0 11 = C % 2048 ∧ fieldD w = d ∧ fieldA w = a ∧ fieldB w = b := by
  subst hs
  simp only [fld, Fin.ext_iff, Fin.val_ofNat]
  omega

theorem fields_of_da_reg {d a : Fin 32}
    (hs : (C + d.val * 2097152 + a.val * 65536) % 2 ^ 32 = w) (hC : C < 2 ^ 32 ∧ C % 67108864 < 2048) :
    fld w 26 6 = C / 67108864 ∧ fld w 0 11 = C % 2048 ∧ fld w 11 5 = 0 ∧ fieldD w = d ∧ fieldA w = a := by
  subst hs
  simp only [fld, Fin.ext_iff, Fin.val_ofNat]
  omega

theorem fields_of_imm {d a : Fin 32} {imm : BitVec 16}
    (hs : (C + d.val * 2097152 + a.val * 65536 + imm.toNat) % 2 ^ 32 = w) (hC : C < 2 ^ 32 ∧ C % 67108864 = 0) :
    fld w 26 6 = C / 67108864 ∧ fieldD w = d ∧ fieldA w = a ∧ BitVec.ofNat 16 w = imm := by
  subst hs
  simp only [fld, Fin.ext_iff, Fin.val_ofNat, ← BitVec.toNat_inj, BitVec.toNat_ofNat]
  omega

theorem fields_of_shift {d a : Fin 32} {sh : Fin 64}
    (hs : (C + d.val * 2097152 + a.val * 65536 + sh.val) % 2 ^ 32 = w) (hC : C < 2 ^ 32 ∧ C % 67108864 < 65536 ∧ C % 64 = 0) :
    fld w 26 6 = C / 67108864 ∧ fld w 6 10 = C / 64 % 1024 ∧ fieldD w = d ∧ fieldA w = a ∧ Fin.ofNat 64 w = sh := by
  subst hs
  simp only [fld, Fin.ext_iff, Fin.val_ofNat]
  omega

theorem fields_of_upper {d : Fin 32} {imm : BitVec 16}
    (hs : (C + d.val * 2097152 + imm.toNat) % 2 ^ 32 = w) (hC : C < 2 ^ 32 ∧ C % 67108864 = 0) :
    fld w 26 6 = C / 67108864 ∧ fld w 16 5 = 0 ∧ fieldD w = d ∧ BitVec.ofNat 16 w = imm := by
  subst hs
  simp only [fld, Fin.ext_iff, Fin.val_ofNat, ← BitVec.toNat_inj, BitVec.toNat_ofNat]
  omega

theorem fields_of_skipReg {cc : Cond} {a b : Fin 32} {n : Fin 4}
    (hs : (738197504 + cc.code * 4194304 + a.val * 65536 + b.val * 2048 + n.val) % 2 ^ 32 = w) :
    fld w 26 6 = 11 ∧ fld w 21 1 = 0 ∧ fld w 2 9 = 0 ∧ Cond.ofCode? (fld w 22 4) = some cc ∧ fieldA w = a ∧ fieldB w = b ∧
    Fin.ofNat 4 w = n := by
  have := Laws.Encoding.cond_lt cc
  subst hs
  simp only [fld, Fin.ext_iff, Fin.val_ofNat, Cond.ofCode?_eq_some]
  omega

theorem fields_of_skipImm {cc : Cond} {a : Fin 32} {imm : BitVec 14} {n : Fin 4}
    (hs : (740294656 + cc.code * 4194304 + a.val * 65536 + imm.toNat * 4 + n.val) % 2 ^ 32 = w) :
    fld w 26 6 = 11 ∧ fld w 21 1 = 1 ∧ Cond.ofCode? (fld w 22 4) = some cc ∧ fieldA w = a ∧ BitVec.ofNat 14 (w / 4) = imm ∧
    Fin.ofNat 4 w = n := by
  have := Laws.Encoding.cond_lt cc
  subst hs
  simp only [fld, Fin.ext_iff, Fin.val_ofNat, ← BitVec.toNat_inj, BitVec.toNat_ofNat, Cond.ofCode?_eq_some]
  omega

theorem fields_of_branch {cc : Cond} {a : Fin 32} {off : BitVec 16}
    (hs : (805306368 + cc.code * 4194304 + a.val * 65536 + off.toNat) % 2 ^ 32 = w) :
    fld w 26 6 = 12 ∧ fld w 21 1 = 0 ∧ Cond.ofCode? (fld w 22 4) = some cc ∧ fieldA w = a ∧ BitVec.ofNat 16 w = off := by
  have := Laws.Encoding.cond_lt cc
  subst hs
  simp only [fld, Fin.ext_iff, Fin.val_ofNat, ← BitVec.toNat_inj, BitVec.toNat_ofNat, Cond.ofCode?_eq_some]
  omega

theorem fields_of_jump {off : BitVec 26} (hs : (C + off.toNat) % 2 ^ 32 = w) (hC : C < 2 ^ 32 ∧ C % 67108864 = 0) :
    fld w 26 6 = C / 67108864 ∧ BitVec.ofNat 26 w = off := by
  subst hs
  simp only [fld, ← BitVec.toNat_inj, BitVec.toNat_ofNat]
  omega

theorem fields_of_a {a : Fin 32} (hs : (C + a.val * 65536) % 2 ^ 32 = w) (hC : C < 2 ^ 32 ∧ C % 67108864 < 65536) :
    fld w 26 6 = C / 67108864 ∧ fld w 0 16 = C % 65536 ∧ fld w 21 5 = 0 ∧ fieldA w = a := by
  subst hs
  simp only [fld, Fin.ext_iff, Fin.val_ofNat]
  omega

theorem fields_of_da {d a : Fin 32} (hs : (C + d.val * 2097152 + a.val * 65536) % 2 ^ 32 = w) (hC : C < 2 ^ 32 ∧ C % 67108864 < 65536) :
    fld w 26 6 = C / 67108864 ∧ fld w 0 16 = C % 65536 ∧ fieldD w = d ∧ fieldA w = a := by
  subst hs
  simp only [fld, Fin.ext_iff, Fin.val_ofNat]
  omega

theorem fields_of_mem {d a : Fin 32} {sz : Sz} {imm : BitVec 13}
    (hs : (C + d.val * 2097152 + a.val * 65536 + sz.code * 8192 + imm.toNat) % 2 ^ 32 = w) (hC : C < 2 ^ 32 ∧ C % 67108864 = 0) :
    fld w 26 6 = C / 67108864 ∧ Sz.ofCode? (fld w 13 3) = some sz ∧ fieldD w = d ∧ fieldA w = a ∧ BitVec.ofNat 13 w = imm := by
  have := Laws.Encoding.sz_lt sz
  subst hs
  simp only [fld, Fin.ext_iff, Fin.val_ofNat, ← BitVec.toNat_inj, BitVec.toNat_ofNat, Sz.ofCode?_eq_some]
  omega

theorem fields_of_atom {d a b : Fin 32} {wd : AWidth}
    (hs : (C + d.val * 2097152 + a.val * 65536 + b.val * 2048 + wd.code * 32) % 2 ^ 32 = w)
    (hC : C < 2 ^ 32 ∧ C % 67108864 < 2048 ∧ C % 128 = 0) :
    fld w 26 6 = C / 67108864 ∧ fld w 7 4 = C / 128 % 16 ∧ fld w 0 5 = 0 ∧ AWidth.ofCode? (fld w 5 2) = some wd ∧ fieldD w = d ∧
    fieldA w = a ∧ fieldB w = b := by
  have := Laws.Encoding.wd_lt wd
  subst hs
  simp only [fld, Fin.ext_iff, Fin.val_ofNat, AWidth.ofCode?_eq_some]
  omega

theorem fields_of_atomExtreme {d a b : Fin 32} {wd : AWidth} {nat : Bool}
    (hs : (C + d.val * 2097152 + a.val * 65536 + b.val * 2048 + wd.code * 32 + nat.toNat * 16) % 2 ^ 32 = w)
    (hC : C < 2 ^ 32 ∧ C % 67108864 < 2048 ∧ C % 128 = 0) :
    fld w 26 6 = C / 67108864 ∧ fld w 7 4 = C / 128 % 16 ∧ fld w 0 4 = 0 ∧ AWidth.ofCode? (fld w 5 2) = some wd ∧ fieldD w = d ∧
    fieldA w = a ∧ fieldB w = b ∧ (w / 16 % 2 == 1) = nat := by
  have := Laws.Encoding.wd_lt wd
  have := nat.toNat_lt
  subst hs
  simp only [fld, Fin.ext_iff, Fin.val_ofNat, bit_eq, AWidth.ofCode?_eq_some]
  omega

theorem fields_of_crr {d : Fin 32} {crn : BitVec 12} (hs : (1342177280 + d.val * 2097152 + crn.toNat) % 2 ^ 32 = w) :
    fld w 26 6 = 20 ∧ fld w 12 4 = 0 ∧ fld w 16 5 = 0 ∧ fieldD w = d ∧ BitVec.ofNat 12 w = crn := by
  subst hs
  simp only [fld, Fin.ext_iff, Fin.val_ofNat, ← BitVec.toNat_inj, BitVec.toNat_ofNat]
  omega

theorem fields_of_crw {a : Fin 32} {crn : BitVec 12} (hs : (1342181376 + a.val * 65536 + crn.toNat) % 2 ^ 32 = w) :
    fld w 26 6 = 20 ∧ fld w 12 4 = 1 ∧ fld w 21 5 = 0 ∧ fieldA w = a ∧ BitVec.ofNat 12 w = crn := by
  subst hs
  simp only [fld, Fin.ext_iff, Fin.val_ofNat, ← BitVec.toNat_inj, BitVec.toNat_ofNat]
  omega

theorem fields_of_crSwap {d a : Fin 32} {crn : BitVec 12}
    (hs : (C + d.val * 2097152 + a.val * 65536 + crn.toNat) % 2 ^ 32 = w) (hC : C < 2 ^ 32 ∧ C % 67108864 < 65536 ∧ C % 4096 = 0) :
    fld w 26 6 = C / 67108864 ∧ fld w 12 4 = C / 4096 % 16 ∧ fieldD w = d ∧ fieldA w = a ∧ BitVec.ofNat 12 w = crn := by
  subst hs
  simp only [fld, Fin.ext_iff, Fin.val_ofNat, ← BitVec.toNat_inj, BitVec.toNat_ofNat]
  omega

theorem fields_of_system (hs : (C) % 2 ^ 32 = w) (hC : C < 2 ^ 32 ∧ C % 67108864 < 65536 ∧ C % 256 = 0) :
    fld w 26 6 = C / 67108864 ∧ fld w 8 8 = C / 256 % 256 ∧ fld w 0 8 = 0 ∧ fld w 16 10 = 0 := by
  subst hs
  simp only [fld]
  omega

theorem fields_of_trap {n : BitVec 8} (hs : (C + n.toNat) % 2 ^ 32 = w) (hC : C < 2 ^ 32 ∧ C % 67108864 < 65536 ∧ C % 256 = 0) :
    fld w 26 6 = C / 67108864 ∧ fld w 8 8 = C / 256 % 256 ∧ fld w 16 10 = 0 ∧ BitVec.ofNat 8 w = n := by
  subst hs
  simp only [fld, ← BitVec.toNat_inj, BitVec.toNat_ofNat]
  omega

theorem fields_of_fack {a : Fin 32} (hs : (C + a.val * 65536) % 2 ^ 32 = w) (hC : C < 2 ^ 32 ∧ C % 67108864 / 256 = 6) :
    fld w 26 6 = C / 67108864 ∧ fld w 8 8 = 6 ∧ fld w 0 8 = C % 256 ∧ fld w 21 5 = 0 ∧ fieldA w = a := by
  subst hs
  simp only [fld, Fin.ext_iff, Fin.val_ofNat]
  omega

theorem fields_of_vec3 {d a b : Fin 32} {m : Fin 4} {ty : VTy}
    (hs : (C + d.val * 2097152 + a.val * 65536 + b.val * 2048 + m.val * 64 + ty.code.1 * 256 + ty.code.2 * 32) % 2 ^ 32 = w)
    (hC : C < 2 ^ 32 ∧ C % 67108864 < 32) :
    fld w 26 6 = C / 67108864 ∧ fld w 0 5 = C % 32 ∧ VTy.ofCode? (fld w 8 3) (fld w 5 1) = some ty ∧ fieldD w = d ∧ fieldA w = a ∧
    fieldB w = b ∧ fieldM w = m := by
  have := Laws.Encoding.ty_lt ty
  subst hs
  simp only [fld, Fin.ext_iff, Fin.val_ofNat, VTy.ofCode?_eq_some]
  omega

theorem fields_of_vec2 {d a : Fin 32} {m : Fin 4} {ty : VTy}
    (hs : (C + d.val * 2097152 + a.val * 65536 + m.val * 64 + ty.code.1 * 256 + ty.code.2 * 32) % 2 ^ 32 = w)
    (hC : C < 2 ^ 32 ∧ C % 67108864 < 32) :
    fld w 26 6 = C / 67108864 ∧ fld w 0 5 = C % 32 ∧ fld w 11 5 = 0 ∧ VTy.ofCode? (fld w 8 3) (fld w 5 1) = some ty ∧ fieldD w = d ∧
    fieldA w = a ∧ fieldM w = m := by
  have := Laws.Encoding.ty_lt ty
  subst hs
  simp only [fld, Fin.ext_iff, Fin.val_ofNat, VTy.ofCode?_eq_some]
  omega

theorem fields_of_vcmp {d m : Fin 4} {a b : Fin 32} {ty : VTy}
    (hs : (C + d.val * 2097152 + a.val * 65536 + b.val * 2048 + m.val * 64 + ty.code.1 * 256 + ty.code.2 * 32) % 2 ^ 32 = w)
    (hC : C < 2 ^ 32 ∧ C % 67108864 < 32) :
    fld w 26 6 = C / 67108864 ∧ fld w 0 5 = C % 32 ∧ fld w 23 3 = 0 ∧ VTy.ofCode? (fld w 8 3) (fld w 5 1) = some ty ∧ fieldD w = d ∧
    fieldA w = a ∧ fieldB w = b ∧ fieldM w = m := by
  have := Laws.Encoding.ty_lt ty
  subst hs
  simp only [fld, Fin.ext_iff, Fin.val_ofNat, VTy.ofCode?_eq_some]
  omega

theorem fields_of_mask3 {d a b : Fin 4}
    (hs : (C + d.val * 2097152 + a.val * 65536 + b.val * 2048) % 2 ^ 32 = w) (hC : C < 2 ^ 32 ∧ C % 67108864 < 32) :
    fld w 26 6 = C / 67108864 ∧ fld w 0 5 = C % 32 ∧ fld w 5 6 = 0 ∧ fld w 13 3 = 0 ∧ fld w 18 3 = 0 ∧ fld w 23 3 = 0 ∧ fieldD w = d ∧
    fieldA w = a ∧ fieldB w = b := by
  subst hs
  simp only [fld, Fin.ext_iff, Fin.val_ofNat]
  omega

theorem fields_of_mask2 {d a : Fin 4} (hs : (1610612748 + d.val * 2097152 + a.val * 65536) % 2 ^ 32 = w) :
    fld w 26 6 = 24 ∧ fld w 0 5 = 12 ∧ fld w 5 11 = 0 ∧ fld w 18 3 = 0 ∧ fld w 23 3 = 0 ∧ fieldD w = d ∧ fieldA w = a := by
  subst hs
  simp only [fld, Fin.ext_iff, Fin.val_ofNat]
  omega

theorem fields_of_vcvt {d a : Fin 32} {m : Fin 4} {dty sty : VTy} {rtz : Bool}
    (hs : (1744830464 + d.val * 2097152 + a.val * 65536 + m.val * 64 + dty.code.1 * 256 + dty.code.2 * 32 + sty.code.1 * 8192 +
      sty.code.2 * 4096 + rtz.toNat * 2048) % 2 ^ 32 = w) :
    fld w 26 6 = 26 ∧ fld w 0 5 = 0 ∧ VTy.ofCode? (fld w 8 3) (fld w 5 1) = some dty ∧ VTy.ofCode? (fld w 13 3) (fld w 12 1) = some sty ∧
    fieldD w = d ∧ fieldA w = a ∧ fieldM w = m ∧ (w / 2048 % 2 == 1) = rtz := by
  have := Laws.Encoding.ty_lt dty
  have := Laws.Encoding.ty_lt sty
  have := rtz.toNat_lt
  subst hs
  simp only [fld, Fin.ext_iff, Fin.val_ofNat, bit_eq, VTy.ofCode?_eq_some]
  omega

theorem fields_of_vpack4F32 {d a b : Fin 32} {m : Fin 4}
    (hs : (1744832001 + d.val * 2097152 + a.val * 65536 + b.val * 2048 + m.val * 64) % 2 ^ 32 = w) :
    fld w 26 6 = 26 ∧ fld w 0 5 = 1 ∧ fld w 5 1 = 0 ∧ fld w 8 3 = 6 ∧ fieldD w = d ∧ fieldA w = a ∧ fieldB w = b ∧ fieldM w = m := by
  subst hs
  simp only [fld, Fin.ext_iff, Fin.val_ofNat]
  omega

theorem fields_of_vpack4Half {d a : Fin 32} {m : Fin 4} {bf : Bool}
    (hs : (1744831489 + d.val * 2097152 + a.val * 65536 + m.val * 64 + bf.toNat * 256) % 2 ^ 32 = w) :
    fld w 26 6 = 26 ∧ fld w 0 5 = 1 ∧ fld w 5 1 = 0 ∧ fld w 9 7 = 2 ∧ (fld w 8 3 == 6) = false ∧ fieldD w = d ∧ fieldA w = a ∧
    fieldM w = m ∧ (w / 256 % 2 == 1) = bf := by
  have := bf.toNat_lt
  subst hs
  simp only [fld, Fin.ext_iff, Fin.val_ofNat, bit_eq, beq_eq_false_iff_ne]
  omega

theorem fields_of_vunpack4Half {d a : Fin 32} {m k : Fin 4} {bf : Bool}
    (hs : (1744831490 + d.val * 2097152 + a.val * 65536 + m.val * 64 + bf.toNat * 256 + k.val * 16384) % 2 ^ 32 = w) :
    fld w 26 6 = 26 ∧ fld w 0 5 = 2 ∧ fld w 5 1 = 0 ∧ fld w 9 5 = 2 ∧ fieldD w = d ∧ fieldA w = a ∧ fieldM w = m ∧ (w / 256 % 2 == 1) = bf ∧
    Fin.ofNat 4 (w / 16384) = k := by
  have := bf.toNat_lt
  subst hs
  simp only [fld, Fin.ext_iff, Fin.val_ofNat, bit_eq]
  omega

theorem fields_of_vunpack4F32 {d a : Fin 32} {m k : Fin 4} {h : Bool}
    (hs : (1744832002 + d.val * 2097152 + a.val * 65536 + m.val * 64 + k.val * 16384 + h.toNat * 2048) % 2 ^ 32 = w) :
    fld w 26 6 = 26 ∧ fld w 0 5 = 2 ∧ fld w 5 1 = 0 ∧ fld w 8 3 = 6 ∧ fld w 12 2 = 0 ∧ (fld w 9 5 == 2) = false ∧ fieldD w = d ∧
    fieldA w = a ∧ fieldM w = m ∧ Fin.ofNat 4 (w / 16384) = k ∧ (w / 2048 % 2 == 1) = h := by
  have := h.toNat_lt
  subst hs
  simp only [fld, Fin.ext_iff, Fin.val_ofNat, bit_eq, beq_eq_false_iff_ne]
  omega

theorem fields_of_lane {d a b : Fin 32} {ty : VTy}
    (hs : (C + d.val * 2097152 + a.val * 65536 + b.val * 2048 + ty.code.1 * 256 + ty.code.2 * 32) % 2 ^ 32 = w)
    (hC : C < 2 ^ 32 ∧ C % 67108864 < 32) :
    fld w 26 6 = C / 67108864 ∧ fld w 0 5 = C % 32 ∧ fld w 6 2 = 0 ∧ VTy.ofCode? (fld w 8 3) (fld w 5 1) = some ty ∧ fieldD w = d ∧
    fieldA w = a ∧ fieldB w = b := by
  have := Laws.Encoding.ty_lt ty
  subst hs
  simp only [fld, Fin.ext_iff, Fin.val_ofNat, VTy.ofCode?_eq_some]
  omega

theorem fields_of_mgetg {d : Fin 32} {a : Fin 4} (hs : (2013265923 + d.val * 2097152 + a.val * 65536) % 2 ^ 32 = w) :
    fld w 26 6 = 30 ∧ fld w 0 5 = 3 ∧ fld w 5 11 = 0 ∧ fld w 18 3 = 0 ∧ fieldD w = d ∧ fieldA w = a := by
  subst hs
  simp only [fld, Fin.ext_iff, Fin.val_ofNat]
  omega

theorem fields_of_msetg {d : Fin 4} {a : Fin 32} (hs : (2013265924 + d.val * 2097152 + a.val * 65536) % 2 ^ 32 = w) :
    fld w 26 6 = 30 ∧ fld w 0 5 = 4 ∧ fld w 5 11 = 0 ∧ fld w 23 3 = 0 ∧ fieldD w = d ∧ fieldA w = a := by
  subst hs
  simp only [fld, Fin.ext_iff, Fin.val_ofNat]
  omega

theorem fields_of_sync {d a : Fin 32} {n : Fin 8} (hs : (2147483648 + d.val * 2097152 + a.val * 65536 + n.val) % 2 ^ 32 = w) :
    fld w 26 6 = 32 ∧ fld w 3 13 = 0 ∧ fieldD w = d ∧ fieldA w = a ∧ Fin.ofNat 8 w = n := by
  subst hs
  simp only [fld, Fin.ext_iff, Fin.val_ofNat]
  omega

theorem fields_of_mma {acc : Fin 2} {a b : Fin 32} {fa fb : Fin 16}
    (hs : (2415919104 + acc.val * 2097152 + a.val * 65536 + b.val * 2048 + fa.val * 16 + fb.val) % 2 ^ 32 = w) :
    fld w 26 6 = 36 ∧ fld w 8 3 = 0 ∧ fld w 22 4 = 0 ∧ fieldD w = acc ∧ fieldA w = a ∧ fieldB w = b ∧ Fin.ofNat 16 (w / 16) = fa ∧
    Fin.ofNat 16 w = fb := by
  subst hs
  simp only [fld, Fin.ext_iff, Fin.val_ofNat]
  omega

theorem fields_of_mzero {acc : Fin 2} (hs : (2483027969 + acc.val * 2097152) % 2 ^ 32 = w) :
    fld w 26 6 = 37 ∧ fld w 0 16 = 1 ∧ fld w 16 5 = 0 ∧ fld w 22 4 = 0 ∧ fieldD w = acc := by
  subst hs
  simp only [fld, Fin.ext_iff, Fin.val_ofNat]
  omega

theorem fields_of_bank {acc : Fin 2} {a : Fin 32}
    (hs : (C + acc.val * 2097152 + a.val * 65536) % 2 ^ 32 = w) (hC : C < 2 ^ 32 ∧ C % 67108864 < 65536) :
    fld w 26 6 = C / 67108864 ∧ fld w 0 16 = C % 65536 ∧ fld w 22 4 = 0 ∧ fieldD w = acc ∧ fieldA w = a := by
  subst hs
  simp only [fld, Fin.ext_iff, Fin.val_ofNat]
  omega

theorem fields_of_slot {p : Fin 16} {a : Fin 32}
    (hs : (C + p.val * 2097152 + a.val * 65536) % 2 ^ 32 = w) (hC : C < 2 ^ 32 ∧ C % 67108864 < 2048) :
    fld w 26 6 = C / 67108864 ∧ fld w 0 11 = C % 2048 ∧ fld w 11 5 = 0 ∧ fld w 25 1 = 0 ∧ fieldD w = p ∧ fieldA w = a := by
  subst hs
  simp only [fld, Fin.ext_iff, Fin.val_ofNat]
  omega

theorem fields_of_dloadT {a b : Fin 32} (hs : (2550136833 + a.val * 65536 + b.val * 2048) % 2 ^ 32 = w) :
    fld w 26 6 = 38 ∧ fld w 0 11 = 1 ∧ fld w 21 5 = 0 ∧ fieldA w = a ∧ fieldB w = b := by
  subst hs
  simp only [fld, Fin.ext_iff, Fin.val_ofNat]
  omega

theorem fields_of_heapMem {d : Fin 32} {a : Fin 8} {sz : Sz} {off : BitVec 11}
    (hs : (C + d.val * 2097152 + a.val * 65536 + sz.code * 8192 + off.toNat) % 2 ^ 32 = w)
    (hC : C < 2 ^ 32 ∧ C % 67108864 < 8192 ∧ C % 2048 = 0) :
    fld w 26 6 = C / 67108864 ∧ fld w 11 2 = C / 2048 % 4 ∧ fld w 19 2 = 0 ∧ Sz.ofCode? (fld w 13 3) = some sz ∧ fieldD w = d ∧
    fieldA w = a ∧ BitVec.ofNat 11 w = off := by
  have := Laws.Encoding.sz_lt sz
  subst hs
  simp only [fld, Fin.ext_iff, Fin.val_ofNat, ← BitVec.toNat_inj, BitVec.toNat_ofNat, Sz.ofCode?_eq_some]
  omega

theorem fields_of_heapRef {d a : Fin 8} {off : BitVec 11}
    (hs : (C + d.val * 2097152 + a.val * 65536 + off.toNat) % 2 ^ 32 = w) (hC : C < 2 ^ 32 ∧ C % 67108864 / 8192 = 6 ∧ C % 2048 = 0) :
    fld w 26 6 = C / 67108864 ∧ fld w 11 2 = C / 2048 % 4 ∧ fld w 13 3 = 6 ∧ fld w 19 2 = 0 ∧ fld w 24 2 = 0 ∧ fieldD w = d ∧ fieldA w = a ∧
    BitVec.ofNat 11 w = off := by
  subst hs
  simp only [fld, Fin.ext_iff, Fin.val_ofNat, ← BitVec.toNat_inj, BitVec.toNat_ofNat]
  omega

theorem fields_of_hnew {d : Fin 8} {a b : Fin 32} (hs : (2885681152 + d.val * 2097152 + a.val * 65536 + b.val * 2048) % 2 ^ 32 = w) :
    fld w 26 6 = 43 ∧ fld w 0 11 = 0 ∧ fld w 24 2 = 0 ∧ fieldD w = d ∧ fieldA w = a ∧ fieldB w = b := by
  subst hs
  simp only [fld, Fin.ext_iff, Fin.val_ofNat]
  omega

theorem fields_of_href {d : Fin 32} {a : Fin 8}
    (hs : (C + d.val * 2097152 + a.val * 65536) % 2 ^ 32 = w) (hC : C < 2 ^ 32 ∧ C % 67108864 < 2048) :
    fld w 26 6 = C / 67108864 ∧ fld w 0 11 = C % 2048 ∧ fld w 11 5 = 0 ∧ fld w 19 2 = 0 ∧ fieldD w = d ∧ fieldA w = a := by
  subst hs
  simp only [fld, Fin.ext_iff, Fin.val_ofNat]
  omega

theorem fields_of_hunpin {a : Fin 8} (hs : (2885681154 + a.val * 65536) % 2 ^ 32 = w) :
    fld w 26 6 = 43 ∧ fld w 0 11 = 2 ∧ fld w 11 5 = 0 ∧ fld w 19 7 = 0 ∧ fieldA w = a := by
  subst hs
  simp only [fld, Fin.ext_iff, Fin.val_ofNat]
  omega

theorem fields_of_hcmp {d : Fin 32} {a b : Fin 8} (hs : (2885681155 + d.val * 2097152 + a.val * 65536 + b.val * 2048) % 2 ^ 32 = w) :
    fld w 26 6 = 43 ∧ fld w 0 11 = 3 ∧ fld w 14 2 = 0 ∧ fld w 19 2 = 0 ∧ fieldD w = d ∧ fieldA w = a ∧ fieldB w = b := by
  subst hs
  simp only [fld, Fin.ext_iff, Fin.val_ofNat]
  omega

theorem fields_of_hmov {d a : Fin 8} (hs : (2885681156 + d.val * 2097152 + a.val * 65536) % 2 ^ 32 = w) :
    fld w 26 6 = 43 ∧ fld w 0 11 = 4 ∧ fld w 11 5 = 0 ∧ fld w 19 2 = 0 ∧ fld w 24 2 = 0 ∧ fieldD w = d ∧ fieldA w = a := by
  subst hs
  simp only [fld, Fin.ext_iff, Fin.val_ofNat]
  omega

theorem fields_of_spawn {a b : Fin 32} (hs : (3019898880 + a.val * 65536 + b.val * 2048) % 2 ^ 32 = w) :
    fld w 26 6 = 45 ∧ fld w 3 8 = 0 ∧ fld w 0 3 = 0 ∧ fld w 21 5 = 0 ∧ fieldA w = a ∧ fieldB w = b := by
  subst hs
  simp only [fld, Fin.ext_iff, Fin.val_ofNat]
  omega

theorem fields_of_launch {a : Fin 32} (hs : (3019898888 + a.val * 65536) % 2 ^ 32 = w) :
    fld w 26 6 = 45 ∧ fld w 3 8 = 1 ∧ fld w 0 3 = 0 ∧ fld w 11 5 = 0 ∧ fld w 21 5 = 0 ∧ fieldA w = a := by
  subst hs
  simp only [fld, Fin.ext_iff, Fin.val_ofNat]
  omega

theorem fields_of_exit (hs : (3019898896) % 2 ^ 32 = w) :
    fld w 26 6 = 45 ∧ fld w 3 8 = 2 ∧ fld w 0 3 = 0 ∧ fld w 11 15 = 0 := by
  subst hs
  simp only [fld]
  omega

theorem fields_of_level {d : Fin 32} {n : Fin 8}
    (hs : (C + d.val * 2097152 + n.val) % 2 ^ 32 = w) (hC : C < 2 ^ 32 ∧ C % 67108864 < 2048 ∧ C % 8 = 0) :
    fld w 26 6 = C / 67108864 ∧ fld w 3 8 = C / 8 % 256 ∧ fld w 11 10 = 0 ∧ fieldD w = d ∧ Fin.ofNat 8 w = n := by
  subst hs
  simp only [fld, Fin.ext_iff, Fin.val_ofNat]
  omega

theorem fields_of_drain0 (hs : (C) % 2 ^ 32 = w) (hC : C < 2 ^ 32 ∧ C % 67108864 = 0) :
    fld w 26 6 = C / 67108864 ∧ fld w 0 26 = 0 := by
  subst hs
  simp only [fld]
  omega

theorem fields_of_drain3 {d a b : Fin 8}
    (hs : (C + d.val * 8388608 + a.val * 1048576 + b.val * 131072) % 2 ^ 32 = w) (hC : C < 2 ^ 32 ∧ C % 67108864 = 0) :
    fld w 26 6 = C / 67108864 ∧ fld w 0 17 = 0 ∧ Fin.ofNat 8 (w / 8388608) = d ∧ Fin.ofNat 8 (w / 1048576) = a ∧
    Fin.ofNat 8 (w / 131072) = b := by
  subst hs
  simp only [fld, Fin.ext_iff, Fin.val_ofNat]
  omega

theorem fields_of_drain4 {d a b c : Fin 8}
    (hs : (C + d.val * 8388608 + a.val * 1048576 + b.val * 131072 + c.val * 16384) % 2 ^ 32 = w) (hC : C < 2 ^ 32 ∧ C % 67108864 = 0) :
    fld w 26 6 = C / 67108864 ∧ fld w 0 14 = 0 ∧ Fin.ofNat 8 (w / 8388608) = d ∧ Fin.ofNat 8 (w / 1048576) = a ∧
    Fin.ofNat 8 (w / 131072) = b ∧ Fin.ofNat 8 (w / 16384) = c := by
  subst hs
  simp only [fld, Fin.ext_iff, Fin.val_ofNat]
  omega

theorem fields_of_drain2 {d a : Fin 8} (hs : (C + d.val * 8388608 + a.val * 1048576) % 2 ^ 32 = w) (hC : C < 2 ^ 32 ∧ C % 67108864 = 0) :
    fld w 26 6 = C / 67108864 ∧ fld w 0 20 = 0 ∧ Fin.ofNat 8 (w / 8388608) = d ∧ Fin.ofNat 8 (w / 1048576) = a := by
  subst hs
  simp only [fld, Fin.ext_iff, Fin.val_ofNat]
  omega

theorem fields_of_drainCmp {cc : VCond} {d a b : Fin 8}
    (hs : (939524096 + cc.code + d.val * 8388608 + a.val * 1048576 + b.val * 131072) % 2 ^ 32 = w) :
    fld w 26 6 = 14 ∧ fld w 3 14 = 0 ∧ VCond.ofCode? (fld w 0 3) = some cc ∧ Fin.ofNat 8 (w / 8388608) = d ∧ Fin.ofNat 8 (w / 1048576) = a ∧
    Fin.ofNat 8 (w / 131072) = b := by
  have := Laws.Encoding.vcond_lt cc
  subst hs
  simp only [fld, Fin.ext_iff, Fin.val_ofNat, VCond.ofCode?_eq_some]
  omega

theorem fields_of_drainLdi {d : Fin 8} {imm : BitVec 16} (hs : (1140850688 + d.val * 8388608 + imm.toNat) % 2 ^ 32 = w) :
    fld w 26 6 = 17 ∧ fld w 16 7 = 0 ∧ Fin.ofNat 8 (w / 8388608) = d ∧ BitVec.ofNat 16 w = imm := by
  subst hs
  simp only [fld, Fin.ext_iff, Fin.val_ofNat, ← BitVec.toNat_inj, BitVec.toNat_ofNat]
  omega

theorem fields_of_drainTable {d : Fin 8} {off : BitVec 11}
    (hs : (C + d.val * 8388608 + off.toNat * 4) % 2 ^ 32 = w) (hC : C < 2 ^ 32 ∧ C % 67108864 = 0) :
    fld w 26 6 = C / 67108864 ∧ fld w 0 2 = 0 ∧ fld w 13 10 = 0 ∧ Fin.ofNat 8 (w / 8388608) = d ∧ BitVec.ofNat 11 (w / 4) = off := by
  subst hs
  simp only [fld, Fin.ext_iff, Fin.val_ofNat, ← BitVec.toNat_inj, BitVec.toNat_ofNat]
  omega

theorem fields_of_drainLds {d : Fin 8} {t : DTy} (hs : (1342177280 + d.val * 8388608 + t.code) % 2 ^ 32 = w) :
    fld w 26 6 = 20 ∧ fld w 3 20 = 0 ∧ DTy.ofCode? (fld w 0 3) = some t ∧ Fin.ofNat 8 (w / 8388608) = d := by
  have := Laws.Encoding.dty_lt t
  subst hs
  simp only [fld, Fin.ext_iff, Fin.val_ofNat, DTy.ofCode?_eq_some]
  omega

theorem fields_of_drainReduce {k : Fin 4} {a : Fin 8}
    (hs : (C + k.val + a.val * 1048576) % 2 ^ 32 = w) (hC : C < 2 ^ 32 ∧ C % 67108864 = 0) :
    fld w 26 6 = C / 67108864 ∧ fld w 2 18 = 0 ∧ fld w 23 3 = 0 ∧ Fin.ofNat 4 w = k ∧ Fin.ofNat 8 (w / 1048576) = a := by
  subst hs
  simp only [fld, Fin.ext_iff, Fin.val_ofNat]
  omega

theorem fields_of_drainRget {d : Fin 8} {k : Fin 4} (hs : (1744830464 + d.val * 8388608 + k.val) % 2 ^ 32 = w) :
    fld w 26 6 = 26 ∧ fld w 2 21 = 0 ∧ Fin.ofNat 8 (w / 8388608) = d ∧ Fin.ofNat 4 w = k := by
  subst hs
  simp only [fld, Fin.ext_iff, Fin.val_ofNat]
  omega

theorem fields_of_drainSt {a : Fin 8} {t : DTy} (hs : (2147483648 + a.val * 1048576 + t.code) % 2 ^ 32 = w) :
    fld w 26 6 = 32 ∧ fld w 3 17 = 0 ∧ fld w 23 3 = 0 ∧ DTy.ofCode? (fld w 0 3) = some t ∧ Fin.ofNat 8 (w / 1048576) = a := by
  have := Laws.Encoding.dty_lt t
  subst hs
  simp only [fld, Fin.ext_iff, Fin.val_ofNat, DTy.ofCode?_eq_some]
  omega

theorem fields_of_drainStq {a : Fin 8} {kind : Fin 4} (hs : (2214592512 + a.val * 1048576 + kind.val) % 2 ^ 32 = w) :
    fld w 26 6 = 33 ∧ fld w 2 18 = 0 ∧ fld w 23 3 = 0 ∧ Fin.ofNat 8 (w / 1048576) = a ∧ Fin.ofNat 4 w = kind := by
  subst hs
  simp only [fld, Fin.ext_iff, Fin.val_ofNat]
  omega

/-- An instruction's word decodes to it: its opcode and function code lead to its row, and that row reads its operands back. -/
theorem decodeRaw_of_encode {i : Instr} (hi : encodeNat i % 2 ^ 32 = w) (hk : i.kind = .isa) : decodeRaw w = some i := by
  cases i with
  | add d a b | sub d a b | and d a b | or d a b | xor d a b | andn d a b | sll d a b | srl d a b | sra d a b | mul d a b
  | mulh d a b | mulhn d a b | div d a b | divn d a b | rem d a b | remn d a b | slt d a b | sltn d a b | min d a b | max d a b
  | minn d a b | maxn d a b =>
    obtain ⟨op, fn, rfl, rfl, rfl⟩ := fields_of_dab hi (by decide)
    rw [decodeRaw, op, decodeOp01, fn]; rfl
  | evname d a b =>
    obtain ⟨op, fn, rfl, rfl, rfl⟩ := fields_of_dab hi (by decide)
    rw [decodeRaw, op, decodeOp22, fn]; rfl
  | clz d a | ctz d a | popc d a | extI8 d a | extN8 d a | extI16 d a | extN16 d a | extI32 d a | extN32 d a =>
    obtain ⟨op, fn, z, rfl, rfl⟩ := fields_of_da_reg hi (by decide)
    rw [decodeRaw, op, decodeOp01, fn, z]; rfl
  | evinfo d a =>
    obtain ⟨op, fn, z, rfl, rfl⟩ := fields_of_da_reg hi (by decide)
    rw [decodeRaw, op, decodeOp22, fn, z]; rfl
  | addi d a imm =>
    obtain ⟨op, rfl, rfl, rfl⟩ := fields_of_imm hi (by decide)
    rw [decodeRaw, op, decodeOp02]; rfl
  | andi d a imm =>
    obtain ⟨op, rfl, rfl, rfl⟩ := fields_of_imm hi (by decide)
    rw [decodeRaw, op, decodeOp03]; rfl
  | ori d a imm =>
    obtain ⟨op, rfl, rfl, rfl⟩ := fields_of_imm hi (by decide)
    rw [decodeRaw, op, decodeOp04]; rfl
  | xori d a imm =>
    obtain ⟨op, rfl, rfl, rfl⟩ := fields_of_imm hi (by decide)
    rw [decodeRaw, op, decodeOp05]; rfl
  | slti d a imm =>
    obtain ⟨op, rfl, rfl, rfl⟩ := fields_of_imm hi (by decide)
    rw [decodeRaw, op, decodeOp07]; rfl
  | sltni d a imm =>
    obtain ⟨op, rfl, rfl, rfl⟩ := fields_of_imm hi (by decide)
    rw [decodeRaw, op, decodeOp08]; rfl
  | slli d a sh | srli d a sh | srai d a sh =>
    obtain ⟨op, fn, rfl, rfl, rfl⟩ := fields_of_shift hi (by decide)
    rw [decodeRaw, op, decodeOp06, fn]; rfl
  | lui d imm =>
    obtain ⟨op, z, rfl, rfl⟩ := fields_of_upper hi (by decide)
    rw [decodeRaw, op, decodeOp09, z]; rfl
  | addpc d imm =>
    obtain ⟨op, z, rfl, rfl⟩ := fields_of_upper hi (by decide)
    rw [decodeRaw, op, decodeOp0A, z]; rfl
  | skipReg cc a b n =>
    obtain ⟨op, fn, z, hcc, rfl, rfl, rfl⟩ := fields_of_skipReg hi
    rw [decodeRaw, op, decodeOp0B, fn, z, hcc]; rfl
  | skipImm cc a imm n =>
    obtain ⟨op, fn, hcc, rfl, rfl, rfl⟩ := fields_of_skipImm hi
    rw [decodeRaw, op, decodeOp0B, fn, hcc]; rfl
  | br cc a off =>
    obtain ⟨op, z, hcc, rfl, rfl⟩ := fields_of_branch hi
    rw [decodeRaw, op, decodeOp0C, z, hcc]; rfl
  | j off =>
    obtain ⟨op, rfl⟩ := fields_of_jump hi (by decide)
    rw [decodeRaw, op, decodeOp0D]; rfl
  | call off =>
    obtain ⟨op, rfl⟩ := fields_of_jump hi (by decide)
    rw [decodeRaw, op, decodeOp0E]; rfl
  | jr a =>
    obtain ⟨op, fn, z, rfl⟩ := fields_of_a hi (by decide)
    rw [decodeRaw, op, decodeOp0F, fn, z]; rfl
  | pinL a | unpinL a | flush a | inval a | pref a =>
    obtain ⟨op, fn, z, rfl⟩ := fields_of_a hi (by decide)
    rw [decodeRaw, op, decodeOp13, fn, z]; rfl
  | barw a | barset a =>
    obtain ⟨op, fn, z, rfl⟩ := fields_of_a hi (by decide)
    rw [decodeRaw, op, decodeOp21, fn, z]; rfl
  | mgeo a =>
    obtain ⟨op, fn, z, rfl⟩ := fields_of_a hi (by decide)
    rw [decodeRaw, op, decodeOp25, fn, z]; rfl
  | cpyEv a | gathEv a | scatEv a | fillEv a =>
    obtain ⟨op, fn, z, rfl⟩ := fields_of_a hi (by decide)
    rw [decodeRaw, op, decodeOp28, fn, z]; rfl
  | tlbw a | tlbi a | seed a | migr a =>
    obtain ⟨op, fn, z, rfl⟩ := fields_of_a hi (by decide)
    rw [decodeRaw, op, decodeOp2E, fn, z]; rfl
  | callr d a =>
    obtain ⟨op, fn, rfl, rfl⟩ := fields_of_da hi (by decide)
    rw [decodeRaw, op, decodeOp0F, fn]; rfl
  | barq d a =>
    obtain ⟨op, fn, rfl, rfl⟩ := fields_of_da hi (by decide)
    rw [decodeRaw, op, decodeOp21, fn]; rfl
  | cpy d a | gath d a | scat d a | fill d a =>
    obtain ⟨op, fn, rfl, rfl⟩ := fields_of_da hi (by decide)
    rw [decodeRaw, op, decodeOp28, fn]; rfl
  | tlbr d a =>
    obtain ⟨op, fn, rfl, rfl⟩ := fields_of_da hi (by decide)
    rw [decodeRaw, op, decodeOp2E, fn]; rfl
  | ld d a sz imm =>
    obtain ⟨op, hsz, rfl, rfl, rfl⟩ := fields_of_mem hi (by decide)
    rw [decodeRaw, op, decodeOp10, hsz]; rfl
  | st d a sz imm =>
    obtain ⟨op, hsz, rfl, rfl, rfl⟩ := fields_of_mem hi (by decide)
    rw [decodeRaw, op, decodeOp11, hsz]; rfl
  | atomSwap d a b wd | atomAdd d a b wd | atomAnd d a b wd | atomOr d a b wd | atomXor d a b wd | atomCas d a b wd =>
    obtain ⟨op, fn, z, hwd, rfl, rfl, rfl⟩ := fields_of_atom hi (by decide)
    rw [decodeRaw, op, decodeOp12, fn, z, hwd]; rfl
  | atomMax d a b wd nat | atomMin d a b wd nat =>
    obtain ⟨op, fn, z, hwd, rfl, rfl, rfl, rfl⟩ := fields_of_atomExtreme hi (by decide)
    rw [decodeRaw, op, decodeOp12, fn, z, hwd]; rfl
  | crr d crn =>
    obtain ⟨op, fn, z, rfl, rfl⟩ := fields_of_crr hi
    rw [decodeRaw, op, decodeOp14, fn, z]; rfl
  | crw a crn =>
    obtain ⟨op, fn, z, rfl, rfl⟩ := fields_of_crw hi
    rw [decodeRaw, op, decodeOp14, fn, z]; rfl
  | crs d a crn | crc d a crn =>
    obtain ⟨op, fn, rfl, rfl, rfl⟩ := fields_of_crSwap hi (by decide)
    rw [decodeRaw, op, decodeOp14, fn]; rfl
  | nop | eret | halt | yield =>
    obtain ⟨op, fn, z1, z2⟩ := fields_of_system hi (by decide)
    rw [decodeRaw, op, decodeOp15, fn, z1, z2]; rfl
  | trap n | brk n =>
    obtain ⟨op, fn, z, rfl⟩ := fields_of_trap hi (by decide)
    rw [decodeRaw, op, decodeOp15, fn, z]; rfl
  | fackResume a | fackSkip a | fackKill a =>
    obtain ⟨op, fn, z1, z2, rfl⟩ := fields_of_fack hi (by decide)
    rw [decodeRaw, op, decodeOp15, fn, z1, z2]; rfl
  | vadd d a b m ty | vsub d a b m ty | vmul d a b m ty | vmin d a b m ty | vmax d a b m ty | vclamp d a b m ty | vand d a b m ty
  | vor d a b m ty | vxor d a b m ty | vsll d a b m ty | vsrl d a b m ty | vsra d a b m ty | vdiv d a b m ty | vadds d a b m ty
  | vsubs d a b m ty =>
    obtain ⟨op, fn, hty, rfl, rfl, rfl, rfl⟩ := fields_of_vec3 hi (by decide)
    rw [decodeRaw, op, decodeOp16, fn, hty]; rfl
  | vfma d a b m ty | vfms d a b m ty | vnfma d a b m ty =>
    obtain ⟨op, fn, hty, rfl, rfl, rfl, rfl⟩ := fields_of_vec3 hi (by decide)
    rw [decodeRaw, op, decodeOp17, fn, hty]; rfl
  | vsel d a b m ty =>
    obtain ⟨op, fn, hty, rfl, rfl, rfl, rfl⟩ := fields_of_vec3 hi (by decide)
    rw [decodeRaw, op, decodeOp18, fn, hty]; rfl
  | vperm d a b m ty | vzip d a b m ty | vunzip d a b m ty | vslup d a b m ty | vsldn d a b m ty =>
    obtain ⟨op, fn, hty, rfl, rfl, rfl, rfl⟩ := fields_of_vec3 hi (by decide)
    rw [decodeRaw, op, decodeOp19, fn, hty]; rfl
  | vlds d a b m ty | vldx d a b m ty =>
    obtain ⟨op, fn, hty, rfl, rfl, rfl, rfl⟩ := fields_of_vec3 hi (by decide)
    rw [decodeRaw, op, decodeOp1C, fn, hty]; rfl
  | vsts d a b m ty | vstx d a b m ty =>
    obtain ⟨op, fn, hty, rfl, rfl, rfl, rfl⟩ := fields_of_vec3 hi (by decide)
    rw [decodeRaw, op, decodeOp1D, fn, hty]; rfl
  | vabs d a m ty | vneg d a m ty | vrcp d a m ty | vrsq d a m ty | vsqrt d a m ty | vexp2 d a m ty | vlog2 d a m ty =>
    obtain ⟨op, fn, z, hty, rfl, rfl, rfl⟩ := fields_of_vec2 hi (by decide)
    rw [decodeRaw, op, decodeOp16, fn, z, hty]; rfl
  | vrev d a m ty =>
    obtain ⟨op, fn, z, hty, rfl, rfl, rfl⟩ := fields_of_vec2 hi (by decide)
    rw [decodeRaw, op, decodeOp19, fn, z, hty]; rfl
  | vrsum d a m ty | vrmax d a m ty | vrmin d a m ty | vrand d a m ty | vror d a m ty | vrxor d a m ty =>
    obtain ⟨op, fn, z, hty, rfl, rfl, rfl⟩ := fields_of_vec2 hi (by decide)
    rw [decodeRaw, op, decodeOp1B, fn, z, hty]; rfl
  | vld d a m ty =>
    obtain ⟨op, fn, z, hty, rfl, rfl, rfl⟩ := fields_of_vec2 hi (by decide)
    rw [decodeRaw, op, decodeOp1C, fn, z, hty]; rfl
  | vst d a m ty =>
    obtain ⟨op, fn, z, hty, rfl, rfl, rfl⟩ := fields_of_vec2 hi (by decide)
    rw [decodeRaw, op, decodeOp1D, fn, z, hty]; rfl
  | vsplat d a m ty =>
    obtain ⟨op, fn, z, hty, rfl, rfl, rfl⟩ := fields_of_vec2 hi (by decide)
    rw [decodeRaw, op, decodeOp1E, fn, z, hty]; rfl
  | vcmpEq d a b m ty | vcmpNe d a b m ty | vcmpLt d a b m ty | vcmpGe d a b m ty | vcmpLe d a b m ty | vcmpGt d a b m ty =>
    obtain ⟨op, fn, z, hty, rfl, rfl, rfl, rfl⟩ := fields_of_vcmp hi (by decide)
    rw [decodeRaw, op, decodeOp18, fn, z, hty]; rfl
  | mand d a b | mor d a b | mxor d a b =>
    obtain ⟨op, fn, z1, z2, z3, z4, rfl, rfl, rfl⟩ := fields_of_mask3 hi (by decide)
    rw [decodeRaw, op, decodeOp18, fn, z1, z2, z3, z4]; rfl
  | mnot d a =>
    obtain ⟨op, fn, z1, z2, z3, rfl, rfl⟩ := fields_of_mask2 hi
    rw [decodeRaw, op, decodeOp18, fn, z1, z2, z3]; rfl
  | vcvt d a m dty sty rtz =>
    obtain ⟨op, fn, hdty, hsty, rfl, rfl, rfl, rfl⟩ := fields_of_vcvt hi
    rw [decodeRaw, op, decodeOp1A, fn, hdty, hsty]; rfl
  | vpack4F32 d a b m =>
    obtain ⟨op, fn, z1, z2, rfl, rfl, rfl, rfl⟩ := fields_of_vpack4F32 hi
    rw [decodeRaw, op, decodeOp1A, fn, z1, z2]; rfl
  | vpack4Half d a m bf =>
    obtain ⟨op, fn, z1, z2, other, rfl, rfl, rfl, rfl⟩ := fields_of_vpack4Half hi
    rw [decodeRaw, op, decodeOp1A, fn, z1, z2, other]; rfl
  | vunpack4Half d a m bf k =>
    obtain ⟨op, fn, z1, z2, rfl, rfl, rfl, rfl, rfl⟩ := fields_of_vunpack4Half hi
    rw [decodeRaw, op, decodeOp1A, fn, z1, z2]; rfl
  | vunpack4F32 d a m k h =>
    obtain ⟨op, fn, z1, z2, z3, other, rfl, rfl, rfl, rfl, rfl⟩ := fields_of_vunpack4F32 hi
    rw [decodeRaw, op, decodeOp1A, fn, z1, z2, z3, other]; rfl
  | vins d a b ty | vext d a b ty =>
    obtain ⟨op, fn, z, hty, rfl, rfl, rfl⟩ := fields_of_lane hi (by decide)
    rw [decodeRaw, op, decodeOp1E, fn, z, hty]; rfl
  | mgetg d a =>
    obtain ⟨op, fn, z1, z2, rfl, rfl⟩ := fields_of_mgetg hi
    rw [decodeRaw, op, decodeOp1E, fn, z1, z2]; rfl
  | msetg d a =>
    obtain ⟨op, fn, z1, z2, rfl, rfl⟩ := fields_of_msetg hi
    rw [decodeRaw, op, decodeOp1E, fn, z1, z2]; rfl
  | sync d a n =>
    obtain ⟨op, z, rfl, rfl, rfl⟩ := fields_of_sync hi
    rw [decodeRaw, op, decodeOp20, z]; rfl
  | mma acc a b fa fb =>
    obtain ⟨op, z1, z2, rfl, rfl, rfl, rfl, rfl⟩ := fields_of_mma hi
    rw [decodeRaw, op, decodeOp24, z1, z2]; rfl
  | mzero acc =>
    obtain ⟨op, fn, z1, z2, rfl⟩ := fields_of_mzero hi
    rw [decodeRaw, op, decodeOp25, fn, z1, z2]; rfl
  | msave acc a | mrest acc a =>
    obtain ⟨op, fn, z, rfl, rfl⟩ := fields_of_bank hi (by decide)
    rw [decodeRaw, op, decodeOp25, fn, z]; rfl
  | dload p a | dbind p a =>
    obtain ⟨op, fn, z1, z2, rfl, rfl⟩ := fields_of_slot hi (by decide)
    rw [decodeRaw, op, decodeOp26, fn, z1, z2]; rfl
  | dloadT a b =>
    obtain ⟨op, fn, z, rfl, rfl⟩ := fields_of_dloadT hi
    rw [decodeRaw, op, decodeOp26, fn, z]; rfl
  | hld d a sz off | hst d a sz off =>
    obtain ⟨op, fn, z, hsz, rfl, rfl, rfl⟩ := fields_of_heapMem hi (by decide)
    rw [decodeRaw, op, decodeOp2A, fn, z, hsz]; rfl
  | hldr d a off | hstr d a off =>
    obtain ⟨op, fn, z1, z2, z3, rfl, rfl, rfl⟩ := fields_of_heapRef hi (by decide)
    rw [decodeRaw, op, decodeOp2A, fn, z1, z2, z3]; rfl
  | hnew d a b =>
    obtain ⟨op, fn, z, rfl, rfl, rfl⟩ := fields_of_hnew hi
    rw [decodeRaw, op, decodeOp2B, fn, z]; rfl
  | hpin d a | htag d a | hget d a =>
    obtain ⟨op, fn, z1, z2, rfl, rfl⟩ := fields_of_href hi (by decide)
    rw [decodeRaw, op, decodeOp2B, fn, z1, z2]; rfl
  | hunpin a =>
    obtain ⟨op, fn, z1, z2, rfl⟩ := fields_of_hunpin hi
    rw [decodeRaw, op, decodeOp2B, fn, z1, z2]; rfl
  | hcmp d a b =>
    obtain ⟨op, fn, z1, z2, rfl, rfl, rfl⟩ := fields_of_hcmp hi
    rw [decodeRaw, op, decodeOp2B, fn, z1, z2]; rfl
  | hmov d a =>
    obtain ⟨op, fn, z1, z2, z3, rfl, rfl⟩ := fields_of_hmov hi
    rw [decodeRaw, op, decodeOp2B, fn, z1, z2, z3]; rfl
  | spawn a b =>
    obtain ⟨op, fn, z1, z2, rfl, rfl⟩ := fields_of_spawn hi
    rw [decodeRaw, op, decodeOp2D, fn, z1, z2]; rfl
  | launch a =>
    obtain ⟨op, fn, z1, z2, z3, rfl⟩ := fields_of_launch hi
    rw [decodeRaw, op, decodeOp2D, fn, z1, z2, z3]; rfl
  | exit =>
    obtain ⟨op, fn, z1, z2⟩ := fields_of_exit hi
    rw [decodeRaw, op, decodeOp2D, fn, z1, z2]; rfl
  | rank d n | size d n =>
    obtain ⟨op, fn, z, rfl, rfl⟩ := fields_of_level hi (by decide)
    rw [decodeRaw, op, decodeOp2D, fn, z]; rfl
  | _ => cases hk

theorem decodeDrain_of_encode {i : Instr} (hi : encodeNat i % 2 ^ 32 = w) (hk : i.kind = .drain) : decodeDrain w = some i := by
  cases i with
  | drainNop | drainEnd =>
    obtain ⟨op, z⟩ := fields_of_drain0 hi (by decide)
    rw [decodeDrain, op, z]; rfl
  | drainAdd d a b | drainSub d a b | drainMul d a b | drainMax d a b | drainMin d a b =>
    obtain ⟨op, z, rfl, rfl, rfl⟩ := fields_of_drain3 hi (by decide)
    rw [decodeDrain, op, z]; rfl
  | drainFma d a b c | drainClamp d a b c | drainSel d a b c =>
    obtain ⟨op, z, rfl, rfl, rfl, rfl⟩ := fields_of_drain4 hi (by decide)
    rw [decodeDrain, op, z]; rfl
  | drainAbs d a | drainNeg d a | drainRcp d a | drainRsq d a | drainExp2 d a | drainLog2 d a | drainMov d a =>
    obtain ⟨op, z, rfl, rfl⟩ := fields_of_drain2 hi (by decide)
    rw [decodeDrain, op, z]; rfl
  | drainCmp cc d a b =>
    obtain ⟨op, z, hcc, rfl, rfl, rfl⟩ := fields_of_drainCmp hi
    rw [decodeDrain, op, z, hcc]; rfl
  | drainLdi d imm =>
    obtain ⟨op, z, rfl, rfl⟩ := fields_of_drainLdi hi
    rw [decodeDrain, op, z]; rfl
  | drainLdc d off | drainLdr d off =>
    obtain ⟨op, z1, z2, rfl, rfl⟩ := fields_of_drainTable hi (by decide)
    rw [decodeDrain, op, z1, z2]; rfl
  | drainLds d t =>
    obtain ⟨op, z, ht, rfl⟩ := fields_of_drainLds hi
    rw [decodeDrain, op, z, ht]; rfl
  | drainRredSum k a | drainRredMax k a =>
    obtain ⟨op, z1, z2, rfl, rfl⟩ := fields_of_drainReduce hi (by decide)
    rw [decodeDrain, op, z1, z2]; rfl
  | drainRget d k =>
    obtain ⟨op, z, rfl, rfl⟩ := fields_of_drainRget hi
    rw [decodeDrain, op, z]; rfl
  | drainSt a t =>
    obtain ⟨op, z1, z2, ht, rfl⟩ := fields_of_drainSt hi
    rw [decodeDrain, op, z1, z2, ht]; rfl
  | drainStq a kind =>
    obtain ⟨op, z1, z2, rfl, rfl⟩ := fields_of_drainStq hi
    rw [decodeDrain, op, z1, z2]; rfl
  | _ => cases hk
end

/-! ### Reading a word -/

theorem fld_add (w lo m n : Nat) : fld w lo (m + n) = fld w lo m + 2 ^ m * fld w (lo + m) n := by
  unfold fld
  rw [Nat.pow_add 2 lo m, ← Nat.div_div_eq_div_mul, Nat.pow_add, Nat.mod_mul]

/-- A word is its opcode, its two register fields and its low half. -/
theorem word_fields {w : Nat} (hw : w < 2 ^ 32) :
    w = fld w 26 6 * 67108864 + fld w 21 5 * 2097152 + fld w 16 5 * 65536 + fld w 0 16 := by
  unfold fld
  omega

theorem toNat_bit (x : Nat) : (x % 2 == 1).toNat = x % 2 := (bit_eq.mp rfl).symm

/-- Each operand that the decoder takes from a word is the number in its field. -/
theorem operands_toNat (w : Nat) :
    (Fin.ofNat 32 (w / 2097152)).val = fld w 21 5 ∧ (Fin.ofNat 16 (w / 2097152)).val = fld w 21 4 ∧
    (Fin.ofNat 8 (w / 2097152)).val = fld w 21 3 ∧ (Fin.ofNat 4 (w / 2097152)).val = fld w 21 2 ∧
    (Fin.ofNat 2 (w / 2097152)).val = fld w 21 1 ∧ (Fin.ofNat 32 (w / 65536)).val = fld w 16 5 ∧
    (Fin.ofNat 8 (w / 65536)).val = fld w 16 3 ∧ (Fin.ofNat 4 (w / 65536)).val = fld w 16 2 ∧
    (Fin.ofNat 32 (w / 2048)).val = fld w 11 5 ∧ (Fin.ofNat 8 (w / 2048)).val = fld w 11 3 ∧
    (Fin.ofNat 4 (w / 2048)).val = fld w 11 2 ∧ (Fin.ofNat 4 (w / 16384)).val = fld w 14 2 ∧
    (Fin.ofNat 4 (w / 64)).val = fld w 6 2 ∧ (Fin.ofNat 16 (w / 16)).val = fld w 4 4 ∧
    (Fin.ofNat 64 w).val = fld w 0 6 ∧ (Fin.ofNat 16 w).val = fld w 0 4 ∧ (Fin.ofNat 8 w).val = fld w 0 3 ∧
    (Fin.ofNat 4 w).val = fld w 0 2 ∧ (BitVec.ofNat 26 w).toNat = fld w 0 26 ∧ (BitVec.ofNat 16 w).toNat = fld w 0 16 ∧
    (BitVec.ofNat 13 w).toNat = fld w 0 13 ∧ (BitVec.ofNat 12 w).toNat = fld w 0 12 ∧
    (BitVec.ofNat 11 w).toNat = fld w 0 11 ∧ (BitVec.ofNat 8 w).toNat = fld w 0 8 ∧
    (BitVec.ofNat 14 (w / 4)).toNat = fld w 2 14 ∧ (BitVec.ofNat 11 (w / 4)).toNat = fld w 2 11 ∧
    (w / 16 % 2 == 1).toNat = fld w 4 1 ∧ (w / 256 % 2 == 1).toNat = fld w 8 1 ∧
    (w / 2048 % 2 == 1).toNat = fld w 11 1 ∧ (Fin.ofNat 8 (w / 8388608)).val = fld w 23 3 ∧
    (Fin.ofNat 8 (w / 1048576)).val = fld w 20 3 ∧ (Fin.ofNat 8 (w / 131072)).val = fld w 17 3 ∧
    (Fin.ofNat 8 (w / 16384)).val = fld w 14 3 := by
  simp only [Fin.val_ofNat, BitVec.toNat_ofNat, toNat_bit, fld]
  omega

/-- What the decoder answers, if it answers, is an instruction of kind `k` with this word as its encoding. -/
def Reads (k : RowKind) (w : Nat) (o : Option Instr) : Prop := ∀ i, o = some i → i.kind = k ∧ encodeNat i = w

section
variable {k : RowKind} {w : Nat}

theorem reads_none : Reads k w none ↔ True := by simp [Reads]

theorem reads_some {i : Instr} : Reads k w (some i) ↔ i.kind = k ∧ encodeNat i = w := by simp [Reads]

theorem reads_ite {c : Prop} [Decidable c] {o : Option Instr} : Reads k w (if c then o else none) ↔ (c → Reads k w o) := by
  by_cases h : c <;> simp [h, reads_none]

theorem reads_orElse {o o' : Option Instr} (h : Reads k w o) (h' : Reads k w o') : Reads k w (o <|> o') := by
  cases o with
  | none => exact h'
  | some i => exact h

theorem reads_map {α : Type} {o : Option α} {f : α → Instr} :
    Reads k w (o.map f) ↔ ∀ a, o = some a → (f a).kind = k ∧ encodeNat (f a) = w := by
  cases o <;> simp [Reads]

theorem reads_bind {α : Type} {o : Option α} {f : α → Option Instr} :
    Reads k w (o.bind f) ↔ ∀ a, o = some a → Reads k w (f a) := by
  cases o <;> simp [Reads]

end

section
variable {w : Nat}

/-- The opcodes whose words are all one instruction. -/
theorem direct_words_read (hw : w < 2 ^ 32) :
    (fld w 26 6 = 0x02 → Reads .isa w (decodeOp02 w)) ∧
    (fld w 26 6 = 0x03 → Reads .isa w (decodeOp03 w)) ∧
    (fld w 26 6 = 0x04 → Reads .isa w (decodeOp04 w)) ∧
    (fld w 26 6 = 0x05 → Reads .isa w (decodeOp05 w)) ∧
    (fld w 26 6 = 0x07 → Reads .isa w (decodeOp07 w)) ∧
    (fld w 26 6 = 0x08 → Reads .isa w (decodeOp08 w)) ∧
    (fld w 26 6 = 0x09 → Reads .isa w (decodeOp09 w)) ∧
    (fld w 26 6 = 0x0A → Reads .isa w (decodeOp0A w)) ∧
    (fld w 26 6 = 0x0C → Reads .isa w (decodeOp0C w)) ∧
    (fld w 26 6 = 0x0D → Reads .isa w (decodeOp0D w)) ∧
    (fld w 26 6 = 0x0E → Reads .isa w (decodeOp0E w)) ∧
    (fld w 26 6 = 0x10 → Reads .isa w (decodeOp10 w)) ∧
    (fld w 26 6 = 0x11 → Reads .isa w (decodeOp11 w)) ∧
    (fld w 26 6 = 0x20 → Reads .isa w (decodeOp20 w)) ∧
    (fld w 26 6 = 0x24 → Reads .isa w (decodeOp24 w)) := by
  have word := word_fields hw
  have : fld w 21 5 = fld w 21 1 + 2 * fld w 22 4 := fld_add w 21 1 4
  have : fld w 0 26 = fld w 0 16 + 65536 * fld w 16 10 := fld_add w 0 16 10
  have : fld w 16 10 = fld w 16 5 + 32 * fld w 21 5 := fld_add w 16 5 5
  have : fld w 0 16 = fld w 0 13 + 8192 * fld w 13 3 := fld_add w 0 13 3
  have : fld w 0 16 = fld w 0 3 + 8 * fld w 3 13 := fld_add w 0 3 13
  have : fld w 0 16 = fld w 0 4 + 16 * fld w 4 12 := fld_add w 0 4 12
  have : fld w 4 12 = fld w 4 4 + 16 * fld w 8 8 := fld_add w 4 4 8
  have : fld w 8 8 = fld w 8 3 + 8 * fld w 11 5 := fld_add w 8 3 5
  simp only [decodeOp02, decodeOp03, decodeOp04, decodeOp05, decodeOp07, decodeOp08, decodeOp09, decodeOp0A, decodeOp0C, decodeOp0D,
    decodeOp0E, decodeOp10, decodeOp11, decodeOp20, decodeOp24, reads_ite, reads_some, reads_map, Bool.and_eq_true, beq_iff_eq,
    Cond.ofCode?_eq_some, Sz.ofCode?_eq_some]
  refine ⟨?_, ?_, ?_, ?_, ?_, ?_, ?_, ?_, ?_, ?_, ?_, ?_, ?_, ?_, ?_⟩
  all_goals
    intros
    refine ⟨rfl, ?_⟩
    change _ + _ = w
    simp only [operands_toNat w]
    omega

/-- The integer opcodes that a function field divides. -/
theorem integer_words_read (hw : w < 2 ^ 32) :
    (fld w 26 6 = 0x01 → Reads .isa w (decodeOp01 w)) ∧
    (fld w 26 6 = 0x06 → Reads .isa w (decodeOp06 w)) := by
  have word := word_fields hw
  have : fld w 0 16 = fld w 0 11 + 2048 * fld w 11 5 := fld_add w 0 11 5
  have : fld w 0 16 = fld w 0 6 + 64 * fld w 6 10 := fld_add w 0 6 10
  refine ⟨?_, ?_⟩ <;> intro op
  all_goals simp only [decodeOp01, decodeOp06]
  all_goals split <;> simp only [reads_none, reads_ite, reads_some, beq_iff_eq]
  all_goals
    intros
    refine ⟨rfl, ?_⟩
    change _ + _ = w
    simp only [operands_toNat w]
    omega

/-- The other scalar opcodes that a function field divides. -/
theorem scalar_words_read (hw : w < 2 ^ 32) :
    (fld w 26 6 = 0x0B → Reads .isa w (decodeOp0B w)) ∧
    (fld w 26 6 = 0x0F → Reads .isa w (decodeOp0F w)) ∧
    (fld w 26 6 = 0x12 → Reads .isa w (decodeOp12 w)) ∧
    (fld w 26 6 = 0x13 → Reads .isa w (decodeOp13 w)) ∧
    (fld w 26 6 = 0x14 → Reads .isa w (decodeOp14 w)) := by
  have word := word_fields hw
  have : fld w 21 5 = fld w 21 1 + 2 * fld w 22 4 := fld_add w 21 1 4
  have : fld w 0 16 = fld w 0 2 + 4 * fld w 2 14 := fld_add w 0 2 14
  have : fld w 2 14 = fld w 2 9 + 512 * fld w 11 5 := fld_add w 2 9 5
  have : fld w 0 16 = fld w 0 4 + 16 * fld w 4 12 := fld_add w 0 4 12
  have : fld w 4 12 = fld w 4 1 + 2 * fld w 5 11 := fld_add w 4 1 11
  have : fld w 0 16 = fld w 0 5 + 32 * fld w 5 11 := fld_add w 0 5 11
  have : fld w 5 11 = fld w 5 2 + 4 * fld w 7 9 := fld_add w 5 2 9
  have : fld w 7 9 = fld w 7 4 + 16 * fld w 11 5 := fld_add w 7 4 5
  have : fld w 0 16 = fld w 0 12 + 4096 * fld w 12 4 := fld_add w 0 12 4
  refine ⟨?_, ?_, ?_, ?_, ?_⟩ <;> intro op
  all_goals simp only [decodeOp0B, decodeOp0F, decodeOp12, decodeOp13, decodeOp14]
  all_goals split <;> simp only [reads_none, reads_ite, reads_some, reads_map, beq_iff_eq, Cond.ofCode?_eq_some, AWidth.ofCode?_eq_some]
  all_goals
    intros
    refine ⟨rfl, ?_⟩
    change _ + _ = w
    simp only [operands_toNat w]
    omega

/-- The vector opcodes whose words are all of the Vec format (R75). -/
theorem lane_words_read (hw : w < 2 ^ 32) :
    (fld w 26 6 = 0x16 → Reads .isa w (decodeOp16 w)) ∧
    (fld w 26 6 = 0x17 → Reads .isa w (decodeOp17 w)) ∧
    (fld w 26 6 = 0x19 → Reads .isa w (decodeOp19 w)) ∧
    (fld w 26 6 = 0x1B → Reads .isa w (decodeOp1B w)) ∧
    (fld w 26 6 = 0x1C → Reads .isa w (decodeOp1C w)) ∧
    (fld w 26 6 = 0x1D → Reads .isa w (decodeOp1D w)) := by
  have word := word_fields hw
  have : fld w 0 16 = fld w 0 5 + 32 * fld w 5 11 := fld_add w 0 5 11
  have : fld w 5 11 = fld w 5 1 + 2 * fld w 6 10 := fld_add w 5 1 10
  have : fld w 6 10 = fld w 6 2 + 4 * fld w 8 8 := fld_add w 6 2 8
  have : fld w 8 8 = fld w 8 3 + 8 * fld w 11 5 := fld_add w 8 3 5
  refine ⟨?_, ?_, ?_, ?_, ?_, ?_⟩ <;> intro op
  all_goals simp only [decodeOp16, decodeOp17, decodeOp19, decodeOp1B, decodeOp1C, decodeOp1D]
  all_goals split <;> simp only [reads_none, reads_ite, reads_map, beq_iff_eq, VTy.ofCode?_eq_some]
  all_goals
    intros
    refine ⟨rfl, ?_⟩
    change _ + _ = w
    simp only [operands_toNat w]
    omega

/-- The vector opcodes with mask operands. -/
theorem mask_words_read (hw : w < 2 ^ 32) :
    (fld w 26 6 = 0x18 → Reads .isa w (decodeOp18 w)) ∧
    (fld w 26 6 = 0x1E → Reads .isa w (decodeOp1E w)) := by
  have word := word_fields hw
  have : fld w 0 16 = fld w 0 5 + 32 * fld w 5 11 := fld_add w 0 5 11
  have : fld w 5 11 = fld w 5 1 + 2 * fld w 6 10 := fld_add w 5 1 10
  have : fld w 6 10 = fld w 6 2 + 4 * fld w 8 8 := fld_add w 6 2 8
  have : fld w 8 8 = fld w 8 3 + 8 * fld w 11 5 := fld_add w 8 3 5
  have : fld w 5 11 = fld w 5 6 + 64 * fld w 11 5 := fld_add w 5 6 5
  have : fld w 11 5 = fld w 11 2 + 4 * fld w 13 3 := fld_add w 11 2 3
  have : fld w 16 5 = fld w 16 2 + 4 * fld w 18 3 := fld_add w 16 2 3
  have : fld w 21 5 = fld w 21 2 + 4 * fld w 23 3 := fld_add w 21 2 3
  refine ⟨?_, ?_⟩ <;> intro op
  all_goals simp only [decodeOp18, decodeOp1E]
  all_goals split <;> simp only [reads_none, reads_ite, reads_some, reads_map, Bool.and_eq_true, beq_iff_eq, VTy.ofCode?_eq_some]
  all_goals
    intros
    refine ⟨rfl, ?_⟩
    change _ + _ = w
    simp only [operands_toNat w]
    omega

/-- The opcodes of synchronization, the matrix unit, copies, the heap and pages. -/
theorem unit_words_read (hw : w < 2 ^ 32) :
    (fld w 26 6 = 0x21 → Reads .isa w (decodeOp21 w)) ∧
    (fld w 26 6 = 0x22 → Reads .isa w (decodeOp22 w)) ∧
    (fld w 26 6 = 0x25 → Reads .isa w (decodeOp25 w)) ∧
    (fld w 26 6 = 0x26 → Reads .isa w (decodeOp26 w)) ∧
    (fld w 26 6 = 0x28 → Reads .isa w (decodeOp28 w)) ∧
    (fld w 26 6 = 0x2A → Reads .isa w (decodeOp2A w)) ∧
    (fld w 26 6 = 0x2B → Reads .isa w (decodeOp2B w)) ∧
    (fld w 26 6 = 0x2E → Reads .isa w (decodeOp2E w)) := by
  have word := word_fields hw
  have : fld w 0 16 = fld w 0 11 + 2048 * fld w 11 5 := fld_add w 0 11 5
  have : fld w 21 5 = fld w 21 1 + 2 * fld w 22 4 := fld_add w 21 1 4
  have : fld w 21 5 = fld w 21 4 + 16 * fld w 25 1 := fld_add w 21 4 1
  have : fld w 11 5 = fld w 11 2 + 4 * fld w 13 3 := fld_add w 11 2 3
  have : fld w 16 5 = fld w 16 3 + 8 * fld w 19 2 := fld_add w 16 3 2
  have : fld w 21 5 = fld w 21 3 + 8 * fld w 24 2 := fld_add w 21 3 2
  have : fld w 11 5 = fld w 11 3 + 8 * fld w 14 2 := fld_add w 11 3 2
  have : fld w 16 10 = fld w 16 3 + 8 * fld w 19 7 := fld_add w 16 3 7
  have : fld w 16 10 = fld w 16 5 + 32 * fld w 21 5 := fld_add w 16 5 5
  refine ⟨?_, ?_, ?_, ?_, ?_, ?_, ?_, ?_⟩ <;> intro op
  all_goals simp only [decodeOp21, decodeOp22, decodeOp25, decodeOp26, decodeOp28, decodeOp2A, decodeOp2B, decodeOp2E]
  all_goals split <;> simp only [reads_none, reads_ite, reads_some, reads_map, Bool.and_eq_true, beq_iff_eq, Sz.ofCode?_eq_some]
  all_goals
    intros
    refine ⟨rfl, ?_⟩
    change _ + _ = w
    simp only [operands_toNat w]
    omega

/-- Moves between formats (R127): two of their function codes each stand for two instructions. -/
theorem convert_words_read (hw : w < 2 ^ 32) (op : fld w 26 6 = 0x1A) : Reads .isa w (decodeOp1A w) := by
  have word := word_fields hw
  have : fld w 0 16 = fld w 0 5 + 32 * fld w 5 11 := fld_add w 0 5 11
  have : fld w 5 11 = fld w 5 1 + 2 * fld w 6 10 := fld_add w 5 1 10
  have : fld w 6 10 = fld w 6 2 + 4 * fld w 8 8 := fld_add w 6 2 8
  have : fld w 8 8 = fld w 8 3 + 8 * fld w 11 5 := fld_add w 8 3 5
  have : fld w 8 8 = fld w 8 1 + 2 * fld w 9 7 := fld_add w 8 1 7
  have : fld w 9 7 = fld w 9 5 + 32 * fld w 14 2 := fld_add w 9 5 2
  have : fld w 11 5 = fld w 11 1 + 2 * fld w 12 4 := fld_add w 11 1 4
  have : fld w 12 4 = fld w 12 1 + 2 * fld w 13 3 := fld_add w 12 1 3
  have : fld w 12 4 = fld w 12 2 + 4 * fld w 14 2 := fld_add w 12 2 2
  unfold decodeOp1A
  split <;> (try apply reads_orElse) <;> simp only [reads_none, reads_ite, reads_some, reads_map,
    reads_bind, Bool.and_eq_true, beq_iff_eq, VTy.ofCode?_eq_some]
  all_goals
    intros
    refine ⟨rfl, ?_⟩
    change _ + _ = w
    simp only [operands_toNat w]
    omega

/-- System instructions (R111). -/
theorem system_words_read (hw : w < 2 ^ 32) (op : fld w 26 6 = 0x15) : Reads .isa w (decodeOp15 w) := by
  have word := word_fields hw
  have : fld w 0 16 = fld w 0 8 + 256 * fld w 8 8 := fld_add w 0 8 8
  have : fld w 16 10 = fld w 16 5 + 32 * fld w 21 5 := fld_add w 16 5 5
  unfold decodeOp15
  split <;> (try refine reads_orElse ?_ (reads_orElse ?_ ?_)) <;>
    simp only [reads_none, reads_ite, reads_some, Bool.and_eq_true, beq_iff_eq]
  case h_1 => exact fun zeros => ⟨rfl, by change 0x54000000 = w; omega⟩
  case h_3 => exact fun zeros => ⟨rfl, by change 0x54000200 = w; omega⟩
  case h_4 => exact fun zeros => ⟨rfl, by change 0x54000300 = w; omega⟩
  case h_5 => exact fun zeros => ⟨rfl, by change 0x54000400 = w; omega⟩
  all_goals
    intros
    refine ⟨rfl, ?_⟩
    change _ + _ = w
    simp only [operands_toNat w]
    omega

/-- Frames and kernels (R299-R303). -/
theorem frame_words_read (hw : w < 2 ^ 32) (op : fld w 26 6 = 0x2D) : Reads .isa w (decodeOp2D w) := by
  have word := word_fields hw
  have : fld w 0 16 = fld w 0 3 + 8 * fld w 3 13 := fld_add w 0 3 13
  have : fld w 3 13 = fld w 3 8 + 256 * fld w 11 5 := fld_add w 3 8 5
  have : fld w 11 10 = fld w 11 5 + 32 * fld w 16 5 := fld_add w 11 5 5
  have : fld w 11 15 = fld w 11 10 + 1024 * fld w 21 5 := fld_add w 11 10 5
  unfold decodeOp2D
  split <;> simp only [reads_none, reads_ite, reads_some, Bool.and_eq_true, beq_iff_eq]
  case h_3 => exact fun zeros => ⟨rfl, by change 0xB4000010 = w; omega⟩
  all_goals
    intros
    refine ⟨rfl, ?_⟩
    change _ + _ = w
    simp only [operands_toNat w]
    omega

theorem decodeRaw_reads (hw : w < 2 ^ 32) : Reads .isa w (decodeRaw w) := by
  have direct := direct_words_read hw
  have integer := integer_words_read hw
  have scalar := scalar_words_read hw
  have lane := lane_words_read hw
  have mask := mask_words_read hw
  have unit := unit_words_read hw
  have convert := convert_words_read hw
  have system := system_words_read hw
  have frame := frame_words_read hw
  unfold decodeRaw
  split <;> simp_all only [reads_none, forall_const]

/-- Drain micro-ops (R79, R216). -/
theorem decodeDrain_reads (hw : w < 2 ^ 32) : Reads .drain w (decodeDrain w) := by
  have word : w = fld w 26 6 * 67108864 + fld w 0 26 := by
    unfold fld
    omega
  have : fld w 0 26 = fld w 0 23 + 8388608 * fld w 23 3 := fld_add w 0 23 3
  have : fld w 0 23 = fld w 0 20 + 1048576 * fld w 20 3 := fld_add w 0 20 3
  have : fld w 0 20 = fld w 0 17 + 131072 * fld w 17 3 := fld_add w 0 17 3
  have : fld w 0 17 = fld w 0 14 + 16384 * fld w 14 3 := fld_add w 0 14 3
  have : fld w 0 17 = fld w 0 3 + 8 * fld w 3 14 := fld_add w 0 3 14
  have : fld w 0 23 = fld w 0 16 + 65536 * fld w 16 7 := fld_add w 0 16 7
  have : fld w 0 23 = fld w 0 2 + 4 * fld w 2 21 := fld_add w 0 2 21
  have : fld w 0 23 = fld w 0 3 + 8 * fld w 3 20 := fld_add w 0 3 20
  have : fld w 2 21 = fld w 2 11 + 2048 * fld w 13 10 := fld_add w 2 11 10
  have : fld w 0 20 = fld w 0 2 + 4 * fld w 2 18 := fld_add w 0 2 18
  have : fld w 0 20 = fld w 0 3 + 8 * fld w 3 17 := fld_add w 0 3 17
  unfold decodeDrain
  split <;> simp only [reads_none, reads_ite, reads_some, reads_map, Bool.and_eq_true, beq_iff_eq, VCond.ofCode?_eq_some,
    DTy.ofCode?_eq_some]
  case h_1 => exact fun zeros => ⟨rfl, by change 0 = w; omega⟩
  case h_27 => exact fun zeros => ⟨rfl, by change 0xFC000000 = w; omega⟩
  all_goals
    intros
    refine ⟨rfl, ?_⟩
    change _ + _ = w
    simp only [operands_toNat w]
    omega

end

/-! ### The round trip -/

/-- Settles O1: each format's word has the fields it was made of, and the decoder reads these. -/
theorem encodeDecode : Obligations.EncodeDecode := by
  unfold Obligations.EncodeDecode Claims.EncodeDecode Claims.DrainEncodeDecode
  refine ⟨fun i wf isa => ?_, fun i _ drain => decodeDrain_of_encode (BitVec.toNat_ofNat ..).symm drain⟩
  rw [decodeWord, decodeRaw_of_encode (w := (encode i).toNat) (BitVec.toNat_ofNat ..).symm isa]
  exact Option.filter_eq_some_iff.mpr ⟨rfl, wf⟩

theorem encode_eq_of_encodeNat {w : BitVec 32} {i : Instr} (h : encodeNat i = w.toNat) : encode i = w := by
  rw [encode, h, BitVec.ofNat_toNat, BitVec.setWidth_eq]

/-- Settles O2: a word is the sum of the fields that the decoder reads from it. -/
theorem decodeEncode : Obligations.DecodeEncode := by
  unfold Obligations.DecodeEncode
  refine ⟨fun w i h => ?_, fun w i h => ?_⟩
  · obtain ⟨raw, wf⟩ := Option.filter_eq_some_iff.mp h
    obtain ⟨isa, word⟩ := decodeRaw_reads w.isLt i raw
    exact ⟨wf, isa, encode_eq_of_encodeNat word⟩
  · obtain ⟨drain, word⟩ := decodeDrain_reads w.isLt i h
    exact ⟨drain, encode_eq_of_encodeNat word⟩

/-- Settles O27, by decoding the fifteen words. -/
theorem decodeSanity : Obligations.DecodeSanity := by
  unfold Obligations.DecodeSanity
  decide

/-- Settles O25, by the lemmas on the word at the program counter and on the step that runs it. -/
theorem stepRunsDecoded : Obligations.StepRunsDecoded := by
  unfold Obligations.StepRunsDecoded
  intro s p t w i fetches word decoded
  exact (Machine.step_run fetches.1 (Machine.fetch_word fetches word) rfl).1 i decoded

end Sys2Proof
end
section
/-!
The page instructions' statement leaves open that the memory of the core is in its canonical form (`Memory.wf`).
-/

open Sys2Proof Sys2Proof.Claims

namespace Sys2Proof.Machine

/-- A thread of a Setter core with a migration block of zeros at address 0, of which the first STATUS byte, at 32, stands twice in
the memory, and a bank with 16 pinned entries: the page can not be locked. -/
def twiceStatus : State :=
  { cores := [(19584, { direct := [(32, 1), (32, 1)], threads := [(0, { st := .inRot, slot := 256 })], ctx := 64 })],
    cur := ⟨19584, 0, 0⟩, stks := [(0, { tlb := List.replicate 16 ⟨BitVec.ofNat 64 (2 ^ 63 + 0x1000), 0, true⟩ })] }

theorem goodMig_twiceStatus : goodMig (mread twiceStatus.myCore.direct 0 64) := by
  dsimp only [goodMig]
  decide +kernel

theorem soleWaiter_twiceStatus : soleWaiter twiceStatus 19584 0 := by
  intro q c t th r hq _ ht _ _
  obtain ⟨rfl, rfl⟩ := Prod.mk.injEq .. ▸ List.mem_singleton.mp hq
  obtain ⟨rfl, rfl⟩ := Prod.mk.injEq .. ▸ List.mem_singleton.mp ht
  exact ⟨rfl, rfl⟩

/-- The STATUS that `migr` writes there has a zero at 32, which takes the first of the two bytes away; then the second one shows. -/
theorem migr_twiceStatus : ∃ u, exec (.migr 4) twiceStatus = .next u ∧ mread u.myCore.direct 32 8 = 2 ^ 63 + 3 * 2 ^ 56 + 1 :=
  ⟨_, rfl, by decide +kernel⟩

/-- Refutes O48: the STATUS of CODE 3 is not read back from a memory where one of its bytes stands twice. -/
theorem not_pageInstructions : ¬ Obligations.PageInstructions := by
  unfold Obligations.PageInstructions
  rintro ⟨-, -, requests⟩
  obtain ⟨-, -, -, -, -, -, block⟩ := (requests 0 4 twiceStatus (by decide +kernel)).1 (by decide +kernel)
  obtain ⟨-, good⟩ := block (by decide +kernel) (by decide +kernel)
  obtain ⟨-, -, full, -⟩ := good goodMig_twiceStatus (by decide +kernel) rfl soleWaiter_twiceStatus
  obtain ⟨u, run, -, -, status⟩ := full (by decide +kernel) (by decide +kernel) ⟨_, .head _, by decide +kernel⟩
  obtain ⟨v, run', status'⟩ := migr_twiceStatus
  obtain rfl : u = v := by simpa [run] using run'
  exact absurd (status.symm.trans status') (by decide)

end Sys2Proof.Machine
end
section
/-!
Skips, branches, calls and register jumps (R96-R99): an issue that nothing delays, the conditions of R69, and the targets.
-/

open Sys2Proof Sys2Proof.Claims

namespace Sys2Proof.Machine

/-! ### An issue that meets no token and no chain (R27, R165, R167) -/

theorem plain_iff (s : State) (rd wr : List GReg) :
    plain s rd wr = true ↔ (∀ r ∈ rd ++ wr, r ≠ 0 → s.me.pend.getLsbD r.val = false) ∧ s.me.toks.any (named (rd ++ wr)) = false ∧
      ((28 : GReg) ∈ rd → s.me.crs.inRoute = none) ∧ ((29 : GReg) ∈ wr → s.me.crs.outRoute = none) := by
  simp only [plain, Bool.and_eq_true, List.all_eq_true, Bool.or_eq_true, beq_iff_eq, Bool.not_eq_true', List.contains_iff_mem,
    Option.isNone_iff_eq_none, ← Bool.not_eq_true (List.contains _ _), and_assoc, or_iff_not_imp_left, not_not, ne_eq]
  rfl

section
variable {s : State} {rd wr : List GReg} {f : State → Ends} (h : plain s rd wr = true)
include h

theorem issue_plain_done {u : State} (body : f s = .done u) : s.issue rd wr f = at' u (s.me.regs.pc + 4) := by
  obtain ⟨pend, toks, pops, pushes⟩ := (plain_iff ..).mp h
  rw [s.issue_plain _ _ _ (s.before_none _ _ pend pops pushes) pops pushes toks, body]
  rfl

theorem issue_plain_jump {u : State} {pc : BitVec 56} (body : f s = .jump u pc) : s.issue rd wr f = at' u pc := by
  obtain ⟨pend, toks, pops, pushes⟩ := (plain_iff ..).mp h
  rw [s.issue_plain _ _ _ (s.before_none _ _ pend pops pushes) pops pushes toks, body]
  rfl

theorem issue_plain_trap {t : Trap} (body : f s = .trap t) : s.issue rd wr f = s.trapMe t := by
  obtain ⟨pend, toks, pops, pushes⟩ := (plain_iff ..).mp h
  rw [s.issue_plain _ _ _ (s.before_none _ _ pend pops pushes) pops pushes toks, body]

/-- A register that the instruction names as written takes its value from no chain. -/
theorem gw_plain_eq_putG {d : GReg} (hd : d ∈ wr) (v : Word) : s.gw d v = putG s d v := by
  obtain ⟨-, -, -, pushes⟩ := (plain_iff ..).mp h
  exact s.gw_eq_putG d v fun e => pushes (e ▸ hd)

end

/-! ### Conditions (R69) and targets (R97) -/

theorem holds_iff (c : Cond) (a b : Word) : c.holds a b = true ↔ condMeans c a b := by
  cases c <;> simp [Cond.holds, condMeans, BitVec.slt, BitVec.ult, BitVec.sle, BitVec.ule]

theorem relTarget_eq {w : Nat} (pc : BitVec 56) (off : BitVec w) :
    relTarget pc w off = BitVec.ofInt 56 (pc.toNat + 4 + 4 * off.toInt) := by
  unfold relTarget
  rw [BitVec.ofInt_add, BitVec.ofInt_add, BitVec.ofInt_mul, BitVec.signExtend]
  simp

/-! ### The statements -/

theorem skipOn_holds {cc : Cond} {x y : Word} (n : Fin 4) (s : State) (h : condMeans cc x y) :
    skipOn cc x y n s = .jump (s.modMe fun th => { th with ann := n.val }) (s.me.regs.pc + 4 + BitVec.ofNat 56 (4 * n.val)) :=
  if_pos ((holds_iff ..).mpr h)

theorem skipOn_fails {cc : Cond} {x y : Word} (n : Fin 4) (s : State) (h : ¬ condMeans cc x y) : skipOn cc x y n s = .done s :=
  if_neg (mt (holds_iff ..).mp h)

theorem skips : Skips := by
  intro cc a b imm n s
  refine ⟨fun plain => ⟨fun holds => ?_, fun fails => ?_⟩, fun plain => ⟨fun holds => ?_, fun fails => ?_⟩⟩
  · exact congrArg Host.Outcome.next (issue_plain_jump plain (skipOn_holds n s holds))
  · exact congrArg Host.Outcome.next (issue_plain_done plain (skipOn_fails n s fails))
  · exact congrArg Host.Outcome.next (issue_plain_jump plain (skipOn_holds n s holds))
  · exact congrArg Host.Outcome.next (issue_plain_done plain (skipOn_fails n s fails))

theorem branches : Branches := by
  intro cc a off far s
  refine ⟨fun plain => ⟨fun holds => ?_, fun fails => ?_⟩, ?_, fun plain => ?_⟩
  · rw [← relTarget_eq]
    exact congrArg Host.Outcome.next (issue_plain_jump plain (if_pos ((holds_iff ..).mpr holds)))
  · exact congrArg Host.Outcome.next (issue_plain_done plain (if_neg (mt (holds_iff ..).mp fails)))
  · rw [← relTarget_eq]
    exact congrArg Host.Outcome.next (issue_plain_jump ((plain_iff ..).mpr (by simp [named])) rfl)
  · rw [← relTarget_eq, ← gw_plain_eq_putG plain (List.mem_singleton.mpr rfl)]
    exact congrArg Host.Outcome.next (issue_plain_jump plain rfl)

theorem registerJumps : RegisterJumps := by
  intro d a s
  refine ⟨fun plain => ⟨fun aligned => ?_, fun misaligned => ?_⟩, fun plain => ⟨fun aligned => ?_, fun misaligned => ?_⟩⟩
  · exact congrArg Host.Outcome.next (issue_plain_jump plain (if_neg (not_not.mpr aligned)))
  · exact congrArg Host.Outcome.next (issue_plain_trap plain (if_pos misaligned))
  · rw [← gw_plain_eq_putG plain (List.mem_singleton.mpr rfl)]
    exact congrArg Host.Outcome.next (issue_plain_jump plain (if_neg (not_not.mpr aligned)))
  · exact congrArg Host.Outcome.next (issue_plain_trap plain (if_pos misaligned))

/-- Settles O4: each form's body, run by an issue that nothing delays. -/
theorem controlTransfers : Obligations.ControlTransfers := by
  unfold Obligations.ControlTransfers
  exact ⟨skips, branches, registerJumps⟩

end Sys2Proof.Machine
end
section
/-!
Control registers (R73, R109, R38, R240, R250): what a read gives, what a write by the field map leaves, and what a re-division of
a core's memory or of a cluster's pool keeps.
-/

open Sys2Proof Sys2Proof.Claims

namespace Sys2Proof.Machine

/-! ### Reads -/

theorem State.crGet_of_mem {s : State} {n : BitVec 12} {v : Word} (h : (n, v) ∈ crReads s) : s.crGet n.toNat = v := by
  simp only [crReads, List.mem_cons, Prod.mk.injEq, List.not_mem_nil, or_false] at h
  rcases h with ⟨rfl, rfl⟩ | ⟨rfl, rfl⟩ | ⟨rfl, rfl⟩ | ⟨rfl, rfl⟩ | ⟨rfl, rfl⟩ | ⟨rfl, rfl⟩ | ⟨rfl, rfl⟩ | ⟨rfl, rfl⟩ | ⟨rfl, rfl⟩ |
    ⟨rfl, rfl⟩ | ⟨rfl, rfl⟩ | ⟨rfl, rfl⟩ <;> rfl

theorem counter_toNat (k : Fin 8) : (BitVec.ofNat 12 (0x30 + k.val)).toNat = 0x30 + k.val := by
  rw [BitVec.toNat_ofNat]
  omega

theorem delay_toNat (k : Fin 128) : (BitVec.ofNat 12 (0x100 + k.val)).toNat = 0x100 + k.val := by
  rw [BitVec.toNat_ofNat]
  omega

theorem State.crGet_counter (s : State) (k : Fin 8) :
    s.crGet (BitVec.ofNat 12 (0x30 + k.val)).toNat = (s.myCore.nctr[k.val]).setWidth 64 := by
  rw [counter_toNat]
  unfold State.crGet
  split
  case h_15 =>
    rw [dif_pos (by omega)]
    simp
  all_goals omega

theorem State.crGet_delay (s : State) (k : Fin 128) :
    s.crGet (BitVec.ofNat 12 (0x100 + k.val)).toNat = tget 0 s.myCore.dacc k.val := by
  rw [delay_toNat]
  unfold State.crGet
  split
  case h_15 =>
    rw [dif_neg (by omega), if_pos (by omega)]
    simp
  all_goals omega

/-! ### The word of `jrnl` (R250) -/

/-- The bits set below `n` where `p` holds, added up. -/
def bitSum (p : Nat → Bool) (n : Nat) : Nat := ((List.range n).filter p).foldl (fun a i => a + 2 ^ i) 0

theorem bitSum_succ (p : Nat → Bool) (n : Nat) : bitSum p (n + 1) = bitSum p n + if p n then 2 ^ n else 0 := by
  unfold bitSum
  rw [List.range_succ, List.filter_append, List.foldl_append]
  cases h : p n <;> simp [h]

theorem bitSum_lt (p : Nat → Bool) (n : Nat) : bitSum p n < 2 ^ n := by
  induction n with
  | zero => exact Nat.one_pos
  | succ n ih =>
    rw [bitSum_succ, Nat.pow_succ]
    split <;> omega

theorem testBit_bitSum (p : Nat → Bool) (n i : Nat) : (bitSum p n).testBit i = (decide (i < n) && p i) := by
  induction n with
  | zero => simp [bitSum]
  | succ n ih =>
    have small := bitSum_lt p n
    rw [bitSum_succ, Nat.add_comm]
    rcases Nat.lt_trichotomy i n with h | rfl | h
    · split
      · rw [Nat.testBit_two_pow_add_gt h, ih]
        simp [h, Nat.lt_succ_of_lt h]
      · rw [Nat.zero_add, ih]
        simp [h, Nat.lt_succ_of_lt h]
    · have high := Nat.testBit_lt_two_pow small
      cases p i <;> simp [Nat.testBit_two_pow_add_eq, high]
    · have : ¬ i < n + 1 := by omega
      rw [Nat.testBit_lt_two_pow]
      · simp [this]
      · have := Nat.pow_le_pow_right (n := 2) (by decide) h
        rw [Nat.pow_succ] at this
        split <;> omega

theorem jrnlReads_jrnlWord (c : Core) : jrnlReads c c.jrnlWord := by
  let busy : Nat → Bool := fun i => (tget {} c.journal i).busy
  have free : 16 - ((List.range 16).filter busy).length = (List.range 16).countP fun i => !busy i := by
    have := List.length_eq_countP_add_countP busy (l := List.range 16)
    simp only [List.length_range, List.countP_eq_length_filter, Bool.not_eq_true, Bool.decide_eq_false] at this ⊢
    omega
  have word : c.jrnlWord.toNat = c.rfd.toNat * 2 ^ 48 + bitSum busy 16 * 2 ^ 32 + (16 - ((List.range 16).filter busy).length) := by
    have := bitSum_lt busy 16
    have := c.rfd.isLt
    refine (BitVec.toNat_ofNat ..).trans (Nat.mod_eq_of_lt ?_)
    change c.rfd.toNat * 2 ^ 48 + bitSum busy 16 * 2 ^ 32 + (16 - ((List.range 16).filter busy).length) < 2 ^ 64
    omega
  have small := bitSum_lt busy 16
  refine ⟨?_, fun i hi => ?_, ?_⟩
  · apply BitVec.eq_of_toNat_eq
    rw [BitVec.extractLsb'_toNat, Nat.shiftRight_eq_div_pow, word]
    omega
  · have field : c.jrnlWord.toNat / 2 ^ 32 % 2 ^ 16 = bitSum busy 16 := by
      rw [word]
      omega
    rw [BitVec.getLsbD, Nat.add_comm, ← Nat.testBit_div_two_pow]
    have := Nat.testBit_mod_two_pow (c.jrnlWord.toNat / 2 ^ 32) 16 i
    rw [field, testBit_bitSum, decide_eq_true hi, Bool.true_and, Bool.true_and] at this
    exact this.symm
  · rw [← free, word]
    omega

/-! ### Writes by the field map -/

theorem State.crSet_of_mem {row : BitVec 12 × Nat × (Thread → Word → Thread)} (h : row ∈ crWrites) (s : State) (v : Word) :
    s.crSet row.1.toNat v = some (s.modMe fun th => row.2.2 th (BitVec.ofNat 64 (v.toNat % row.2.1))) := by
  have whole : BitVec.ofNat 64 (v.toNat % 2 ^ 64) = v := by
    rw [Nat.mod_eq_of_lt v.isLt, BitVec.ofNat_toNat, BitVec.setWidth_eq]
  have lease : bits (BitVec.ofNat 64 (v.toNat % 2 ^ 21)) 20 16 = bits v 20 16 := by
    simp only [bits, BitVec.toNat_ofNat]
    omega
  simp only [crWrites, List.mem_cons, List.not_mem_nil, or_false] at h
  rcases h with rfl | rfl | rfl | rfl | rfl | rfl
  · simp [State.crSet, bits]
  · simp [State.crSet, bits]
  · simp only [whole]; rfl
  · simp only [whole]; rfl
  · simp only [lease]
    simp [State.crSet, bits]
  · simp [State.crSet, bits]

/-- A write of a row of `crWrites` leaves the general registers and the program counter. -/
theorem regs_of_mem_crWrites {row : BitVec 12 × Nat × (Thread → Word → Thread)} (h : row ∈ crWrites) (th : Thread) (v : Word) :
    (row.2.2 th v).regs = th.regs := by
  simp only [crWrites, List.mem_cons, List.not_mem_nil, or_false] at h
  rcases h with rfl | rfl | rfl | rfl | rfl | rfl <;> rfl

theorem State.crSet_readOnly {n : BitVec 12} (h : n ∈ crReadOnly) (s : State) (v : Word) : s.crSet n.toNat v = some s := by
  simp only [crReadOnly, List.mem_cons, List.not_mem_nil, or_false] at h
  rcases h with rfl | rfl | rfl | rfl | rfl <;> rfl

theorem State.crSet_counter (s : State) (k : Fin 8) (v : Word) :
    s.crSet (BitVec.ofNat 12 (0x30 + k.val)).toNat v =
      some (s.modCore s.cur.core fun c => { c with nctr := c.nctr.set k.val (v.setWidth 32) }) := by
  rw [counter_toNat]
  unfold State.crSet
  dsimp only
  split
  case h_10 =>
    rw [dif_pos (by omega)]
    simp
  all_goals omega

theorem State.crSet_delay (s : State) (k : Fin 128) (v : Word) :
    s.crSet (BitVec.ofNat 12 (0x100 + k.val)).toNat v =
      some (s.modCore s.cur.core fun c => { c with dacc := tset c.dacc k.val v }) := by
  rw [delay_toNat]
  unfold State.crSet
  dsimp only
  split
  case h_10 =>
    rw [dif_neg (by omega), if_pos (by omega)]
    simp
  all_goals omega

theorem Core.jrnlWrite_eq (c : Core) (v : Word) : c.jrnlWrite v = { c with rfd := c.rfd &&& ~~~ v.extractLsb' 48 16 } := by
  have : BitVec.ofNat 16 (v.toNat / 2 ^ 48) = v.extractLsb' 48 16 := by
    rw [BitVec.extractLsb', Nat.shiftRight_eq_div_pow]
  rw [Core.jrnlWrite, this]

theorem State.crSet_jrnl (s : State) (v : Word) : s.crSet (0x022 : BitVec 12).toNat v =
    some (s.modCore s.cur.core fun c => { c with rfd := c.rfd &&& ~~~ v.extractLsb' 48 16 }) := by
  simp only [← Core.jrnlWrite_eq]
  rfl


/-! ### What a re-division of storage keeps (R38, R240) -/

/-- `t` is `s` but for copies of lines: those in the caches of its cores and pools, and those in its dies' slices. -/
structure CopiesOnly (s t : State) : Prop where
  cur : t.cur = s.cur
  core : ∀ p, ∃ ca, t.core p = { s.core p with ca := ca }
  cluster : ∀ k, ∃ pool, t.cluster k = { s.cluster k with pool := pool }

theorem CopiesOnly.refl (s : State) : CopiesOnly s s := ⟨rfl, fun _ => ⟨_, rfl⟩, fun _ => ⟨_, rfl⟩⟩

theorem CopiesOnly.trans {s t u : State} (h : CopiesOnly s t) (h' : CopiesOnly t u) : CopiesOnly s u where
  cur := h'.cur.trans h.cur
  core p := by
    obtain ⟨ca, eq⟩ := h.core p
    obtain ⟨ca', eq'⟩ := h'.core p
    exact ⟨ca', by rw [eq', eq]⟩
  cluster k := by
    obtain ⟨pool, eq⟩ := h.cluster k
    obtain ⟨pool', eq'⟩ := h'.cluster k
    exact ⟨pool', by rw [eq', eq]⟩

theorem CopiesOnly.foldl {α : Type} {f : State → α → State} (step : ∀ s x, CopiesOnly s (f s x)) (xs : List α) (s : State) :
    CopiesOnly s (xs.foldl f s) := by
  induction xs generalizing s with
  | nil => exact .refl s
  | cons x xs ih => exact (step s x).trans (ih _)

theorem CopiesOnly.modCore {f : Core → Core} (h : ∀ c, ∃ ca, f c = { c with ca := ca }) (s : State) (q : Nat) :
    CopiesOnly s (s.modCore q f) where
  cur := rfl
  core p := by
    by_cases e : p = q
    · subst e
      rw [State.modCore_core_same]
      exact h _
    · rw [State.modCore_core_ne _ _ _ _ e]
      exact ⟨_, rfl⟩
  cluster k := ⟨_, rfl⟩

theorem CopiesOnly.stashGives (p : Nat) (s : State) (x : StashLine) : CopiesOnly s (s.stashGives p x.line) := by
  have dropped : CopiesOnly s (s.modCore p fun c => c.dropStash x.line) := .modCore (fun c => ⟨_, rfl⟩) s p
  unfold State.stashGives
  split
  · exact .refl s
  · dsimp only
    split
    · exact dropped
    · exact dropped.trans ⟨rfl, fun _ => ⟨_, rfl⟩, fun _ => ⟨_, rfl⟩⟩

theorem CopiesOnly.dropPool (s : State) (k : Nat) : CopiesOnly s (s.setCluster k { s.cluster k with pool := [] }) where
  cur := rfl
  core p := ⟨_, rfl⟩
  cluster j := by
    by_cases e : j = k
    · subst e
      exact ⟨[], tget_tset_same ..⟩
    · exact ⟨_, tget_tset_ne _ _ _ _ _ e⟩

theorem CopiesOnly.resettle (old new : State) (k : Nat) (poolChanged : Bool) : CopiesOnly new (old.resettle new k poolChanged) := by
  unfold State.resettle
  dsimp only
  split
  · exact (CopiesOnly.foldl (fun s i => .modCore (fun c => ⟨_, rfl⟩) s _) _ new).trans (.dropPool _ k)
  · exact .foldl (fun s i => .modCore (fun c => ⟨_, rfl⟩) s _) _ new

theorem State.carveWrite_refused {v : Word} (h : 16 < bits v 4 0 + bits v 12 8) (s : State) (p : Nat) : s.carveWrite p v = none := by
  unfold State.carveWrite
  simp [h]

/-- A legal `carve` word changes the two fields of the core, its direct storage where it gains granules, and copies of lines. -/
theorem State.carveWrite_legal {v : Word} (h : bits v 4 0 + bits v 12 8 ≤ 16) (s : State) (p : Nat) :
    ∃ t ca, s.carveWrite p v = some t ∧ t.cur = s.cur ∧ t.core p = { s.core p with
      dirG := bits v 4 0, stashG := bits v 12 8, ca := ca,
      direct := if (s.core p).dirG < bits v 4 0 then mzeroFrom (s.core p).direct ((s.core p).dirG * 32768) (bits v 4 0 * 32768)
        else (s.core p).direct } := by
  have legal : (16 < bits v 4 0 || 16 < bits v 12 8 || 16 < bits v 4 0 + bits v 12 8) = false := by
    simp only [Bool.or_eq_false_iff, decide_eq_false_iff_not]
    omega
  unfold State.carveWrite
  simp only [legal, Bool.false_eq_true, if_false]
  split
  case isTrue same =>
    obtain ⟨hd, hg⟩ : bits v 4 0 = (s.core p).dirG ∧ bits v 12 8 = (s.core p).stashG := by simpa using same
    exact ⟨s, _, rfl, rfl, by rw [hd, hg, if_neg (Nat.lt_irrefl _)]⟩
  case isFalse =>
    have flushed := CopiesOnly.foldl (CopiesOnly.stashGives p) (s.core p).ca.stash s
    generalize (s.core p).ca.stash.foldl (fun s x => s.stashGives p x.line) s = u at flushed
    obtain ⟨ca, core⟩ := flushed.core p
    split
    · exact ⟨_, _, rfl, flushed.cur, by rw [State.setCore_core_same, core]⟩
    · obtain ⟨ca', core'⟩ := (CopiesOnly.resettle u _ (clusterOf p) false).core p
      exact ⟨_, ca', rfl, (CopiesOnly.resettle ..).cur.trans flushed.cur, by rw [core', State.setCore_core_same, core]⟩

theorem State.carveWrite_same {v : Word} {s : State} {p : Nat} (hd : bits v 4 0 = (s.core p).dirG) (hg : bits v 12 8 = (s.core p).stashG)
    (h : bits v 4 0 + bits v 12 8 ≤ 16) : s.carveWrite p v = some s := by
  unfold State.carveWrite
  simp only [hd, hg] at h ⊢
  rw [if_neg (by simp; omega), if_pos (by simp)]

theorem State.vpoolWrite_refused {v : Word} (h : 16 < bits v 20 16) (s : State) (k : Nat) : s.vpoolWrite k v = none := by
  unfold State.vpoolWrite
  simp [h]

/-- A legal `vpool` word changes the two fields of the cluster, and copies of lines. -/
theorem State.vpoolWrite_legal {v : Word} (h : bits v 20 16 ≤ 16) (s : State) (k : Nat) :
    ∃ t, s.vpoolWrite k v = some t ∧ t.cur = s.cur ∧ (∀ p, ∃ ca, t.core p = { s.core p with ca := ca }) ∧
      (t.cluster k).lend = bits v 20 16 ∧ (t.cluster k).memb = v.extractLsb' 0 16 := by
  have memb : BitVec.ofNat 16 v.toNat = v.extractLsb' 0 16 := by
    rw [BitVec.extractLsb', Nat.shiftRight_zero]
  unfold State.vpoolWrite
  simp only [Nat.not_lt.mpr h, if_false, memb]
  split
  case isTrue same =>
    obtain ⟨lend, members⟩ : bits v 20 16 = (s.cluster k).lend ∧ v.extractLsb' 0 16 = (s.cluster k).memb := by simpa using same
    exact ⟨s, rfl, rfl, fun _ => ⟨_, rfl⟩, lend.symm, members.symm⟩
  case isFalse =>
    have settled := CopiesOnly.resettle s (s.setCluster k { s.cluster k with lend := bits v 20 16, memb := v.extractLsb' 0 16 }) k true
    obtain ⟨pool, eq⟩ := settled.cluster k
    refine ⟨_, rfl, settled.cur, settled.core, ?_⟩
    rw [eq, State.cluster, State.setCluster, tget_tset_same]
    exact ⟨rfl, rfl⟩

theorem mget_mzeroFrom (m : Memory) (lo hi x : Nat) : mget (mzeroFrom m lo hi) x = if x < lo ∨ hi ≤ x then mget m x else 0 := by
  induction m with
  | nil => exact (ite_self _).symm
  | cons c m ih =>
    obtain ⟨k, b⟩ := c
    unfold mget mzeroFrom at *
    by_cases kept : k < lo ∨ hi ≤ k
    · rw [List.filter_cons_of_pos (by simpa using kept)]
      by_cases e : k = x
      · subst e
        simp [tget, kept]
      · simp [tget, e, ih]
    · rw [List.filter_cons_of_neg (by simpa using kept), ih]
      by_cases e : k = x
      · subst e
        simp [kept]
      · simp [tget, e]


/-! ### Instructions that meet no token and no chain -/

theorem putG_pc (s : State) (d : GReg) (v : Word) : (putG s d v).me.regs.pc = s.me.regs.pc := by
  rw [putG_me]

theorem exec_crr_plain {s : State} {d : GReg} (h : plain s [] [d] = true) (n : BitVec 12) :
    exec (.crr d n) s = .next (on (putG s d (s.crGet n.toNat))) := by
  rw [on, putG_pc, ← gw_plain_eq_putG h (List.mem_singleton.mpr rfl)]
  exact congrArg Host.Outcome.next (issue_plain_done h rfl)

theorem crWrite_taken {s t : State} {n : BitVec 12} {v : Word} (h : s.crSet n.toNat v = some t) : crWrite n v s = .done t := by
  rw [crWrite, h]

theorem crWrite_refused {s : State} {n : BitVec 12} {v : Word} (h : s.crSet n.toNat v = none) : crWrite n v s = .trap .illegal := by
  rw [crWrite, h]

section
variable {s t : State} {a : GReg} {n : BitVec 12} (h : plain s [a] [] = true)
include h

theorem exec_crw_taken (taken : s.crSet n.toNat (s.gr a) = some t) (pc : t.me.regs.pc = s.me.regs.pc) :
    exec (.crw a n) s = .next (on t) := by
  rw [on, pc]
  exact congrArg Host.Outcome.next (issue_plain_done h (crWrite_taken taken))

theorem exec_crw_refused (refused : s.crSet n.toNat (s.gr a) = none) : exec (.crw a n) s = .next (s.trapMe .illegal) :=
  congrArg Host.Outcome.next (issue_plain_trap h (crWrite_refused refused))

end

/-- The word that `crs` or `crc` writes, from the word read and `G[a]`. -/
def swapped (set : Bool) (old b : Word) : Word := if set then old ||| b else old &&& ~~~ b

/-- `crs` or `crc`. -/
def swap (set : Bool) (d a : GReg) (n : BitVec 12) : Instr := if set then .crs d a n else .crc d a n

/-- The body of `crs` or `crc`. -/
def swapBody (set : Bool) (d a : GReg) (n : BitVec 12) (s : State) : Ends :=
  let old := s.crGet n.toNat
  crWrite n (swapped set old ((s.gw d old).gr a)) (s.gw d old)

theorem exec_swap (set : Bool) (d a : GReg) (n : BitVec 12) (s : State) :
    exec (swap set d a n) s = .next (s.issue [a] [d] (swapBody set d a n)) := by
  cases set <;> rfl

section
variable {s t : State} {d a : GReg} {n : BitVec 12} {old : Word} (h : plain s [a] [d] = true) (get : s.crGet n.toNat = old) (set : Bool)
include h get

theorem swapBody_plain : swapBody set d a n s = crWrite n (swapped set old ((putG s d old).gr a)) (putG s d old) := by
  rw [swapBody, get, gw_plain_eq_putG h (List.mem_singleton.mpr rfl)]

theorem exec_swap_taken (taken : (putG s d old).crSet n.toNat (swapped set old ((putG s d old).gr a)) = some t)
    (pc : t.me.regs.pc = (putG s d old).me.regs.pc) : exec (swap set d a n) s = .next (on t) := by
  rw [on, pc, putG_pc, exec_swap, issue_plain_done h ((swapBody_plain h get set).trans (crWrite_taken taken))]

theorem exec_swap_refused (refused : (putG s d old).crSet n.toNat (swapped set old ((putG s d old).gr a)) = none) :
    exec (swap set d a n) s = .next (s.trapMe .illegal) := by
  rw [exec_swap, issue_plain_trap h ((swapBody_plain h get set).trans (crWrite_refused refused))]

end

section
variable {s t : State} {d a : GReg} {n : BitVec 12} {old : Word} (h : plain s [a] [d] = true) (get : s.crGet n.toNat = old)
include h get

theorem exec_crs_taken (taken : (putG s d old).crSet n.toNat (old ||| (putG s d old).gr a) = some t)
    (pc : t.me.regs.pc = (putG s d old).me.regs.pc) : exec (.crs d a n) s = .next (on t) :=
  exec_swap_taken h get true taken pc

theorem exec_crc_taken (taken : (putG s d old).crSet n.toNat (old &&& ~~~ (putG s d old).gr a) = some t)
    (pc : t.me.regs.pc = (putG s d old).me.regs.pc) : exec (.crc d a n) s = .next (on t) :=
  exec_swap_taken h get false taken pc

end

/-! ### The thread in hand, and its core, after a write to core or cluster state -/

theorem State.modCore_me {f : Core → Core} (h : ∀ c, (f c).threads = c.threads) (s : State) (p : Nat) : (s.modCore p f).me = s.me := by
  unfold State.me State.thread Core.thread
  by_cases e : s.cur.core = p
  · rw [State.modCore_cur, ← e, State.modCore_core_same, h]
  · rw [State.modCore_cur, State.modCore_core_ne _ _ _ _ e]

theorem State.modCore_pc (s : State) (p : Nat) {f : Core → Core} (h : ∀ c, (f c).threads = c.threads) :
    (s.modCore p f).me.regs.pc = s.me.regs.pc := by
  rw [State.modCore_me h]

theorem State.me_congr {s t : State} (cur : t.cur = s.cur) (threads : (t.core s.cur.core).threads = (s.core s.cur.core).threads) :
    t.me = s.me := by
  unfold State.me State.thread Core.thread
  rw [cur, threads]

theorem meOn_on {s t : State} (me : t.me = s.me) : meOn s (on t) := by
  rw [meOn, on, at', State.modMe_me, me]
  exact ⟨rfl, rfl, rfl⟩

theorem State.modMe_core (s : State) (f : Thread → Thread) (p : Nat) :
    ∃ threads, (s.modMe f).core p = { s.core p with threads := threads } := by
  by_cases e : p = s.cur.core
  · subst e
    exact ⟨_, State.setCore_core_same ..⟩
  · exact ⟨_, State.setCore_core_ne _ _ _ _ e⟩

theorem putG_core (s : State) (d : GReg) (v : Word) (p : Nat) :
    ∃ threads, (putG s d v).core p = { s.core p with threads := threads } := by
  unfold putG
  split
  · exact ⟨_, rfl⟩
  · exact s.modMe_core _ p

theorem putG_myCore (s : State) (d : GReg) (v : Word) : ∃ threads, (putG s d v).myCore = { s.myCore with threads := threads } := by
  rw [State.myCore, putG_cur]
  exact putG_core s d v _

theorem putG_poolCluster (s : State) (d : GReg) (v : Word) (p : Nat) : (putG s d v).poolCluster p = s.poolCluster p := by
  unfold putG
  split <;> rfl

/-- A legal `carve` word, written by the thread in hand when what precedes it has changed no storage. -/
theorem carve_taken {s u : State} {v : Word} (core : ∃ threads, u.myCore = { s.myCore with threads := threads })
    (h : bits v 4 0 + bits v 12 8 ≤ 16) : ∃ t, u.crSet (0x020 : BitVec 12).toNat v = some t ∧ t.me = u.me ∧ carved s (on t) v := by
  obtain ⟨threads, eq⟩ := core
  obtain ⟨t, ca, run, curT, coreT⟩ := u.carveWrite_legal h u.cur.core
  rw [show u.core u.cur.core = u.myCore from rfl, eq] at coreT
  have me : t.me = u.me := State.me_congr curT (by rw [coreT, ← eq]; rfl)
  refine ⟨t, run, me, ?_⟩
  obtain ⟨threads', core'⟩ : ∃ threads, (on t).myCore = { t.core t.cur.core with threads := threads } := t.modMe_core _ _
  rw [carved, core', curT, coreT]
  refine ⟨rfl, rfl, fun x hx => ?_, fun x lo hi => ?_⟩ <;> dsimp only
  · split
    · rw [mget_mzeroFrom, if_pos (by omega)]
    · rfl
  · rw [if_pos (by omega), mget_mzeroFrom, if_neg (by omega)]

/-- A legal `vpool` word, written by the thread in hand. -/
theorem vpool_taken {s u : State} {v : Word} (cur : u.cur = s.cur) (pool : u.poolCluster s.cur.core = s.poolCluster s.cur.core)
    (h : bits v 20 16 ≤ 16) : ∃ t, u.crSet (0x021 : BitVec 12).toNat v = some t ∧ t.me = u.me ∧ pooled s (on t) v := by
  obtain ⟨t, run, curT, core, lend, memb⟩ := u.vpoolWrite_legal h (u.poolCluster u.cur.core)
  obtain ⟨ca, eq⟩ := core u.cur.core
  rw [cur, pool] at lend memb
  exact ⟨t, run, State.me_congr curT (by rw [eq]), lend, memb⟩

/-! ### The statements -/

theorem controlReads : ControlReads := by
  intro d s h
  refine ⟨fun row hrow => ?_, fun k => ?_, fun k => ?_, exec_crr_plain h _, s.myCore.jrnlWord, jrnlReads_jrnlWord _, exec_crr_plain h _⟩
  · rw [exec_crr_plain h, State.crGet_of_mem hrow]
  · rw [exec_crr_plain h, State.crGet_counter]
  · rw [exec_crr_plain h, State.crGet_delay]

theorem controlWrites : ControlWrites := by
  intro d a s
  refine ⟨fun h => ⟨fun row hrow => ?_, fun n hn => ?_, fun k => ?_, fun k => ?_⟩, fun h row hrow old hold => ?_,
    fun h n hn old hold => ?_, fun h k => ?_, fun h k => ?_⟩
  · exact exec_crw_taken h (s.crSet_of_mem hrow _) (by rw [State.modMe_me, regs_of_mem_crWrites hrow])
  · exact exec_crw_taken h (s.crSet_readOnly hn _) rfl
  · exact exec_crw_taken h (s.crSet_counter k _) (State.modCore_pc _ _ fun _ => rfl)
  · exact exec_crw_taken h (s.crSet_delay k _) (State.modCore_pc _ _ fun _ => rfl)
  · have pc (v : Word) : ((putG s d old).modMe fun th => row.2.2 th v).me.regs.pc = (putG s d old).me.regs.pc := by
      rw [State.modMe_me, regs_of_mem_crWrites hrow]
    have get := State.crGet_of_mem hold
    exact ⟨exec_crs_taken h get (State.crSet_of_mem hrow _ _) (pc _), exec_crc_taken h get (State.crSet_of_mem hrow _ _) (pc _)⟩
  · have get := State.crGet_of_mem hold
    exact ⟨exec_crs_taken h get (State.crSet_readOnly hn _ _) rfl, exec_crc_taken h get (State.crSet_readOnly hn _ _) rfl⟩
  · have get := s.crGet_counter k
    have set (v : Word) := (putG s d ((s.myCore.nctr[k.val]).setWidth 64)).crSet_counter k v
    rw [putG_cur] at set
    exact ⟨exec_crs_taken h get (set _) (State.modCore_pc _ _ fun _ => rfl),
      exec_crc_taken h get (set _) (State.modCore_pc _ _ fun _ => rfl)⟩
  · have get := s.crGet_delay k
    have set (v : Word) := (putG s d (tget 0 s.myCore.dacc k.val)).crSet_delay k v
    rw [putG_cur] at set
    exact ⟨exec_crs_taken h get (set _) (State.modCore_pc _ _ fun _ => rfl),
      exec_crc_taken h get (set _) (State.modCore_pc _ _ fun _ => rfl)⟩

theorem coreSwaps : CoreSwaps := by
  intro d a s h set
  have carve : s.crGet (0x020 : BitVec 12).toNat = BitVec.ofNat 64 (s.myCore.stashG * 256 + s.myCore.dirG) := rfl
  have vpool : s.crGet (0x021 : BitVec 12).toNat = vpoolReads s := rfl
  have jrnl : s.crGet (0x022 : BitVec 12).toNat = s.myCore.jrnlWord := rfl
  refine ⟨fun excess => ?_, fun legal => ?_, fun excess => ?_, fun legal => ?_, s.myCore.jrnlWord, jrnlReads_jrnlWord _, ?_⟩
  · exact exec_swap_refused h carve set (State.carveWrite_refused excess _ _)
  · obtain ⟨t, taken, me, carved⟩ := carve_taken (putG_myCore s d (BitVec.ofNat 64 (s.myCore.stashG * 256 + s.myCore.dirG))) legal
    have run := exec_swap_taken h carve set taken (by rw [me])
    exact ⟨_, run, meOn_on me, carved⟩
  · exact exec_swap_refused h vpool set (State.vpoolWrite_refused excess _ _)
  · obtain ⟨t, taken, me, pooled⟩ := vpool_taken (putG_cur s d (vpoolReads s)) (putG_poolCluster s d _ _) legal
    have run := exec_swap_taken h vpool set taken (by rw [me])
    exact ⟨_, run, meOn_on me, pooled⟩
  · have taken (v : Word) := (putG s d s.myCore.jrnlWord).crSet_jrnl v
    rw [putG_cur] at taken
    exact exec_swap_taken h jrnl set (taken _) (State.modCore_pc _ _ fun _ => rfl)

theorem carveJournalPool : CarveJournalPool := by
  intro a s p k v
  refine ⟨fun h => ⟨fun excess => ?_, fun legal => ?_, fun excess => ?_, fun legal => ?_, ?_⟩, ?_, ⟨_, rfl, ?_, ?_⟩, ⟨_, rfl, ?_, ?_⟩⟩
  · exact exec_crw_refused h (State.carveWrite_refused excess _ _)
  · obtain ⟨t, taken, me, carved⟩ := carve_taken (u := s) ⟨_, rfl⟩ legal
    exact ⟨_, exec_crw_taken h taken (by rw [me]), meOn_on me, carved⟩
  · exact exec_crw_refused h (State.vpoolWrite_refused excess _ _)
  · obtain ⟨t, taken, me, pooled⟩ := vpool_taken rfl rfl legal
    exact ⟨_, exec_crw_taken h taken (by rw [me]), meOn_on me, pooled⟩
  · exact exec_crw_taken h (s.crSet_jrnl _) (State.modCore_pc _ _ fun _ => rfl)
  · simp only [← Core.jrnlWrite_eq]
    rfl
  · intro idle
    by_cases excess : 16 < bits v 4 0 + bits v 12 8
    · rw [State.carveWrite_refused excess]
      rfl
    · obtain ⟨hd, hg⟩ := idle.resolve_left excess
      rw [State.carveWrite_same hd hg (by omega)]
      rfl
  · intro legal
    obtain ⟨t, ca, run, -, core⟩ := s.carveWrite_legal legal p
    rw [run, Option.getD_some, core]
    exact ⟨rfl, rfl⟩
  · intro excess
    rw [State.vpoolWrite_refused excess]
    rfl
  · intro legal
    obtain ⟨t, run, -, -, fields⟩ := s.vpoolWrite_legal legal k
    rw [run]
    exact fields

/-- Settles O9: what each register reads as, what a write of each leaves, and the two writes that re-divide storage. -/
theorem controlRegisters : Obligations.ControlRegisters := by
  unfold Obligations.ControlRegisters
  exact ⟨controlReads, controlWrites, coreSwaps, carveJournalPool⟩

end Sys2Proof.Machine
end

section
/-!
Scalar arithmetic (R94, R95): the value that each form of one operand, or with an immediate, gives.
-/

open Sys2Proof Sys2Proof.Claims

namespace Sys2Proof.Machine

/-! ### Counts of bits (R94) -/

/-- The count of leading zeros among the low `n` bits bounds what those bits say from both sides. -/
theorem clzFrom_bounds (x : Word) (n : Nat) : clzFrom x n ≤ n ∧ x.toNat % 2 ^ n < 2 ^ (n - clzFrom x n) ∧
    (clzFrom x n < n → 2 ^ (n - 1 - clzFrom x n) ≤ x.toNat % 2 ^ n) := by
  induction n with
  | zero => simp [clzFrom, Nat.mod_one]
  | succ n ih =>
    obtain ⟨le, below, above⟩ := ih
    have top : x.toNat % 2 ^ (n + 1) = x.toNat % 2 ^ n + 2 ^ n * (x.getLsbD n).toNat := by
      rw [Nat.mod_pow_succ, BitVec.getLsbD, Nat.toNat_testBit]
    unfold clzFrom
    cases bit : x.getLsbD n with
    | true =>
      have := Nat.mod_lt x.toNat (Nat.two_pow_pos (n + 1))
      simp only [bit, Bool.toNat_true, Nat.mul_one] at top
      simp only [if_true, Nat.sub_zero, Nat.add_sub_cancel]
      omega
    | false =>
      simp only [bit, Bool.toNat_false, Nat.mul_zero, Nat.add_zero] at top
      simp only [Bool.false_eq_true, if_false, top, show n + 1 - (1 + clzFrom x n) = n - clzFrom x n by omega,
        show n + 1 - 1 - (1 + clzFrom x n) = n - 1 - clzFrom x n by omega]
      exact ⟨by omega, below, fun h => above (by omega)⟩

/-- The count of trailing zeros from bit `i` on stops at the first bit set. -/
theorem ctzFrom_bits (x : Word) (n i : Nat) : ctzFrom x n i ≤ n ∧ (∀ k < ctzFrom x n i, x.getLsbD (i + k) = false) ∧
    (ctzFrom x n i < n → x.getLsbD (i + ctzFrom x n i) = true) := by
  induction n generalizing i with
  | zero => simp [ctzFrom]
  | succ n ih =>
    obtain ⟨le, zeros, one⟩ := ih (i + 1)
    unfold ctzFrom
    cases bit : x.getLsbD i with
    | true => simp [bit]
    | false =>
      simp only [Bool.false_eq_true, if_false]
      refine ⟨by omega, fun k hk => ?_, fun h => ?_⟩
      · cases k with
        | zero => exact bit
        | succ k => exact (Nat.add_right_comm i 1 k ▸ zeros k (by omega) :)
      · rw [← Nat.add_assoc]
        exact one (by omega)

theorem popCount_eq (x : Word) (n : Nat) : popCount x n = (List.range n).countP fun k => x.getLsbD k := by
  induction n with
  | zero => rfl
  | succ n ih =>
    rw [popCount, ih, List.range_succ, List.countP_append, List.countP_singleton, Nat.add_comm]
    cases x.getLsbD n <;> rfl

/-! ### Immediates (R95) -/

theorem imm16_toInt (i : BitVec 16) : (imm16 i).toInt = i.toInt := BitVec.toInt_signExtend_of_le (by decide)

theorem imm16_eq (i : BitVec 16) : imm16 i = BitVec.ofInt 64 i.toInt := rfl

theorem add_imm16 (x : Word) (i : BitVec 16) : x + imm16 i = BitVec.ofInt 64 (x.toInt + i.toInt) := by
  rw [BitVec.ofInt_add, BitVec.ofInt_toInt, imm16_eq]

theorem shamt_ofNat (n : Fin 64) : shamt (BitVec.ofNat 64 n.val) = n.val := by
  rw [shamt, BitVec.toNat_ofNat]
  omega

theorem shiftLeft_fin (x : Word) (n : Fin 64) : x <<< n.val = BitVec.ofNat 64 (x.toNat * 2 ^ n.val) := by
  have := shiftLeft_shamt x (BitVec.ofNat 64 n.val)
  rwa [← shamt, shamt_ofNat] at this

theorem ushiftRight_fin (x : Word) (n : Fin 64) : x >>> n.val = BitVec.ofNat 64 (x.toNat / 2 ^ n.val) := by
  have := ushiftRight_shamt x (BitVec.ofNat 64 n.val)
  rwa [← shamt, shamt_ofNat] at this

theorem sshiftRight_fin (x : Word) (n : Fin 64) : x.sshiftRight n.val = BitVec.ofInt 64 (x.toInt / 2 ^ n.val) := by
  have := sshiftRight_shamt x (BitVec.ofNat 64 n.val)
  rwa [← shamt, shamt_ofNat] at this

/-! ### The forms of one register operand -/

theorem alu1_congr {f g : Word → Word} (e : ∀ x, f x = g x) (d a : GReg) (s : State) : alu1 d a f s = alu1 d a g s :=
  (funext e : f = g) ▸ rfl

theorem exts_run (d a : GReg) (s : State) : ∀ row ∈ exts, exec (row.1 d a) s = alu1 d a row.2 s := by
  unfold exts
  simp only [List.forall_mem_cons, List.not_mem_nil, false_imp_iff, implies_true, and_true]
  exact ⟨rfl, rfl, rfl, rfl, rfl, rfl⟩

theorem alui_run (d a : GReg) (s : State) : ∀ row ∈ alui, ∀ imm, exec (row.1 d a imm) s = alu1 d a (fun x => row.2 x imm) s := by
  unfold alui
  simp only [List.forall_mem_cons, List.not_mem_nil, false_imp_iff, implies_true, and_true]
  exact ⟨fun i => alu1_congr (fun x => add_imm16 x i) d a s, fun _ => rfl, fun _ => rfl, fun _ => rfl,
    fun i => alu1_congr (fun x => (ite_slt x (imm16 i) 1 0).trans (by rw [imm16_toInt])) d a s,
    fun i => alu1_congr (fun x => ite_ult x (imm16 i) 1 0) d a s⟩

theorem shiftis_run (d a : GReg) (s : State) :
    ∀ row ∈ shiftis, ∀ sh : Fin 64, exec (row.1 d a sh) s = alu1 d a (fun x => row.2 x sh.val) s := by
  unfold shiftis
  simp only [List.forall_mem_cons, List.not_mem_nil, false_imp_iff, implies_true, and_true]
  exact ⟨fun n => alu1_congr (fun x => shiftLeft_fin x n) d a s, fun n => alu1_congr (fun x => ushiftRight_fin x n) d a s,
    fun n => alu1_congr (fun x => sshiftRight_fin x n) d a s⟩

/-! ### The statements -/

section
variable {s : State} {rd : List GReg} {d : GReg} (h : plain s rd [d] = true)
include h

/-- An issue that nothing delays, whose body writes one general register. -/
theorem issue_plain_writes {f : State → Ends} {v : Word} (body : f s = .done (s.gw d v)) :
    s.issue rd [d] f = on (putG s d v) := by
  rw [on, putG_pc, ← gw_plain_eq_putG h (List.mem_singleton.mpr rfl)]
  exact issue_plain_done h body

end

theorem alu1_plain {s : State} {d a : GReg} (h : plain s [a] [d] = true) (f : Word → Word) :
    alu1 d a f s = .next (on (putG s d (f (s.gr a)))) :=
  congrArg Host.Outcome.next (issue_plain_writes h rfl)

theorem aluRegister : AluRegister := fun row hrow d a b s h =>
  (alu2s_run row hrow d a b s).trans (congrArg Host.Outcome.next (issue_plain_writes h rfl))

theorem aluUnary : AluUnary := by
  intro d a s h
  have clz : exec (.clz d a) s = alu1 d a (fun x => BitVec.ofNat 64 (clzFrom x 64)) s := rfl
  have ctz : exec (.ctz d a) s = alu1 d a (fun x => BitVec.ofNat 64 (ctzFrom x 64 0)) s := rfl
  have popc : exec (.popc d a) s = alu1 d a (fun x => BitVec.ofNat 64 (popCount x 64)) s := rfl
  rw [clz, ctz, popc, alu1_plain h, alu1_plain h, alu1_plain h, popCount_eq]
  obtain ⟨le, below, above⟩ := clzFrom_bounds (s.gr a) 64
  obtain ⟨le', zeros, one⟩ := ctzFrom_bits (s.gr a) 64 0
  rw [Nat.mod_eq_of_lt (s.gr a).isLt] at below above
  generalize clzFrom (s.gr a) 64 = n at *
  generalize ctzFrom (s.gr a) 64 0 = m at *
  exact ⟨fun row hrow => (exts_run d a s row hrow).trans (alu1_plain h _), ⟨n, rfl, le, below, above⟩,
    ⟨m, rfl, le', fun k hk => Nat.zero_add k ▸ zeros k hk, fun hm => Nat.zero_add m ▸ one hm⟩, rfl⟩

theorem luiValue (i : BitVec 16) : imm16 i * 65536 = BitVec.ofInt 64 (i.toInt * 65536) := by
  rw [BitVec.ofInt_mul, imm16_eq]
  rfl

theorem addpcValue (pc : BitVec 56) (i : BitVec 16) :
    pc.setWidth 64 + 4 + 4 * imm16 i = BitVec.ofInt 64 (pc.toNat + 4 + 4 * i.toInt) := by
  rw [BitVec.ofInt_add, BitVec.ofInt_add, BitVec.ofInt_mul, imm16_eq, BitVec.ofInt_natCast, BitVec.ofNat_toNat]
  rfl

theorem aluImmediate : AluImmediate := by
  intro d a s
  refine ⟨fun h => ⟨fun row hrow imm => ?_, fun row hrow sh => ?_⟩, fun h imm => ⟨?_, ?_⟩⟩
  · exact (alui_run d a s row hrow imm).trans (alu1_plain h _)
  · exact (shiftis_run d a s row hrow sh).trans (alu1_plain h _)
  · rw [← luiValue]
    exact congrArg Host.Outcome.next (issue_plain_writes h rfl)
  · rw [← addpcValue]
    exact congrArg Host.Outcome.next (issue_plain_writes h rfl)

/-- Settles O3: each form runs its operation on its operands, and the operation is the one of the tables of R94 and R95. -/
theorem aluInstructions : Obligations.AluInstructions := by
  unfold Obligations.AluInstructions
  exact ⟨aluRegister, aluUnary, aluImmediate⟩

end Sys2Proof.Machine
end

section
/-!
One unit of an access, in the direct range or on a line (R88-R91): where it is translated to, and what a load or a store of it alone begins.
-/

open Sys2Proof Sys2Proof.Claims

namespace Sys2Proof.Machine

/-! ### Bytes of a memory -/

theorem mread_lt (m : Memory) (a n : Nat) : mread m a n < 2 ^ (8 * n) := by
  induction n generalizing a with
  | zero => exact Nat.one_pos
  | succ n ih =>
    have := ih (a + 1)
    have := (mget m a).isLt
    rw [mread, Nat.mul_succ, Nat.pow_add]
    omega

/-! ### The direct range (R88, R103) -/

theorem inDirect_iff (s : State) (ea : Word) (w : Nat) :
    inDirect s ea w = true ↔ ea.toNat < 2 ^ 19 ∧ ea.toNat % w = 0 ∧ ea.toNat + w ≤ s.myCore.dirLimit := by
  simp only [inDirect, Bool.and_eq_true, decide_eq_true_eq, beq_iff_eq, and_assoc]
  rfl

/-- None of the thread's own port writes is to these bytes: nothing has to land. -/
theorem landed_of_noOwn {s : State} {a w : Nat} (h : noOwn s a w) : landed s a w = s := by
  unfold landed State.land
  dsimp only
  rw [List.find?_eq_none.mpr]
  intro i _
  cases e : (s.net.filter (s.ownPort s.cur.core))[i]? with
  | none => simp
  | some m => simp [h m (List.mem_filter.mp (List.mem_of_getElem? e)).1]

theorem eaKind_direct {ea : Word} (h : ea.toNat < 2 ^ 19) : eaKind ea = .direct := if_pos h

theorem eaKind_virt {ea : Word} (lo : 2 ^ 19 ≤ ea.toNat) (hi : ea.toNat < 2 ^ 56) : eaKind ea = .virt :=
  (if_neg (Nat.not_lt.mpr lo)).trans (if_pos hi)

theorem misaligned_eq_false {ea : Word} {w : Nat} (h : ea.toNat % w = 0) : misaligned ea w = false := by simp [misaligned, h]

theorem misaligned_eq_true {ea : Word} {w : Nat} (h : ea.toNat % w ≠ 0) : misaligned ea w = true := by simp [misaligned, h]

/-! ### Translation of one unit (R90, R91) -/

theorem trUnit_direct {s : State} {ea : Word} {w : Nat} (h : inDirect s ea w = true) (look : Nat → Option Tlb) (n : AccNeed) :
    trUnit s.myCore.dirLimit look n ea w = .ok (.direct ea.toNat) := by
  obtain ⟨direct, aligned, fits⟩ := (inDirect_iff ..).mp h
  rw [trUnit, if_neg (not_not.mpr aligned), eaKind_direct direct]
  exact if_pos fits

theorem checkPage_ok {e : Tlb} {n : AccNeed} (r : n.r = true → e.canR = true) (w : n.w = true → e.canW = true) (cls : n.cls e.cls = true)
    (ea : Word) : checkPage e n ea = .ok (e.place ea.toNat) := by
  have allowed : ((n.r && !e.canR) || (n.w && !e.canW)) = false := by
    cases hr : n.r <;> cases hw : n.w <;> simp_all
  simp [checkPage, allowed, cls]

theorem trUnit_line {s : State} {n : AccNeed} {ea : Word} {w l off pa : Nat} (h : onLine s n ea w l off pa) (limit : Nat) :
    trUnit limit (s.tlb1 s.cur.core) n ea w = .ok (.line l off pa) := by
  obtain ⟨lo, hi, aligned, e, look, r, wr, cls, place⟩ := h
  simp only [trUnit, if_neg (not_not.mpr aligned), eaKind_virt lo hi, look, checkPage_ok r wr cls, place]

theorem trAll_singleton {limit : Nat} {look : Nat → Option Tlb} {n : AccNeed} {e : Elem} {pl : Place}
    (h : trUnit limit look n e.va e.w = .ok pl) : trAll limit look n [e] = .ok [{ e with place := pl }] := by
  simp only [trAll, h]

/-! ### A load or a store of one unit -/

section
variable {s : State} {rd wr : List GReg} {f : State → Ends} (h : plain s rd wr = true)
include h

theorem issue_plain_again {w : Wait} (body : f s = .again w) : s.issue rd wr f = held s w := by
  obtain ⟨pend, toks, pops, pushes⟩ := (plain_iff ..).mp h
  rw [s.issue_plain _ _ _ (s.before_none _ _ pend pops pushes) pops pushes toks, body]
  rfl

theorem issue_plain_gone {u : State} (body : f s = .gone u) : s.issue rd wr f = u := by
  obtain ⟨pend, toks, pops, pushes⟩ := (plain_iff ..).mp h
  rw [s.issue_plain _ _ _ (s.before_none _ _ pend pops pushes) pops pushes toks, body]

end

section
variable {s : State} {ea : Word} {w : Nat} (h : inDirect s ea w = true)
include h

/-- A load in the direct range is served at once, after the thread's own stores to its bytes. -/
theorem startLoad_direct (k : ReqKind) (need data : Nat) (now : State → List (Nat × Nat) → Ends) :
    s.startLoad k need [⟨0, ea, w, data, .direct 0⟩] now =
      now (landed s ea.toNat w) [(0, ((landed s ea.toNat w).core s.cur.core).dread ea.toNat w)] := by
  obtain ⟨direct, -, -⟩ := (inDirect_iff ..).mp h
  have tr : s.trElems s.cur.core (needOf need) [⟨0, ea, w, data, .direct 0⟩] = .ok [⟨0, ea, w, data, .direct ea.toNat⟩] :=
    trAll_singleton (trUnit_direct h _ _)
  simp only [State.startLoad, tr, List.all_cons, List.all_nil, eaKind_direct direct, beq_self_eq_true, Bool.and_true, if_true]
  rfl

/-- A store in the direct range takes effect at once. -/
theorem startStore_direct (need data : Nat) :
    s.startStore need [⟨0, ea, w, data, .direct 0⟩] = .done ((landed s ea.toNat w).dwrite s.cur.core ea.toNat w data) := by
  obtain ⟨direct, -, -⟩ := (inDirect_iff ..).mp h
  have tr : s.trElems s.cur.core (needOf need) [⟨0, ea, w, data, .direct 0⟩] = .ok [⟨0, ea, w, data, .direct ea.toNat⟩] :=
    trAll_singleton (trUnit_direct h _ _)
  have now : s.storeNow s.cur.core s.cur.thr [⟨0, ea, w, data, .direct ea.toNat⟩] =
      some ((landed s ea.toNat w).dwrite s.cur.core ea.toNat w data) := by
    simp only [State.storeNow, List.filter_cons, List.filter_nil, eaKind_direct direct, bne_self_eq_false, Bool.false_eq_true, if_false,
      List.isEmpty_nil, if_true]
    rfl
  simp only [State.startStore, tr, now]

end

/-! ### The state once an instruction is complete -/

theorem at'_me (s : State) (pc : BitVec 56) :
    (at' s pc).me = { s.me with latch := {}, due := 0, taken := [], pinAt := none, passBp := false, crs := paid s,
                                regs := { s.me.regs with pc := pc } } := by
  rw [at', State.modMe_me]
  rfl

theorem at'_pc (s : State) (pc : BitVec 56) : (at' s pc).me.regs.pc = pc := by rw [at'_me]

theorem at'_core (s : State) (pc : BitVec 56) (p : Nat) : ∃ threads, (at' s pc).core p = { s.core p with threads := threads } :=
  s.modMe_core _ p

/-- Of its core, the end of an instruction changes the threads alone. -/
theorem at'_myCore (s : State) (pc : BitVec 56) : ∃ threads, (at' s pc).myCore = { s.myCore with threads := threads } :=
  at'_core s pc s.cur.core

theorem at'_core_ne (s : State) (pc : BitVec 56) (p : Nat) (h : p ≠ s.cur.core) : (at' s pc).core p = s.core p :=
  State.setCore_core_ne _ _ _ _ h

theorem at'_thread_ne (s : State) (pc : BitVec 56) (q k : Nat) (h : (q, k) ≠ (s.cur.core, s.cur.thr)) :
    (at' s pc).thread q k = s.thread q k := State.modMe_thread_ne _ _ _ _ h

theorem on_eq {s u : State} (h : u.me.regs.pc = s.me.regs.pc) : at' u (s.me.regs.pc + 4) = on u := by
  rw [on, h]

/-- A register result of an instruction whose other effects leave its thread alone. -/
theorem at'_gw_eq_on_putG {s u : State} {rd : List GReg} {d : GReg} (h : plain s rd [d] = true) (me : u.me = s.me) (v : Word) :
    at' (u.gw d v) (s.me.regs.pc + 4) = on (putG u d v) := by
  obtain ⟨-, -, -, pushes⟩ := (plain_iff ..).mp h
  rw [u.gw_eq_putG d v fun e => me ▸ pushes (e ▸ List.mem_singleton.mpr rfl), on, putG_pc, me]

theorem State.dwrite_me (s : State) (p a n v : Nat) : (s.dwrite p a n v).me = s.me :=
  State.modCore_me (f := fun c => { c with direct := mwrite c.direct a n v }) (fun _ => rfl) s p

theorem putDirect_me (s : State) (a w v : Nat) : (putDirect s a w v).me = s.me := s.dwrite_me s.cur.core a w v

end Sys2Proof.Machine
end

section
/-!
Atomics on direct storage (R104): each form's operation on the old value, and its effect once its bytes are the core's own.
-/

open Sys2Proof Sys2Proof.Claims

namespace Sys2Proof.Machine

/-! ### The operations (R104) -/

theorem IFmt.value_signed {n : Nat} (v : Nat) (pos : 0 < n) : (⟨n, true⟩ : IFmt).value v = (BitVec.ofNat n v).toInt := by
  obtain ⟨k, rfl⟩ : ∃ k, n = k + 1 := ⟨n - 1, by omega⟩
  simp only [IFmt.value, Bool.true_and, decide_eq_true_eq, BitVec.toInt_eq_toNat_cond, BitVec.toNat_ofNat, Nat.add_sub_cancel, Nat.pow_succ]
  split <;> split <;> omega

theorem IFmt.value_natural {n v : Nat} (h : v < 2 ^ n) : (⟨n, false⟩ : IFmt).value v = v := by
  simp [IFmt.value, Nat.mod_eq_of_lt h]

theorem awidth_bits_pos (w : AWidth) : 0 < 8 * w.bytes := by cases w <;> decide

/-- What an atomic returns is the old value, extended. -/
theorem ext_eq_atomOld {w : AWidth} {nat : Bool} {old : Nat} (h : old < 2 ^ (8 * w.bytes)) : w.ext nat old = atomOld w nat old := by
  cases w with
  | w32 =>
    cases nat with
    | true => exact congrArg (BitVec.ofNat 64) (Nat.mod_eq_of_lt h)
    | false => rfl
  | w64 => cases nat <;> rfl

/-- A form is an atomic of code `op` that writes always, the value of its row. -/
def runsAtom (nat : Bool) (row : (GReg → GReg → GReg → AWidth → Instr) × (Nat → Nat → Nat → Nat)) : Prop :=
  ∃ op : Fin 8, op ≠ 7 ∧ (∀ d a b w s, exec (row.1 d a b w) s = atomic op d a b w nat s) ∧
    ∀ (w : AWidth) (old x cmp : Nat), old < 2 ^ (8 * w.bytes) → x < 2 ^ (8 * w.bytes) →
      atomNew op w nat old x cmp = some (row.2 (8 * w.bytes) old x)

theorem atoms_run {k : Nat} {row : (GReg → GReg → GReg → AWidth → Instr) × (Nat → Nat → Nat → Nat)} (h : atoms[k]? = some row) :
    runsAtom (natAtom k) row := by
  have natural (w : AWidth) {old x : Nat} (ho : old < 2 ^ (8 * w.bytes)) (hx : x < 2 ^ (8 * w.bytes)) :
      (⟨8 * w.bytes, false⟩ : IFmt).value old = old ∧ (⟨8 * w.bytes, false⟩ : IFmt).value x = x :=
    ⟨IFmt.value_natural ho, IFmt.value_natural hx⟩
  have signed (w : AWidth) (v : Nat) := IFmt.value_signed v (awidth_bits_pos w)
  match k, h with
  | 0, h => cases h; exact ⟨0, by decide, fun _ _ _ _ _ => rfl, fun _ _ _ _ _ _ => rfl⟩
  | 1, h => cases h; exact ⟨1, by decide, fun _ _ _ _ _ => rfl, fun _ _ _ _ _ _ => rfl⟩
  | 2, h => cases h; exact ⟨2, by decide, fun _ _ _ _ _ => rfl, fun _ _ _ _ _ _ => rfl⟩
  | 3, h => cases h; exact ⟨3, by decide, fun _ _ _ _ _ => rfl, fun _ _ _ _ _ _ => rfl⟩
  | 4, h => cases h; exact ⟨4, by decide, fun _ _ _ _ _ => rfl, fun _ _ _ _ _ _ => rfl⟩
  | 5, h =>
    cases h
    refine ⟨5, by decide, fun _ _ _ _ _ => rfl, fun w old x _ ho hx => congrArg some ?_⟩
    obtain ⟨vo, vx⟩ := natural w ho hx
    change (if (⟨8 * w.bytes, false⟩ : IFmt).value old < (⟨8 * w.bytes, false⟩ : IFmt).value x then x else old) = max old x
    rw [vo, vx]
    split <;> omega
  | 6, h =>
    cases h
    refine ⟨6, by decide, fun _ _ _ _ _ => rfl, fun w old x _ ho hx => congrArg some ?_⟩
    obtain ⟨vo, vx⟩ := natural w ho hx
    change (if (⟨8 * w.bytes, false⟩ : IFmt).value x < (⟨8 * w.bytes, false⟩ : IFmt).value old then x else old) = min old x
    rw [vo, vx]
    split <;> omega
  | 7, h =>
    cases h
    refine ⟨5, by decide, fun _ _ _ _ _ => rfl, fun w old x _ _ _ => congrArg some ?_⟩
    change (if (⟨8 * w.bytes, true⟩ : IFmt).value old < (⟨8 * w.bytes, true⟩ : IFmt).value x then x else old) = _
    rw [signed, signed]
  | 8, h =>
    cases h
    refine ⟨6, by decide, fun _ _ _ _ _ => rfl, fun w old x _ _ _ => congrArg some ?_⟩
    change (if (⟨8 * w.bytes, true⟩ : IFmt).value x < (⟨8 * w.bytes, true⟩ : IFmt).value old then x else old) = _
    rw [signed, signed]
  | k + 9, h => exact absurd h (by simp [atoms])

/-! ### The effect in the direct range -/

/-- The state once an atomic has written, if it writes. -/
def atomPut (u : State) (ea w : Nat) (new : Option Nat) : State := new.elim u fun v => u.dwrite u.cur.core ea w v

section
variable {s : State} {op : Fin 8} {d a b : GReg} {wd : AWidth} {nat : Bool}
  (h : plain s (if op = 7 then [a, b, d] else [a, b]) [d] = true)
include h

theorem atomic_direct (dir : inDirect s (s.gr a) wd.bytes = true) :
    let ea := (s.gr a).toNat
    let u := landed s ea wd.bytes
    let old := mread (u.core s.cur.core).direct ea wd.bytes
    atomic op d a b wd nat s = .next (at' ((atomPut u ea wd.bytes (atomNew op wd nat old ((s.gr b).toNat % 2 ^ (8 * wd.bytes))
      ((s.gr d).toNat % 2 ^ (8 * wd.bytes)))).gw d (atomOld wd nat old)) (s.me.regs.pc + 4)) := by
  intro ea u old
  obtain ⟨-, aligned, -⟩ := (inDirect_iff ..).mp dir
  refine congrArg Host.Outcome.next (issue_plain_done h ?_)
  simp only [misaligned_eq_false aligned, Bool.false_eq_true, if_false, startLoad_direct dir]
  rw [← ext_eq_atomOld (mread_lt ..), atomPut]
  dsimp only [List.headD, Core.dread]
  cases atomNew op wd nat old ((s.gr b).toNat % 2 ^ (8 * wd.bytes)) ((s.gr d).toNat % 2 ^ (8 * wd.bytes)) <;> rfl

theorem atomic_misaligned (mis : (s.gr a).toNat % wd.bytes ≠ 0) : atomic op d a b wd nat s = .next (s.trapMe (.align (s.gr a))) :=
  congrArg Host.Outcome.next (issue_plain_trap h (by simp only [misaligned_eq_true mis, if_true]))

end

/-- With none of the thread's own stores under way to its bytes, the atomic acts on the storage as it stands. -/
theorem atomPut_noOwn {s : State} {rd : List GReg} {d : GReg} {ea w : Nat} (h : plain s rd [d] = true) (own : noOwn s ea w) (new : Option Nat)
    (v : Word) : at' ((atomPut (landed s ea w) ea w new).gw d v) (s.me.regs.pc + 4) =
      on (putG (new.elim s fun x => putDirect s ea w x) d v) := by
  rw [landed_of_noOwn own]
  cases new with
  | none => exact at'_gw_eq_on_putG h rfl v
  | some x => exact at'_gw_eq_on_putG h (s.dwrite_me _ _ _ _) v

/-! ### The statements -/

theorem atomicDirect : AtomicDirect := by
  intro d a b w s ea n old x u now dir
  have xlt : x < 2 ^ (8 * w.bytes) := Nat.mod_lt _ (Nat.two_pow_pos _)
  have cas : ∀ c y : Nat, atomNew 7 w false c x y = if c = y then some x else none := fun _ _ => rfl
  have always (h : plain s [a, b] [d] = true) {k : Nat} {row : (GReg → GReg → GReg → AWidth → Instr) × (Nat → Nat → Nat → Nat)}
      (hrow : atoms[k]? = some row) :
      exec (row.1 d a b w) s = .next (at' ((atomPut u ea.toNat w.bytes (some (row.2 n now x))).gw d (atomOld w (natAtom k) now))
        (s.me.regs.pc + 4)) := by
    obtain ⟨op, ne, run, new⟩ := atoms_run hrow
    rw [run, atomic_direct (by rwa [if_neg ne]) dir, new _ _ _ _ (mread_lt ..) xlt]
  have sometimes (h : plain s [a, b, d] [d] = true) : exec (.atomCas d a b w) s =
      .next (at' ((atomPut u ea.toNat w.bytes (if now = (s.gr d).toNat % 2 ^ n then some x else none)).gw d (atomOld w false now))
        (s.me.regs.pc + 4)) := atomic_direct (op := 7) (nat := false) h dir
  have settled (own : noOwn s ea.toNat w.bytes) : now = old := by
    have stays : u = s := landed_of_noOwn own
    unfold now old
    rw [stays]
    rfl
  refine ⟨fun h k row hrow => always h hrow, fun h => ?_, fun own h k row hrow => ?_, fun own h => ?_⟩
  · rw [sometimes h]
    split <;> rfl
  · rw [always h hrow, atomPut_noOwn h own, settled own]
    rfl
  · rw [sometimes h, atomPut_noOwn h own, settled own]
    split <;> rfl

theorem atomicMisaligned : AtomicMisaligned := by
  intro d a b w s mis
  refine ⟨fun h row hrow => ?_, fun h => atomic_misaligned (op := 7) h mis⟩
  obtain ⟨k, hk⟩ := List.getElem?_of_mem hrow
  obtain ⟨op, ne, run, -⟩ := atoms_run hk
  rw [run]
  exact atomic_misaligned (by rwa [if_neg ne]) mis

/-- Settles O7: every atomic in the direct range is its operation on the bytes as the thread's own stores have left them. -/
theorem atomics : Obligations.Atomics := by
  unfold Obligations.Atomics
  exact ⟨atomicDirect, atomicMisaligned⟩

end Sys2Proof.Machine
end

section
/-!
Scalar stores (R101, R248, R262): the direct range with its frame, and the journal entry of a store to a line.
-/

open Sys2Proof Sys2Proof.Claims

namespace Sys2Proof.Machine

/-! ### The direct range -/

section
variable {s : State} {d a : GReg} {sz : Sz} {imm : BitVec 13} (h : plain s [a, d] [] = true)
include h

theorem exec_st_direct (dir : inDirect s (s.gr a + imm.signExtend 64) sz.bytes = true) :
    exec (.st d a sz imm) s = .next (at' ((landed s (s.gr a + imm.signExtend 64).toNat sz.bytes).dwrite s.cur.core
      (s.gr a + imm.signExtend 64).toNat sz.bytes ((s.gr d).toNat % 2 ^ (8 * sz.bytes))) (s.me.regs.pc + 4)) := by
  obtain ⟨-, aligned, -⟩ := (inDirect_iff ..).mp dir
  refine congrArg Host.Outcome.next (issue_plain_done h ?_)
  simp only [State.memEa, misaligned_eq_false aligned, Bool.false_eq_true, if_false]
  exact startStore_direct dir _ _

theorem exec_st_noOwn (dir : inDirect s (s.gr a + imm.signExtend 64) sz.bytes = true)
    (own : noOwn s (s.gr a + imm.signExtend 64).toNat sz.bytes) :
    exec (.st d a sz imm) s =
      .next (on (putDirect s (s.gr a + imm.signExtend 64).toNat sz.bytes ((s.gr d).toNat % 2 ^ (8 * sz.bytes)))) := by
  rw [exec_st_direct h dir, landed_of_noOwn own]
  exact congrArg Host.Outcome.next (on_eq (congrArg (fun th : Thread => th.regs.pc) (s.dwrite_me _ _ _ _)))

end

theorem storeDirect : StoreDirect := by
  intro d a sz imm s h ea v
  refine ⟨fun dir => ⟨fun own => exec_st_noOwn h dir own, exec_st_direct h dir⟩, fun mis => ?_⟩
  exact congrArg Host.Outcome.next (issue_plain_trap h (if_pos (misaligned_eq_true mis)))

/-- What a store in the direct range leaves is its bytes and the thread, complete. -/
theorem on_putDirect_core (s : State) (a w v : Nat) :
    ∃ threads, (on (putDirect s a w v)).myCore = { s.myCore with direct := mwrite s.myCore.direct a w v, threads := threads } := by
  obtain ⟨threads, eq⟩ := at'_core (putDirect s a w v) ((putDirect s a w v).me.regs.pc + 4) s.cur.core
  refine ⟨threads, eq.trans ?_⟩
  rw [putDirect, State.modCore_core_same]
  rfl

theorem on_me_congr {s u : State} (me : u.me = s.me) : (on u).me = (on s).me := by
  simp only [on, at'_me, paid, me]

theorem on_putDirect_thread_ne (s : State) (a w v k : Nat) (h : k ≠ s.cur.thr) :
    (on (putDirect s a w v)).thread s.cur.core k = s.thread s.cur.core k := by
  refine (at'_thread_ne (putDirect s a w v) _ s.cur.core k fun e => h (Prod.mk.inj e).2).trans ?_
  rw [putDirect, State.thread, State.modCore_core_same]
  rfl

theorem storeFrame : StoreFrame := by
  intro d a sz imm s t h wf ea dir own run
  obtain rfl : on (putDirect s ea.toNat sz.bytes ((s.gr d).toNat % 2 ^ (8 * sz.bytes))) = t :=
    Host.Outcome.next.inj ((exec_st_noOwn h dir own).symm.trans run)
  obtain ⟨threads, core⟩ := on_putDirect_core s ea.toNat sz.bytes ((s.gr d).toNat % 2 ^ (8 * sz.bytes))
  have me := on_me_congr (putDirect_me s ea.toNat sz.bytes ((s.gr d).toNat % 2 ^ (8 * sz.bytes)))
  rw [core, me]
  refine ⟨?_, fun x out => mget_mwrite_out _ _ _ _ _ out, rfl, rfl, rfl, rfl, rfl, ?_, ?_, fun p hp => ?_, fun k hk => ?_⟩
  · rw [mread_mwrite_same _ _ _ _ wf, show 256 ^ sz.bytes = 2 ^ (8 * sz.bytes) from (Nat.pow_mul 2 8 _).symm, Nat.mod_mod]
  · rw [on, at'_me]
  · rw [on, at'_me]
  · exact (at'_core_ne (putDirect s _ _ _) _ p hp).trans (State.modCore_core_ne _ _ _ _ hp)
  · exact on_putDirect_thread_ne s _ _ _ k hk

/-! ### A store to a line (R101, R248) -/

theorem Core.freeEntry_some {c : Core} {i : Nat} (lt : i < 16) (free : (tget {} c.journal i).busy = false)
    (below : ∀ j < i, (tget {} c.journal j).busy = true) : c.freeEntry = some i := by
  rw [Core.freeEntry, List.find?_range_eq_some]
  exact ⟨congrArg not free, List.mem_range.mpr lt, fun j hj => congrArg (not ∘ not) (below j hj)⟩

theorem Core.freeEntry_none {c : Core} (full : ∀ j < 16, (tget {} c.journal j).busy = true) : c.freeEntry = none := by
  rw [Core.freeEntry, List.find?_eq_none]
  intro j hj
  exact Bool.eq_false_iff.mp (congrArg not (full j (List.mem_range.mp hj)))

/-- The core's first-level copies of a line go, and nothing else of it. -/
theorem State.l1Drop_core (s : State) (p l : Nat) : (s.l1Drop p l).core p =
    { s.core p with ca := { (s.core p).ca with l1 := (s.core p).ca.l1.filter fun y => y.line != l } } := by
  unfold State.l1Drop
  dsimp only
  split
  · rw [State.setCluster_core, State.modCore_core_same]
  · exact State.modCore_core_same _ _ _

theorem State.l1Drop_frame (s : State) (p l : Nat) : (s.l1Drop p l).cur = s.cur ∧ (s.l1Drop p l).dram = s.dram := by
  unfold State.l1Drop
  dsimp only
  split <;> exact ⟨rfl, rfl⟩

/-- The journal entry of a store of one unit to a line. -/
def lineStore (s : State) (e : Elem) : JEntry :=
  { busy := true, thr := s.cur.thr, ord := s.myCore.jord, p := maxW s.me.crs.ptime s.me.due, kind := .store, todo := [e] }

/-- The core once a store of one unit to a line has taken entry `i`: its own copies of the line go. -/
def Core.withLineStore (c : Core) (i l : Nat) (e : JEntry) : Core :=
  { c.setEntry i e with jord := c.jord + 1, ca := { c.ca with l1 := c.ca.l1.filter fun y => y.line != l } }

/-- A store of one unit to a line takes the lowest free entry. -/
theorem State.storeNow_line {s : State} {e : Elem} {l off pa i : Nat} (virt : eaKind e.va = .virt) (place : e.place = .line l off pa)
    (free : s.myCore.freeEntry = some i) :
    ∃ u, s.storeNow s.cur.core s.cur.thr [e] = some u ∧ u.cur = s.cur ∧ u.dram = s.dram ∧
      u.core s.cur.core = s.myCore.withLineStore i l (lineStore s e) := by
  have lwin : e.isLwin = false := by simp [Elem.isLwin, place]
  have line : e.line = some l := by simp [Elem.line, place]
  have direct : s.storeDirect s.cur.core s.cur.thr [e] = s := by simp [State.storeDirect, place]
  have far : [e].filter (fun e => eaKind e.va != .direct) = [e] := by simp [virt]
  have free' : (s.core s.cur.core).freeEntry = some i := free
  have apart : [e].filter (fun e' => !s.overwritten s.cur.core [e] e') = [e] := by simp [State.overwritten, lwin]
  have now : s.storeNow s.cur.core s.cur.thr [e] =
      some ((s.setCore s.cur.core { s.myCore.setEntry i (lineStore s e) with jord := s.myCore.jord + 1 }).l1Drop s.cur.core l) := by
    simp only [State.storeNow, far, direct, free', apart, State.post, List.filter_cons, List.filter_nil, lwin, Bool.false_eq_true, if_false,
      Bool.not_false, if_true, State.sendUnits, JKind.isWriteback, List.foldl_cons, List.foldl_nil, line, List.isEmpty_cons,
      Option.isNone_some]
    rfl
  obtain ⟨cur, dram⟩ := State.l1Drop_frame
    (s.setCore s.cur.core { s.myCore.setEntry i (lineStore s e) with jord := s.myCore.jord + 1 }) s.cur.core l
  refine ⟨_, now, cur, dram, ?_⟩
  rw [State.l1Drop_core, State.setCore_core_same]
  rfl

theorem State.storeNow_full {s : State} {e : Elem} (virt : eaKind e.va = .virt) (full : s.myCore.freeEntry = none) :
    s.storeNow s.cur.core s.cur.thr [e] = none := by
  have far : [e].filter (fun e => eaKind e.va != .direct) = [e] := by simp [virt]
  have full' : (s.core s.cur.core).freeEntry = none := full
  simp [State.storeNow, far, full']

section
variable {s : State} {d a : GReg} {sz : Sz} {imm : BitVec 13} {l off pa : Nat} (h : plain s [a, d] [] = true)
  (line : onLine s ⟨false, true, fun c => c ≤ 5⟩ (s.gr a + imm.signExtend 64) sz.bytes l off pa)
include h line

/-- The unit that the store writes. -/
theorem startStore_line {x : Option State}
    (now : s.storeNow s.cur.core s.cur.thr
      [⟨0, s.gr a + imm.signExtend 64, sz.bytes, (s.gr d).toNat % 2 ^ (8 * sz.bytes), .line l off pa⟩] = x) :
    (∀ u, x = some u → exec (.st d a sz imm) s = .next (at' u (s.me.regs.pc + 4))) ∧
      (x = none → exec (.st d a sz imm) s = .next (held s .journal)) := by
  have ⟨_, _, aligned, _⟩ := line
  have tr : s.trElems s.cur.core (needOf 1) [⟨0, s.gr a + imm.signExtend 64, sz.bytes, (s.gr d).toNat % 2 ^ (8 * sz.bytes), .direct 0⟩] =
      .ok [⟨0, s.gr a + imm.signExtend 64, sz.bytes, (s.gr d).toNat % 2 ^ (8 * sz.bytes), .line l off pa⟩] :=
    trAll_singleton (trUnit_line line _)
  refine ⟨fun u e => congrArg Host.Outcome.next (issue_plain_done h ?_), fun e => congrArg Host.Outcome.next (issue_plain_again h ?_)⟩
  all_goals
    simp only [State.memEa, misaligned_eq_false aligned, Bool.false_eq_true, if_false, State.startStore, tr, now, e]

end

theorem storePosted : StorePosted := by
  intro d a sz imm s l off pa i h ea line
  have ⟨lo, hi, _⟩ := line
  have virt : eaKind ea = .virt := eaKind_virt lo hi
  refine ⟨fun lt free below => ?_, fun full => ?_⟩
  · obtain ⟨u, now, cur, dram, core⟩ := State.storeNow_line (s := s)
      (e := ⟨0, ea, sz.bytes, (s.gr d).toNat % 2 ^ (8 * sz.bytes), .line l off pa⟩) virt rfl (Core.freeEntry_some lt free below)
    have me : u.me = s.me := State.me_congr cur (by rw [core]; rfl)
    obtain ⟨threads, complete⟩ := at'_myCore u (s.me.regs.pc + 4)
    rw [show u.myCore = _ from (congrArg (fun c : Cur => u.core c.core) cur).trans core] at complete
    refine ⟨_, (startStore_line h line now).1 u rfl, at'_pc _ _, ?_, ?_, ?_, dram, ?_⟩
    · rw [at'_me, me]
    · rw [complete]
      exact tget_tset_same _ _ _ _
    · rw [complete]
      rfl
    · rw [complete]
      rfl
  · exact (startStore_line h line (State.storeNow_full virt (Core.freeEntry_none full))).2 rfl

/-- Settles O6: a store in the direct range writes its bytes at once; one to a line takes the lowest free entry, or waits for one. -/
theorem stores : Obligations.Stores := by
  unfold Obligations.Stores
  exact ⟨storeDirect, storeFrame, storePosted⟩

end Sys2Proof.Machine
end

section
/-!
Cache operations (R107, R406): what each does to the core's copies of a line, and that an address of the direct range names none.
-/

open Sys2Proof Sys2Proof.Claims

namespace Sys2Proof.Machine

/-! ### The operations on a core's copies -/

/-- The line's first-level copies, and the fills of it under way. -/
theorem State.setPin_core (s : State) (p l : Nat) (pin : Bool) : (s.setPin p l pin).core p =
    { s.core p with ca := { (s.core p).ca with l1 := (s.core p).ca.l1.map fun x => if x.line = l then { x with pin := pin } else x } } := by
  unfold State.setPin
  dsimp only
  split
  · rw [State.setCluster_core, State.modCore_core_same]
  · exact State.modCore_core_same _ _ _

theorem State.setPin_cur (s : State) (p l : Nat) (pin : Bool) : (s.setPin p l pin).cur = s.cur := by
  unfold State.setPin
  dsimp only
  split <;> rfl

theorem State.unpinFills_core (s : State) (p l : Nat) : (s.unpinFills p l).core p =
    { s.core p with ca := { (s.core p).ca with pref := (s.core p).ca.pref.map fun x => if x.line = l then { x with pin := false } else x } } :=
  State.modCore_core_same _ _ _

theorem pin_of_mem_setPin {ls : List L1Line} {l : Nat} {pin : Bool} {y : L1Line}
    (h : y ∈ ls.map fun x => if x.line = l then { x with pin := pin } else x) (line : y.line = l) : y.pin = pin := by
  obtain ⟨x, -, rfl⟩ := List.mem_map.mp h
  by_cases e : x.line = l
  · rw [if_pos e]
  · rw [if_neg e] at line
    exact absurd line e

theorem pin_of_mem_unpinFills {ls : List Prefetch} {l : Nat} {y : Prefetch}
    (h : y ∈ ls.map fun x => if x.line = l then { x with pin := false } else x) (line : y.line = l) : y.pin = false := by
  obtain ⟨x, -, rfl⟩ := List.mem_map.mp h
  by_cases e : x.line = l
  · rw [if_pos e]
  · rw [if_neg e] at line
    exact absurd line e

theorem State.prefetch_core (s : State) (p t l pa : Nat) (va : Word) (pin : Bool) : ∃ f, f.line = l ∧ f.pin = pin ∧
    (s.prefetch p t l pa va pin).core p = { s.core p with ca := { (s.core p).ca with pref := (s.core p).ca.pref ++ [f] } } :=
  ⟨_, rfl, rfl, State.modCore_core_same _ _ _⟩

/-! ### A cache operation of the thread in hand -/

/-- The instructions of R107 by the code of `cacheOp`. -/
def cacheInstr (a : GReg) : Nat → Instr
  | 0 => .pinL a
  | 1 => .unpinL a
  | 2 => .flush a
  | 3 => .inval a
  | _ => .pref a

theorem exec_cacheInstr (a : GReg) {fn : Nat} (h : fn < 5) (s : State) :
    exec (cacheInstr a fn) s = .next (s.issue [a] [] fun s => s.startCache fn (s.gr a)) := by
  match fn, h with
  | 0, _ => rfl
  | 1, _ => rfl
  | 2, _ => rfl
  | 3, _ => rfl
  | 4, _ => rfl

section
variable {s : State} {a : GReg} (h : plain s [a] [] = true)
include h

theorem exec_cache_direct (low : (s.gr a).toNat < 2 ^ 19) {fn : Nat} (lt : fn < 5) : exec (cacheInstr a fn) s = .next (on s) := by
  rw [exec_cacheInstr a lt]
  refine congrArg Host.Outcome.next (issue_plain_done h ?_)
  simp only [State.startCache, eaKind_direct low]

variable {l off pa : Nat} (line : onLine s ⟨true, false, fun c => c ≤ 2⟩ (s.gr a - BitVec.ofNat 64 ((s.gr a).toNat % 512)) 1 l off pa)
  (lo : 2 ^ 19 ≤ (s.gr a).toNat) (hi : (s.gr a).toNat < 2 ^ 56)
include line lo hi

/-- The operation's effect is the one on the line of the address. -/
theorem exec_cache_line {fn : Nat} (lt : fn < 5) {u : State}
    (op : s.cacheOp s.cur.core s.cur.thr fn (s.gr a - BitVec.ofNat 64 ((s.gr a).toNat % 512)) (.line l off pa) = some u) :
    exec (cacheInstr a fn) s = .next (at' u (s.me.regs.pc + 4)) := by
  have tr : trUnit 0 (s.tlb1 s.cur.core) needCache (s.gr a - BitVec.ofNat 64 ((s.gr a).toNat % 512)) 1 = .ok (.line l off pa) :=
    trUnit_line line 0
  rw [exec_cacheInstr a lt]
  refine congrArg Host.Outcome.next (issue_plain_done h ?_)
  simp only [State.startCache, eaKind_virt lo hi, tr, op]

/-- What the end of the instruction leaves of the core that the operation has changed. -/
theorem exec_cache_core {fn : Nat} (lt : fn < 5) {u : State} {c : Core}
    (op : s.cacheOp s.cur.core s.cur.thr fn (s.gr a - BitVec.ofNat 64 ((s.gr a).toNat % 512)) (.line l off pa) = some u)
    (cur : u.cur = s.cur) (core : u.core s.cur.core = c) :
    ∃ t, exec (cacheInstr a fn) s = .next t ∧ t.me.regs.pc = s.me.regs.pc + 4 ∧ ∃ threads, t.myCore = { c with threads := threads } := by
  refine ⟨_, exec_cache_line h line lo hi lt op, at'_pc _ _, ?_⟩
  obtain ⟨threads, eq⟩ := at'_myCore u (s.me.regs.pc + 4)
  rw [show u.myCore = c from (congrArg (fun x : Cur => u.core x.core) cur).trans core] at eq
  exact ⟨threads, eq⟩

end

/-! ### What is asked of the line -/

theorem State.cacheOp_pref (s : State) (va : Word) (l off pa : Nat) : s.cacheOp s.cur.core s.cur.thr 4 va (.line l off pa) =
    some (if s.l1Full s.cur.core pa then s else s.prefetch s.cur.core s.cur.thr l pa va false) := rfl

theorem State.cacheOp_unpin (s : State) (va : Word) (l off pa : Nat) : s.cacheOp s.cur.core s.cur.thr 1 va (.line l off pa) =
    some ((s.setPin s.cur.core l false).unpinFills s.cur.core l) := rfl

theorem State.cacheOp_pin (s : State) (va : Word) (l off pa : Nat) : s.cacheOp s.cur.core s.cur.thr 0 va (.line l off pa) =
    if s.l1Holds s.cur.core l then some (s.setPin s.cur.core l true)
    else if s.l1Full s.cur.core pa then some s else some (s.prefetch s.cur.core s.cur.thr l pa va true) := rfl

/-- With no copy in the stash `flush` has nothing to write back. -/
theorem State.cacheOp_flush_none {s : State} {l : Nat} (none : s.myCore.stashLine l = none) (va : Word) (off pa : Nat) :
    s.cacheOp s.cur.core s.cur.thr 2 va (.line l off pa) = some s := by
  have : (s.core s.cur.core).stashLine l = Option.none := none
  simp only [State.cacheOp, this]
  rfl

theorem State.cacheOp_inval_none {s : State} {l : Nat} (none : s.myCore.stashLine l = none) (va : Word) (off pa : Nat) :
    s.cacheOp s.cur.core s.cur.thr 3 va (.line l off pa) = some ((s.l1Drop s.cur.core l).unpinFills s.cur.core l) := by
  have : (s.core s.cur.core).stashLine l = Option.none := none
  simp only [State.cacheOp, this]
  rfl

/-- The units of a write-back lie in a line. -/
theorem not_lwin_of_mem_dirtyElems {s : State} {x : StashLine} {va : Word} {e : Elem} (h : e ∈ s.dirtyElems x va) : e.isLwin = false := by
  obtain ⟨i, -, eq⟩ := List.mem_filterMap.mp h
  split at eq
  · cases eq
    rfl
  · cases eq

/-- A dirty stash copy takes a journal entry for its write-back, and stays as it is till then. -/
theorem State.cacheOp_flush_dirty {s : State} {l i : Nat} {x : StashLine} (held : s.myCore.stashLine l = some x) (dirty : x.dirty ≠ 0)
    (free : s.myCore.freeEntry = some i) (va : Word) (off pa : Nat) :
    ∃ e : JEntry, e.busy = true ∧ e.kind = .writeback l false ∧ s.cacheOp s.cur.core s.cur.thr 2 va (.line l off pa) =
      some (s.setCore s.cur.core { s.myCore.setEntry i e with jord := s.myCore.jord + 1 }) := by
  have held' : (s.core s.cur.core).stashLine l = some x := held
  have free' : (s.core s.cur.core).freeEntry = some i := free
  have far : (s.dirtyElems x va).filter Elem.isLwin = [] :=
    List.filter_eq_nil_iff.mpr fun e he => by simp [not_lwin_of_mem_dirtyElems he]
  refine ⟨⟨true, s.cur.thr, s.myCore.jord, s.me.now, .writeback l false, (s.dirtyElems x va).filter fun x => !x.isLwin, [], [], false, none⟩,
    rfl, rfl, ?_⟩
  have posts : s.cacheOp s.cur.core s.cur.thr 2 va (.line l off pa) =
      s.post s.cur.core s.cur.thr (.writeback l false) (s.dirtyElems x va) := by
    simp only [State.cacheOp, held', if_neg dirty]
    rfl
  rw [posts]
  simp only [State.post, free', far, JKind.isWriteback, if_true]
  rfl

/-- Settles O8: each operation's effect is the one that `cacheOp` has on the line of the address. -/
theorem cacheOperations : Obligations.CacheOperations := by
  unfold Obligations.CacheOperations
  intro a s l off pa h
  refine ⟨fun low => ?_, fun line lo hi => ?_⟩
  · simp only [List.forall_mem_cons, List.not_mem_nil, false_imp_iff, implies_true, and_true]
    exact ⟨exec_cache_direct h low (fn := 0) (by decide), exec_cache_direct h low (fn := 1) (by decide),
      exec_cache_direct h low (fn := 2) (by decide), exec_cache_direct h low (fn := 3) (by decide),
      exec_cache_direct h low (fn := 4) (by decide)⟩
  let va : Word := s.gr a - BitVec.ofNat 64 ((s.gr a).toNat % 512)
  have whole {fn : Nat} (lt : fn < 5) (op : s.cacheOp s.cur.core s.cur.thr fn va (.line l off pa) = some s) :
      exec (cacheInstr a fn) s = .next (on s) := exec_cache_line h line lo hi lt op
  have pref := s.cacheOp_pref va l off pa
  have pin := s.cacheOp_pin va l off pa
  refine ⟨fun full => ?_, fun room => ?_, fun holds => ?_, fun absent full => ?_, fun absent room => ?_, ?_, fun x i held dirty free => ?_,
    fun none => ⟨?_, ?_⟩⟩
  · exact whole (fn := 4) (by decide) (pref.trans (congrArg some (if_pos full)))
  · obtain ⟨f, fl, fp, core⟩ := s.prefetch_core s.cur.core s.cur.thr l pa va false
    rw [room] at pref
    obtain ⟨t, run, pc, threads, eq⟩ := exec_cache_core h line lo hi (fn := 4) (by decide) pref rfl core
    exact ⟨t, run, pc, f, by rw [eq]; rfl, fl, fp⟩
  · rw [holds] at pin
    obtain ⟨t, run, pc, threads, eq⟩ :=
      exec_cache_core h line lo hi (fn := 0) (by decide) pin (s.setPin_cur _ _ _) (s.setPin_core _ _ _)
    exact ⟨t, run, pc, fun y hy => by rw [eq] at hy; exact pin_of_mem_setPin hy⟩
  · rw [absent, full] at pin
    exact whole (fn := 0) (by decide) pin
  · obtain ⟨f, fl, fp, core⟩ := s.prefetch_core s.cur.core s.cur.thr l pa va true
    rw [absent, room] at pin
    obtain ⟨t, run, pc, threads, eq⟩ := exec_cache_core h line lo hi (fn := 0) (by decide) pin rfl core
    exact ⟨t, run, pc, f, by rw [eq]; rfl, fl, fp⟩
  · have core := (s.setPin s.cur.core l false).unpinFills_core s.cur.core l
    rw [State.setPin_core] at core
    obtain ⟨t, run, pc, threads, eq⟩ :=
      exec_cache_core h line lo hi (fn := 1) (by decide) (s.cacheOp_unpin va l off pa) (s.setPin_cur _ _ _) core
    refine ⟨t, run, pc, fun y hy => ?_, fun f hf => ?_⟩
    · rw [eq] at hy
      exact pin_of_mem_setPin hy
    · rw [eq] at hf
      exact pin_of_mem_unpinFills hf
  · obtain ⟨e, busy, kind, op⟩ := State.cacheOp_flush_dirty held dirty free va off pa
    obtain ⟨t, run, pc, threads, eq⟩ := exec_cache_core h line lo hi (fn := 2) (by decide) op rfl (State.setCore_core_same _ _ _)
    have entry : tget {} t.myCore.journal i = e := by
      rw [eq]
      exact tget_tset_same _ _ _ _
    exact ⟨t, run, pc, by rw [eq]; rfl, by rw [entry, busy], by rw [entry, kind]⟩
  · exact whole (fn := 2) (by decide) (State.cacheOp_flush_none none va off pa)
  · have core := (s.l1Drop s.cur.core l).unpinFills_core s.cur.core l
    rw [State.l1Drop_core] at core
    obtain ⟨t, run, pc, threads, eq⟩ := exec_cache_core h line lo hi (fn := 3) (by decide) (State.cacheOp_inval_none none va off pa)
      (s.l1Drop_frame _ _).1 core
    refine ⟨t, run, pc, fun y hy => ?_⟩
    rw [eq] at hy
    simpa using (List.mem_filter.mp hy).2

end Sys2Proof.Machine
end

section
/-!
Two statements that ask more than the model answers: a reply to a load whose unit is wider than its size, and a poisoned line of a page that
a migration has locked.
-/

open Sys2Proof Sys2Proof.Claims

namespace Sys2Proof.Machine

/-! ### A load of a byte that reads two (R100) -/

/-- The wait of a byte load whose one unit is two bytes of the direct range. -/
def wideByteLoad : Req := { kind := .ld 5 .n8, todo := [{ lane := 0, va := 0, w := 2, place := .direct 0 }] }

/-- Thread 0 of core 0 in that wait; the byte above the one it asks for holds 1. -/
def wideByteState : State :=
  { cores := [(0, { direct := [(1, 1)], threads := [(0, { st := .wait, wait := .load wideByteLoad })] })] }

theorem wideByteState_reads : (wideByteState.landed []).readUnit 0 0 false { lane := 0, va := 0, w := 2, place := .direct 0 } =
    .data wideByteState 256 false := by rfl

/-- The reply extends the byte alone: the register stays 0. -/
theorem wideByteState_reply {u : State} (h : exec (.loadReply 0 ⟨0, []⟩ []) wideByteState = .next u) :
    (u.thread 0 0).regs.g[5] = 0 := by
  obtain rfl := Host.Outcome.next.inj h
  rfl

theorem not_loadReplies : ¬ LoadReplies := by
  intro replies
  obtain ⟨scalar, -⟩ := replies 0 0 [] [] wideByteLoad wideByteState rfl rfl rfl rfl
  obtain ⟨data, -⟩ := scalar 5 .n8 _ rfl rfl rfl rfl (by decide)
  obtain ⟨u, next, -, -, regs, -⟩ := data _ _ _ wideByteState_reads rfl rfl
  have register := wideByteState_reply next
  rw [regs] at register
  exact absurd register (by decide)

/-- Refutes O5: a byte load whose unit is two bytes wide gets one byte from the reply, and the statement both. -/
theorem not_loads : ¬ Obligations.Loads := by
  unfold Obligations.Loads
  exact fun ⟨_, _, replies⟩ => not_loadReplies replies

/-! ### An atomic on a poisoned line of a locked page (R105, R318) -/

/-- The wait of an atomic add to bytes 0 to 7 of line 0. -/
def lockedAtomic : Req :=
  { kind := .atom 1 5 0 0 .w64 false, need := 2, todo := [{ lane := 0, va := 0, w := 8, place := .line 0 0 0 }] }

/-- Thread 0 of core 0 in that wait; line 0 is poisoned, and its page is being migrated. -/
def lockedState : State :=
  { cores := [(0, { threads := [(0, { st := .wait, wait := .load lockedAtomic })] })], poison := [0],
    migs := [{ ctx := 0, va := 0, sz := 0, cls := 0, near := 0, old := 0, new := 0, core := 0, thr := 1, blk := 0 }] }

/-- The atomic is held with the other writes to the page, so its thread still waits. -/
theorem lockedState_holds {u : State} (h : exec (.sliceAtomic 0 0) lockedState = .next u) : (u.thread 0 0).st = .wait := by
  obtain rfl := Host.Outcome.next.inj h
  rfl

theorem not_atomicAtSlice : ¬ AtomicAtSlice := by
  intro served
  obtain ⟨poisoned, -⟩ := served 0 0 0 0 0 lockedAtomic _ default 1 5 0 0 .w64 false lockedState rfl rfl rfl rfl rfl rfl rfl rfl rfl (by decide) rfl
  obtain ⟨u, next, ⟨latched, -⟩, -⟩ := poisoned (by decide) rfl
  exact absurd (latched.symm.trans (lockedState_holds next)) (by decide)

/-- Refutes O42: while its page is LOCKED an atomic is held at the slice, and the line's poison is not looked at. -/
theorem not_storeReceivers : ¬ Obligations.StoreReceivers := by
  unfold Obligations.StoreReceivers
  exact fun ⟨_, _, served, _⟩ => not_atomicAtSlice served

end Sys2Proof.Machine
end

section
/-!
Exceptions of a Setter core's threads (R113): the record in direct storage, the handler's address, and `eret`.
-/

open Sys2Proof Sys2Proof.Claims

namespace Sys2Proof.Machine

/-! ### Parts of what is read and written -/

theorem mread_add (m : Memory) (a j k : Nat) : mread m a (j + k) = mread m a j + 2 ^ (8 * j) * mread m (a + j) k := by
  induction j generalizing a with
  | zero => simp [mread]
  | succ j ih =>
    rw [Nat.add_right_comm, mread, ih, mread, Nat.mul_succ 8 j, Nat.pow_add, Nat.add_right_comm a 1 j, Nat.add_assoc a j 1]
    ring

/-- The bytes from the `j`-th on of those that are read. -/
theorem mread_part (m : Memory) (a : Nat) {n j k : Nat} (h : j + k ≤ n) : mread m (a + j) k = mread m a n / 2 ^ (8 * j) % 2 ^ (8 * k) := by
  obtain ⟨r, rfl⟩ := Nat.exists_eq_add_of_le h
  rw [Nat.add_assoc, mread_add, Nat.add_mul_div_left _ _ (Nat.two_pow_pos _), Nat.div_eq_of_lt (mread_lt ..), Nat.zero_add, mread_add,
    Nat.add_mul_mod_self_left, Nat.mod_eq_of_lt (mread_lt ..)]

theorem mread_mwrite_part {m : Memory} (wf : Memory.wf m = true) (a v : Nat) {n j k : Nat} (h : j + k ≤ n) :
    mread (mwrite m a n v) (a + j) k = v / 2 ^ (8 * j) % 2 ^ (8 * k) := by
  obtain ⟨r, rfl⟩ := Nat.exists_eq_add_of_le h
  rw [mread_part _ _ h, mread_mwrite_same _ _ _ _ wf, show 256 ^ (j + k + r) = 2 ^ (8 * j) * (2 ^ (8 * k) * 2 ^ (8 * r)) by
    rw [← Nat.pow_add, ← Nat.pow_add, ← Nat.mul_add, ← Nat.mul_add, ← Nat.add_assoc, Nat.pow_mul], Nat.mod_mul_right_div_self,
    Nat.mod_mul_right_mod]

theorem mread_congr {m m' : Memory} {a n : Nat} (h : ∀ x, a ≤ x → x < a + n → mget m x = mget m' x) : mread m a n = mread m' a n := by
  induction n generalizing a with
  | zero => rfl
  | succ n ih => rw [mread, mread, h a (by omega) (by omega), ih fun x lo hi => h x (by omega) (by omega)]

/-- What is read below a write is as before it. -/
theorem mread_mwrite_below (m : Memory) {a k b n : Nat} (h : b + k ≤ a) (v : Nat) : mread (mwrite m a n v) b k = mread m b k :=
  mread_congr fun x _ hi => mget_mwrite_out _ _ _ _ _ (.inl (by omega))

/-- The words of a record in the 32 bytes that hold it. -/
theorem FRec.data_words (r : FRec) : r.data / 2 ^ (8 * 0) % 2 ^ (8 * 8) = r.w0.toNat ∧ r.data / 2 ^ (8 * 8) % 2 ^ (8 * 8) = r.w1.toNat ∧
    r.data / 2 ^ (8 * 16) % 2 ^ (8 * 8) = r.w2.toNat ∧ r.data / 2 ^ (8 * 24) % 2 ^ (8 * 8) = r.w3.toNat := by
  have := r.w0.isLt
  have := r.w1.isLt
  have := r.w2.isLt
  have := r.w3.isLt
  rw [FRec.data]
  omega

/-! ### The thread at its handler -/

/-- A thread of a Setter core that a trap sends to its handler. -/
def Thread.handler (th : Thread) (pc : BitVec 56) : Thread :=
  { th.unpay with st := .inRot, wait := .none, latch := {}, popIn := none, resOut := none, noAddr := false,
                  regs := { th.regs with pc := pc } }

theorem State.modCore_thread {f : Core → Core} (h : ∀ c, (f c).threads = c.threads) (s : State) (p q k : Nat) :
    (s.modCore p f).thread q k = s.thread q k := by
  unfold State.thread Core.thread
  by_cases e : q = p
  · rw [e, State.modCore_core_same, h]
  · rw [State.modCore_core_ne _ _ _ _ e]

theorem State.dwrite_thread (s : State) (p a n v q k : Nat) : (s.dwrite p a n v).thread q k = s.thread q k :=
  State.modCore_thread (f := fun c => { c with direct := mwrite c.direct a n v }) (fun _ => rfl) s p q k

theorem State.modThread_core_direct (s : State) (p t : Nat) (f : Thread → Thread) (q : Nat) :
    ((s.modThread p t f).core q).direct = (s.core q).direct := s.setThread_core_direct p t _ q

theorem State.dwrite_core_direct (s : State) (p a n v : Nat) : ((s.dwrite p a n v).core p).direct = mwrite (s.core p).direct a n v := by
  rw [State.dwrite, State.modCore_core_same]

section
variable {s : State} {p t : Nat} (w : BitVec 32) (tr : Trap) (h : isSetter p = true)
include h

/-- A Setter core's trap: the record in its core's direct storage, the thread at its handler, and no message. -/
theorem State.trapThread_setter_frame :
    let u := s.trapThread p t w tr
    let direct := mwrite (s.core p).direct (0x100 + 32 * t) 32
      (faultRecord (s.thread p t).seq t (s.thread p t).regs.pc w tr).data
    (u.core p).direct = direct ∧ u.thread p t = (s.thread p t).handler (wordPc (mread direct 0 8)) ∧ u.net = s.net ∧ u.cur = s.cur := by
  have unreserved : (s.unreserve p t).cur = s.cur ∧ (s.unreserve p t).net = s.net := by
    rw [s.unreserve_eq]
    exact ⟨rfl, rfl⟩
  obtain ⟨cur, net⟩ := unreserved
  simp only [State.trapThread, if_pos h]
  refine ⟨?_, ?_, net, cur⟩
  · simp only [State.modThread_core_direct, State.dwrite_core_direct, State.modThread_thread_same, State.unreserve_thread,
      State.unreserve_core_direct]
    rfl
  · simp only [State.modThread_thread_same, State.dwrite_thread, State.unreserve_thread, Core.dread, State.dwrite_core_direct,
      State.modThread_core_direct, State.unreserve_core_direct]
    rfl

end

theorem setterTrap : SetterTrap := by
  intro s p t w tr h wf th u r
  obtain ⟨direct, thread, net, -⟩ := State.trapThread_setter_frame (s := s) (t := t) w tr h
  have below : mread (mwrite (s.core p).direct (0x100 + 32 * t) 32 r.data) 0 8 = mread (s.core p).direct 0 8 :=
    mread_mwrite_below _ (by omega) _
  obtain ⟨w0, w1, w2, w3⟩ := r.data_words
  have word (j : Nat) (hj : j + 8 ≤ 32) : mread (u.core p).direct (0x100 + 32 * t + j) 8 = r.data / 2 ^ (8 * j) % 2 ^ (8 * 8) := by
    rw [direct]
    exact mread_mwrite_part wf _ _ hj
  refine ⟨?_, ?_, ?_, (word 0 (by decide)).trans w0, (word 8 (by decide)).trans w1, (word 16 (by decide)).trans w2,
    (word 24 (by decide)).trans w3, fun x out => ?_, net⟩
  · rw [thread, below]
    rfl
  · rw [thread]
    rfl
  · rw [thread]
    rfl
  · rw [direct]
    exact mget_mwrite_out _ _ _ _ _ out

/-! ### `eret` -/

theorem plain_nil (s : State) : plain s [] [] = true := (plain_iff ..).mpr (by simp [named])

/-- `eret` on a Setter core: the program counter of the record, and an empty latch. -/
theorem exec_eret_setter {s : State} (h : isSetter s.cur.core = true) : exec .eret s = .next (s.modMe fun th =>
    { th with latch := {}, regs := { th.regs with
      pc := BitVec.ofNat 56 (mread s.myCore.direct (0x100 + 32 * s.cur.thr + 8) 8 / 4 * 4) } }) := by
  refine congrArg Host.Outcome.next ((issue_plain_gone (plain_nil s) (if_pos h)).trans ?_)
  exact State.modMe_modMe s
    (fun th => { th with regs := { th.regs with pc := wordPc (s.myCore.dread (256 + 32 * s.cur.thr + 8) 8) } })
    fun th => { th with latch := {} }

theorem eret : Eret := fun s =>
  ⟨exec_eret_setter, fun h => congrArg Host.Outcome.next (issue_plain_trap (plain_nil s) (if_neg (by simp [h])))⟩

/-- The program counter that a record keeps, taken word aligned. -/
theorem savedPc (seq : BitVec 8) (t : Nat) (pc : BitVec 56) (w : BitVec 32) (tr : Trap) :
    BitVec.ofNat 56 ((faultRecord seq t pc w tr).w1.toNat / 4 * 4) = BitVec.ofNat 56 (pc.toNat / 4 * 4) := by
  have := pc.isLt
  apply BitVec.eq_of_toNat_eq
  simp only [faultRecord, BitVec.toNat_ofNat]
  omega

theorem trapThenEret : TrapThenEret := by
  intro s tr h wf
  obtain ⟨direct, thread, -, cur⟩ := State.trapThread_setter_frame (s := s) (t := s.cur.thr) s.cur.word tr h
  rw [← State.me] at direct thread
  rw [← State.myCore] at direct
  generalize record : faultRecord s.me.seq s.cur.thr s.me.regs.pc s.cur.word tr = r at direct
  obtain ⟨-, saved, -, -⟩ := r.data_words
  have saved : mread (s.trapMe tr).myCore.direct (0x100 + 32 * (s.trapMe tr).cur.thr + 8) 8 = r.w1.toNat := by
    rw [State.myCore, State.trapMe, cur, direct, mread_mwrite_part wf _ _ (by decide), saved]
  have setter : isSetter (s.trapMe tr).cur.core = true := by
    rw [State.trapMe, cur]
    exact h
  generalize wordPc _ = pc at thread
  have me : (s.trapMe tr).me = s.me.handler pc := by
    rw [State.me, State.trapMe, cur]
    exact thread
  refine ⟨_, exec_eret_setter setter, ?_⟩
  rw [saved, ← record, savedPc, State.modMe_me, me]
  exact ⟨rfl, rfl⟩

/-- Settles O12: what the record in direct storage keeps is what `eret` reads back. -/
theorem setterExceptions : Obligations.SetterExceptions := by
  unfold Obligations.SetterExceptions
  exact ⟨setterTrap, eret, trapThenEret⟩

end Sys2Proof.Machine
end

section
/-!
A thread leaves its core (R24): what stays of the other threads, and of the kernels but for their teams.
-/

open Sys2Proof Sys2Proof.Claims

namespace Sys2Proof.Machine

/-! ### Neither a thread nor a kernel changes -/

/-- From `s` to `u` the thread in hand is the same, and every thread and every kernel is as it was. -/
def Quiet (s u : State) : Prop := u.cur = s.cur ∧ u.kernels = s.kernels ∧ KeepsOutside (fun _ => False) s u

theorem Quiet.refl (s : State) : Quiet s s := ⟨rfl, rfl, .refl _ s⟩

theorem Quiet.trans {s u v : State} (h : Quiet s u) (k : Quiet u v) : Quiet s v :=
  ⟨k.1.trans h.1, k.2.1.trans h.2.1, h.2.2.trans k.2.2⟩

theorem Quiet.thread {s u : State} (h : Quiet s u) (q t : Nat) : u.thread q t = s.thread q t := h.2.2.2 q id t

theorem Quiet.kernel {s u : State} (h : Quiet s u) (slot : Nat) : u.kernel slot = s.kernel slot := by
  rw [State.kernel, h.2.1]
  rfl

theorem Quiet.of_cores {s u : State} (cur : u.cur = s.cur) (kernels : u.kernels = s.kernels) (panel : u.panel = s.panel)
    (cores : u.cores = s.cores) : Quiet s u := ⟨cur, kernels, .of_cores _ panel cores⟩

theorem Quiet.foldl {α : Type} (f : State → α → State) (step : ∀ s a, Quiet s (f s a)) (l : List α) (s : State) : Quiet s (l.foldl f s) :=
  foldl_keeps f (Quiet s) (fun u a h => h.trans (step u a)) l s (.refl s)

theorem quiet_modCore (s : State) (p : Nat) {f : Core → Core} (h : ∀ c, (f c).threads = c.threads) : Quiet s (s.modCore p f) :=
  ⟨rfl, rfl, rfl, fun q _ t => State.modCore_thread h s p q t⟩

/-- What a step that may not happen answers, if it happens, is quiet. -/
def QuietOpt (s : State) (r : Option State) : Prop := ∀ u, r = some u → Quiet s u

theorem QuietOpt.none (s : State) : QuietOpt s none := fun _ h => nomatch h

theorem QuietOpt.some {s u : State} (h : Quiet s u) : QuietOpt s (some u) := fun _ e => Option.some.inj e ▸ h

theorem QuietOpt.bind {s : State} {r : Option State} {f : State → Option State} (h : QuietOpt s r) (k : ∀ u, QuietOpt u (f u)) :
    QuietOpt s (r.bind f) := by
  cases r with
  | none => exact .none s
  | some u => exact fun v e => (h u rfl).trans (k u v e)

theorem QuietOpt.of_quiet {s u : State} {r : Option State} (h : Quiet s u) (k : QuietOpt u r) : QuietOpt s r :=
  fun v e => h.trans (k v e)

theorem Quiet.getD {s v : State} {r : Option State} (h : QuietOpt s r) (k : Quiet s v) : Quiet s (r.getD v) := by
  cases r with
  | none => exact k
  | some u => exact h u rfl

/-! ### A kernel that has ended: its records go to the host (R328) -/

theorem quiet_stashGives (s : State) (p l : Nat) : Quiet s (s.stashGives p l) := by
  have drop : Quiet s (s.modCore p fun c => c.dropStash l) := quiet_modCore s p fun _ => rfl
  unfold State.stashGives
  split
  · exact .refl s
  · dsimp only
    split
    · exact drop
    · exact drop.trans (.of_cores rfl rfl rfl rfl)

theorem quiet_dieGives (s : State) (l : Nat) : Quiet s (s.dieGives l) := by
  have owner (sl : SliceLine) : Quiet s (match sl.owner with
      | some p => s.stashGives p l
      | none => s) := by
    split
    · exact quiet_stashGives s _ l
    · exact .refl s
  unfold State.dieGives
  dsimp only
  split
  · exact .refl s
  · split
    · exact .of_cores rfl rfl rfl rfl
    next sl _ =>
      split
      · exact (owner sl).trans (.of_cores rfl rfl rfl rfl)
      · exact (owner sl).trans (.of_cores rfl rfl rfl rfl)

theorem quiet_homeEvict (s : State) (l : Nat) : Quiet s (s.homeEvict l) := by
  unfold State.homeEvict
  dsimp only
  split
  · split
    · exact .refl s
    · exact .of_cores rfl rfl rfl rfl
  · exact .refl s

theorem quiet_homeRoom (s : State) (l : Nat) : Quiet s (s.homeRoom l) := by
  unfold State.homeRoom
  dsimp only
  split
  · exact .refl s
  · split
    · exact (quiet_dieGives s _).trans (quiet_homeEvict _ _)
    · exact .refl s

theorem quiet_rawWrite (s : State) (ctx va n v : Nat) : QuietOpt s (s.rawWrite ctx va n v) := by
  intro u h
  obtain ⟨x, -, rfl⟩ := Option.map_eq_some_iff.mp h
  exact ((quiet_dieGives s x.1).trans (quiet_homeRoom _ _)).trans (.of_cores rfl rfl rfl rfl)

theorem quiet_putSlot (s : State) (h age : Nat) (v : Bool) (o : Offer) : QuietOpt s (s.putSlot h age v o) := by
  have missing : QuietOpt s (if s.ovfNone h then some s else none) := by
    split
    · exact .some (.refl s)
    · exact .none s
  unfold State.putSlot
  dsimp only
  split
  · exact .some (.refl s)
  · split
    · exact missing
    next u slot =>
      have here := quiet_rawWrite s _ _ _ _ u slot
      split
      · split
        · exact .some here
        · exact .none s
      next v used => exact .some (here.trans (quiet_rawWrite u _ _ _ _ v used))

theorem quiet_putSlots (h age : Nat) (v : Bool) (os : List Offer) (s : State) : QuietOpt s (State.putSlots h age v os s) := by
  induction os generalizing s with
  | nil => exact .some (.refl s)
  | cons o os ih => exact (quiet_putSlot s h age v o).bind ih

theorem quiet_setBugle (s : State) (h : Nat) (b : Bugle) : Quiet s (s.setBugle h b) := .of_cores rfl rfl rfl rfl

theorem quiet_toParty (s : State) (h : Nat) (key : EvKey) (g : Nat) (b : Body) : Quiet s (s.toParty h key g b) := .of_cores rfl rfl rfl rfl

theorem quiet_giveUp (s : State) (h : Nat) (e : HomeEv) : Quiet s (s.giveUp h e) := by
  unfold State.giveUp
  split
  · exact (Quiet.foldl _ (fun s g => quiet_toParty s h e.key g _) _ s).trans (quiet_setBugle _ _ _)
  · exact .refl s

theorem quiet_promoteAt (s : State) (h : Nat) (e : HomeEv) : QuietOpt s (s.promoteAt h e) :=
  .of_quiet (quiet_setBugle s h _) (quiet_putSlots _ _ _ _ _)

theorem quiet_occur (s : State) (h : Nat) (e : HomeEv) : QuietOpt s (s.occur h e) := by
  unfold State.occur
  dsimp only
  split
  · exact .none s
  next u slots =>
    refine .some (((quiet_setBugle s h _).trans (quiet_putSlots _ _ _ _ _ u slots)).trans ((quiet_setBugle u h _).trans
      (Quiet.foldl _ (fun s o => ?_) _ _)))
    split
    · exact quiet_toParty _ _ _ _ _
    · exact .refl _

theorem quiet_nextRound (s : State) (h : Nat) (e : HomeEv) : QuietOpt s (s.nextRound h e) := by
  unfold State.nextRound
  split
  · exact .some (quiet_setBugle s h _)
  · exact .of_quiet (quiet_setBugle s h _) (quiet_promoteAt _ _ _)

theorem quiet_claimFrom (n : Nat) (s : State) (h : Nat) (key : EvKey) : QuietOpt s (State.claimFrom n s h key) := by
  induction n generalizing s with
  | zero => exact .some (.refl s)
  | succ n ih =>
    unfold State.claimFrom
    split
    · exact .some (.refl s)
    · split
      · split
        · exact ((quiet_occur s h _).bind fun u => quiet_nextRound u h _).bind ih
        · exact .some ((quiet_setBugle s h _).trans (quiet_toParty _ _ _ _ _))
      · exact .some (.refl s)

theorem quiet_removeOffer (s : State) (h : Nat) (o : Offer) : QuietOpt s (s.removeOffer h o) := by
  unfold State.removeOffer
  dsimp only
  split
  · exact .some (.refl s)
  next e _ =>
    have gathering : Quiet s (if o.queued then s else s.giveUp h e) := by
      split
      · exact .refl s
      · exact quiet_giveUp s h e
    split
    · exact .none s
    next u slot =>
      have here := (gathering.trans (quiet_setBugle _ h _)).trans (quiet_putSlot _ _ _ _ _ u slot)
      split
      · split
        · exact .some here
        · exact .some (here.trans (quiet_setBugle u h _))
      · split
        · exact .some here
        · exact .of_quiet here ((quiet_promoteAt u h e).bind fun v => quiet_claimFrom _ v h _)

theorem quiet_toHost (s : State) (ctx : Nat) (r : FRec) : Quiet s (s.toHost ctx r) := .of_cores rfl rfl rfl rfl

theorem quiet_recordsToHost (s : State) (ctx slot kid : Nat) : Quiet s (s.recordsToHost ctx slot kid) := by
  unfold State.recordsToHost
  dsimp only
  refine .trans ?_ (Quiet.foldl _ (fun s o => quiet_toHost s ctx _) _ _)
  refine .trans ?_ (.of_cores rfl rfl rfl rfl)
  refine .trans ?_ (Quiet.foldl _ (fun s x => .getD (quiet_removeOffer s _ _) (quiet_setBugle s _ _)) _ _)
  exact .of_cores rfl rfl rfl rfl

/-! ### A thread goes to FREE (R24) -/

theorem quiet_withdraw (s : State) (p t : Nat) (keep : Option Nat) : Quiet s (s.withdraw p t keep) := by
  unfold State.withdraw
  dsimp only
  split
  · refine Quiet.foldl _ (fun s k => ?_) _ s
    split
    · exact .refl s
    · split
      · exact .refl s
      · exact .of_cores rfl rfl rfl rfl
  · exact .refl s

theorem quiet_unreserve (s : State) (p t : Nat) : Quiet s (s.unreserve p t) := by
  unfold State.unreserve
  split
  · exact .refl s
  · exact quiet_modCore s p fun _ => rfl

/-- What FREE leaves of a thread: its sequence numbers. -/
def Thread.freed (th : Thread) : Thread := { seq := th.seq, cell := { seq := th.cell.seq, base := th.cell.seq } }

/-- A thread that is FREE, with no claim on its cell. -/
def Thread.gone (th : Thread) : Prop := th.st = .free ∧ th.cell.st ≠ .claimed

theorem Thread.freed_gone (th : Thread) : th.freed.gone := ⟨rfl, nofun⟩

/-- A thread has gone to FREE with its sequence number, and no thread has come back from there. -/
def Freed (p t : Nat) (s u : State) : Prop :=
  (∀ q k, (s.thread q k).gone → (u.thread q k).gone) ∧ (u.thread p t).gone ∧ (u.thread p t).seq = (s.thread p t).seq

theorem Freed.of_quiet {p t : Nat} {s u v : State} (h : Quiet s u) (freed : Freed p t u v) : Freed p t s v := by
  obtain ⟨others, this, seq⟩ := freed
  exact ⟨fun q k g => others q k (by rwa [h.thread]), this, seq.trans (by rw [h.thread])⟩

theorem Thread.raise_gone {th : Thread} {x : Word} (h : th.gone) : (th.raise x).gone := h

/-- A core that sets a thread to `freed`; thread 16, which stands for the work that runs on, it may raise in `ptime`. -/
def Core.frees (t : Nat) (c d : Core) : Prop :=
  let u := c.setThread t (c.thread t).freed
  d.threads = u.threads ∨ ∃ x, d.threads = (u.setThread 16 ((u.thread 16).raise x)).threads

theorem Core.frees_threads {c d : Core} {t : Nat} (h : Core.frees t c d) :
    (∀ k, (c.thread k).gone → (d.thread k).gone) ∧ (d.thread t).gone ∧ (d.thread t).seq = (c.thread t).seq := by
  have freed : ∀ k, (c.thread k).gone → ((c.setThread t (c.thread t).freed).thread k).gone := by
    intro k g
    by_cases e : k = t
    · rw [e, Core.setThread_thread_same]
      exact Thread.freed_gone _
    · rwa [Core.setThread_thread_ne _ _ _ _ e]
  generalize hu : c.setThread t (c.thread t).freed = u at freed
  have this : u.thread t = (c.thread t).freed := by rw [← hu, Core.setThread_thread_same]
  unfold Core.frees at h
  rw [hu] at h
  obtain same | ⟨x, raised⟩ := h
  · have threads (k : Nat) : d.thread k = u.thread k := by rw [Core.thread, same]; rfl
    simp only [threads, this]
    exact ⟨freed, Thread.freed_gone _, rfl⟩
  · have threads (k : Nat) : d.thread k = (u.setThread 16 ((u.thread 16).raise x)).thread k := by rw [Core.thread, raised]; rfl
    have kept (k : Nat) : ((u.thread k).gone → (d.thread k).gone) ∧ (d.thread k).seq = (u.thread k).seq := by
      rw [threads]
      by_cases e : k = 16
      · rw [e, Core.setThread_thread_same]
        exact ⟨Thread.raise_gone, rfl⟩
      · rw [Core.setThread_thread_ne _ _ _ _ e]
        exact ⟨id, rfl⟩
    refine ⟨fun k g => (kept k).1 (freed k g), (kept t).1 ?_, (kept t).2.trans ?_⟩
    · rw [this]
      exact Thread.freed_gone _
    · rw [this]
      rfl

theorem freed_modCore (s : State) (p t : Nat) {f : Core → Core} (h : ∀ c, Core.frees t c (f c)) : Freed p t s (s.modCore p f) := by
  obtain ⟨others, this, seq⟩ := Core.frees_threads (h (s.core p))
  unfold Freed State.thread
  rw [State.modCore_core_same]
  refine ⟨fun q k g => ?_, this, seq⟩
  by_cases e : q = p
  · subst e
    rw [State.modCore_core_same]
    exact others k g
  · rwa [State.modCore_core_ne _ _ _ _ e]

theorem quiet_untoken (s : State) (p gtn : Nat) : Quiet s (s.untoken p gtn) := ⟨rfl, rfl, keepsOutside_untoken _ s p gtn⟩

theorem quiet_modFrames (s : State) (f : Word × Option (Nat × Nat × Nat) → Word × Option (Nat × Nat × Nat)) : Quiet s (s.modFrames f) :=
  ⟨rfl, rfl, keepsOutside_modFrames _ s f⟩

theorem State.freeNow_frees (s : State) (p t : Nat) :
    (s.freeNow p t).cur = s.cur ∧ (s.freeNow p t).kernels = s.kernels ∧ Freed p t s (s.freeNow p t) := by
  unfold State.freeNow
  dsimp only
  generalize hu : State.modFrames _ _ = u
  have quiet : Quiet s u := by
    rw [← hu]
    refine .trans ?_ (quiet_modFrames _ _)
    refine .trans ?_ (quiet_untoken _ p _)
    exact (quiet_unreserve s p t).trans (.of_cores rfl rfl rfl rfl)
  have ⟨cur, kernels, _⟩ := quiet
  refine ⟨cur, kernels, .of_quiet ?_ (freed_modCore _ p t fun c => ?_)⟩
  · exact quiet.trans (.of_cores rfl rfl rfl rfl)
  unfold Core.frees
  dsimp only
  split
  · exact .inr ⟨_, rfl⟩
  · exact .inl rfl

end Sys2Proof.Machine
end

section
/-!
A kernel is aborted (R355): its threads leave their cores, and its record keeps why.
-/

open Sys2Proof Sys2Proof.Claims

namespace Sys2Proof.Machine

/-- What stands of a kernel when threads leave: all but its teams. -/
def KernelKept (slot : Nat) (s u : State) : Prop := ∀ k, s.kernel slot = some k → ∃ teams, u.kernel slot = some { k with teams := teams }

theorem State.setKernel_kernel_same (s : State) (slot : Nat) (k : Kernel) : (s.setKernel slot k).kernel slot = some k := by
  have find (l : Tab Kernel) : ((tset l slot k).find? fun e => e.1 == slot) = some (slot, k) := by
    induction l with
    | nil => simp [tset]
    | cons e l ih =>
      obtain ⟨n, x⟩ := e
      simp only [tset]
      split
      · simp
      · split
        · simp
        · rw [List.find?_cons_of_neg (by simpa using Ne.symm ‹_›)]
          exact ih
  rw [State.kernel, State.setKernel_kernels, find]
  rfl

theorem State.setKernel_kernel_ne (s : State) {slot other : Nat} (k : Kernel) (h : other ≠ slot) :
    (s.setKernel slot k).kernel other = s.kernel other := by
  have find (l : Tab Kernel) : ((tset l slot k).find? fun e => e.1 == other) = l.find? fun e => e.1 == other := by
    induction l with
    | nil => simp [tset, Ne.symm h]
    | cons e l ih =>
      obtain ⟨n, x⟩ := e
      simp only [tset]
      split
      · rw [List.find?_cons_of_neg (by simpa using Ne.symm h)]
      · split
        · subst_vars
          rw [List.find?_cons_of_neg (by simpa using Ne.symm h), List.find?_cons_of_neg (by simpa using Ne.symm h)]
        · simp only [List.find?_cons, ih]
  rw [State.kernel, State.setKernel_kernels, find]
  rfl

theorem KernelKept.of_eq {slot : Nat} {s u : State} (h : u.kernel slot = s.kernel slot) : KernelKept slot s u :=
  fun k hk => ⟨k.teams, h.trans hk⟩

theorem KernelKept.trans {slot : Nat} {s u v : State} (h : KernelKept slot s u) (k : KernelKept slot u v) : KernelKept slot s v := by
  intro x hx
  obtain ⟨teams, hu⟩ := h x hx
  exact k { x with teams := teams } hu

theorem kernelKept_teamsDone (s : State) (slot other : Nat) : KernelKept slot s (s.teamsDone other) := by
  unfold State.teamsDone
  split
  · exact .of_eq rfl
  next k hk =>
    by_cases e : slot = other
    · subst e
      intro x hx
      obtain rfl : x = k := Option.some.inj (hx.symm.trans hk)
      exact ⟨_, State.setKernel_kernel_same _ _ _⟩
    · exact .of_eq (State.setKernel_kernel_ne _ _ e)

theorem quiet_teamsDone_threads (s : State) (slot : Nat) : (s.teamsDone slot).cur = s.cur ∧
    ∀ q k, (s.teamsDone slot).thread q k = s.thread q k := by
  refine ⟨?_, fun q k => (keepsOutside_teamsDone (fun _ => False) s slot).2 q id k⟩
  unfold State.teamsDone
  split <;> rfl

/-- What stands when threads leave: the thread in hand, the threads that are gone, and every kernel but its teams. -/
def Leaving (s u : State) : Prop :=
  u.cur = s.cur ∧ (∀ slot, KernelKept slot s u) ∧ ∀ q k, (s.thread q k).gone → (u.thread q k).gone

theorem Leaving.refl (s : State) : Leaving s s := ⟨rfl, fun _ => .of_eq rfl, fun _ _ => id⟩

theorem Leaving.trans {s u v : State} (h : Leaving s u) (k : Leaving u v) : Leaving s v := by
  obtain ⟨cur, kernels, threads⟩ := h
  obtain ⟨cur', kernels', threads'⟩ := k
  exact ⟨cur'.trans cur, fun slot => (kernels slot).trans (kernels' slot), fun q k g => threads' q k (threads q k g)⟩

theorem Quiet.leaving {s u : State} (h : Quiet s u) : Leaving s u :=
  ⟨h.1, fun slot => .of_eq (h.kernel slot), fun q k g => by rwa [h.thread]⟩

/-- A thread leaves whose cell no event has claimed (R24). -/
theorem State.leave_unclaimed {s : State} {p t : Nat} (h : (s.thread p t).cell.st ≠ .claimed) :
    Leaving s (s.leave p t) ∧ Freed p t s (s.leave p t) := by
  have quiet := quiet_withdraw s p t none
  obtain ⟨cur, kernels, freed⟩ := State.freeNow_frees (s.withdraw p t none) p t
  obtain ⟨cur', threads⟩ := quiet_teamsDone_threads ((s.withdraw p t none).freeNow p t) (s.thread p t).slot
  have freed : Freed p t s (s.leave p t) := by
    rw [State.leave, if_neg h]
    obtain ⟨others, this, seq⟩ := Freed.of_quiet quiet freed
    simp only [Freed, threads]
    exact ⟨others, this, seq⟩
  refine ⟨⟨?_, fun slot => ?_, freed.1⟩, freed⟩ <;> rw [State.leave, if_neg h]
  · exact cur'.trans (cur.trans quiet.1)
  · refine .trans (.of_eq ?_) (kernelKept_teamsDone _ slot _)
    rw [State.kernel, kernels]
    exact quiet.kernel slot

/-- One whose cell is claimed stays until the claim's end (R157). -/
theorem State.leave_claimed {s : State} {p t : Nat} (h : (s.thread p t).cell.st = .claimed) : Leaving s (s.leave p t) := by
  rw [State.leave, if_pos h]
  have quiet := quiet_withdraw s p t ((s.thread p t).cell.holder.map Claim.alt)
  refine quiet.leaving.trans ⟨rfl, fun _ => .of_eq rfl, fun q k g => ?_⟩
  by_cases e : (q, k) = (p, t)
  · obtain ⟨rfl, rfl⟩ := Prod.mk.inj e
    obtain ⟨-, unclaimed⟩ := g
    exact absurd h (by rwa [← quiet.thread])
  · rwa [State.modThread, State.setThread_thread_ne _ _ _ _ _ _ e]

theorem State.leave_leaving (s : State) (p t : Nat) : Leaving s (s.leave p t) :=
  if h : (s.thread p t).cell.st = .claimed then State.leave_claimed h else (State.leave_unclaimed h).1

theorem Leaving.foldl {α : Type} {f : State → α → State} (step : ∀ s a, Leaving s (f s a)) (l : List α) (s : State) : Leaving s (l.foldl f s) :=
  foldl_keeps f (Leaving s) (fun u a h => h.trans (step u a)) l s (.refl s)

/-! ### The abort (R355) -/

/-- The cores of the kernel lose its tasks: no thread changes by it, and no kernel. -/
theorem leaving_mapCores {f : Core → Core} (h : ∀ c, (f c).threads = c.threads) {s u : State} (cur : u.cur = s.cur)
    (kernels : u.kernels = s.kernels) (panel : u.panel = s.panel) (cores : u.cores = s.cores.map fun e => (e.1, f e.2)) : Leaving s u :=
  Quiet.leaving ⟨cur, kernels, keepsOutside_mapCores _ f h panel cores⟩

theorem State.liveKernel_of {s : State} {slot : Nat} {k : Kernel} (h : s.kernel slot = some k) (complete : k.st ≠ .complete)
    (aborted : k.st ≠ .aborted) : s.liveKernel slot = some k := by
  simp [State.liveKernel, h, complete, aborted]

/-- The kernel's record once it is aborted: why, by which thread, and where. -/
def Kernel.abort (k : Kernel) (cause thr : Nat) (pc : BitVec 56) (now : Nat) : Kernel :=
  { k with st := .aborted, cause := cause, athr := thr, apc := pc, fin := now,
           teams := k.teams.filter fun e => e.2.st == .placed || e.2.st == .done }

/-- A kernel's abort is its record's change, and then the leaving of threads. -/
theorem State.abortKernel_live {s : State} {slot : Nat} {k : Kernel} (h : s.liveKernel slot = some k) (cause thr : Nat) (pc : BitVec 56) :
    Leaving (s.setKernel slot (k.abort cause thr pc s.tick)) (s.abortKernel slot cause thr pc) := by
  unfold State.abortKernel
  rw [h]
  dsimp only
  generalize recorded : State.recordsToHost _ k.ctx slot k.id = u
  have left : Leaving (s.setKernel slot (k.abort cause thr pc s.tick)) u := by
    rw [← recorded]
    exact (Leaving.foldl (fun s (x : Nat × Nat) => s.leave_leaving x.1 x.2) _ _).trans (quiet_recordsToHost _ _ _ _).leaving
  exact left.trans (leaving_mapCores
    (f := fun c => if c.slot = some slot then { c with deque := [], spillLo := 0, spill := [] } else c)
    (fun c => by split <;> rfl) rfl rfl rfl rfl)

/-- The abort brings no thread back, and the kernel's record names cause, thread and program counter. -/
theorem State.abortKernel_keeps (s : State) (slot cause thr : Nat) (pc : BitVec 56) :
    (s.abortKernel slot cause thr pc).cur = s.cur ∧
    (∀ q k, (s.thread q k).gone → ((s.abortKernel slot cause thr pc).thread q k).gone) ∧
    ∀ k, s.kernel slot = some k → k.st ≠ .complete → k.st ≠ .aborted → ∃ k', (s.abortKernel slot cause thr pc).kernel slot = some k' ∧
      k'.st = .aborted ∧ k'.cause = cause ∧ k'.athr = thr ∧ k'.apc = pc := by
  cases live : s.liveKernel slot with
  | none =>
    have same : s.abortKernel slot cause thr pc = s := by rw [State.abortKernel, live]
    rw [same]
    exact ⟨rfl, fun _ _ => id, fun k hk complete aborted => nomatch live.symm.trans (State.liveKernel_of hk complete aborted)⟩
  | some x =>
    obtain ⟨cur, kernels, threads⟩ := State.abortKernel_live live cause thr pc
    refine ⟨cur, threads, fun k hk complete aborted => ?_⟩
    obtain ⟨teams, kernel⟩ := kernels slot _ (State.setKernel_kernel_same _ _ _)
    exact ⟨_, kernel, rfl, rfl, rfl, rfl⟩

end Sys2Proof.Machine
end

section
/-!
System instructions (R111, R112): what each leaves of the thread in hand, and of its kernel.
-/

open Sys2Proof Sys2Proof.Claims

namespace Sys2Proof.Machine

/-! ### A compute core's trap of the thread in hand -/

theorem State.deliver_cur (s : State) (p t slot c : Nat) (r : FRec) : (s.deliver p t slot c r).cur = s.cur := by
  unfold State.deliver
  dsimp only
  split
  · split <;> split <;> rfl
  · rfl
  · rfl

theorem State.trapMe_me {s : State} (h : isSetter s.cur.core = false) (tr : Trap) : (s.trapMe tr).me = s.me.latched s.cur.word tr := by
  have cur : (s.trapMe tr).cur = s.cur := by
    rw [State.trapMe, State.trapThread_latch _ _ _ _ _ h, State.deliver_cur, State.latch_eq]
  rw [State.me, cur, State.trapMe, State.trapThread_thread_same _ _ _ _ _ h]
  rfl

/-- A trap that names no address, in a thread in rotation, and is no poison trap. -/
theorem trapMe_latched {s : State} (h : isSetter s.cur.core = false) (hin : s.me.st = .inRot) {kind : Nat} (unpoisoned : kind ≠ 13)
    (detail : Nat) :
    let t := s.trapMe { kind := kind, detail := detail }
    t.me.st = .latched ∧ t.me.regs = s.me.regs ∧ t.me.seq = s.me.seq + 1 ∧
      t.me.latch = { kind := .trap, word := s.cur.word, pc := s.me.regs.pc, trap := kind } := by
  dsimp only
  rw [State.trapMe_me h, Thread.latched_inRot _ _ _ hin]
  refine ⟨rfl, rfl, rfl, ?_⟩
  simp [Trap.drainPoison, unpoisoned]

/-! ### The statements -/

theorem nopYield : NopYield := by
  intro s
  have yields : exec .yield s = .next (at' (s.modMe fun th => { th with ann := 1 }) (s.me.regs.pc + 4)) :=
    congrArg Host.Outcome.next (issue_plain_done (plain_nil s) rfl)
  refine ⟨congrArg Host.Outcome.next (issue_plain_done (plain_nil s) rfl), yields.trans (congrArg Host.Outcome.next (on_eq ?_))⟩
  rw [State.modMe_me]

/-- `brk` with a debugger attached: a stop with cause 3 (R404). -/
theorem exec_brk_attached {s : State} (h : Config.debuggerAttached s.tick = true) (n : BitVec 8) :
    exec (.brk n) s = .next (s.stop s.cur.core s.cur.thr 3) :=
  congrArg Host.Outcome.next (issue_plain_gone (plain_nil s) (if_pos h))

theorem exec_brk_alone {s : State} (h : Config.debuggerAttached s.tick ≠ true) (n : BitVec 8) :
    exec (.brk n) s = .next (s.trapMe { kind := 14, detail := n.toNat * 2 ^ 32 }) :=
  congrArg Host.Outcome.next (issue_plain_trap (plain_nil s) (if_neg h))

/-- A thread that a stop takes out of rotation. -/
def Thread.stopped (th : Thread) : Thread :=
  { th with st := .stopped, prior := th.st, stopReq := none, passBp := th.st == .inRot || th.wait.preIssue }

theorem State.stop_me (s : State) (cause : Nat) : (s.stop s.cur.core s.cur.thr cause).me = s.me.stopped :=
  State.modThread_thread_same s s.cur.core s.cur.thr Thread.stopped

theorem systemTraps : SystemTraps := by
  intro s n compute hin
  obtain ⟨st, regs, seq, latch⟩ := trapMe_latched compute hin (kind := 15) (by decide) (n.toNat * 2 ^ 32)
  refine ⟨⟨_, congrArg Host.Outcome.next (issue_plain_trap (plain_nil s) rfl), st, regs, seq, latch, rfl⟩, ?_⟩
  by_cases attached : Config.debuggerAttached s.tick = true
  · refine ⟨_, exec_brk_attached attached n, ?_⟩
    rw [if_pos attached, State.stop_me]
    exact ⟨rfl, rfl, rfl, rfl⟩
  · obtain ⟨st, regs, seq, latch⟩ := trapMe_latched compute hin (kind := 14) (by decide) (n.toNat * 2 ^ 32)
    refine ⟨_, exec_brk_alone attached n, regs, ?_⟩
    rw [if_neg attached]
    exact ⟨st, seq, latch, rfl⟩

/-- What `halt` answers: the thread leaves, and a compute core's kernel is aborted. -/
def halted (s : State) : State :=
  let s' := s.leave s.cur.core s.cur.thr
  if isSetter s.cur.core then s' else s'.abortKernel s.me.slot 16 (s.gtn s.cur.core s.cur.thr) s.me.regs.pc

theorem exec_halt (s : State) : exec .halt s = .next (halted s) :=
  congrArg Host.Outcome.next (issue_plain_gone (plain_nil s) rfl)

theorem halt : Halt := by
  intro s unclaimed
  obtain ⟨⟨cur, kernels, -⟩, -, gone, -⟩ := State.leave_unclaimed (s := s) (p := s.cur.core) (t := s.cur.thr) unclaimed
  refine ⟨_, exec_halt s, ?_⟩
  unfold halted
  dsimp only
  split
  next setter =>
    refine ⟨?_, fun compute => nomatch setter.symm.trans compute⟩
    rw [State.me, cur]
    exact gone.1
  next =>
    obtain ⟨cur', threads, record⟩ := State.abortKernel_keeps (s.leave s.cur.core s.cur.thr) s.me.slot 16
      (s.gtn s.cur.core s.cur.thr) s.me.regs.pc
    constructor
    · rw [State.me, cur', cur]
      exact (threads _ _ gone).1
    · intro _ k hk complete aborted
      obtain ⟨teams, kernel⟩ := kernels _ k hk
      exact record _ kernel complete aborted

/-- Settles O13. `halt` rests on what leaving and the abort keep: a thread that is gone stays gone, a kernel all but its teams. -/
theorem systemInstructions : Obligations.SystemInstructions := by
  unfold Obligations.SystemInstructions
  exact ⟨nopYield, systemTraps, halt⟩

end Sys2Proof.Machine
end

section
/-!
Acknowledgements (R114, R233): what `fack` checks, when its message leaves, and what it does to the latched thread.
-/

open Sys2Proof Sys2Proof.Claims

namespace Sys2Proof.Machine

/-! ### The issue of a `fack` -/

theorem State.isService_iff (s : State) (p slot : Nat) :
    s.isService p slot = true ↔ isSetter p = true ∨ ∃ k, s.kernel slot = some k ∧ bits k.fmode 2 1 = 0 := by
  unfold State.isService
  cases s.kernel slot <;> simp

/-- The acknowledgement that a `fack` leaves pending. -/
def fackPending (act : Nat) (a : GReg) (s : State) : PendFack :=
  { core := s.cur.core, thr := s.cur.thr, ord := s.myCore.jord, act := act, arg := s.gr a, slot := s.me.slot,
    kid := ((s.kernel s.me.slot).map Kernel.id).getD 0 }

section
variable {a : GReg} {s : State} (act : Nat) (h : plain s [a] [] = true)
include h

theorem fack_refused (bad : bits (s.gr a) 63 27 ≠ 0 ∨ 294911 < bits (s.gr a) 18 0 ∨ ¬ s.isService s.cur.core s.me.slot = true) :
    fack act a s = .next (s.trapMe (.access 0)) := by
  refine congrArg Host.Outcome.next (issue_plain_trap h ?_)
  dsimp only
  split
  · rfl
  next good =>
    obtain ⟨reserved, number⟩ : bits (s.gr a) 63 27 = 0 ∧ ¬ 294911 < bits (s.gr a) 18 0 := by simpa using good
    obtain nonzero | above | other := bad
    · exact absurd reserved nonzero
    · exact absurd above number
    · rw [if_pos (by simpa using other)]

theorem fack_queued (reserved : bits (s.gr a) 63 27 = 0) (number : bits (s.gr a) 18 0 ≤ 294911)
    (service : s.isService s.cur.core s.me.slot = true) :
    fack act a s = .next (on { s with facks := s.facks ++ [fackPending act a s] }) := by
  refine congrArg Host.Outcome.next (issue_plain_done h ?_)
  dsimp only
  rw [if_neg (by simp [reserved, number]), if_neg (by simp [service])]
  rfl

end

theorem fackIssue : FackIssue := by
  intro a s h acts service x hx
  have is : exec x.2 s = fack x.1 a s := by
    simp only [acts, List.mem_cons, List.not_mem_nil, or_false] at hx
    obtain rfl | rfl | rfl := hx <;> rfl
  have served : s.isService s.cur.core s.me.slot = true ↔ service := s.isService_iff _ _
  rw [is]
  refine ⟨fun bad => fack_refused x.1 h ?_, fun reserved number svc => fack_queued x.1 h reserved number (served.mpr svc)⟩
  rwa [served]

/-! ### The message leaves -/

theorem exec_fackSent {k : Nat} {f : PendFack} {s : State} (h : s.facks[k]? = some f) : exec (.fackSent k) s = .next (
    if (s.core f.core).settledBefore f.thr f.ord then
      ({ s with facks := s.facks.eraseIdx k }).send .event (s.endpOf f.core) (.core (bits f.arg 18 0 / 16)) (s.core f.core).ctx
        (fackBody f.act f.arg (if f.thr = 16 then f.rt else releaseTime (s.thread f.core f.thr))
          (if isSetter f.core then none else some (f.slot, f.kid)))
    else s) := by
  simp only [exec, execFackSent, h]
  rfl

/-! ### The message arrives -/

/-- A message to a thread of this core, as the thread finds it (R31, R114). -/
theorem exec_fackArrival {k act g p t : Nat} {seq : BitVec 8} {rt : Word} {by' : Option (Nat × Nat)} {src dst : Endp} {s : State}
    (h : reaches s k src dst (.fack act seq g rt by')) (place : s.whereIs g = some (p, t)) :
    exec (.fackArrival k) s = .next (
      if (s.thread p t).st = .latched && (s.thread p t).seq = seq && s.serves by' (s.thread p t) then
        if act ≠ 0 && (s.core p).rowsUnderWay t then s else (s.drop k).ackThread p t act rt
      else s.drop k) := by
  obtain ⟨⟨cls, src', dst', pos, site, lvl, ctx, hops, phys, held, turned, wgt, body⟩, arrived, -, -, hbody⟩ := h
  obtain rfl : body = _ := hbody
  simp only [exec, execFackArrival, arrived, place]

/-- A core's threads are all that a thread's state rests on. -/
theorem State.modCore_thread_same {s : State} {p t : Nat} {f : Core → Core} {th : Thread}
    (h : (f (s.core p)).threads = ((s.core p).setThread t th).threads) : (s.modCore p f).thread p t = th := by
  rw [State.thread, State.modCore_core_same, Core.thread, h]
  exact Core.setThread_thread_same (s.core p) t th

/-- Resume: the latched word issues again, or the word is fetched again when none is at hand. -/
theorem State.ackThread_resume (s : State) (p t : Nat) (rt : Word) : ∃ crs : Crs,
    crs.ptime = (s.thread p t).crs.ptime ∧ (s.ackThread p t 0 rt).thread p t = Thread.raise { s.thread p t with
      st := .inRot, crs := crs, latch := if (s.thread p t).latch.noWord then {} else { (s.thread p t).latch with kind := .reissue } } rt := by
  refine ⟨_, ?_, State.modCore_thread_same rfl⟩
  split <;> rfl

/-- Skip, of an instruction that ends there: its thread goes on at the next word. -/
theorem State.ackThread_skip {s : State} {p t : Nat} (h : (s.thread p t).latch.goesOn = false) (rt : Word) : ∃ crs : Crs,
    crs.ptime = (s.thread p t).crs.ptime ∧ (s.ackThread p t 1 rt).thread p t = Thread.raise { s.thread p t with
      st := .inRot, latch := {}, crs := crs, regs := { (s.thread p t).regs with pc := (s.thread p t).regs.pc + 4 } } rt := by
  simp only [State.ackThread, h, Bool.false_eq_true, if_false]
  refine ⟨_, ?_, State.modCore_thread_same rfl⟩
  split <;> rfl

/-- Skip, of an instruction that goes on behind the chunk that failed. -/
theorem State.ackThread_goesOn {s : State} {p t : Nat} (h : (s.thread p t).latch.goesOn = true) (rt : Word) :
    (s.ackThread p t 1 rt).thread p t = Thread.raise { s.thread p t with
      st := .inRot, latch := { (s.thread p t).latch with kind := .reissue } } rt := by
  rw [State.ackThread, if_pos h]
  exact State.modThread_thread_same s p t _

theorem acksTravel : AcksTravel := by
  refine ⟨fun k f s pending => ?_, fun k act g p t seq rt by' src dst s h place => ?_⟩
  · rw [exec_fackSent pending]
    constructor <;> intro settled
    · rw [if_neg (by simp [settled])]
    · rw [if_pos settled]
      exact ⟨_, _, rfl, rfl, rfl, rfl, rfl⟩
  rw [exec_fackArrival h place]
  dsimp only
  refine ⟨fun other => ?_, fun latched seq' served => ?_⟩
  · rw [if_neg (by simpa [and_assoc] using other)]
    rfl
  rw [if_pos (by simp [latched, seq', served])]
  refine ⟨?_, fun ends rows => ?_, ?_, ?_⟩
  · rintro rfl
    obtain ⟨crs, ptime, thread⟩ := (s.drop k).ackThread_resume p t rt
    refine ⟨_, rfl, ?_⟩
    rw [if_neg (by simp), thread]
    exact ⟨rfl, rfl, rfl, congrArg (maxW · rt) ptime⟩
  · rw [if_pos (by simp [ends, rows])]
  · rintro rfl rows
    refine ⟨_, rfl, ?_⟩
    rw [if_neg (by simp [rows])]
    obtain goesOn | goesOn := Bool.eq_false_or_eq_true (s.thread p t).latch.goesOn
    · rw [State.ackThread_goesOn (s := s.drop k) goesOn rt]
      exact ⟨rfl, rfl, fun ends => absurd (goesOn.symm.trans ends) (by decide), fun _ => ⟨rfl, rfl⟩⟩
    · obtain ⟨crs, ptime, thread⟩ := State.ackThread_skip (s := s.drop k) goesOn rt
      rw [thread]
      exact ⟨rfl, congrArg (maxW · rt) ptime, fun _ => ⟨rfl, rfl⟩, fun goes => absurd (goesOn.symm.trans goes) (by decide)⟩
  · rintro rfl rows unclaimed
    obtain ⟨-, -, gone, seq⟩ := State.leave_unclaimed (s := s.drop k) unclaimed
    refine ⟨_, rfl, ?_⟩
    rw [if_neg (by simp [rows])]
    exact ⟨gone.1, seq⟩

/-- Settles O14: what is said of the thread at arrival is what `ackThread` leaves of it, and for kill what `leave` does. -/
theorem acknowledgements : Obligations.Acknowledgements := by
  unfold Obligations.Acknowledgements
  exact ⟨fackIssue, acksTravel⟩

end Sys2Proof.Machine
end

section
/-!
Vector registers (R115, R116): lanes read and written, what a lane-wise instruction counts (R61, R63), and what an instruction with a vector
destination leaves as it was.
-/

open Sys2Proof Sys2Proof.Claims

namespace Sys2Proof.Machine

/-! ### Lanes -/

theorem lane_lt (v : VWord) (w i : Nat) : lane v w i < 2 ^ w := Nat.mod_lt _ (Nat.two_pow_pos w)

/-- The number whose digits to the base `2 ^ w` are the low bits of a list's entries. -/
theorem foldr_lanes_lt (w : Nat) (xs : List Nat) : xs.foldr (fun x acc => acc * 2 ^ w + x % 2 ^ w) 0 < 2 ^ (w * xs.length) := by
  induction xs with
  | nil => exact Nat.one_pos
  | cons x xs ih =>
    have low := Nat.mod_lt x (Nat.two_pow_pos w)
    calc xs.foldr (fun x acc => acc * 2 ^ w + x % 2 ^ w) 0 * 2 ^ w + x % 2 ^ w
        < (xs.foldr (fun x acc => acc * 2 ^ w + x % 2 ^ w) 0 + 1) * 2 ^ w := by rw [add_mul]; omega
      _ ≤ 2 ^ (w * xs.length) * 2 ^ w := Nat.mul_le_mul_right _ ih
      _ = 2 ^ (w * (x :: xs).length) := by rw [← pow_add, List.length_cons, mul_add, mul_one]

theorem foldr_lanes_digit (w : Nat) (xs : List Nat) (i : Nat) :
    xs.foldr (fun x acc => acc * 2 ^ w + x % 2 ^ w) 0 / 2 ^ (w * i) % 2 ^ w = xs.getD i 0 % 2 ^ w := by
  induction xs generalizing i with
  | nil => simp
  | cons x xs ih =>
    have low := Nat.mod_lt x (Nat.two_pow_pos w)
    cases i with
    | zero => simp
    | succ i =>
      rw [List.foldr_cons, show 2 ^ (w * (i + 1)) = 2 ^ w * 2 ^ (w * i) by rw [← pow_add]; ring_nf, ← Nat.div_div_eq_div_mul, mul_comm,
        Nat.mul_add_div (Nat.two_pow_pos w), Nat.div_eq_of_lt low, Nat.add_zero, ih]
      rfl

/-- A register built from its lanes has these lanes, cut to their width. -/
theorem lane_ofLanes {w : Nat} {xs : List Nat} (fits : w * xs.length ≤ 512) (i : Nat) : lane (ofLanes w xs) w i = xs.getD i 0 % 2 ^ w := by
  have small := (foldr_lanes_lt w xs).trans_le (Nat.pow_le_pow_right two_pos fits)
  rw [lane, ofLanes, BitVec.toNat_ofNat, Nat.mod_eq_of_lt small, foldr_lanes_digit]

theorem lane_ofLanes_range (w : Nat) (f : Nat → Nat) {i : Nat} (h : i < 512 / w) :
    lane (ofLanes w ((List.range (512 / w)).map f)) w i = f i % 2 ^ w := by
  rw [lane_ofLanes (by simpa using Nat.mul_div_le 512 w)]
  simp [List.getD_eq_getElem?_getD, h]

theorem lane_setLane (v : VWord) (w j x : Nat) {i : Nat} (h : i < 512 / w) :
    lane (setLane v w j x) w i = if i = j then x % 2 ^ w else lane v w i := by
  rw [setLane, lane_ofLanes_range w _ h]
  split
  · rfl
  · exact Nat.mod_eq_of_lt (lane_lt v w i)

/-- Active lanes take their results and the others stay (R116). -/
theorem lane_mapLanes {w : Nat} (mask : Word) (old : VWord) {f : Nat → Nat × Cnt} {i : Nat} (h : i < 512 / w) (fits : (f i).1 < 2 ^ w) :
    lane (mapLanes w mask old f).1 w i = if mask.getLsbD i then (f i).1 else lane old w i := by
  rw [mapLanes]
  dsimp only
  rw [List.map_map, lane_ofLanes_range w _ h, Function.comp_apply]
  split
  · exact Nat.mod_eq_of_lt fits
  · exact Nat.mod_eq_of_lt (lane_lt old w i)

/-! ### What is counted (R61-R63) -/

theorem Cnt.at_add (a b : Cnt) (k : Nat) : Cnt.at (a.add b) k = Cnt.at a k + Cnt.at b k := by
  unfold Cnt.at; split <;> rfl

theorem Cnt.at_foldl_add (cs : List Cnt) (a : Cnt) (k : Nat) :
    Cnt.at (cs.foldl Cnt.add a) k = Cnt.at a k + (cs.map fun c => Cnt.at c k).sum := by
  induction cs generalizing a with
  | nil => rfl
  | cons c cs ih => rw [List.foldl_cons, ih, Cnt.at_add, List.map_cons, List.sum_cons, Nat.add_assoc]

theorem Cnt.at_oneWrap (k : Nat) : Cnt.at Cnt.oneWrap k = if k = 5 then 1 else 0 := by
  unfold Cnt.at; split <;> simp_all [Cnt.oneWrap, Cnt.zero]

theorem Cnt.at_oneDz (k : Nat) : Cnt.at Cnt.oneDz k = if k = 6 then 1 else 0 := by
  unfold Cnt.at; split <;> simp_all [Cnt.oneDz, Cnt.zero]

@[simp] theorem Cnt.add_zero (a : Cnt) : a.add Cnt.zero = a := rfl

/-- The conditions that the active lanes have met. -/
theorem at_mapLanes (s : State) (m : MReg) (w : Nat) (old : VWord) (f : Nat → Nat × Cnt) (k : Nat) :
    Cnt.at (mapLanes w (s.mr m) old f).2 k = sumLanes s m w (fun i => (f i).2) k := by
  rw [mapLanes, sumLanes]
  dsimp only
  rw [Cnt.at_foldl_add, Cnt.at_zero, Nat.zero_add, List.map_map, List.map_map]
  congr 1
  refine List.map_congr_left fun i _ => ?_
  simp only [Function.comp_apply]
  split
  · rfl
  · exact Cnt.at_zero k

theorem Core.bump_nctr (c : Core) (i : Fin 8) (n : Nat) (j : Fin 8) :
    (c.bump i n).nctr[j.val] = if j = i then BitVec.ofNat 32 (min (c.nctr[j.val].toNat + n) 0xFFFFFFFF) else c.nctr[j.val] := by
  by_cases e : j = i
  · subst e; simp [Core.bump]
  · rw [if_neg e]
    exact Vector.getElem_set_ne i.isLt j.isLt fun h => e (Fin.ext h.symm)

theorem Core.count_nctr (c : Core) (k : Cnt) (i : Fin 8) :
    (c.count k).nctr[i.val] = BitVec.ofNat 32 (min (c.nctr[i.val].toNat + Cnt.at k i.val) 0xFFFFFFFF) := by
  have same : c.nctr[i.val] = BitVec.ofNat 32 (min (c.nctr[i.val].toNat + 0) 0xFFFFFFFF) := by
    have := c.nctr[i.val].isLt
    rw [Nat.add_zero, Nat.min_eq_left (by omega), BitVec.ofNat_toNat, BitVec.setWidth_eq]
  unfold Core.count
  simp only [Core.bump_nctr]
  fin_cases i <;> simp [Cnt.at]
  exact same

theorem Core.count_frame (c : Core) (k : Cnt) : ∃ nctr, c.count k = { c with nctr := nctr } := by
  refine ⟨(c.count k).nctr, ?_⟩
  unfold Core.count Core.bump
  rfl

theorem Core.count_threads (c : Core) (k : Cnt) : (c.count k).threads = c.threads := by
  obtain ⟨nctr, eq⟩ := c.count_frame k
  rw [eq]

theorem Core.count_zero (c : Core) : c.count Cnt.zero = c := by
  obtain ⟨nctr, eq⟩ := c.count_frame Cnt.zero
  have : nctr = c.nctr := by
    ext1 i hi
    have := c.count_nctr Cnt.zero ⟨i, hi⟩
    rw [Cnt.at_zero, Nat.add_zero, Nat.min_eq_left (by have := c.nctr[i].isLt; omega), BitVec.ofNat_toNat, BitVec.setWidth_eq, eq] at this
    exact this
  rw [eq, this]

/-- An instruction that counts nothing completes as one that does not count. -/
theorem at'_counted_zero (s : State) (pc : BitVec 56) : at' (s.counted Cnt.zero) pc = at' s pc := by
  unfold at' State.counted
  simp [State.modMe, State.setMe, State.setThread, State.modCore, State.setCore, State.me, State.thread, State.core, tset_tset,
    tget_tset_same, Core.count_zero]

theorem counted_me (s : State) (k : Cnt) : (s.counted k).me = s.me :=
  State.modCore_me (fun c => c.count_threads k) s _

theorem counted_thread (s : State) (k : Cnt) (p t : Nat) : (s.counted k).thread p t = s.thread p t :=
  State.modCore_thread (fun c => c.count_threads k) s _ p t

theorem counted_direct (s : State) (k : Cnt) (p : Nat) : ((s.counted k).core p).direct = (s.core p).direct := by
  by_cases e : p = s.cur.core
  · subst e; rw [State.counted, State.modCore_core_same, Core.count_direct]
  · rw [State.counted, State.modCore_core_ne _ _ _ _ e]

theorem at'_nctr (s : State) (pc : BitVec 56) : (at' s pc).myCore.nctr = s.myCore.nctr := State.modMe_core_nctr s _ _

theorem counters_counted {s u : State} (cur : u.cur = s.cur) (nctr : (u.core s.cur.core).nctr = s.myCore.nctr) (k : Cnt) (pc : BitVec 56) :
    counters s (at' (u.counted k) pc) (Cnt.at k) := by
  intro i
  rw [at'_nctr, State.myCore, State.counted, State.modCore_cur, State.modCore_core_same, Core.count_nctr]
  simp only [cur, nctr]

/-! ### A vector register is written -/

section
variable (s : State) (d : VReg) (v : VWord) (k : Cnt) (pc : BitVec 56)

/-- The state once an instruction has written `v` to `vD`, has counted `k` and is complete. -/
def wrote : State := at' ((s.vw d v).counted k) (s.me.regs.pc + 4)

theorem vw_me : (s.vw d v).me = { s.me with regs := { s.me.regs with v := s.me.regs.v.set d.val v } } := State.modMe_me s _

theorem wrote_me : (wrote s d v k).me =
    { s.me with latch := {}, due := 0, taken := [], pinAt := none, passBp := false, crs := paid s,
                regs := { s.me.regs with pc := s.me.regs.pc + 4, v := s.me.regs.v.set d.val v } } := by
  rw [wrote, at'_me, paid, counted_me, vw_me]
  rfl

theorem wrote_vr_same : (wrote s d v k).vr d = v := by
  rw [State.vr, wrote_me]
  exact Vector.getElem_set_self ..

theorem wrote_vr_ne {r : VReg} (h : r ≠ d) : (wrote s d v k).vr r = s.vr r := by
  rw [State.vr, wrote_me]
  exact Vector.getElem_set_ne d.isLt r.isLt fun e => h (Fin.ext e.symm)

/-- Besides `vD`, the counters and the program counter an instruction with a vector destination changes nothing. -/
theorem vecFrame_wrote : vecFrame s (wrote s d v k) d := by
  refine ⟨?_, fun r h => wrote_vr_ne s d v k h, ?_, ?_, ?_, ?_, ?_, rfl, rfl, rfl, fun p => ?_, fun p t h => ?_⟩
  · rw [wrote_me]
  · rw [wrote_me]
  · rw [wrote_me]
  · rw [wrote_me]
  · rw [wrote_me]
  · rw [wrote_me]
  · rw [wrote, at', State.modMe_core_direct, counted_direct, State.vw, State.modMe_core_direct]
  · exact (at'_thread_ne ((s.vw d v).counted k) _ p t h).trans ((counted_thread _ k p t).trans (State.modMe_thread_ne s _ p t h))

theorem wrote_counters : counters s (wrote s d v k) (Cnt.at k) :=
  counters_counted (s := s) (u := s.vw d v) rfl (State.modMe_core_nctr s _ _) k _

theorem wrote_zero : at' (s.vw d v) (s.me.regs.pc + 4) = wrote s d v Cnt.zero := (at'_counted_zero _ _).symm

theorem wrote_nctr : (wrote s d v Cnt.zero).myCore.nctr = s.myCore.nctr := by
  rw [← wrote_zero, at'_nctr]
  exact State.modMe_core_nctr s _ _

end

/-- What an instruction with a vector destination and a mask answers: the active lanes of `vD` become `f`, the conditions `k` are counted,
and nothing else changes but the program counter. -/
def Writes (s : State) (d : VReg) (m : MReg) (w : Nat) (o : Out) (f k : Nat → Nat) : Prop :=
  ∃ t, o = .next t ∧ vecFrame s t d ∧ vecLanes s t d m w f ∧ counters s t k

theorem Writes.congr {s : State} {d : VReg} {m : MReg} {w : Nat} {o : Out} {f g k l : Nat → Nat} (h : Writes s d m w o f k)
    (lanes : ∀ i, f i = g i) (cnt : ∀ i, k i = l i) : Writes s d m w o g l := funext lanes ▸ funext cnt ▸ h

/-- An issue that nothing delays, of a body that always completes. -/
theorem issue_plain_completes {s : State} {rd wr : List GReg} (h : plain s rd wr = true) (f : State → State) :
    s.issue rd wr (fun s => .done (f s)) = at' (f s) (s.me.regs.pc + 4) := issue_plain_done h rfl

/-- A lane-wise result is written under the mask, with the conditions of the active lanes counted. -/
theorem writes_mapLanes {s : State} {d : VReg} {m : MReg} {w : Nat} {f : Nat → Nat × Cnt} (fits : ∀ i, (f i).1 < 2 ^ w) :
    Writes s d m w (.next (wrote s d (mapLanes w (s.mr m) (s.vr d) f).1 (mapLanes w (s.mr m) (s.vr d) f).2))
      (fun i => (f i).1) (sumLanes s m w fun i => (f i).2) := by
  refine ⟨_, rfl, vecFrame_wrote .., fun i hi => ?_, ?_⟩
  · rw [wrote_vr_same]
    exact lane_mapLanes _ _ hi (fits i)
  · have count := wrote_counters s d (mapLanes w (s.mr m) (s.vr d) f).1 (mapLanes w (s.mr m) (s.vr d) f).2
    rwa [funext (at_mapLanes s m w (s.vr d) f)] at count

/-- The lanes that an operation of R120 or R122 acts on. -/
def atLanes (s : State) (d a b : VReg) (w : Nat) (f : LaneF) (i : Nat) : Nat × Cnt :=
  f (lane (s.vr a) w i) (lane (s.vr b) w i) (lane (s.vr d) w i)

theorem writes_vlanes {s : State} {d a b : VReg} {ty : VTy} {f : LaneF} (fits : ∀ i, (atLanes s d a b ty.w f i).1 < 2 ^ ty.w) (m : MReg) :
    Writes s d m ty.w (vlanes d a b m ty (some f) s) (fun i => (atLanes s d a b ty.w f i).1)
      (sumLanes s m ty.w fun i => (atLanes s d a b ty.w f i).2) := by
  have run : vlanes d a b m ty (some f) s = .next (wrote s d (mapLanes ty.w (s.mr m) (s.vr d) (atLanes s d a b ty.w f)).1
      (mapLanes ty.w (s.mr m) (s.vr d) (atLanes s d a b ty.w f)).2) :=
    congrArg Host.Outcome.next (issue_plain_done (plain_nil s) rfl)
  rw [run]
  exact writes_mapLanes fits

/-! ### Sums over the active lanes -/

theorem sumLanes_eq_zero {s : State} {m : MReg} {w k : Nat} {c : Nat → Cnt} (h : ∀ i, Cnt.at (c i) k = 0) : sumLanes s m w c k = 0 := by
  simp [sumLanes, h]

/-- A condition that lanes meet at most once is counted for each active lane that meets it. -/
theorem sumLanes_eq_countLanes {s : State} {m : MReg} {w k : Nat} {c : Nat → Cnt} {p : Nat → Bool}
    (h : ∀ i, Cnt.at (c i) k = if p i then 1 else 0) : sumLanes s m w c k = countLanes s m w p := by
  have one (i : Nat) : (if (s.mr m).getLsbD i then Cnt.at (c i) k else 0) = if ((s.mr m).getLsbD i && p i) = true then 1 else 0 := by
    rw [h]
    cases (s.mr m).getLsbD i <;> simp
  rw [sumLanes, countLanes, funext one]
  induction List.range (512 / w) with
  | nil => rfl
  | cons i is ih => rw [List.map_cons, List.sum_cons, ih, List.countP_cons, Nat.add_comm]

end Sys2Proof.Machine
end

section
/-!
Integer vector operations (R120, R122): a lane as an exact integer of its type, and the rows of the tables.
-/

open Sys2Proof Sys2Proof.Claims

namespace Sys2Proof.Machine

/-! ### Integer types (R40, R41) -/

theorem ty_w_pos (ty : VTy) : 0 < ty.w := by cases ty <;> decide

theorem int_w (ty : VTy) : ty.int.w = ty.w := by cases ty <;> rfl

theorem int_signed (ty : VTy) : ty.int.signed = ty.isI := by cases ty <;> rfl

theorem asInt_of_isInt {ty : VTy} (h : ty.isInt = true) : ty.asInt = some ty.int := by
  cases ty with
  | i8 | i16 | i32 | i64 | n8 | n16 | n32 | n64 => rfl
  | f16 | bf16 | f32 | e4m3 | e5m2 => cases h

theorem int_lo (ty : VTy) : ty.int.lo = eltMin ty := by rw [IFmt.lo, eltMin, int_w, int_signed]

theorem int_hi (ty : VTy) : ty.int.hi = eltMax ty := by rw [IFmt.hi, eltMax, int_w, int_signed]

theorem int_wrapBits (ty : VTy) (v : Int) : ty.int.wrapBits v = low ty v := by rw [IFmt.wrapBits, low, int_w]

theorem int_fits (ty : VTy) (v : Int) : ty.int.fits v = !outside ty v := by
  rw [IFmt.fits, outside, int_lo, int_hi, Bool.not_or, ← decide_not, ← decide_not, decide_eq_decide.mpr not_lt, decide_eq_decide.mpr not_lt]

theorem eltMin_le_eltMax (ty : VTy) : eltMin ty ≤ eltMax ty := by cases ty <;> decide

theorem int_sat (ty : VTy) (v : Int) : ty.int.sat v = max (eltMin ty) (min (eltMax ty) v) := by
  have := eltMin_le_eltMax ty
  rw [IFmt.sat, int_lo, int_hi]
  split
  · omega
  · split <;> omega

/-- The integer of a lane. -/
theorem int_value (ty : VTy) {x : Nat} (h : x < 2 ^ ty.w) : ty.int.value x = elt ty x := by
  have half : 2 ^ ty.w = 2 * 2 ^ (ty.w - 1) := by rw [← pow_succ', Nat.sub_add_cancel (ty_w_pos ty)]
  rw [IFmt.value, elt, int_w, int_signed, Nat.mod_eq_of_lt h]
  cases ty.isI with
  | false => rfl
  | true =>
    rw [BitVec.toInt_eq_toNat_cond, BitVec.toNat_ofNat, Nat.mod_eq_of_lt h]
    simp only [Bool.true_and, decide_eq_true_eq, if_true]
    by_cases neg : 2 ^ (ty.w - 1) ≤ x
    · rw [if_pos neg, if_neg (by omega)]
    · rw [if_neg neg, if_pos (by omega)]

theorem low_lt (ty : VTy) (v : Int) : low ty v < 2 ^ ty.w := by
  have pos : (0 : Int) < 2 ^ ty.w := by positivity
  have := Int.emod_lt_of_pos v pos
  have := Int.emod_nonneg v pos.ne'
  rw [low]
  zify
  omega

/-- A lane is the low bits of its integer. -/
theorem low_elt (ty : VTy) {x : Nat} (h : x < 2 ^ ty.w) : low ty (elt ty x) = x := by
  have wrap (y : Int) (e : y % 2 ^ ty.w = x) : low ty y = x := by rw [low, e, Int.toNat_natCast]
  have self : (x : Int) % 2 ^ ty.w = x := Int.emod_eq_of_lt (by omega) (by exact_mod_cast h)
  refine wrap _ ?_
  rw [← int_value ty h, IFmt.value, int_w, Nat.mod_eq_of_lt h]
  split
  · push_cast
    rw [Int.sub_emod_right, self]
  · exact self

/-! ### Operations of integer lanes -/

/-- An instruction form of two sources runs a lane operation on every integer type. -/
def RunsInt (form : VReg → VReg → VReg → MReg → VTy → Instr) (f : IFmt → LaneF) : Prop :=
  ∀ d a b m ty s, ty.isInt = true → exec (form d a b m ty) s = vlanes d a b m ty (some (f ty.int)) s

theorem laneOp_int {ty : VTy} (h : ty.isInt = true) (f : IFmt → LaneF) (g : Option (Fmt → LaneF)) : laneOp ty (some f) g = some (f ty.int) := by
  rw [laneOp, asInt_of_isInt h]
  rfl

theorem runsInt_of_laneOp {form : VReg → VReg → VReg → MReg → VTy → Instr} {f : IFmt → LaneF} {g : Option (Fmt → LaneF)}
    (h : ∀ d a b m ty s, exec (form d a b m ty) s = vlanes d a b m ty (laneOp ty (some f) g) s) : RunsInt form f :=
  fun d a b m ty s int => (h d a b m ty s).trans (by rw [laneOp_int int])

/-- A condition of counter `n` that lanes meet at most once. -/
theorem sumLanes_ite {s : State} {m : MReg} {w : Nat} {c : Nat → Cnt} {one : Cnt} {n : Nat} {p : Nat → Bool}
    (one_at : ∀ k, Cnt.at one k = if k = n then 1 else 0) (h : ∀ i, c i = if p i then one else Cnt.zero) (k : Nat) :
    sumLanes s m w c k = if k = n then countLanes s m w p else 0 := by
  by_cases e : k = n
  · subst e
    rw [if_pos rfl]
    refine sumLanes_eq_countLanes fun i => ?_
    rw [h]
    split
    · rw [one_at, if_pos rfl]
    · exact Cnt.at_zero k
  · rw [if_neg e]
    refine sumLanes_eq_zero fun i => ?_
    rw [h]
    split
    · rw [one_at, if_neg e]
    · exact Cnt.at_zero k

section
variable (s : State) (d a b : VReg) (m : MReg) (ty : VTy)

/-- A lane result by the low bits of an integer, with a condition that a lane meets at most once. -/
theorem writes_low {f : LaneF} {r : Nat → Int} {one : Cnt} {n : Nat} {p : Nat → Bool} (one_at : ∀ k, Cnt.at one k = if k = n then 1 else 0)
    (h : ∀ i, atLanes s d a b ty.w f i = (low ty (r i), if p i then one else Cnt.zero)) :
    Writes s d m ty.w (vlanes d a b m ty (some f) s) (fun i => low ty (r i)) (fun k => if k = n then countLanes s m ty.w p else 0) :=
  (writes_vlanes (fun i => by rw [h]; exact low_lt ..) m).congr (fun i => by rw [h]) (sumLanes_ite one_at fun i => by rw [h])

/-- A lane operation that counts nothing. -/
theorem writes_quiet {f : LaneF} {r : Nat → Nat} (h : ∀ i, atLanes s d a b ty.w f i = quiet (r i)) (fits : ∀ i, r i < 2 ^ ty.w) :
    Writes s d m ty.w (vlanes d a b m ty (some f) s) r fun _ => 0 :=
  (writes_vlanes (fun i => by rw [h]; exact fits i) m).congr (fun i => by rw [h]; rfl) fun k =>
    sumLanes_eq_zero fun i => by rw [h]; exact Cnt.at_zero k

theorem int_wrapCount (v : Int) : ty.int.wrapCount v = (low ty v, if outside ty v then Cnt.oneWrap else Cnt.zero) := by
  rw [IFmt.wrapCount, int_wrapBits, int_fits]
  cases outside ty v <;> rfl

theorem atLanes_intLane (f : Int → Int → Int → Int) (i : Nat) :
    atLanes s d a b ty.w (intLane f ty.int) i =
      (low ty (f (elt ty (lane (s.vr a) ty.w i)) (elt ty (lane (s.vr b) ty.w i)) (elt ty (lane (s.vr d) ty.w i))),
        if outside ty (f (elt ty (lane (s.vr a) ty.w i)) (elt ty (lane (s.vr b) ty.w i)) (elt ty (lane (s.vr d) ty.w i))) then Cnt.oneWrap
        else Cnt.zero) := by
  rw [atLanes, intLane, int_value ty (lane_lt ..), int_value ty (lane_lt ..), int_value ty (lane_lt ..), int_wrapCount]

end

/-- The wrapping operations of R120 and R122. -/
theorem wrapOps_run : ∀ row ∈ wrapOps, RunsInt row.1 (intLane row.2) := by
  simp only [wrapOps, List.forall_mem_cons, List.not_mem_nil, false_imp_iff, implies_true, and_true]
  refine ⟨?_, ?_, ?_, ?_, ?_, ?_⟩ <;> exact runsInt_of_laneOp fun _ _ _ _ _ _ => rfl

theorem claims_vectorWrap : Claims.VectorWrap := by
  intro row hrow d a b m ty s int
  have := writes_low s d a b m ty Cnt.at_oneWrap (atLanes_intLane s d a b ty row.2)
  rwa [← wrapOps_run row hrow d a b m ty s int] at this

/-! ### Minimum, maximum, clamp; bits and shifts -/

theorem intPick_false (ty : VTy) {x y : Nat} (hx : x < 2 ^ ty.w) (hy : y < 2 ^ ty.w) :
    intPick false ty.int x y = low ty (min (elt ty x) (elt ty y)) := by
  rw [intPick, if_neg Bool.false_ne_true, int_value ty hx, int_value ty hy]
  split
  next less => rw [min_eq_right less.le, low_elt ty hy]
  next less => rw [min_eq_left (not_lt.mp less), low_elt ty hx]

theorem intPick_true (ty : VTy) {x y : Nat} (hx : x < 2 ^ ty.w) (hy : y < 2 ^ ty.w) :
    intPick true ty.int x y = low ty (max (elt ty x) (elt ty y)) := by
  rw [intPick, if_pos rfl, int_value ty hx, int_value ty hy]
  split
  next less => rw [max_eq_right less.le, low_elt ty hy]
  next less => rw [max_eq_left (not_lt.mp less), low_elt ty hx]

theorem elt_intPick_true (ty : VTy) {x y : Nat} (hx : x < 2 ^ ty.w) (hy : y < 2 ^ ty.w) :
    intPick true ty.int x y < 2 ^ ty.w ∧ elt ty (intPick true ty.int x y) = max (elt ty x) (elt ty y) := by
  rw [intPick, if_pos rfl, int_value ty hx, int_value ty hy]
  split
  next less => exact ⟨hy, (max_eq_right less.le).symm⟩
  next less => exact ⟨hx, (max_eq_left (not_lt.mp less)).symm⟩

/-- An instruction form of two sources gives each lane of an integer type `r` of the sources' lanes and the old one, and counts nothing. -/
def RunsQuiet (form : VReg → VReg → VReg → MReg → VTy → Instr) (r : VTy → Nat → Nat → Nat → Nat) : Prop :=
  ∃ f : IFmt → LaneF, RunsInt form f ∧ ∀ ty x y z, x < 2 ^ ty.w → y < 2 ^ ty.w → z < 2 ^ ty.w → f ty.int x y z = quiet (r ty x y z) ∧ r ty x y z < 2 ^ ty.w

theorem RunsQuiet.writes {form : VReg → VReg → VReg → MReg → VTy → Instr} {r : VTy → Nat → Nat → Nat → Nat} (h : RunsQuiet form r)
    {ty : VTy} (int : ty.isInt = true) (d a b : VReg) (m : MReg) (s : State) :
    Writes s d m ty.w (exec (form d a b m ty) s) (fun i => r ty (lane (s.vr a) ty.w i) (lane (s.vr b) ty.w i) (lane (s.vr d) ty.w i)) fun _ => 0 := by
  obtain ⟨f, run, value⟩ := h
  rw [run d a b m ty s int]
  exact writes_quiet s d a b m ty (fun i => (value ty _ _ _ (lane_lt ..) (lane_lt ..) (lane_lt ..)).1)
    fun i => (value ty _ _ _ (lane_lt ..) (lane_lt ..) (lane_lt ..)).2

theorem pickOps_run : ∀ row ∈ pickOps, RunsQuiet row.1 fun ty x y z => low ty (row.2 (elt ty x) (elt ty y) (elt ty z)) := by
  simp only [pickOps, List.forall_mem_cons, List.not_mem_nil, false_imp_iff, implies_true, and_true]
  refine ⟨⟨_, runsInt_of_laneOp fun _ _ _ _ _ _ => rfl, fun ty x y z hx hy hz => ⟨?_, low_lt ..⟩⟩,
    ⟨_, runsInt_of_laneOp fun _ _ _ _ _ _ => rfl, fun ty x y z hx hy hz => ⟨?_, low_lt ..⟩⟩,
    ⟨_, runsInt_of_laneOp fun _ _ _ _ _ _ => rfl, fun ty x y z hx hy hz => ⟨?_, low_lt ..⟩⟩⟩
  · exact congrArg quiet (intPick_false ty hx hy)
  · exact congrArg quiet (intPick_true ty hx hy)
  · obtain ⟨lt, larger⟩ := elt_intPick_true ty hz hx
    exact congrArg quiet ((intPick_false ty lt hy).trans (by rw [larger]))

theorem bitOps_run : ∀ row ∈ bitOps, RunsQuiet row.1 fun ty x y _ => row.2 ty.w x y := by
  simp only [bitOps, List.forall_mem_cons, List.not_mem_nil, false_imp_iff, implies_true, and_true]
  refine ⟨⟨_, runsInt_of_laneOp fun _ _ _ _ _ _ => rfl, fun ty x y z hx hy hz => ⟨rfl, Nat.and_lt_two_pow x hy⟩⟩,
    ⟨_, runsInt_of_laneOp fun _ _ _ _ _ _ => rfl, fun ty x y z hx hy hz => ⟨rfl, Nat.or_lt_two_pow hx hy⟩⟩,
    ⟨_, runsInt_of_laneOp fun _ _ _ _ _ _ => rfl, fun ty x y z hx hy hz => ⟨rfl, Nat.xor_lt_two_pow hx hy⟩⟩,
    ⟨_, runsInt_of_laneOp fun _ _ _ _ _ _ => rfl, fun ty x y z hx hy hz => ⟨?_, Nat.mod_lt _ (Nat.two_pow_pos _)⟩⟩,
    ⟨_, runsInt_of_laneOp fun _ _ _ _ _ _ => rfl, fun ty x y z hx hy hz => ⟨?_, (Nat.div_le_self ..).trans_lt hx⟩⟩⟩
  · exact congrArg (fun w => quiet (x * 2 ^ (y % w) % 2 ^ w)) (int_w ty)
  · exact congrArg (fun w => quiet (x / 2 ^ (y % w))) (int_w ty)

/-! ### Saturation, arithmetic shift, sign (R120) -/

/-- A saturated sum or difference, counted when it saturates. -/
theorem int_satLane (ty : VTy) (f : Int → Int → Int) {x y : Nat} (z : Nat) (hx : x < 2 ^ ty.w) (hy : y < 2 ^ ty.w) :
    satLane f ty.int x y z = (low ty (max (eltMin ty) (min (eltMax ty) (f (elt ty x) (elt ty y)))),
      if outside ty (f (elt ty x) (elt ty y)) then Cnt.oneWrap else Cnt.zero) := by
  rw [satLane, int_value ty hx, int_value ty hy, IFmt.satBits, int_wrapBits, int_sat, int_fits]
  cases outside ty (f (elt ty x) (elt ty y)) <;> rfl

theorem laneOp_signed {ty : VTy} (h : ty.isI = true) (f : IFmt → LaneF) (g : Option (Fmt → LaneF)) :
    (if (ty.isI || ty.arith.isSome) = true then laneOp ty (some f) g else none) = some (f ty.int) := by
  rw [h, Bool.true_or, if_pos rfl, laneOp_int (by rw [VTy.isInt, h]; rfl)]

theorem claims_vectorInteger : Claims.VectorInteger := by
  intro d a b m ty s int x y z
  refine ⟨fun row hrow => (pickOps_run row hrow).writes int d a b m s, fun row hrow => (bitOps_run row hrow).writes int d a b m s,
    ?_, fun signed => ⟨?_, ?_⟩⟩
  · have sat (f : Int → Int → Int) := writes_low s d a b m ty (f := satLane f ty.int) Cnt.at_oneWrap
      fun i => int_satLane ty f _ (lane_lt ..) (lane_lt ..)
    simp only [List.forall_mem_cons, List.not_mem_nil, false_imp_iff, implies_true, and_true]
    constructor
    · have := sat fun u v => u + v
      rwa [← laneOp_int int _ none] at this
    · have := sat fun u v => u - v
      rwa [← laneOp_int int _ none] at this
  · have := writes_quiet s d a b m ty (f := shiftLane (fun t x n => t.wrapBits (t.value x / 2 ^ n)) ty.int)
      (r := fun i => low ty (x i / 2 ^ (lane (s.vr b) ty.w i % ty.w))) (fun i => congrArg quiet (by
        dsimp only
        rw [int_wrapBits, int_value ty (lane_lt ..), int_w])) fun i => low_lt ..
    rw [← laneOp_int int _ none] at this
    have run : exec (.vsra d a b m ty) s = vlanes d a b m ty (laneOp ty (some (shiftLane fun t x n => t.wrapBits (t.value x / 2 ^ n))) none) s :=
      congrArg (fun op => vlanes d a b m ty op s) (if_pos signed)
    rwa [← run] at this
  · have unary (f : Int → Int) := writes_low s d a a m ty Cnt.at_oneWrap (atLanes_intLane s d a a ty fun x _ _ => f x)
    simp only [List.forall_mem_cons, List.not_mem_nil, false_imp_iff, implies_true, and_true]
    constructor
    · have := unary fun u => u.natAbs
      simp only [Int.abs_eq_natAbs]
      rwa [← laneOp_signed signed _ (some (un fun t => t.absneg true))] at this
    · have := unary fun u => 0 - u
      simp only [← Int.zero_sub]
      rwa [← laneOp_signed signed _ (some (un fun t => t.absneg false))] at this

/-! ### Division (R42) -/

/-- A quotient by zero is all ones and counted; the one that does not fit wraps and is counted. -/
theorem int_div (ty : VTy) {x y : Nat} (hx : x < 2 ^ ty.w) (hy : y < 2 ^ ty.w) :
    ty.int.div x y = (if elt ty y = 0 then 2 ^ ty.w - 1 else low ty ((elt ty x).tdiv (elt ty y)),
      if elt ty y = 0 then Cnt.oneDz else if ty.isI && elt ty x == eltMin ty && elt ty y == -1 then Cnt.oneWrap else Cnt.zero) := by
  rw [IFmt.div, int_value ty hx, int_value ty hy, int_w, int_signed, int_lo, int_wrapBits, int_wrapBits]
  split
  · rfl
  · split
    next wraps =>
      simp only [Bool.and_eq_true, beq_iff_eq] at wraps
      obtain ⟨⟨signed, least⟩, minus⟩ := wraps
      have half : (2 : Int) ^ ty.w = 2 * 2 ^ (ty.w - 1) := by rw [← pow_succ', Nat.sub_add_cancel (ty_w_pos ty)]
      rw [least, minus, Int.tdiv_neg, Int.tdiv_one, eltMin, if_pos signed, low, low, half, neg_neg,
        ← Int.add_mul_emod_self_left (-2 ^ (ty.w - 1)) (2 * 2 ^ (ty.w - 1)) 1]
      congr 4
      ring
    · rfl

/-- A quotient by zero counts at counter 6, the one that wraps at counter 5 (R62). -/
theorem at_divided (k : Nat) (wraps : Bool) (y : Int) :
    Cnt.at (if y = 0 then Cnt.oneDz else if (wraps && y == -1) = true then Cnt.oneWrap else Cnt.zero) k =
      if k = 6 then (if (y == 0) = true then 1 else 0) else if k = 5 then (if (wraps && y == -1) = true then 1 else 0) else 0 := by
  by_cases zero : y = 0
  · subst zero
    simp [Cnt.at_oneDz]
  · simp only [zero, if_false, beq_iff_eq]
    split
    · rw [Cnt.at_oneWrap]
      split
      · rw [if_neg (by omega)]
      · exact (ite_self 0).symm
    · rw [Cnt.at_zero, ite_self, ite_self]

theorem claims_vectorDivide : Claims.VectorDivide := by
  intro d a b m ty s int x y
  have value (i : Nat) : atLanes s d a b ty.w (fun x y _ => ty.int.div x y) i = _ := int_div ty (lane_lt (s.vr a) ..) (lane_lt (s.vr b) ..)
  have := writes_vlanes (s := s) (d := d) (a := a) (b := b) (ty := ty) (f := fun x y _ => ty.int.div x y) (fun i => by
    rw [value]
    dsimp only
    split
    · exact Nat.sub_one_lt (Nat.two_pow_pos _).ne'
    · exact low_lt ..) m
  rw [← laneOp_int (f := fun t x y _ => t.div x y) int (some (bin Fmt.div))] at this
  refine this.congr (fun i => by rw [value]) fun k => ?_
  have cnt (i : Nat) : Cnt.at (atLanes s d a b ty.w (fun x y _ => ty.int.div x y) i).2 k =
      if k = 6 then (if (y i == 0) = true then 1 else 0)
      else if k = 5 then (if (ty.isI && x i == eltMin ty && y i == -1) = true then 1 else 0) else 0 := by
    rw [value]
    exact at_divided k (ty.isI && x i == eltMin ty) (y i)
  split
  next six => exact sumLanes_eq_countLanes fun i => (cnt i).trans (if_pos six)
  next six =>
    split
    next five => exact sumLanes_eq_countLanes fun i => (cnt i).trans ((if_neg six).trans (if_pos five))
    next five => exact sumLanes_eq_zero fun i => (cnt i).trans ((if_neg six).trans (if_neg five))

/-- Settles O15: every form runs a lane operation, whose result is the one on the exact integers of the lanes. -/
theorem vectorInteger : Obligations.VectorInteger := by
  unfold Obligations.VectorInteger
  exact ⟨claims_vectorWrap, claims_vectorInteger, claims_vectorDivide⟩

end Sys2Proof.Machine
end

section
/-!
Vector instructions that move bits (R124, R126, R136), mask registers (R125) and compares (R123).
-/

open Sys2Proof Sys2Proof.Claims

namespace Sys2Proof.Machine

/-! ### Permutes and moves to a vector register -/

section
variable {s : State} {d : VReg} {m : MReg} {w : Nat}

/-- What an instruction that moves bits to the active lanes of `vD` answers; it counts nothing. -/
def Moves (s : State) (d : VReg) (m : MReg) (w : Nat) (o : Out) (f : Nat → Nat) : Prop :=
  ∃ t, o = .next t ∧ vecFrame s t d ∧ vecLanes s t d m w f ∧ t.myCore.nctr = s.myCore.nctr

theorem moves_mapLanes {f : Nat → Nat × Cnt} (fits : ∀ i, (f i).1 < 2 ^ w) :
    Moves s d m w (.next (at' (s.vw d (mapLanes w (s.mr m) (s.vr d) f).1) (s.me.regs.pc + 4))) fun i => (f i).1 := by
  rw [wrote_zero]
  refine ⟨_, rfl, vecFrame_wrote .., fun i hi => ?_, wrote_nctr ..⟩
  rw [wrote_vr_same]
  exact lane_mapLanes _ _ hi (fits i)

theorem Moves.congr {o : Out} {f g : Nat → Nat} (h : Moves s d m w o f) (e : ∀ i, f i = g i) : Moves s d m w o g := funext e ▸ h

/-- A permute takes lanes of registers, or leaves lanes as they are. -/
theorem moves_permute {ty : VTy} {rd : List GReg} (h : plain s rd [] = true) (f : State → Nat → Option Nat)
    (fits : ∀ i x, f s i = some x → x < 2 ^ ty.w) :
    Moves s d m ty.w (.next (s.issue rd [] fun s => .done (permute d m ty (f s) s))) fun i => (f s i).getD (lane (s.vr d) ty.w i) := by
  rw [issue_plain_completes h fun s => permute d m ty (f s) s]
  refine moves_mapLanes fun i => ?_
  cases e : f s i with
  | none => exact lane_lt ..
  | some x => exact fits i x e

/-- A permute that takes a lane for every active lane. -/
theorem moves_permute_all {ty : VTy} (f : State → Nat → Nat) (fits : ∀ i, f s i < 2 ^ ty.w) :
    Moves s d m ty.w (.next (s.issue [] [] fun s => .done (permute d m ty (fun i => some (f s i)) s))) (f s) :=
  moves_permute (plain_nil s) (fun s i => some (f s i)) fun i _ e => Option.some.inj e ▸ fits i

/-- A permute that takes the lanes which a condition allows. -/
theorem moves_permute_if {ty : VTy} {n : GReg} (h : plain s [n] [] = true) (p : State → Nat → Prop) [∀ s i, Decidable (p s i)]
    (f : State → Nat → Nat) (fits : ∀ i, f s i < 2 ^ ty.w) :
    Moves s d m ty.w (.next (s.issue [n] [] fun s => .done (permute d m ty (fun i => if p s i then some (f s i) else none) s)))
      fun i => if p s i then f s i else lane (s.vr d) ty.w i := by
  refine (moves_permute h (fun s i => if p s i then some (f s i) else none) fun i x e => ?_).congr fun i => ?_
  · split at e
    · exact Option.some.inj e ▸ fits i
    · cases e
  · split <;> rfl

end

/-- Settles O20: each form is a permute whose source lanes are those of the table. -/
theorem permutes : Obligations.Permutes := by
  unfold Obligations.Permutes
  intro d a b n m ty s L A B D k
  simp only [List.forall_mem_cons, List.not_mem_nil, false_imp_iff, implies_true, and_true]
  refine ⟨⟨?_, ?_, ?_, ?_⟩, fun h => ⟨?_, ?_⟩⟩
  · exact moves_permute_all (fun s i => lane (s.vr a) ty.w (lane (s.vr b) ty.w i % ty.lanes)) fun i => lane_lt ..
  · exact (moves_permute_all (fun s i => lane (if i % 2 = 0 then s.vr a else s.vr b) ty.w (i / 2)) fun i => lane_lt ..).congr
      fun i => apply_ite (fun v => lane v ty.w (i / 2)) ..
  · refine moves_permute_all (fun s i => if 2 * i < ty.lanes then lane (s.vr a) ty.w (2 * i) else lane (s.vr b) ty.w (2 * i - ty.lanes))
      fun i => ?_
    split <;> exact lane_lt ..
  · exact moves_permute_all (fun s i => lane (s.vr a) ty.w (ty.lanes - 1 - i)) fun i => lane_lt ..
  · exact moves_permute_if h (fun s i => (s.gr n).toNat ≤ i) (fun s i => lane (s.vr a) ty.w (i - (s.gr n).toNat)) fun i => lane_lt ..
  · exact moves_permute_if h (fun s i => i + (s.gr n).toNat < ty.lanes) (fun s i => lane (s.vr a) ty.w (i + (s.gr n).toNat)) fun i => lane_lt ..

/-! ### Moves between general and vector registers (R136) -/

/-- To write back what `vD` holds changes nothing of the completed instruction. -/
theorem at'_vw_self (s : State) (d : VReg) (pc : BitVec 56) : at' (s.vw d (s.vr d)) pc = at' s pc := by
  have same : s.me.regs.v.set d.val (s.vr d) = s.me.regs.v := Vector.set_getElem_self d.isLt
  rw [at', State.vw, State.modMe_modMe, State.modMe, at', State.modMe]
  dsimp only
  rw [same]

section
variable {s : State} {rd : List GReg}

theorem on_mw (s : State) (d : MReg) (v : Word) : at' (s.mw d v) (s.me.regs.pc + 4) = on (s.mw d v) := by
  refine on_eq ?_
  unfold State.mw
  split
  · rfl
  · rw [State.modMe_me]

/-- A general register result of an instruction that does nothing else. -/
theorem issue_gw {d : GReg} (h : plain s rd [d] = true) (v : State → Word) :
    s.issue rd [d] (fun s => .done (s.gw d (v s))) = on (putG s d (v s)) := by
  rw [issue_plain_completes h fun s => s.gw d (v s), at'_gw_eq_on_putG h rfl]

end

/-- Settles O24: a vector result goes to the active lanes or to one, any other one to its register. -/
theorem vectorMoves : Obligations.VectorMoves := by
  unfold Obligations.VectorMoves
  intro d a g n m md ty s L k
  refine ⟨fun h => ?_, fun h => ?_, fun h => congrArg Host.Outcome.next ?_, fun h => congrArg Host.Outcome.next (issue_gw h fun s => s.mr md), fun h => ?_⟩
  · obtain ⟨t, run, frame, lanes, -⟩ := moves_mapLanes (s := s) (d := d) (m := m) (w := ty.w)
      (f := fun _ => quiet ((s.gr g).toNat % 2 ^ ty.w)) fun i => Nat.mod_lt _ (Nat.two_pow_pos _)
    exact ⟨t, (congrArg Host.Outcome.next (issue_plain_completes h _)).trans run, frame, lanes⟩
  · have run : exec (.vins d g n ty) s = .next (wrote s d (if k < L then setLane (s.vr d) ty.w k ((s.gr g).toNat % 2 ^ ty.w) else s.vr d) Cnt.zero) := by
      refine congrArg Host.Outcome.next ((issue_plain_completes h fun s =>
        if (s.gr n).toNat < ty.lanes then s.vw d (setLane (s.vr d) ty.w (s.gr n).toNat ((s.gr g).toNat % 2 ^ ty.w)) else s).trans ?_)
      rw [← wrote_zero]
      by_cases inside : k < L
      · rw [if_pos inside, if_pos (show (s.gr n).toNat < ty.lanes from inside)]
      · rw [if_neg inside, if_neg (show ¬ (s.gr n).toNat < ty.lanes from inside), at'_vw_self]
    refine ⟨_, run, vecFrame_wrote .., fun i hi => ?_⟩
    rw [wrote_vr_same]
    split
    · rw [lane_setLane _ _ _ _ hi, Nat.mod_mod]
    next out => rw [if_neg (by omega)]
  · exact issue_gw h fun s => if (s.gr n).toNat < ty.lanes then extendLane ty (lane (s.vr a) ty.w (s.gr n).toNat) else 0
  · exact congrArg Host.Outcome.next ((issue_plain_completes h fun s => s.mw md (s.gr g)).trans (on_mw ..))

/-! ### Mask registers (R125) -/

section
variable (s : State) (d : MReg) (v : Word)

/-- The state once an instruction has written `v` to `M[d]` and is complete. -/
theorem mw_me : (s.mw d v).me = { s.me with regs := { s.me.regs with m := if d = 0 then s.me.regs.m else s.me.regs.m.set d.val v } } := by
  unfold State.mw
  split
  · rfl
  · rw [State.modMe_me]

theorem at'_mr (u : State) (pc : BitVec 56) (r : MReg) : (at' u pc).mr r = u.mr r := by rw [State.mr, at'_me, State.mr]

theorem mw_mr_same (h : d ≠ 0) : (s.mw d v).mr d = v := by
  rw [State.mr, if_neg h, mw_me]
  simp [h]

theorem mw_mr_ne {r : MReg} (h : r ≠ d) : (s.mw d v).mr r = s.mr r := by
  by_cases h0 : r = 0
  · subst h0; rw [State.mr_zero, State.mr_zero]
  · rw [State.mr, State.mr, if_neg h0, if_neg h0, mw_me]
    dsimp only
    split
    · rfl
    · exact Vector.getElem_set_ne d.isLt r.isLt fun e => h (Fin.ext e.symm)

/-- What an instruction with a mask destination leaves as it was. -/
theorem on_mw_frame : (on (s.mw d v)).me.regs.pc = s.me.regs.pc + 4 ∧ (on (s.mw d v)).me.regs.v = s.me.regs.v ∧
    (on (s.mw d v)).me.regs.g = s.me.regs.g ∧ (on (s.mw d v)).me.regs.h = s.me.regs.h ∧
    (on (s.mw d v)).myCore.nctr = s.myCore.nctr ∧ (on (s.mw d v)).dram = s.dram := by
  rw [on, at'_nctr, at'_me, mw_me]
  refine ⟨rfl, rfl, rfl, rfl, ?_, ?_⟩ <;> unfold State.mw <;> split
  · rfl
  · exact State.modMe_core_nctr s _ _
  · rfl
  · rfl

theorem on_mw_mr_same (h : d ≠ 0) : (on (s.mw d v)).mr d = v := (at'_mr ..).trans (mw_mr_same s d v h)

theorem on_mw_mr_ne {r : MReg} (h : r ≠ d) : (on (s.mw d v)).mr r = s.mr r := (at'_mr ..).trans (mw_mr_ne s d v h)

end

/-- An instruction whose result goes to a mask register. -/
theorem issue_mw (s : State) (d : MReg) (v : State → Word) : s.issue [] [] (fun s => .done (s.mw d (v s))) = on (s.mw d (v s)) :=
  (issue_plain_completes (plain_nil s) fun s => s.mw d (v s)).trans (on_mw ..)

/-- Settles O19: `vsel` builds the register from its lanes, and a mask operation writes its value to the mask register. -/
theorem selectAndMasks : Obligations.SelectAndMasks := by
  unfold Obligations.SelectAndMasks
  intro s d a b m ty md ma mb
  constructor
  · have run : exec (.vsel d a b m ty) s = .next (wrote s d (ofLanes ty.w ((List.range ty.lanes).map fun i =>
        lane (if (s.mr m).getLsbD i then s.vr a else s.vr b) ty.w i)) Cnt.zero) := by
      rw [← wrote_zero]
      exact congrArg Host.Outcome.next (issue_plain_completes (plain_nil s) fun s => s.vw d (ofLanes ty.w ((List.range ty.lanes).map fun i =>
        lane (if (s.mr m).getLsbD i then s.vr a else s.vr b) ty.w i)))
    refine ⟨_, run, vecFrame_wrote .., fun i hi => ?_⟩
    rw [wrote_vr_same]
    exact (lane_ofLanes_range ty.w (fun i => lane (if (s.mr m).getLsbD i then s.vr a else s.vr b) ty.w i) hi).trans (Nat.mod_eq_of_lt (lane_lt ..))
  · have masks (v : State → Word) : ∃ t, Host.Outcome.next (s.issue [] [] fun s => .done (s.mw md (v s))) = (.next t : Out) ∧
        t.me.regs.pc = s.me.regs.pc + 4 ∧ (md ≠ 0 → t.mr md = v s) ∧ (∀ r, r ≠ md → t.mr r = s.mr r) ∧ t.mr 0 = BitVec.allOnes 64 ∧
        t.me.regs.g = s.me.regs.g ∧ t.me.regs.v = s.me.regs.v ∧ t.me.regs.h = s.me.regs.h ∧ t.dram = s.dram := by
      obtain ⟨pc, vec, gen, ref, -, dram⟩ := on_mw_frame s md (v s)
      exact ⟨_, congrArg Host.Outcome.next (issue_mw s md v), pc, on_mw_mr_same s md _, fun r => on_mw_mr_ne s md _, State.mr_zero _, gen, vec,
        ref, dram⟩
    simp only [List.forall_mem_cons, List.not_mem_nil, false_imp_iff, implies_true, and_true]
    exact ⟨masks fun s => s.mr ma &&& s.mr mb, masks fun s => s.mr ma ||| s.mr mb, masks fun s => s.mr ma ^^^ s.mr mb, masks fun s => ~~~ s.mr ma⟩

/-! ### Compares (R123) -/

theorem foldr_bits_testBit (bs : List Bool) (i : Nat) : (bs.foldr (fun (b : Bool) acc => 2 * acc + b.toNat) 0).testBit i = bs.getD i false := by
  induction bs generalizing i with
  | nil => simp
  | cons b bs ih =>
    rw [List.foldr_cons]
    cases i with
    | zero => cases b <;> simp
    | succ i =>
      have bit := b.toNat_lt
      rw [Nat.testBit_succ, Nat.mul_add_div two_pos, Nat.div_eq_of_lt bit, Nat.add_zero, ih]
      rfl

theorem maskOf_getLsbD (bs : List Bool) {i : Nat} (h : i < 64) : (maskOf bs).getLsbD i = bs.getD i false := by
  rw [maskOf, BitVec.getLsbD_ofNat, foldr_bits_testBit, decide_eq_true h, Bool.true_and]

/-- Whether a condition holds between two lanes of an integer or float type. -/
def laneHolds (ty : VTy) (c : VCond) (x y : Nat) : Bool :=
  if ty.isInt then intCond c (elt ty x) (elt ty y)
  else match ty.fmt with
    | some f => FVal.cond c (f.value x) (f.value y)
    | none => false

theorem laneCond_int {ty : VTy} (int : ty.isInt = true) (c : VCond) (x y : Nat) :
    laneCond ty c x y = some (intCond c (ty.int.value x) (ty.int.value y)) := by
  rw [laneCond, asInt_of_isInt int]

theorem laneCond_float {ty : VTy} (float : ty.isF = true) (c : VCond) (x y : Nat) : laneCond ty c x y = some (laneHolds ty c x y) := by
  cases ty with
  | f16 | bf16 | f32 => rfl
  | i8 | i16 | i32 | i64 | n8 | n16 | n32 | n64 | e4m3 | e5m2 => cases float

theorem laneCond_eq {ty : VTy} (h : ty.isINF = true) (c : VCond) {x y : Nat} (hx : x < 2 ^ ty.w) (hy : y < 2 ^ ty.w) :
    laneCond ty c x y = some (laneHolds ty c x y) := by
  cases int : ty.isInt with
  | true => rw [laneCond_int int, int_value ty hx, int_value ty hy, laneHolds, if_pos int]
  | false => exact laneCond_float (by simpa [VTy.isINF, int] using h) c x y

section
variable (s : State) (c : VCond) (d : MReg) (a b : VReg) (m : MReg) (ty : VTy)

/-- The mask that a compare gives, lane 0 first. -/
def compared : Word :=
  maskOf ((List.range ty.lanes).map fun i =>
    (s.mr m).getLsbD i && (laneCond ty c (lane (s.vr a) ty.w i) (lane (s.vr b) ty.w i)).getD false)

variable (h : ty.isINF = true)
include h

theorem vcompare_next : vcompare c d a b m ty s = .next (on (s.mw d (compared s c a b m ty))) := by
  have typed : (laneCond ty c 0 0).isNone = false := by
    rw [laneCond_eq h c (Nat.two_pow_pos _) (Nat.two_pow_pos _)]; rfl
  refine congrArg Host.Outcome.next ((issue_plain_done (plain_nil s) ?_).trans (on_mw ..))
  rw [typed]
  rfl

theorem compared_getLsbD {i : Nat} (hi : i < 64) : (compared s c a b m ty).getLsbD i =
    (decide (i < 512 / ty.w) && (s.mr m).getLsbD i && laneHolds ty c (lane (s.vr a) ty.w i) (lane (s.vr b) ty.w i)) := by
  have lanes (i : Nat) : ((laneCond ty c (lane (s.vr a) ty.w i) (lane (s.vr b) ty.w i)).getD false) =
      laneHolds ty c (lane (s.vr a) ty.w i) (lane (s.vr b) ty.w i) := by rw [laneCond_eq h c (lane_lt ..) (lane_lt ..)]; rfl
  rw [compared, maskOf_getLsbD _ hi, List.getD_eq_getElem?_getD, List.getElem?_map]
  by_cases inside : i < 512 / ty.w
  · rw [List.getElem?_range (show i < ty.lanes from inside), decide_eq_true inside]
    exact congrArg ((s.mr m).getLsbD i && ·) (lanes i)
  · rw [List.getElem?_eq_none (by rw [List.length_range]; exact not_lt.mp inside), decide_eq_false inside]
    rfl

end

/-- Settles O18: bit `i` of the mask is the condition on lane `i`, and the mask register is all that is written. -/
theorem vectorCompare : Obligations.VectorCompare := by
  unfold Obligations.VectorCompare
  intro d a b m ty s h ops
  have compare (c : VCond) (p : Int → Int → Bool) (same : ∀ x y, intCond c x y = p x y) :
      ∃ t, vcompare c d a b m ty s = .next t ∧ t.me.regs.pc = s.me.regs.pc + 4 ∧ t.me.regs.v = s.me.regs.v ∧
      t.me.regs.g = s.me.regs.g ∧ t.me.regs.h = s.me.regs.h ∧ t.myCore.nctr = s.myCore.nctr ∧ t.dram = s.dram ∧
      (d = 0 → t.me.regs.m = s.me.regs.m) ∧ (∀ r, r ≠ d → t.mr r = s.mr r) ∧
      (d ≠ 0 → ∀ i < 64, (t.mr d).getLsbD i = (decide (i < 512 / ty.w) && (s.mr m).getLsbD i &&
        if ty.isInt then p (elt ty (lane (s.vr a) ty.w i)) (elt ty (lane (s.vr b) ty.w i))
        else match ty.fmt with
          | some f => FVal.cond c (f.value (lane (s.vr a) ty.w i)) (f.value (lane (s.vr b) ty.w i))
          | none => false)) := by
    obtain ⟨pc, vec, gen, ref, nctr, dram⟩ := on_mw_frame s d (compared s c a b m ty)
    refine ⟨_, vcompare_next s c d a b m ty h, pc, vec, gen, ref, nctr, dram, fun zero => ?_, fun r => on_mw_mr_ne s d _, fun ne i hi => ?_⟩
    · rw [on, at'_me, mw_me, if_pos zero]
    · rw [on_mw_mr_same s d _ ne, compared_getLsbD s c a b m ty h hi, laneHolds, same]
  simp only [ops, List.forall_mem_cons, List.not_mem_nil, false_imp_iff, implies_true, and_true]
  exact ⟨compare .eq _ fun _ _ => rfl, compare .ne _ fun _ _ => rfl, compare .lt _ fun _ _ => rfl, compare .ge _ fun _ _ => rfl,
    compare .le _ fun _ _ => rfl, compare .gt _ fun _ _ => rfl⟩

end Sys2Proof.Machine
end

section
/-!
Reductions (R130): the tree over a list of lanes is the tree of the claims over its entries; what it counts, and the total of a sum.
-/

open Sys2Proof Sys2Proof.Claims

namespace Sys2Proof.Machine

/-! ### The tree -/

/-- Two trees agree whose combines agree on values of `P`, which the combine keeps. -/
theorem treeOf_congr {P : Nat → Prop} {f g : Nat → Nat → Nat} (step : ∀ x y, P x → P y → f x y = g x y ∧ P (g x y)) (k : Nat) {t u : Nat → Nat}
    (h : ∀ i < 2 ^ k, t i = u i ∧ P (u i)) : treeOf f k t = treeOf g k u := by
  induction k generalizing t u with
  | zero => exact (h 0 Nat.one_pos).1
  | succ k ih =>
    refine ih fun i hi => ?_
    obtain ⟨left, pl⟩ := h i (by rw [pow_succ]; omega)
    obtain ⟨right, pr⟩ := h (i + 2 ^ k) (by rw [pow_succ]; omega)
    rw [left, right]
    exact step _ _ pl pr

/-- One level of the tree combines lane `i` with lane `i + half`. -/
theorem treeStep_fst (f : Nat → Nat → Nat × Cnt) {xs : List Nat} {half : Nat} (len : xs.length = half + half) :
    (treeStep f xs half).1.length = half ∧ ∀ i < half, (treeStep f xs half).1.getD i 0 = (f (xs.getD i 0) (xs.getD (i + half) 0)).1 := by
  unfold treeStep
  refine ⟨by simp [len], fun i hi => ?_⟩
  simp [List.getD_eq_getElem?_getD, hi, Nat.add_comm half i, len, List.getElem?_eq_getElem (show i < xs.length by omega)]

theorem tree_fst (f : Nat → Nat → Nat × Cnt) (k : Nat) {xs : List Nat} (len : xs.length = 2 ^ k) :
    (tree f k xs).1 = treeOf (fun x y => (f x y).1) k fun i => xs.getD i 0 := by
  induction k generalizing xs with
  | zero =>
    cases xs with
    | nil => rfl
    | cons x xs => rfl
  | succ k ih =>
    obtain ⟨half, lanes⟩ := treeStep_fst f (half := 2 ^ k) (len.trans (by rw [pow_succ]; omega))
    exact (ih half).trans (treeOf_congr (P := fun _ => True) (fun _ _ _ _ => ⟨rfl, trivial⟩) k fun i hi => ⟨lanes i hi, trivial⟩)

theorem foldl_add_zero {cs : List Cnt} (h : ∀ c ∈ cs, c = Cnt.zero) : cs.foldl Cnt.add Cnt.zero = Cnt.zero := by
  induction cs with
  | nil => rfl
  | cons c cs ih =>
    rw [List.foldl_cons, h c List.mem_cons_self, Cnt.add_zero]
    exact ih fun c hc => h c (List.mem_cons_of_mem _ hc)

/-- A combine that counts nothing makes a tree that counts nothing. -/
theorem tree_snd {f : Nat → Nat → Nat × Cnt} (h : ∀ x y, (f x y).2 = Cnt.zero) (k : Nat) (xs : List Nat) : (tree f k xs).2 = Cnt.zero := by
  induction k generalizing xs with
  | zero => rfl
  | succ k ih =>
    have level : (treeStep f xs (2 ^ k)).2 = Cnt.zero := by
      refine foldl_add_zero fun c hc => ?_
      obtain ⟨r, hr, rfl⟩ := List.mem_map.mp hc
      rw [List.zipWith_eq_zipWith_take_min, ← List.map_uncurry_zip_eq_zipWith] at hr
      obtain ⟨p, -, rfl⟩ := List.mem_map.mp hr
      exact h ..
    rw [tree, ih, level]
    rfl

theorem filled_length (s : State) (a : VReg) (m : MReg) (ty : VTy) (e : Nat) : (filled s a m ty e).length = ty.lanes := by simp [filled]

theorem filled_getD (s : State) (a : VReg) (m : MReg) (ty : VTy) (e : Nat) {i : Nat} (h : i < ty.lanes) :
    (filled s a m ty e).getD i 0 = orId s a m ty e i := by
  simp [filled, orId, List.getD_eq_getElem?_getD, h]

theorem two_pow_log2_lanes (ty : VTy) : 2 ^ Nat.log2 ty.lanes = ty.lanes := by cases ty <;> decide

theorem orId_lt {s : State} {a : VReg} {m : MReg} {ty : VTy} {e : Nat} (he : e < 2 ^ ty.w) (i : Nat) : orId s a m ty e i < 2 ^ ty.w := by
  unfold orId
  split
  · exact lane_lt ..
  · exact he

theorem tree_filled (s : State) (a : VReg) (m : MReg) (ty : VTy) (e : Nat) (f : Nat → Nat → Nat × Cnt) :
    (tree f (Nat.log2 ty.lanes) (filled s a m ty e)).1 = treeOf (fun x y => (f x y).1) (Nat.log2 (512 / ty.w)) (orId s a m ty e) := by
  rw [tree_fst f _ ((filled_length ..).trans (two_pow_log2_lanes ty).symm)]
  exact treeOf_congr (P := fun _ => True) (fun _ _ _ _ => ⟨rfl, trivial⟩) _
    fun i hi => ⟨filled_getD _ _ _ _ _ (hi.trans_eq (two_pow_log2_lanes ty)), trivial⟩

/-- The same by another combine, which agrees on lane values. -/
theorem treeOf_orId {ty : VTy} {f g : Nat → Nat → Nat} (step : ∀ x y, x < 2 ^ ty.w → y < 2 ^ ty.w → f x y = g x y ∧ g x y < 2 ^ ty.w)
    (s : State) (a : VReg) (m : MReg) {e : Nat} (he : e < 2 ^ ty.w) (k : Nat) :
    treeOf f k (orId s a m ty e) = treeOf g k (orId s a m ty e) :=
  treeOf_congr step k fun i _ => ⟨rfl, orId_lt he i⟩

/-! ### A reduction -/

theorem putG_frame (s : State) (d : GReg) (v : Word) :
    (putG s d v).dram = s.dram ∧ (putG s d v).me.regs.v = s.me.regs.v ∧ ((putG s d v).core s.cur.core).nctr = s.myCore.nctr := by
  unfold putG
  split
  · exact ⟨rfl, rfl, rfl⟩
  · exact ⟨rfl, by rw [State.modMe_me], State.modMe_core_nctr s _ _⟩

section
variable {s : State} {d : GReg} (h : plain s [] [d] = true) (a : VReg) (m : MReg) (ty : VTy) {f : Nat → Nat → Nat × Cnt} {e : Nat}
  {extra : State → Cnt}
include h

theorem reduce_next : reduce d a m ty (some (f, e)) extra s =
    .next (at' ((putG s d (extendLane ty (tree f (Nat.log2 ty.lanes) (filled s a m ty e)).1)).counted
      ((tree f (Nat.log2 ty.lanes) (filled s a m ty e)).2.add (extra s))) (s.me.regs.pc + 4)) := by
  rw [← gw_plain_eq_putG h (List.mem_singleton.mpr rfl)]
  exact congrArg Host.Outcome.next (issue_plain_done h rfl)

/-- A reduction that counts nothing writes its register and nothing else. -/
theorem reduce_quiet (quiet : ∀ x y, (f x y).2 = Cnt.zero) : reduce d a m ty (some (f, e)) noExtra s =
    .next (on (putG s d (extendLane ty (tree f (Nat.log2 ty.lanes) (filled s a m ty e)).1))) := by
  rw [reduce_next h, tree_snd quiet, show Cnt.zero.add (noExtra s) = Cnt.zero from rfl, at'_counted_zero, on, putG_pc]

/-- What a reduction leaves besides its register. -/
theorem reduce_effect : ∃ t, reduce d a m ty (some (f, e)) extra s = .next t ∧
    t.me.regs.g = (putG s d (extendLane ty (tree f (Nat.log2 ty.lanes) (filled s a m ty e)).1)).me.regs.g ∧
    t.me.regs.pc = s.me.regs.pc + 4 ∧ t.me.regs.v = s.me.regs.v ∧ t.dram = s.dram ∧
    counters s t (Cnt.at ((tree f (Nat.log2 ty.lanes) (filled s a m ty e)).2.add (extra s))) := by
  obtain ⟨dram, vec, nctr⟩ := putG_frame s d (extendLane ty (tree f (Nat.log2 ty.lanes) (filled s a m ty e)).1)
  refine ⟨_, reduce_next h a m ty, ?_, ?_, ?_, dram, counters_counted (putG_cur ..) nctr _ _⟩
  · rw [at'_me, counted_me]
  · rw [at'_me]
  · rw [at'_me, counted_me]
    exact vec

end

theorem redOp_int {ty : VTy} (h : ty.isInt = true) (f : IFmt → (Nat → Nat → Nat × Cnt) × Nat)
    (g : Option (Fmt → (Nat → Nat → Nat × Cnt) × Nat)) : redOp ty f g = some (f ty.int) := by
  rw [redOp, asInt_of_isInt h]

/-- An integer reduction runs a combine that counts nothing, and agrees with that of the claim on lane values. -/
def RunsRed (row : (GReg → VReg → MReg → VTy → Instr) × (VTy → Nat → Nat → Nat) × (VTy → Nat)) : Prop :=
  ∃ f : IFmt → Nat → Nat → Nat, ∃ e : IFmt → Nat,
    (∀ d a m ty s, ty.isInt = true → exec (row.1 d a m ty) s = reduce d a m ty (some (fun x y => quiet (f ty.int x y), e ty.int)) noExtra s) ∧
    ∀ ty, e ty.int = row.2.2 ty ∧ row.2.2 ty < 2 ^ ty.w ∧
      ∀ x y, x < 2 ^ ty.w → y < 2 ^ ty.w → f ty.int x y = row.2.1 ty x y ∧ row.2.1 ty x y < 2 ^ ty.w

theorem runsRed_of_redOp {form : GReg → VReg → MReg → VTy → Instr} {f : IFmt → Nat → Nat → Nat} {e : IFmt → Nat}
    {g : Option (Fmt → (Nat → Nat → Nat × Cnt) × Nat)} {c : VTy → Nat → Nat → Nat} {i : VTy → Nat}
    (run : ∀ d a m ty s, exec (form d a m ty) s = reduce d a m ty (redOp ty (fun t => (fun x y => quiet (f t x y), e t)) g) noExtra s)
    (identity : ∀ ty, e ty.int = i ty ∧ i ty < 2 ^ ty.w)
    (combine : ∀ ty x y, x < 2 ^ ty.w → y < 2 ^ ty.w → f ty.int x y = c ty x y ∧ c ty x y < 2 ^ ty.w) : RunsRed (form, c, i) :=
  ⟨f, e, fun d a m ty s int => (run d a m ty s).trans (by rw [redOp_int int]), fun ty => ⟨(identity ty).1, (identity ty).2, combine ty⟩⟩

theorem intReds_run : ∀ row ∈ intReds, RunsRed row := by
  simp only [intReds, List.forall_mem_cons, List.not_mem_nil, false_imp_iff, implies_true, and_true]
  refine ⟨runsRed_of_redOp (e := fun t => t.wrapBits t.lo) (fun _ _ _ _ _ => rfl) (fun ty => ?_) fun ty x y hx hy => ⟨intPick_true ty hx hy, low_lt ..⟩,
    runsRed_of_redOp (e := fun t => t.wrapBits t.hi) (fun _ _ _ _ _ => rfl) (fun ty => ?_) fun ty x y hx hy => ⟨intPick_false ty hx hy, low_lt ..⟩,
    runsRed_of_redOp (f := fun _ x y => x &&& y) (e := fun t => 2 ^ t.w - 1) (fun _ _ _ _ _ => rfl) (fun ty => ?_)
      fun ty x y hx hy => ⟨rfl, Nat.and_lt_two_pow x hy⟩,
    runsRed_of_redOp (f := fun _ x y => x ||| y) (e := fun _ => 0) (fun _ _ _ _ _ => rfl) (fun ty => ⟨rfl, Nat.two_pow_pos _⟩)
      fun ty x y hx hy => ⟨rfl, Nat.or_lt_two_pow hx hy⟩,
    runsRed_of_redOp (f := fun _ x y => x ^^^ y) (e := fun _ => 0) (fun _ _ _ _ _ => rfl) (fun ty => ⟨rfl, Nat.two_pow_pos _⟩)
      fun ty x y hx hy => ⟨rfl, Nat.xor_lt_two_pow hx hy⟩⟩
  · rw [int_wrapBits, int_lo]
    exact ⟨rfl, low_lt ..⟩
  · rw [int_wrapBits, int_hi]
    exact ⟨rfl, low_lt ..⟩
  · rw [int_w]
    exact ⟨rfl, Nat.sub_one_lt (Nat.two_pow_pos _).ne'⟩

theorem RunsRed.exec_eq {row : (GReg → VReg → MReg → VTy → Instr) × (VTy → Nat → Nat → Nat) × (VTy → Nat)} (r : RunsRed row)
    {s : State} {d : GReg} (h : plain s [] [d] = true) (a : VReg) (m : MReg) {ty : VTy} (int : ty.isInt = true) :
    exec (row.1 d a m ty) s =
      .next (on (putG s d (widened ty (treeOf (row.2.1 ty) (Nat.log2 (512 / ty.w)) (orId s a m ty (row.2.2 ty)))))) := by
  obtain ⟨f, e, run, value⟩ := r
  obtain ⟨identity, fits, combine⟩ := value ty
  rw [run d a m ty s int, reduce_quiet h a m ty fun _ _ => rfl, identity, tree_filled, ← treeOf_orId combine s a m fits]
  rfl

/-! ### The integer sum -/

/-- The tree of wrapping sums gives the low bits of the whole sum. -/
theorem treeOf_add_mod (n k : Nat) {t : Nat → Nat} (h : ∀ i < 2 ^ k, t i < n) :
    treeOf (fun x y => (x + y) % n) k t = ((List.range (2 ^ k)).map t).sum % n := by
  induction k generalizing t with
  | zero => simpa [treeOf] using (Nat.mod_eq_of_lt (h 0 Nat.one_pos)).symm
  | succ k ih =>
    have pos : 0 < n := (Nat.zero_le _).trans_lt (h 0 (Nat.two_pow_pos _))
    have halves : ((List.range (2 ^ k)).map fun i => t i + t (i + 2 ^ k)).sum = ((List.range (2 ^ (k + 1))).map t).sum := by
      rw [List.sum_map_add, pow_succ, mul_two, List.range_add, List.map_append, List.sum_append, List.map_map]
      simp only [Function.comp_def, Nat.add_comm]
    rw [treeOf, ih fun i _ => Nat.mod_lt _ pos, ← halves, List.sum_nat_mod (List.map (fun i => t i + t (i + 2 ^ k)) _), List.map_map]
    rfl

/-- The exact sum of the active lanes. -/
def laneTotal (s : State) (a : VReg) (m : MReg) (ty : VTy) : Int :=
  ((List.range (512 / ty.w)).map fun i => if (s.mr m).getLsbD i then elt ty (lane (s.vr a) ty.w i) else 0).sum

/-- A lane and its integer agree in the low bits. -/
theorem elt_emod (ty : VTy) {x : Nat} (h : x < 2 ^ ty.w) : elt ty x % 2 ^ ty.w = x := by
  have low := low_elt ty h
  have pos : (0 : Int) < 2 ^ ty.w := by positivity
  have := Int.emod_nonneg (elt ty x) pos.ne'
  rw [Claims.low] at low
  omega

theorem elt_zero (ty : VTy) : elt ty 0 = 0 := by simp [elt]

theorem low_laneTotal (s : State) (a : VReg) (m : MReg) (ty : VTy) :
    ((List.range ty.lanes).map (orId s a m ty 0)).sum % 2 ^ ty.w = low ty (laneTotal s a m ty) := by
  have same : laneTotal s a m ty % 2 ^ ty.w = ((((List.range ty.lanes).map (orId s a m ty 0)).sum % 2 ^ ty.w : Nat) : Int) := by
    rw [laneTotal, List.sum_int_mod, List.map_map]
    push_cast
    rw [List.map_map]
    congr 2
    refine List.map_congr_left fun i _ => ?_
    simp only [Function.comp_apply, orId]
    split
    · exact elt_emod ty (lane_lt ..)
    · simp
  rw [low, same, Int.toNat_natCast]

theorem sumWrap_eq {s : State} {a : VReg} {m : MReg} {ty : VTy} (int : ty.isInt = true) :
    sumWrap a m ty s = if outside ty (laneTotal s a m ty) then Cnt.oneWrap else Cnt.zero := by
  have total : ((filled s a m ty 0).map ty.int.value).foldl (· + ·) 0 = laneTotal s a m ty := by
    rw [← List.sum_eq_foldl, filled, List.map_map, laneTotal]
    congr 1
    refine List.map_congr_left fun i _ => ?_
    rw [Function.comp_apply]
    split
    · exact int_value ty (lane_lt ..)
    · exact (int_value ty (Nat.two_pow_pos _)).trans (elt_zero ty)
  unfold sumWrap
  simp only [asInt_of_isInt int, total, int_fits]
  cases outside ty (laneTotal s a m ty) <;> rfl

theorem claims_reductions : Claims.Reductions := by
  intro d a m ty s h int
  refine ⟨fun row hrow => (intReds_run row hrow).exec_eq h a m int, ?_⟩
  have run : exec (.vrsum d a m ty) s = reduce d a m ty (some (fun x y => quiet ((x + y) % 2 ^ ty.int.w), 0)) (sumWrap a m ty) s :=
    congrArg (fun op => reduce d a m ty op (sumWrap a m ty) s) (redOp_int int _ _)
  obtain ⟨t, next, gen, pc, vec, dram, count⟩ := reduce_effect h a m ty (f := fun x y => quiet ((x + y) % 2 ^ ty.int.w)) (e := 0)
    (extra := sumWrap a m ty)
  have value : (tree (fun x y => quiet ((x + y) % 2 ^ ty.int.w)) (Nat.log2 ty.lanes) (filled s a m ty 0)).1 = low ty (laneTotal s a m ty) := by
    rw [tree_filled, int_w]
    simp only [quiet]
    rw [treeOf_add_mod _ _ fun i _ => orId_lt (Nat.two_pow_pos _) i,
      show 2 ^ Nat.log2 (512 / ty.w) = ty.lanes from two_pow_log2_lanes ty, low_laneTotal]
  rw [value] at gen
  refine ⟨t, run.trans next, gen, pc, vec, dram, ?_⟩
  rw [tree_snd (fun _ _ => rfl), sumWrap_eq int] at count
  have one (k : Nat) : Cnt.at (Cnt.zero.add (if outside ty (laneTotal s a m ty) then Cnt.oneWrap else Cnt.zero)) k =
      if k = 5 ∧ outside ty (laneTotal s a m ty) = true then 1 else 0 := by
    rw [Cnt.at_add, Cnt.at_zero, Nat.zero_add]
    split
    next wraps => simp [Cnt.at_oneWrap, wraps]
    next fits => simp [Cnt.at_zero, fits]
  rwa [funext one] at count

/-! ### Float reductions -/

/-- What the proofs below use of the three pairs of a type and its format. -/
theorem floatTys_spec : ∀ tf ∈ floatTys, tf.1.asInt = none ∧ tf.1.arith = some tf.2 ∧ tf.1.isI = false ∧ tf.1.w = tf.2.width := by
  simp only [floatTys, List.forall_mem_cons, List.not_mem_nil, false_imp_iff, implies_true, and_true]
  decide

theorem redOp_float {tf : VTy × Fmt} (h : tf ∈ floatTys) (f : IFmt → (Nat → Nat → Nat × Cnt) × Nat)
    (g : Fmt → (Nat → Nat → Nat × Cnt) × Nat) : redOp tf.1 f (some g) = some (g tf.2) := by
  obtain ⟨int, float, -, -⟩ := floatTys_spec tf h
  rw [redOp, int, float]
  rfl

theorem extendLane_float {tf : VTy × Fmt} (h : tf ∈ floatTys) (x : Nat) : extendLane tf.1 x = BitVec.ofNat 64 x := by
  obtain ⟨-, -, signed, -⟩ := floatTys_spec tf h
  rw [extendLane, if_neg (by simp [signed])]

theorem claims_floatReductions : Claims.FloatReductions := by
  intro tf htf d a m s h
  have red (f : Fmt → Nat → Nat → Nat × Cnt) (e : Fmt → Nat) (ints : IFmt → (Nat → Nat → Nat × Cnt) × Nat) (extra : State → Cnt) :
      ∃ t, reduce d a m tf.1 (redOp tf.1 ints (some fun t => (f t, e t))) extra s = .next t ∧ t.me.regs.pc = s.me.regs.pc + 4 ∧
        t.me.regs.v = s.me.regs.v ∧ t.dram = s.dram ∧ t.me.regs.g = (putG s d (BitVec.ofNat 64
          (treeOf (fun x y => (f tf.2 x y).1) (Nat.log2 (512 / tf.1.w)) (orId s a m tf.1 (e tf.2))))).me.regs.g := by
    obtain ⟨t, next, gen, pc, vec, dram, -⟩ := reduce_effect h a m tf.1 (f := f tf.2) (e := e tf.2) (extra := extra)
    rw [extendLane_float htf, tree_filled] at gen
    rw [redOp_float htf]
    exact ⟨t, next, pc, vec, dram, gen⟩
  have width : 2 ^ (tf.1.w - 1) = tf.2.signBit true := by
    obtain ⟨-, -, -, w⟩ := floatTys_spec tf htf
    rw [w, Fmt.width, Fmt.signBit, if_pos rfl]
    congr 1
    omega
  simp only [List.forall_mem_cons, List.not_mem_nil, false_imp_iff, implies_true, and_true]
  refine ⟨?_, ?_, ?_⟩
  · rw [width]
    exact red Fmt.add (fun t => t.signBit true) _ _
  · exact red (fun t => t.maxmin true) (fun t => t.infBits true) _ _
  · exact red (fun t => t.maxmin false) (fun t => t.infBits false) _ _

/-- Settles O22: the tree over the list of lanes is the tree of the claims, and the wrapping sum is the low bits of the total. -/
theorem reductions : Obligations.Reductions := by
  unfold Obligations.Reductions
  exact ⟨claims_reductions, claims_floatReductions⟩

end Sys2Proof.Machine
end

section
/-!
Vector loads and stores in direct storage (R131-R134): translation of the active elements, what the landing of a thread's own port writes
leaves as it was, and the bytes that several writes in a row leave.
-/

open Sys2Proof Sys2Proof.Claims

namespace Sys2Proof.Machine

/-! ### The active elements -/

/-- The active lanes of a type, in ascending order. -/
def activeLanes (s : State) (m : MReg) (ty : VTy) : List Nat := (List.range (512 / ty.w)).filter fun i => (s.mr m).getLsbD i

theorem mem_activeLanes {s : State} {m : MReg} {ty : VTy} {i : Nat} : i ∈ activeLanes s m ty ↔ i < 512 / ty.w ∧ (s.mr m).getLsbD i = true := by
  simp [activeLanes]

theorem activeLanes_pairwise (s : State) (m : MReg) (ty : VTy) : (activeLanes s m ty).Pairwise (· < ·) :=
  List.pairwise_lt_range.filter _

/-- Element `i` of an access, before and after its translation in the direct range. -/
def laneElem (ea : Nat → Word) (w : Nat) (data : Nat → Nat) (i : Nat) : Elem := ⟨i, ea i, w, data i, .direct 0⟩
def directElem (ea : Nat → Word) (w : Nat) (data : Nat → Nat) (i : Nat) : Elem := ⟨i, ea i, w, data i, .direct (ea i).toNat⟩

theorem vecElems_eq (s : State) (m : MReg) (ty : VTy) (ea : Nat → Word) (data : Nat → Nat) :
    vecElems s m ty ea data = (activeLanes s m ty).map (laneElem ea (ty.w / 8) data) := rfl

section
variable {s : State} {ea : Nat → Word} {w : Nat}

theorem trAll_direct (look : Nat → Option Tlb) (n : AccNeed) (data : Nat → Nat) {is : List Nat} (h : ∀ i ∈ is, inDirect s (ea i) w = true) :
    trAll s.myCore.dirLimit look n (is.map (laneElem ea w data)) = .ok (is.map (directElem ea w data)) := by
  induction is with
  | nil => rfl
  | cons i is ih =>
    have here : trUnit s.myCore.dirLimit look n (laneElem ea w data i).va (laneElem ea w data i).w = .ok (.direct (ea i).toNat) :=
      trUnit_direct (h i List.mem_cons_self) look n
    rw [List.map_cons, trAll, here, ih fun j hj => h j (List.mem_cons_of_mem _ hj)]
    rfl

/-- The lowest active element that is not aligned traps when the elements below it are in the direct range. -/
theorem trAll_misaligned (look : Nat → Option Tlb) (n : AccNeed) (data : Nat → Nat) {is : List Nat} (asc : is.Pairwise (· < ·)) {i : Nat} (hi : i ∈ is)
    (bad : (ea i).toNat % w ≠ 0) (h : ∀ j ∈ is, j < i → inDirect s (ea j) w = true) :
    trAll s.myCore.dirLimit look n (is.map (laneElem ea w data)) = .trap (.align (ea i)) := by
  induction is with
  | nil => exact absurd hi List.not_mem_nil
  | cons j is ih =>
    obtain ⟨above, asc⟩ := List.pairwise_cons.mp asc
    rw [List.map_cons, trAll]
    rcases List.mem_cons.mp hi with rfl | hi
    · rw [show trUnit s.myCore.dirLimit look n (laneElem ea w data i).va (laneElem ea w data i).w = .trap (.align (ea i)) from if_pos bad]
    · have here : trUnit s.myCore.dirLimit look n (laneElem ea w data j).va (laneElem ea w data j).w = .ok (.direct (ea j).toNat) :=
        trUnit_direct (h j List.mem_cons_self (above i hi)) look n
      rw [here, ih asc hi fun k hk => h k (List.mem_cons_of_mem _ hk)]

end

section
variable {s : State} {m : MReg} {ty : VTy} {ea : Nat → Word}

theorem allDirect_active (h : allDirect s m ty ea) : ∀ i ∈ activeLanes s m ty, inDirect s (ea i) (ty.w / 8) = true := fun i hi =>
  h i (mem_activeLanes.mp hi).1 (mem_activeLanes.mp hi).2

theorem trElems_allDirect (h : allDirect s m ty ea) (n : AccNeed) (data : Nat → Nat) :
    s.trElems s.cur.core n (vecElems s m ty ea data) = .ok ((activeLanes s m ty).map (directElem ea (ty.w / 8) data)) := by
  rw [vecElems_eq]
  exact trAll_direct _ n data (allDirect_active h)

theorem trElems_firstMisaligned {i : Nat} (h : firstMisaligned s m ty ea i) (n : AccNeed) (data : Nat → Nat) :
    s.trElems s.cur.core n (vecElems s m ty ea data) = .trap (.align (ea i)) := by
  obtain ⟨lt, active, bad, below⟩ := h
  rw [vecElems_eq]
  exact trAll_misaligned _ n data (activeLanes_pairwise s m ty) (mem_activeLanes.mpr ⟨lt, active⟩) bad
    fun j hj lt => below j lt (mem_activeLanes.mp hj).2

end

/-! ### What the landing of port writes leaves as it was -/

/-- The memories are the same, and of every thread the registers but the program counter. -/
def RegsKept (s u : State) : Prop :=
  u.cur = s.cur ∧ u.dram = s.dram ∧ u.host = s.host ∧ u.pod = s.pod ∧
    ∀ p t, ({ (u.thread p t).regs with pc := 0 } : Regs) = { (s.thread p t).regs with pc := 0 }

theorem RegsKept.refl (s : State) : RegsKept s s := ⟨rfl, rfl, rfl, rfl, fun _ _ => rfl⟩

theorem RegsKept.trans {s u v : State} (h : RegsKept s u) (k : RegsKept u v) : RegsKept s v := by
  obtain ⟨cur, dram, host, pod, regs⟩ := h
  obtain ⟨cur', dram', host', pod', regs'⟩ := k
  exact ⟨cur'.trans cur, dram'.trans dram, host'.trans host, pod'.trans pod, fun p t => (regs' p t).trans (regs p t)⟩

theorem RegsKept.ite {s u v : State} {c : Prop} [Decidable c] (h : RegsKept s u) (k : RegsKept s v) : RegsKept s (if c then u else v) := by
  split
  · exact h
  · exact k

theorem RegsKept.foldl {α : Type} {s u : State} (h : RegsKept s u) (f : State → α → State) (step : ∀ v a, RegsKept v (f v a)) (l : List α) :
    RegsKept s (l.foldl f u) := foldl_keeps f (RegsKept s) (fun v a k => k.trans (step v a)) l u h

section
variable {s u : State} (h : RegsKept s u)
include h

/-- A change outside the cores and the memories. -/
theorem RegsKept.of_cores {v : State} (cur : v.cur = u.cur) (dram : v.dram = u.dram) (host : v.host = u.host) (pod : v.pod = u.pod)
    (cores : v.cores = u.cores) : RegsKept s v :=
  h.trans ⟨cur, dram, host, pod, fun p t => by rw [State.thread, State.core, cores]; rfl⟩

theorem RegsKept.modCore {p : Nat} {f : Core → Core} (threads : ∀ c, (f c).threads = c.threads := by intros; rfl) : RegsKept s (u.modCore p f) :=
  h.trans ⟨rfl, rfl, rfl, rfl, fun q t => by rw [State.modCore_thread threads]⟩

theorem RegsKept.modThread {p t : Nat} {f : Thread → Thread} (regs : ∀ th, ({ (f th).regs with pc := 0 } : Regs) = { th.regs with pc := 0 } := by intros; rfl) :
    RegsKept s (u.modThread p t f) := by
  refine h.trans ⟨rfl, rfl, rfl, rfl, fun q k => ?_⟩
  by_cases e : (q, k) = (p, t)
  · obtain ⟨rfl, rfl⟩ := Prod.mk.inj e
    rw [State.modThread_thread_same]
    exact regs _
  · rw [State.modThread, State.setThread_thread_ne _ _ _ _ _ _ e]

theorem RegsKept.dwrite {p a n v : Nat} : RegsKept s (u.dwrite p a n v) := h.modCore

theorem RegsKept.delayBy {p i hops : Nat} : RegsKept s (u.delayBy p i hops) := h.modCore

theorem RegsKept.drop {k : Nat} : RegsKept s (u.drop k) := h.of_cores rfl rfl rfl rfl rfl

theorem RegsKept.send {cls : MCls} {src dst : Endp} {ctx : Nat} {body : Body} : RegsKept s (u.send cls src dst ctx body) :=
  h.of_cores rfl rfl rfl rfl rfl

theorem RegsKept.wake {q : Nat} {P : Wait → Bool} (none : P .none = false := by rfl) : RegsKept s (u.wake q P) :=
  h.trans ⟨rfl, rfl, rfl, rfl, fun p t => by rw [(u.wake_thread_frame q P none p t).1]⟩

theorem RegsKept.setCore {p : Nat} {x : Core} (threads : x.threads = (u.core p).threads := by rfl) : RegsKept s (u.setCore p x) := by
  refine h.trans ⟨rfl, rfl, rfl, rfl, fun q t => ?_⟩
  by_cases e : q = p
  · subst e
    rw [State.thread, State.setCore_core_same, Core.thread, threads]
    rfl
  · rw [State.thread, State.setCore_core_ne _ _ _ _ e]
    rfl

theorem RegsKept.pop {p t route : Nat} : RegsKept s (u.pop p t route) := by
  unfold State.pop
  dsimp only
  split
  · exact h
  next e rest _ =>
    have taken : RegsKept s (((u.setCore p { u.core p with inq := tset (u.core p).inq route rest }).delayBy p 104 e.hops).modThread p t
        fun th => th.raise e.rt) := h.setCore.delayBy.modThread
    split
    · exact taken
    · exact taken.modCore.wake

theorem RegsKept.complete {p t : Nat} : RegsKept s (u.complete p t) := by
  have done (th : Thread) : ({ ({ th.pay.rejoin with latch := {}, regs := { th.regs with pc := th.regs.pc + 4 } } : Thread).regs with pc := 0 } : Regs) =
      { th.regs with pc := 0 } := rfl
  unfold State.complete
  dsimp only
  split
  · exact h.pop.modThread done
  · exact h.modThread done

theorem RegsKept.release {p i : Nat} : RegsKept s (u.release p i) := h.modCore.wake

theorem RegsKept.flushJoins {p : Nat} : RegsKept s (u.flushJoins p) :=
  h.foldl _ (fun v _ => (RegsKept.refl v).setCore.send.ite (.refl v)) _

theorem RegsKept.flushPushes {p : Nat} : RegsKept s (u.flushPushes p) :=
  h.flushJoins.foldl _ (fun v _ => (RegsKept.refl v).setCore.send.ite (.refl v)) _

theorem RegsKept.settleEntry {p i : Nat} : RegsKept s (u.settleEntry p i) := by
  unfold State.settleEntry
  dsimp only
  refine h.ite (RegsKept.flushPushes (.release ?_))
  have told : RegsKept s (match lowestRefused ((u.core p).entry i).refused with
      | none => u.modCore p fun c => { c with rfd := c.rfd &&& ~~~ ((1 : BitVec 16) <<< i) }
      | some (x, cause) =>
        let v := u.modCore p fun c => { c with rfd := c.rfd ||| ((1 : BitVec 16) <<< i) }
        if 16 ≤ ((u.core p).entry i).thr || (v.thread p ((u.core p).entry i).thr).st == TState.free then v
        else v.modThread p ((u.core p).entry i).thr fun th => { th with traps := th.traps ++
          [(⟨7, cause, x.va, min 3 (log2w x.w), BitVec.ofNat 64 x.data, i⟩ : ATrap)] }) := by
    split
    · exact h.modCore
    · exact h.modCore.ite h.modCore.modThread
  exact told.complete.ite told

theorem RegsKept.portWrite {p off w data : Nat} {src : BitVec 32} {own : Bool} {v : State} (some : u.portWrite p off w data src own = some v) :
    RegsKept s v := by
  unfold State.portWrite at some
  split at some
  · obtain rfl := Option.some.inj some
    exact h.dwrite.ite h.dwrite.modCore
  · cases some

theorem RegsKept.portSettled {core entry lane w : Nat} {ok : Bool} : RegsKept s (u.portSettled core entry lane w ok) := by
  unfold State.portSettled
  dsimp only
  refine .ite h.modCore.settleEntry ?_
  split
  · exact h
  · exact .ite (h.of_cores rfl rfl rfl rfl rfl) (h.of_cores rfl rfl rfl rfl rfl)

theorem RegsKept.portArrives {k : Nat} : RegsKept s (u.portArrives k) := by
  unfold State.portArrives
  split
  · split
    · exact h
    · split
      next written => exact ((h.drop.portWrite written).delayBy.ite (h.drop.portWrite written)).portSettled
      · exact h.drop.portSettled
  · exact h

theorem RegsKept.land {p t a n : Nat} : RegsKept s (u.land p t a n) := by
  unfold State.land
  dsimp only
  split
  · exact h
  · refine h.foldl _ (fun v _ => ?_) _
    split
    · exact RegsKept.portArrives (.refl v)
    · exact .refl v

theorem RegsKept.landed {m : MReg} {ty : VTy} {ea : Nat → Word} : RegsKept s (landedLanes u m ty ea) :=
  h.foldl _ (fun v _ => RegsKept.land (.refl v)) _

theorem RegsKept.me_regs : ({ u.me.regs with pc := 0 } : Regs) = { s.me.regs with pc := 0 } := by
  obtain ⟨cur, -, -, -, regs⟩ := h
  rw [State.me, cur]
  exact regs s.cur.core s.cur.thr

theorem RegsKept.vr (r : VReg) : u.vr r = s.vr r := by
  rw [State.vr, State.vr, show u.me.regs.v = s.me.regs.v from (congrArg Regs.v h.me_regs :)]

/-- At the end of an instruction the registers are as before it, but for the program counter. -/
theorem RegsKept.at'_regs (pc : BitVec 56) : (at' u pc).me.regs = { s.me.regs with pc := pc } := by
  rw [at'_me]
  exact congrArg (fun r : Regs => { r with pc := pc }) h.me_regs

end

theorem foldl_land_cur {s u : State} (cur : u.cur = s.cur) (p : Nat) (a w : Nat → Nat) (is : List Nat) :
    is.foldl (fun v i => v.land p v.cur.thr (a i) (w i)) u = is.foldl (fun v i => v.land p s.cur.thr (a i) (w i)) u := by
  induction is generalizing u with
  | nil => rfl
  | cons i is ih =>
    obtain ⟨kept, -⟩ : RegsKept u (u.land p u.cur.thr (a i) (w i)) := (RegsKept.refl u).land
    rw [List.foldl_cons, List.foldl_cons, ih (kept.trans cur), cur]

/-- The state once a store of direct elements has taken effect. -/
def storedLanes (s : State) (m : MReg) (ty : VTy) (ea : Nat → Word) (data : Nat → Nat) : State :=
  (activeLanes s m ty).foldl
    (fun u i => (u.land s.cur.core s.cur.thr (ea i).toNat (ty.w / 8)).dwrite s.cur.core (ea i).toNat (ty.w / 8) (data i)) s

theorem regsKept_storedLanes (s : State) (m : MReg) (ty : VTy) (ea : Nat → Word) (data : Nat → Nat) : RegsKept s (storedLanes s m ty ea data) :=
  (RegsKept.refl s).foldl _ (fun v _ => (RegsKept.refl v).land.dwrite) _

/-! ### Element accesses in the direct range -/

section
variable {s : State} {m : MReg} {ty : VTy} {ea : Nat → Word}

/-- A load of direct elements is served at once, after the thread's own port writes to its bytes. -/
theorem startLoad_allDirect (h : allDirect s m ty ea) (k : ReqKind) (need : Nat) (data : Nat → Nat) (now : State → List (Nat × Nat) → Ends) :
    s.startLoad k need (vecElems s m ty ea data) now = now (landedLanes s m ty ea)
      ((activeLanes s m ty).map fun i => (i, mread ((landedLanes s m ty ea).core s.cur.core).direct (ea i).toNat (ty.w / 8))) := by
  have direct : (((activeLanes s m ty).map (directElem ea (ty.w / 8) data)).all fun e => eaKind e.va == .direct) = true := by
    rw [List.all_eq_true]
    intro e he
    obtain ⟨i, hi, rfl⟩ := List.mem_map.mp he
    obtain ⟨lt, -, -⟩ := (inDirect_iff ..).mp (allDirect_active h i hi)
    rw [show eaKind (directElem ea (ty.w / 8) data i).va = .direct from eaKind_direct lt]
    rfl
  unfold State.startLoad
  simp only [trElems_allDirect h, direct, if_true, List.foldl_map, List.map_map]
  rw [foldl_land_cur rfl s.cur.core (fun i => (directElem ea (ty.w / 8) data i).va.toNat) fun i => (directElem ea (ty.w / 8) data i).w]
  rfl

/-- A store of direct elements takes effect at once. -/
theorem startStore_allDirect (h : allDirect s m ty ea) (need : Nat) (data : Nat → Nat) :
    s.startStore need (vecElems s m ty ea data) = .done (storedLanes s m ty ea data) := by
  have near : (((activeLanes s m ty).map (directElem ea (ty.w / 8) data)).filter fun e => eaKind e.va != .direct) = [] := by
    rw [List.filter_eq_nil_iff]
    intro e he
    obtain ⟨i, hi, rfl⟩ := List.mem_map.mp he
    obtain ⟨lt, -, -⟩ := (inDirect_iff ..).mp (allDirect_active h i hi)
    rw [show eaKind (directElem ea (ty.w / 8) data i).va = .direct from eaKind_direct lt]
    decide
  unfold State.startStore State.storeNow State.storeDirect
  simp only [trElems_allDirect h, near, List.isEmpty_nil, if_true, List.foldl_map]
  rfl

end

/-! ### Loads -/

theorem lane_vecPut (w : Nat) (val : Nat → Nat) (is : List Nat) (old : VWord) {i : Nat} (h : i < 512 / w) :
    lane (vecPut old w (is.map fun j => (j, val j))) w i = if i ∈ is then val i % 2 ^ w else lane old w i := by
  induction is generalizing old with
  | nil => rfl
  | cons j is ih =>
    have step := ih (setLane old w j (val j))
    rw [lane_setLane _ _ _ _ h] at step
    refine step.trans ?_
    by_cases later : i ∈ is
    · simp [later]
    · by_cases here : i = j <;> simp [here, later]

section
variable {s : State} {d : VReg} {m : MReg} {ty : VTy} {ea : Nat → Word} {rd : List GReg} {form : State → Nat → Word} (h : plain s rd [] = true)
include h

/-- What a load of direct elements leaves. -/
theorem vecLoad_direct (at_s : form s = ea) (dir : allDirect s m ty ea) :
    vecLoad d m ty rd form s = .next (at' ((landedLanes s m ty ea).vw d (vecPut (s.vr d) ty.w ((activeLanes s m ty).map fun i =>
      (i, mread ((landedLanes s m ty ea).core s.cur.core).direct (ea i).toNat (ty.w / 8))))) (s.me.regs.pc + 4)) := by
  refine congrArg Host.Outcome.next (issue_plain_done h ?_)
  rw [at_s, startLoad_allDirect dir, (RegsKept.refl s).landed.vr]

theorem vecLoad_misaligned (at_s : form s = ea) {i : Nat} (bad : firstMisaligned s m ty ea i) :
    vecLoad d m ty rd form s = .next (s.trapMe (.align (ea i))) := by
  refine congrArg Host.Outcome.next (issue_plain_trap h ?_)
  rw [at_s, State.startLoad, trElems_firstMisaligned bad]

end

section
variable {s : State} {m : MReg} {ty : VTy} {ea : Nat → Word}

theorem landedLanes_noOwn (h : noOwnLanes s m ty ea) : landedLanes s m ty ea = s := by
  have stays (is : List Nat) (own : ∀ i ∈ is, noOwn s (ea i).toNat (ty.w / 8)) :
      is.foldl (fun u i => u.land s.cur.core s.cur.thr (ea i).toNat (ty.w / 8)) s = s := by
    induction is with
    | nil => rfl
    | cons i is ih =>
      rw [List.foldl_cons, show s.land s.cur.core s.cur.thr (ea i).toNat (ty.w / 8) = s from landed_of_noOwn (own i List.mem_cons_self)]
      exact ih fun j hj => own j (List.mem_cons_of_mem _ hj)
  exact stays (activeLanes s m ty) fun i hi => h i (mem_activeLanes.mp hi).1 (mem_activeLanes.mp hi).2

/-- The lanes that a load from the memory `D` writes. -/
theorem vecLanes_vecPut {t : State} {d : VReg} (D : Memory)
    (vd : t.vr d = vecPut (s.vr d) ty.w ((activeLanes s m ty).map fun i => (i, mread D (ea i).toNat (ty.w / 8)))) :
    vecLanes s t d m ty.w fun i => mread D (ea i).toNat (ty.w / 8) := by
  intro i hi
  have fits : mread D (ea i).toNat (ty.w / 8) < 2 ^ ty.w :=
    (mread_lt ..).trans_le (Nat.pow_le_pow_right two_pos (Nat.mul_div_le ty.w 8))
  rw [vd, lane_vecPut _ _ _ _ hi, Nat.mod_eq_of_lt fits]
  simp [mem_activeLanes, hi]

theorem at'_vw_vr (u : State) (d : VReg) (v : VWord) (pc : BitVec 56) : (at' (u.vw d v) pc).vr d = v := by
  rw [State.vr, at'_me, vw_me]
  exact Vector.getElem_set_self ..

end

theorem unitAt_eq (s : State) (a : GReg) (ty : VTy) : eaUnit s a ty = unitAt s a ty := funext fun i => by
  rw [eaUnit, unitAt, BitVec.ofNat_add, BitVec.ofNat_toNat, BitVec.setWidth_eq]

theorem strideAt_eq (s : State) (a b : GReg) : eaStride s a b = strideAt s a b := funext fun i => by
  rw [eaStride, strideAt, BitVec.ofNat_add, BitVec.ofNat_mul, BitVec.ofNat_toNat, BitVec.ofNat_toNat, BitVec.setWidth_eq, BitVec.setWidth_eq]

theorem indexAt_eq (s : State) (a : GReg) (x : VReg) (ty : VTy) : eaIndex s a x ty = indexAt s a x ty := funext fun i => by
  rw [eaIndex, indexAt, sextN, BitVec.ofInt_add, BitVec.ofInt_natCast, BitVec.ofNat_toNat, BitVec.setWidth_eq]

/-- What the statement says of a load form, by its addresses. -/
theorem vecLoad_spec {s : State} {d : VReg} {m : MReg} {ty : VTy} {ea : Nat → Word} {rd : List GReg} {form : State → Nat → Word}
    (at_s : form s = ea) (h : plain s rd [] = true) :
    (allDirect s m ty ea →
      (∃ t, vecLoad d m ty rd form s = .next t ∧ t.me.regs.pc = s.me.regs.pc + 4 ∧
        vecLanes s t d m ty.w fun i => mread ((landedLanes s m ty ea).core s.cur.core).direct (ea i).toNat (ty.w / 8)) ∧
      (noOwnLanes s m ty ea → ∃ t, vecLoad d m ty rd form s = .next t ∧ vecFrame s t d ∧
        vecLanes s t d m ty.w fun i => mread s.myCore.direct (ea i).toNat (ty.w / 8))) ∧
    ∀ i, firstMisaligned s m ty ea i → vecLoad d m ty rd form s = .next (s.trapMe (.align (ea i))) := by
  refine ⟨fun dir => ⟨⟨_, vecLoad_direct h at_s dir, at'_pc _ _, vecLanes_vecPut _ (at'_vw_vr ..)⟩, fun own => ?_⟩,
    fun i bad => vecLoad_misaligned h at_s bad⟩
  have run := vecLoad_direct (d := d) h at_s dir
  rw [landedLanes_noOwn own] at run
  refine ⟨_, run, ?_, vecLanes_vecPut _ (at'_vw_vr ..)⟩
  rw [wrote_zero]
  exact vecFrame_wrote ..

theorem claims_vectorLoads : Claims.VectorLoads := by
  intro d a b x m ty s forms f hf h
  obtain rfl | rfl | rfl : f = (.vld d a m ty, [a], unitAt s a ty) ∨ f = (.vlds d a b m ty, [a, b], strideAt s a b) ∨
      f = (.vldx d a x m ty, [a], indexAt s a x ty) := by simpa [forms] using hf
  · exact vecLoad_spec (form := fun s => eaUnit s a ty) (unitAt_eq ..) h
  · exact vecLoad_spec (form := fun s => eaStride s a b) (strideAt_eq ..) h
  · exact vecLoad_spec (form := fun s => eaIndex s a x ty) (indexAt_eq ..) h

/-! ### Stores -/

/-- The bytes that the writes of several lanes leave. -/
def laneWrites (ea : Nat → Word) (w : Nat) (data : Nat → Nat) (is : List Nat) (D : Memory) : Memory :=
  is.foldl (fun D i => mwrite D (ea i).toNat w (data i)) D

section
variable {ea : Nat → Word} {w : Nat} {data : Nat → Nat}

theorem mget_laneWrites_out {is : List Nat} {z : Nat} (out : ∀ i ∈ is, ¬((ea i).toNat ≤ z ∧ z < (ea i).toNat + w)) (D : Memory) :
    mget (laneWrites ea w data is D) z = mget D z := by
  induction is generalizing D with
  | nil => rfl
  | cons i is ih =>
    have := out i List.mem_cons_self
    exact (ih (fun j hj => out j (List.mem_cons_of_mem _ hj)) _).trans (mget_mwrite_out _ _ _ _ _ (by omega))

theorem mget_mwrite_in {D : Memory} (wf : Memory.wf D = true) {a z : Nat} (v : Nat) (lo : a ≤ z) (hi : z < a + w) :
    (mget (mwrite D a w v) z).toNat = v / 256 ^ (z - a) % 256 := by
  obtain ⟨j, rfl⟩ := Nat.exists_eq_add_of_le lo
  have byte := mread_mwrite_part wf a v (n := w) (j := j) (k := 1) (by omega)
  rw [mread, mread, Nat.mul_zero, Nat.add_zero, Nat.pow_mul] at byte
  rw [Nat.add_sub_cancel_left]
  exact byte

/-- A byte has what the highest of the lanes that cover it writes. -/
theorem mget_laneWrites_in {is : List Nat} (asc : is.Pairwise (· < ·)) {i z : Nat} (hi : i ∈ is) (lo : (ea i).toNat ≤ z)
    (up : z < (ea i).toNat + w) (last : ∀ j ∈ is, i < j → ¬((ea j).toNat ≤ z ∧ z < (ea j).toNat + w)) {D : Memory} (wf : Memory.wf D = true) :
    (mget (laneWrites ea w data is D) z).toNat = data i / 256 ^ (z - (ea i).toNat) % 256 := by
  induction is generalizing D with
  | nil => exact absurd hi List.not_mem_nil
  | cons j is ih =>
    obtain ⟨above, asc⟩ := List.pairwise_cons.mp asc
    rcases List.mem_cons.mp hi with rfl | hi
    · have rest := mget_laneWrites_out (data := data) (fun k hk => last k (List.mem_cons_of_mem _ hk) (above k hk))
        (mwrite D (ea i).toNat w (data i))
      exact (congrArg BitVec.toNat rest).trans (mget_mwrite_in wf _ lo up)
    · exact ih asc hi (fun k hk => last k (List.mem_cons_of_mem _ hk)) (mwrite_wf _ _ _ _ wf)

end

/-- The state differs from `s` in the bytes of direct storage of the core in hand alone, which are `D`. -/
def OnlyBytes (s u : State) (D : Memory) : Prop :=
  u.cur = s.cur ∧ u.net = s.net ∧ u.lmap = s.lmap ∧ u.dram = s.dram ∧ u.host = s.host ∧ u.pod = s.pod ∧
    u.core s.cur.core = { s.myCore with direct := D } ∧ ∀ p, p ≠ s.cur.core → u.core p = s.core p

section
variable {s u : State} {D : Memory} (k : OnlyBytes s u D)
include k

theorem OnlyBytes.land {a w : Nat} (own : noOwn s a w) : u.land s.cur.core s.cur.thr a w = u := by
  obtain ⟨cur, net, lmap, -, -, -, core, -⟩ := k
  rw [← cur]
  refine landed_of_noOwn fun m hm => ?_
  rw [net] at hm
  rw [cur, ← own m hm]
  simp only [State.ownPortAt, State.ownPort, State.phys, lmap, core]
  rfl

theorem OnlyBytes.dwrite (a w v : Nat) : OnlyBytes s (u.dwrite s.cur.core a w v) (mwrite D a w v) := by
  obtain ⟨cur, net, lmap, dram, host, pod, core, others⟩ := k
  refine ⟨cur, net, lmap, dram, host, pod, ?_, fun p hp => ?_⟩
  · rw [State.dwrite, State.modCore_core_same, core]
  · rw [State.dwrite, State.modCore_core_ne _ _ _ _ hp, others p hp]

theorem OnlyBytes.me : u.me = s.me := by
  obtain ⟨cur, -, -, -, -, -, core, -⟩ := k
  exact State.me_congr cur (by rw [core]; rfl)

theorem OnlyBytes.thread (p t : Nat) : u.thread p t = s.thread p t := by
  obtain ⟨-, -, -, -, -, -, core, others⟩ := k
  by_cases e : p = s.cur.core
  · subst e
    rw [State.thread, core]
    rfl
  · rw [State.thread, others p e]
    rfl

theorem OnlyBytes.stored {ea : Nat → Word} {w : Nat} {is : List Nat} (own : ∀ i ∈ is, noOwn s (ea i).toNat w) (data : Nat → Nat) :
    OnlyBytes s (is.foldl (fun u i => (u.land s.cur.core s.cur.thr (ea i).toNat w).dwrite s.cur.core (ea i).toNat w (data i)) u)
      (laneWrites ea w data is D) := by
  induction is generalizing u D with
  | nil => exact k
  | cons i is ih =>
    rw [List.foldl_cons, k.land (own i List.mem_cons_self)]
    exact ih (k.dwrite _ _ _) fun j hj => own j (List.mem_cons_of_mem _ hj)

end

section
variable {s : State} {d : VReg} {m : MReg} {ty : VTy} {ea : Nat → Word} {rd : List GReg} {form : State → Nat → Word}

theorem onlyBytes_storedLanes (own : noOwnLanes s m ty ea) (data : Nat → Nat) :
    OnlyBytes s (storedLanes s m ty ea data) (laneWrites ea (ty.w / 8) data (activeLanes s m ty) s.myCore.direct) :=
  OnlyBytes.stored ⟨rfl, rfl, rfl, rfl, rfl, rfl, rfl, fun _ _ => rfl⟩
    (fun i hi => own i (mem_activeLanes.mp hi).1 (mem_activeLanes.mp hi).2) data

/-- The end of an instruction leaves the bytes of direct storage. -/
theorem at'_direct (u : State) (pc : BitVec 56) : (at' u pc).myCore.direct = u.myCore.direct := by
  obtain ⟨threads, eq⟩ := at'_myCore u pc
  rw [eq]

theorem vecStore_direct (h : plain s rd [] = true) (at_s : form s = ea) (dir : allDirect s m ty ea) :
    vecStore d m ty rd form s = .next (at' (storedLanes s m ty ea fun i => lane (s.vr d) ty.w i) (s.me.regs.pc + 4)) := by
  refine congrArg Host.Outcome.next (issue_plain_done h ?_)
  rw [at_s, startStore_allDirect dir]

theorem vecStore_misaligned (h : plain s rd [] = true) (at_s : form s = ea) {i : Nat} (bad : firstMisaligned s m ty ea i) :
    vecStore d m ty rd form s = .next (s.trapMe (.align (ea i))) := by
  refine congrArg Host.Outcome.next (issue_plain_trap h ?_)
  rw [at_s, State.startStore, trElems_firstMisaligned bad]

/-- What the statement says of a store form, by its addresses. -/
theorem vecStore_spec (at_s : form s = ea) (wf : Memory.wf s.myCore.direct = true) (h : plain s rd [] = true) :
    let covers (i z : Nat) : Prop := i < 512 / ty.w ∧ (s.mr m).getLsbD i = true ∧ (ea i).toNat ≤ z ∧ z < (ea i).toNat + ty.w / 8
    (allDirect s m ty ea → ∃ t, vecStore d m ty rd form s = .next t ∧ t.me.regs = { s.me.regs with pc := s.me.regs.pc + 4 } ∧
      t.dram = s.dram ∧ t.host = s.host ∧ t.pod = s.pod) ∧
    (allDirect s m ty ea → noOwnLanes s m ty ea → ∃ t, vecStore d m ty rd form s = .next t ∧ t.me = (on s).me ∧ t.net = s.net ∧
      t.dram = s.dram ∧ t.host = s.host ∧ t.pod = s.pod ∧
      (∀ p k, (p, k) ≠ (s.cur.core, s.cur.thr) → t.thread p k = s.thread p k) ∧
      (∀ z, (∀ i, ¬ covers i z) → mget t.myCore.direct z = mget s.myCore.direct z) ∧
      ∀ i z, covers i z → (∀ j, i < j → ¬ covers j z) →
        (mget t.myCore.direct z).toNat = lane (s.vr d) ty.w i / 256 ^ (z - (ea i).toNat) % 256) ∧
    ∀ i, firstMisaligned s m ty ea i → vecStore d m ty rd form s = .next (s.trapMe (.align (ea i))) := by
  intro covers
  refine ⟨fun dir => ?_, fun dir own => ?_, fun i bad => vecStore_misaligned h at_s bad⟩
  · have kept := regsKept_storedLanes s m ty ea fun i => lane (s.vr d) ty.w i
    obtain ⟨-, dram, host, pod, -⟩ := id kept
    exact ⟨_, vecStore_direct h at_s dir, kept.at'_regs _, dram, host, pod⟩
  · have only := onlyBytes_storedLanes own fun i => lane (s.vr d) ty.w i
    obtain ⟨cur, net, -, dram, host, pod, core, -⟩ := id only
    have bytes : (at' (storedLanes s m ty ea fun i => lane (s.vr d) ty.w i) (s.me.regs.pc + 4)).myCore.direct =
        laneWrites ea (ty.w / 8) (fun i => lane (s.vr d) ty.w i) (activeLanes s m ty) s.myCore.direct := by
      rw [at'_direct, State.myCore, cur, core]
    refine ⟨_, vecStore_direct h at_s dir, ?_, net, dram, host, pod, fun p k ne => ?_, fun z out => ?_, fun i z cov last => ?_⟩
    · rw [on_eq (congrArg (fun th : Thread => th.regs.pc) only.me)]
      exact on_me_congr only.me
    · exact (at'_thread_ne _ _ p k (by rwa [cur])).trans (only.thread p k)
    · rw [bytes]
      refine mget_laneWrites_out (fun i hi => ?_) _
      obtain ⟨lt, active⟩ := mem_activeLanes.mp hi
      exact fun ⟨lo, up⟩ => out i ⟨lt, active, lo, up⟩
    · obtain ⟨lt, active, lo, up⟩ := cov
      rw [bytes]
      refine mget_laneWrites_in (activeLanes_pairwise s m ty) (mem_activeLanes.mpr ⟨lt, active⟩) lo up (fun j hj above => ?_) wf
      obtain ⟨lt, active⟩ := mem_activeLanes.mp hj
      exact fun ⟨lo, up⟩ => last j above ⟨lt, active, lo, up⟩

end

theorem claims_vectorStores : Claims.VectorStores := by
  intro d a b x m ty s wf forms w covers f hf h
  obtain rfl | rfl | rfl : f = (.vst d a m ty, [a], unitAt s a ty) ∨ f = (.vsts d a b m ty, [a, b], strideAt s a b) ∨
      f = (.vstx d a x m ty, [a], indexAt s a x ty) := by simpa [forms] using hf
  · exact vecStore_spec (form := fun s => eaUnit s a ty) (unitAt_eq ..) wf h
  · exact vecStore_spec (form := fun s => eaStride s a b) (strideAt_eq ..) wf h
  · exact vecStore_spec (form := fun s => eaIndex s a x ty) (indexAt_eq ..) wf h

/-- Settles O23: the active elements translate to direct bytes, and of a thread's own port writes that land first the registers and the other
memories know nothing. -/
theorem vectorMemory : Obligations.VectorMemory := ⟨claims_vectorLoads, claims_vectorStores⟩

end Sys2Proof.Machine
end

section
/-!
Float vector operations (R120-R122): the results of the operations of the formats are encodings, the exact results behind them, and the
rounding of a quotient that is known to its first bits and a sticky bit.
-/

open Sys2Proof Sys2Proof.Claims

namespace Sys2Proof.Machine

/-! ### Results are encodings of the format -/

section
variable {f : Fmt}

theorem Fmt.signBit_add_lt (f : Fmt) (s : Bool) {c : Nat} (h : c < 2 ^ (f.eb + f.fb)) : f.signBit s + c < 2 ^ f.width := by
  have half : 2 ^ f.width = 2 * 2 ^ (f.eb + f.fb) := by rw [Fmt.width, Nat.add_assoc, Nat.add_comm 1, pow_succ, mul_comm]
  have sign : f.signBit s ≤ 2 ^ (f.eb + f.fb) := by cases s <;> simp [Fmt.signBit]
  omega

theorem Fmt.signBit_lt (f : Fmt) (s : Bool) : f.signBit s < 2 ^ f.width := f.signBit_add_lt s (Nat.two_pow_pos _)

theorem Fmt.infBits_lt (f : Fmt) (s : Bool) : f.infBits s < 2 ^ f.width := by
  have := f.limit_lt
  rw [f.infBits_eq]
  exact f.signBit_add_lt s (by split <;> omega)

theorem Fmt.maxBits_lt (f : Fmt) (s : Bool) : f.maxBits s < 2 ^ f.width := by
  have := f.limit_lt
  rw [f.maxBits_eq]
  exact f.signBit_add_lt s (by omega)

theorem Fmt.qnan_lt (hf : f.Proper) : f.qnan < 2 ^ f.width := by
  obtain ⟨-, fb⟩ := hf
  have low : 2 ^ (f.fb - 1) < 2 ^ f.fb := Nat.pow_lt_pow_right one_lt_two (by omega)
  have pos := Nat.two_pow_pos f.fb
  have room : 2 ^ f.fb ≤ 2 ^ f.eb * 2 ^ f.fb := Nat.le_mul_of_pos_left _ (Nat.two_pow_pos _)
  have number : f.qnan < 2 ^ (f.eb + f.fb) := by
    rw [Fmt.qnan, pow_add, Nat.sub_one_mul]
    split <;> omega
  simpa [Fmt.signBit] using f.signBit_add_lt false number

theorem Fmt.answer_lt (f : Fmt) (rtz s : Bool) (v : ℚ) (c : Nat) : (f.answer rtz s v c).1 < 2 ^ f.width := by
  unfold Fmt.answer
  split
  · dsimp only
    split
    · exact f.maxBits_lt s
    · exact f.infBits_lt s
  next finite => exact f.signBit_add_lt s ((not_le.mp finite).trans f.limit_lt)

section
variable (hf : f.Proper)
include hf

theorem Fmt.round_lt (rtz s : Bool) (m : Nat) (e : Int) : (f.round rtz s m e).1 < 2 ^ f.width := by
  obtain ⟨c, -, eq⟩ := Fmt.round_eq_answer hf rtz s m e
  rw [eq]
  exact f.answer_lt ..

theorem Fmt.roundSticky_lt (rtz s : Bool) (m : Nat) (e : Int) (sticky : Bool) : (f.roundSticky rtz s m e sticky).1 < 2 ^ f.width :=
  Fmt.round_lt hf ..

theorem Fmt.divFin_lt (s : Bool) (m : Nat) (e : Int) (n : Nat) (g : Int) : (f.divFin s m e n g).1 < 2 ^ f.width := Fmt.roundSticky_lt hf ..

theorem Fmt.deliver_lt (rtz : Bool) (v : FVal) : (f.deliver rtz v).1 < 2 ^ f.width := by
  cases v with
  | nan => exact Fmt.qnan_lt hf
  | inf s => exact f.infBits_lt s
  | fin s m e => exact Fmt.round_lt hf rtz s m e

theorem Fmt.finish_lt (v : Option FVal) : (f.finish v).1 < 2 ^ f.width := by
  cases v with
  | none => exact Fmt.qnan_lt hf
  | some v => exact Fmt.deliver_lt hf false v

theorem Fmt.guardNan_lt (vs : List FVal) {r : Nat × Cnt} (h : r.1 < 2 ^ f.width) : (f.guardNan vs r).1 < 2 ^ f.width := by
  unfold Fmt.guardNan
  split
  · exact Fmt.qnan_lt hf
  · exact h

theorem Fmt.add_lt (x y : Nat) : (f.add x y).1 < 2 ^ f.width := Fmt.guardNan_lt hf _ (Fmt.finish_lt hf _)
theorem Fmt.sub_lt (x y : Nat) : (f.sub x y).1 < 2 ^ f.width := Fmt.guardNan_lt hf _ (Fmt.finish_lt hf _)
theorem Fmt.mul_lt (x y : Nat) : (f.mul x y).1 < 2 ^ f.width := Fmt.guardNan_lt hf _ (Fmt.finish_lt hf _)
theorem Fmt.fma_lt (p q : Bool) (x y z : Nat) : (f.fma p q x y z).1 < 2 ^ f.width := Fmt.guardNan_lt hf _ (Fmt.finish_lt hf _)

theorem Fmt.maxmin_lt (mx : Bool) {x y : Nat} (hx : x < 2 ^ f.width) (hy : y < 2 ^ f.width) : (f.maxmin mx x y).1 < 2 ^ f.width := by
  have pick (c : Bool) : (if c then y else x) < 2 ^ f.width := by
    split
    · exact hy
    · exact hx
  unfold Fmt.maxmin
  split
  · exact Fmt.qnan_lt hf
  · exact hy
  · exact hx
  · exact pick _

theorem Fmt.clamp_lt {x lo hi : Nat} (hx : x < 2 ^ f.width) (hlo : lo < 2 ^ f.width) (hhi : hi < 2 ^ f.width) :
    (f.clamp x lo hi).1 < 2 ^ f.width := Fmt.maxmin_lt hf false (Fmt.maxmin_lt hf true hx hlo) hhi

theorem Fmt.absneg_lt (isAbs : Bool) (x : Nat) : (f.absneg isAbs x).1 < 2 ^ f.width := by
  unfold Fmt.absneg
  split
  · exact Fmt.qnan_lt hf
  · exact f.signBit_add_lt _ (Nat.mod_lt _ (Nat.two_pow_pos _))

theorem Fmt.div_lt (x y : Nat) : (f.div x y).1 < 2 ^ f.width := by
  unfold Fmt.div
  generalize f.value x = X
  generalize f.value y = Y
  refine Fmt.guardNan_lt hf _ ?_
  cases X with
  | nan => exact Fmt.qnan_lt hf
  | inf s => cases Y with
    | nan => exact Fmt.qnan_lt hf
    | inf t => exact Fmt.qnan_lt hf
    | fin t n g => exact f.infBits_lt (s ^^ t)
  | fin s m e => cases Y with
    | nan => exact Fmt.qnan_lt hf
    | inf t => exact f.signBit_lt (s ^^ t)
    | fin t n g =>
      dsimp only
      split
      · split
        · exact Fmt.qnan_lt hf
        · exact f.infBits_lt (s ^^ t)
      · split
        · exact f.signBit_lt (s ^^ t)
        · exact Fmt.divFin_lt hf (s ^^ t) m e n g

theorem Fmt.rcp_lt (x : Nat) : (f.rcp x).1 < 2 ^ f.width := by
  unfold Fmt.rcp
  split
  · exact Fmt.qnan_lt hf
  · exact f.signBit_lt _
  · split
    · exact f.infBits_lt _
    · exact Fmt.divFin_lt hf ..

theorem Fmt.sqrt_lt (x : Nat) : (f.sqrt x).1 < 2 ^ f.width := by
  unfold Fmt.sqrt
  generalize f.value x = X
  cases X with
  | nan => exact Fmt.qnan_lt hf
  | inf s => cases s with
    | true => exact Fmt.qnan_lt hf
    | false => exact f.infBits_lt false
  | fin s m e =>
    dsimp only
    split
    · exact f.signBit_lt s
    · split
      · exact Fmt.qnan_lt hf
      · exact Fmt.roundSticky_lt hf ..

theorem Fmt.rsq_lt (x : Nat) : (f.rsq x).1 < 2 ^ f.width := by
  unfold Fmt.rsq
  generalize f.value x = X
  cases X with
  | nan => exact Fmt.qnan_lt hf
  | inf s => cases s with
    | true => exact Fmt.qnan_lt hf
    | false => exact f.signBit_lt false
  | fin s m e =>
    dsimp only
    split
    · exact f.infBits_lt s
    · split
      · exact Fmt.qnan_lt hf
      · exact Fmt.roundSticky_lt hf ..

theorem Fmt.exp2_lt (x : Nat) : (f.exp2 x).1 < 2 ^ f.width := by
  unfold Fmt.exp2
  generalize f.value x = X
  cases X with
  | nan => exact Fmt.qnan_lt hf
  | inf s => cases s with
    | true => exact f.signBit_lt false
    | false => exact f.infBits_lt false
  | fin s m e =>
    dsimp only
    split
    · exact Fmt.round_lt hf ..
    · split
      · exact Fmt.round_lt hf ..
      · exact Fmt.roundSticky_lt hf ..

theorem Fmt.log2_lt (x : Nat) : (f.log2 x).1 < 2 ^ f.width := by
  unfold Fmt.log2
  generalize f.value x = X
  cases X with
  | nan => exact Fmt.qnan_lt hf
  | inf s => cases s with
    | true => exact Fmt.qnan_lt hf
    | false => exact f.infBits_lt false
  | fin s m e =>
    dsimp only
    split
    · exact f.infBits_lt true
    · split
      · exact Fmt.qnan_lt hf
      · split
        · exact Fmt.round_lt hf ..
        · exact Fmt.roundSticky_lt hf ..

end
end

/-! ### Float operations lane by lane (R120-R122) -/

theorem floatTys_proper : ∀ tf ∈ floatTys, tf.2.Proper := by
  simp only [floatTys, List.forall_mem_cons, List.not_mem_nil, false_imp_iff, implies_true, and_true]
  exact ⟨⟨by decide, by decide⟩, ⟨by decide, by decide⟩, by decide, by decide⟩

section
variable {tf : VTy × Fmt} (htf : tf ∈ floatTys) {s : State} {d a b : VReg} {m : MReg}
include htf

theorem laneOp_float (f : Option (IFmt → LaneF)) (g : Fmt → LaneF) : laneOp tf.1 f (some g) = some (g tf.2) := by
  obtain ⟨int, float, -, -⟩ := floatTys_spec tf htf
  rw [laneOp, int, float]
  rfl

/-- A float operation whose results on encodings are encodings. -/
theorem writes_float {op : Fmt → LaneF} (ints : Option (IFmt → LaneF))
    (fits : ∀ x y z, x < 2 ^ tf.2.width → y < 2 ^ tf.2.width → z < 2 ^ tf.2.width → (op tf.2 x y z).1 < 2 ^ tf.2.width) :
    Writes s d m tf.1.w (vlanes d a b m tf.1 (laneOp tf.1 ints (some op)) s) (fun i => (atLanes s d a b tf.1.w (op tf.2) i).1)
      (sumLanes s m tf.1.w fun i => (atLanes s d a b tf.1.w (op tf.2) i).2) := by
  obtain ⟨-, -, -, w⟩ := floatTys_spec tf htf
  rw [laneOp_float htf]
  refine writes_vlanes (fun i => ?_) m
  rw [atLanes, w]
  exact fits _ _ _ (lane_lt ..) (lane_lt ..) (lane_lt ..)

/-- vabs and vneg of a float type. -/
theorem writes_absneg (ints : IFmt → LaneF) (isAbs : Bool) :
    Writes s d m tf.1.w (vlanes d a a m tf.1 (if tf.1.isI || tf.1.arith.isSome then
        laneOp tf.1 (some ints) (some (un fun t => t.absneg isAbs)) else none) s)
      (fun i => (tf.2.absneg isAbs (lane (s.vr a) tf.1.w i)).1)
      (sumLanes s m tf.1.w fun i => (tf.2.absneg isAbs (lane (s.vr a) tf.1.w i)).2) := by
  obtain ⟨-, float, -, -⟩ := floatTys_spec tf htf
  rw [if_pos (by rw [float, Option.isSome_some, Bool.or_true])]
  exact writes_float htf _ fun x _ _ _ _ _ => Fmt.absneg_lt (floatTys_proper tf htf) isAbs x

end

theorem claims_vectorFloat : Claims.VectorFloat := by
  intro tf htf d a b m s
  have hf := floatTys_proper tf htf
  simp only [floatOps, floatUns, List.forall_mem_cons, List.not_mem_nil, false_imp_iff, implies_true, and_true]
  refine ⟨⟨?_, ?_, ?_, ?_, ?_, ?_, ?_, ?_, ?_, ?_⟩, ?_, ?_, ?_, ?_, ?_, ?_, ?_⟩
  · exact writes_float htf _ fun x y _ _ _ _ => Fmt.add_lt hf x y
  · exact writes_float htf _ fun x y _ _ _ _ => Fmt.sub_lt hf x y
  · exact writes_float htf _ fun x y _ _ _ _ => Fmt.mul_lt hf x y
  · exact writes_float htf _ fun _ _ _ hx hy _ => Fmt.maxmin_lt hf false hx hy
  · exact writes_float htf _ fun _ _ _ hx hy _ => Fmt.maxmin_lt hf true hx hy
  · exact writes_float htf _ fun _ _ _ hx hy hz => Fmt.clamp_lt hf hz hx hy
  · exact writes_float htf _ fun x y _ _ _ _ => Fmt.div_lt hf x y
  · exact writes_float htf _ fun x y z _ _ _ => Fmt.fma_lt hf false false x y z
  · exact writes_float htf _ fun x y z _ _ _ => Fmt.fma_lt hf false true x y z
  · exact writes_float htf _ fun x y z _ _ _ => Fmt.fma_lt hf true false x y z
  · exact writes_float (a := a) (b := a) htf none fun x _ _ _ _ _ => Fmt.rcp_lt hf x
  · exact writes_float (a := a) (b := a) htf none fun x _ _ _ _ _ => Fmt.rsq_lt hf x
  · exact writes_float (a := a) (b := a) htf none fun x _ _ _ _ _ => Fmt.sqrt_lt hf x
  · exact writes_float (a := a) (b := a) htf none fun x _ _ _ _ _ => Fmt.exp2_lt hf x
  · exact writes_float (a := a) (b := a) htf none fun x _ _ _ _ _ => Fmt.log2_lt hf x
  · exact writes_absneg htf _ true
  · exact writes_absneg htf _ false

end Sys2Proof.Machine
end

section
/-!
Float arithmetic (R46-R50, R121): exact results and their rounding. `claims_roundingLimits` says what one rounding gives; here stand the exact
sums, products and quotients that are rounded, and the order of R51.
-/

open Sys2Proof Sys2Proof.Claims

namespace Sys2Proof.Machine

/-! ### Exact results -/

theorem mag_mul (m n : Nat) (e g : Int) : mag (m * n) (e + g) = mag m e * mag n g := by
  simp only [mag, Nat.cast_mul, zpow_add₀ (two_ne_zero (α := ℚ))]
  ring

/-- A signed integer times a power of two. -/
theorem mag_natAbs (k : Int) (q : Int) : mag k.natAbs q = |(k : ℚ) * 2 ^ q| := by
  rw [mag, abs_mul, abs_of_pos (show (0 : ℚ) < 2 ^ q by positivity), Nat.cast_natAbs, Int.cast_abs]

theorem scaled_mul (s : Bool) (m : Nat) {e q : Int} (h : q ≤ e) : (scaled s m e q : ℚ) * 2 ^ q = signed s m e := by
  obtain ⟨d, rfl⟩ := Int.le.dest h
  have all := mag_pow_mul m d q
  rw [mag, Nat.cast_mul, Nat.cast_pow, Nat.cast_ofNat] at all
  cases s <;> simp [scaled, signed, ← all]

theorem signed_not (s : Bool) (m : Nat) (e : Int) : signed (!s) m e = -signed s m e := by cases s <;> simp [signed]

theorem signed_zero (s : Bool) (e : Int) : signed s 0 e = 0 := by cases s <;> simp [signed]

theorem signed_mul (s t : Bool) (m n : Nat) (e g : Int) : signed (s ^^ t) (m * n) (e + g) = signed s m e * signed t n g := by
  cases s <;> cases t <;> simp [signed, mag_mul]

theorem signed_xor (s p : Bool) (m : Nat) (e : Int) : signed (s ^^ p) m e = if p then -signed s m e else signed s m e := by
  cases p
  · rw [Bool.xor_false]; rfl
  · rw [Bool.xor_true, signed_not]; rfl

/-- A finite value and its magnitude. -/
theorem signed_eq_zero {s : Bool} {m : Nat} {e : Int} : signed s m e = 0 ↔ m = 0 := by
  cases s <;> simp [signed, mag_eq_zero]

/-- The exact sum of finite values: its sign by R46 and its magnitude. -/
theorem FVal.add_fin (s : Bool) (m : Nat) (e : Int) (t : Bool) (n : Nat) (g : Int) :
    ∃ k q, FVal.add (.fin s m e) (.fin t n g) =
        some (.fin (sumSign (signed s m e + signed t n g) (m == 0 && n == 0) s t) k q) ∧ mag k q = |signed s m e + signed t n g| := by
  by_cases zero : m = 0 ∧ n = 0
  · obtain ⟨rfl, rfl⟩ := zero
    refine ⟨0, 0, ?_, by simp [signed_zero]⟩
    simp [FVal.add, signed_zero, sumSign]
  · have pos : (0 : ℚ) < 2 ^ min e g := by positivity
    have sum : ((scaled s m e (min e g) + scaled t n g (min e g) : Int) : ℚ) * 2 ^ min e g = signed s m e + signed t n g := by
      rw [Int.cast_add, add_mul, scaled_mul s m (min_le_left ..), scaled_mul t n (min_le_right ..)]
    refine ⟨(scaled s m e (min e g) + scaled t n g (min e g)).natAbs, min e g, ?_, by rw [mag_natAbs, sum]⟩
    have sign : decide (scaled s m e (min e g) + scaled t n g (min e g) < 0) =
        sumSign (signed s m e + signed t n g) (m == 0 && n == 0) s t := by
      have neg : scaled s m e (min e g) + scaled t n g (min e g) < 0 ↔ signed s m e + signed t n g < 0 := by
        rw [← sum, mul_neg_iff, Int.cast_lt_zero]
        simp [pos, pos.not_gt]
      have both : (m == 0 && n == 0) = false := by simpa using zero
      rw [sumSign, both, Bool.false_and, decide_eq_decide.mpr neg]
      split
      next null => simp [null]
      · rfl
    simp only [FVal.add, if_neg zero, sign]

/-! ### Rounding a value known to its first bits and a sticky bit (R46) -/

/-- A magnitude of few bits is no further value between two neighbouring multiples of a power of two. -/
theorem mag_outside {N M : Nat} (h : N ≤ M) (Q e : Int) : mag N Q ≤ mag M e ∨ mag (M + 1) e ≤ mag N Q := by
  rcases le_or_gt e Q with fine | coarse
  · obtain ⟨d, rfl⟩ := Int.le.dest fine
    rw [← mag_pow_mul, mag_le, mag_le]
    omega
  · refine .inl (le_trans ?_ (mag_le.mpr h))
    exact mul_le_mul_of_nonneg_left (zpow_le_zpow_right₀ one_le_two coarse.le) (Nat.cast_nonneg N)

section
variable {f : Fmt} {M : Nat} {e : Int} (room : 2 ^ (f.fb + 2) ≤ M)
include room

/-- A value of the grid is not between `M` and `M + 1` units. -/
theorem Fmt.gridMag_outside (c : Nat) : f.gridMag c ≤ mag M e ∨ mag (M + 1) e ≤ f.gridMag c := by
  obtain ⟨-, -, hi⟩ := f.eq_octave_add_significand c
  exact mag_outside (hi.le.trans ((Nat.pow_le_pow_right two_pos (by omega)).trans room)) _ e

/-- Nor is the midpoint of two neighbours. -/
theorem Fmt.midpoint_outside (c : Nat) : f.gridMag c + (f.gridMag (c + 1) - f.gridMag c) / 2 ≤ mag M e ∨
    mag (M + 1) e ≤ f.gridMag c + (f.gridMag (c + 1) - f.gridMag c) / 2 := by
  obtain ⟨-, -, hi⟩ := f.eq_octave_add_significand c
  have mid : f.gridMag c + (f.gridMag (c + 1) - f.gridMag c) / 2 = mag (2 * f.significand c + 1) (f.qmin + f.octave c - 1) := by
    have half : (2 : ℚ) ^ (f.qmin + f.octave c) = 2 * 2 ^ (f.qmin + f.octave c - 1) := by
      rw [← zpow_one_add₀ (two_ne_zero (α := ℚ))]; congr 1; ring
    rw [f.gridMag_succ, Fmt.gridMag, mag, mag, half]
    push_cast
    ring
  rw [mid]
  have pow : 2 ^ (f.fb + 2) = 2 * 2 ^ (f.fb + 1) := pow_succ' 2 (f.fb + 1)
  exact mag_outside (by omega) _ e

end

/-- A value past the midpoints below `c` and short of those from `c` on, where a midpoint itself goes to the even number, rounds to number `c`. -/
theorem rounds_of_midpoints {g : Nat → ℚ} (hg : StrictMono g) {v : ℚ} {c : Nat}
    (above : ∀ l < c, g l + (g (l + 1) - g l) / 2 ≤ v ∧ (g l + (g (l + 1) - g l) / 2 = v → l % 2 = 1))
    (below : ∀ l, c ≤ l → v ≤ g l + (g (l + 1) - g l) / 2 ∧ (v = g l + (g (l + 1) - g l) / 2 → l % 2 = 0)) : Rounds g false v c := by
  intro c'
  simp only [Bool.false_eq_true, if_false]
  rcases lt_trichotomy c' c with lt | rfl | gt
  · obtain ⟨l, rfl⟩ := Nat.exists_eq_add_of_lt lt
    obtain ⟨mid, tie⟩ := above (c' + l) (by omega)
    have mono : g c' ≤ g (c' + l) := hg.monotone (by omega)
    refine ⟨(nearer_upper_iff (hg lt)).mpr (by linarith), fun same _ => ?_⟩
    have short := (nearer_lower_iff (hg lt)).mp same.ge
    have := tie (by linarith)
    omega
  · exact ⟨le_rfl, fun _ ne => absurd rfl ne⟩
  · obtain ⟨mid, tie⟩ := below c le_rfl
    have mono : g (c + 1) ≤ g c' := hg.monotone gt
    refine ⟨(nearer_lower_iff (hg gt)).mpr (by linarith), fun same _ => ?_⟩
    have past := (nearer_upper_iff (hg gt)).mp same.ge
    exact tie (by linarith)

section
variable {f : Fmt} {M : Nat} {e : Int} {u v : ℚ} (room : 2 ^ (f.fb + 2) ≤ M) (ulo : mag M e < u) (uhi : u < mag (M + 1) e)
  (vlo : mag M e < v) (vhi : v < mag (M + 1) e)
include room ulo uhi vlo vhi

/-- Two values strictly between `M` and `M + 1` units round to the same number. -/
theorem Fmt.rounds_between {c : Nat} (h : Rounds f.gridMag false u c) : Rounds f.gridMag false v c := by
  refine rounds_of_midpoints f.gridMag_strictMono (fun l hl => ?_) fun l hl => ?_
  · obtain ⟨le, -⟩ := h.midpoint_le f.gridMag_strictMono hl
    have past : f.gridMag l + (f.gridMag (l + 1) - f.gridMag l) / 2 < v := by
      rcases Fmt.midpoint_outside (e := e) room l with out | out <;> linarith
    exact ⟨past.le, fun eq => absurd eq past.ne⟩
  · obtain ⟨le, -⟩ := h.le_midpoint f.gridMag_strictMono hl
    have short : v < f.gridMag l + (f.gridMag (l + 1) - f.gridMag l) / 2 := by
      rcases Fmt.midpoint_outside (e := e) room l with out | out <;> linarith
    exact ⟨short.le, fun eq => absurd eq short.ne⟩

/-- And the answers for them are the same. -/
theorem Fmt.answer_between (s : Bool) (c : Nat) : f.answer false s u c = f.answer false s v c := by
  have zero := mag_nonneg M e
  have number := Fmt.gridMag_outside (e := e) room c
  have normal : (2 : ℚ) ^ (1 - f.bias : Int) ≤ mag M e ∨ mag (M + 1) e ≤ (2 : ℚ) ^ (1 - f.bias : Int) := by
    have := mag_outside ((Nat.one_le_two_pow).trans room) (1 - f.bias : Int) e
    simpa only [mag, Nat.cast_one, one_mul] using this
  have tiny : (u ≠ 0 ∧ u < 2 ^ (1 - f.bias : Int) ∧ f.gridMag c ≠ u) ↔ (v ≠ 0 ∧ v < 2 ^ (1 - f.bias : Int) ∧ f.gridMag c ≠ v) := by
    have nz : u ≠ 0 ∧ v ≠ 0 := ⟨by linarith, by linarith⟩
    have off : f.gridMag c ≠ u ∧ f.gridMag c ≠ v := by
      rcases number with h | h
      · exact ⟨by linarith, by linarith⟩
      · exact ⟨by linarith, by linarith⟩
    have lt : u < 2 ^ (1 - f.bias : Int) ↔ v < 2 ^ (1 - f.bias : Int) := by
      rcases normal with h | h
      · exact iff_of_false (by linarith) (by linarith)
      · exact iff_of_true (by linarith) (by linarith)
    simp only [nz, off, lt, ne_eq, not_false_eq_true, true_and, and_true]
  simp only [Fmt.answer, tiny]

end

/-- The rounding of `v` from its first bits `M` and a bit that tells whether anything follows. -/
theorem rounded_roundSticky {row : Fmt × ℚ × ℚ × ℚ} (hrow : row ∈ limits) (s : Bool) {M : Nat} {e : Int} {v : ℚ} {sticky : Bool}
    (room : 2 ^ (row.1.fb + 2) ≤ M) (exact : sticky = false → v = mag M e) (lo : sticky = true → mag M e < v) (hi : v < mag (M + 1) e) :
    rounded row false s v (row.1.roundSticky false s M e sticky) := by
  have twice : mag (2 * M) (e - 1) = mag M e := by rw [mul_comm, ← pow_one 2, mag_pow_mul]; congr 1; push_cast; ring
  cases sticky with
  | false =>
    rw [exact rfl, ← twice]
    exact claims_roundingLimits row hrow false s (2 * M) (e - 1)
  | true =>
    have next : mag (2 * (M + 1)) (e - 1) = mag (M + 1) e := by rw [mul_comm, ← pow_one 2, mag_pow_mul]; congr 1; push_cast; ring
    have ulo : mag M e < mag (2 * M + 1) (e - 1) := by rw [← twice]; exact mag_lt.mpr (by omega)
    have uhi : mag (2 * M + 1) (e - 1) < mag (M + 1) e := by rw [← next]; exact mag_lt.mpr (by omega)
    have h := limitsOf_of_mem_limits row hrow
    obtain ⟨c, rounds, answer⟩ := Fmt.round_eq_answer h.1 false s (2 * M + 1) (e - 1)
    rw [show row.1.roundSticky false s M e true = row.1.round false s (2 * M + 1) (e - 1) from rfl, answer,
      Fmt.answer_between room ulo uhi (lo rfl) hi]
    exact h.answer_rounded s (Fmt.rounds_between room ulo uhi (lo rfl) hi rounds)

theorem limits_fb : ∀ row ∈ limits, row.1.fb ≤ 23 := by
  simp only [limits, List.forall_mem_cons, List.not_mem_nil, false_imp_iff, implies_true, and_true]
  decide

/-- A quotient of magnitudes is rounded once (R121). -/
theorem rounded_divFin {row : Fmt × ℚ × ℚ × ℚ} (hrow : row ∈ limits) (s : Bool) {m n : Nat} (hm : m ≠ 0) (hn : n ≠ 0) (e g : Int) :
    rounded row false s (mag m e / mag n g) (row.1.divFin s m e n g) := by
  have pos : 0 < n := Nat.pos_of_ne_zero hn
  unfold Fmt.divFin
  generalize hk : 64 + Nat.log2 n + 1 = k
  have quotient (q : Nat) : mag q (e - g - k) * mag n g = mag (q * n) (e - k) := by rw [← mag_mul]; congr 1; ring
  have value : mag m e = mag (m * 2 ^ k) (e - k) := by rw [mag_pow_mul]; congr 1; ring
  have den : 0 < mag n g := lt_of_le_of_ne (mag_nonneg n g) fun h => hn (mag_eq_zero.mp h.symm)
  have div := Nat.div_add_mod' (m * 2 ^ k) n
  have rem := Nat.mod_lt (m * 2 ^ k) pos
  refine rounded_roundSticky hrow s ?_ (fun whole => ?_) (fun part => ?_) ?_
  · have fb := limits_fb row hrow
    have small : n < 2 ^ (Nat.log2 n + 1) := Nat.lt_log2_self
    refine (Nat.pow_le_pow_right two_pos (show row.1.fb + 2 ≤ 64 by omega)).trans ?_
    rw [Nat.le_div_iff_mul_le pos]
    calc 2 ^ 64 * n ≤ 2 ^ 64 * 2 ^ (Nat.log2 n + 1) := Nat.mul_le_mul_left _ small.le
      _ = 2 ^ k := by rw [← pow_add, ← hk, Nat.add_assoc]
      _ ≤ m * 2 ^ k := Nat.le_mul_of_pos_left _ (Nat.pos_of_ne_zero hm)
  · rw [div_eq_iff den.ne', quotient, value, mag_inj]
    have : m * 2 ^ k % n = 0 := by simpa using whole
    omega
  · rw [lt_div_iff₀ den, quotient, value, mag_lt]
    have : m * 2 ^ k % n ≠ 0 := by simpa using part
    omega
  · rw [div_lt_iff₀ den, quotient, value, mag_lt, add_mul]
    omega

end Sys2Proof.Machine
end

section
/-!
What the operations of the formats answer, case by case of their operands' values (R46-R51, R121).
-/

open Sys2Proof Sys2Proof.Claims

namespace Sys2Proof.Machine

theorem arithLimits_spec : ∀ row ∈ arithLimits, row ∈ limits ∧ row.1.hasInf = true := by
  have kept : arithLimits = limits.take 3 := by rfl
  intro row h
  rw [kept] at h
  refine ⟨List.mem_of_mem_take h, ?_⟩
  revert row
  simp only [limits, List.take_succ_cons, List.take_zero, List.forall_mem_cons, List.not_mem_nil, false_imp_iff, implies_true, and_true]
  exact ⟨rfl, rfl, rfl⟩

/-! ### NaN operands -/

theorem FVal.isNan_eq_false {v : FVal} (h : v ≠ .nan) : v.isNan = false := by
  cases v
  · exact absurd rfl h
  · rfl
  · rfl

section
variable {f : Fmt} {vs : List FVal} {r : Nat × Cnt}

theorem Fmt.guardNan_of_mem (h : .nan ∈ vs) : f.guardNan vs r = (f.qnan, { nan := 1 }) := if_pos (List.any_eq_true.mpr ⟨_, h, rfl⟩)

theorem Fmt.guardNan_of_forall (h : ∀ v ∈ vs, v ≠ .nan) : f.guardNan vs r = r := by
  refine if_neg fun any => ?_
  obtain ⟨v, hv, nan⟩ := List.any_eq_true.mp any
  rw [FVal.isNan_eq_false (h v hv)] at nan
  cases nan

end

section
variable {f : Fmt} {x y z : Nat}

theorem Fmt.binary_nan (h : f.value x = .nan ∨ f.value y = .nan) :
    f.add x y = (f.qnan, { nan := 1 }) ∧ f.sub x y = (f.qnan, { nan := 1 }) ∧ f.mul x y = (f.qnan, { nan := 1 }) ∧
      f.div x y = (f.qnan, { nan := 1 }) := by
  have mem : FVal.nan ∈ [f.value x, f.value y] := by simpa [eq_comm] using h
  exact ⟨Fmt.guardNan_of_mem mem, Fmt.guardNan_of_mem mem, Fmt.guardNan_of_mem mem, Fmt.guardNan_of_mem mem⟩

theorem Fmt.fma_nan (h : f.value x = .nan ∨ f.value y = .nan ∨ f.value z = .nan) (p q : Bool) : f.fma p q x y z = (f.qnan, { nan := 1 }) :=
  Fmt.guardNan_of_mem (by simpa [eq_comm] using h)

theorem Fmt.unary_nan (h : f.value x = .nan) : f.rcp x = (f.qnan, { nan := 1 }) ∧ f.sqrt x = (f.qnan, { nan := 1 }) ∧
    f.rsq x = (f.qnan, { nan := 1 }) ∧ f.exp2 x = (f.qnan, { nan := 1 }) ∧ f.log2 x = (f.qnan, { nan := 1 }) := by
  refine ⟨?_, ?_, ?_, ?_, ?_⟩
  · rw [Fmt.rcp, h]; rfl
  · rw [Fmt.sqrt, h]; rfl
  · rw [Fmt.rsq, h]; rfl
  · rw [Fmt.exp2, h]; rfl
  · rw [Fmt.log2, h]; rfl

/-! ### Operands that are not NaN -/

variable {X Y Z : FVal} (hx : f.value x = X) (hy : f.value y = Y) (nx : X ≠ .nan) (ny : Y ≠ .nan)
include hx hy nx ny

theorem Fmt.add_of_value : f.add x y = f.finish (X.add Y) := by
  subst hx hy
  exact Fmt.guardNan_of_forall (by simp [nx, ny])

theorem Fmt.sub_of_value : f.sub x y = f.finish (X.add Y.neg) := by
  subst hx hy
  exact Fmt.guardNan_of_forall (by simp [nx, ny])

theorem Fmt.mul_of_value : f.mul x y = f.finish (X.mul Y) := by
  subst hx hy
  exact Fmt.guardNan_of_forall (by simp [nx, ny])

theorem Fmt.fma_of_value (hz : f.value z = Z) (nz : Z ≠ .nan) (p q : Bool) :
    f.fma p q x y z = f.finish ((X.mul Y).bind fun v => (if p then v.neg else v).add (if q then Z.neg else Z)) := by
  subst hx hy hz
  exact Fmt.guardNan_of_forall (by simp [nx, ny, nz])

end

/-! ### Finite operands -/

section
variable {f : Fmt} {x y z : Nat} {s t u : Bool} {m n l : Nat} {e g h : Int} (hx : f.value x = .fin s m e) (hy : f.value y = .fin t n g)
include hx hy

theorem Fmt.div_fin : f.div x y =
    if n = 0 then (if m = 0 then (f.qnan, { inv := 1 }) else (f.infBits (s ^^ t), { dz := 1 }))
    else if m = 0 then (f.signBit (s ^^ t), {}) else f.divFin (s ^^ t) m e n g := by
  rw [Fmt.div, hx, hy, Fmt.guardNan_of_forall (by simp)]
  rfl

end

section
variable {f : Fmt} {x : Nat} {s : Bool} {m : Nat} {e : Int} (hx : f.value x = .fin s m e)
include hx

theorem Fmt.rcp_fin : f.rcp x = if m = 0 then (f.infBits s, { dz := 1 }) else f.divFin s 1 0 m e := by
  rw [Fmt.rcp, hx]
  rfl

/-- The roots and the logarithm of a zero. -/
theorem Fmt.roots_zero (hm : m = 0) : f.sqrt x = (f.signBit s, {}) ∧ f.rsq x = (f.infBits s, { dz := 1 }) ∧
    f.log2 x = (f.infBits true, { dz := 1 }) := by
  refine ⟨?_, ?_, ?_⟩
  · rw [Fmt.sqrt, hx]; exact if_pos hm
  · rw [Fmt.rsq, hx]; exact if_pos hm
  · rw [Fmt.log2, hx]; exact if_pos hm

/-- The roots and the logarithm of a negative value. -/
theorem Fmt.roots_negative (hm : m ≠ 0) (neg : s = true) : f.sqrt x = (f.qnan, { inv := 1 }) ∧ f.rsq x = (f.qnan, { inv := 1 }) ∧
    f.log2 x = (f.qnan, { inv := 1 }) := by
  refine ⟨?_, ?_, ?_⟩
  · rw [Fmt.sqrt, hx]; exact (if_neg hm).trans (if_pos neg)
  · rw [Fmt.rsq, hx]; exact (if_neg hm).trans (if_pos neg)
  · rw [Fmt.log2, hx]; exact (if_neg hm).trans (if_pos neg)

end

/-- An encoding is read modulo the width. -/
theorem Fmt.value_mod (f : Fmt) (x : Nat) : f.value (x % 2 ^ f.width) = f.value x := by
  have width : 2 ^ f.width = 2 ^ f.fb * 2 ^ f.eb * 2 := by rw [Fmt.width, ← pow_add, ← pow_succ]; congr 1; omega
  have sign : x % 2 ^ f.width / 2 ^ (f.eb + f.fb) % 2 = x / 2 ^ (f.eb + f.fb) % 2 := by
    rw [width, ← pow_add, Nat.add_comm f.fb, Nat.mod_mul_right_div_self, Nat.mod_mod]
  have exponent : x % 2 ^ f.width / 2 ^ f.fb % 2 ^ f.eb = x / 2 ^ f.fb % 2 ^ f.eb := by
    rw [width, mul_assoc, Nat.mod_mul_right_div_self, Nat.mod_mul_right_mod]
  have fraction : x % 2 ^ f.width % 2 ^ f.fb = x % 2 ^ f.fb := by rw [width, mul_assoc, Nat.mod_mul_right_mod]
  simp only [Fmt.value, sign, exponent, fraction]

/-- The encoding of a zero is its sign bit. -/
theorem Fmt.mod_of_value_zero {f : Fmt} {x : Nat} {s : Bool} {e : Int} (hx : f.value x = .fin s 0 e) : x % 2 ^ f.width = f.signBit s := by
  rw [← f.value_mod] at hx
  obtain ⟨t, c, hc, number⟩ := f.eq_signBit_add (Nat.mod_lt x (Nat.two_pow_pos f.width))
  obtain ⟨-, rfl, value⟩ := (f.isFin_signBit_add hc 0).mp (number ▸ (⟨0, e, hx, mag_zero e⟩ : isFin f (x % 2 ^ f.width) s 0))
  rw [number, f.gridMag_strictMono.injective (value.trans f.gridMag_zero.symm), Nat.add_zero]

section
variable {row : Fmt × ℚ × ℚ × ℚ} (hrow : row ∈ limits)
include hrow

/-- One rounding of an exact sum of finite values. -/
theorem rounded_finish_add (s : Bool) (m : Nat) (e : Int) (t : Bool) (n : Nat) (g : Int) :
    rounded row false (sumSign (signed s m e + signed t n g) (m == 0 && n == 0) s t) |signed s m e + signed t n g|
      (row.1.finish (FVal.add (.fin s m e) (.fin t n g))) := by
  obtain ⟨k, q, sum, value⟩ := FVal.add_fin s m e t n g
  rw [sum, ← value]
  exact claims_roundingLimits row hrow false _ k q

variable {x y z : Nat} {s t u : Bool} {m n l : Nat} {e g h : Int} (hx : row.1.value x = .fin s m e) (hy : row.1.value y = .fin t n g)
include hx hy

theorem rounded_add : rounded row false (sumSign (signed s m e + signed t n g) (m == 0 && n == 0) s t) |signed s m e + signed t n g|
    (row.1.add x y) := by
  rw [Fmt.add_of_value hx hy nofun nofun]
  exact rounded_finish_add hrow s m e t n g

theorem rounded_sub : rounded row false (sumSign (signed s m e - signed t n g) (m == 0 && n == 0) s !t) |signed s m e - signed t n g|
    (row.1.sub x y) := by
  rw [Fmt.sub_of_value hx hy nofun nofun, sub_eq_add_neg, ← signed_not]
  exact rounded_finish_add hrow s m e (!t) n g

theorem rounded_mul : rounded row false (s ^^ t) (mag m e * mag n g) (row.1.mul x y) := by
  rw [Fmt.mul_of_value hx hy nofun nofun, ← mag_mul]
  exact claims_roundingLimits row hrow false (s ^^ t) (m * n) (e + g)

theorem rounded_fma (hz : row.1.value z = .fin u l h) (p q : Bool) :
    let P := if p then -(signed s m e * signed t n g) else signed s m e * signed t n g
    let A := if q then -signed u l h else signed u l h
    rounded row false (sumSign (P + A) ((m == 0 || n == 0) && l == 0) (s ^^ t ^^ p) (u ^^ q)) |P + A| (row.1.fma p q x y z) := by
  intro P A
  have product : (if p then FVal.neg (.fin (s ^^ t) (m * n) (e + g)) else .fin (s ^^ t) (m * n) (e + g)) =
      .fin (s ^^ t ^^ p) (m * n) (e + g) := by cases p <;> simp [FVal.neg]
  have addend : (if q then FVal.neg (.fin u l h) else .fin u l h) = .fin (u ^^ q) l h := by cases q <;> simp [FVal.neg]
  have hP : P = signed (s ^^ t ^^ p) (m * n) (e + g) := by
    rw [signed_xor, signed_mul]
  have hA : A = signed (u ^^ q) l h := (signed_xor u q l h).symm
  have zero : (m == 0 || n == 0) = (m * n == 0) := by rw [Bool.eq_iff_iff]; simp
  rw [Fmt.fma_of_value hx hy nofun nofun hz nofun, hP, hA, zero, FVal.mul, Option.bind_some, product, addend]
  exact rounded_finish_add hrow (s ^^ t ^^ p) (m * n) (e + g) (u ^^ q) l h

end

/-! ### Infinite operands -/

section
variable {f : Fmt} (inf : f.hasInf = true)
include inf

theorem Fmt.finish_inf (s : Bool) : f.finish (some (.inf s)) = (f.infBits s, {}) := by
  rw [Fmt.finish, Fmt.deliver, inf]
  rfl

variable {x y z : Nat} {s t : Bool} {n : Nat} {g : Int} (hx : f.value x = .inf s)
include hx

theorem Fmt.inf_inf (hy : f.value y = .inf t) :
    (f.add x y = if s = t then (f.infBits s, {}) else (f.qnan, { inv := 1 })) ∧
      (f.sub x y = if s = t then (f.qnan, { inv := 1 }) else (f.infBits s, {})) ∧
      f.mul x y = (f.infBits (s ^^ t), {}) ∧ f.div x y = (f.qnan, { inv := 1 }) := by
  refine ⟨?_, ?_, ?_, ?_⟩
  · rw [Fmt.add_of_value hx hy nofun nofun, FVal.add]
    split
    · exact Fmt.finish_inf inf s
    · rfl
  · rw [Fmt.sub_of_value hx hy nofun nofun, FVal.neg, FVal.add]
    have opposite : s = !t ↔ ¬s = t := by cases s <;> cases t <;> decide
    simp only [opposite, ite_not]
    split
    · rfl
    · exact Fmt.finish_inf inf s
  · rw [Fmt.mul_of_value hx hy nofun nofun]
    exact Fmt.finish_inf inf _
  · rw [Fmt.div, hx, hy, Fmt.guardNan_of_forall (by simp)]
    rfl

theorem Fmt.inf_fin (hy : f.value y = .fin t n g) :
    f.add x y = (f.infBits s, {}) ∧ f.sub x y = (f.infBits s, {}) ∧ f.add y x = (f.infBits s, {}) ∧
      f.sub y x = (f.infBits (!s), {}) ∧ (f.mul x y = if n = 0 then (f.qnan, { inv := 1 }) else (f.infBits (s ^^ t), {})) ∧
      (f.mul y x = if n = 0 then (f.qnan, { inv := 1 }) else (f.infBits (s ^^ t), {})) ∧ f.div x y = (f.infBits (s ^^ t), {}) ∧
      f.div y x = (f.signBit (s ^^ t), {}) := by
  refine ⟨?_, ?_, ?_, ?_, ?_, ?_, ?_, ?_⟩
  · rw [Fmt.add_of_value hx hy nofun nofun]
    exact Fmt.finish_inf inf s
  · rw [Fmt.sub_of_value hx hy nofun nofun]
    exact Fmt.finish_inf inf s
  · rw [Fmt.add_of_value hy hx nofun nofun]
    exact Fmt.finish_inf inf s
  · rw [Fmt.sub_of_value hy hx nofun nofun]
    exact Fmt.finish_inf inf (!s)
  · rw [Fmt.mul_of_value hx hy nofun nofun, FVal.mul]
    split
    · rfl
    · exact Fmt.finish_inf inf _
  · rw [Fmt.mul_of_value hy hx nofun nofun, FVal.mul, Bool.xor_comm]
    split
    · rfl
    · exact Fmt.finish_inf inf _
  · rw [Fmt.div, hx, hy, Fmt.guardNan_of_forall (by simp)]
    rfl
  · rw [Fmt.div, hx, hy, Fmt.guardNan_of_forall (by simp), Bool.xor_comm]
    rfl

omit inf in
theorem Fmt.unary_inf : f.rcp x = (f.signBit s, {}) ∧ (f.sqrt x = if s then (f.qnan, { inv := 1 }) else (f.infBits false, {})) ∧
    (f.rsq x = if s then (f.qnan, { inv := 1 }) else (0, {})) ∧ (f.exp2 x = if s then (0, {}) else (f.infBits false, {})) ∧
    (f.log2 x = if s then (f.qnan, { inv := 1 }) else (f.infBits false, {})) := by
  refine ⟨?_, ?_, ?_, ?_, ?_⟩
  · rw [Fmt.rcp, hx]; rfl
  · rw [Fmt.sqrt, hx]; rfl
  · rw [Fmt.rsq, hx]; rfl
  · rw [Fmt.exp2, hx]; rfl
  · rw [Fmt.log2, hx]; rfl

end

section
variable {f : Fmt} {x y z : Nat} {X Y : FVal} (hx : f.value x = X) (hy : f.value y = Y) (nx : X ≠ .nan) (ny : Y ≠ .nan) (nz : f.value z ≠ .nan)
include hx hy nx ny nz

/-- 0 times infinity is invalid in a fused operation, whatever is added. -/
theorem Fmt.fma_invalid (product : X.mul Y = none) (p q : Bool) : f.fma p q x y z = (f.qnan, { inv := 1 }) := by
  rw [Fmt.fma_of_value hx hy nx ny rfl nz, product]
  rfl

/-- An infinite product is the result, unless the infinity of the other sign is added. -/
theorem Fmt.fma_infinite (inf : f.hasInf = true) {s : Bool} (product : X.mul Y = some (.inf s)) (p q : Bool) :
    f.fma p q x y z = if f.value z = .inf (!(s ^^ p ^^ q)) then (f.qnan, { inv := 1 }) else (f.infBits (s ^^ p), {}) := by
  have sign : (if p then FVal.neg (.inf s) else .inf s) = .inf (s ^^ p) := by cases p <;> simp [FVal.neg]
  rw [Fmt.fma_of_value hx hy nx ny rfl nz, product, Option.bind_some, sign]
  cases hz : f.value z with
  | nan => exact absurd hz nz
  | inf u =>
    have addend : (if q then FVal.neg (.inf u) else .inf u) = .inf (u ^^ q) := by cases q <;> simp [FVal.neg]
    have opposite : FVal.inf u = .inf (!(s ^^ p ^^ q)) ↔ ¬(s ^^ p) = (u ^^ q) := by
      rw [FVal.inf.injEq]
      cases s <;> cases p <;> cases q <;> cases u <;> decide
    simp only [addend, opposite, FVal.add, ite_not]
    split
    · exact Fmt.finish_inf inf _
    · rfl
  | fin u l h =>
    have addend : (if q then FVal.neg (.fin u l h) else .fin u l h) = .fin (u ^^ q) l h := by cases q <;> simp [FVal.neg]
    rw [addend, if_neg nofun]
    exact Fmt.finish_inf inf _

end

/-- An infinity added to a finite product is the result. -/
theorem Fmt.fma_addend {f : Fmt} (inf : f.hasInf = true) {x y z : Nat} {s t u : Bool} {m n : Nat} {e g : Int} (hx : f.value x = .fin s m e)
    (hy : f.value y = .fin t n g) (hz : f.value z = .inf u) (p q : Bool) : f.fma p q x y z = (f.infBits (u ^^ q), {}) := by
  have addend : (if q then FVal.neg (.inf u) else .inf u) = .inf (u ^^ q) := by cases q <;> simp [FVal.neg]
  rw [Fmt.fma_of_value hx hy nofun nofun hz nofun, addend, FVal.mul, Option.bind_some]
  cases p
  · exact Fmt.finish_inf inf _
  · exact Fmt.finish_inf inf _

theorem claims_floatArithmetic : Claims.FloatArithmetic := by
  intro row hrow x y z f X Y Z nan inv
  obtain ⟨hlim, inf⟩ := arithLimits_spec row hrow
  refine ⟨Fmt.binary_nan, Fmt.fma_nan, Fmt.unary_nan, fun s m e t n g hx hy => ?_, fun s t => Fmt.inf_inf inf,
    fun s t n g => Fmt.inf_fin inf, fun s => Fmt.unary_inf, fun p q nz => ⟨?_, ?_, fun s m e t n g u hx hy hz => Fmt.fma_addend inf hx hy hz p q⟩⟩
  · have div := Fmt.div_fin hx hy
    have rcp := Fmt.rcp_fin hx
    refine ⟨rounded_add hlim hx hy, rounded_sub hlim hx hy, rounded_mul hlim hx hy, fun hm hn => ?_, fun hm hn => ?_, fun hm hn => ?_,
      fun hm hn => ?_, fun hm => ?_, fun hm => ?_, fun hm => ?_, Fmt.roots_negative hx, fun p q u l h hz => rounded_fma hlim hx hy hz p q⟩
    · rw [div, if_neg hn, if_neg hm]
      exact rounded_divFin hlim _ hm hn e g
    · rw [div, if_pos hn, if_neg hm]
    · rw [div, if_pos hn, if_pos hm]
    · rw [div, if_neg hn, if_pos hm]
    · rw [rcp, if_neg hm]
      simpa [mag] using rounded_divFin hlim s one_ne_zero hm 0 e
    · rw [rcp, if_pos hm]
    · subst hm
      rw [Fmt.mod_of_value_zero hx]
      exact Fmt.roots_zero hx rfl
  · rintro ⟨s, t, n, g, rfl, ⟨hx, hy⟩ | ⟨hx, hy⟩⟩
    · exact Fmt.fma_invalid hx hy nofun nofun nz rfl p q
    · exact Fmt.fma_invalid hx hy nofun nofun nz rfl p q
  · rintro s t (⟨hx, hy⟩ | ⟨n, g, hn, ⟨hx, hy⟩ | ⟨hx, hy⟩⟩)
    · exact Fmt.fma_infinite hx hy nofun nofun nz inf rfl p q
    · exact Fmt.fma_infinite hx hy nofun nofun nz inf (if_neg hn) p q
    · rw [Bool.xor_comm s t]
      exact Fmt.fma_infinite hx hy nofun nofun nz inf (if_neg hn) p q

/-! ### The order of R51 -/

/-- Finite values compare as the numbers that they are. -/
theorem FVal.cmp_fin (s : Bool) (m : Nat) (e : Int) (t : Bool) (n : Nat) (g : Int) :
    FVal.cmp (.fin s m e) (.fin t n g) = compare (signed s m e) (signed t n g) := by
  have pos : (0 : ℚ) < 2 ^ min e g := by positivity
  have mono : StrictMono fun k : Int => (k : ℚ) * 2 ^ min e g := fun a b lt => by
    simpa only [mul_lt_mul_iff_left₀ pos, Int.cast_lt] using lt
  rw [← scaled_mul s m (min_le_left e g), ← scaled_mul t n (min_le_right e g), ← cmp_eq_compare, mono.cmp_map_eq, cmp_eq_compare]
  rfl

theorem upTo_refl {v : FVal} (h : v ≠ .nan) : upTo v v := by
  cases v with
  | nan => exact absurd rfl h
  | inf s => cases s <;> simp [upTo]
  | fin s m e => cases s <;> simp [upTo]

theorem FVal.below_fin {s : Bool} {m : Nat} {e : Int} {t : Bool} {n : Nat} {g : Int} (h : ¬(m = 0 ∧ n = 0)) :
    FVal.below (.fin s m e) (.fin t n g) = decide (signed s m e < signed t n g) := by
  have value : (FVal.cmp (.fin s m e) (.fin t n g) == .lt) = decide (signed s m e < signed t n g) := by
    rw [FVal.cmp_fin, Bool.eq_iff_iff, beq_iff_eq, compare_lt_iff_lt, decide_eq_true_iff]
  rw [← value]
  unfold FVal.below
  split
  next zero zero' =>
    obtain ⟨-, rfl, -⟩ := FVal.fin.inj zero
    obtain ⟨-, rfl, -⟩ := FVal.fin.inj zero'
    exact absurd ⟨rfl, rfl⟩ h
  · rfl

/-- What is below comes first, and of two values neither of which is below the other each comes no later than the other. -/
theorem upTo_of_below {v w : FVal} (hv : v ≠ .nan) (hw : w ≠ .nan) : if v.below w then upTo v w else upTo w v := by
  cases v with
  | nan => exact absurd rfl hv
  | inf s =>
    cases w with
    | nan => exact absurd rfl hw
    | inf t => cases s <;> cases t <;> simp [FVal.below, FVal.cmp, upTo]
    | fin t n g => cases s <;> simp [FVal.below, FVal.cmp, upTo]
  | fin s m e =>
    cases w with
    | nan => exact absurd rfl hw
    | inf t => cases t <;> simp [FVal.below, FVal.cmp, upTo]
    | fin t n g =>
      by_cases zero : m = 0 ∧ n = 0
      · obtain ⟨rfl, rfl⟩ := zero
        cases s <;> cases t <;> simp [FVal.below, upTo, signed_zero]
      · rw [FVal.below_fin zero]
        by_cases lt : signed s m e < signed t n g
        · simp [lt, upTo]
        · simp only [lt, decide_false, Bool.false_eq_true, if_false]
          rcases (not_lt.mp lt).lt_or_eq with lt | eq
          · exact .inl lt
          · refine .inr ⟨eq, fun hn => absurd ⟨signed_eq_zero.mp (eq.symm.trans (signed_eq_zero.mpr hn)), hn⟩ zero⟩

theorem Fmt.maxmin_values {f : Fmt} {x y : Nat} (hx : f.value x ≠ .nan) (hy : f.value y ≠ .nan) (mx : Bool) :
    f.maxmin mx x y = (if (if mx then (f.value x).below (f.value y) else (f.value y).below (f.value x)) then y else x, {}) := by
  unfold Fmt.maxmin
  split
  next nan _ => exact absurd nan hx
  next nan _ => exact absurd nan hx
  next nan _ => exact absurd nan hy
  · rfl

theorem claims_floatOrder : Claims.FloatOrder := by
  intro row hrow x y z f
  refine ⟨fun mx hx hy => ?_, fun mx hx hy => ?_, fun hx hy => ⟨?_, ?_⟩, rfl, ?_⟩
  · rw [Fmt.maxmin, hx, hy]; rfl
  · rw [Fmt.maxmin, Fmt.maxmin, hx]
    cases value : f.value y with
    | nan => exact absurd value hy
    | inf s => exact ⟨rfl, rfl⟩
    | fin s m e => exact ⟨rfl, rfl⟩
  · have order := upTo_of_below hx hy
    rw [Fmt.maxmin_values hx hy, if_pos rfl]
    cases below : (f.value x).below (f.value y) with
    | true => exact ⟨y, .inr rfl, rfl, by simpa [below] using order, upTo_refl hy⟩
    | false => exact ⟨x, .inl rfl, rfl, upTo_refl hx, by simpa [below] using order⟩
  · have order := upTo_of_below hy hx
    rw [Fmt.maxmin_values hx hy, if_neg Bool.false_ne_true]
    cases below : (f.value y).below (f.value x) with
    | true => exact ⟨y, .inr rfl, rfl, by simpa [below] using order, upTo_refl hy⟩
    | false => exact ⟨x, .inl rfl, rfl, upTo_refl hx, by simpa [below] using order⟩
  · have nan (v : FVal) : v.isNan = true ↔ v = .nan := by cases v <;> simp [FVal.isNan]
    simp only [Fmt.clamp, List.any_cons, List.any_nil, Bool.or_false, Bool.or_eq_true, nan]
    rfl

/-- Settles O16: one exact result rounded once for finite operands, and the special operands case by case. -/
theorem vectorFloat : Obligations.VectorFloat := ⟨claims_vectorFloat, claims_floatArithmetic, claims_floatOrder⟩

end Sys2Proof.Machine
end

section
/-!
Conversions (R49, R127): a result is an encoding of the destination's type, the lanes below both lane counts convert, and what a converted
value is.
-/

open Sys2Proof Sys2Proof.Claims

namespace Sys2Proof.Machine

/-! ### Lanes that convert (R127) -/

theorem fmt_spec {ty : VTy} {f : Fmt} (h : ty.fmt = some f) : f.Proper ∧ f.width = ty.w := by
  cases ty with
  | i8 | i16 | i32 | i64 | n8 | n16 | n32 | n64 => cases h
  | f16 | bf16 | f32 | e4m3 | e5m2 => cases h; exact ⟨⟨by decide, by decide⟩, rfl⟩

theorem fmt_of_isInt {ty : VTy} (h : ty.isInt = true) : ty.fmt = none := by
  cases ty with
  | i8 | i16 | i32 | i64 | n8 | n16 | n32 | n64 => rfl
  | f16 | bf16 | f32 | e4m3 | e5m2 => cases h

theorem isInt_of_fmt {ty : VTy} (h : ty.fmt = none) : ty.isInt = true := by
  cases ty with
  | i8 | i16 | i32 | i64 | n8 | n16 | n32 | n64 => rfl
  | f16 | bf16 | f32 | e4m3 | e5m2 => cases h

theorem int_eq (ty : VTy) : ty.int = ⟨ty.w, ty.isI⟩ := by cases ty <;> rfl

theorem Fmt.convert_lt {dst : Fmt} (hd : dst.Proper) (src : Fmt) (rtz : Bool) (x : Nat) : (src.convert dst rtz x).1 < 2 ^ dst.width := by
  unfold Fmt.convert
  split
  · exact Fmt.qnan_lt hd
  · exact Fmt.deliver_lt hd rtz _

theorem Fmt.toInt_lt (f : Fmt) (ty : VTy) (rtz : Bool) (x : Nat) : (f.toInt ty.int rtz x).1 < 2 ^ ty.w := by
  unfold Fmt.toInt
  simp only [int_wrapBits]
  split
  · exact Nat.two_pow_pos _
  · exact low_lt ..
  · exact low_lt ..

theorem convLane_lt (dty sty : VTy) (rtz : Bool) {x : Nat} (hx : x < 2 ^ sty.w) : (convLane dty sty rtz x).1 < 2 ^ dty.w := by
  unfold convLane
  split
  next same => exact same ▸ hx
  · split
    next dst =>
      obtain ⟨proper, w⟩ := fmt_spec dst
      exact w ▸ Fmt.convert_lt proper _ rtz x
    next => exact Fmt.toInt_lt _ dty rtz x
    next dst =>
      obtain ⟨proper, w⟩ := fmt_spec dst
      exact w ▸ Fmt.round_lt proper ..
    next =>
      rw [int_wrapCount]
      exact low_lt ..

theorem sumLanes_congr {s : State} {m : MReg} {w : Nat} {c c' : Nat → Cnt} (h : ∀ i < 512 / w, c i = c' i) : sumLanes s m w c = sumLanes s m w c' := by
  funext k
  refine congrArg List.sum (List.map_congr_left fun i hi => ?_)
  rw [h i (List.mem_range.mp hi)]

/-- What vcvt puts in a lane (R127). -/
def vcvtLane (s : State) (d a : VReg) (dty sty : VTy) (rtz : Bool) (i : Nat) : Nat × Cnt :=
  if i < 512 / sty.w then convLane dty sty rtz (lane (s.vr a) sty.w i) else quiet (lane (s.vr d) dty.w i)

section
variable (s : State) (d a : VReg) (m : MReg) (dty sty : VTy) (rtz : Bool)

theorem vcvtLane_lt (i : Nat) : (vcvtLane s d a dty sty rtz i).1 < 2 ^ dty.w := by
  unfold vcvtLane
  split
  · exact convLane_lt dty sty rtz (lane_lt ..)
  · exact lane_lt ..

theorem exec_vcvt (legal : (rtz && sty.fmt.isNone) = false) : exec (.vcvt d a m dty sty rtz) s =
    .next (wrote s d (mapLanes dty.w (s.mr m) (s.vr d) (vcvtLane s d a dty sty rtz)).1
      (mapLanes dty.w (s.mr m) (s.vr d) (vcvtLane s d a dty sty rtz)).2) :=
  congrArg Host.Outcome.next (issue_plain_done (plain_nil s) (if_neg (Bool.eq_false_iff.mp legal)))

end

/-- A conversion writes the lanes that both types have. -/
theorem vcvt_converts {s : State} {d a : VReg} {m : MReg} {dty sty : VTy} {rtz : Bool} {f : Nat → Nat} {c : Nat → Cnt}
    (legal : (rtz && sty.fmt.isNone) = false) (conv : ∀ i, convLane dty sty rtz (lane (s.vr a) sty.w i) = (f i, c i)) :
    ∃ t, exec (.vcvt d a m dty sty rtz) s = .next t ∧ vecFrame s t d ∧
      vecLanes s t d m dty.w (fun i => if i < min (512 / sty.w) (512 / dty.w) then f i else lane (s.vr d) dty.w i) ∧
      counters s t (sumLanes s m dty.w fun i => if i < min (512 / sty.w) (512 / dty.w) then c i else Cnt.zero) := by
  have value (i : Nat) (hi : i < 512 / dty.w) : vcvtLane s d a dty sty rtz i =
      (if i < min (512 / sty.w) (512 / dty.w) then f i else lane (s.vr d) dty.w i,
        if i < min (512 / sty.w) (512 / dty.w) then c i else Cnt.zero) := by
    rw [vcvtLane, conv]
    by_cases both : i < 512 / sty.w
    · rw [if_pos both, if_pos (lt_min both hi), if_pos (lt_min both hi)]
    · have above : ¬ i < min (512 / sty.w) (512 / dty.w) := fun h => both (h.trans_le (min_le_left ..))
      rw [if_neg both, if_neg above, if_neg above]
      rfl
  obtain ⟨t, next, frame, lanes, count⟩ := writes_mapLanes (s := s) (d := d) (m := m) (vcvtLane_lt s d a dty sty rtz)
  refine ⟨t, (exec_vcvt s d a m dty sty rtz legal).trans next, frame, fun i hi => ?_, ?_⟩
  · have := lanes i hi
    dsimp only at this
    rwa [value i hi] at this
  · rwa [sumLanes_congr fun i hi => congrArg Prod.snd (value i hi)] at count

theorem claims_conversions : Claims.Conversions := by
  intro d a m dty sty rtz s N x ok
  refine ⟨fun same legal => ?_, fun differ => ⟨fun int nearest => ⟨fun int' => ?_, fun g hg => ?_⟩, fun f hf => ⟨fun g hg => ?_, fun int' => ?_⟩⟩⟩
  · refine vcvt_converts ?_ fun i => if_pos same
    cases rtz with
    | false => rfl
    | true =>
      have float := legal rfl
      cases fmt : sty.fmt with
      | none => rw [isInt_of_fmt fmt] at float; cases float
      | some f => rfl
  · refine vcvt_converts (by rw [nearest, Bool.false_and]) fun i => ?_
    rw [convLane, if_neg differ, fmt_of_isInt int, fmt_of_isInt int', ← int_wrapCount, ← int_value sty (lane_lt ..)]
  · refine vcvt_converts (by rw [nearest, Bool.false_and]) fun i => ?_
    rw [convLane, if_neg differ, fmt_of_isInt int, hg, ← int_value sty (lane_lt ..)]
  · refine vcvt_converts (by rw [hf, Option.isNone_some, Bool.and_false]) fun i => ?_
    rw [convLane, if_neg differ, hf, hg]
  · refine vcvt_converts (by rw [hf, Option.isNone_some, Bool.and_false]) fun i => ?_
    rw [convLane, if_neg differ, hf, fmt_of_isInt int', int_eq]

/-! ### What a conversion gives (R49) -/

/-- The whole number that a magnitude rounds to. -/
theorem roundQ_whole (rtz : Bool) (m : Nat) (e : Int) :
    if rtz then ((roundQ rtz m e 0).1 : ℚ) ≤ mag m e ∧ mag m e - (roundQ rtz m e 0).1 < 1
    else |mag m e - (roundQ rtz m e 0).1| ≤ 1 / 2 ∧ (|mag m e - (roundQ rtz m e 0).1| = 1 / 2 → (roundQ rtz m e 0).1 % 2 = 0) := by
  have whole (n : Nat) : mag n 0 = n := by simp [mag]
  obtain ⟨n, lo, hi, pick⟩ := roundQ_chooses rtz m e 0
  rw [whole] at lo hi pick
  rw [whole] at pick
  push_cast at hi pick
  cases rtz with
  | true =>
    obtain eq : (roundQ true m e 0).1 = n := by simpa using pick
    rw [if_pos rfl, eq]
    exact ⟨lo, by linarith⟩
  | false =>
    rw [if_neg Bool.false_ne_true]
    rcases pick with ⟨eq, near⟩ | ⟨eq, -, near, tie⟩
    · obtain ⟨near, tie⟩ := near rfl
      rw [eq, abs_of_nonneg (by linarith)]
      exact ⟨by linarith, fun half => tie (by linarith)⟩
    · rw [eq, abs_sub_comm, Nat.cast_add, Nat.cast_one, abs_of_nonneg (by linarith)]
      exact ⟨by linarith, fun half => by have := tie (by linarith); omega⟩

/-- The whole number under the sign of the value. -/
theorem roundQ_signed (rtz s : Bool) (m : Nat) (e : Int) :
    let v := signed s m e
    let i : Int := if s then -((roundQ rtz m e 0).1 : Int) else (roundQ rtz m e 0).1
    if rtz then |(i : ℚ)| ≤ |v| ∧ |v| - |(i : ℚ)| < 1 ∧ 0 ≤ v * i else |v - i| ≤ 1 / 2 ∧ (|v - i| = 1 / 2 → i % 2 = 0) := by
  intro v i
  have whole := roundQ_whole rtz m e
  have pos := mag_nonneg m e
  have size : |v| = mag m e ∧ |(i : ℚ)| = (roundQ rtz m e 0).1 := by
    cases s <;> simp [v, i, signed, pos]
  have dist : |v - i| = |mag m e - (roundQ rtz m e 0).1| := by
    cases s
    · rfl
    · rw [← abs_neg]; congr 1; simp [v, i, signed]; ring
  have parity : (roundQ rtz m e 0).1 % 2 = 0 → i % 2 = 0 := fun even => by
    cases s <;> simp only [i, Bool.false_eq_true, if_true, if_false] <;> omega
  cases rtz with
  | true =>
    rw [if_pos rfl] at whole ⊢
    obtain ⟨le, lt⟩ := whole
    rw [size.1, size.2]
    refine ⟨le, lt, ?_⟩
    have : 0 ≤ mag m e * (roundQ true m e 0).1 := mul_nonneg pos (Nat.cast_nonneg _)
    cases s <;> simpa [v, i, signed] using this
  | false =>
    rw [if_neg Bool.false_ne_true] at whole ⊢
    rw [dist]
    exact ⟨whole.1, fun half => parity (whole.2 half)⟩

/-- A float converted to an integer type. -/
theorem toInt_value (f : Fmt) (ty : VTy) (rtz : Bool) (x : Nat) :
    let r := f.toInt ⟨ty.w, ty.isI⟩ rtz x
    (f.value x = .nan → r = (0, { inv := 1, nan := 1 })) ∧
    (∀ s, f.value x = .inf s → r = (low ty (if s then eltMin ty else eltMax ty), { inv := 1 })) ∧
    ∀ s m e, f.value x = .fin s m e →
      let v := signed s m e
      ∃ i : Int, (if rtz then |(i : ℚ)| ≤ |v| ∧ |v| - |(i : ℚ)| < 1 ∧ 0 ≤ v * i
          else |v - i| ≤ 1 / 2 ∧ (|v - i| = 1 / 2 → i % 2 = 0)) ∧
        r = (low ty (max (eltMin ty) (min (eltMax ty) i)), if outside ty i then { inv := 1 } else {}) := by
  rw [← int_eq]
  refine ⟨fun nan => ?_, fun s inf => ?_, fun s m e fin =>
    ⟨if s then -((roundQ rtz m e 0).1 : Int) else (roundQ rtz m e 0).1, roundQ_signed rtz s m e, ?_⟩⟩
  · rw [Fmt.toInt, nan]; rfl
  · rw [Fmt.toInt, inf, ← int_lo, ← int_hi, ← int_wrapBits]; rfl
  · rw [Fmt.toInt, fin, ← int_sat, ← int_wrapBits]
    simp only [int_fits, Bool.not_eq_true', Bool.eq_false_iff, ne_eq, ite_not]
    rfl

theorem claims_conversionValues : Claims.ConversionValues := by
  refine ⟨fun src _ dst hdst rtz x => ⟨fun nan => ?_, fun s inf => ?_, fun s m e fin => ?_⟩,
    fun src _ ty rtz x _ => toInt_value src.1 ty rtz x, fun dst hdst i => ?_⟩
  · rw [Fmt.convert, nan]; rfl
  · rw [Fmt.convert, inf]; rfl
  · rw [Fmt.convert, fin]
    exact claims_roundingLimits dst hdst rtz s m e
  · have value : mag i.natAbs 0 = |(i : ℚ)| := by rw [mag_natAbs, zpow_zero, mul_one]
    rw [← value]
    exact claims_roundingLimits dst hdst false _ _ _

end Sys2Proof.Machine
end

section
/-!
Blocks of q4 elements as numbers (R53, R128, R129): the fields of a block that is packed, and the vector forms that pack and unpack.
-/

open Sys2Proof Sys2Proof.Claims

namespace Sys2Proof.Machine

/-! ### The codes of a block -/

/-- The choice among numbers in ascending order by which of the steps between them are passed. -/
theorem foldl_passed {P : Nat → Prop} [DecidablePred P] (down : ∀ i j, j < i → P i → P j) (n : Nat) :
    let c := (List.range n).foldl (fun best i => if P i then i + 1 else best) 0
    c ≤ n ∧ (∀ l < c, P l) ∧ ∀ l, c ≤ l → l < n → ¬ P l := by
  induction n with
  | zero => exact ⟨le_rfl, fun _ h => absurd h (Nat.not_lt_zero _), fun _ _ h => absurd h (Nat.not_lt_zero _)⟩
  | succ n ih =>
    obtain ⟨le, passed, rest⟩ := ih
    simp only [List.range_succ, List.foldl_append, List.foldl_cons, List.foldl_nil]
    split
    next p =>
      refine ⟨le_rfl, fun l hl => ?_, fun l lo hi => absurd lo (by omega)⟩
      rcases Nat.lt_succ_iff_lt_or_eq.mp hl with lt | rfl
      · exact down n l lt p
      · exact p
    next p =>
      refine ⟨le.trans n.le_succ, passed, fun l lo hi => ?_⟩
      rcases Nat.lt_succ_iff_lt_or_eq.mp hi with lt | rfl
      · exact rest l lo lt
      · exact p

theorem q4Nearest_lt (ty m : Nat) (e : Int) : q4Nearest ty m e < 8 := by
  unfold q4Nearest
  refine List.foldlRecOn (motive := fun best => best < 8) _ _ (by decide) fun best hb i hi => ?_
  have := List.mem_range.mp hi
  split
  · omega
  · split <;> omega
  · exact hb

theorem wrapBits_lt (t : IFmt) (v : Int) : t.wrapBits v < 2 ^ t.w := by
  have pos : (0 : Int) < 2 ^ t.w := by positivity
  exact (Int.toNat_lt (Int.emod_nonneg v pos.ne')).mpr (by exact_mod_cast Int.emod_lt_of_pos v pos)

theorem q4Quant_lt (ty exp : Nat) (v : FVal) : (q4Quant ty exp v).1 < 16 := by
  cases v with
  | nan => exact Nat.succ_pos _
  | inf s =>
    unfold q4Quant
    cases s <;> dsimp only <;> split <;> decide
  | fin s m e =>
    unfold q4Quant
    dsimp only
    split
    · split
      · decide
      · split
        · decide
        · exact wrapBits_lt ⟨4, true⟩ _
    · split
      · cases s <;> decide
      · have := q4Nearest_lt ty m (e - ((exp : Int) - 32) + 3)
        dsimp only
        split <;> omega

theorem q4Exp_le (ty : Nat) (vs : List FVal) (fuel e : Nat) (h : fuel + e = 63) : q4Exp ty vs fuel e ≤ 62 := by
  induction fuel generalizing e with
  | zero => exact le_rfl
  | succ fuel ih =>
    unfold q4Exp
    split
    · omega
    · exact ih (e + 1) (by omega)

/-- The codes of a block, the first one lowest. -/
def q4Codes (ty exp : Nat) (vs : List FVal) : Nat := (vs.map (q4Quant ty exp)).foldr (fun c acc => acc * 16 + c.1) 0

theorem q4Codes_eq (ty exp : Nat) (vs : List FVal) :
    q4Codes ty exp vs = (vs.map fun v => (q4Quant ty exp v).1).foldr (fun x acc => acc * 2 ^ 4 + x % 2 ^ 4) 0 := by
  unfold q4Codes
  induction vs with
  | nil => rfl
  | cons v vs ih =>
    rw [List.map_cons, List.foldr_cons, ih, List.map_cons, List.foldr_cons, Nat.mod_eq_of_lt (show _ < 2 ^ 4 from q4Quant_lt ty exp v)]
    rfl

theorem q4Codes_lt {ty exp : Nat} {vs : List FVal} (h : vs.length = 32) : q4Codes ty exp vs < 2 ^ 128 := by
  have := foldr_lanes_lt 4 (vs.map fun v => (q4Quant ty exp v).1)
  rwa [List.length_map, h, ← q4Codes_eq] at this

theorem q4Codes_digit (ty exp : Nat) {vs : List FVal} {i : Nat} (h : i < vs.length) :
    q4Codes ty exp vs / 2 ^ (4 * i) % 16 = (q4Quant ty exp vs[i]).1 := by
  rw [q4Codes_eq, show 16 = 2 ^ 4 from rfl, foldr_lanes_digit, List.getD_eq_getElem?_getD, List.getElem?_map, List.getElem?_eq_getElem h]
  exact Nat.mod_eq_of_lt (q4Quant_lt ty exp _)

/-! ### The number that a block is -/

section
variable {ty E C : Nat} (hE : E < 64) (hC : C < 2 ^ 128)
include hE hC

theorem block_type : ((ty * 64 + E) * 2 ^ 128 + C) / 2 ^ 134 = ty := by
  norm_num at hC ⊢
  omega

theorem block_exp : ((ty * 64 + E) * 2 ^ 128 + C) / 2 ^ 128 % 64 = E := by
  norm_num at hC ⊢
  omega

theorem block_lt (hty : ty < 4) : (ty * 64 + E) * 2 ^ 128 + C < 2 ^ 136 := by
  norm_num at hC ⊢
  omega

end

theorem block_code (S C : Nat) {i : Nat} (h : i < 32) : (S * 2 ^ 128 + C) / 2 ^ (4 * i) % 16 = C / 2 ^ (4 * i) % 16 := by
  obtain ⟨j, hj⟩ := Nat.exists_eq_add_of_lt h
  have scale : S * 2 ^ 128 = 2 ^ (4 * i) * (16 * (S * 2 ^ (4 * j))) := by
    rw [show 128 = 4 * i + 4 + 4 * j by omega, pow_add, pow_add]; ring
  rw [scale, Nat.mul_add_div (Nat.two_pow_pos _), Nat.mul_add_mod]

theorem q4Pack_nan {ty : Nat} {vs : List FVal} (h : .nan ∈ vs) : q4Pack ty vs = ((ty * 64 + 63) * 2 ^ 128, { nan := 1 }) :=
  if_pos (List.any_eq_true.mpr ⟨_, h, rfl⟩)

theorem q4Pack_values {ty : Nat} {vs : List FVal} (h : .nan ∉ vs) : q4Pack ty vs =
    ((ty * 64 + q4Exp ty vs 63 0) * 2 ^ 128 + q4Codes ty (q4Exp ty vs 63 0) vs,
      { q4 := ((vs.map (q4Quant ty (q4Exp ty vs 63 0))).filter fun c => c.2).length }) := by
  have none : ¬ vs.any FVal.isNan = true := fun any => by
    obtain ⟨v, hv, nan⟩ := List.any_eq_true.mp any
    rw [FVal.isNan_eq_false fun e => h (e ▸ hv)] at nan
    cases nan
  unfold q4Pack
  rw [if_neg none]
  generalize q4Exp ty vs 63 0 = exp
  rfl

theorem q4Pack_lt {ty : Nat} (hty : ty < 4) {vs : List FVal} (h : vs.length = 32) : (q4Pack ty vs).1 < 2 ^ 136 := by
  by_cases nan : .nan ∈ vs
  · rw [q4Pack_nan nan]
    have := block_lt (E := 63) (C := 0) (by decide) (Nat.two_pow_pos _) hty
    rwa [Nat.add_zero] at this
  · rw [q4Pack_values nan]
    exact block_lt (Nat.lt_of_le_of_lt (q4Exp_le ty vs 63 0 rfl) (by decide)) (q4Codes_lt h) hty

/-! ### Packing and unpacking (R128, R129) -/

section
variable {s : State} {d a b : VReg} {m : MReg}

theorem q4simple_early (early : s.early s.cur.core = true) (f : State → State) : q4simple f s = .next (s.trapMe .illegal) :=
  congrArg Host.Outcome.next (issue_plain_trap (plain_nil s) (if_pos early))

/-- The bytes 0 to 16 of `vD` are replaced. -/
def withBlock (v : VWord) (blk : Nat) : VWord := BitVec.ofNat 512 (v.toNat / 2 ^ 136 * 2 ^ 136 + blk)

theorem withBlock_fields (v : VWord) {blk : Nat} (h : blk < 2 ^ 136) :
    (withBlock v blk).toNat / 2 ^ (136 * 0) % 2 ^ 136 = blk ∧ (withBlock v blk).toNat / 2 ^ 136 = v.toNat / 2 ^ 136 := by
  have small := v.isLt
  have value : (withBlock v blk).toNat = v.toNat / 2 ^ 136 * 2 ^ 136 + blk := by
    rw [withBlock, BitVec.toNat_ofNat, Nat.mod_eq_of_lt]
    norm_num at h small ⊢
    omega
  rw [value]
  norm_num at h ⊢
  omega

/-- What packing leaves. -/
theorem q4simple_pack4 (early : s.early s.cur.core = false) (f : Fmt) (xs : State → Nat → Nat) :
    let r := q4Pack ((s.vr d).toNat / 2 ^ 134 % 4) ((List.range 32).map fun i => if (s.mr m).getLsbD i then f.value (xs s i) else .fin false 0 0)
    ∃ t, q4simple (pack4 d m f xs) s = .next t ∧ vecFrame s t d ∧ (t.vr d).toNat / 2 ^ (136 * 0) % 2 ^ 136 = r.1 ∧
      (t.vr d).toNat / 2 ^ 136 = (s.vr d).toNat / 2 ^ 136 ∧ counters s t (Cnt.at r.2) := by
  intro r
  have run : q4simple (pack4 d m f xs) s = .next (wrote s d (withBlock (s.vr d) r.1) r.2) :=
    congrArg Host.Outcome.next (issue_plain_done (plain_nil s) (if_neg (by rw [early]; exact Bool.false_ne_true)))
  obtain ⟨low, high⟩ := withBlock_fields (s.vr d) (q4Pack_lt (Nat.mod_lt _ (by decide)) (by simp) : r.1 < 2 ^ 136)
  refine ⟨_, run, vecFrame_wrote .., ?_, ?_, wrote_counters s d _ _⟩
  · rw [wrote_vr_same]; exact low
  · rw [wrote_vr_same]; exact high

theorem unpackLane_lt {f : Fmt} (hf : f.Proper) (v : VWord) (k i : Nat) : (unpackLane f v k i).1 < 2 ^ f.width := by
  unfold unpackLane
  split
  · exact Fmt.qnan_lt hf
  · exact Fmt.deliver_lt hf false _

/-- A lane-wise form that counts what its lanes meet. -/
theorem writes_of_issue {w : Nat} {F : State → Ends} {f : Nat → Nat × Cnt} (fits : ∀ i, (f i).1 < 2 ^ w)
    (body : F s = .done ((s.vw d (mapLanes w (s.mr m) (s.vr d) f).1).counted (mapLanes w (s.mr m) (s.vr d) f).2)) :
    Writes s d m w (.next (s.issue [] [] F)) (fun i => (f i).1) (sumLanes s m w fun i => (f i).2) := by
  rw [issue_plain_done (plain_nil s) body]
  exact writes_mapLanes fits

end

theorem half_spec (bf : Bool) : (if bf then Fmt.bf16 else .f16).Proper ∧ (if bf then Fmt.bf16 else .f16).width = 16 := by
  cases bf
  · exact ⟨⟨by decide, by decide⟩, rfl⟩
  · exact ⟨⟨by decide, by decide⟩, rfl⟩

theorem claims_blocks : Claims.Blocks := by
  intro d a b m bf h k s
  refine ⟨fun early => ?_, fun early => ?_⟩
  · have traps : (k = 3 || s.early s.cur.core) = true := by rw [early, Bool.or_true]
    simp only [List.forall_mem_cons, List.not_mem_nil, false_imp_iff, implies_true, and_true]
    exact ⟨q4simple_early early _, q4simple_early early _, congrArg Host.Outcome.next (issue_plain_trap (plain_nil s) (if_pos traps)),
      congrArg Host.Outcome.next (issue_plain_trap (plain_nil s) (if_pos traps))⟩
  · intro half block packed
    constructor
    · simp only [List.forall_mem_cons, List.not_mem_nil, false_imp_iff, implies_true, and_true]
      exact ⟨q4simple_pack4 early _ _, q4simple_pack4 early _ _⟩
    · intro hk un
      have runs : ¬ (k = 3 || s.early s.cur.core) = true := by simp [hk, early]
      obtain ⟨proper, w⟩ := half_spec bf
      exact ⟨writes_of_issue (fun i => w ▸ unpackLane_lt proper (s.vr a) k i) (if_neg runs),
        writes_of_issue (fun i => unpackLane_lt (f := .f32) ⟨by decide, by decide⟩ (s.vr a) k (16 * h.toNat + i)) (if_neg runs)⟩

end Sys2Proof.Machine
end

section
/-!
What q4 blocks stand for and how they are quantised (R54-R56). The magnitudes of a block type are an ascending grid (`q4Grid`), the code of a
value that does not saturate is the number that a rounding to that grid takes, under the value's sign.
-/

open Sys2Proof Sys2Proof.Claims

namespace Sys2Proof.Machine

/-! ### The magnitudes of a type as a grid (R54) -/

/-- The magnitudes of a block type, whole numbers for type 0, with an ascending continuation past the last one. -/
def q4Grid (ty n : Nat) : ℚ := if ty = 0 then n else (q4Mags ty).getD n (n + 5)

section
variable {ty : Nat} (hty : ty < 4)
include hty

theorem q4Grid_strictMono : StrictMono (q4Grid ty) := by
  refine strictMono_nat_of_lt_succ fun n => ?_
  rcases Nat.lt_or_ge n 8 with small | large
  · interval_cases ty <;> interval_cases n <;> norm_num [q4Grid, q4Mags]
  · have past (k : Nat) (hk : 8 ≤ k) : q4Grid ty k = if ty = 0 then (k : ℚ) else k + 5 := by
      interval_cases ty <;> simp [q4Grid, q4Mags, List.getD_eq_getElem?_getD, hk]
    rw [past n large, past (n + 1) (by omega)]
    split <;> push_cast <;> linarith

theorem q4Grid_zero : q4Grid ty 0 = 0 := by
  interval_cases ty <;> norm_num [q4Grid, q4Mags]

theorem q4Grid_seven : q4Grid ty 7 = q4Max ty := by
  interval_cases ty <;> norm_num [q4Grid, q4Mags, q4Max]

theorem q4Mag8_eq (nz : ty ≠ 0) {n : Nat} (hn : n < 8) : (q4Mag8 ty n : ℚ) = 8 * q4Grid ty n := by
  interval_cases ty
  · exact absurd rfl nz
  all_goals interval_cases n <;> norm_num [q4Grid, q4Mags, q4Mag8]

theorem mag_q4Cmax8 (e : Int) : mag (q4Cmax8 ty) e = q4Max ty * 2 ^ (e + 3) := by
  have eight : (q4Cmax8 ty : ℚ) = q4Max ty * 8 := by
    interval_cases ty <;> norm_num [q4Cmax8, q4Max, q4Mags, q4Mag8]
  rw [mag, eight, zpow_add₀ (two_ne_zero (α := ℚ))]
  ring

theorem q4Grid_eq_getD (nz : ty ≠ 0) {n : Nat} (hn : n < 8) : q4Grid ty n = (q4Mags ty).getD n 0 := by
  interval_cases ty
  · exact absurd rfl nz
  all_goals interval_cases n <;> norm_num [q4Grid, q4Mags]

/-- A code of a type with a table of magnitudes is a sign and an index. -/
theorem q4Code_table (nz : ty ≠ 0) (c : Nat) : q4Code ty c = if c / 8 % 2 = 1 then -q4Grid ty (c % 8) else q4Grid ty (c % 8) := by
  rw [q4Code, if_neg nz, q4Grid_eq_getD hty nz (Nat.mod_lt c (by decide))]

/-- What a code stands for: a magnitude of the grid under a sign. -/
theorem q4Code_grid (c : Nat) : ∃ (t : Bool) (j : Nat), q4Code ty c = if t then -q4Grid ty j else q4Grid ty j := by
  by_cases zero : ty = 0
  · refine ⟨decide ((BitVec.ofNat 4 c).toInt < 0), (BitVec.ofNat 4 c).toInt.natAbs, ?_⟩
    simp only [q4Code, q4Grid, if_pos zero, decide_eq_true_eq, Nat.cast_natAbs]
    split
    next neg => rw [abs_of_neg neg, Int.cast_neg, neg_neg]
    next pos => rw [abs_of_nonneg (not_lt.mp pos)]
  · exact ⟨decide (c / 8 % 2 = 1), c % 8, by simpa using q4Code_table hty zero c⟩

omit hty in
theorem abs_sub_same_sign (s : Bool) (x y : ℚ) : |(if s then -x else x) - (if s then -y else y)| = |x - y| := by
  cases s
  · rfl
  · rw [if_pos rfl, if_pos rfl, neg_sub_neg, abs_sub_comm]

omit hty in
theorem abs_sub_other_sign (s : Bool) {x y : ℚ} (hx : 0 ≤ x) (hy : 0 ≤ y) :
    |(if !s then -x else x) - (if s then -y else y)| = x + y := by
  cases s
  · simp only [Bool.not_false, if_true, Bool.false_eq_true, if_false]
    rw [abs_of_nonpos (by linarith)]
    ring
  · simp only [Bool.not_true, if_true, Bool.false_eq_true, if_false]
    rw [abs_of_nonneg (by linarith)]
    ring

/-- A number of the grid under a sign is nearest among all codes when its magnitude is a rounding. -/
theorem q4Code_nearest {v : ℚ} (hv : 0 ≤ v) {k : Nat} (rounds : Rounds (q4Grid ty) false v k) (s : Bool) (c : Nat) :
    let x := if s then -q4Grid ty k else q4Grid ty k
    let q := if s then -v else v
    |x - q| ≤ |q4Code ty c - q| ∧ (|x - q| = |q4Code ty c - q| → q4Code ty c ≠ x → k % 2 = 0) := by
  intro x q
  obtain ⟨t, j, code⟩ := q4Code_grid hty c
  rw [code, abs_sub_same_sign]
  by_cases same : t = s
  · obtain ⟨near, tie⟩ := rounds.nearest j
    subst same
    rw [abs_sub_same_sign]
    exact ⟨near, fun eq ne => tie eq fun e => ne (by rw [e])⟩
  · obtain rfl : t = !s := Bool.eq_not.mpr same
    have zero := q4Grid_zero hty
    have pos : 0 ≤ q4Grid ty j := zero.symm.trans_le ((q4Grid_strictMono hty).monotone j.zero_le)
    obtain ⟨near, tie⟩ := rounds.nearest 0
    rw [zero, zero_sub, abs_neg, abs_of_nonneg hv] at near tie
    rw [abs_sub_other_sign s pos hv]
    refine ⟨by linarith, fun eq _ => ?_⟩
    rcases Nat.eq_zero_or_pos k with rfl | pos
    · rfl
    · exact tie (by linarith) pos.ne

end

/-! ### The nearest code (R56) -/

section
variable {ty : Nat} (hty : ty < 4)
include hty

/-- Whether a magnitude, in eighths, goes past number `l` of the grid. -/
def q4Passes (ty m : Nat) (e : Int) (l : Nat) : Prop :=
  q4Grid ty l + (q4Grid ty (l + 1) - q4Grid ty l) / 2 < mag m (e - 3) ∨
    (q4Grid ty l + (q4Grid ty (l + 1) - q4Grid ty l) / 2 = mag m (e - 3) ∧ (l + 1) % 2 = 0)

theorem q4Passes_down {m : Nat} {e : Int} {i j : Nat} (h : j < i) (p : q4Passes ty m e i) : q4Passes ty m e j := by
  have lower := (q4Grid_strictMono hty) (Nat.lt_succ_self j)
  have upper := (q4Grid_strictMono hty) (Nat.lt_succ_self i)
  have mono : q4Grid ty (j + 1) ≤ q4Grid ty i := (q4Grid_strictMono hty).monotone h
  rcases p with lt | ⟨eq, -⟩
  · exact .inl (by linarith)
  · exact .inl (by linarith)

/-- The search for the nearest magnitude goes past a number exactly when the magnitude passes the midpoint above it. -/
theorem q4Nearest_eq_foldl (nz : ty ≠ 0) (m : Nat) (e : Int) [DecidablePred (q4Passes ty m e)] :
    q4Nearest ty m e = (List.range 7).foldl (fun best l => if q4Passes ty m e l then l + 1 else best) 0 := by
  have value : signed false m (e + 1) = 16 * mag m (e - 3) := by
    rw [signed, if_neg Bool.false_ne_true, mag, mag, show e + 1 = e - 3 + 4 by ring, zpow_add₀ (two_ne_zero (α := ℚ))]
    ring
  refine List.foldl_ext _ _ _ fun best l hl => ?_
  have hl := List.mem_range.mp hl
  have sum : signed false (q4Mag8 ty l + q4Mag8 ty (l + 1)) 0 = 8 * (q4Grid ty l + q4Grid ty (l + 1)) := by
    simp only [signed, mag, Nat.cast_add, q4Mag8_eq hty nz (show l < 8 by omega), q4Mag8_eq hty nz (show l + 1 < 8 by omega),
      Bool.false_eq_true, if_false, zpow_zero]
    ring
  have passes : q4Passes ty m e l ↔ 8 * (q4Grid ty l + q4Grid ty (l + 1)) < 16 * mag m (e - 3) ∨
      (16 * mag m (e - 3) = 8 * (q4Grid ty l + q4Grid ty (l + 1)) ∧ (l + 1) % 2 = 0) := by
    unfold q4Passes
    refine or_congr ⟨fun h => by linarith, fun h => by linarith⟩ (and_congr_left' ⟨fun h => by linarith, fun h => by linarith⟩)
  simp only [FVal.cmp_fin, sum, value, passes]
  rcases lt_trichotomy (16 * mag m (e - 3)) (8 * (q4Grid ty l + q4Grid ty (l + 1))) with lt | eq | gt
  · simp [compare_lt_iff_lt.mpr lt, lt.not_gt, lt.ne]
  · simp [eq]
  · simp [compare_gt_iff_gt.mpr gt, gt]

/-- The index of the nearest magnitude is the number that a rounding to the grid takes. -/
theorem q4Nearest_rounds (nz : ty ≠ 0) (m : Nat) (e : Int) (small : mag m (e - 3) ≤ q4Max ty) :
    Rounds (q4Grid ty) false (mag m (e - 3)) (q4Nearest ty m e) := by
  classical
  obtain ⟨-, passed, rest⟩ := foldl_passed (P := q4Passes ty m e) (fun i j h p => q4Passes_down hty h p) 7
  rw [← q4Nearest_eq_foldl hty nz] at passed rest
  refine rounds_of_midpoints (q4Grid_strictMono hty) (fun l hl => ?_) fun l hl => ?_
  · rcases passed l hl with lt | ⟨eq, even⟩
    · exact ⟨lt.le, fun e => absurd e lt.ne⟩
    · exact ⟨eq.le, fun _ => by omega⟩
  · rcases Nat.lt_or_ge l 7 with low | high
    · have short := rest l hl low
      simp only [q4Passes, not_or, not_lt, not_and] at short
      exact ⟨short.1, fun eq => by have := short.2 eq.symm; omega⟩
    · have mono : q4Grid ty 7 ≤ q4Grid ty l := (q4Grid_strictMono hty).monotone high
      have step := (q4Grid_strictMono hty) (Nat.lt_succ_self l)
      rw [q4Grid_seven hty] at mono
      exact ⟨by linarith, fun eq => by linarith⟩

end

/-! ### The code of one value (R56) -/

theorem abs_signed (s : Bool) (m : Nat) (e : Int) : |signed s m e| = mag m e := by
  cases s <;> simp [signed, mag_nonneg]

theorem signed_div (s : Bool) (m : Nat) (g E : Int) : signed s m g / 2 ^ E = signed s m (g - E) := by
  cases s <;> simp [signed, mag, zpow_sub₀ (two_ne_zero (α := ℚ)), mul_div_assoc, neg_div]

theorem signed_pos {s : Bool} {m : Nat} {e : Int} (h : m ≠ 0) : 0 < signed s m e ↔ s = false := by
  have pos : 0 < mag m e := lt_of_le_of_ne (mag_nonneg m e) fun eq => h (mag_eq_zero.mp eq.symm)
  cases s
  · simpa [signed] using pos
  · simpa [signed] using pos.le

/-- The whole numbers that fit in a code of type 0. -/
theorem wrapBits_code {i : Int} (lo : -8 ≤ i) (hi : i ≤ 7) : (BitVec.ofNat 4 ((IFmt.mk 4 true).wrapBits i)).toInt = i ∧
    (IFmt.mk 4 true).wrapBits i % 2 = i.natAbs % 2 ∧ (i = 0 → (IFmt.mk 4 true).wrapBits i = 0) := by
  interval_cases i <;> decide

section
variable {ty : Nat} (E : Nat) (s : Bool) (m : Nat) (g : Int)

theorem q4Quant_whole : q4Quant 0 E (.fin s m g) =
    if 7 < signed s m (g - ((E : Int) - 32)) then (7, true) else if signed s m (g - ((E : Int) - 32)) < -8 then (8, true)
    else ((IFmt.mk 4 true).wrapBits (if s then -((roundQ false m (g - ((E : Int) - 32)) 0).1 : Int)
      else (roundQ false m (g - ((E : Int) - 32)) 0).1), false) := by
  have seven : signed false 7 0 = 7 := by norm_num [signed, mag]
  have eight : signed true 8 0 = -8 := by norm_num [signed, mag]
  simp only [q4Quant, FVal.cmp_fin, seven, eight, if_true, beq_iff_eq, compare_gt_iff_gt, compare_lt_iff_lt]

variable (hty : ty < 4) (nz : ty ≠ 0)
include hty nz

theorem q4Quant_table : q4Quant ty E (.fin s m g) =
    if q4Max ty < mag m (g - ((E : Int) - 32)) then (if s then 15 else 7, true)
    else (if s && q4Nearest ty m (g - ((E : Int) - 32) + 3) != 0 then 8 + q4Nearest ty m (g - ((E : Int) - 32) + 3)
      else q4Nearest ty m (g - ((E : Int) - 32) + 3), false) := by
  have max : signed false (q4Cmax8 ty) (-3) = q4Max ty := by
    rw [signed, if_neg Bool.false_ne_true, mag_q4Cmax8 hty, neg_add_cancel, zpow_zero, mul_one]
  have value : signed false m (g - ((E : Int) - 32)) = mag m (g - ((E : Int) - 32)) := rfl
  simp only [q4Quant, nz, FVal.absLe, FVal.cmp_fin, max, value, if_false, Bool.not_eq_true', bne_eq_false_iff_eq, compare_gt_iff_gt]

end

section
variable {ty : Nat} (hty : ty < 4) (E : Nat) (s : Bool) (m : Nat) (g : Int)
include hty

/-- A value beyond all codes saturates. -/
theorem q4Quant_beyond (beyond : q4Beyond ty (signed s m g / 2 ^ ((E : Int) - 32))) : q4Quant ty E (.fin s m g) =
    (if ty = 0 then (if 0 < signed s m g / 2 ^ ((E : Int) - 32) then 7 else 8)
      else if 0 < signed s m g / 2 ^ ((E : Int) - 32) then 7 else 15, true) := by
  rw [signed_div] at beyond ⊢
  by_cases zero : ty = 0
  · subst zero
    rw [q4Quant_whole, if_pos rfl]
    rcases (by simpa [q4Beyond] using beyond) with big | small
    · rw [if_pos big, if_pos (by linarith)]
    · rw [if_neg (by linarith), if_pos small, if_neg (by linarith)]
  · have far : q4Max ty < mag m (g - ((E : Int) - 32)) := by simpa [q4Beyond, zero, abs_signed] using beyond
    have hm : m ≠ 0 := fun none => by
      have := (q4Grid_strictMono hty).monotone (Nat.zero_le 7)
      rw [none, mag_zero] at far
      rw [q4Grid_zero hty, q4Grid_seven hty] at this
      linarith
    rw [q4Quant_table E s m g hty zero, if_pos far, if_neg zero]
    cases s
    · rw [if_pos ((signed_pos hm).mpr rfl)]; rfl
    · rw [if_neg (mt (signed_pos hm).mp (by decide))]; rfl

end

/-- The code of a value of sign `s` and magnitude `v` that does not saturate: that of the rounding to the grid, under the sign. -/
def Quantised (ty : Nat) (s : Bool) (v : ℚ) (r : Nat × Bool) : Prop :=
  ∃ k, Rounds (q4Grid ty) false v k ∧ q4Code ty r.1 = (if s then -q4Grid ty k else q4Grid ty k) ∧ r.1 % 2 = k % 2 ∧ (k = 0 → r.1 = 0) ∧
    r.2 = false

/-- The whole number that a magnitude rounds to, in type 0. -/
theorem rounds_whole (m : Nat) (e : Int) : Rounds (q4Grid 0) false (mag m e) (roundQ false m e 0).1 := by
  have whole : q4Grid 0 = fun n => mag n 0 := funext fun n => by simp [q4Grid, mag]
  obtain ⟨n, pick⟩ := roundQ_chooses false m e 0
  refine Chooses.rounds (n := n) (q4Grid_strictMono (by decide)) ?_
  rw [whole]
  exact pick

/-- Of a value from -8 to 7 the rounding is from -8 to 7. -/
theorem rounds_whole_range {s : Bool} {m : Nat} {e : Int} {k : Nat} (rounds : Rounds (q4Grid 0) false (mag m e) k) (lo : -8 ≤ signed s m e)
    (hi : signed s m e ≤ 7) : -8 ≤ (if s then -(k : Int) else k) ∧ (if s then -(k : Int) else k) ≤ 7 := by
  have limit (l : Nat) (lt : l < k) : (l : ℚ) + 1 / 2 ≤ mag m e := by
    obtain ⟨mid, -⟩ := rounds.midpoint_le (q4Grid_strictMono (by decide)) lt
    simp only [q4Grid, if_true] at mid
    push_cast at mid
    linarith
  cases s with
  | false =>
    have : ¬ 7 < k := fun lt => by
      have past := limit 7 lt
      simp only [signed, Bool.false_eq_true, if_false] at hi
      norm_num at past
      linarith
    simp only [Bool.false_eq_true, if_false]
    omega
  | true =>
    have : ¬ 8 < k := fun lt => by
      have past := limit 8 lt
      simp only [signed, if_true] at lo
      norm_num at past
      linarith
    simp only [if_true]
    omega

theorem q4Quant_within_whole (E : Nat) (s : Bool) (m : Nat) (g : Int) (lo : -8 ≤ signed s m (g - ((E : Int) - 32)))
    (hi : signed s m (g - ((E : Int) - 32)) ≤ 7) : Quantised 0 s (mag m (g - ((E : Int) - 32))) (q4Quant 0 E (.fin s m g)) := by
  rw [q4Quant_whole, if_neg (not_lt.mpr hi), if_neg (not_lt.mpr lo)]
  have rounds := rounds_whole m (g - ((E : Int) - 32))
  generalize (roundQ false m (g - ((E : Int) - 32)) 0).1 = k at rounds
  obtain ⟨above, below⟩ := rounds_whole_range rounds lo hi
  obtain ⟨code, parity, null⟩ := wrapBits_code above below
  refine ⟨k, rounds, ?_, ?_, fun hk => null ?_, rfl⟩
  · simp only [q4Code, q4Grid, if_true, code]
    cases s <;> simp
  · rw [parity]
    cases s <;> simp
  · rw [hk]
    cases s <;> rfl

section
variable {ty : Nat} (hty : ty < 4) (E : Nat) (s : Bool) (m : Nat) (g : Int)
include hty

theorem q4Quant_within_table (nz : ty ≠ 0) (near : mag m (g - ((E : Int) - 32)) ≤ q4Max ty) :
    Quantised ty s (mag m (g - ((E : Int) - 32))) (q4Quant ty E (.fin s m g)) := by
  rw [q4Quant_table E s m g hty nz, if_neg (not_lt.mpr near)]
  have small := q4Nearest_lt ty m (g - ((E : Int) - 32) + 3)
  have rounds := q4Nearest_rounds hty nz m (g - ((E : Int) - 32) + 3) (by rwa [add_sub_cancel_right])
  rw [add_sub_cancel_right] at rounds
  generalize q4Nearest ty m (g - ((E : Int) - 32) + 3) = k at rounds small
  refine ⟨k, rounds, ?_, ?_, ?_, rfl⟩
  · rw [q4Code_table hty nz]
    rcases Nat.eq_zero_or_pos k with rfl | pos
    · cases s <;> simp [q4Grid_zero hty]
    · cases s
      · simp [Nat.div_eq_of_lt small, Nat.mod_eq_of_lt small]
      · simp [pos.ne', Nat.div_eq_of_lt small, Nat.mod_eq_of_lt small]
  · dsimp only
    split <;> omega
  · rintro rfl
    cases s <;> rfl

/-- A value that is not beyond the codes takes the nearest magnitude of the grid under its sign. -/
theorem q4Quant_within (within : ¬ q4Beyond ty (signed s m g / 2 ^ ((E : Int) - 32))) :
    Quantised ty s (mag m (g - ((E : Int) - 32))) (q4Quant ty E (.fin s m g)) := by
  rw [signed_div] at within
  by_cases zero : ty = 0
  · subst zero
    obtain ⟨hi, lo⟩ : signed s m (g - ((E : Int) - 32)) ≤ 7 ∧ -8 ≤ signed s m (g - ((E : Int) - 32)) := by simpa [q4Beyond] using within
    exact q4Quant_within_whole E s m g lo hi
  · exact q4Quant_within_table hty E s m g zero (by simpa [q4Beyond, zero, abs_signed] using within)

end

end Sys2Proof.Machine
end

section
/-!
A q4 block read and packed (R53-R56): the value of an element, the smallest exponent that covers the values, their codes, and how many saturate.
-/

open Sys2Proof Sys2Proof.Claims

namespace Sys2Proof.Machine

/-! ### Elements of a block (R54, R55) -/

theorem signed_natAbs (k e : Int) : signed (decide (k < 0)) k.natAbs e = k * 2 ^ e := by
  have pos : (0 : ℚ) < 2 ^ e := by positivity
  rw [signed, mag_natAbs, abs_mul, abs_of_pos pos]
  by_cases neg : k < 0
  · rw [if_pos (decide_eq_true neg), abs_of_neg (by exact_mod_cast neg)]
    ring
  · rw [if_neg (by simpa using neg), abs_of_nonneg (by exact_mod_cast not_lt.mp neg)]

theorem q4Code8_eq {ty c : Nat} (hty : ty < 4) (hc : c < 16) : (q4Code8 ty c : ℚ) = 8 * q4Code ty c := by
  by_cases zero : ty = 0
  · have whole : IFmt.value ⟨4, true⟩ c = (BitVec.ofNat 4 c).toInt := by interval_cases c <;> decide
    rw [q4Code8, q4Code, if_pos zero, if_pos zero, whole]
    push_cast
    rfl
  · rw [q4Code_table hty zero, q4Code8, if_neg zero]
    have index : c % 8 < 8 := Nat.mod_lt c (by decide)
    split
    · rw [Int.cast_neg, Int.cast_natCast, q4Mag8_eq hty zero index]; ring
    · rw [Int.cast_natCast, q4Mag8_eq hty zero index]

theorem q4Value_spec (b i : Nat) :
    let scale : Nat := b / 2 ^ 128 % 256
    (scale % 64 = 63 → q4Value b i = .nan) ∧
    (scale % 64 ≠ 63 → ∃ s m e, q4Value b i = .fin s m e ∧
      signed s m e = q4Code (scale / 64) (b / 2 ^ (4 * i) % 16) * 2 ^ ((scale % 64 : Int) - 32)) := by
  intro scale
  refine ⟨fun top => if_pos top, fun low => ⟨_, _, _, if_neg low, ?_⟩⟩
  have type : scale / 64 < 4 := by
    have : scale < 256 := Nat.mod_lt _ (by decide)
    omega
  have exp : (scale : Int) % 64 - 32 = ((b / 2 ^ 128 % 256 % 64 : Nat) : Int) - 35 + 3 := by
    simp only [scale]
    omega
  rw [signed_natAbs, q4Code8_eq type (Nat.mod_lt _ (by decide)), exp, zpow_add₀ (two_ne_zero (α := ℚ))]
  ring

/-! ### The exponent of a block (R56 step 2) -/

/-- An exponent covers the values of a block. -/
def q4Covers (ty : Nat) (vs : List FVal) (e : Nat) : Prop := ∀ v ∈ vs, ∃ s m g, v = .fin s m g ∧ mag m g ≤ q4Max ty * 2 ^ ((e : Int) - 32)

theorem absLe_iff (v : FVal) (n : Nat) (e : Int) : v.absLe n e = true ↔ ∃ s m g, v = .fin s m g ∧ mag m g ≤ mag n e := by
  cases v with
  | nan => simp [FVal.absLe]
  | inf s => simp [FVal.absLe]
  | fin s m g =>
    have le : (FVal.cmp (.fin false m g) (.fin false n e) != .gt) = true ↔ mag m g ≤ mag n e := by
      rw [FVal.cmp_fin, bne_iff_ne, ne_eq, compare_gt_iff_gt, not_lt]
      rfl
    refine le.trans ⟨fun h => ⟨s, m, g, rfl, h⟩, ?_⟩
    rintro ⟨s', m', g', eq, h⟩
    obtain ⟨rfl, rfl, rfl⟩ := FVal.fin.inj eq
    exact h

theorem all_absLe_iff {ty : Nat} (hty : ty < 4) (vs : List FVal) (e : Nat) :
    (vs.all fun v => v.absLe (q4Cmax8 ty) ((e : Int) - 35)) = true ↔ q4Covers ty vs e := by
  have bound : mag (q4Cmax8 ty) ((e : Int) - 35) = q4Max ty * 2 ^ ((e : Int) - 32) := by
    rw [mag_q4Cmax8 hty]; congr 2; ring
  simp only [List.all_eq_true, absLe_iff, bound, q4Covers]

/-- The search finds the first exponent that covers the values, or the last one. -/
theorem q4Exp_spec {ty : Nat} (hty : ty < 4) (vs : List FVal) (fuel e : Nat) (h : fuel + e = 63) :
    (∀ e', e ≤ e' → e' < q4Exp ty vs fuel e → ¬ q4Covers ty vs e') ∧
      (q4Exp ty vs fuel e < 62 → q4Covers ty vs (q4Exp ty vs fuel e)) := by
  induction fuel generalizing e with
  | zero => exact ⟨fun e' lo hi => absurd hi (by simp only [q4Exp]; omega), fun lt => absurd lt (by simp [q4Exp])⟩
  | succ fuel ih =>
    by_cases all : (vs.all fun v => v.absLe (q4Cmax8 ty) ((e : Int) - 35)) = true
    · rw [q4Exp, if_pos all]
      exact ⟨fun e' lo hi => absurd hi (by omega), fun _ => (all_absLe_iff hty vs e).mp all⟩
    · rw [q4Exp, if_neg all]
      obtain ⟨below, here⟩ := ih (e + 1) (by omega)
      refine ⟨fun e' lo hi => ?_, here⟩
      rcases lo.eq_or_lt with rfl | lt
      · exact mt (all_absLe_iff hty vs e).mpr all
      · exact below e' lt hi

/-! ### How many values saturate (R56 step 4) -/

/-- The entries of a list that meet a condition are as many as their positions. -/
theorem length_filter_eq {α : Type} (p : α → Bool) (l : List α) :
    (l.filter p).length = ((List.range l.length).filter fun i => (l[i]?).any p).length := by
  induction l with
  | nil => rfl
  | cons a l ih =>
    have rest : ((fun i => ((a :: l)[i]?).any p) ∘ Nat.succ) = fun i => (l[i]?).any p := rfl
    rw [List.length_cons, List.range_succ_eq_map, List.filter_cons, List.filter_cons, List.filter_map, rest]
    cases h : p a with
    | true => simp [h, ih]
    | false => simp [h, ih]

/-- The values of a block that saturate at a scale. -/
def q4Saturates (ty E : Nat) (vs : List FVal) (i : Nat) : Prop :=
  (∃ s, vs[i]? = some (.inf s)) ∨ ∃ s m g, vs[i]? = some (.fin s m g) ∧ q4Beyond ty (signed s m g / 2 ^ ((E : Int) - 32))

theorem q4Saturates_iff {ty E : Nat} (hty : ty < 4) {vs : List FVal} (nan : .nan ∉ vs) (i : Nat) :
    ((vs[i]?).any fun v => (q4Quant ty E v).2) = true ↔ q4Saturates ty E vs i := by
  unfold q4Saturates
  cases h : vs[i]? with
  | none => simp
  | some v =>
    cases v with
    | nan => exact absurd (List.mem_of_getElem? h) nan
    | inf s => exact iff_of_true rfl (.inl ⟨s, rfl⟩)
    | fin s m g =>
      by_cases beyond : q4Beyond ty (signed s m g / 2 ^ ((E : Int) - 32))
      · refine iff_of_true ?_ (.inr ⟨s, m, g, rfl, beyond⟩)
        exact congrArg Prod.snd (q4Quant_beyond hty E s m g beyond)
      · refine iff_of_false ?_ ?_
        · obtain ⟨-, -, -, -, -, quiet⟩ := q4Quant_within hty E s m g beyond
          rw [Option.any_some, quiet]
          exact Bool.false_ne_true
        · rintro (⟨s', eq⟩ | ⟨s', m', g', eq, far⟩)
          · cases eq
          · obtain ⟨rfl, rfl, rfl⟩ := FVal.fin.inj (Option.some.inj eq)
            exact beyond far

/-- The positions that saturate are counted. -/
theorem q4Pack_hits {ty E : Nat} (hty : ty < 4) {vs : List FVal} (nan : .nan ∉ vs) (len : vs.length = 32) :
    ∃ hits : List Nat, hits.Nodup ∧ (∀ i, i ∈ hits ↔ i < 32 ∧ q4Saturates ty E vs i) ∧
      ((vs.map (q4Quant ty E)).filter fun c => c.2).length = hits.length := by
  refine ⟨(List.range 32).filter fun i => (vs[i]?).any fun v => (q4Quant ty E v).2, List.nodup_range.filter _, fun i => ?_, ?_⟩
  · rw [List.mem_filter, List.mem_range, q4Saturates_iff hty nan]
  · rw [List.filter_map, List.length_map, length_filter_eq, len]
    rfl

/-! ### A block that is packed (R56) -/

theorem q4Quant_inf (ty E : Nat) (s : Bool) : (q4Quant ty E (.inf s)).1 = if ty = 0 then (if s then 8 else 7) else if s then 15 else 7 := rfl

/-- The code of a finite value. -/
theorem q4Quant_fin {ty : Nat} (hty : ty < 4) (E : Nat) (s : Bool) (m : Nat) (g : Int) :
    let q := signed s m g / 2 ^ ((E : Int) - 32)
    let code := (q4Quant ty E (.fin s m g)).1
    (q4Beyond ty q → code = if ty = 0 then (if 0 < q then 7 else 8) else if 0 < q then 7 else 15) ∧
    (¬ q4Beyond ty q → (q4Code ty code = 0 → code = 0) ∧
      ∀ c < 16, |q4Code ty code - q| ≤ |q4Code ty c - q| ∧
        (|q4Code ty code - q| = |q4Code ty c - q| → q4Code ty c ≠ q4Code ty code → code % 2 = 0)) := by
  intro q code
  refine ⟨fun beyond => congrArg Prod.fst (q4Quant_beyond hty E s m g beyond), fun within => ?_⟩
  obtain ⟨k, rounds, value, parity, null, -⟩ := q4Quant_within hty E s m g within
  have quotient : q = if s then -mag m (g - ((E : Int) - 32)) else mag m (g - ((E : Int) - 32)) := signed_div s m g _
  refine ⟨fun zero => null ?_, fun c _ => ?_⟩
  · rw [value] at zero
    have flat : q4Grid ty k = 0 := by cases s <;> simpa using zero
    exact (q4Grid_strictMono hty).injective (flat.trans (q4Grid_zero hty).symm)
  · rw [show q4Code ty code = _ from value, quotient, show code % 2 = k % 2 from parity]
    exact q4Code_nearest hty (mag_nonneg ..) rounds s c

theorem claims_blockValues : Claims.BlockValues := by
  refine ⟨fun b i _ => q4Value_spec b i, fun ty vs hty len => ⟨q4Pack_nan, fun nan => ?_⟩⟩
  intro r E code covers sat
  have pack : r = _ := q4Pack_values nan
  have small := q4Codes_lt (ty := ty) (exp := q4Exp ty vs 63 0) len
  have least : q4Exp ty vs 63 0 ≤ 62 := q4Exp_le ty vs 63 0 rfl
  have exp : E = q4Exp ty vs 63 0 := by
    rw [show E = r.1 / 2 ^ 128 % 64 from rfl, pack]
    exact block_exp (by omega) small
  have codes (i : Nat) (v : FVal) (at_i : vs[i]? = some v) : code i = (q4Quant ty E v).1 := by
    obtain ⟨lt, rfl⟩ := List.getElem?_eq_some_iff.mp at_i
    rw [show code i = r.1 / 2 ^ (4 * i) % 16 from rfl, pack, exp]
    exact (block_code _ _ (len ▸ lt)).trans (q4Codes_digit ty _ lt)
  obtain ⟨below, here⟩ := q4Exp_spec hty vs 63 0 rfl
  rw [← exp] at least below here
  refine ⟨?_, least, fun e lt => below e (Nat.zero_le e) lt, here, fun i s at_i => ?_, fun i s m g at_i => ?_, ?_⟩
  · rw [pack]
    exact block_type (by omega) small
  · rw [codes i _ at_i, q4Quant_inf]
  · rw [codes i _ at_i]
    exact q4Quant_fin hty E s m g
  · obtain ⟨hits, nodup, mem, count⟩ := q4Pack_hits (E := E) hty nan len
    refine ⟨hits, nodup, mem, ?_⟩
    rw [pack, ← exp, ← count]

/-- Settles O21: conversions round the exact value once, and a block's codes are roundings to the grid of its type's magnitudes. -/
theorem conversionsAndBlocks : Obligations.ConversionsAndBlocks :=
  ⟨claims_conversions, claims_blocks, claims_conversionValues, claims_blockValues⟩

end Sys2Proof.Machine
end
